-- ==== Sys2Proof/Word.lean ====
section
/-! DEFINITION. The word types of the L9 (R4, R5, R23, R24, R110) and their plainest arithmetic. -/

namespace Sys2Proof

/-- A byte of memory. -/
abbrev Byte := BitVec 8

/-- A 32-bit lane register, uniform register or instruction word. -/
abbrev Word := BitVec 32

/-- A 64-bit value: an address, %tc, %astat, a queue entry. -/
abbrev DWord := BitVec 64

/-- An owner label: a handle into the VD's label table (R24). -/
abbrev Label := BitVec 8

/-- An owner set: bit n stands for owner n (R23). -/
abbrev OwnerSet := BitVec 64

/-- A mask of the 32 lanes of a warp (R12). -/
abbrev LaneMask := BitVec 32

end Sys2Proof
end

