-- ==== Sys2Proof/Config.lean ====
section
/-! DEFINITION. What the spec leaves to a part and does not state: constants with no body, so that no proof can see a value. -/

namespace Sys2Proof

/-- Whether an SLH-DSA-SHAKE-256s signature over a message verifies under a public key (FIPS 205, which the spec cites and does
not state; R43, R403, R407, R409). -/
opaque Config.sigValid : (key msg sig : List Byte) → Bool

/-- The signature of the device attestation key over a message, 29,792 bytes (R380, R409). -/
opaque Config.attestSign : (msg : List Byte) → List Byte

/-- The device attestation public key (R380). -/
opaque Config.attestKey : List Byte

/-- Jexmond's image key (R409). -/
opaque Config.imageKey : List Byte

/-- Jexmond's life-cycle key (R407). -/
opaque Config.lifeKey : List Byte

/-- The opaque ticket of the n-th migration that this package starts (R375). -/
opaque Config.ticket : Nat → BitVec 128

/-- The n-th value that the spec leaves open. -/
opaque Config.freeWord : Nat → Word

/-- A line that a switch fetches from a home on another package (R279): its 64 bytes, the owner set of its granule label, whether
its page floats, and the owner set of the ceiling. The peer's memory lies outside this model. -/
opaque Config.peerLine : (package va n : Nat) → List Byte × OwnerSet × Bool × OwnerSet

end Sys2Proof
end

