-- ==== Sys2Proof/Machine/Bits.lean ====
section
/-! DEFINITION. Bit fields, byte order and sparse maps: the helpers that every later file of the model uses (R4, R5). -/

namespace Sys2Proof.Machine

open Sys2Proof

/-- The `n` bits of `w` from bit `lo` up, as a number. -/
def bitsN (w lo n : Nat) : Nat := (w >>> lo) % 2 ^ n

/-- Bit `i` of `w`, for `w` read as a number. -/
def bitN (w i : Nat) : Bool := (w >>> i) % 2 == 1

/-- The field of `n` bits of `w` from bit `lo` up (R5). -/
abbrev field {m : Nat} (w : BitVec m) (lo n : Nat) : BitVec n := w.extractLsb' lo n

/-- `x` extended with its sign from `n` bits to `m` (R109 `sext`). -/
abbrev sext {n : Nat} (x : BitVec n) (m : Nat) : BitVec m := x.signExtend m

/-- `x` extended with zeros to `m` bits (R109 `zext`). -/
abbrev zext {n : Nat} (x : BitVec n) (m : Nat) : BitVec m := x.zeroExtend m

/-- The pair `hi`:`lo` of two registers, bits [31:0] in the lower one (R110). -/
def pair (hi lo : Word) : DWord := hi ++ lo

/-- The low word of a 64-bit value. -/
def lo32 (x : DWord) : Word := x.truncate 32

/-- The high word of a 64-bit value. -/
def hi32 (x : DWord) : Word := (x >>> 32).truncate 32

/-- Byte `k` of a value, the least significant byte being byte 0 (R5: little-endian). -/
def byteOf {m : Nat} (x : BitVec m) (k : Nat) : Byte := x.extractLsb' (8 * k) 8

/-- The `n` bytes of a value, least significant first (R5). -/
def toBytes {m : Nat} (x : BitVec m) (n : Nat) : List Byte := (List.range n).map (byteOf x)

/-- The number whose little-endian bytes are `bs` (R5). -/
def ofBytesN : List Byte → Nat
  | [] => 0
  | b :: bs => b.toNat + 256 * ofBytesN bs

/-- The value of `m` bits whose little-endian bytes are `bs` (R5). -/
def ofBytes (m : Nat) (bs : List Byte) : BitVec m := BitVec.ofNat m (ofBytesN bs)

/-- The bytes of `bs` from `i` on, `n` of them; a missing byte reads as zero. -/
def slice (bs : List Byte) (i n : Nat) : List Byte :=
  (List.range n).map (fun k => (bs[i + k]?).getD 0)

/-- The `n`-byte little-endian number at byte `i` of `bs`. -/
def leAt (bs : List Byte) (i n : Nat) : Nat := ofBytesN (slice bs i n)

/-- Whether bit `i` of a lane mask is set. -/
def hasLane (m : LaneMask) (i : Nat) : Bool := m.getLsbD i

/-- The mask with the one bit `i`. -/
def laneBit (i : Nat) : LaneMask := 1#32 <<< i

/-- The lanes of a mask in ascending order (R109: `for each lane i in m`). -/
def lanesOf (m : LaneMask) : List Nat := (List.range 32).filter (hasLane m)

/-- The lowest lane of a mask. -/
def lowestLane (m : LaneMask) : Option Nat := (lanesOf m).head?

/-- The mask of the lanes below `n`. -/
def lanesBelow (n : Nat) : LaneMask := BitVec.ofNat 32 (2 ^ (min n 32) - 1)

/-- The mask of the lanes of a list that satisfy `f`. -/
def maskOf (f : Nat → Bool) : LaneMask :=
  (List.range 32).foldl (fun m i => if f i then m ||| laneBit i else m) 0#32

/-- The number of set bits of a number below `2 ^ n`. -/
def popN (n w : Nat) : Nat := ((List.range n).filter (bitN w)).length

/-- The exclusive-or of the low `n` bits of a number (R85: parity). -/
def parityN (n w : Nat) : Bool := popN n w % 2 == 1

/-- The smallest multiple of `k` not below `n`. -/
def roundUp (n k : Nat) : Nat := (n + k - 1) / k * k

/-- Whether `n` is a multiple of `k`. -/
def multipleOf (n k : Nat) : Bool := n % k == 0

/-! Sparse maps: a list of keys and values, keys strictly rising, no entry holding the default value. -/

/-- A map from numbers, listed where it differs from its default. -/
abbrev SMap (α : Type) := List (Nat × α)

/-- The value at key `k`, `dflt` where nothing is listed. -/
def SMap.get {α : Type} (dflt : α) : SMap α → Nat → α
  | [], _ => dflt
  | (j, v) :: m, k => if j = k then v else SMap.get dflt m k

/-- Remove key `k`. -/
def SMap.erase {α : Type} : SMap α → Nat → SMap α
  | [], _ => []
  | (j, v) :: m, k => if j = k then SMap.erase m k else (j, v) :: SMap.erase m k

/-- List `v` at key `k`, keeping the keys in rising order. -/
def SMap.put {α : Type} : SMap α → Nat → α → SMap α
  | [], k, v => [(k, v)]
  | (j, u) :: m, k, v =>
    if k < j then (k, v) :: (j, u) :: m
    else if k = j then (k, v) :: m
    else (j, u) :: SMap.put m k v

/-- Set key `k` to `v`; setting it to the default removes the entry. -/
def SMap.set {α : Type} [DecidableEq α] (dflt : α) (m : SMap α) (k : Nat) (v : α) : SMap α :=
  if v = dflt then m.erase k else m.put k v

/-- The value at key `k`, where one is listed. -/
def SMap.get? {α : Type} : SMap α → Nat → Option α
  | [], _ => none
  | (j, v) :: m, k => if j = k then some v else SMap.get? m k

/-- Keys strictly rise above `lo`, and no listed value is the default. -/
def SMap.wfAbove {α : Type} [DecidableEq α] (dflt : α) : Nat → SMap α → Bool
  | _, [] => true
  | lo, (k, v) :: m => decide (lo ≤ k) && decide (v ≠ dflt) && SMap.wfAbove dflt (k + 1) m

/-- The canonical form of a sparse map. -/
def SMap.wf {α : Type} [DecidableEq α] (dflt : α) (m : SMap α) : Bool := m.wfAbove dflt 0

/-- Drop every key from `lo` up to, not including, `hi`. -/
def SMap.dropRange {α : Type} (m : SMap α) (lo hi : Nat) : SMap α :=
  m.filter (fun e => decide (e.1 < lo) || decide (hi ≤ e.1))

/-- The entries with keys from `lo` up to, not including, `hi`. -/
def SMap.inRange {α : Type} (m : SMap α) (lo hi : Nat) : SMap α :=
  m.filter (fun e => decide (lo ≤ e.1) && decide (e.1 < hi))

/-- Insert into a list sorted by a key. -/
def insertOn {α : Type} (f : α → Nat) (x : α) : List α → List α
  | [] => [x]
  | y :: ys => if f x < f y then x :: y :: ys else y :: insertOn f x ys

/-- Sort by a key; elements of equal keys keep their order. -/
def sortOn {α : Type} (f : α → Nat) (xs : List α) : List α := xs.foldl (fun acc x => insertOn f x acc) []

/-- Replace the list element at position `i`. -/
def setAt {α : Type} : List α → Nat → α → List α
  | [], _, _ => []
  | _ :: xs, 0, v => v :: xs
  | x :: xs, i + 1, v => x :: setAt xs i v

/-- Replace the list element at position `i`; a position beyond the end is reached over `d`. -/
def setPad {α : Type} (d : α) : List α → Nat → α → List α
  | [], 0, v => [v]
  | [], i + 1, v => d :: setPad d [] i v
  | _ :: xs, 0, v => v :: xs
  | x :: xs, i + 1, v => x :: setPad d xs i v

end Sys2Proof.Machine
end

