-- ==== Sys2Proof/Syntax.lean ====
section
/-! DEFINITION. The syntax of the L9: the words of an instruction group (R86, R88, R90, R91, R94), what the host and the other
agents bring to a step, and the one inductive of all operations. -/

namespace Sys2Proof

/-- The length classes of R86. -/
inductive Len where
  | w32 | w64 | w96
  deriving DecidableEq, Repr

/-- The fields of an instruction's first word above the opcode (R88): capture latch [31:30], write-back suppress [29], last-use
bits [28] and [27], and the three six-bit fields B [26:21], A [20:15] and dest [14:9]. -/
structure W0 where
  latch : BitVec 2
  wbs : Bool
  luB : Bool
  luA : Bool
  b : BitVec 6
  a : BitVec 6
  d : BitVec 6
  deriving DecidableEq, Repr

/-- The second word (R90): immediate or modifiers [31:16], role [15:14], main index [13:6], source C [5:0]. -/
structure W1 where
  hi : BitVec 16
  role : BitVec 2
  main : BitVec 8
  c : BitVec 6
  deriving DecidableEq, Repr

/-- The rounding modes of R115. -/
inductive Rnd where
  | rne | rtz | rup | rdn | rna | sr
  deriving DecidableEq, Repr

/-- The saturation modes of R115. -/
inductive Sat where
  | none | range | unit | signed
  deriving DecidableEq, Repr

/-- PFX.RS (R95): rounding, flush-to-zero, saturation and the number of the stochastic-rounding key pair. -/
structure PfxRS where
  rnd : Rnd
  ftz : Bool
  sat : Sat
  key : BitVec 4
  deriving DecidableEq, Repr

/-- PFX.K (R96): the predicate register and its inversion. -/
structure PfxK where
  n : BitVec 3
  inv : Bool
  deriving DecidableEq, Repr

/-- PFX.Z (R97): the permissive bit and the member-mask register, where one is named. -/
structure PfxZ where
  z : Bool
  member : Option (BitVec 3)
  deriving DecidableEq, Repr

/-- The modifiers of a group's run of PFX words (R94 to R98). PFX.X is the page of the opcode and so the constructor itself. -/
structure Pfx where
  rs : Option PfxRS
  k : Option PfxK
  z : Option PfxZ
  deriving DecidableEq, Repr

/-- No PFX word. -/
def Pfx.none : Pfx := ⟨.none, .none, .none⟩

/-- Why a run of PFX words traps (R94, R95, R97, R98, R99). -/
inductive RunFault where
  /-- an orphaned run: ORPHAN -/
  | orphan
  /-- a reserved kind or field, a third PFX word or a repeated kind: ILLEGAL -/
  | malformed
  deriving DecidableEq, Repr

/-- The identity of a requester at the host port (R400). -/
abbrev Req := BitVec 16

/-- What a peer package answers for one lane or word that this package sent to it (R277, R268): the cause of a failure, and
otherwise the value read with the owner sets of its label. The peer is outside the model, so its answer is an input. -/
structure PeerReply where
  fail : Option (BitVec 6)
  value : List Word
  owners : OwnerSet
  deriving DecidableEq, Repr

/-- What the host gives when it creates an episode (R302): identifier, die, core, VD, step budget, entry address, the pages of
its address space (virtual page number of 4 KiB, physical page number) and the mailbox pages (virtual page number, mailbox). -/
structure EpisodeArgs where
  die : Nat
  id : Nat
  core : Nat
  vd : Nat
  budget : Nat
  entry : DWord
  pages : List (Nat × Nat)
  mailboxes : List (Nat × Nat)
  deriving DecidableEq, Repr

/-- What VDCREATE is given (R23, R24, R403): the VD number, its creation serial, the named owners with their registered keys,
and the handles to install. -/
structure VdArgs where
  vd : Nat
  keys : List (Nat × List Byte)
  handles : List (Nat × OwnerSet)
  deriving DecidableEq, Repr

/-- What MIGIN is given and receives (R375, R376): the ticket, the target VD, its partition entries, its slices, and whether the
stream arrived whole and authenticated. -/
structure MigInArgs where
  ticket : BitVec 128
  vd : Nat
  partitions : List (Nat × Nat)
  slices : List Nat
  intact : Bool
  deriving DecidableEq, Repr

/-- Where an uncorrectable error strikes (R386). -/
inductive ErrSite where
  /-- a lane of register number `r` of the operand file -/
  | operand (w r lane : Nat)
  /-- a lane of a main-file register -/
  | main (w r lane : Nat)
  /-- a lane of a latch -/
  | latch (w r lane : Nat)
  /-- a uniform register -/
  | uniform (w r : Nat)
  /-- an accumulator row of a quadrant -/
  | accumulator (quad row : Nat)
  /-- a 32-bit scratchpad word of a block -/
  | scratchpad (g block off : Nat)
  /-- a die-cache data word: dropped and fetched again -/
  | cacheData (die : Nat) (pa : Nat)
  /-- die-cache tags, label join unit or die distributor, by channel -/
  | dieUnit (die channel : Nat)
  /-- an HBM line -/
  | hbmLine (pa : Nat)
  /-- a warp's split, estate or queue entry -/
  | warpState (w : Nat)
  /-- a warp's cue buffer -/
  | cueBuffer (w : Nat)
  /-- a weld link after sixteen failed retries, at its receiving die -/
  | weld (die : Nat)
  deriving DecidableEq, Repr

/-- What the host or the debugger kills (R331, R359). -/
inductive KillTarget where
  | warp (serial : Nat)
  | grid (serial : Nat)
  deriving DecidableEq, Repr

/-- The masters that a violation freezes (R410). -/
inductive Master where
  | vdWindow (vd : Nat)
  | poleile (die core : Nat)
  | peer (port : Nat)
  | migration (ticket : BitVec 128)
  deriving DecidableEq, Repr

/-- What causes a reset (R411). -/
inductive ResetCause where
  | powerOn
  | resetctl (req : Req) (v : DWord)
  deriving DecidableEq, Repr

/-- How a bring-up phase ends (R411): complete, with the dies whose weld links failed to train in phase 5, or failed with an
error code and the die at fault. -/
inductive PhaseResult where
  | done (fenced : List Nat)
  | failed (code die : Nat)
  deriving DecidableEq, Repr

/-- The operations and events of the L9, one constructor per row of the operation table (R104, R105, and the step list of
chapter 95). The first 283 are warp instructions, each with the words of its group; the others are the steps of the
engines and of the host, each with what the acting agent brings to it. -/
inductive Instr where
  /-- R106. The all-zero word does nothing, with no label effect and no trap. -/
  | nop
  /-- R150. Adds two 32-bit sources per lane, wrapping or range-saturating. -/
  | iadd_32 (p : Pfx) (w : W0)
  /-- R150. 64-bit form of IADD, with a 16-bit immediate or main-file role. -/
  | iadd_64 (p : Pfx) (w : W0) (x : W1)
  /-- R150. 96-bit form of IADD, with a 32-bit literal. -/
  | iadd_96 (p : Pfx) (w : W0) (x : W1) (lit : Word)
  /-- R150. Subtracts b from a per lane. -/
  | isub_32 (p : Pfx) (w : W0)
  /-- R150. 64-bit form of ISUB. -/
  | isub_64 (p : Pfx) (w : W0) (x : W1)
  /-- R150. 96-bit form of ISUB. -/
  | isub_96 (p : Pfx) (w : W0) (x : W1) (lit : Word)
  /-- R150. Adds with carry in and carry out through the lane's bit of k0. -/
  | iaddc_32 (p : Pfx) (w : W0)
  /-- R150. 64-bit form of IADDC naming the carry register and first flag. -/
  | iaddc_64 (p : Pfx) (w : W0) (x : W1)
  /-- R150. 96-bit form of IADDC. -/
  | iaddc_96 (p : Pfx) (w : W0) (x : W1) (lit : Word)
  /-- R150. Multiplies a by b per lane, low 32 bits. -/
  | imul_32 (p : Pfx) (w : W0)
  /-- R150. 64-bit form of IMUL. -/
  | imul_64 (p : Pfx) (w : W0) (x : W1)
  /-- R150. 96-bit form of IMUL. -/
  | imul_96 (p : Pfx) (w : W0) (x : W1) (lit : Word)
  /-- R150. Returns the high 32 bits of the product. -/
  | imulh_32 (p : Pfx) (w : W0)
  /-- R150. 64-bit form of IMULH. -/
  | imulh_64 (p : Pfx) (w : W0) (x : W1)
  /-- R150. 96-bit form of IMULH. -/
  | imulh_96 (p : Pfx) (w : W0) (x : W1) (lit : Word)
  /-- R150. Computes a times b plus c modulo 2^32, c read from the destination. -/
  | imad_32 (p : Pfx) (w : W0)
  /-- R150. 64-bit form of IMAD with source C. -/
  | imad_64 (p : Pfx) (w : W0) (x : W1)
  /-- R150. 96-bit form of IMAD. -/
  | imad_96 (p : Pfx) (w : W0) (x : W1) (lit : Word)
  /-- R150. Wide multiply-add into a 64-bit register pair. -/
  | imadw_32 (p : Pfx) (w : W0)
  /-- R150. 64-bit form of IMADW. -/
  | imadw_64 (p : Pfx) (w : W0) (x : W1)
  /-- R150. 96-bit form of IMADW. -/
  | imadw_96 (p : Pfx) (w : W0) (x : W1) (lit : Word)
  /-- R150. Lesser of a and b by the type. -/
  | imin_32 (p : Pfx) (w : W0)
  /-- R150. 64-bit form of IMIN. -/
  | imin_64 (p : Pfx) (w : W0) (x : W1)
  /-- R150. 96-bit form of IMIN. -/
  | imin_96 (p : Pfx) (w : W0) (x : W1) (lit : Word)
  /-- R150. Greater of a and b by the type. -/
  | imax_32 (p : Pfx) (w : W0)
  /-- R150. 64-bit form of IMAX. -/
  | imax_64 (p : Pfx) (w : W0) (x : W1)
  /-- R150. 96-bit form of IMAX. -/
  | imax_96 (p : Pfx) (w : W0) (x : W1) (lit : Word)
  /-- R150. Bitwise and. -/
  | and_32 (p : Pfx) (w : W0)
  /-- R150. 64-bit form of AND. -/
  | and_64 (p : Pfx) (w : W0) (x : W1)
  /-- R150. 96-bit form of AND. -/
  | and_96 (p : Pfx) (w : W0) (x : W1) (lit : Word)
  /-- R150. Bitwise or. -/
  | or_32 (p : Pfx) (w : W0)
  /-- R150. 64-bit form of OR. -/
  | or_64 (p : Pfx) (w : W0) (x : W1)
  /-- R150. 96-bit form of OR. -/
  | or_96 (p : Pfx) (w : W0) (x : W1) (lit : Word)
  /-- R150. Bitwise exclusive or. -/
  | xor_32 (p : Pfx) (w : W0)
  /-- R150. 64-bit form of XOR. -/
  | xor_64 (p : Pfx) (w : W0) (x : W1)
  /-- R150. 96-bit form of XOR. -/
  | xor_96 (p : Pfx) (w : W0) (x : W1) (lit : Word)
  /-- R150. a and not b. -/
  | andn_32 (p : Pfx) (w : W0)
  /-- R150. 64-bit form of ANDN. -/
  | andn_64 (p : Pfx) (w : W0) (x : W1)
  /-- R150. 96-bit form of ANDN. -/
  | andn_96 (p : Pfx) (w : W0) (x : W1) (lit : Word)
  /-- R150. Applies an 8-entry function table bit by bit to three sources. -/
  | bool3_64 (p : Pfx) (w : W0) (x : W1)
  /-- R150. 96-bit form of BOOL3. -/
  | bool3_96 (p : Pfx) (w : W0) (x : W1) (lit : Word)
  /-- R150. Logical shift left. -/
  | shl_32 (p : Pfx) (w : W0)
  /-- R150. 64-bit form of SHL. -/
  | shl_64 (p : Pfx) (w : W0) (x : W1)
  /-- R150. 96-bit form of SHL. -/
  | shl_96 (p : Pfx) (w : W0) (x : W1) (lit : Word)
  /-- R150. Logical shift right. -/
  | shr_32 (p : Pfx) (w : W0)
  /-- R150. 64-bit form of SHR. -/
  | shr_64 (p : Pfx) (w : W0) (x : W1)
  /-- R150. 96-bit form of SHR. -/
  | shr_96 (p : Pfx) (w : W0) (x : W1) (lit : Word)
  /-- R150. Arithmetic shift right. -/
  | sar_32 (p : Pfx) (w : W0)
  /-- R150. 64-bit form of SAR. -/
  | sar_64 (p : Pfx) (w : W0) (x : W1)
  /-- R150. 96-bit form of SAR. -/
  | sar_96 (p : Pfx) (w : W0) (x : W1) (lit : Word)
  /-- R150. Rotate left. -/
  | rot_32 (p : Pfx) (w : W0)
  /-- R150. 64-bit form of ROT. -/
  | rot_64 (p : Pfx) (w : W0) (x : W1)
  /-- R150. 96-bit form of ROT. -/
  | rot_96 (p : Pfx) (w : W0) (x : W1) (lit : Word)
  /-- R150. Funnel shift of the pair c:a. -/
  | shf_32 (p : Pfx) (w : W0)
  /-- R150. 64-bit form of SHF with direction. -/
  | shf_64 (p : Pfx) (w : W0) (x : W1)
  /-- R150. 96-bit form of SHF. -/
  | shf_96 (p : Pfx) (w : W0) (x : W1) (lit : Word)
  /-- R150. Bitfield extract. -/
  | bfx_32 (p : Pfx) (w : W0)
  /-- R150. 64-bit form of BFX. -/
  | bfx_64 (p : Pfx) (w : W0) (x : W1)
  /-- R150. 96-bit form of BFX. -/
  | bfx_96 (p : Pfx) (w : W0) (x : W1) (lit : Word)
  /-- R150. Bitfield insert into c. -/
  | bfi_32 (p : Pfx) (w : W0)
  /-- R150. 64-bit form of BFI. -/
  | bfi_64 (p : Pfx) (w : W0) (x : W1)
  /-- R150. 96-bit form of BFI. -/
  | bfi_96 (p : Pfx) (w : W0) (x : W1) (lit : Word)
  /-- R150. Byte permute of c:a by selector b. -/
  | prmt_32 (p : Pfx) (w : W0)
  /-- R150. 64-bit form of PRMT. -/
  | prmt_64 (p : Pfx) (w : W0) (x : W1)
  /-- R150. 96-bit form of PRMT. -/
  | prmt_96 (p : Pfx) (w : W0) (x : W1) (lit : Word)
  /-- R151. Integer compare writing the lane's bit of a mask register. -/
  | icmp_32 (p : Pfx) (w : W0)
  /-- R151. 64-bit form of ICMP reaching all condition codes. -/
  | icmp_64 (p : Pfx) (w : W0) (x : W1)
  /-- R151. 96-bit form of ICMP. -/
  | icmp_96 (p : Pfx) (w : W0) (x : W1) (lit : Word)
  /-- R150. Selects a or b by the lane's bit of k0. -/
  | isel_32 (p : Pfx) (w : W0)
  /-- R150. 64-bit form of ISEL naming the select register. -/
  | isel_64 (p : Pfx) (w : W0) (x : W1)
  /-- R150. 96-bit form of ISEL. -/
  | isel_96 (p : Pfx) (w : W0) (x : W1) (lit : Word)
  /-- R150. Adds a shifted index to a 64-bit address pair. -/
  | lea_32 (p : Pfx) (w : W0)
  /-- R150. 64-bit form of LEA with shift and type. -/
  | lea_64 (p : Pfx) (w : W0) (x : W1)
  /-- R150. 96-bit form of LEA. -/
  | lea_96 (p : Pfx) (w : W0) (x : W1) (lit : Word)
  /-- R153. FP32 addition with one rounding. -/
  | fadd_32 (p : Pfx) (w : W0)
  /-- R153. 64-bit form of FADD. -/
  | fadd_64 (p : Pfx) (w : W0) (x : W1)
  /-- R153. 96-bit form of FADD. -/
  | fadd_96 (p : Pfx) (w : W0) (x : W1) (lit : Word)
  /-- R153. FP32 multiplication. -/
  | fmul_32 (p : Pfx) (w : W0)
  /-- R153. 64-bit form of FMUL. -/
  | fmul_64 (p : Pfx) (w : W0) (x : W1)
  /-- R153. 96-bit form of FMUL. -/
  | fmul_96 (p : Pfx) (w : W0) (x : W1) (lit : Word)
  /-- R153. FP32 fused multiply-add. -/
  | ffma_32 (p : Pfx) (w : W0)
  /-- R153. 64-bit form of FFMA. -/
  | ffma_64 (p : Pfx) (w : W0) (x : W1)
  /-- R153. 96-bit form of FFMA. -/
  | ffma_96 (p : Pfx) (w : W0) (x : W1) (lit : Word)
  /-- R153. FP32 minimumNumber. -/
  | fmin_32 (p : Pfx) (w : W0)
  /-- R153. 64-bit form of FMIN. -/
  | fmin_64 (p : Pfx) (w : W0) (x : W1)
  /-- R153. 96-bit form of FMIN. -/
  | fmin_96 (p : Pfx) (w : W0) (x : W1) (lit : Word)
  /-- R153. FP32 maximumNumber. -/
  | fmax_32 (p : Pfx) (w : W0)
  /-- R153. 64-bit form of FMAX. -/
  | fmax_64 (p : Pfx) (w : W0) (x : W1)
  /-- R153. 96-bit form of FMAX. -/
  | fmax_96 (p : Pfx) (w : W0) (x : W1) (lit : Word)
  /-- R154. FP32 compare into a mask register bit. -/
  | fcmp_32 (p : Pfx) (w : W0)
  /-- R154. 64-bit form of FCMP. -/
  | fcmp_64 (p : Pfx) (w : W0) (x : W1)
  /-- R154. 96-bit form of FCMP. -/
  | fcmp_96 (p : Pfx) (w : W0) (x : W1) (lit : Word)
  /-- R156. Packed half addition. -/
  | hadd2_32 (p : Pfx) (w : W0)
  /-- R156. 64-bit form of HADD2 with type. -/
  | hadd2_64 (p : Pfx) (w : W0) (x : W1)
  /-- R156. 96-bit form of HADD2. -/
  | hadd2_96 (p : Pfx) (w : W0) (x : W1) (lit : Word)
  /-- R156. Packed half multiplication. -/
  | hmul2_32 (p : Pfx) (w : W0)
  /-- R156. 64-bit form of HMUL2. -/
  | hmul2_64 (p : Pfx) (w : W0) (x : W1)
  /-- R156. 96-bit form of HMUL2. -/
  | hmul2_96 (p : Pfx) (w : W0) (x : W1) (lit : Word)
  /-- R156. Packed half fused multiply-add. -/
  | hfma2_32 (p : Pfx) (w : W0)
  /-- R156. 64-bit form of HFMA2. -/
  | hfma2_64 (p : Pfx) (w : W0) (x : W1)
  /-- R156. 96-bit form of HFMA2. -/
  | hfma2_96 (p : Pfx) (w : W0) (x : W1) (lit : Word)
  /-- R156. Packed half minimum. -/
  | hmin2_32 (p : Pfx) (w : W0)
  /-- R156. 64-bit form of HMIN2. -/
  | hmin2_64 (p : Pfx) (w : W0) (x : W1)
  /-- R156. 96-bit form of HMIN2. -/
  | hmin2_96 (p : Pfx) (w : W0) (x : W1) (lit : Word)
  /-- R156. Packed half maximum. -/
  | hmax2_32 (p : Pfx) (w : W0)
  /-- R156. 64-bit form of HMAX2. -/
  | hmax2_64 (p : Pfx) (w : W0) (x : W1)
  /-- R156. 96-bit form of HMAX2. -/
  | hmax2_96 (p : Pfx) (w : W0) (x : W1) (lit : Word)
  /-- R154. Packed half compare writing all-ones or zero per half. -/
  | hcmp2_32 (p : Pfx) (w : W0)
  /-- R154. 64-bit form of HCMP2 with type and code. -/
  | hcmp2_64 (p : Pfx) (w : W0) (x : W1)
  /-- R154. 96-bit form of HCMP2. -/
  | hcmp2_96 (p : Pfx) (w : W0) (x : W1) (lit : Word)
  /-- R159. Converts between formats of codes 0 to 7. -/
  | cvt_32 (p : Pfx) (w : W0)
  /-- R159. Converts between any formats of R157. -/
  | cvt_64 (p : Pfx) (w : W0) (x : W1)
  /-- R160. Packs two FP32 values into FP16 elements of d. -/
  | cvtp_32 (p : Pfx) (w : W0)
  /-- R160. Packs two FP32 values into narrow elements at position j. -/
  | cvtp_64 (p : Pfx) (w : W0) (x : W1)
  /-- R161. Unpacks element j of a narrow format to FP32. -/
  | cvtu_32 (p : Pfx) (w : W0)
  /-- R161. 64-bit form of CVTU. -/
  | cvtu_64 (p : Pfx) (w : W0) (x : W1)
  /-- R162. Multiplies an FP32 value by an E8M0 scale byte 0. -/
  | scl_32 (p : Pfx) (w : W0)
  /-- R162. Scales FP32 or packed halves by a chosen scale byte. -/
  | scl_64 (p : Pfx) (w : W0) (x : W1)
  /-- R163. Two-element dot product added to C. -/
  | dot2_32 (p : Pfx) (w : W0)
  /-- R163. 64-bit form of DOT2 with element types. -/
  | dot2_64 (p : Pfx) (w : W0) (x : W1)
  /-- R163. Four-element dot product added to C. -/
  | dot4_32 (p : Pfx) (w : W0)
  /-- R163. 64-bit form of DOT4 with element types. -/
  | dot4_64 (p : Pfx) (w : W0) (x : W1)
  /-- R163. Eight-element dot product added to C. -/
  | dot8_32 (p : Pfx) (w : W0)
  /-- R163. 64-bit form of DOT8 with element types. -/
  | dot8_64 (p : Pfx) (w : W0) (x : W1)
  /-- R164. Moves a main-file register to an operand register. -/
  | movo (p : Pfx) (w : W0) (x : W1)
  /-- R164. Moves a source into a main-file register. -/
  | movm (p : Pfx) (w : W0) (x : W1)
  /-- R164. Broadcasts a uniform register to every lane. -/
  | movu_32 (p : Pfx) (w : W0)
  /-- R164. MOVU into a main-file register. -/
  | movu_64 (p : Pfx) (w : W0) (x : W1)
  /-- R164. Sets each lane's mask bit from whether its source is non-zero. -/
  | movk_to_mask (p : Pfx) (w : W0)
  /-- R164. Copies a whole mask register into each lane. -/
  | movk_from_mask (p : Pfx) (w : W0)
  /-- R164. Loads a 16-bit immediate. -/
  | ldi_64 (p : Pfx) (w : W0) (x : W1)
  /-- R164. Loads a 32-bit literal. -/
  | ldi_96 (p : Pfx) (w : W0) (x : W1) (lit : Word)
  /-- R168. Direct branch, conditional ones splitting the sub-warp. -/
  | bra_64 (p : Pfx) (w : W0) (x : W1)
  /-- R168. Direct branch with a 32-bit target displacement. -/
  | bra_96 (p : Pfx) (w : W0) (x : W1) (lit : Word)
  /-- R169. Indirect branch through a jump table to tagged PADs. -/
  | brx (p : Pfx) (w : W0) (x : W1)
  /-- R169. Landing pad; a no-op when reached in sequence. -/
  | pad (p : Pfx) (w : W0)
  /-- R170. Direct call pushing the return PC and path label. -/
  | call_64 (p : Pfx) (w : W0) (x : W1)
  /-- R170. Direct call with a 32-bit displacement. -/
  | call_96 (p : Pfx) (w : W0) (x : W1) (lit : Word)
  /-- R170. Indirect call through a jump table. -/
  | callx (p : Pfx) (w : W0) (x : W1)
  /-- R170. Pops the return stack and jumps. -/
  | ret (p : Pfx) (w : W0)
  /-- R171. Ends the lanes that are on; the last ends the warp. -/
  | exit (p : Pfx) (w : W0)
  /-- R174. Snapshots registers and opens an uncommitted region. -/
  | cue_64 (p : Pfx) (w : W0) (x : W1)
  /-- R174. CUE with uniform and main-file register bitmaps. -/
  | cue_96 (p : Pfx) (w : W0) (x : W1) (lit : Word)
  /-- R173. Takes SWTRAP with a 12-bit code. -/
  | trap_32 (p : Pfx) (w : W0)
  /-- R173. Takes SWTRAP with a 16-bit code. -/
  | trap_64 (p : Pfx) (w : W0) (x : W1)
  /-- R175. Warp vote writing a mask register. -/
  | census_32 (p : Pfx) (w : W0)
  /-- R175. CENSUS with quad width. -/
  | census_64 (p : Pfx) (w : W0) (x : W1)
  /-- R176. Reads a value from a selected lane. -/
  | pick_32 (p : Pfx) (w : W0)
  /-- R176. PICK with mode, group width and immediate selector. -/
  | pick_64 (p : Pfx) (w : W0) (x : W1)
  /-- R177. Finds the lanes holding an equal value. -/
  | peers_32 (p : Pfx) (w : W0)
  /-- R177. PEERS over 64-bit pairs. -/
  | peers_64 (p : Pfx) (w : W0) (x : W1)
  /-- R176. Exchanges values within a quad. -/
  | qx_32 (p : Pfx) (w : W0)
  /-- R176. 64-bit form of QX. -/
  | qx_64 (p : Pfx) (w : W0) (x : W1)
  /-- R178. Reduces over the warp's contributors. -/
  | red_32 (p : Pfx) (w : W0)
  /-- R178. RED with quad width. -/
  | red_64 (p : Pfx) (w : W0) (x : W1)
  /-- R178. Inclusive prefix scan over the warp. -/
  | scan_32 (p : Pfx) (w : W0)
  /-- R178. SCAN with width and exclusive flag. -/
  | scan_64 (p : Pfx) (w : W0) (x : W1)
  /-- R179. Samples an index from log-weights by the draw tree. -/
  | draw (p : Pfx) (w : W0) (x : W1)
  /-- R179. Merges draw pairs across lanes. -/
  | drawm (p : Pfx) (w : W0) (x : W1)
  /-- R180. Reads a special register. -/
  | sreg_read (p : Pfx) (w : W0)
  /-- R180. Writes %astat flags and flag label. -/
  | sreg_write (p : Pfx) (w : W0)
  /-- R181. Raises a value's label by a handle. -/
  | lraise_32 (p : Pfx) (w : W0)
  /-- R181. LRAISE with an immediate handle. -/
  | lraise_64 (p : Pfx) (w : W0) (x : W1)
  /-- R182. Traps LABEL when a handle does not dominate a value's label. -/
  | lchk_32 (p : Pfx) (w : W0)
  /-- R182. Tests label dominance into a mask register. -/
  | lchk_k_32 (p : Pfx) (w : W0)
  /-- R182. Trapping LCHK with an immediate handle. -/
  | lchk_64 (p : Pfx) (w : W0) (x : W1)
  /-- R182. Testing LCHK with an immediate handle. -/
  | lchk_k_64 (p : Pfx) (w : W0) (x : W1)
  /-- R45. Lowers a register's label through a grant. -/
  | dcl_reg (p : Pfx) (w : W0) (x : W1)
  /-- R183. Lowers a global granule's label through a grant. -/
  | dcl_g (p : Pfx) (w : W0) (x : W1)
  /-- R183. Lowers a scratchpad granule's label through a grant. -/
  | dcl_sp (p : Pfx) (w : W0) (x : W1)
  /-- R192. Global load with a word offset. -/
  | ld_32 (p : Pfx) (w : W0)
  /-- R192. Global load with size and byte offset. -/
  | ld_64 (p : Pfx) (w : W0) (x : W1)
  /-- R192. Global load with a 32-bit offset. -/
  | ld_96 (p : Pfx) (w : W0) (x : W1) (lit : Word)
  /-- R192. Global store with a word offset. -/
  | st_32 (p : Pfx) (w : W0)
  /-- R192. Global store with size and byte offset. -/
  | st_64 (p : Pfx) (w : W0) (x : W1)
  /-- R192. Global store with a 32-bit offset. -/
  | st_96 (p : Pfx) (w : W0) (x : W1) (lit : Word)
  /-- R192. Scratchpad load. -/
  | lds_32 (p : Pfx) (w : W0)
  /-- R192. Scratchpad load with size and offset. -/
  | lds_64 (p : Pfx) (w : W0) (x : W1)
  /-- R192. Scratchpad load with a 32-bit offset. -/
  | lds_96 (p : Pfx) (w : W0) (x : W1) (lit : Word)
  /-- R192. Scratchpad store. -/
  | sts_32 (p : Pfx) (w : W0)
  /-- R192. Scratchpad store with size and offset. -/
  | sts_64 (p : Pfx) (w : W0) (x : W1)
  /-- R192. Scratchpad store with a 32-bit offset. -/
  | sts_96 (p : Pfx) (w : W0) (x : W1) (lit : Word)
  /-- R194. Full/empty load that waits for FULL or BROKEN. -/
  | ldf_32 (p : Pfx) (w : W0)
  /-- R194. LDF with a byte offset. -/
  | ldf_64 (p : Pfx) (w : W0) (x : W1)
  /-- R194. Full/empty store that waits for EMPTY or BROKEN. -/
  | ste_32 (p : Pfx) (w : W0)
  /-- R194. STE with a byte offset. -/
  | ste_64 (p : Pfx) (w : W0) (x : W1)
  /-- R195. Split-phase load counted on an arrival counter. -/
  | ldx_64 (p : Pfx) (w : W0) (x : W1)
  /-- R195. Split-phase load with a 32-bit offset. -/
  | ldx_96 (p : Pfx) (w : W0) (x : W1) (lit : Word)
  /-- R196. Waits until an arrival counter reaches a threshold. -/
  | waitc (p : Pfx) (w : W0) (x : W1)
  /-- R198. Global atomic performed at the home or a switch. -/
  | atom (p : Pfx) (w : W0) (x : W1)
  /-- R198. Scratchpad atomic performed at the bank. -/
  | atoms (p : Pfx) (w : W0) (x : W1)
  /-- R199. Global reduction with no result. -/
  | rdm (p : Pfx) (w : W0) (x : W1)
  /-- R202. Orders predecessor-path events before successor-path events at a scope. -/
  | fence (p : Pfx) (w : W0)
  /-- R203. Parks at a block or cluster barrier. -/
  | bar_32 (p : Pfx) (w : W0)
  /-- R203. Barrier with a combined payload result. -/
  | bar_64 (p : Pfx) (w : W0) (x : W1)
  /-- R204. Waits on a barrier object's phase. -/
  | barw (p : Pfx) (w : W0)
  /-- R205. Asks the die cache to fetch a line. -/
  | prf_32 (p : Pfx) (w : W0)
  /-- R205. PRF with a 12-bit offset. -/
  | prf_64 (p : Pfx) (w : W0) (x : W1)
  /-- R200. Raises a granule's label up to its ceiling. -/
  | graise (p : Pfx) (w : W0)
  /-- R200. Reads a granule's label handle. -/
  | glbl (p : Pfx) (w : W0)
  /-- R206. Binds a queue register to an endpoint kind. -/
  | qbind (p : Pfx) (w : W0)
  /-- R206. Pops a queue entry if one waits, without blocking. -/
  | qpoll (p : Pfx) (w : W0)
  /-- R16. Blocking read of a queue register. -/
  | qrd (p : Pfx) (w : W0)
  /-- R206. Blocking push of an action on an MB-bound queue. -/
  | qwr (p : Pfx) (w : W0)
  /-- R255. Writes and checks a matrix format block. -/
  | mx_fmt (p : Pfx) (w : W0) (x : W1)
  /-- R256. Loads B rows into the free B-latch half. -/
  | mx_ldb (p : Pfx) (w : W0) (x : W1)
  /-- R257. Enters a dense joint operation into the rendezvous latch. -/
  | mx_mma (p : Pfx) (w : W0) (x : W1)
  /-- R257. Enters a sparse joint operation into the rendezvous latch. -/
  | mx_mmas (p : Pfx) (w : W0) (x : W1)
  /-- R260. Zeroes accumulator rows and their labels. -/
  | mx_zero (p : Pfx) (w : W0) (x : W1)
  /-- R261. Converts accumulator rows out to scratchpad. -/
  | mx_rd (p : Pfx) (w : W0) (x : W1)
  /-- R260. Writes accumulator rows from scratchpad. -/
  | mx_wr (p : Pfx) (w : W0) (x : W1)
  /-- R263. Reads one column of rows into lane registers. -/
  | mx_rdv (p : Pfx) (w : W0) (x : W1)
  /-- R261. Quantises rows to MX blocks with scales. -/
  | mx_qnt (p : Pfx) (w : W0) (x : W1)
  /-- R288. Issues a tile copy between tiers. -/
  | xf_copy_64 (p : Pfx) (w : W0) (x : W1)
  /-- R288. Tile copy with an arrival count on its object. -/
  | xf_copy_96 (p : Pfx) (w : W0) (x : W1) (lit : Word)
  /-- R272. Prefetch bound to a barrier object. -/
  | xf_pref (p : Pfx) (w : W0) (x : W1)
  /-- R273. Copy that parks the sub-warp until it completes. -/
  | xf_yield (p : Pfx) (w : W0) (x : W1)
  /-- R290. Initialises a barrier object. -/
  | bobj_init (p : Pfx) (w : W0) (x : W1)
  /-- R294. Writes per-lane values to a peer package. -/
  | cl_put (p : Pfx) (w : W0) (x : W1)
  /-- R294. Reads per-lane values from a peer package. -/
  | cl_get (p : Pfx) (w : W0) (x : W1)
  /-- R294. Per-lane remote reduction. -/
  | cl_red (p : Pfx) (w : W0) (x : W1)
  /-- R294. Per-lane remote atomic returning the old value. -/
  | cl_atom (p : Pfx) (w : W0) (x : W1)
  /-- R294. Per-lane remote draw-pair merge. -/
  | cl_draw (p : Pfx) (w : W0) (x : W1)
  /-- R294. Per-lane arrival on a remote barrier object. -/
  | cl_sig (p : Pfx) (w : W0) (x : W1)
  /-- R316. Binds a queue register to a step mailbox with a landing ring. -/
  | mb_open (p : Pfx) (w : W0) (x : W1)
  /-- R317. Sends an action with an 8-byte payload from a uniform pair. -/
  | mb_send_32 (p : Pfx) (w : W0)
  /-- R317. Sends an action from sixteen lanes' words. -/
  | mb_send_64 (p : Pfx) (w : W0) (x : W1)
  /-- R317. Sends an action from a scratchpad granule. -/
  | mb_send_sp (p : Pfx) (w : W0) (x : W1)
  /-- R339. Takes a lock word, waiting while held, with tag 0. -/
  | lock_32 (p : Pfx) (w : W0)
  /-- R339. LOCK with a tag. -/
  | lock_64 (p : Pfx) (w : W0) (x : W1)
  /-- R339. Tries once to take a lock, result in k0. -/
  | trylock_32 (p : Pfx) (w : W0)
  /-- R339. TRYLOCK with a tag and result register. -/
  | trylock_64 (p : Pfx) (w : W0) (x : W1)
  /-- R340. Releases and discharges a held lock. -/
  | unlock_32 (p : Pfx) (w : W0)
  /-- R340. UNLOCK with the mark flag. -/
  | unlock_64 (p : Pfx) (w : W0) (x : W1)
  /-- R341. Registers a promise to fill an EMPTY scratchpad word. -/
  | promise (p : Pfx) (w : W0)
  /-- R342. Sets a holding's heir, or registers or discharges a seat. -/
  | heir (p : Pfx) (w : W0) (x : W1)
  /-- R358. Launches a child grid from a record. -/
  | launch (p : Pfx) (w : W0) (x : W1)
  /-- R107. Hint NOP whose fields are ignored. -/
  | nop_h0 (w : W0)
  /-- R107. Hint NOP whose fields are ignored. -/
  | nop_h1 (w : W0)
  /-- R107. Hint NOP whose fields are ignored. -/
  | nop_h2 (w : W0)
  /-- R107. Hint NOP whose fields are ignored. -/
  | nop_h3 (w : W0)
  /-- R150. Negates a signed value. -/
  | ineg (p : Pfx) (w : W0)
  /-- R150. Absolute value. -/
  | iabs (p : Pfx) (w : W0)
  /-- R150. Population count. -/
  | popc (p : Pfx) (w : W0)
  /-- R150. Count of leading zeros. -/
  | clz (p : Pfx) (w : W0)
  /-- R150. Count of trailing zeros. -/
  | ctz (p : Pfx) (w : W0)
  /-- R150. Bit reversal. -/
  | brev (p : Pfx) (w : W0)
  /-- R155. Correctly rounded reciprocal. -/
  | frcp (p : Pfx) (w : W0)
  /-- R155. Correctly rounded reciprocal square root. -/
  | frsq (p : Pfx) (w : W0)
  /-- R155. Correctly rounded square root. -/
  | fsqrt (p : Pfx) (w : W0)
  /-- R155. Correctly rounded base-2 exponential. -/
  | fexp2 (p : Pfx) (w : W0)
  /-- R155. Correctly rounded base-2 logarithm. -/
  | flog2 (p : Pfx) (w : W0)
  /-- R155. Correctly rounded sine. -/
  | fsin (p : Pfx) (w : W0)
  /-- R155. Correctly rounded cosine. -/
  | fcos (p : Pfx) (w : W0)
  /-- R155. Correctly rounded hyperbolic tangent. -/
  | ftanh (p : Pfx) (w : W0)
  /-- R155. Rounds to an integral FP32 value. -/
  | frnd (p : Pfx) (w : W0)
  /-- R155. Fractional part. -/
  | ffrc (p : Pfx) (w : W0)
  /-- R171. Ends every lane of the warp and conveys its holdings. -/
  | kill (p : Pfx) (w : W0)
  /-- R172. Parks until the sibling side of the split has arrived. -/
  | syncw (p : Pfx) (w : W0)
  /-- R172. Restamps the sub-warp newest and invalidates latches. -/
  | yield (p : Pfx) (w : W0)
  /-- R173. Takes BKPT precisely. -/
  | bkpt (p : Pfx) (w : W0)
  /-- R175. Sets the mask bit of the lowest contributing lane. -/
  | elect (p : Pfx) (w : W0)
  /-- R181. Reads a value's label handle. -/
  | lget (p : Pfx) (w : W0)
  /-- R201. Seals a range of pages. -/
  | seal (p : Pfx) (w : W0)
  /-- R201. Unseals a range of pages. -/
  | unseal (p : Pfx) (w : W0)
  /-- R206. Unbinds a queue register, recording waiting entries. -/
  | qfree (p : Pfx) (w : W0)
  /-- R213. Returns from the handler or a cue sheet. -/
  | rett (p : Pfx) (w : W0)
  /-- R211. Clears cause bits of %tc. -/
  | tclr (p : Pfx) (w : W0)
  /-- R211. Swaps the disposition register. -/
  | tmask (p : Pfx) (w : W0)
  /-- R211. Debug-halts the warp or kills it with BKPT. -/
  | halt (p : Pfx) (w : W0)
  /-- R254. Writes the gang register, claiming or joining a window. -/
  | mx_gang (p : Pfx) (w : W0)
  /-- R254. Waits until every MX command of the warp is done. -/
  | mx_wait (p : Pfx) (w : W0)
  /-- R254. Marks accumulator rows dead. -/
  | mx_drop (p : Pfx) (w : W0)
  /-- R289. Waits until every transfer command of the warp has finished. -/
  | xf_wait (p : Pfx) (w : W0)
  /-- R289. Cancels unstarted commands with a tag. -/
  | xf_cancel (p : Pfx) (w : W0)
  /-- R291. Arrives on a barrier object. -/
  | bobj_arv (p : Pfx) (w : W0)
  /-- R295. Writes back switch-held window lines of a range. -/
  | cl_flush (p : Pfx) (w : W0)
  /-- R318. Sets the warp's policy version. -/
  | mb_ver (p : Pfx) (w : W0)
  /-- R319. Sets a mailbox queue's stale mode. -/
  | mb_mode (p : Pfx) (w : W0)
  /-- R343. Sets the warp's default heir. -/
  | will (p : Pfx) (w : W0)
  /-- R344. Makes or ends the warp as a probate claimant. -/
  | estq (p : Pfx) (w : W0)
  /-- R360. Waits for every child grid and acquires. -/
  | lwait (p : Pfx) (w : W0)
  /-- R189. A fault found after issue is raised as DELIVERY at the next issue opportunity. -/
  | delivery_fault (w : Nat)
  /-- R35. A global store reaches its home, is checked again and applied or discarded. -/
  | store_apply_at_home (f : Nat)
  /-- R52. A replica applies a write once its causal predecessors are applied. -/
  | replica_apply (die f : Nat)
  /-- R195. A split-phase reply lands and the counter may rise. -/
  | ldx_reply (w id lane : Nat)
  /-- R194. A waiting LDF or STE lane completes on its word's tag. -/
  | ldf_ste_lane_complete (w lane : Nat)
  /-- R17. A producer delivers a held entry once the queue has room. -/
  | queue_held_entry_deliver (w q : Nat)
  /-- R221. A pre-emption request takes a warp by flashback or full save. -/
  | preemption_request (w : Nat)
  /-- R221. A committed warp is saved in full once its LDX replies have landed. -/
  | full_save (w : Nat)
  /-- R222. A saved or rewound warp resumes, running its cue sheet first. -/
  | resume (w core : Nat)
  /-- R332. The estate unit conveys a dead warp's holdings in registration order. -/
  | conveyance (core : Nat)
  /-- R336. A waiting probate notice is delivered to a claimant. -/
  | probate_delivery (g : Nat)
  /-- R339. A waiting LOCK repeats its atomic when the lock word changes. -/
  | lock_retry (w : Nat)
  /-- R257. Every member has entered a matching joint operation and it is released. -/
  | rendezvous_release (quad : Nat)
  /-- R252. A matrix command's reads are done and its consumed token is delivered. -/
  | mx_consumed (cmd : Nat)
  /-- R252. A matrix command's writes are done; done token and flags delivered. -/
  | mx_done (cmd : Nat)
  /-- R390. Replay signatures of a sampled joint operation vote and the verdict applies. -/
  | audit_verdict (die n : Nat) (original replay1 replay2 : DWord)
  /-- R392. A sampled CL.RED or CL.DRAW is compared and a loss delivers POISON. -/
  | cl_audit_verdict (cmd : Nat) (agree : Bool)
  /-- R270. A copy's last access is done and its XF entry is delivered. -/
  | copy_complete (cmd : Nat) (words : Option (List Nat))
  /-- R272. A prefetch request's data are in place and it arrives on its object. -/
  | prefetch_arrival (cmd : Nat)
  /-- R274. The copy completes and the parked sub-warp resumes at its continuation. -/
  | xf_yield_resume (cmd : Nat)
  /-- R281. A timed CL command held for its start time is sent. -/
  | slot_start (cmd estimate : Nat)
  /-- R294. A CL packet is performed at the peer or switch, lane by lane. -/
  | cl_peer_apply (cmd lane : Nat) (peer : PeerReply)
  /-- R294. A CL command's lanes are done and its entry is delivered. -/
  | cl_complete (cmd : Nat)
  /-- R279. A switch evicts a window line and sends it home. -/
  | switch_write_back (vd line : Nat)
  /-- R60. The home applies a window line's merged result as one write, or drops it. -/
  | write_back_at_home (k : Nat)
  /-- R301. Episode ECALL 0 blocks until an action waits. -/
  | await (die core : Nat)
  /-- R301. An action arrives and the awaiting episode returns its page index. -/
  | await_wake (die core : Nat)
  /-- R301. Episode ECALL 1 ends the episode with an exit code. -/
  | end_ (die core : Nat)
  /-- R301. An exception from U-mode ends the episode with exit code -2. -/
  | u_mode_exception (die core : Nat)
  /-- R308. A store to MBPOP opens the oldest waiting action. -/
  | mbpop (die core : Nat)
  /-- R308. A store to MBPUSH answers the oldest open action with an observation. -/
  | mbpush (die core : Nat)
  /-- R313. An observation is landed in the ring and delivered to the warp's queue. -/
  | observation_delivery (die mb : Nat)
  /-- R310. The step count exceeds the budget and the core is frozen. -/
  | watchdog (die core cycles : Nat)
  /-- R302. The host creates an episode through the stage manager. -/
  | episode_create (req : Req) (e : EpisodeArgs)
  /-- R302. An episode ends; its actions are answered and its pages scrubbed. -/
  | episode_end (req : Req) (die id : Nat)
  /-- R303. Writes a mailbox's configuration, or clears enable alone. -/
  | mbcfg_write (req : Req) (die mb : Nat) (v : DWord)
  /-- R303. Reads and clears the dropped-observation count. -/
  | mbdrop_read (req : Req) (die mb : Nat)
  /-- R307. Episode read of MBSTAT, clearing refused. -/
  | mbstat_read (die core : Nat)
  /-- R351. A host store of a launch record is accepted or rejected. -/
  | launch_port_store (req : Req) (vd port : Nat) (whole : Bool) (bytes : List Byte)
  /-- R351. Reads a launch port status, clearing cause and count. -/
  | lpstat_read (req : Req) (vd port : Nat)
  /-- R355. The package distributor deals an eligible launch's block range. -/
  | deal
  /-- R356. A core that can hold a block starts its unit. -/
  | block_start (core : Nat)
  /-- R356. A cluster or die with no unstarted units steals from a sibling. -/
  | steal (die cluster : Nat)
  /-- R359. A grid's warps, stores and children are done; its completion is posted. -/
  | grid_complete (g : Nat)
  /-- R353. Each microsecond charges VDs' virtual time. -/
  | virtual_time_charge (cycles : List (Nat × Nat))
  /-- R354. A time slice ends and the partition passes or the slice renews. -/
  | slice_end (partition : Nat)
  /-- R361. Reads and removes the oldest grid fault record. -/
  | gfpop (req : Req) (vd : Nat) (whole : Bool)
  /-- R361. Reads the grid fault status, clearing dropped. -/
  | gfstat_read (req : Req) (vd : Nat)
  /-- R403. Security command creating a VD. -/
  | vdcreate (req : Req) (a : VdArgs)
  /-- R364. Security command resetting a VD. -/
  | vdreset (req : Req) (vd : Nat)
  /-- R403. Security command freeing a VD. -/
  | vdfree (req : Req) (vd : Nat)
  /-- R43. Installs a signed grant into a slot. -/
  | grant_install (req : Req) (body : List Byte) (sigs : List (List Byte))
  /-- R44. Empties a grant slot. -/
  | grant_revoke (req : Req) (vd slot : Nat)
  /-- R376. Pauses a VD and prepares its migration stream. -/
  | migout (req : Req) (vd dest : Nat) (reachable : Bool)
  /-- R375. Receives a migration stream into a target VD. -/
  | migin (req : Req) (a : MigInArgs)
  /-- R375. Ends a migration stream. -/
  | migabort (req : Req) (ticket : BitVec 128)
  /-- R376. The stream is received; the source is freed and MIGRATED posted. -/
  | migration_complete (ticket : BitVec 128)
  /-- R376. A migration ticket expires after 60 s. -/
  | ticket_expiry (ticket : BitVec 128)
  /-- R380. Returns signed metering counters. -/
  | msnap (req : Req) (vd : Nat) (nonce : List Byte)
  /-- R409. Returns the signed measurements and state. -/
  | attest (req : Req) (nonce : List Byte)
  /-- R409. Verifies and installs a firmware image. -/
  | fwload (req : Req) (kind : Nat) (image sig : List Byte)
  /-- R407. Advances the life-cycle state and wipes. -/
  | lcset (req : Req) (target : Nat) (nonce sig : List Byte)
  /-- R403. Enables or disables a VD's debug attachment. -/
  | dbgattach (req : Req) (vd : Nat) (enable : Bool) (sigs : List (List Byte))
  /-- R403. Reads the security status, clearing refused. -/
  | sbstat_read (req : Req)
  /-- R366. Assigns a quadrant to a partition, or is refused. -/
  | qown_write (req : Req) (quad : Nat) (v : BitVec 16)
  /-- R366. Assigns a memory slice to a VD, or is refused. -/
  | sown_write (req : Req) (sl : Nat) (v : BitVec 16)
  /-- R370. Starts a translation sync of a range. -/
  | mapsync (req : Req) (vd : Nat) (whole : Bool) (v : BitVec 128)
  /-- R370. Translations drain, granules relabel and busy clears. -/
  | mapsync_done (vd : Nat)
  /-- R370. Resumes a parked warp. -/
  | parkgo (req : Req) (vd serial : Nat)
  /-- R370. Kills a parked warp with XLATE. -/
  | parkkill (req : Req) (vd serial : Nat)
  /-- R370. Reads MAPSTAT, clearing refused. -/
  | mapstat_read (req : Req) (vd : Nat)
  /-- R278. Writes a reduction window register; clearing enable writes lines back. -/
  | xwin_write (req : Req) (vd n : Nat) (v : BitVec 128)
  /-- R372. Reads and removes the oldest VD event record. -/
  | evpop (req : Req) (vd : Nat) (whole : Bool)
  /-- R372. Reads and removes the oldest hypervisor event record. -/
  | hvpop (req : Req) (whole : Bool)
  /-- R372. A producer holding an event record places it once the buffer has room. -/
  | event_record_release (vd : Nat)
  /-- R365. Reads VDSTAT, clearing its counts. -/
  | vdstat_read (req : Req) (vd : Nat)
  /-- R401. Reads HVSTAT, clearing lost. -/
  | hvstat_read (req : Req)
  /-- R374. Reads QSTAT, clearing the first-touch count. -/
  | qstat_read (req : Req) (stack : Nat)
  /-- R374. A controller clears an unscrubbed frame. -/
  | quench_clear (stack : Nat)
  /-- R377. A row's activation count reaches RDTHR and is mitigated. -/
  | row_mitigation (stack bank row vd : Nat)
  /-- R379. Each microsecond advances the metering counters. -/
  | metering_tick (counts : List (Nat × List Nat))
  /-- R405. Each 1 ms period sets die caps and stack budgets. -/
  | bellows_period (caps clocks budgets : List Nat)
  /-- R386. An uncorrectable error poisons, kills or fences by structure. -/
  | uncorrectable_error (site : ErrSite)
  /-- R386. A corrected error is logged. -/
  | corrected_error (die channel vd warp : Nat) (loc : DWord)
  /-- R87. A fetch line enters a buffer and its parity is checked. -/
  | line_fetch (quad line : Nat) (again : Bool)
  /-- R395. Reads and removes the oldest error log entry. -/
  | elpop (req : Req) (die : Nat) (whole : Bool)
  /-- R395. Reads ELSTAT, clearing overflow. -/
  | elstat_read (req : Req) (die : Nat)
  /-- R227. The host resumes a halted sub-warp. -/
  | debug_resume (req : Req) (w : Nat)
  /-- R227. The host freezes a block at its next boundary. -/
  | block_freeze (req : Req) (g block : Nat)
  /-- R331. The host or debugger kills a warp or grid. -/
  | host_kill (req : Req) (t : KillTarget)
  /-- R402. A hypervisor write through the HBM physical window. -/
  | hbm_window_write (req : Req) (pa : Nat) (bytes : List Byte)
  /-- R401. Sets the package number once after reset. -/
  | kwid_write (req : Req) (v : DWord)
  /-- R410. A violation freezes the offending master. -/
  | violation_freeze (m : Master)
  /-- R406. An unrepairable UCIe module is disabled. -/
  | host_module_disable (m : Nat)
  /-- R411. Power-on or RESETCTL starts a reset and wipe. -/
  | reset (cause : ResetCause)
  /-- R411. A bring-up phase completes or fails. -/
  | bring_up_phase (r : PhaseResult)
  /-- R401. A write to a register with no row of its own. -/
  | register_write (req : Req) (off width : Nat) (v : BitVec 128)
  /-- R104. The warp's PC reaches a group whose opcode is unassigned in its length class and page, and it traps ILLEGAL precisely. -/
  | unassigned_opcode (p : Pfx) (page1 : Bool) (len : Len) (code : BitVec 7) (w : W0)
  /-- R99. The warp's PC reaches an orphaned prefix run, or a malformed one, which traps ORPHAN or ILLEGAL at the prefix's PC. -/
  | orphaned_prefix (why : RunFault) (pc : DWord) (slot : Nat)
  /-- R301. An episode's RV64 instruction in U-mode other than AWAIT, END, MBPOP or MBPUSH, such as a possibly misaligned access to its own memory, a mailbox register access or an ECALL with an unknown service. -/
  | episode_instruction (die core : Nat)
  /-- R268. A remote XF.COPY's packet is taken at the peer package, translated, checked for permission, seal and labels there, and applied or reported. -/
  | peer_copy_access (cmd : Nat) (word : Nat) (peer : PeerReply)
  /-- R401. A host read of KWPORT returns the port state and clears its retries count. -/
  | kwport_read (req : Req) (port : Nat)
  /-- R366. A host read of QOWN returns the assignment and clears the refused bit. -/
  | qown_read (req : Req) (quad : Nat)
  /-- R366. A host read of SOWN returns the slice's owner and clears the refused bit. -/
  | sown_read (req : Req) (sl : Nat)
  /-- R377. A bank's 32 ms activation window ends and its tracker's counts start afresh. -/
  | activation_window (stack bank : Nat)
  deriving DecidableEq, Repr

end Sys2Proof
end

