-- ==== Sys2Proof/Machine/State.lean ====
section
/-! DEFINITION. The state of a JX9480 package: plain data, every piece of state the spec names, and the state after reset. -/

namespace Sys2Proof.Machine

open Sys2Proof

/-! Registers of a warp (R27, R133, R134, R224). -/

/-- A 32-bit lane or uniform register: its value, its owner label (R27), its poison mark (R224) and its dead bit (R134). -/
structure Reg where
  val : Word
  lbl : Label
  poison : Bool
  dead : Bool
  deriving DecidableEq, Repr

/-- Zero with label 0, live and clean (R20). -/
def Reg.zero : Reg := ⟨0#32, 0#8, false, false⟩

/-- The `n` registers of a file from `lo` up. -/
def regsFrom (f : List Reg) (lo n : Nat) : List Reg := (List.range n).map (fun k => (f[lo + k]?).getD Reg.zero)

/-- A lane-mask register: its bits, one bit label per lane, and the register label that is their join (R148). -/
structure MaskReg where
  bits : Word
  lbls : SMap Label
  lbl : Label
  deriving DecidableEq, Repr

/-- A mask register at warp start (R20). -/
def MaskReg.zero : MaskReg := ⟨0#32, [], 0#8⟩

/-- A bypass latch of a quadrant (R135): valid, and its lanes. -/
structure Latch where
  valid : Bool
  lanes : SMap Reg
  deriving DecidableEq, Repr

/-- An entry of a lane's return stack: return PC and path label of the call (R170). -/
structure RetEntry where
  pc : DWord
  lbl : Label
  deriving DecidableEq, Repr

/-- A queue entry: 64 bits and a label (R15). `cmd` is the matrix command whose token it is, 0 for none (R244); `warp` the warp whose
transfer command delivers it, 0 for none (R289). -/
structure QEntry where
  data : DWord
  lbl : Label
  cmd : Nat
  warp : Nat
  deriving DecidableEq, Repr

/-- A queue register (R14 to R17): endpoint kind code, mailbox and landing ring of an MB binding (R313), stale mode (R312), the
waiting entries, the entries popped in an uncommitted region and still held (R220), and what producers hold for it (R17). -/
structure Queue where
  kind : Option Nat
  mailbox : Nat
  ring : Nat
  stale : Nat
  entries : List QEntry
  popped : List QEntry
  back : List QEntry
  deriving DecidableEq, Repr

/-- An unbound queue register. -/
def Queue.free : Queue := ⟨none, 0, 0, 0, [], [], []⟩

/-! Sub-warps and splits (R138 to R142). -/

/-- The identity of a sub-warp: none is the root, otherwise split entry and side (0 taken, 1 fall-through). -/
abbrev SubId := Option (Nat × Nat)

/-- Why a sub-warp is not ready (R142). -/
inductive Hold where
  | ready
  /-- waits at issue (R132) -/
  | waiting
  /-- a LOCK waits until its lock word changes (R339): space and address -/
  | locking (spad : Bool) (addr : DWord)
  /-- arrived at its join PC (R140) -/
  | joined
  /-- parked by SYNCW (R172) -/
  | syncw
  /-- parked at barrier `n` (R203): cluster scope, op, payload so far, its label, the destination code and the
  capture latch -/
  | bar (n : Nat) (cluster : Bool) (op : Nat) (val : Word) (lbl : Label) (dest latch : Nat)
  /-- parked in XLATE (R216) -/
  | xlate (va : DWord) (access : Nat)
  /-- halted by a comparator, HALT or the host (R227, R228) -/
  | halted
  /-- parked by XF.YIELD until its copy completes (R273) -/
  | yielded (cmd : Nat)
  /-- a full/empty access waits: kind (LDF or STE) and the lanes still to complete (R194) -/
  | fullEmpty (load : Bool) (left : LaneMask)
  deriving DecidableEq, Repr

/-- A sub-warp: identity, its lanes, helper lanes excluded, mask label, PC, stamp of R142, why it is held, and whether a comparator has
matched its group, which then does not stop it again (R227). -/
structure SubWarp where
  id : SubId
  mask : LaneMask
  maskLabel : Label
  pc : DWord
  stamp : Nat
  hold : Hold
  matched : Bool
  deriving DecidableEq, Repr

/-- A live split entry (R138). -/
structure Split where
  parent : SubId
  arrived0 : Bool
  arrived1 : Bool
  oneSided : Bool
  parentLabel : Label
  childLabel : Label
  mask0 : LaneMask
  mask1 : LaneMask
  join : DWord
  parentPath : SMap Label
  writtenO : BitVec 16
  writtenV : BitVec 256
  writtenS : BitVec 32
  deriving DecidableEq, Repr

/-- A full/empty access whose lanes are completing (R194): its sub-warp, per lane its word (scratchpad words numbered by block and
word), the value to store and the label of the outcome, the destination register number (v registers from 64), the mask register
of the outcome, the capture latch, write-back suppress, and its place in the order in which waiters reached the banks. -/
structure FullEmpty where
  sub : SubId
  load : Bool
  left : LaneMask
  addr : SMap Nat
  val : SMap Reg
  lbl : SMap Label
  dest : Option Nat
  kb : Nat
  latch : Nat
  wbs : Bool
  order : Nat
  deriving DecidableEq, Repr

/-- An LDX whose replies have not all landed (R195): its arrival counter, the destination (a main-file register, an operand register
below 16, or none), the lanes whose replies have still to land, and per lane the registers that its reply writes and their label,
with the lanes whose data is poisoned. -/
structure Ldx where
  id : Nat
  ac : Nat
  main : Bool
  reg : Nat
  left : LaneMask
  val : SMap (List Word)
  lbl : SMap Label
  bad : LaneMask
  deriving DecidableEq, Repr

/-- A barrier-object image taken for a prefetch (R218): space; physical address, or block times 2^22 plus offset; the 32 bytes. -/
structure Image where
  spad : Bool
  addr : Nat
  bytes : List Byte
  deriving DecidableEq, Repr

/-- The cue buffer of a warp (R219). -/
structure Cue where
  pc : DWord
  sheet : DWord
  counters : List (BitVec 16)
  srseq : BitVec 32
  oMap : BitVec 16
  sMap : BitVec 16
  vBase : Nat
  vMap : BitVec 8
  committed : Bool
  rollbacks : Nat
  lanes : LaneMask
  rets : SMap (List RetEntry)
  images : List Image
  o : SMap Reg
  v : SMap Reg
  s : List Reg
  cmdMark : Nat
  lost : Bool
  deriving DecidableEq, Repr

/-- A holding in an estate table (R325, R327); a scratchpad reference is an address as block `block` writes it. -/
structure Holding where
  kind : Nat
  scope : Nat
  heir : BitVec 16
  tag : BitVec 16
  queue : Nat
  ref : Nat
  block : Nat
  deriving DecidableEq, Repr

/-- Where a warp is: resident, being saved after its replies land, saved by flashback or in full, dying, or gone. -/
inductive Life where
  | resident
  /-- a full save waits for LDX replies (R221) -/
  | saving
  /-- taken by flashback: only the snapshot is kept -/
  | rewound
  /-- saved in full -/
  | saved
  /-- its death waits in the estate unit: cause of R331, mask label of the sub-warp that caused it -/
  | dying (cause : Nat) (lbl : Label)
  | dead
  deriving DecidableEq, Repr

/-- What a handler is entered with (R212): cause, PC, fault address, lanes, slot, step, delivery, what s30 and s31 hold, the labels of
what the record shows, causes that %tc receives beside it (R103), the dead warp whose store debt the fault is (R215), and
whether a consumed error is taken although the warp could be rolled back (R387). -/
structure TrapInfo where
  cause : Nat
  pc : DWord
  addr : DWord
  lanes : LaneMask
  slot : Nat
  step : Nat
  delivery : Bool
  low : Word
  high : Word
  lbls : List Label
  also : List Nat
  heir : Option Nat
  firm : Bool
  deriving DecidableEq, Repr

/-- A delivery fault on its way to a warp (R189): cause, PC at issue, lanes, address, the warp whose access it was, its label, and the
sub-warp that it is raised at, where a copy that it waited for names one (R274). -/
structure Delivery where
  cause : Nat
  pc : DWord
  lanes : LaneMask
  addr : DWord
  source : Nat
  lbl : Label
  sub : Option SubId
  deriving DecidableEq, Repr

/-- A warp and all its context (R20, R133, R138, R170, R209 to R221, R234, R312, R318, R327). `debtDone` says that the heir of its
store debt is resolved, `dropped` counts its writes that a die fence dropped (R331, R332), `prefetches` the unstarted bound
prefetches that a save cancelled (R221); `stopped` says that HALT has halted every sub-warp (R211, R228); `evict` is a pre-emption
request that has still to reach it: 1 of the warp alone (R223), 2 of its whole block (R354, R376); `mark` is the clock that its die's
copies had when it was taken from its core, which a die that it goes on at must have met (R52, R59). -/
structure Warp where
  serial : Nat
  grid : Nat
  block : Nat
  index : Nat
  vd : Nat
  quad : Nat
  life : Life
  clearance : Label
  o : SMap Reg
  v : SMap Reg
  s : List Reg
  k : List MaskReg
  ac : List (BitVec 16)
  queues : List Queue
  path : SMap Label
  exited : LaneMask
  subs : List SubWarp
  splits : SMap Split
  rets : SMap (List RetEntry)
  tc : DWord
  disposition : DWord
  dispLabel : Label
  flags : BitVec 8
  flagLabel : Label
  srseq : BitVec 32
  handler : Bool
  handlerSub : SubId
  shadow : List Reg
  sheet : Bool
  cue : Option Cue
  gang : Word
  policy : BitVec 16
  policyLabel : Label
  will : BitVec 16
  willTag : BitVec 16
  estate : List Holding
  debtHeir : BitVec 16
  debtTo : Option Nat
  debtDone : Bool
  dropped : Nat
  claimant : Bool
  ldx : List Ldx
  fe : List FullEmpty
  deliveries : List Delivery
  pending : List (DWord × TrapInfo)
  prefetches : Nat
  stopped : Bool
  evict : Nat
  mark : List Nat
  deriving DecidableEq, Repr

/-! Quadrants, cores, blocks, grids (R10, R127, R203, R226, R234 to R243, R349 to R361). -/

/-- A member's operation in the rendezvous latch (R236): its PC and the PC of its group; `done` once it is released and its warp has
still to go on. -/
structure Member where
  warp : Nat
  sparse : Bool
  fmt : Nat
  base : Nat
  gang : Word
  idx : SMap Reg
  lanes : LaneMask
  pc : DWord
  group : DWord
  queue : Option Nat
  tag : BitVec 16
  acq : Bool
  rel : Bool
  scope : Nat
  done : Bool
  deriving DecidableEq, Repr

/-- A half of the B latch (R242, R256): its rows, row width, count, label, the gang register that loaded it, whether its load is
complete, the order of completion, the pending operations that use it, and, while its load has still to read, the offset and the count
of rows that the load names. -/
structure BHalf where
  rows : List (List Byte)
  width : Nat
  lbl : Label
  gang : Word
  ready : Bool
  order : Nat
  users : Nat
  source : Option (Word × Nat)
  deriving DecidableEq, Repr

/-- An empty half. -/
def BHalf.empty : BHalf := ⟨[], 0, 0#8, 0#32, false, 0, 0, none⟩

/-- An accumulator row (R243, R254): 128 FP32 columns listed where not zero, its label, poison and dead bit. -/
structure AccRow where
  cols : SMap Word
  lbl : Label
  poison : Bool
  dead : Bool
  deriving DecidableEq, Repr

/-- A row after MX.ZERO. -/
def AccRow.zero : AccRow := ⟨[], 0#8, false, false⟩

/-- A leaf of a page table as a TLB holds it (R368, R369): virtual page base, page size, entry. -/
structure Leaf where
  vd : Nat
  va : Nat
  size : Nat
  bits : BitVec 128
  deriving DecidableEq, Repr

/-- A quadrant: its latches with the sub-warp that they belong to (R135), the run in progress (R137), the rendezvous latch, the
B latch, the accumulator store, the window claims (R235: gang register value and the holding warps), the lines whose second
parity mismatch is outstanding (R87), and its TLB (R10). -/
structure Quad where
  latches : List Latch
  owner : Option (Nat × SubId)
  run : Option (Nat × SubId × Nat)
  rendezvous : List Member
  halves : List BHalf
  rows : SMap AccRow
  claims : List (Word × List Nat)
  badLines : List Nat
  tlb : List Leaf
  deriving DecidableEq, Repr

/-- A quadrant at reset (R408): every latch invalid, every store zero. -/
def Quad.reset : Quad :=
  ⟨[⟨false, []⟩, ⟨false, []⟩, ⟨false, []⟩, ⟨false, []⟩], none, none, [], [BHalf.empty, BHalf.empty], [], [], [], []⟩

/-- An event counter and its select register (R398). -/
structure Counter where
  count : DWord
  sel : DWord
  deriving DecidableEq, Repr

/-- A core: event counters CEV0 to CEV7 (R398), comparators DPC0 to DPC7, DDA0 to DDA3 (R226), and its TLB (R10). -/
structure Core where
  cev : List Counter
  dpc : List (BitVec 128)
  dda : List (BitVec 128)
  tlb : List Leaf
  deriving DecidableEq, Repr

/-- A core at reset. -/
def Core.reset : Core := ⟨List.replicate 8 ⟨0#64, 0#64⟩, List.replicate 8 0#128, List.replicate 4 0#128, []⟩

/-- The tag of a scratchpad word (R194). -/
inductive Tag where
  | empty | full | broken
  deriving DecidableEq, Repr

/-- A block's scratchpad (R193, R194, R386): bytes, granule labels, granules that are no longer fresh, word tags, poisoned words. -/
structure Spad where
  bytes : List Host.Cell
  lbls : SMap Label
  used : SMap Bool
  tags : SMap Tag
  poison : SMap Bool
  deriving DecidableEq, Repr

/-- Every granule fresh (R193). -/
def Spad.fresh : Spad := ⟨[], [], [], [], []⟩

/-- A window whose gang has left its quadrant (R244, R256): gang register value, quadrant number, the holding warps, its live rows, and
the halves of the B latch loaded under its gang register. -/
structure SavedWindow where
  gang : Word
  quad : Nat
  holders : List Nat
  rows : SMap AccRow
  halves : List BHalf
  deriving DecidableEq, Repr

/-- A block (R12, R127): grid, index, core, rank in its cluster, its warps, scratchpad, communication warp (R275), whether
the host has frozen it (R227), its saved windows (R244), and whether it has left its core with every warp saved (R222, R354). -/
structure Block where
  grid : Nat
  index : Nat
  core : Nat
  rank : Nat
  warps : List Nat
  spad : Spad
  comm : Option Nat
  frozen : Bool
  windows : List SavedWindow
  away : Bool
  deriving DecidableEq, Repr

/-- A launch record (R349). -/
structure LaunchRec where
  code : DWord
  arg : DWord
  handler : DWord
  dkey : DWord
  blocks : Nat
  lanes : Nat
  perCluster : Nat
  g : Nat
  regs : Nat
  spadBytes : Nat
  cueBytes : Nat
  clearance : Label
  priority : Nat
  partition : Nat
  heir : BitVec 16
  comm : Option Nat
  park : Bool
  tag : BitVec 16
  deriving DecidableEq, Repr

/-- The parent of a child grid (R358, R359): warp, grid, the queue register of a warp where the completion goes, and the entry's label. -/
structure Parent where
  warp : Nat
  grid : Nat
  queue : Option (Nat × Nat)
  lbl : Label
  deriving DecidableEq, Repr

/-- A notice waiting in, or a promise held by, a grid's probate queue (R336). -/
structure Probate where
  notice : DWord
  lbl : Label
  holding : Holding
  deriving DecidableEq, Repr

/-- An unstarted unit of a grid (R355, R356): the hardware cluster whose range holds it, its number, and the core, numbered on its die,
that it belongs to. -/
structure Share where
  die : Nat
  cluster : Nat
  unit : Nat
  core : Nat
  deriving DecidableEq, Repr

/-- A grid: a launch accepted and not yet complete (R351, R355, R359). `mark` is the clock of the writes that its launch made ordered
before its warps' first events (R54). -/
structure Grid where
  serial : Nat
  vd : Nat
  gen : Nat
  record : LaunchRec
  depth : Nat
  port : Option Nat
  parent : Option Parent
  dealt : Bool
  shares : List Share
  killed : Bool
  faults : Nat
  probate : List Probate
  complete : Bool
  mark : List Nat
  deriving DecidableEq, Repr

/-! Memory (R5, R11, R27, R51 to R53, R374, R386). -/

/-- What a copy knows of the write a word holds: the sum of its clock and its source (R53). -/
structure Stamp where
  sum : Nat
  src : Nat
  deriving DecidableEq, Repr

/-- A copy of the package's memory on a die: bytes at physical addresses, granule labels, and the stamps of written words. -/
structure Copy where
  bytes : List Host.Cell
  lbls : SMap Label
  stamps : SMap Stamp
  deriving DecidableEq, Repr

/-- Memory that nothing has written. -/
def Copy.empty : Copy := ⟨[], [], []⟩

/-- A lane of an RDM in flight (R199): its physical address, or 2^64 plus the address in a reduction window; virtual address,
operand bits, label. -/
structure RdmLane where
  lane : Nat
  pa : Nat
  va : DWord
  b : DWord
  lbl : Label
  deriving DecidableEq, Repr

/-- What a write in flight does at its home. -/
inductive FlightOp where
  | store (bytes : List Byte)
  /-- a granule raised by GRAISE, or lowered by DCL, at its home (R41, R200) -/
  | label
  /-- an RDM (R199): op and type codes, its lanes, and the key and base of a draw -/
  | rdm (op ty : Nat) (lanes : List RdmLane) (key base : DWord)
  deriving DecidableEq, Repr

/-- A write that its home or a replica has not applied (R51, R52, R189): the store debt of `warp`; its path, numbered as R202 numbers
them, and the engine command that made it, 0 for none. -/
structure Flight where
  id : Nat
  warp : Nat
  vd : Nat
  src : Nat
  host : Bool
  pa : Nat
  va : DWord
  op : FlightOp
  lbl : Label
  pc : DWord
  lanes : LaneMask
  path : Nat
  cmd : Nat
  clock : List Nat
  atHome : Bool
  applied : List Nat
  floating : Bool
  deriving DecidableEq, Repr

/-! Commands of the matrix and transfer engines that are in flight (R22, R246, R252, R270, R276, R281). -/

/-- A tile of a copy (R267, R287). -/
structure Tile where
  srcTier : Nat
  dstTier : Nat
  src : DWord
  dst : DWord
  rows : Nat
  bytes : Nat
  srcStride : Nat
  dstStride : Nat
  package : Nat
  deriving DecidableEq, Repr

/-- The barrier object that a command arrives on, with its count; for a prefetch, its place as an image names it (R218). -/
structure Arrival where
  spad : Bool
  addr : DWord
  count : Nat
  place : Nat
  deriving DecidableEq, Repr

/-- A lane of a CL command (R276): destination package and address, value, compare value, their label, the owner mask that its packet
carries (R27, R29), and whether it is decided. -/
structure ClLane where
  lane : Nat
  package : Nat
  va : DWord
  value : List Word
  cmp : DWord
  lbl : Label
  owners : OwnerSet
  decided : Bool
  deriving DecidableEq, Repr

/-- A write that a matrix command still has to make into the block's scratchpad (R261): offset, bytes, label that the granule
must dominate. -/
structure RowWrite where
  off : Nat
  bytes : List Byte
  lbl : Label
  deriving DecidableEq, Repr

/-- What a command does. -/
inductive CmdOp where
  /-- a matrix command: opcode, base of its tokens, flags and their label, writes still to make, half of the B latch that it
  uses, the half that it loads, the rows that it wrote -/
  | mx (code base : Nat) (flags : BitVec 8) (flagLbl : Label) (writes : List RowWrite) (uses loads : Option Nat) (rows : List Nat)
  | copy (t : Tile) (yields : Option (SubId × DWord))
  | prefetch (t : Tile)
  /-- a collective: opcode, op, type, destination register, its lanes, slot start and width, aux values, audit number -/
  | cl (code op ty dest : Nat) (lanes : List ClLane) (slot : Option (DWord × Word)) (key base : DWord)
  /-- CL.FLUSH: the lines that it has sent home and the numbers of those still on their way -/
  | flush (count : Nat) (left : List Nat)
  /-- BOBJ.INIT: the expected count that it writes into its object -/
  | init (expected : Word)
  deriving DecidableEq, Repr

/-- A command in flight; its completion goes to a queue register of a warp, its own or, after a death, the queue's heir (R22); `reached`
is the time at which a collective came to the head of its warp's command stream, once that has passed (R281). -/
structure Cmd where
  id : Nat
  warp : Nat
  vd : Nat
  die : Nat
  quad : Nat
  grid : Nat
  block : Nat
  op : CmdOp
  queue : Option (Nat × Nat)
  tag : BitVec 16
  acq : Bool
  rel : Bool
  scope : Nat
  lbl : Label
  path : List Label
  pc : DWord
  lanes : LaneMask
  object : Option Arrival
  reached : Option DWord
  started : Bool
  consumed : Bool
  moved : Nat
  doneWords : List Nat
  failed : Option (Nat × DWord × Label)
  status : Nat
  verdict : Option Nat
  deriving DecidableEq, Repr

/-- A sampled joint operation that waits for its verdict (R389 to R391): the first of its members' commands and their number, and the
result rows that no command has written since. -/
structure Audit where
  die : Nat
  n : Nat
  vd : Nat
  cmd : Nat
  quad : Nat
  members : Nat
  rows : List Nat
  hold : Bool
  deriving DecidableEq, Repr

/-- A line of a reduction window that a switch holds, or that is on its way home under a number (R279); its label and its page's ceiling
are owner masks, as in every Kwaisk packet (R27, R29). -/
structure WinLine where
  id : Nat
  vd : Nat
  va : Nat
  home : Nat
  bytes : List Byte
  owners : OwnerSet
  floating : Bool
  ceiling : OwnerSet
  gen : Nat
  deriving DecidableEq, Repr

/-! Poleile clusters (R300 to R313). -/

/-- An action or observation of a mailbox (R304): header fields and the 64 bytes of payload. -/
structure Message where
  episode : BitVec 16
  step : BitVec 16
  version : BitVec 16
  status : Byte
  flags : Byte
  owners : OwnerSet
  payload : List Byte
  deriving DecidableEq, Repr

/-- A mailbox (R303, R307, R308, R313): MBCFG fields, MBDROP, the waiting and open actions, the observations, the refused bit, the
next observation, the action count, and the warp that binds it or bound it last, with its queue register. -/
structure Mailbox where
  vd : Nat
  lbl : Label
  episode : Nat
  core : Nat
  enable : Bool
  frozen : Bool
  ended : Bool
  bound : Bool
  binder : Nat × Nat
  dropped : Nat
  waiting : List Message
  opened : List Message
  obs : List Message
  refused : Bool
  obspay : List Byte
  obsstat : Byte
  step : BitVec 16
  deriving DecidableEq, Repr

/-- A mailbox at reset (R303). -/
def Mailbox.reset : Mailbox :=
  ⟨0, 0#8, 0, 0, false, false, false, false, (0, 0), 0, [], [], [], false, List.replicate 64 0#8, 0#8, 0#16⟩

/-- A Poleile core as an episode sees it (R300): integer and floating registers, PC, fcsr, reservation of LR, whether it waits in
AWAIT, whether the watchdog (R310) or a violation (R410) has stopped it, and the watchdog's count; and what the stage manager sets up
in M and S mode before an episode starts: satp, and the configuration and address of each of the 16 PMP entries. -/
structure PCore where
  x : List DWord
  f : List DWord
  pc : DWord
  fcsr : BitVec 8
  reserve : Option Nat
  awaiting : Bool
  frozen : Bool
  stopped : Bool
  count : Nat
  satp : DWord
  pmp : List (Byte × DWord)
  deriving DecidableEq, Repr

/-- A Poleile core at reset. -/
def PCore.reset : PCore :=
  ⟨List.replicate 32 0#64, List.replicate 32 0#64, 0#64, 0#8, none, false, false, false, 0, 0#64, List.replicate 16 (0#8, 0#64)⟩

/-- An episode (R302): its pages of virtual to physical page numbers of 4 KiB, and its mailbox pages. -/
structure Episode where
  die : Nat
  id : Nat
  core : Nat
  vd : Nat
  budget : Nat
  pages : List (Nat × Nat)
  mailboxes : List (Nat × Nat)
  deriving DecidableEq, Repr

/-! Dies, stacks, the package (R51, R280, R357, R374, R377, R395 to R406). -/

/-- A bank's activation tracker entry (R377): row, count, VD. -/
structure RowCount where
  row : Nat
  count : Nat
  vd : Nat
  deriving DecidableEq, Repr

/-- A memory controller with its stack (R280, R374, R377, R405). -/
structure Stack where
  threshold : Nat
  depth : Nat
  raised : Bool
  moved : Nat
  rdthr : Nat
  budget : Nat
  used : Nat
  trackers : SMap (List RowCount)
  mitigations : SMap Nat
  head : List Nat
  deriving DecidableEq, Repr

/-- A controller at reset: MCCQ threshold 256, RDTHR 4,096. -/
def Stack.reset : Stack := ⟨256, 0, false, 0, 4096, 0, 0, [], [], []⟩

/-- A Kwaisk port (KWPORT, R406). -/
structure Port where
  up : Bool
  frozen : Bool
  peer : Nat
  peerPort : Nat
  retries : Word
  deriving DecidableEq, Repr

/-- An entry of a die's error log (R395). -/
structure LogEntry where
  serial : Nat
  channel : Nat
  outcome : Nat
  vd : Nat
  warp : Nat
  loc : DWord
  deriving DecidableEq, Repr

/-- A die: harvest map (R357), vector clock (R51), fence (R393), error log and its counters (R395, R396), event counters (R398),
its stacks and ports, die cap and clock (R405), and the holder of each mailbox and core. -/
structure Die where
  harvest : BitVec 36
  clock : List Nat
  fenced : Bool
  log : List LogEntry
  overflow : Nat
  lastSerial : Nat
  ecnt : List (Nat × Nat)
  dev : List Counter
  hbm : List Stack
  ports : List Port
  cap : Nat
  mhz : Nat
  copy : Copy
  tlb : List Leaf
  mailboxes : SMap Mailbox
  pcores : SMap PCore
  deriving DecidableEq, Repr

/-- A die at reset: no core fused off, the vector clock zero, BLWDIE clock 800 MHz. -/
def Die.reset : Die :=
  { harvest := 0#36, clock := List.replicate 12 0, fenced := false, log := [], overflow := 0, lastSerial := 0
    ecnt := List.replicate 14 (0, 0), dev := List.replicate 16 ⟨0#64, 0#64⟩, hbm := [Stack.reset, Stack.reset]
    ports := [⟨false, false, 0, 0, 0#32⟩, ⟨false, false, 0, 0, 0#32⟩], cap := 0, mhz := 800, copy := Copy.empty, tlb := []
    mailboxes := [], pcores := [] }

/-! Tenants (R23, R24, R43, R278, R351, R353, R361, R364 to R372, R379, R388, R402). -/

/-- A grant (R43). -/
structure Grant where
  codeLo : DWord
  codeHi : DWord
  fromSet : OwnerSet
  removed : OwnerSet
  measure : List Byte
  deriving DecidableEq, Repr

/-- A launch port (R351): the grid serials accepted and not yet dealt, and LPSTAT's fields. -/
structure LaunchPort where
  fifo : List Nat
  cause : Nat
  rejected : Nat
  last : Nat
  deriving DecidableEq, Repr

/-- A virtual device. `closing` holds what was written to a window register that the write disables, until the window's lines are home
(R278). -/
structure VD where
  state : Nat
  gen : Nat
  created : Nat
  keys : SMap (List Byte)
  table : SMap OwnerSet
  installed : List Nat
  grants : SMap Grant
  measured : List (Nat × Nat × List Byte)
  weight : Nat
  slice : Nat
  vtime : DWord
  carry : Nat
  ports : List LaunchPort
  gf : List (List Byte)
  gfDropped : Nat
  events : List (List Byte)
  waiting : List (List Byte)
  stale : Nat
  lost : Nat
  labelSat : Bool
  winDrops : Nat
  requester : BitVec 16
  window : Bool
  frozen : Bool
  parts : List (BitVec 16)
  saveBase : DWord
  saveLen : Word
  windows : List (BitVec 128)
  closing : SMap (BitVec 128)
  audcfg : DWord
  audkey : DWord
  auditsMx : SMap Nat
  auditsCl : SMap Nat
  roots : List DWord
  mapBusy : Bool
  mapRefused : Bool
  mapRange : Option (Nat × Nat × Bool)
  mapsync : BitVec 128
  synced : SMap (BitVec 128)
  meters : List DWord
  debug : Bool
  deriving DecidableEq, Repr

/-- A VD that no tenant holds (R364): every register of its window and control block at its reset value. -/
def VD.free : VD :=
  { state := 0, gen := 0, created := 0, keys := [], table := [(0, 0#64), (255, BitVec.allOnes 64)], installed := [], grants := []
    measured := [], weight := 1, slice := 125, vtime := 0#64, carry := 0, ports := List.replicate 4 ⟨[], 0, 0, 0⟩, gf := [], gfDropped := 0
    events := [], waiting := [], stale := 0, lost := 0, labelSat := false, winDrops := 0, requester := 0#16, window := false
    frozen := false, parts := List.replicate 16 0#16, saveBase := 0#64, saveLen := 0#32, windows := List.replicate 8 0#128, closing := []
    audcfg := 20#64, audkey := 0#64, auditsMx := [], auditsCl := [], roots := List.replicate 16 0#64, mapBusy := false
    mapRefused := false, mapRange := none, mapsync := 0#128, synced := [], meters := List.replicate 5 0#64, debug := false }

/-- A migration stream (R375, R376): ticket, source VD or target VD, peer package, whether this package is the source, whether
its ticket has been used, and whether the stream is ready to send. -/
structure Stream where
  ticket : BitVec 128
  vd : Nat
  peer : Nat
  source : Bool
  used : Bool
  ready : Bool
  deriving DecidableEq, Repr

/-- A memory slice as a migration stream carries it (R376); addresses count from the start of the slice. -/
structure SliceImage where
  bytes : List Host.Cell
  lbls : SMap Label
  cleared : SMap Bool
  lines : SMap Bool
  sealed : SMap Bool
  poisoned : SMap Bool
  deriving DecidableEq, Repr

/-- What a migration stream carries of a VD (R376): its ticket, the VD, its grids, blocks and warps, its slices in order, and the slice
numbers that its page tables name. -/
structure Parcel where
  ticket : BitVec 128
  vd : VD
  grids : SMap Grid
  blocks : SMap Block
  warps : SMap Warp
  slices : List Nat
  images : List SliceImage
  deriving DecidableEq, Repr

/-- The security block (R403, R407, R409); `next` is a life-cycle state that takes effect once every frame is cleared (R408). -/
structure Security where
  sbin : DWord
  sbinLen : DWord
  sbout : DWord
  sboutLen : DWord
  busy : Bool
  refused : Bool
  status : Nat
  detail : Nat
  outBytes : Nat
  out : List Byte
  life : Nat
  meas : List (List Byte)
  nonce : List Byte
  loaded : List Nat
  streams : List Stream
  next : Option Nat
  tickets : Nat
  deriving DecidableEq, Repr

/-- The security block at reset (R408, R411): no image loaded, MEAS zero. -/
def Security.reset : Security :=
  { sbin := 0#64, sbinLen := 0#64, sbout := 0#64, sboutLen := 0#64, busy := false, refused := false, status := 0, detail := 0, outBytes := 0
    out := [], life := 0, meas := List.replicate 4 (List.replicate 32 0#8), nonce := [], loaded := [], streams := [], next := none, tickets := 0 }

/-- A debug event (R227): the warp, the PC of the group that halted, and the PC and data comparators that matched. -/
structure DebugEvent where
  warp : Nat
  pc : DWord
  dpc : List Nat
  dda : List Nat
  deriving DecidableEq, Repr

/-- The package block (R400, R401, R405, R406, R411), the estimate in ns of its count's distance from the fabric reference (R281), and the
debug events posted (R227). -/
structure Package where
  phase : Nat
  error : Nat
  errorDie : Nat
  hv : BitVec 16
  kwid : Nat
  kwidSet : Bool
  cap : Nat
  hvEvents : List (List Byte)
  hvLost : Nat
  qown : SMap (BitVec 16)
  sown : SMap (BitVec 16)
  modules : List Bool
  hostClock : List Nat
  ingressClock : List Nat
  skew : Nat
  gridSerial : Nat
  warpSerial : Nat
  vdSerial : Nat
  time : DWord
  holder : SMap Nat
  debugEvents : List DebugEvent
  deriving DecidableEq, Repr

/-- The package at reset. -/
def Package.reset : Package :=
  { phase := 0, error := 0, errorDie := 0, hv := 0#16, kwid := 0, kwidSet := false, cap := 3600, hvEvents := [], hvLost := 0
    qown := [], sown := [], modules := List.replicate 8 true, hostClock := List.replicate 12 0
    ingressClock := List.replicate 12 0, skew := 0, gridSerial := 1, warpSerial := 1, vdSerial := 1, time := 0#64, holder := [], debugEvents := [] }

/-- How the last step ended for the sub-warp that issued (the model's own, to state what a step did). -/
inductive Report where
  | idle
  /-- the group took its effect -/
  | done
  /-- the group waits and has no effect (R132) -/
  | wait
  /-- the group trapped with this cause -/
  | trap (cause : Nat)
  /-- the sub-warp was halted by a comparator (R227) -/
  | halt
  /-- the warp was rolled back to its cue point (R225) -/
  | rolledBack
  /-- an event that was not enabled changed nothing -/
  | disabled
  deriving DecidableEq, Repr

/-- What a packet from another package asks of this one (R268, R276, R279, R298). -/
inductive PacketOp where
  /-- bytes written by CL.PUT or a copy -/
  | put (bytes : List Byte)
  /-- bytes read by CL.GET, a copy, or the fetch of a window's line -/
  | get (n : Nat)
  /-- an arrival of CL.SIG on a barrier object with its count -/
  | signal (count : Nat)
  /-- CL.RED, CL.ATOM or CL.DRAW, or an atomic inside a window, of one lane: op and type, operand and compare value, key and base of a
  draw -/
  | atomic (op ty lane : Nat) (b cmp key base : DWord)
  /-- a window's line written back by a switch, under the VD's generation -/
  | writeBack (gen : Nat) (bytes : List Byte)
  deriving DecidableEq, Repr

/-- A packet that arrives over a Kwaisk port: the VD, the address in it, what it asks, and its owner mask (R27, R29). -/
structure Packet where
  port : Nat
  vd : Nat
  va : DWord
  op : PacketOp
  owners : OwnerSet
  deriving DecidableEq, Repr

/-- What the next steps do, where the outside has said so: an event, a host read of a register that reading does not change (R6), a packet
from another package, or an issue opportunity of a quadrant. -/
inductive Act where
  | event (i : Instr)
  | read (req : Req) (off width : Nat)
  | packet (p : Packet)
  | issue (quad : Nat)
  deriving DecidableEq, Repr

/-- Why an instruction stops at issue with no effect: it traps, waits (R132), parks in XLATE (R216), or meets a comparator (R227). -/
inductive Stop where
  | trap (t : TrapInfo)
  /-- a failed label check (R46): the trap, and the label table and flags with the handles that the check's joins allocated, which its
  record names -/
  | label (t : TrapInfo) (table : SMap OwnerSet) (sat : Bool)
  | wait
  /-- a LOCK whose word cannot be taken waits (R339) -/
  | lock (spad : Bool) (addr : DWord)
  | park (t : TrapInfo) (access : Nat)
  /-- comparators matched (R227): the numbers of the PC comparators and of the data comparators -/
  | halt (dpc dda : List Nat)
  /-- a member enters the rendezvous latch and waits there (R236) -/
  | enter (m : Member)
  deriving DecidableEq, Repr

/-- The group that is issuing: warp, sub-warp, PC, the successor of the group, quadrant, the slot of its first word, its place in a pair
(0 alone, 1 first member, 2 second member), and whether the issue is only tried, a stop then being reported and not taken. -/
structure Current where
  warp : Nat
  sub : SubId
  pc : DWord
  next : DWord
  quad : Nat
  slot : Nat
  pair : Nat
  probe : Bool
  deriving DecidableEq, Repr

/-- No group is issuing. -/
def Current.none : Current := ⟨0, .none, 0#64, 0#64, 0, 0, 0, false⟩

/-- The package. -/
structure State where
  package : Package
  security : Security
  dies : List Die
  cores : SMap Core
  quads : SMap Quad
  vds : SMap VD
  grids : SMap Grid
  blocks : SMap Block
  warps : SMap Warp
  hostMem : Copy
  cleared : SMap Bool
  lines : SMap Bool
  sealed : SMap Bool
  poisoned : SMap Bool
  flights : List Flight
  cmds : SMap Cmd
  switchLines : List WinLine
  writeBacks : List WinLine
  audits : List Audit
  episodes : List Episode
  inbound : List Parcel
  outbound : List Parcel
  deaths : List Nat
  cmdSerial : Nat
  flightSerial : Nat
  stamp : Nat
  opportunity : Nat
  rotor : Nat
  turn : Bool
  wheel : Nat
  reply : List Byte
  free : Nat
  cur : Current
  view : Option (Warp × Quad)
  stopped : Option Stop
  report : Report
  agenda : List Act
  deriving DecidableEq, Repr

/-- Why a step stops the machine. Each is raised by the meaning that its docstring names. -/
inductive Fault where
  /-- Raised by no meaning of this model; kept so that the type is inhabited. Safe. -/
  | unused
  deriving DecidableEq, Repr

/-- Why a step is refused. -/
inductive Refusal where
  /-- Raised by an arm of `exec` whose instruction has no meaning yet. Safe. -/
  | notModelled (mnemonic : String)
  deriving DecidableEq, Repr

/-- The package right after reset (R408, R411): bring-up phase 0, every SRAM zero with label 0, every frame unscrubbed, no tenant,
no work. -/
def State.reset : State :=
  { package := Package.reset, security := Security.reset, dies := List.replicate 9 Die.reset, cores := [], quads := [], vds := []
    grids := [], blocks := [], warps := [], hostMem := Copy.empty, cleared := [], lines := [], sealed := [], poisoned := []
    flights := [], cmds := [], switchLines := [], writeBacks := [], audits := [], episodes := [], inbound := [], outbound := [], deaths := [], cmdSerial := 1
    flightSerial := 1, stamp := 0, opportunity := 0, rotor := 0, turn := false, wheel := 0
    reply := [], free := 0, cur := Current.none, view := none
    stopped := none, report := .idle
    agenda := [] }

end Sys2Proof.Machine
end

