-- ==== Sys2Proof/Machine/Labels.lean ====
section
/-! DEFINITION. Reaching the parts of the state by number, and the label table: join, dominance, allocation (R24, R25). -/

namespace Sys2Proof.Machine

open Sys2Proof

/-- A warp number that names no warp. -/
def Warp.none : Warp :=
  { serial := 0, grid := 0, block := 0, index := 0, vd := 0, quad := 0, life := .dead, clearance := 0#8, o := [], v := []
    s := List.replicate 32 Reg.zero, k := List.replicate 8 MaskReg.zero, ac := List.replicate 16 0#16
    queues := List.replicate 16 Queue.free, path := [], exited := BitVec.allOnes 32, subs := [], splits := [], rets := []
    tc := 0#64, disposition := 0#64, dispLabel := 0#8, flags := 0#8, flagLabel := 0#8, srseq := 0#32, handler := false
    handlerSub := .none, shadow := List.replicate 8 Reg.zero, sheet := false, cue := .none, gang := 0#32, policy := 0#16
    policyLabel := 0#8, will := 0#16, willTag := 0#16, estate := [], debtHeir := 5#16, debtTo := .none, debtDone := false, dropped := 0, claimant := false, ldx := []
    fe := [], deliveries := [], pending := [], prefetches := 0, stopped := false, evict := 0, mark := List.replicate 12 0 }

/-- A launch record of zeros. -/
def LaunchRec.none : LaunchRec :=
  { code := 0#64, arg := 0#64, handler := 0#64, dkey := 0#64, blocks := 0, lanes := 0, perCluster := 1, g := 1, regs := 8
    spadBytes := 0, cueBytes := 0, clearance := 0#8, priority := 0, partition := 0, heir := 0#16, comm := .none, park := false
    tag := 0#16 }

/-- A grid number that names no grid. -/
def Grid.none : Grid :=
  { serial := 0, vd := 0, gen := 0, record := LaunchRec.none, depth := 0, port := .none, parent := .none, dealt := false, shares := []
    killed := false, faults := 0, probate := [], complete := true, mark := List.replicate 12 0 }

/-- A block that does not exist. -/
def Block.none : Block := ⟨0, 0, 0, 0, [], Spad.fresh, .none, false, [], false⟩

/-- The key of block `b` of grid `g`: grid serials and block numbers are 32 bits wide. -/
def blockKey (g b : Nat) : Nat := g * 2 ^ 32 + b

namespace State

/-- The warp with a serial. -/
def warp (s : State) (w : Nat) : Warp := (s.warps.get? w).getD Warp.none
def setWarp (s : State) (w : Nat) (x : Warp) : State := { s with warps := s.warps.put w x }
def modWarp (s : State) (w : Nat) (f : Warp → Warp) : State := s.setWarp w (f (s.warp w))

/-- The VD with a number. -/
def vd (s : State) (v : Nat) : VD := (s.vds.get? v).getD VD.free
def setVd (s : State) (v : Nat) (x : VD) : State := { s with vds := s.vds.put v x }
def modVd (s : State) (v : Nat) (f : VD → VD) : State := s.setVd v (f (s.vd v))

/-- The grid with a serial. -/
def grid (s : State) (g : Nat) : Grid := (s.grids.get? g).getD Grid.none
def setGrid (s : State) (g : Nat) (x : Grid) : State := { s with grids := s.grids.put g x }
def modGrid (s : State) (g : Nat) (f : Grid → Grid) : State := s.setGrid g (f (s.grid g))

/-- A block of a grid. -/
def block (s : State) (g b : Nat) : Block := (s.blocks.get? (blockKey g b)).getD Block.none
def setBlock (s : State) (g b : Nat) (x : Block) : State := { s with blocks := s.blocks.put (blockKey g b) x }
def modBlock (s : State) (g b : Nat) (f : Block → Block) : State := s.setBlock g b (f (s.block g b))

/-- A die of the package. -/
def die (s : State) (d : Nat) : Die := (s.dies[d]?).getD Die.reset
def setDie (s : State) (d : Nat) (x : Die) : State := if d < 9 then { s with dies := setPad Die.reset s.dies d x } else s
def modDie (s : State) (d : Nat) (f : Die → Die) : State := s.setDie d (f (s.die d))

/-- A core, numbered 36 times its die plus its number on the die (R10). -/
def core (s : State) (c : Nat) : Core := s.cores.get Core.reset c
def setCore (s : State) (c : Nat) (x : Core) : State := { s with cores := s.cores.set Core.reset c x }
def modCore (s : State) (c : Nat) (f : Core → Core) : State := s.setCore c (f (s.core c))

/-- A quadrant, numbered 4 times its core plus its number on the core (R10). -/
def quad (s : State) (q : Nat) : Quad := s.quads.get Quad.reset q
def setQuad (s : State) (q : Nat) (x : Quad) : State := { s with quads := s.quads.set Quad.reset q x }
def modQuad (s : State) (q : Nat) (f : Quad → Quad) : State := s.setQuad q (f (s.quad q))

/-- A stack: stack `t` belongs to die `t / 2` (R9). -/
def stack (s : State) (t : Nat) : Stack := ((s.die (t / 2)).hbm[t % 2]?).getD Stack.reset
def modStack (s : State) (t : Nat) (f : Stack → Stack) : State :=
  s.modDie (t / 2) (fun d => { d with hbm := setAt d.hbm (t % 2) (f (s.stack t)) })

/-- A mailbox of a die (R303). -/
def mailbox (s : State) (d m : Nat) : Mailbox := (s.die d).mailboxes.get Mailbox.reset m
def modMailbox (s : State) (d m : Nat) (f : Mailbox → Mailbox) : State :=
  s.modDie d (fun x => { x with mailboxes := x.mailboxes.set Mailbox.reset m (f (s.mailbox d m)) })

/-- A Poleile core of a die (R300). -/
def pcore (s : State) (d c : Nat) : PCore := (s.die d).pcores.get PCore.reset c
def modPcore (s : State) (d c : Nat) (f : PCore → PCore) : State :=
  s.modDie d (fun x => { x with pcores := x.pcores.set PCore.reset c (f (s.pcore d c)) })

end State

/-- The die of a core (R10). -/
def dieOfCore (c : Nat) : Nat := c / 36
/-- The core of a quadrant (R10). -/
def coreOfQuad (q : Nat) : Nat := q / 4
/-- The die of a quadrant. -/
def dieOfQuad (q : Nat) : Nat := dieOfCore (coreOfQuad q)

/-- A warp's launch record. -/
def State.record (s : State) (w : Nat) : LaunchRec := (s.grid (s.warp w).grid).record

/-- Helper lanes of a warp: at or above N in a quad that also holds a lane below N (R129). -/
def helperLanes (s : State) (w : Nat) : LaneMask :=
  let n := (s.record w).lanes - 32 * (s.warp w).index
  lanesBelow (roundUp n 4) &&& ~~~(lanesBelow n)

/-- A sub-warp of a warp, by its identity. -/
def Warp.sub (x : Warp) (i : SubId) : Option SubWarp := x.subs.find? (fun u => u.id == i)
/-- Replace the sub-warp of that identity. -/
def Warp.setSub (x : Warp) (u : SubWarp) : Warp :=
  { x with subs := x.subs.map (fun v => if v.id == u.id then u else v) }
/-- Drop the sub-warp of that identity. -/
def Warp.dropSub (x : Warp) (i : SubId) : Warp := { x with subs := x.subs.filter (fun v => v.id != i) }
/-- The path label of a lane (R37). -/
def Warp.pathOf (x : Warp) (i : Nat) : Label := x.path.get 0#8 i

/-! The label table (R23 to R25). -/

/-- The owner set that a handle of a table holds. An unallocated handle labels nothing; it reads as every owner. -/
def tableSet (t : SMap OwnerSet) (h : Label) : OwnerSet := (t.get? h.toNat).getD (BitVec.allOnes 64)

/-- The handle that holds an owner set, where one does. -/
def handleOf (t : SMap OwnerSet) (x : OwnerSet) : Option Label :=
  (t.find? (fun e => e.2 == x)).map (fun e => BitVec.ofNat 8 e.1)

/-- The lowest free handle of a table (R25, step 2). -/
def lowestFree (t : SMap OwnerSet) : Option Nat := (List.range 256).find? (fun h => (t.get? h).isNone)

/-- The handle of an owner set, allocated where no handle holds it; none when the table is full (R25). -/
def internSet (t : SMap OwnerSet) (x : OwnerSet) : Option (Label × SMap OwnerSet) :=
  match handleOf t x with
  | some h => some (h, t)
  | none => (lowestFree t).map (fun f => (BitVec.ofNat 8 f, t.put f x))

/-- Whether handle `a` dominates handle `b` in a table: its set is a superset (R25). -/
def dominatesIn (t : SMap OwnerSet) (a b : Label) : Bool := a == b || tableSet t b &&& ~~~(tableSet t a) == 0#64

namespace State

/-- The owner set of a handle of a VD. -/
def ownersOf (s : State) (v : Nat) (h : Label) : OwnerSet := tableSet (s.vd v).table h

/-- Dominance in a VD's table (R25). -/
def dominates (s : State) (v : Nat) (a b : Label) : Bool := dominatesIn (s.vd v).table a b

/-- The handle of an owner set of a VD; on a full table 255, and `sat` is applied (R25, R29). -/
def intern (s : State) (v : Nat) (x : OwnerSet) (sat : State → State) : Label × State :=
  match internSet (s.vd v).table x with
  | some (h, t) => (h, if t = (s.vd v).table then s else s.modVd v (fun d => { d with table := t }))
  | none => (255#8, sat s)

/-- LSAT in %astat: the flag, and 255 joined into the flag label (R25 step 3, R119). -/
def setLsat (w : Nat) (s : State) : State :=
  s.modWarp w (fun x => { x with flags := x.flags ||| 0x80#8, flagLabel := 255#8 })

/-- The join of two labels for a warp (R25). -/
def join (s : State) (w : Nat) (a b : Label) : Label × State :=
  if a = b ∨ b = 0#8 then (a, s)
  else if a = 0#8 then (b, s)
  else
    let v := (s.warp w).vd
    s.intern v (s.ownersOf v a ||| s.ownersOf v b) (setLsat w)

/-- The join of two labels of a VD for which no warp asks: no flag is set (R25). -/
def joinVd (s : State) (v : Nat) (a b : Label) : Label × State :=
  if a = b ∨ b = 0#8 then (a, s)
  else if a = 0#8 then (b, s)
  else s.intern v (s.ownersOf v a ||| s.ownersOf v b) id

/-- The join of two labels in a helper lane of a warp: no flag is set (R25, R130). -/
def joinQuiet (s : State) (w : Nat) (a b : Label) : Label × State := s.joinVd (s.warp w).vd a b

/-- The join of a list of labels, taken from the left (R25). -/
def joinList (s : State) (w : Nat) (ls : List Label) : Label × State :=
  ls.foldl (fun (acc : Label × State) l => acc.2.join w acc.1 l) (0#8, s)

/-- The join of a list of labels in a helper lane, where no condition raises a flag (R130). -/
def joinListQuiet (s : State) (w : Nat) (ls : List Label) : Label × State :=
  ls.foldl (fun (acc : Label × State) l => acc.2.joinQuiet w acc.1 l) (0#8, s)

/-- Per lane, the join of the labels that `f` gives it; in a helper lane a join that saturates sets no flag (R130). -/
def joinLanes (s : State) (w : Nat) (m : LaneMask) (f : Nat → List Label) : SMap Label × State :=
  (lanesOf m).foldl (fun (acc : SMap Label × State) i =>
    let (l, s') := if hasLane (helperLanes s w) i then acc.2.joinListQuiet w (f i) else acc.2.joinList w (f i)
    (acc.1.set 0#8 i l, s')) ([], s)

end State

end Sys2Proof.Machine
end

