-- ==== Sys2Proof/Machine/Memory.lean ====
section
/-! DEFINITION. Memory: copies on the nine dies and their clocks (R51 to R53), unscrubbed frames (R374), page tables and
translation (R368, R369), scratchpads (R187, R193), and the writes in flight that are a warp's store debt (R189). -/

namespace Sys2Proof.Machine

open Sys2Proof

/-! Bytes. -/

/-- What a byte of memory that nothing has written reads as: after a reset every frame is unscrubbed, and an unscrubbed line
reads as zero (R374, R408). -/
def unwritten : Byte := 0#8

/-- One byte of a memory (R5). -/
def readByte (m : List Host.Cell) (a : Nat) : Byte := SMap.get unwritten m a

/-- Write one byte. -/
def writeByte (m : List Host.Cell) (a : Nat) (b : Byte) : List Host.Cell := SMap.set unwritten m a b

/-- `n` bytes from `a` up. -/
def readBytes (m : List Host.Cell) (a n : Nat) : List Byte := (List.range n).map (fun k => readByte m (a + k))

/-- Write bytes from `a` up. -/
def writeBytes (m : List Host.Cell) (a : Nat) : List Byte → List Host.Cell
  | [] => m
  | b :: bs => writeBytes (writeByte m a b) (a + 1) bs

/-- The canonical form of a memory: addresses strictly rising, no entry equal to what an unlisted address reads as. -/
abbrev Memory.wf (m : List Host.Cell) : Prop := SMap.wf unwritten m = true

/-! Physical locations. -/

/-- A byte of package memory or of host memory, by physical address. -/
structure Loc where
  host : Bool
  pa : Nat
  deriving DecidableEq, Repr

/-- The home die of an HBM address: slice `s` belongs to die `s / 32` (R366, R402). -/
def homeDie (pa : Nat) : Nat := pa / 2 ^ 37
/-- The memory slice of an HBM address. -/
def sliceOf (pa : Nat) : Nat := pa / 2 ^ 32
/-- The granule, or line, of an address (R27). -/
def granule (a : Nat) : Nat := a / 64
/-- The frame of an address (R368). -/
def frameOf (pa : Nat) : Nat := pa / 65536
/-- The key of a frame's sealed state: host frames are numbered apart. -/
def sealKey (l : Loc) : Nat := (if l.host then 2 ^ 48 else 0) + frameOf l.pa

namespace State

/-- Whether a line has been cleared since its frame was last marked unscrubbed (R374). -/
def scrubbed (s : State) (pa : Nat) : Bool :=
  s.cleared.get false (frameOf pa) || s.lines.get false (granule pa)

/-- A write in flight without what it would still do to the frames of a test; none when that was all of it. -/
def keepOff (f : Nat → Bool) (x : Flight) : Option Flight :=
  match x.op with
  | .rdm op ty lanes key base =>
    let ls := lanes.filter (fun l => !f (frameOf l.pa))
    if ls.isEmpty then none else some { x with op := .rdm op ty ls key base }
  | _ => if !x.host && f (frameOf x.pa) then none else some x

/-- Mark a frame unscrubbed (R374): what was written to it under the old binding and is still in flight reaches no copy (R64). -/
def markFrame (s : State) (f : Nat) : State :=
  { s with
    cleared := s.cleared.erase f, lines := s.lines.dropRange (f * 1024) (f * 1024 + 1024), flights := s.flights.filterMap (keepOff (fun k => k == f)) }

/-- The first access to an unscrubbed frame moves its clear to the head of its controller's queue (R374). -/
def touchFrame (s : State) (pa : Nat) : State :=
  let f := frameOf pa
  let t := pa / 2 ^ 36
  if s.scrubbed pa ∨ (s.stack t).head.contains f then s
  else s.modStack t (fun k => { k with head := k.head ++ [f], moved := min (k.moved + 1) 65535 })

/-- The copy of memory that a die reads: its own for HBM (R51), the one host memory otherwise. -/
def copyAt (s : State) (d : Nat) (l : Loc) : Copy := if l.host then s.hostMem else (s.die d).copy

/-- `n` bytes at a location as a die reads them; an unscrubbed line reads as zero (R28, R374). -/
def readLoc (s : State) (d : Nat) (l : Loc) (n : Nat) : List Byte :=
  if l.host ∨ s.scrubbed l.pa then readBytes (s.copyAt d l).bytes l.pa n else List.replicate n 0#8

/-- One byte of memory as a die reads it. -/
def readMem (s : State) (d : Nat) (l : Loc) : Byte :=
  if l.host ∨ s.scrubbed l.pa then readByte (s.copyAt d l).bytes l.pa else 0#8

/-- The label of the granule at a location as a die holds it; an unscrubbed line has label 0 (R28). -/
def labelLoc (s : State) (d : Nat) (l : Loc) : Label :=
  if l.host ∨ s.scrubbed l.pa then (s.copyAt d l).lbls.get 0#8 (granule l.pa) else 0#8

/-- Set a granule's label in the copy of a die, or in host memory. -/
def setLabelAt (s : State) (d : Nat) (l : Loc) (h : Label) : State :=
  if l.host then { s with hostMem := { s.hostMem with lbls := s.hostMem.lbls.set 0#8 (granule l.pa) h } }
  else s.modDie d (fun x => { x with copy := { x.copy with lbls := x.copy.lbls.set 0#8 (granule l.pa) h } })

/-- Set a granule's label in every copy. -/
def setLabelAll (s : State) (l : Loc) (h : Label) : State :=
  if l.host then s.setLabelAt 0 l h else (List.range 9).foldl (fun s d => s.setLabelAt d l h) s

end State

/-- The stamp of a clock and its source (R53): the sum of the entries. -/
def stampOf (clock : List Nat) (src : Nat) : Stamp := ⟨clock.foldl (· + ·) 0, src⟩

/-- The order of R53: by sum, ties by the lower source index being earlier. -/
def Stamp.later (a b : Stamp) : Bool := b.sum < a.sum || (a.sum == b.sum && b.src ≤ a.src)

/-- Entrywise maximum of two clocks (R51). -/
def clockMax (a b : List Nat) : List Nat := List.zipWith max a b

/-- `a < b` of R52: entrywise at most, and not equal. -/
def clockLt (a b : List Nat) : Bool := (List.zipWith (fun x y => decide (x ≤ y)) a b).all id && a != b

/-- Entry `i` of a clock raised by one (R51). -/
def clockTick (v : List Nat) (i : Nat) : List Nat := setAt v i ((v[i]?).getD 0 + 1)

/-- A copy applies the bytes of a write: word by word, unless the word holds a cvo-later write (R53). -/
def Copy.apply (c : Copy) (pa : Nat) (bs : List Byte) (t : Stamp) : Copy :=
  let live := (List.range bs.length).filter (fun k => t.later (c.stamps.get ⟨0, 0⟩ ((pa + k) / 4)))
  { c with
    bytes := live.foldl (fun m k => writeByte m (pa + k) ((bs[k]?).getD 0)) c.bytes
    stamps := live.foldl (fun m k => m.set ⟨0, 0⟩ ((pa + k) / 4) t) c.stamps }

/-! Translation (R368, R369). -/

/-- What an access needs of its page (R369); `label` is a change of granule labels by GRAISE or DCL, which no host page takes. -/
inductive Need where
  | read | write | atomic | exec | label
  deriving DecidableEq, Repr

/-- Fields of a leaf. -/
def leafBit (e : BitVec 128) (i : Nat) : Bool := e.getLsbD i
def leafLabel (e : BitVec 128) : Label := field e 16 8
def leafCeiling (e : BitVec 128) : Label := field e 24 8
def leafFrame (e : BitVec 128) : Nat := (field e 64 48).toNat
def leafSize (e : BitVec 128) : Nat := (field e 2 2).toNat
/-- Bytes of a page by its size code (R368). -/
def pageBytes (size : Nat) : Nat := if size = 0 then 2 ^ 16 else if size = 1 then 2 ^ 21 else 2 ^ 30

/-- What a walk finds. -/
inductive Walk where
  | xlate
  | prot
  | leaf (l : Leaf)
  deriving DecidableEq, Repr

/-- Whether a VD owns the slice of an HBM address (R366). -/
def State.ownsSlice (s : State) (v pa : Nat) : Bool :=
  sliceOf pa < 288 && (s.package.sown.get 0#16 (sliceOf pa) &&& 0x7FF#16) == BitVec.ofNat 16 (1024 + v)

/-- A table entry, read from the home copy of its frame. -/
def State.tableEntry (s : State) (pa : Nat) : BitVec 128 := ofBytes 128 (s.readLoc (homeDie pa) ⟨false, pa⟩ 16)

/-- Entry and group index of a level. -/
def levelIndex (va : DWord) (level : Nat) : Nat := (va.toNat / 2 ^ (16 + 11 * level)) % 2048

/-- A leaf that breaks a rule of R369 that depends only on its bits, its level and its group. -/
def leafShapeBad (s : State) (table level idx : Nat) (e : BitVec 128) : Bool :=
  let sz := leafSize e
  let n := if sz = 1 then 32 else if sz = 2 then 8 else 1
  let first := idx / n * n
  field e 12 4 != 0#4 || field e 36 28 != 0#28 || field e 112 16 != 0#16 ||
  !(level == 0 && sz ≤ 1 || level == 1 && sz == 2) || leafFrame e * 65536 % pageBytes sz != 0 ||
  (List.range n).any (fun j => s.tableEntry (table * 65536 + 16 * (first + j)) != e)

/-- A table entry that is no leaf and sets a field other than valid and frame (R369). -/
def nodeBad (e : BitVec 128) : Bool := e &&& ~~~(((BitVec.allOnes 128 >>> 80) <<< 64) ||| 1#128) != 0#128

/-- The walk from a table at a level down (R368). -/
def walkFrom (s : State) (v : Nat) (va : DWord) : Nat → Nat → Walk
  | 0, _ => .prot
  | level + 1, table =>
    if !s.ownsSlice v (table * 65536) then .prot
    else
      let idx := levelIndex va level
      let e := s.tableEntry (table * 65536 + 16 * idx)
      if !leafBit e 0 then .xlate
      else if leafBit e 1 then
        if leafShapeBad s table level idx e then .prot
        else .leaf ⟨v, va.toNat / pageBytes (leafSize e) * pageBytes (leafSize e), leafSize e, e⟩
      else if level = 0 ∨ nodeBad e then .prot
      else walkFrom s v va level (leafFrame e)

/-- A walk from the region register (R368). -/
def State.walk (s : State) (v : Nat) (va : DWord) : Walk :=
  let r := ((s.vd v).roots[va.toNat / 2 ^ 60]?).getD 0#64
  if !r.getLsbD 0 then .xlate else walkFrom s v va 4 (r.toNat / 65536)

/-- Whether an episode has a page between two byte addresses (R302). -/
def State.episodePage (s : State) (a b : Nat) : Bool :=
  s.episodes.any (fun e => e.pages.any (fun p => decide (a ≤ p.2 * 4096) && decide (p.2 * 4096 < b)))

/-- A leaf that breaks a rule of R369 that depends on the VD: slices, home die, permissions, labels; or one that would let a warp reach a
page of an episode, which no warp maps (R302). -/
def leafBad (s : State) (l : Leaf) : Bool :=
  let e := l.bits
  let t := (s.vd l.vd).table
  let last := (leafFrame e * 65536 + pageBytes l.size - 1)
  (if leafBit e 11 then field e 32 4 != 0#4
   else !s.ownsSlice l.vd (leafFrame e * 65536) || !s.ownsSlice l.vd last ||
     (field e 32 4).toNat != homeDie (leafFrame e * 65536) ||
    s.episodePage (leafFrame e * 65536) (leafFrame e * 65536 + pageBytes l.size)) ||
  (leafBit e 6 && !leafBit e 5) || (t.get? (leafLabel e).toNat).isNone || (t.get? (leafCeiling e).toNat).isNone ||
  (!leafBit e 8 && leafCeiling e != 0#8) || (leafBit e 8 && !dominatesIn t (leafCeiling e) (leafLabel e))

/-- Which unit translates: a quadrant with its TLB and its core's (R10), or the walker that a die's engines share. -/
inductive Mmu where
  | die (d : Nat)
  | quad (q : Nat)
  deriving DecidableEq, Repr

/-- The leaf of a TLB that holds an address. -/
def tlbHit (t : List Leaf) (v : Nat) (va : DWord) : Option Leaf :=
  t.find? (fun l => l.vd == v && decide (l.va ≤ va.toNat) && decide (va.toNat < l.va + pageBytes l.size))

/-- A leaf enters a TLB of `n` entries; a full one gives up its oldest (which entry it gives up: DESIGN CHOICE, log entry 12). -/
def tlbFill (n : Nat) (t : List Leaf) (l : Leaf) : List Leaf := (t ++ [l]).drop (t.length + 1 - n)

/-- Fill a quadrant's TLB of 128 entries. -/
def State.fillQuad (s : State) (q : Nat) (l : Leaf) : State := s.modQuad q (fun x => { x with tlb := tlbFill 128 x.tlb l })

/-- What a sync drops of a TLB: the entries of a VD that reach into a range of addresses (R370). -/
def tlbDrop (v lo hi : Nat) (t : List Leaf) : List Leaf :=
  t.filter (fun l => !(l.vd == v && decide (l.va < hi) && decide (lo < l.va + pageBytes l.size)))

/-- Every TLB of the package drops a VD's entries of a range (R370). -/
def State.dropTlbs (s : State) (v lo hi : Nat) : State :=
  { s with
    dies := s.dies.map (fun d => { d with tlb := tlbDrop v lo hi d.tlb })
    cores := s.cores.map (fun e => (e.1, { e.2 with tlb := tlbDrop v lo hi e.2.tlb }))
    quads := s.quads.map (fun e => (e.1, { e.2 with tlb := tlbDrop v lo hi e.2.tlb })) }

/-- The leaf that is used for an address: from the TLB of the quadrant, then of its core with 2,048 entries, then by a walk that fills
both (R10, R370); a die's engines use what its walker holds. -/
def State.findLeaf (s : State) (m : Mmu) (v : Nat) (va : DWord) : Walk × State :=
  match m with
  | .die d =>
    match tlbHit (s.die d).tlb v va with
    | some l => (.leaf l, s)
    | none =>
      match s.walk v va with
      | .leaf l => (.leaf l, s.modDie d (fun x => { x with tlb := x.tlb ++ [l] }))
      | w => (w, s)
  | .quad q =>
    match tlbHit (s.quad q).tlb v va with
    | some l => (.leaf l, s)
    | none =>
      match tlbHit (s.core (coreOfQuad q)).tlb v va with
      | some l => (.leaf l, s.fillQuad q l)
      | none =>
        match s.walk v va with
        | .leaf l => (.leaf l, (s.fillQuad q l).modCore (coreOfQuad q) (fun x => { x with tlb := tlbFill 2048 x.tlb l }))
        | w => (w, s)

/-- The physical location of an address in a leaf. -/
def Leaf.loc (l : Leaf) (va : DWord) : Loc := ⟨leafBit l.bits 11, leafFrame l.bits * 65536 + (va.toNat - l.va)⟩

/-- The permission that an access needs (R369). -/
def permits (e : BitVec 128) : Need → Bool
  | .read => leafBit e 4
  | .write => leafBit e 5
  | .atomic => leafBit e 6
  | .exec => leafBit e 7 && leafBit e 4
  | .label => leafBit e 5

/-- The reduction window that holds an address (R278). -/
def State.window (s : State) (v : Nat) (va : DWord) : Option (BitVec 128) :=
  (s.vd v).windows.find? (fun x => x.getLsbD 92 && decide ((field x 0 64).toNat / 65536 * 65536 ≤ va.toNat) &&
    decide (va.toNat < (field x 0 64).toNat / 65536 * 65536 + (field x 64 16).toNat * 65536))

/-- Whether an address lies in a window homed on another package: a peer address for plain accesses (R11, R279). -/
def State.peerVa (s : State) (v : Nat) (va : DWord) : Bool :=
  match s.window v va with
  | some x => (field x 80 12).toNat != s.package.kwid
  | none => false

/-- A translation that passed steps 3 to 5 of R188: location, page label, ceiling, floating. -/
structure Page where
  loc : Loc
  label : Label
  ceiling : Label
  floating : Bool
  leaf : Leaf
  deriving DecidableEq, Repr

/-- The label of a granule of a page, as a die holds it; a host page's granules carry the page's label at all times (R369). -/
def State.pageLabel (s : State) (d : Nat) (p : Page) : Label := if p.loc.host then p.label else s.labelLoc d p.loc

/-- The label that a write to a page must dominate with, as a die holds it: an unscrubbed line counts with the page's label, which its
clear gives it before the write is applied (R34, R374; DEDUCED, log entry 33). -/
def State.guardLoc (s : State) (d : Nat) (p : Page) : Label :=
  if s.scrubbed p.loc.pa then s.pageLabel d p else p.label

/-- The step of R188 at which an access fails. -/
inductive AccessFault where
  | align | bounds | xlate | prot | sealed | label
  deriving DecidableEq, Repr

/-- Step number in R188. -/
def AccessFault.step : AccessFault → Nat
  | .align => 1
  | .bounds => 2
  | .xlate => 3
  | .prot => 4
  | .sealed => 5
  | .label => 6

/-- Bit of %tc (R209). -/
def AccessFault.cause : AccessFault → Nat
  | .align => 11
  | .bounds => 12
  | .xlate => 8
  | .prot => 9
  | .sealed => 10
  | .label => 6

/-- Translate an access, through step 5 of R188. `write` says that it is a write of any kind; `plain` that a peer address
is refused; host memory takes no atomic and no change of its labels (R197, R369). -/
def State.translate (s : State) (m : Mmu) (v : Nat) (va : DWord) (need : Need) (write plain : Bool) : Except AccessFault Page × State :=
  if plain && s.peerVa v va then (.error .prot, s)
  else
    match s.findLeaf m v va with
    | (.xlate, s) => (.error .xlate, s)
    | (.prot, s) => (.error .prot, s)
    | (.leaf l, s) =>
      let e := l.bits
      if leafBad s l || !permits e need || ((need == .atomic || need == .label) && leafBit e 11) then (.error .prot, s)
      else
        let loc := l.loc va
        if write && s.sealed.get false (sealKey loc) then (.error .sealed, s)
        else (.ok ⟨loc, leafLabel e, leafCeiling e, leafBit e 8, l⟩, if loc.host then s else s.touchFrame loc.pa)

/-! Writes in flight (R51, R52, R189, R192). -/

/-- A request of the communication class of a memory controller (R280): one that entered by Kwaisk, or a collective's. -/
def Flight.comm (f : Flight) : Bool := !f.host && (f.src == 10 || f.path == 5)

namespace State

/-- The vector clock of a source (R51). -/
def clockOf (s : State) (src : Nat) : List Nat :=
  if src < 9 then (s.die src).clock else if src = 9 then s.package.hostClock else s.package.ingressClock

/-- Set the clock of a source. -/
def setClock (s : State) (src : Nat) (c : List Nat) : State :=
  if src < 9 then s.modDie src (fun d => { d with clock := c })
  else if src = 9 then { s with package := { s.package with hostClock := c } }
  else { s with package := { s.package with ingressClock := c } }

/-- Die `d` applies a write: its clock merges the write's, and its copy takes the bytes that are not cvo-earlier (R51, R53). -/
def applyAt (s : State) (d pa : Nat) (bs : List Byte) (clock : List Nat) (src : Nat) : State :=
  s.modDie d (fun x => { x with clock := clockMax x.clock clock, copy := x.copy.apply pa bs (stampOf clock src) })

/-- The dies that hold copies: those not fenced (R393). -/
def liveDies (s : State) : List Nat := (List.range 9).filter (fun d => !(s.die d).fenced)

/-- Whether die `d` may apply the write `f` (R52): every write with a smaller clock that is in flight has been applied there. -/
def mayApply (s : State) (d : Nat) (f : Flight) : Bool :=
  s.flights.all (fun g => g.id == f.id || !clockLt g.clock f.clock || g.host || g.applied.contains d)

/-- Drop a flight that its home and every live die have applied. -/
def retireFlights (s : State) : State :=
  { s with flights := s.flights.filter (fun f => !(f.atHome && (f.host || s.liveDies.all f.applied.contains))) }

/-- The bytes that a flight writes. -/
def flightBytes (f : Flight) : List Byte :=
  match f.op with
  | .store bs => bs
  | _ => []

/-- Whether a flight writes a byte of a range; an RDM lane takes up to 8 bytes. -/
def overlaps (f : Flight) (l : Loc) (n : Nat) : Bool :=
  match f.op with
  | .rdm _ _ lanes _ _ => !l.host && lanes.any (fun x => decide (x.pa < l.pa + n) && decide (l.pa < x.pa + 8))
  | _ => f.host == l.host && decide (f.pa < l.pa + n) && decide (l.pa < f.pa + max (flightBytes f).length 1)

/-- A warp's own write to the bytes is not yet seen by die `d`, so that a read of them waits (R192). -/
def ownPending (s : State) (w d : Nat) (l : Loc) (n : Nat) : Bool :=
  s.flights.any (fun f => f.warp == w && overlaps f l n && (if l.host then !f.atHome else !f.applied.contains d))

/-- The store debt of a warp (R189, R270): its writes that the home has not applied, and those of a command that has not completed. -/
def debt (s : State) (w : Nat) : List Flight := s.flights.filter (fun f => f.warp == w && (!f.atHome || (s.cmds.get? f.cmd).isSome))

/-- A write to an unscrubbed line waits for the line's clear (R374). -/
def blocked (s : State) (l : Loc) : Bool := !l.host && !s.scrubbed l.pa

/-- Whether die `d` has applied every write in flight whose clock is at most `clk` (R52). -/
def caughtUp (s : State) (d : Nat) (clk : List Nat) : Bool :=
  s.flights.all (fun g => g.host || g.applied.contains d || !((List.zipWith (fun x y => decide (x ≤ y)) g.clock clk).all id))

/-- The communication requests that wait at a controller (R280). -/
def commDepth (s : State) (t : Nat) : Nat :=
  min 1023 (s.flights.filter (fun f => f.comm && !f.atHome && f.pa / 2 ^ 36 == t)).length

/-- A controller's ranking after its communication queue has changed (R280): raised above the threshold, until the queue holds fewer
than half of it. -/
def rank (s : State) (t : Nat) : State :=
  s.modStack t (fun k => { k with
    depth := s.commDepth t
    raised := k.threshold == 0 || (if k.raised then decide (k.threshold / 2 ≤ s.commDepth t) else decide (k.threshold < s.commDepth t)) })

/-- Put a write in flight from its source, whose clock has ticked (R51, R192): a copy that is the source's own and the home applies
it at issue, where causal order (R52) and the line's clear (R374) allow it; `act` is what it does there. -/
def issueFlight (s : State) (f : Flight) (act : State → State) : State :=
  let f := { f with id := s.flightSerial, clock := clockTick (s.clockOf f.src) f.src }
  let s := s.setClock f.src f.clock
  let here := !f.host && homeDie f.pa == f.src && !s.blocked ⟨false, f.pa⟩ && s.mayApply f.src f
  let f := { f with atHome := here, applied := if here then [f.src] else [] }
  let s := if here then act s else s
  let s := { s with flights := s.flights ++ [f], flightSerial := s.flightSerial + 1 }
  if f.comm then s.rank (f.pa / 2 ^ 36) else s

/-- A flight before it is issued. -/
def mkFlight (w d v : Nat) (l : Loc) (va : DWord) (op : FlightOp) (lbl : Label) (pc : DWord) (lanes : LaneMask) (path cmd : Nat) : Flight :=
  { id := 0, warp := w, vd := v, src := d, host := l.host, pa := l.pa, va := va, op := op, lbl := lbl, pc := pc, lanes := lanes
    path := path, cmd := cmd, clock := [], atHome := false, applied := [], floating := false }

/-- Issue a global store from die `d` (R51, R192). -/
def issueStore (s : State) (w d v : Nat) (l : Loc) (va : DWord) (bs : List Byte) (lbl : Label) (pc : DWord) (lanes : LaneMask) :
    State :=
  let f := mkFlight w d v l va (.store bs) lbl pc lanes 1 0
  s.issueFlight f (fun s => s.applyAt d l.pa bs (s.clockOf d) d)

/-- A source's clock ticks `n` times (R51). -/
def tick (s : State) (src n : Nat) : State := s.setClock src (setAt (s.clockOf src) src (((s.clockOf src)[src]?).getD 0 + n))

/-- An engine access that is ordered after what a die has seen, and whose writes enter by Kwaisk: the ingress clock merges the die's (R56,
R62). -/
def mergeIngress (s : State) (d : Nat) : State := s.setClock 10 (clockMax (s.clockOf 10) (s.clockOf d))

/-- Perform an atomic write at the home of a line (R51, R60): its clock, stamped at performance, is the home's merged with the request's
and ticked at the home, its source is the home (R53), and every other die has it still to apply. `lbl` is the granule's label where
the access raised it; path and command are those of the access (R48). -/
def performAtHome (s : State) (w v path cmd : Nat) (l : Loc) (va : DWord) (bs : List Byte) (lbl : Option Label)
    (reqClock : List Nat) : State :=
  let h := homeDie l.pa
  let clock := clockTick (clockMax (s.clockOf h) reqClock) h
  let s := s.applyAt h l.pa bs clock h
  let s := match lbl with
    | some x => s.setLabelAt h l x
    | none => s
  let f : Flight :=
    { id := s.flightSerial, warp := w, vd := v, src := h, host := false, pa := l.pa, va := va, op := .store bs, lbl := lbl.getD 0#8
      pc := 0#64, lanes := 0#32, path := path, cmd := cmd, clock := clock, atHome := true, applied := [h], floating := lbl.isSome }
  { s with flights := s.flights ++ [f], flightSerial := s.flightSerial + 1 }

end State

/-! Scratchpad (R187, R193, R386). -/

/-- `n` bytes at an offset. -/
def Spad.read (p : Spad) (a n : Nat) : List Byte := readBytes p.bytes a n
/-- The label of a granule. -/
def Spad.label (p : Spad) (a : Nat) : Label := p.lbls.get 0#8 (granule a)
/-- A granule is no longer fresh (R193). -/
def Spad.use (p : Spad) (a : Nat) : Spad := { p with used := p.used.set false (granule a) true }
/-- The granules of `n` bytes are no longer fresh (R193, R262). -/
def Spad.useAll (p : Spad) (a n : Nat) : Spad :=
  (List.range (granule (a + (n - 1)) + 1 - granule a)).foldl (fun p k => p.use (a + 64 * k)) p
/-- Write bytes at an offset; a whole word written clears its poison (R386). -/
def Spad.write (p : Spad) (a : Nat) (bs : List Byte) : Spad :=
  let q := p.useAll a bs.length
  { q with
    bytes := writeBytes q.bytes a bs
    poison := (List.range ((bs.length + 3) / 4)).foldl (fun m k =>
      if a % 4 = 0 ∧ 4 * k + 4 ≤ bs.length then m.set false (a / 4 + k) false else m) q.poison }
/-- Set a granule's label (R200). -/
def Spad.setLabel (p : Spad) (a : Nat) (h : Label) : Spad :=
  let q := p.use a
  { q with lbls := q.lbls.set 0#8 (granule a) h }
/-- Whether one of the words of a range is poisoned. -/
def Spad.poisoned (p : Spad) (a n : Nat) : Bool :=
  (List.range ((n + 3) / 4)).any (fun k => p.poison.get false (a / 4 + k))

/-- The block that a scratchpad address names and the offset in it (R187); none out of bounds for `n` bytes. -/
def spadLoc (s : State) (g b : Nat) (a : Word) (n : Nat) : Option (Nat × Nat) :=
  let r := (s.grid g).record
  let off := (field a 0 22).toNat
  let c := r.perCluster
  let rank := (field a 29 2).toNat
  let b' := if a.getLsbD 31 then b / c * c + rank else b
  if field a 22 7 ≠ 0#7 ∨ (a.getLsbD 31 ∧ c ≤ rank) ∨ r.spadBytes < off + n ∨ (s.blocks.get? (blockKey g b')).isNone then none
  else some (b', off)

end Sys2Proof.Machine
end

