-- ==== Sys2Proof/Machine/Ops.lean ====
section
/-! DEFINITION. The shared operations of the warp engine: queues (R14 to R18), fault records (R361, R372), commits and flashback
(R217, R221), splits and fusion (R37 to R40, R138 to R141), exits and deaths (R171, R331), taking a trap and returning from one
(R209 to R214). -/

namespace Sys2Proof.Machine

open Sys2Proof

/-! Lanes (R129, R130). -/

/-- Lanes of a warp that hold block lanes below N. -/
def realLanes (s : State) (w : Nat) : LaneMask := lanesBelow ((s.record w).lanes - 32 * (s.warp w).index)

/-- The guide of a helper lane in a sub-warp with lanes `m`: the lowest lane of its quad that is active (R130). -/
def guideOf (m : LaneMask) (i : Nat) : Option Nat := (List.range 4).map (fun k => i / 4 * 4 + k) |>.find? (hasLane m)

/-- The helper lanes that run in a sub-warp with lanes `m` (R130) (a quad whose lanes are in both children: DEDUCED, log entry 47). -/
def helpersOf (s : State) (w : Nat) (m : LaneMask) : LaneMask :=
  maskOf (fun i => hasLane (helperLanes s w) i && (guideOf m i).isSome)

/-- The lanes of a warp that have not exited. -/
def liveLanes (s : State) (w : Nat) : LaneMask := realLanes s w &&& ~~~(s.warp w).exited

/-- A warp as it starts (R20, R210): argument pointer in s0 and s1, everything else zero with label 0. -/
def Warp.start (serial grid block index vd quad : Nat) (r : LaunchRec) : Warp :=
  let lanes := lanesBelow (r.lanes - 32 * index)
  { Warp.none with
    serial := serial, grid := grid, block := block, index := index, vd := vd, quad := quad, life := .resident
    clearance := r.clearance, will := r.heir, exited := ~~~lanes
    s := ⟨lo32 r.arg, 0#8, false, false⟩ :: ⟨hi32 r.arg, 0#8, false, false⟩ :: List.replicate 30 Reg.zero
    disposition := if r.handler = 0#64 then 0#64 else BitVec.allOnes 64
    subs := [⟨.none, lanes, 0#8, r.code, 0, .ready, false⟩] }

/-! Records to the host. -/

/-- A little-endian field. -/
def le (n : Nat) (x : Nat) : List Byte := toBytes (BitVec.ofNat (8 * n) x) n

/-- Append a 64-byte record to a VD's grid fault buffer (R361): kind, grid, warp, PC, payload from byte 24. -/
def gfRecord (s : State) (v kind g w : Nat) (pc : DWord) (payload : List Byte) : State :=
  let d := s.vd v
  let r := slice (le 2 kind ++ le 2 v ++ le 4 g ++ le 4 w ++ le 4 d.gen ++ le 8 pc.toNat ++ payload) 0 64
  if d.gf.length < 256 then
    (s.setVd v { d with gf := d.gf ++ [r] }).modGrid g (fun x => { x with faults := min (x.faults + 1) 255 })
  else s.setVd v { d with gfDropped := min (d.gfDropped + 1) 65535 }

/-- The bytes of an event record (R372). -/
def eventBytes (s : State) (kind v gen : Nat) (payload : List Byte) : List Byte :=
  slice (le 2 kind ++ le 2 v ++ le 4 gen ++ le 8 s.package.time.toNat ++ payload) 0 32

/-- Raise an event record of a VD (R372): placed in its buffer of 64; a full buffer makes the producers of kinds 1 and 2 hold it,
and drops any other kind. -/
def vdEvent (s : State) (v gen kind : Nat) (payload : List Byte) : State :=
  let d := s.vd v
  if d.gen ≠ gen then s.setVd v { d with stale := min (d.stale + 1) 65535 }
  else
    let r := eventBytes s kind v gen payload
    if d.events.length < 64 ∧ d.waiting = [] then s.setVd v { d with events := d.events ++ [r] }
    else if kind = 1 ∨ kind = 2 then s.setVd v { d with waiting := d.waiting ++ [r] }
    else s.setVd v { d with lost := min (d.lost + 1) 65535 }

/-- Raise an event record of the hypervisor: a full buffer of 256 drops and counts it (R372). -/
def hvEvent (s : State) (v gen kind : Nat) (payload : List Byte) : State :=
  let p := s.package
  if p.hvEvents.length < 256 then { s with package := { p with hvEvents := p.hvEvents ++ [eventBytes s kind v gen payload] } }
  else { s with package := { p with hvLost := min (p.hvLost + 1) 65535 } }

/-! Event counters (R398). -/

/-- Count an event in the counters of a list that select it. -/
def bump (cs : List Counter) (src v : Nat) : List Counter :=
  cs.map (fun c => if c.sel.getLsbD 19 && field c.sel 0 8 == BitVec.ofNat 8 src &&
    (!c.sel.getLsbD 18 || field c.sel 8 10 == BitVec.ofNat 10 v) then { c with count := c.count + 1 } else c)

/-- Count a core event. -/
def countCore (s : State) (c src v : Nat) : State := s.modCore c (fun x => { x with cev := bump x.cev src v })
/-- Count a die event. -/
def countDie (s : State) (d src v : Nat) : State := s.modDie d (fun x => { x with dev := bump x.dev src v })

/-! The error log (R395 to R397). -/

/-- Log an event on a die: it takes the next serial, counts on its channel, and enters the log where there is room; every outcome
but 0 and 3 raises an ERROR record to the VD of the work hit. -/
def logError (s : State) (d channel outcome v w : Nat) (loc : DWord) : State :=
  let x := s.die d
  let e := x.lastSerial + 1
  let x := { x with
    lastSerial := e
    ecnt := setAt x.ecnt channel (((x.ecnt[channel]?).getD (0, 0)).1 + 1, e) }
  let x := if x.log.length < 64 then { x with log := x.log ++ [⟨e, channel, outcome, v, w, loc⟩] }
    else { x with overflow := min (x.overflow + 1) 65535 }
  let s := s.setDie d x
  let s := if outcome = 0 then countDie s d 20 v else s
  if outcome = 0 ∨ outcome = 3 ∨ v = 0x3FF then s
  else vdEvent s v (s.vd v).gen 5 (le 6 e ++ le 1 channel ++ le 1 outcome ++ le 8 loc.toNat)

/-! Queue registers (R14 to R18). -/

/-- A queue register of a warp. -/
def Warp.queue (x : Warp) (q : Nat) : Queue := (x.queues[q]?).getD Queue.free
/-- Replace a queue register. -/
def Warp.setQueue (x : Warp) (q : Nat) (u : Queue) : Warp := { x with queues := setPad Queue.free x.queues q u }
/-- The places of a queue that are taken: waiting entries and those popped in an uncommitted region (R220). -/
def Queue.used (u : Queue) : Nat := u.entries.length + u.popped.length

/-- An entry that finds its queue register unbound goes to the grid fault record (R18, R206). -/
def queueRecord (s : State) (w kind q : Nat) (e : QEntry) : State :=
  gfRecord s (s.warp w).vd 3 (s.warp w).grid w 0#64 (le 1 kind ++ le 1 q ++ le 6 0 ++ le 8 e.data.toNat)

/-- A producer delivers an entry: into the queue when it has room and the warp is not saved, held by the producer otherwise
(R17, R221); an unbound queue sends it to the grid fault record (R18) (an entry for an earlier binding of the same kind: DESIGN CHOICE, log entry 14). -/
def deliverEntry (s : State) (w q kind : Nat) (e : QEntry) : State :=
  let x := s.warp w
  let u := x.queue q
  if u.kind ≠ some kind then queueRecord s w kind q e
  else if u.used < 8 ∧ u.back = [] ∧ (x.life = .resident ∨ x.life = .saving) then
    s.setWarp w (x.setQueue q { u with entries := u.entries ++ [e] })
  else s.setWarp w (x.setQueue q { u with back := u.back ++ [e] })

/-- What producers hold for a queue goes in while there is room (R17). -/
def Queue.refill (u : Queue) : Queue :=
  let n := 8 - u.used
  { u with entries := u.entries ++ u.back.take n, back := u.back.drop n }

/-- The queue register of a warp that is bound to a kind, where one is. -/
def Warp.bound (x : Warp) (kind : Nat) : Option Nat := (List.range 16).find? (fun q => (x.queue q).kind == some kind)

/-- Pop the oldest entry of a queue; in an uncommitted region the entry keeps its place (R220). -/
def popQueue (x : Warp) (q : Nat) : Option (QEntry × Warp) :=
  let u := x.queue q
  match u.entries with
  | [] => none
  | e :: es =>
    let keep := match x.cue with
      | some c => !c.committed
      | none => false
    some (e, x.setQueue q ({ u with entries := es, popped := if keep then u.popped ++ [e] else u.popped } : Queue).refill)

/-! Latches (R135). -/

/-- All four latches of a quadrant become invalid. -/
def dropLatches (s : State) (q : Nat) : State :=
  s.modQuad q (fun x => { x with latches := Quad.reset.latches, owner := none })

/-- The latches become invalid if they belong to that sub-warp. -/
def dropLatchesOf (s : State) (w : Nat) (i : SubId) : State :=
  let q := (s.warp w).quad
  if (s.quad q).owner = some (w, i) then dropLatches s q else s

/-- The latches become invalid if they belong to a sub-warp of that warp. -/
def dropWarpLatches (s : State) (w : Nat) : State :=
  let q := (s.warp w).quad
  match (s.quad q).owner with
  | some (w', _) => if w' = w then dropLatches s q else s
  | none => s

/-- A result that arrives after its instruction issued is captured if the latches still belong to the sub-warp (R135). -/
def captureLate (s : State) (w : Nat) (i : SubId) (latch : Nat) (lanes : SMap Reg) : State :=
  s.modQuad (s.warp w).quad (fun x =>
    if x.owner = some (w, i) then { x with latches := setPad ⟨false, []⟩ x.latches latch ⟨true, lanes.filter (fun e => e.2 != Reg.zero)⟩ } else x)

/-! Regions (R217, R220). -/

/-- Whether a warp runs an uncommitted region. -/
def Warp.uncommitted (x : Warp) : Bool :=
  match x.cue with
  | some c => !c.committed && !c.lost
  | .none => false

/-- The region commits; the entries popped in it give up their places (R217, R220). -/
def commit (s : State) (w : Nat) : State :=
  s.modWarp w (fun x => { x with
    cue := x.cue.map (fun c => { c with committed := true })
    queues := x.queues.map (fun u => ({ u with popped := [] } : Queue).refill) })

/-! Sub-warps. -/

/-- The next stamp of R142. -/
def freshStamp (s : State) : Nat × State := (s.stamp, { s with stamp := s.stamp + 1 })

/-- Make a sub-warp ready, with a new stamp. -/
def makeReady (s : State) (w : Nat) (u : SubWarp) : State :=
  let (t, s) := freshStamp s
  s.modWarp w (fun x => x.setSub { u with stamp := t, hold := .ready })

/-- Add a sub-warp, stamped. -/
def addSub (s : State) (w : Nat) (u : SubWarp) : State :=
  let (t, s) := freshStamp s
  s.modWarp w (fun x => { x with subs := x.subs ++ [{ u with stamp := t }] })

/-- Set the path labels of lanes. -/
def setPaths (x : Warp) (m : LaneMask) (f : Nat → Label) : Warp :=
  { x with path := (lanesOf m).foldl (fun p i => p.set 0#8 i (f i)) x.path }

/-- The path label of a lane as an instruction of a sub-warp sees it: a helper lane takes its guide's (R130). -/
def pathIn (s : State) (w : Nat) (m : LaneMask) (i : Nat) : Label :=
  let x := s.warp w
  if hasLane (realLanes s w) i then x.pathOf i
  else match guideOf m i with
    | some g => x.pathOf g
    | none => 0#8

/-! Labels at fusion (R39). -/

/-- Join a label into a lane register's label. -/
def raiseReg (s : State) (w : Nat) (main : Bool) (r i : Nat) (l : Label) : State :=
  let x := s.warp w
  let f := if main then x.v else x.o
  let old := f.get Reg.zero (32 * r + i)
  let (h, s) := if hasLane (helperLanes s w) i then s.joinQuiet w old.lbl l else s.join w old.lbl l
  if h = old.lbl then s
  else s.modWarp w (fun x =>
    if main then { x with v := x.v.set Reg.zero (32 * r + i) { old with lbl := h } }
    else { x with o := x.o.set Reg.zero (32 * r + i) { old with lbl := h } })

/-- Join a label into a uniform register's label. -/
def raiseUniform (s : State) (w r : Nat) (l : Label) : State :=
  let old := ((s.warp w).s[r]?).getD Reg.zero
  let (h, s) := s.join w old.lbl l
  s.modWarp w (fun x => { x with s := setPad Reg.zero x.s r { old with lbl := h } })

/-- The registers of a bitmap. -/
def bitsOf {n : Nat} (b : BitVec n) : List Nat := (List.range n).filter (fun i => b.getLsbD i)

/-- Steps 1 and 2 of R39 for entry `e` whose lanes `m` have not exited; helper lanes take their guide's path label. -/
def fuseLabels (s : State) (w : Nat) (e : Split) (m : LaneMask) : State :=
  let lanes := lanesOf (m ||| helpersOf s w m)
  let lab (s : State) (i : Nat) : Label :=
    if hasLane m i then (s.warp w).pathOf i
    else match guideOf m i with
      | some g => (s.warp w).pathOf g
      | none => 0#8
  let s := (bitsOf e.writtenO).foldl (fun s r => lanes.foldl (fun s i => raiseReg s w false r i (lab s i)) s) s
  let s := (bitsOf e.writtenV).foldl (fun s r => lanes.foldl (fun s i => raiseReg s w true r i (lab s i)) s) s
  (bitsOf e.writtenS).foldl (fun s r => raiseUniform s w r e.childLabel) s

/-- Set an arrived bit of an entry. -/
def Split.arrive (e : Split) (side : Nat) : Split :=
  if side = 0 then { e with arrived0 := true } else { e with arrived1 := true }

/-- The warp without entry `e` and its two children: the parent's path labels restored, the bitmap ORed into the parent's entry (R38,
R141); a child that had entered the handler is the parent now. -/
def closeSplit (e : Nat) (x : Split) (y : Warp) : Warp :=
  let y := setPaths y (x.mask0 ||| x.mask1) (fun i => x.parentPath.get 0#8 i)
  let y := (y.dropSub (some (e, 0))).dropSub (some (e, 1))
  let y := { y with
    splits := y.splits.erase e
    handlerSub := if y.handlerSub = some (e, 0) ∨ y.handlerSub = some (e, 1) then x.parent else y.handlerSub }
  match x.parent with
  | none => y
  | some (p, _) =>
    match y.splits.get? p with
    | none => y
    | some z => { y with splits := y.splits.put p { z with
        writtenO := z.writtenO ||| x.writtenO, writtenV := z.writtenV ||| x.writtenV
        writtenS := z.writtenS ||| x.writtenS } }

/-- An entry fuses, whose lanes `m` have not exited: labels by R39, the entry and its children gone. -/
def fuseEntry (s : State) (w e : Nat) (x : Split) (m : LaneMask) : State :=
  let s := fuseLabels s w x m
  let s := dropLatchesOf (dropLatchesOf s w (some (e, 0))) w (some (e, 1))
  let s := s.modWarp w (closeSplit e x)
  countCore s (coreOfQuad (s.warp w).quad) 4 (s.warp w).vd

/-- Mark a side of entry `p` arrived. -/
def markArrived (s : State) (w p side : Nat) : State :=
  s.modWarp w (fun y =>
    match y.splits.get? p with
    | none => y
    | some z => { y with splits := y.splits.put p (z.arrive side) })

/-- Whether the sub-warp that an entry leaves stands at the join of its parent's entry. -/
def atJoin (s : State) (w : Nat) (x : Split) : Bool :=
  match x.parent with
  | none => false
  | some (p, _) =>
    match (s.warp w).splits.get? p with
    | none => false
    | some z => z.join == x.join

/-- Fuse entries whose two sides have arrived, from `e` outward (R140, R141): the parent resumes at the join PC, or counts as arrived at
its own join, or as exited when no lane is left. -/
def tryFuse (s : State) (w : Nat) : Nat → Nat → State
  | 0, _ => s
  | n + 1, e =>
    match (s.warp w).splits.get? e with
    | none => s
    | some x =>
      if !(x.arrived0 && x.arrived1) then s
      else
        let m := (x.mask0 ||| x.mask1) &&& ~~~(s.warp w).exited
        let s := fuseEntry s w e x m
        let up := decide (m = 0#32) || atJoin s w x
        let s := if m = 0#32 then s else addSub s w ⟨x.parent, m, x.parentLabel, x.join, 0, if atJoin s w x then .joined else .ready, false⟩
        match x.parent with
        | some (p, side) => if up then tryFuse (markArrived s w p side) w n p else s
        | none => s

/-- A sub-warp that stands at the join PC of its own entry arrives, and the entry fuses when both sides have (R140, R141). -/
def arriveOne (s : State) (w : Nat) (i : SubId) : State :=
  match i, (s.warp w).sub i with
  | some (e, side), some u =>
    match (s.warp w).splits.get? e with
    | some z =>
      if u.pc = z.join ∧ u.hold = .ready then
        let s := s.modWarp w (fun x =>
          (x.setSub { u with hold := .joined } |> fun x => { x with splits := x.splits.put e (z.arrive side) }))
        tryFuse s w 17 e
      else s
    | none => s
  | _, _ => s

/-- The sub-warps of an entry whose SYNCW is over: the other side has arrived, exited, or itself waits in SYNCW (R172). -/
def syncOver (x : Warp) (e : Nat) (z : Split) : List SubWarp :=
  [0, 1].filterMap (fun side =>
    match x.sub (some (e, side)) with
    | some u =>
      if u.hold = .syncw ∧ ((if side = 0 then z.arrived1 else z.arrived0) ∨
        (x.sub (some (e, 1 - side))).any (fun v => v.hold == .syncw)) then some u else none
    | none => none)

/-- Wake the sub-warps whose SYNCW is over, until none is left; each goes on at the PC where it stands. -/
def wakeSyncs (s : State) (w : Nat) : Nat → State
  | 0 => s
  | n + 1 =>
    match ((s.warp w).splits.map (fun z => syncOver (s.warp w) z.1 z.2)).flatten with
    | [] => s
    | us =>
      let s := us.foldl (fun s u => makeReady s w u) s
      wakeSyncs (us.foldl (fun s u => arriveOne s w u.id) s) w n

/-- A sub-warp that stands at the join PC of its own entry arrives (R140); arrivals end the SYNCW of others (R172). -/
def arriveCheck (s : State) (w : Nat) (i : SubId) : State := wakeSyncs (arriveOne s w i) w 33

/-! Barriers (R203). -/

/-- The warps that an instance expects: those of the block, or of the cluster's blocks, that have not died. -/
def expectedWarps (s : State) (g b : Nat) (cluster : Bool) : List Nat :=
  let c := (s.grid g).record.perCluster
  let blocks := if cluster then (List.range c).map (fun k => b / c * c + k) else [b]
  (blocks.map (fun k => (s.block g k).warps)).flatten.filter (fun w =>
    match (s.warp w).life with
    | .dying _ _ => false
    | .dead => false
    | _ => true)

/-- Whether a sub-warp is parked at barrier `n`. -/
def atBar (n : Nat) (cluster : Bool) (u : SubWarp) : Bool :=
  match u.hold with
  | .bar m c _ _ _ _ _ => m == n && c == cluster
  | _ => false

/-- Whether a warp has arrived: every lane that has not exited stands parked at the barrier. -/
def barArrived (s : State) (w n : Nat) (cluster : Bool) : Bool :=
  (s.warp w).subs.all (fun u => atBar n cluster u) && !(s.warp w).subs.isEmpty

/-- Combine two payloads (R203). -/
def barCombine (op : Nat) (a b : Word) : Word :=
  if op = 1 then a &&& b else if op = 2 then a ||| b else a + b

/-- The identity of a payload operation. -/
def barIdentity (op : Nat) : Word := if op = 1 then BitVec.allOnes 32 else 0#32

/-- Write a uniform register: value and label; live, clean (R134, R224), and noted in the split entry of the writer (R38). -/
def writeUniform (s : State) (w : Nat) (i : SubId) (r : Nat) (val : Word) (lbl : Label) : State :=
  s.modWarp w (fun x =>
    let x := { x with s := setPad Reg.zero x.s r ⟨val, lbl, false, false⟩ }
    match i with
    | none => x
    | some (e, _) =>
      match x.splits.get? e with
      | none => x
      | some z => { x with splits := x.splits.put e { z with writtenS := z.writtenS ||| (1#32 <<< r) } })

/-- The sub-warps of warps, in order. -/
def subsOf (s : State) (ws : List Nat) : List (Nat × SubWarp) := (ws.map (fun w => (s.warp w).subs.map (fun u => (w, u)))).flatten

/-- The payload operation of parked sub-warps: the first one's (where operations differ: DESIGN CHOICE, log entry 68). -/
def barOp (subs : List (Nat × SubWarp)) : Nat :=
  match subs.head? with
  | some (_, u) => (match u.hold with
    | .bar _ _ o _ _ _ _ => o
    | _ => 0)
  | none => 0

/-- The payload result of parked sub-warps (R203). -/
def barValue (subs : List (Nat × SubWarp)) : Word :=
  subs.foldl (fun a p => match p.2.hold with
    | .bar _ _ o v _ _ _ => if o = barOp subs then barCombine (barOp subs) a v else a
    | _ => a) (barIdentity (barOp subs))

/-- Every expected warp of a barrier has arrived (R203). -/
def barFull (s : State) (g b n : Nat) (cluster : Bool) : Bool :=
  !(expectedWarps s g b cluster).isEmpty && (expectedWarps s g b cluster).all (fun w => barArrived s w n cluster)

/-- All expected warps have arrived: every sub-warp parked there departs, with the payload result in its destination, and is made
ready (R203). -/
def barDepart (s : State) (g b n : Nat) (cluster : Bool) : State :=
  let ws := expectedWarps s g b cluster
  if !barFull s g b n cluster then s
  else
    let subs := subsOf s ws
    let val := barValue subs
    let w0 := (ws.head?).getD 0
    let (lbl, s) := s.joinList w0 (subs.map (fun p => match p.2.hold with
      | .bar _ _ _ _ l _ _ => l
      | _ => 0#8))
    subs.foldl (fun s p =>
      match p.2.hold with
      | .bar _ _ o _ _ d latch =>
        let (l, s) := s.join p.1 lbl p.2.maskLabel
        let s := if 24 ≤ d ∧ d < 56 then writeUniform s p.1 p.2.id (d - 24) val l else s
        let s := if o = 0 then s else captureLate s p.1 p.2.id latch ((List.range 32).map (fun i => (i, ⟨val, l, false, false⟩)))
        let s := makeReady s p.1 p.2
        arriveCheck s p.1 p.2.id
      | _ => s) s

/-- Check every barrier of a block and of its cluster after a warp ceased to be expected. -/
def barsRecheck (s : State) (g b : Nat) : State :=
  (List.range 16).foldl (fun s n => barDepart (barDepart s g b n false) g b n true) s

/-! Deaths (R171, R331). -/

/-- Whether two warps belong to one block. -/
def sameBlock (s : State) (a b : Nat) : Bool := (s.warp a).grid == (s.warp b).grid && (s.warp a).block == (s.warp b).block

/-- Traps that waiting members of a failed gang take are raised when each is next reached: the operation leaves the latch and GANG
stands pending against the warp (R237). The gang is the one of warp `w`'s block. -/
def gangFail (s : State) (q w : Nat) (gang : Word) : State :=
  let hit (m : Member) : Bool := m.gang == gang && !m.done && sameBlock s m.warp w
  let ms := (s.quad q).rendezvous.filter hit
  let s := s.modQuad q (fun x => { x with rendezvous := x.rendezvous.filter (fun m => !hit m) })
  ms.foldl (fun s m => s.modWarp m.warp (fun x => { x with
    pending := x.pending ++ [(m.group, ⟨14, m.pc, 0#64, m.lanes, 0, 0, false, 0#32, 0#32, [], [], none, false⟩)] })) s

/-- A warp leaves the rendezvous latch with all that it has there. -/
def leaveLatch (s : State) (w : Nat) : State :=
  s.modQuad (s.warp w).quad (fun x => { x with rendezvous := x.rendezvous.filter (fun m => m.warp != w) })

/-- A warp withdraws its own operation from the rendezvous latch; one that is released has taken its effect and stays (R237). -/
def withdraw (s : State) (w : Nat) : State :=
  s.modQuad (s.warp w).quad (fun x => { x with rendezvous := x.rendezvous.filter (fun m => m.warp != w || m.done) })

/-- A warp dies: it stops issuing, its split table and latches are gone, its gang fails, the role of communication warp falls
vacant, barriers no longer expect it, its prefetches that have not started are cancelled (R22), and its death is queued for the estate unit
(R171, R237, R275, R331, R332). -/
def dieWarp (s : State) (w cause : Nat) (lbl : Label) : State :=
  let x := s.warp w
  match x.life with
  | .dying _ _ => s
  | .dead => s
  | _ =>
    let s := dropWarpLatches s w
    let s := s.setWarp w { x with
      life := .dying cause lbl, subs := [], splits := [], path := [], ldx := [], fe := [], pending := [], exited := BitVec.allOnes 32 }
    let gangs := ((s.quad x.quad).rendezvous.map (fun m => m.gang)).filter (fun v => v.getLsbD x.index)
    let s := gangs.foldl (fun s v => gangFail s x.quad w v) s
    let s := leaveLatch s w
    let s := s.modBlock x.grid x.block (fun b => { b with comm := if b.comm = some w then none else b.comm })
    let s := { s with
      deaths := s.deaths ++ [w]
      cmds := s.cmds.filter (fun e => !(e.2.warp == w && !e.2.started && (match e.2.op with
        | .prefetch _ => true
        | _ => false))) }
    barsRecheck s x.grid x.block

/-- The KILL record of R210 in the grid fault record. -/
def killRecord (s : State) (w : Nat) (t : TrapInfo) (double refused : Bool) : State :=
  let x := s.warp w
  gfRecord s x.vd 1 x.grid w t.pc
    (le 1 t.cause ++ le 1 ((if double then 1 else 0) + (if refused then 2 else 0)) ++ le 2 0 ++ le 4 t.lanes.toNat ++ le 8 t.addr.toNat)

/-- TRAP notices to every warp of the block that binds one (R215); they name the warp that trapped, or the dead warp whose store faulted. -/
def trapNotices (s : State) (g b : Nat) (serial cause slot : Nat) (delivery killed double : Bool) (heir : Option Nat) (lbl : Label) : State :=
  let data : Nat := cause * 2 ^ 40 + (if delivery then 2 ^ 39 else 0) + (if killed then 2 ^ 38 else 0) +
    (if double then 2 ^ 37 else 0) + (if heir.isSome then 2 ^ 36 else 0) + (slot % 16) * 2 ^ 32 + heir.getD serial % 2 ^ 32
  (s.block g b).warps.foldl (fun s w =>
    match (s.warp w).bound 4 with
    | some q => deliverEntry s w q 4 ⟨BitVec.ofNat 64 data, lbl, 0, 0⟩
    | none => s) s

/-- Kill a warp with a cause (R210, R214): the cause is recorded, the notices of R215 go out, and it dies (what becomes of entries popped in an uncommitted region: DESIGN CHOICE, log entry 13). -/
def killWarp (s : State) (w : Nat) (t : TrapInfo) (cause : Nat) (double refused : Bool) (mask : Label) : State :=
  let x := s.warp w
  let s := killRecord s w t double refused
  let (l, s) := s.joinList w (mask :: ((lanesOf t.lanes).map x.pathOf ++ t.lbls))
  let s := trapNotices s x.grid x.block w t.cause t.slot t.delivery true double t.heir l
  dieWarp s w cause mask

/-- Lanes of a warp end (R171, R140): sub-warps left with no lane are gone and count as arrived; the last non-helper lane ends the
warp. `mask` is the mask label of the sub-warp that exits. -/
def exitLanes (s : State) (w : Nat) (m : LaneMask) (mask : Label) : State :=
  let s := s.modWarp w (fun x => { x with exited := x.exited ||| m })
  if liveLanes s w = 0#32 then dieWarp (commit s w) w 0 mask
  else
    let gone := ((s.warp w).subs.filter (fun u => u.mask &&& ~~~m == 0#32)).map (fun u => u.id)
    let s := s.modWarp w (fun x => { x with
      subs := (x.subs.filter (fun u => u.mask &&& ~~~m != 0#32)).map (fun u => { u with mask := u.mask &&& ~~~m }) })
    let s := gone.foldl (fun s i =>
      match i with
      | none => s
      | some (e, side) =>
        match (s.warp w).splits.get? e with
        | none => s
        | some z =>
          let s := s.modWarp w (fun x => { x with splits := x.splits.put e (z.arrive side) })
          tryFuse s w 17 e) s
    let s := wakeSyncs s w 33
    barsRecheck s (s.warp w).grid (s.warp w).block

/-! Flashback (R221). -/

/-- Restore a barrier-object image (R218, R221): at the home the engine writes it as one access of the xf path. -/
def restoreImage (s : State) (w : Nat) (im : Image) : State :=
  let x := s.warp w
  if im.spad then
    s.modBlock x.grid (im.addr / 2 ^ 22) (fun b => { b with spad := b.spad.write (im.addr % 2 ^ 22) im.bytes })
  else s.performAtHome w x.vd 4 0 ⟨false, im.addr⟩ 0#64 im.bytes none (s.clockOf (homeDie im.addr))

/-- Whether a command is a prefetch bound to an object whose image a cue buffer holds (R218). -/
def recorded (c : Cue) (e : Cmd) : Bool :=
  match e.op, e.object with
  | .prefetch _, some o => c.images.any (fun j => j.spad == o.spad && j.addr == o.place)
  | _, _ => false

/-- The prefetches of a warp on recorded objects that have started are still in flight: a flashback waits for them (R221, R272). -/
def flashbackWaits (s : State) (w : Nat) : Bool :=
  match (s.warp w).cue with
  | some c => s.cmds.any (fun e => e.2.warp == w && e.2.started && recorded c e.2)
  | none => false

/-- The prefetches of a warp on recorded objects that have not started are cancelled, and never arrive (R221, R272). -/
def cancelPrefetches (s : State) (w : Nat) : State :=
  match (s.warp w).cue with
  | some c => { s with cmds := s.cmds.filter (fun e => !(e.2.warp == w && !e.2.started && recorded c e.2)) }
  | none => s

/-- A register that a flashback restores: whole, so clean and live (R134, R225). -/
def Reg.restored (r : Reg) : Reg := { r with poison := false, dead := false }

/-- A register outside the snapshot after a flashback: zero with label 0, a poison mark staying (R222, R225). -/
def Reg.blanked (r : Reg) : Reg := { Reg.zero with poison := r.poison }

/-- A lane file after a flashback: the snapshot's registers `kept` come back, the others are blank. -/
def restoreFile (kept : Nat → Bool) (snap old : SMap Reg) : SMap Reg :=
  snap.foldl (fun f e => f.set Reg.zero e.1 e.2.restored)
    ((old.filter (fun e => e.2.poison && !kept (e.1 / 32))).map (fun e => (e.1, e.2.blanked)))

/-- The uniform registers after a flashback. -/
def restoreUniform (kept : Nat → Bool) (snap old : List Reg) : List Reg :=
  (List.range 32).map (fun k =>
    if kept k then ((snap[k]?).getD Reg.zero).restored else ((old[k]?).getD Reg.zero).blanked)

/-- The registers that a snapshot holds (R174, R219): operand, main-file and uniform. -/
def Cue.keepsO (c : Cue) (k : Nat) : Bool := c.oMap.getLsbD k
def Cue.keepsV (c : Cue) (k : Nat) : Bool := decide (c.vBase ≤ k) && c.vMap.getLsbD (k - c.vBase)
def Cue.keepsS (c : Cue) (k : Nat) : Bool := c.sMap.getLsbD k

/-- A queue after a flashback: the entries popped in the region return to the front (R220), and tokens that matrix commands issued since the
cue point have still to put into it are discarded instead (R17, R244). -/
def Queue.rewind (u : Queue) (mark : Nat) : Queue :=
  { u with
    entries := u.popped ++ u.entries, popped := []
    back := if u.kind = some 0 then u.back.filter (fun e => e.cmd == 0 || decide (e.cmd < mark)) else u.back }

/-- The commands in flight after a flashback: the matrix commands of the region deliver no tokens (R244). -/
def muteCmds (s : State) (w mark : Nat) : State :=
  { s with cmds := s.cmds.map (fun e =>
      if e.2.warp = w ∧ mark ≤ e.1 then
        match e.2.op with
        | .mx _ _ _ _ _ _ _ _ => (e.1, { e.2 with queue := none })
        | _ => e
      else e) }

/-- The warp that a flashback leaves, its root sub-warp stamped `t` (R221, R222). -/
def Warp.rewind (x : Warp) (c : Cue) (t : Nat) : Warp :=
  { x with
    o := restoreFile c.keepsO c.o x.o, v := restoreFile c.keepsV c.v x.v, s := restoreUniform c.keepsS c.s x.s
    k := List.replicate 8 MaskReg.zero, ac := c.counters, srseq := c.srseq, rets := c.rets
    exited := ~~~c.lanes, path := [], splits := []
    subs := [⟨Option.none, c.lanes, 0#8, if c.sheet = 0#64 then c.pc else c.sheet, t, .ready, false⟩]
    ldx := [], fe := [], pending := [], queues := x.queues.map (fun u => u.rewind c.cmdMark)
    handler := false, sheet := decide (c.sheet ≠ 0#64) }

/-- Flashback of a warp to its cue point (R221, R222): latches and replies not landed are discarded; the snapshot registers, arrival
counters, srseq, return stacks and lanes come back; every other register is zero with label 0; the split table is empty; the
entries popped in the region return; the recorded objects' prefetches not started are cancelled and the objects' images restored;
tokens of matrix commands issued since the cue point are discarded on arrival (R244). The warp starts its cue sheet, or the cue PC
where there is none. -/
def flashback (s : State) (w : Nat) : State :=
  let x := s.warp w
  match x.cue with
  | none => s
  | some c =>
    let s := cancelPrefetches (leaveLatch (dropWarpLatches s w) w) w
    let s := muteCmds (c.images.foldl (fun s im => restoreImage s w im) s) w c.cmdMark
    let (t, s) := freshStamp s
    countCore (s.modWarp w (fun y => y.rewind c t)) (coreOfQuad x.quad) 6 x.vd

/-! Taking a trap (R209 to R216, R220, R224, R225). -/

/-- The number of a register's bit for causes in %tc. -/
def tcBit (x : DWord) (c : Nat) : DWord := x ||| (1#64 <<< c)

/-- The trap record in s24 to s31, with its label (R212). -/
def trapRecord (t : TrapInfo) (lbl : Label) : List Reg :=
  let reg (v : Word) : Reg := ⟨v, lbl, false, false⟩
  let s29 : Nat := t.cause % 256 + (t.slot % 16) * 256 + (t.step % 16) * 4096 + (if t.delivery then 65536 else 0)
  [reg (lo32 t.pc), reg (hi32 t.pc), reg (lo32 t.addr), reg (hi32 t.addr), reg t.lanes, reg (BitVec.ofNat 32 s29), reg t.low,
   reg t.high]

/-- Enter the handler (R212): the other sub-warps are held, the region commits, an operation that waits in the rendezvous latch is
withdrawn, s24 to s31 move to the shadow bank and receive the record, the latches of the quadrant become invalid (R135), and the PC
becomes the handler address. -/
def enterHandler (s : State) (w : Nat) (i : SubId) (t : TrapInfo) : State :=
  let x := s.warp w
  match x.sub i with
  | none => s
  | some u =>
    let s := withdraw (dropLatches (commit s w) x.quad) w
    let (lbl, s) := s.joinList w (u.maskLabel :: ((lanesOf t.lanes).map x.pathOf ++ t.lbls))
    let s := s.modWarp w (fun y => { y with
      shadow := if y.handler then y.shadow else regsFrom y.s 24 8
      s := regsFrom y.s 0 24 ++ trapRecord t lbl
      handler := true, handlerSub := i })
    let s := makeReady s w { u with pc := (s.record w).handler, matched := false }
    let s := trapNotices s x.grid x.block w t.cause t.slot t.delivery false false t.heir lbl
    s

/-- The bit of %tc and of the disposition that a cause is routed by: a delivery fault is DELIVERY (R209, bit 17). -/
def TrapInfo.bit (t : TrapInfo) : Nat := if t.delivery then 17 else t.cause

/-- A warp that is rolled back over a fetch line fetches the line again: what its quadrant holds of it is gone (R387). -/
def fetchAgain (s : State) (q channel : Nat) (pc : DWord) : State :=
  if channel = 7 then s.modQuad q (fun x => { x with badLines := x.badLines.filter (fun b => b != pc.toNat / 64 * 64) }) else s

/-- A rollback to the cue point (R225, R387): counted, logged, flashback. -/
def rollBack (s : State) (w channel : Nat) (t : TrapInfo) : State :=
  let x := s.warp w
  let s := fetchAgain s x.quad channel t.pc
  let s := logError s (dieOfQuad x.quad) channel 2 x.vd w t.pc
  let s := s.modWarp w (fun y => { y with cue := y.cue.map (fun c => { c with rollbacks := c.rollbacks + 1 }) })
  let s := countCore s (coreOfQuad x.quad) 8 x.vd
  { flashback s w with report := .rolledBack }

/-- Whether a consumed error rolls the warp back instead of trapping (R225, R387, and R220 in a sheet). -/
def rollsBack (x : Warp) (t : TrapInfo) : Bool :=
  t.cause == 18 && !t.delivery && !t.firm && (x.sheet || (x.uncommitted && !x.handler)) &&
  (match x.cue with
    | some c => decide (c.rollbacks < 3) && !c.lost
    | .none => false)

/-- Hold the sub-warp of an identity. -/
def Warp.holdSub (x : Warp) (i : SubId) (h : Hold) : Warp :=
  { x with subs := x.subs.map (fun u => if u.id == i then { u with hold := h } else u) }

/-- A cause raised at a sub-warp is taken (R209, R210, R214, R216, R220, R225): a rollback, which waits for the prefetches that a flashback
waits for; the handler; or a kill. `channel` is the error-log channel of a consumed error. -/
def takeTrapOn (channel : Nat) (s : State) (w : Nat) (i : SubId) (t : TrapInfo) : State :=
  let x := s.warp w
  let mask : Label := ((x.sub i).map (fun u => u.maskLabel)).getD 0#8
  let s : State := { s with report := .trap t.cause }
  let s := if t.cause = 3 then countCore s (coreOfQuad x.quad) 2 x.vd else s
  if rollsBack x t && flashbackWaits s w then
    { (cancelPrefetches s w).modWarp w (fun y => y.holdSub i .waiting) with report := .wait }
  else if rollsBack x t then rollBack s w channel t
  else
    let s := if t.cause = 18 then countCore s (coreOfQuad x.quad) 9 x.vd else s
    let s := s.modWarp w (fun y => { y with tc := (t.bit :: t.also).foldl tcBit y.tc })
    if x.sheet && t.cause == 18 && !t.delivery then killWarp s w t 2 false false mask
    else if x.sheet || x.handler then killWarp s w t 3 true false mask
    else if x.disposition.getLsbD t.bit && (s.record w).handler != 0#64 then enterHandler s w i t
    else killWarp s w t 2 false false mask

/-- A cause raised at a sub-warp is taken; a consumed error is one of a register (channel 0 of R395). -/
def takeTrap (s : State) (w : Nat) (i : SubId) (t : TrapInfo) : State := takeTrapOn 0 s w i t

/-- Park a sub-warp in XLATE and post the record to the VD's driver (R216, R372). -/
def parkXlate (s : State) (w : Nat) (i : SubId) (t : TrapInfo) (access : Nat) : State :=
  let x := s.warp w
  match x.sub i with
  | none => s
  | some u =>
    let s := s.modWarp w (fun y => y.setSub { u with hold := .xlate t.addr access })
    let s := { s with report := .trap 8 }
    vdEvent s x.vd (s.grid x.grid).gen 1 (le 8 t.addr.toNat ++ le 4 w ++ le 1 access)

end Sys2Proof.Machine
end

