-- ==== Sys2Proof/WellFormed.lean ====
section
/-! DEFINITION. Well-formed instructions: the field codes and reserved bits that step 6 of R108 checks (R89 to R93 and the field
tables of the entries), and the PFX kinds and settings that each entry accepts (R95, R96, R97, R99). An instruction that fails a
check here is not an instruction of the L9: its group traps ILLEGAL, or ORPHAN where a PFX kind is not accepted. -/

namespace Sys2Proof.WF

open Sys2Proof Machine

/-- Code 24 to 55: a uniform register (R89). -/
def isU (c : BitVec 6) : Bool := 24 ≤ c.toNat && c.toNat ≤ 55
/-- Code 0 to 15: an operand register (R89). -/
def isO (c : BitVec 6) : Bool := c.toNat < 16
/-- A code that R89 lets a source field hold. -/
def src (c : BitVec 6) : Bool := c.toNat ≤ 22 || isU c
/-- A code that R89 lets a destination field hold. -/
def dst (c : BitVec 6) : Bool := isO c || c == 20#6 || isU c
/-- A source that an instruction with a uniform destination may use (R89). -/
def usrc (c : BitVec 6) : Bool := c == 20#6 || c == 22#6 || isU c
def even (c : BitVec 6) : Bool := c.toNat % 2 == 0
def evenU (c : BitVec 6) : Bool := isU c && even c
def evenO (c : BitVec 6) : Bool := isO c && even c
/-- A global address pair (R186). -/
def apair (c : BitVec 6) : Bool := evenU c || evenO c

/-- No register result: latch, write-back suppress zero (R92). -/
def noRes (w : W0) : Bool := w.latch == 0#2 && !w.wbs
def noLu (w : W0) : Bool := !w.luA && !w.luB
/-- Every field of the first word is zero. -/
def zero0 (w : W0) : Bool := noRes w && noLu w && w.b == 0#6 && w.a == 0#6 && w.d == 0#6
/-- No main-file role, no source C. -/
def plain1 (x : W1) : Bool := x.role == 0#2 && x.main == 0#8 && x.c == 0#6
def hiBelow (x : W1) (n : Nat) : Bool := x.hi.toNat < n

/-- The role is one of those offered and meets the requirement of R90. -/
def role (w : W0) (x : W1) (r1 r2 r3 : Bool) : Bool :=
  match x.role.toNat with
  | 0 => x.main == 0#8
  | 1 => r1 && w.a == 0#6
  | 2 => r2 && w.b == 0#6
  | _ => r3 && w.d == 0#6

/-- Uniform destination: allowed by the entry, no main-file role, and only uniform or constant sources (R89). -/
def uni (ok : Bool) (w : W0) (r0 : Bool) (ss : List (BitVec 6)) : Bool :=
  !isU w.d || (ok && r0 && ss.all usrc)

/-- A 32-bit form with sources A and B. -/
def ab (ud : Bool) (w : W0) : Bool := src w.a && src w.b && dst w.d && uni ud w true [w.a, w.b]
/-- A 32-bit form with source A alone, the B field holding what the entry puts there. -/
def aOnly (ud : Bool) (w : W0) : Bool := src w.a && !w.luB && dst w.d && uni ud w true [w.a]

/-- Field B of a 64-bit form under R93: code 20 takes the immediate; otherwise a register, with [31:16] zero. -/
def isImm (w : W0) (x : W1) : Bool := w.b == 20#6 && x.role != 2#2
def b93 (w : W0) (x : W1) : Bool :=
  if isImm w x then !w.luB else x.hi == 0#16 && src w.b
/-- A 64-bit form under R93 with modifiers of `n` bits in C (R144). -/
def immC (ud : Bool) (n : Nat) (w : W0) (x : W1) : Bool :=
  src w.a && b93 w x && dst w.d && x.c.toNat < 2 ^ n && role w x true true true &&
  uni ud w (x.role == 0#2) (if isImm w x then [w.a] else [w.a, w.b])
/-- A 64-bit form under R93 that reads source C. -/
def immReg (w : W0) (x : W1) : Bool :=
  src w.a && b93 w x && dst w.d && src x.c && role w x true true true &&
  uni true w (x.role == 0#2) (if isImm w x then [w.a, x.c] else [w.a, w.b, x.c])
/-- A 64-bit form with modifiers below `2 ^ n` in [31:16] that reads A, B and C. -/
def modReg (ud : Bool) (n : Nat) (w : W0) (x : W1) : Bool :=
  src w.a && src w.b && dst w.d && src x.c && hiBelow x (2 ^ n) && role w x true true true &&
  uni ud w (x.role == 0#2) [w.a, w.b, x.c]
/-- Field B of a 96-bit form (R91). -/
def b91 (w : W0) (x : W1) : Bool := w.b == 20#6 && !w.luB && x.role != 2#2
/-- The first word of a 96-bit form under R91, by itself. -/
def lit0 (ud : Bool) (w : W0) : Bool := src w.a && w.b == 20#6 && !w.luB && dst w.d && uni ud w true [w.a]
def litC (ud : Bool) (n : Nat) (w : W0) (x : W1) : Bool :=
  src w.a && b91 w x && dst w.d && x.c.toNat < 2 ^ n && x.hi == 0#16 && role w x true false true &&
  uni ud w (x.role == 0#2) [w.a]
def litReg (w : W0) (x : W1) : Bool :=
  src w.a && b91 w x && dst w.d && src x.c && x.hi == 0#16 && role w x true false true &&
  uni true w (x.role == 0#2) [w.a, x.c]
def litMod (ud : Bool) (n : Nat) (w : W0) (x : W1) : Bool :=
  src w.a && b91 w x && dst w.d && src x.c && hiBelow x (2 ^ n) && role w x true false true &&
  uni ud w (x.role == 0#2) [w.a, x.c]

/-- IMADW (R149): d and c are pairs, no role 11 (code 20 in a pair field: DEDUCED, log entry 49). -/
def pairDst (c : BitVec 6) : Bool := evenO c || evenU c || c == 20#6
def imadw32 (w : W0) : Bool := ab true w && pairDst w.d
def imadw64 (w : W0) (x : W1) : Bool := modReg true 1 w x && x.role != 3#2 && pairDst w.d && pairDst x.c
def imadw96 (w : W0) (x : W1) : Bool := litMod true 1 w x && x.role != 3#2 && pairDst w.d && pairDst x.c
/-- LEA (R149): d and a are pairs, no roles 01 and 11. -/
def lea32 (w : W0) : Bool := ab true w && pairDst w.d && pairDst w.a
def lea64 (w : W0) (x : W1) : Bool :=
  immC true 4 w x && (x.role == 0#2 || x.role == 2#2) && pairDst w.d && pairDst w.a
def lea96 (w : W0) (x : W1) : Bool := litC true 4 w x && x.role == 0#2 && pairDst w.d && pairDst w.a

/-- ICMP and FCMP (R151, R154): dest holds n and the low bits of the condition. -/
def cmp32 (w : W0) : Bool := src w.a && src w.b
def cmp64 (n : Nat) (w : W0) (x : W1) : Bool :=
  src w.a && b93 w x && x.c.toNat < 2 ^ n && role w x true true false
def cmp96 (n : Nat) (w : W0) (x : W1) : Bool :=
  src w.a && b91 w x && x.c.toNat < 2 ^ n && x.hi == 0#16 && role w x true false false
/-- Condition codes 10 to 15 of ICMP trap ILLEGAL. -/
def icmpCC (w : W0) (x : W1) : Bool := bitsN w.d.toNat 3 3 + 8 * (x.c.toNat % 2) < 10

/-- The element positions of CVTP (R160) and CVTU (R161) by narrow code. -/
def cvtpJ (f j : Nat) : Bool := if f ≤ 1 then j == 0 else if f ≤ 5 then j ≤ 1 else f == 6 && j ≤ 3
def cvtuJ (f j : Nat) : Bool := if f ≤ 1 then j ≤ 1 else if f ≤ 5 then j ≤ 3 else if f == 6 then j ≤ 7 else j ≤ 3
/-- Legal type pairs of DOT2, DOT4 and DOT8 (R163). -/
def dot2T (ta tb : Nat) : Bool := ta ≤ 3 && tb ≤ 3 && decide ((ta ≤ 1) = (tb ≤ 1))
def dot4T (ta tb : Nat) : Bool := ta ≤ 5 && tb ≤ 5 && decide ((ta ≤ 3) = (tb ≤ 3))
def dot8T (ta tb : Nat) : Bool := ta ≤ 1 && tb ≤ 1 && ta == tb
def dotT (f : Nat → Nat → Bool) (x : W1) : Bool := f (bitsN x.hi.toNat 0 3) (bitsN x.hi.toNat 3 3)
/-- Source A alone in a 64-bit form, roles 01 and 11. -/
def a64 (ud : Bool) (w : W0) (x : W1) : Bool :=
  src w.a && !w.luB && dst w.d && x.c == 0#6 && role w x true false true && uni ud w (x.role == 0#2) [w.a]

/-- BRA (R168): an unconditional form has J, n and inv zero. -/
def braD (w : W0) (j0 : Bool) : Bool :=
  noRes w && noLu w && !bitN w.d.toNat 5 && (bitN w.d.toNat 4 || (w.d == 0#6 && j0))
/-- BRX and CALLX (R169). -/
def brxW (w : W0) (x : W1) : Bool :=
  noRes w && src w.a && evenU w.b && isU x.c && role w x true false false

/-- RED and SCAN (R178): op and type in B. -/
def redB (w : W0) : Bool :=
  let op := bitsN w.b.toNat 0 3
  let ty := bitsN w.b.toNat 3 3
  op ≤ 5 && ty ≤ 4 && (op ≤ 2 || ty ≤ 1)
/-- A cross-lane destination: no uniform register (R89). -/
def laneDst (c : BitVec 6) : Bool := isO c || c == 20#6
def x32 (w : W0) : Bool := src w.a && !w.luB && laneDst w.d
def x64 (w : W0) (x : W1) : Bool := src w.a && !w.luB && laneDst w.d && x.c == 0#6 && role w x true false true
/-- The code of T in DRAW (R179). -/
def drawT (x : W1) : Bool := let t := BitVec.ofNat 6 (bitsN x.hi.toNat 1 6); t == 20#6 || isU t
/-- The key quad of DRAW, DRAWM and the draw atomics: s(2m) with m ≤ 14. -/
def keyQuad (c : BitVec 6) : Bool := evenU c && c.toNat ≤ 52

/-- SREG selectors (R180). -/
def sel64 (s : Nat) : Bool := 16 ≤ s && s ≤ 20
def selLane (s : Nat) : Bool := s == 0 || s == 1 || s == 8 || s == 9

/-- Size codes of LD and ST (R191) and the register widths that they need. -/
def size (x : W1) : Nat := bitsN x.hi.toNat 0 3
def wideReg (sz : Nat) (c : BitVec 6) (any : BitVec 6 → Bool) : Bool :=
  any c && (if sz == 5 then even c else if sz == 6 then c.toNat % 4 == 0 else true)
def ldSize (sz : Nat) : Bool := sz ≤ 6
def stSize (sz : Nat) : Bool := sz ≤ 6 && sz != 1 && sz != 3
/-- Loads: `g` global. -/
def ldAddr (g : Bool) (w : W0) : Bool := if g then apair w.a else src w.a
def ld32 (g : Bool) (w : W0) : Bool := ldAddr g w && !w.luB && dst w.d && (!isU w.d || usrc w.a)
def ldx64 (g : Bool) (w : W0) (x : W1) : Bool :=
  ldSize (size x) && (if x.role == 1#2 then !g else ldAddr g w) && x.c == 0#6 && !w.luB &&
  role w x (!g && size x ≤ 4) false (size x ≤ 4) && wideReg (size x) w.d dst
def ld64 (g : Bool) (w : W0) (x : W1) : Bool :=
  ldx64 g w x && w.b == 20#6 && !bitN x.hi.toNat 3 && (!isU w.d || (x.role == 0#2 && usrc w.a))
def ld96 (g : Bool) (w : W0) (x : W1) : Bool := ld64 g w x && hiBelow x 8
def st32 (g : Bool) (w : W0) : Bool := noRes w && ldAddr g w && src w.b
def st64 (g : Bool) (w : W0) (x : W1) : Bool :=
  noRes w && stSize (size x) && ldAddr g w && x.c == 0#6 && w.d == 0#6 && !bitN x.hi.toNat 3 &&
  role w x (!g && size x ≤ 4) (size x ≤ 4) false && wideReg (size x) w.b src
def st96 (g : Bool) (w : W0) (x : W1) : Bool := st64 g w x && hiBelow x 8
/-- A per-lane source: no uniform register (R194). -/
def lsrc (c : BitVec 6) : Bool := c.toNat ≤ 22

/-- The allowed op and type pairs of R197. -/
def atomOT (op ty : Nat) : Bool :=
  if op ≤ 2 then ty ≤ 4 else if op ≤ 5 then ty ≤ 3 else if op == 6 then ty ≤ 4 else if op == 7 then ty ≤ 3
  else if op == 8 then ty == 1 else op == 9 && ty == 5
def rdmOp (op : Nat) : Bool := op ≤ 5 || op == 8 || op == 9
def aop (x : W1) : Nat := bitsN x.hi.toNat 0 4
def aty (x : W1) : Nat := bitsN x.hi.toNat 4 3
def wide (t : Nat) : Bool := t == 2 || t == 3 || t == 5
def evenReg (c : BitVec 6) : Bool := src c && even c
def atomC (x : W1) : Bool :=
  if aop x == 7 then (if wide (aty x) then evenReg x.c else src x.c)
  else if aop x == 9 then keyQuad x.c else x.c == 0#6
def atomW (g rdm : Bool) (w : W0) (x : W1) : Bool :=
  atomOT (aop x) (aty x) && hiBelow x 128 && atomC x && (g || x.role == 1#2 || src w.a) && (!g || apair w.a) &&
  role w x (!g) (!wide (aty x)) (!rdm && !wide (aty x)) &&
  (if wide (aty x) then evenReg w.b else src w.b) &&
  (if rdm then rdmOp (aop x) && w.d == 0#6 && noRes w
   else laneDst w.d && (!wide (aty x) || even w.d))

/-- The scope, successor and predecessor fields of FENCE (R202). -/
def fenceBits (w : W0) : Nat :=
  w.d.toNat + 64 * w.a.toNat + 4096 * w.b.toNat + (if w.luA then 262144 else 0)
def fenceScope (w : W0) : Nat := bitsN (fenceBits w) 16 3
def fenceSucc (w : W0) : Nat := bitsN (fenceBits w) 8 8
def fencePred (w : W0) : Nat := bitsN (fenceBits w) 0 8

/-- The MX command word (R250): A and B as given, the control pair, and the flags. -/
def mxTok (w : W0) : Bool := bitN w.d.toNat 4
def mxD (w : W0) : Bool := !bitN w.d.toNat 5 && (mxTok w || w.d == 0#6)
def mxHi (x : W1) : Nat := x.hi.toNat
def mxAcq (x : W1) : Bool := bitN (mxHi x) 0
def mxRel (x : W1) : Bool := bitN (mxHi x) 1
def mxScope (x : W1) : Nat := bitsN (mxHi x) 2 3
def mxFmt (x : W1) : Nat := bitsN (mxHi x) 5 4
def mxOp (x : W1) : Nat := bitsN (mxHi x) 9 7
def ctl (c : BitVec 6) : Bool := evenU c && c.toNat ≤ 54
def scopeOk (sc : Nat) (acq rel : Bool) : Bool := sc ≤ 5 && (acq || rel || sc == 0)
def mx (acq rel : Bool) (fmts : Nat → Bool) (w : W0) (x : W1) : Bool :=
  noRes w && mxD w && ctl x.c && mxOp x == 0 && scopeOk (mxScope x) (mxAcq x) (mxRel x) &&
  (acq || !mxAcq x) && (rel || !mxRel x) && (!mxRel x || mxTok w) && fmts (mxFmt x)
def mxA0 (w : W0) : Bool := w.a == 0#6 && !w.luA
def mxB0 (w : W0) : Bool := w.b == 0#6 && !w.luB
def noRole (x : W1) : Bool := x.role == 0#2 && x.main == 0#8
def rdFmt (f : Nat) : Bool := f ≤ 3 || f == 7 || (9 ≤ f && f ≤ 13)

/-- The copy words (R286). -/
def desc (c : BitVec 6) : Bool := c == 24#6 || c == 32#6 || c == 40#6 || c == 48#6
def xfBits (x : W1) : Nat := x.c.toNat + 64 * x.main.toNat + 16384 * x.role.toNat + 65536 * x.hi.toNat
def xfSrc (x : W1) : Nat := bitsN (xfBits x) 0 3
def xfDst (x : W1) : Nat := bitsN (xfBits x) 3 3
def xfAcq (x : W1) : Bool := bitN (xfBits x) 16
def xfRel (x : W1) : Bool := bitN (xfBits x) 17
def xfScope (x : W1) : Nat := bitsN (xfBits x) 18 3
def xfOsp (x : W1) : Bool := bitN (xfBits x) 21
def xfD (x : W1) : Nat := bitsN (xfBits x) 22 10
def obj (w : W0) (osp : Bool) : Bool := if osp then isU w.b else evenU w.b
def xfWord (yield : Bool) (w : W0) (x : W1) : Bool :=
  noRes w && mxD w && desc w.a && bitsN (xfBits x) 6 10 == 0 && scopeOk (xfScope x) (xfAcq x) (xfRel x) &&
  (w.b == 20#6 && !xfOsp x && !w.luB || obj w (xfOsp x)) && (yield || xfD x == 0) &&
  (!xfRel x || yield || mxTok w || w.b != 20#6)
def copyTiers (x : W1) : Bool := xfSrc x ≤ 3 && xfDst x ≤ 3
def prefTiers (x : W1) : Bool := (xfSrc x == 1 && xfDst x == 4) || (1 ≤ xfSrc x && xfSrc x ≤ 3 && xfDst x == 0)

/-- The collective words (R292, R293). -/
def clX (w : W0) : Nat := w.latch.toNat * 2 + w.wbs.toNat
def clBits (x : W1) : Nat := xfBits x
def clAcq (x : W1) : Bool := bitN (clBits x) 16
def clRel (x : W1) : Bool := bitN (clBits x) 17
def clAt (x : W1) : Bool := bitN (clBits x) 18
def clQ (x : W1) : Nat := bitsN (clBits x) 19 4
def clTok (x : W1) : Bool := bitN (clBits x) 23
def clTy (x : W1) : Nat := bitsN (clBits x) 24 3
def clOp (x : W1) : Nat := bitsN (clBits x) 27 4
def clReg (c : BitVec 6) : Bool := isO c || isU c
def clWide (sz : Nat) (c : BitVec 6) : Bool :=
  (clReg c || c == 20#6) && (if sz == 2 then even c else if sz == 4 then c.toNat % 4 == 0 else true)
def cl (w : W0) (x : W1) : Bool :=
  (clX w == 0 || 4 ≤ clX w) && apair w.a && (isO x.c || isU x.c) && bitsN (clBits x) 6 10 == 0 && !bitN (clBits x) 31 &&
  (!clAt x || clX w != 0) && (clTok x || clQ x == 0)
def clPutTy (x : W1) : Bool := 4 ≤ clTy x && clTy x ≤ 6 && clOp x == 0
def clRegs (x : W1) : Nat := if clTy x == 5 then 2 else if clTy x == 6 then 4 else 1
def clAtomRegs (x : W1) : Nat := if clTy x == 2 || clTy x == 3 then 2 else 1

/-- The object words of BOBJ.INIT and BOBJ.ARV. -/
def oaddr (sp : Bool) (c : BitVec 6) : Bool := if sp then isU c else evenU c

/-- Lock words (R339): space and scope in B. -/
def lockB (w : W0) : Bool := bitsN w.b.toNat 1 3 ≤ 5 && bitsN w.b.toNat 4 2 == 0 && !w.luB && oaddr (bitN w.b.toNat 0) w.a
def lockD (w : W0) : Bool := evenU w.d || w.d == 20#6

/-- What an entry accepts of PFX.RS (R95): rounding modes beside RNE, flush-to-zero, saturation modes beside none. -/
structure RSA where
  rnd : List Rnd
  ftz : Bool
  sat : List Sat
  deriving DecidableEq, Repr

def rsNone : RSA := ⟨[], false, []⟩
def rsInt : RSA := ⟨[], false, [.range]⟩
def rsFp : RSA := ⟨[.rtz, .rup, .rdn, .rna, .sr], true, [.range, .unit, .signed]⟩
def rsFtz : RSA := ⟨[], true, []⟩
def rsRnd : RSA := ⟨[.rtz, .rup, .rdn, .rna], true, []⟩
def rsMxRd : RSA := ⟨[.rtz, .rup, .rdn, .rna], true, [.range, .unit, .signed]⟩
/-- CVT: every saturation mode for a floating destination, range alone for an integer one (R158). -/
def rsCvt (dstCode : Nat) : RSA :=
  if (3 ≤ dstCode && dstCode ≤ 8) || dstCode == 15 then ⟨[.rtz, .rup, .rdn, .rna, .sr], true, [.range]⟩ else rsFp
def rsDot (flt : Bool) : RSA := if flt then rsFp else rsInt
/-- RED and SCAN (R178): by op and type. -/
def rsRed (w : W0) : RSA :=
  let op := bitsN w.b.toNat 0 3
  let ty := bitsN w.b.toNat 3 3
  if 2 ≤ ty then (if op == 0 then rsRnd else if op ≤ 2 then rsFtz else rsNone)
  else if op == 0 then rsInt else rsNone

/-- The settings of a PFX.RS lie within what the entry accepts. -/
def rsOk (a : RSA) (p : Pfx) : Bool :=
  match p.rs with
  | none => true
  | some r => (r.rnd == .rne || a.rnd.contains r.rnd) && (!r.ftz || a.ftz) && (r.sat == .none || a.sat.contains r.sat) &&
    (r.rnd == .sr || r.key == 0#4)

/-- The PFX kinds that an instruction accepts (R94, R96, R97): RS, K, Z. -/
structure Acc where
  rs : Bool
  k : Bool
  z : Bool
  deriving DecidableEq, Repr

/-- No PFX kind is present that is not accepted. -/
def Acc.ok (a : Acc) (p : Pfx) : Bool :=
  (a.rs || p.rs.isNone) && (a.k || p.k.isNone) && (a.z || p.z.isNone)

/-- ALU: PFX.RS as the entry lists, PFX.K unless the destination is uniform. -/
def accAlu (rs : Bool) (w : W0) : Acc := ⟨rs, !isU w.d, false⟩
def accK : Acc := ⟨false, true, false⟩
def accRSK : Acc := ⟨true, true, false⟩
def accKZ : Acc := ⟨false, true, true⟩
def accRSKZ : Acc := ⟨true, true, true⟩
def accRS : Acc := ⟨true, false, false⟩
def acc0 : Acc := ⟨false, false, false⟩

end Sys2Proof.WF

namespace Sys2Proof

open WF Machine

/-- The heir specification of an immediate (R329): bits [15:7] zero, code 6 invalid, [6:3] zero but for codes 1 and 4. -/
def WF.heirSpec (s : Nat) : Bool :=
  s < 128 && bitsN s 0 3 != 6 && (bitsN s 0 3 == 1 || bitsN s 0 3 == 4 || bitsN s 3 4 == 0)
/-- HEIR (R342). -/
def WF.heirW (w : W0) (x : W1) : Bool :=
  let kind := w.d.toNat
  kind < 8 && x.role == 0#2 && x.main == 0#8 &&
  (if kind ≤ 4 then oaddr (kind == 1 || kind == 2 || kind == 4) w.a else w.a == 20#6 && !w.luA) &&
  (if kind == 5 then x.c.toNat < 16 else x.c == 0#6) &&
  (if w.b == 20#6 then !w.luB && WF.heirSpec x.hi.toNat else isU w.b && x.hi == 0#16)

/-- The PFX kinds that the instruction accepts; an event has no words and so none (R94, R96, R97). -/
def Instr.acc : Instr → Acc
  | .nop => acc0
  | .iadd_32 _ w => accAlu true w
  | .iadd_64 _ w _ => accAlu true w
  | .iadd_96 _ w _ _ => accAlu true w
  | .isub_32 _ w => accAlu true w
  | .isub_64 _ w _ => accAlu true w
  | .isub_96 _ w _ _ => accAlu true w
  | .iaddc_32 _ w => accAlu false w
  | .iaddc_64 _ w _ => accAlu false w
  | .iaddc_96 _ w _ _ => accAlu false w
  | .imul_32 _ w => accAlu true w
  | .imul_64 _ w _ => accAlu true w
  | .imul_96 _ w _ _ => accAlu true w
  | .imulh_32 _ w => accAlu false w
  | .imulh_64 _ w _ => accAlu false w
  | .imulh_96 _ w _ _ => accAlu false w
  | .imad_32 _ w => accAlu false w
  | .imad_64 _ w _ => accAlu false w
  | .imad_96 _ w _ _ => accAlu false w
  | .imadw_32 _ w => accAlu false w
  | .imadw_64 _ w _ => accAlu false w
  | .imadw_96 _ w _ _ => accAlu false w
  | .imin_32 _ w => accAlu false w
  | .imin_64 _ w _ => accAlu false w
  | .imin_96 _ w _ _ => accAlu false w
  | .imax_32 _ w => accAlu false w
  | .imax_64 _ w _ => accAlu false w
  | .imax_96 _ w _ _ => accAlu false w
  | .and_32 _ w => accAlu false w
  | .and_64 _ w _ => accAlu false w
  | .and_96 _ w _ _ => accAlu false w
  | .or_32 _ w => accAlu false w
  | .or_64 _ w _ => accAlu false w
  | .or_96 _ w _ _ => accAlu false w
  | .xor_32 _ w => accAlu false w
  | .xor_64 _ w _ => accAlu false w
  | .xor_96 _ w _ _ => accAlu false w
  | .andn_32 _ w => accAlu false w
  | .andn_64 _ w _ => accAlu false w
  | .andn_96 _ w _ _ => accAlu false w
  | .bool3_64 _ w _ => accAlu false w
  | .bool3_96 _ w _ _ => accAlu false w
  | .shl_32 _ w => accAlu false w
  | .shl_64 _ w _ => accAlu false w
  | .shl_96 _ w _ _ => accAlu false w
  | .shr_32 _ w => accAlu false w
  | .shr_64 _ w _ => accAlu false w
  | .shr_96 _ w _ _ => accAlu false w
  | .sar_32 _ w => accAlu false w
  | .sar_64 _ w _ => accAlu false w
  | .sar_96 _ w _ _ => accAlu false w
  | .rot_32 _ w => accAlu false w
  | .rot_64 _ w _ => accAlu false w
  | .rot_96 _ w _ _ => accAlu false w
  | .shf_32 _ w => accAlu false w
  | .shf_64 _ w _ => accAlu false w
  | .shf_96 _ w _ _ => accAlu false w
  | .bfx_32 _ w => accAlu false w
  | .bfx_64 _ w _ => accAlu false w
  | .bfx_96 _ w _ _ => accAlu false w
  | .bfi_32 _ w => accAlu false w
  | .bfi_64 _ w _ => accAlu false w
  | .bfi_96 _ w _ _ => accAlu false w
  | .prmt_32 _ w => accAlu false w
  | .prmt_64 _ w _ => accAlu false w
  | .prmt_96 _ w _ _ => accAlu false w
  | .icmp_32 _ _ => accK
  | .icmp_64 _ _ _ => accK
  | .icmp_96 _ _ _ _ => accK
  | .isel_32 _ w => accAlu false w
  | .isel_64 _ w _ => accAlu false w
  | .isel_96 _ w _ _ => accAlu false w
  | .lea_32 _ w => accAlu false w
  | .lea_64 _ w _ => accAlu false w
  | .lea_96 _ w _ _ => accAlu false w
  | .fadd_32 _ w => accAlu true w
  | .fadd_64 _ w _ => accAlu true w
  | .fadd_96 _ w _ _ => accAlu true w
  | .fmul_32 _ w => accAlu true w
  | .fmul_64 _ w _ => accAlu true w
  | .fmul_96 _ w _ _ => accAlu true w
  | .ffma_32 _ w => accAlu true w
  | .ffma_64 _ w _ => accAlu true w
  | .ffma_96 _ w _ _ => accAlu true w
  | .fmin_32 _ w => accAlu true w
  | .fmin_64 _ w _ => accAlu true w
  | .fmin_96 _ w _ _ => accAlu true w
  | .fmax_32 _ w => accAlu true w
  | .fmax_64 _ w _ => accAlu true w
  | .fmax_96 _ w _ _ => accAlu true w
  | .fcmp_32 _ _ => accRSK
  | .fcmp_64 _ _ _ => accRSK
  | .fcmp_96 _ _ _ _ => accRSK
  | .hadd2_32 _ w => accAlu true w
  | .hadd2_64 _ w _ => accAlu true w
  | .hadd2_96 _ w _ _ => accAlu true w
  | .hmul2_32 _ w => accAlu true w
  | .hmul2_64 _ w _ => accAlu true w
  | .hmul2_96 _ w _ _ => accAlu true w
  | .hfma2_32 _ w => accAlu true w
  | .hfma2_64 _ w _ => accAlu true w
  | .hfma2_96 _ w _ _ => accAlu true w
  | .hmin2_32 _ w => accAlu true w
  | .hmin2_64 _ w _ => accAlu true w
  | .hmin2_96 _ w _ _ => accAlu true w
  | .hmax2_32 _ w => accAlu true w
  | .hmax2_64 _ w _ => accAlu true w
  | .hmax2_96 _ w _ _ => accAlu true w
  | .hcmp2_32 _ w => accAlu true w
  | .hcmp2_64 _ w _ => accAlu true w
  | .hcmp2_96 _ w _ _ => accAlu true w
  | .cvt_32 _ w => accAlu true w
  | .cvt_64 _ w _ => accAlu true w
  | .cvtp_32 _ w => accAlu true w
  | .cvtp_64 _ w _ => accAlu true w
  | .cvtu_32 _ w => accAlu true w
  | .cvtu_64 _ w _ => accAlu true w
  | .scl_32 _ w => accAlu true w
  | .scl_64 _ w _ => accAlu true w
  | .dot2_32 _ _ => accRSK
  | .dot2_64 _ _ _ => accRSK
  | .dot4_32 _ _ => accRSK
  | .dot4_64 _ _ _ => accRSK
  | .dot8_32 _ _ => accRSK
  | .dot8_64 _ _ _ => accRSK
  | .movo _ _ _ => accK
  | .movm _ _ _ => accK
  | .movu_32 _ w => accAlu false w
  | .movu_64 _ _ _ => accK
  | .movk_to_mask _ _ => accK
  | .movk_from_mask _ w => accAlu false w
  | .ldi_64 _ w _ => accAlu false w
  | .ldi_96 _ w _ _ => accAlu false w
  | .bra_64 _ _ _ => accK
  | .bra_96 _ _ _ _ => accK
  | .brx _ _ _ => accK
  | .pad _ _ => acc0
  | .call_64 _ _ _ => accK
  | .call_96 _ _ _ _ => accK
  | .callx _ _ _ => accK
  | .ret _ _ => accK
  | .exit _ _ => accK
  | .cue_64 _ _ _ => acc0
  | .cue_96 _ _ _ _ => acc0
  | .trap_32 _ _ => accK
  | .trap_64 _ _ _ => accK
  | .census_32 _ _ => accKZ
  | .census_64 _ _ _ => accKZ
  | .pick_32 _ _ => accKZ
  | .pick_64 _ _ _ => accKZ
  | .peers_32 _ _ => accKZ
  | .peers_64 _ _ _ => accKZ
  | .qx_32 _ _ => accKZ
  | .qx_64 _ _ _ => accKZ
  | .red_32 _ _ => accRSKZ
  | .red_64 _ _ _ => accRSKZ
  | .scan_32 _ _ => accRSKZ
  | .scan_64 _ _ _ => accRSKZ
  | .draw _ _ _ => accKZ
  | .drawm _ _ _ => accKZ
  | .sreg_read _ w => accAlu false w
  | .sreg_write _ _ => accK
  | .lraise_32 _ w => accAlu false w
  | .lraise_64 _ w _ => accAlu false w
  | .lchk_32 _ _ => accK
  | .lchk_k_32 _ _ => accK
  | .lchk_64 _ _ _ => accK
  | .lchk_k_64 _ _ _ => accK
  | .dcl_reg _ w _ => accAlu false w
  | .dcl_g _ _ _ => accK
  | .dcl_sp _ _ _ => accK
  | .ld_32 _ w => accAlu false w
  | .ld_64 _ w _ => accAlu false w
  | .ld_96 _ w _ _ => accAlu false w
  | .st_32 _ _ => accK
  | .st_64 _ _ _ => accK
  | .st_96 _ _ _ _ => accK
  | .lds_32 _ w => accAlu false w
  | .lds_64 _ w _ => accAlu false w
  | .lds_96 _ w _ _ => accAlu false w
  | .sts_32 _ _ => accK
  | .sts_64 _ _ _ => accK
  | .sts_96 _ _ _ _ => accK
  | .ldf_32 _ _ => accK
  | .ldf_64 _ _ _ => accK
  | .ste_32 _ _ => accK
  | .ste_64 _ _ _ => accK
  | .ldx_64 _ _ _ => accK
  | .ldx_96 _ _ _ _ => accK
  | .waitc _ _ _ => accK
  | .atom _ _ _ => accK
  | .atoms _ _ _ => accK
  | .rdm _ _ _ => accK
  | .fence _ _ => acc0
  | .bar_32 _ _ => acc0
  | .bar_64 _ _ _ => acc0
  | .barw _ _ => acc0
  | .prf_32 _ _ => accK
  | .prf_64 _ _ _ => accK
  | .graise _ _ => accK
  | .glbl _ w => accAlu false w
  | .qbind _ _ => acc0
  | .qpoll _ _ => acc0
  | .qrd _ _ => acc0
  | .qwr _ _ => acc0
  | .mx_fmt _ _ _ => acc0
  | .mx_ldb _ _ _ => acc0
  | .mx_mma _ _ _ => acc0
  | .mx_mmas _ _ _ => acc0
  | .mx_zero _ _ _ => acc0
  | .mx_rd _ _ _ => accRS
  | .mx_wr _ _ _ => accRS
  | .mx_rdv _ _ _ => acc0
  | .mx_qnt _ _ _ => accRS
  | .xf_copy_64 _ _ _ => accK
  | .xf_copy_96 _ _ _ _ => accK
  | .xf_pref _ _ _ => accK
  | .xf_yield _ _ _ => accK
  | .bobj_init _ _ _ => accK
  | .cl_put _ _ _ => accK
  | .cl_get _ _ _ => accK
  | .cl_red _ _ _ => accK
  | .cl_atom _ _ _ => accK
  | .cl_draw _ _ _ => accK
  | .cl_sig _ _ _ => accK
  | .mb_open _ _ _ => acc0
  | .mb_send_32 _ _ => accK
  | .mb_send_64 _ _ _ => accK
  | .mb_send_sp _ _ _ => accK
  | .lock_32 _ _ => acc0
  | .lock_64 _ _ _ => acc0
  | .trylock_32 _ _ => acc0
  | .trylock_64 _ _ _ => acc0
  | .unlock_32 _ _ => accK
  | .unlock_64 _ _ _ => accK
  | .promise _ _ => accK
  | .heir _ _ _ => accK
  | .launch _ _ _ => accK
  | .nop_h0 _ => acc0
  | .nop_h1 _ => acc0
  | .nop_h2 _ => acc0
  | .nop_h3 _ => acc0
  | .ineg _ w => accAlu true w
  | .iabs _ w => accAlu true w
  | .popc _ w => accAlu false w
  | .clz _ w => accAlu false w
  | .ctz _ w => accAlu false w
  | .brev _ w => accAlu false w
  | .frcp _ w => accAlu true w
  | .frsq _ w => accAlu true w
  | .fsqrt _ w => accAlu true w
  | .fexp2 _ w => accAlu true w
  | .flog2 _ w => accAlu true w
  | .fsin _ w => accAlu true w
  | .fcos _ w => accAlu true w
  | .ftanh _ w => accAlu true w
  | .frnd _ w => accAlu true w
  | .ffrc _ w => accAlu true w
  | .kill _ _ => accK
  | .syncw _ _ => acc0
  | .yield _ _ => acc0
  | .bkpt _ _ => accK
  | .elect _ _ => accKZ
  | .lget _ w => accAlu false w
  | .seal _ _ => accK
  | .unseal _ _ => accK
  | .qfree _ _ => acc0
  | .rett _ _ => acc0
  | .tclr _ _ => accK
  | .tmask _ _ => acc0
  | .halt _ _ => acc0
  | .mx_gang _ _ => acc0
  | .mx_wait _ _ => acc0
  | .mx_drop _ _ => acc0
  | .xf_wait _ _ => acc0
  | .xf_cancel _ _ => acc0
  | .bobj_arv _ _ => accK
  | .cl_flush _ _ => acc0
  | .mb_ver _ _ => acc0
  | .mb_mode _ _ => acc0
  | .will _ _ => acc0
  | .estq _ _ => acc0
  | .lwait _ _ => acc0
  | .delivery_fault _ => acc0
  | .store_apply_at_home _ => acc0
  | .replica_apply _ _ => acc0
  | .ldx_reply _ _ _ => acc0
  | .ldf_ste_lane_complete _ _ => acc0
  | .queue_held_entry_deliver _ _ => acc0
  | .preemption_request _ => acc0
  | .full_save _ => acc0
  | .resume _ _ => acc0
  | .conveyance _ => acc0
  | .probate_delivery _ => acc0
  | .lock_retry _ => acc0
  | .rendezvous_release _ => acc0
  | .mx_consumed _ => acc0
  | .mx_done _ => acc0
  | .audit_verdict _ _ _ _ _ => acc0
  | .cl_audit_verdict _ _ => acc0
  | .copy_complete _ _ => acc0
  | .prefetch_arrival _ => acc0
  | .xf_yield_resume _ => acc0
  | .slot_start _ _ => acc0
  | .cl_peer_apply _ _ _ => acc0
  | .cl_complete _ => acc0
  | .switch_write_back _ _ => acc0
  | .write_back_at_home _ => acc0
  | .await _ _ => acc0
  | .await_wake _ _ => acc0
  | .end_ _ _ => acc0
  | .u_mode_exception _ _ => acc0
  | .mbpop _ _ => acc0
  | .mbpush _ _ => acc0
  | .observation_delivery _ _ => acc0
  | .watchdog _ _ _ => acc0
  | .episode_create _ _ => acc0
  | .episode_end _ _ _ => acc0
  | .mbcfg_write _ _ _ _ => acc0
  | .mbdrop_read _ _ _ => acc0
  | .mbstat_read _ _ => acc0
  | .launch_port_store _ _ _ _ _ => acc0
  | .lpstat_read _ _ _ => acc0
  | .deal => acc0
  | .block_start _ => acc0
  | .steal _ _ => acc0
  | .grid_complete _ => acc0
  | .virtual_time_charge _ => acc0
  | .slice_end _ => acc0
  | .gfpop _ _ _ => acc0
  | .gfstat_read _ _ => acc0
  | .vdcreate _ _ => acc0
  | .vdreset _ _ => acc0
  | .vdfree _ _ => acc0
  | .grant_install _ _ _ => acc0
  | .grant_revoke _ _ _ => acc0
  | .migout _ _ _ _ => acc0
  | .migin _ _ => acc0
  | .migabort _ _ => acc0
  | .migration_complete _ => acc0
  | .ticket_expiry _ => acc0
  | .msnap _ _ _ => acc0
  | .attest _ _ => acc0
  | .fwload _ _ _ _ => acc0
  | .lcset _ _ _ _ => acc0
  | .dbgattach _ _ _ _ => acc0
  | .sbstat_read _ => acc0
  | .qown_write _ _ _ => acc0
  | .sown_write _ _ _ => acc0
  | .mapsync _ _ _ _ => acc0
  | .mapsync_done _ => acc0
  | .parkgo _ _ _ => acc0
  | .parkkill _ _ _ => acc0
  | .mapstat_read _ _ => acc0
  | .xwin_write _ _ _ _ => acc0
  | .evpop _ _ _ => acc0
  | .hvpop _ _ => acc0
  | .event_record_release _ => acc0
  | .vdstat_read _ _ => acc0
  | .hvstat_read _ => acc0
  | .qstat_read _ _ => acc0
  | .quench_clear _ => acc0
  | .row_mitigation _ _ _ _ => acc0
  | .metering_tick _ => acc0
  | .bellows_period _ _ _ => acc0
  | .uncorrectable_error _ => acc0
  | .corrected_error _ _ _ _ _ => acc0
  | .line_fetch _ _ _ => acc0
  | .elpop _ _ _ => acc0
  | .elstat_read _ _ => acc0
  | .debug_resume _ _ => acc0
  | .block_freeze _ _ _ => acc0
  | .host_kill _ _ => acc0
  | .hbm_window_write _ _ _ => acc0
  | .kwid_write _ _ => acc0
  | .violation_freeze _ => acc0
  | .host_module_disable _ => acc0
  | .reset _ => acc0
  | .bring_up_phase _ => acc0
  | .register_write _ _ _ _ => acc0
  | .unassigned_opcode _ _ _ _ _ => acc0
  | .orphaned_prefix _ _ _ => acc0
  | .episode_instruction _ _ => acc0
  | .peer_copy_access _ _ _ => acc0
  | .kwport_read _ _ => acc0
  | .qown_read _ _ => acc0
  | .sown_read _ _ => acc0
  | .activation_window _ _ => acc0

/-- What the instruction accepts of PFX.RS (R95). -/
def Instr.rsa : Instr → RSA
  | .nop => rsNone
  | .iadd_32 _ _ => rsInt
  | .iadd_64 _ _ _ => rsInt
  | .iadd_96 _ _ _ _ => rsInt
  | .isub_32 _ _ => rsInt
  | .isub_64 _ _ _ => rsInt
  | .isub_96 _ _ _ _ => rsInt
  | .iaddc_32 _ _ => rsNone
  | .iaddc_64 _ _ _ => rsNone
  | .iaddc_96 _ _ _ _ => rsNone
  | .imul_32 _ _ => rsInt
  | .imul_64 _ _ _ => rsInt
  | .imul_96 _ _ _ _ => rsInt
  | .imulh_32 _ _ => rsNone
  | .imulh_64 _ _ _ => rsNone
  | .imulh_96 _ _ _ _ => rsNone
  | .imad_32 _ _ => rsNone
  | .imad_64 _ _ _ => rsNone
  | .imad_96 _ _ _ _ => rsNone
  | .imadw_32 _ _ => rsNone
  | .imadw_64 _ _ _ => rsNone
  | .imadw_96 _ _ _ _ => rsNone
  | .imin_32 _ _ => rsNone
  | .imin_64 _ _ _ => rsNone
  | .imin_96 _ _ _ _ => rsNone
  | .imax_32 _ _ => rsNone
  | .imax_64 _ _ _ => rsNone
  | .imax_96 _ _ _ _ => rsNone
  | .and_32 _ _ => rsNone
  | .and_64 _ _ _ => rsNone
  | .and_96 _ _ _ _ => rsNone
  | .or_32 _ _ => rsNone
  | .or_64 _ _ _ => rsNone
  | .or_96 _ _ _ _ => rsNone
  | .xor_32 _ _ => rsNone
  | .xor_64 _ _ _ => rsNone
  | .xor_96 _ _ _ _ => rsNone
  | .andn_32 _ _ => rsNone
  | .andn_64 _ _ _ => rsNone
  | .andn_96 _ _ _ _ => rsNone
  | .bool3_64 _ _ _ => rsNone
  | .bool3_96 _ _ _ _ => rsNone
  | .shl_32 _ _ => rsNone
  | .shl_64 _ _ _ => rsNone
  | .shl_96 _ _ _ _ => rsNone
  | .shr_32 _ _ => rsNone
  | .shr_64 _ _ _ => rsNone
  | .shr_96 _ _ _ _ => rsNone
  | .sar_32 _ _ => rsNone
  | .sar_64 _ _ _ => rsNone
  | .sar_96 _ _ _ _ => rsNone
  | .rot_32 _ _ => rsNone
  | .rot_64 _ _ _ => rsNone
  | .rot_96 _ _ _ _ => rsNone
  | .shf_32 _ _ => rsNone
  | .shf_64 _ _ _ => rsNone
  | .shf_96 _ _ _ _ => rsNone
  | .bfx_32 _ _ => rsNone
  | .bfx_64 _ _ _ => rsNone
  | .bfx_96 _ _ _ _ => rsNone
  | .bfi_32 _ _ => rsNone
  | .bfi_64 _ _ _ => rsNone
  | .bfi_96 _ _ _ _ => rsNone
  | .prmt_32 _ _ => rsNone
  | .prmt_64 _ _ _ => rsNone
  | .prmt_96 _ _ _ _ => rsNone
  | .icmp_32 _ _ => rsNone
  | .icmp_64 _ _ _ => rsNone
  | .icmp_96 _ _ _ _ => rsNone
  | .isel_32 _ _ => rsNone
  | .isel_64 _ _ _ => rsNone
  | .isel_96 _ _ _ _ => rsNone
  | .lea_32 _ _ => rsNone
  | .lea_64 _ _ _ => rsNone
  | .lea_96 _ _ _ _ => rsNone
  | .fadd_32 _ _ => rsFp
  | .fadd_64 _ _ _ => rsFp
  | .fadd_96 _ _ _ _ => rsFp
  | .fmul_32 _ _ => rsFp
  | .fmul_64 _ _ _ => rsFp
  | .fmul_96 _ _ _ _ => rsFp
  | .ffma_32 _ _ => rsFp
  | .ffma_64 _ _ _ => rsFp
  | .ffma_96 _ _ _ _ => rsFp
  | .fmin_32 _ _ => rsFtz
  | .fmin_64 _ _ _ => rsFtz
  | .fmin_96 _ _ _ _ => rsFtz
  | .fmax_32 _ _ => rsFtz
  | .fmax_64 _ _ _ => rsFtz
  | .fmax_96 _ _ _ _ => rsFtz
  | .fcmp_32 _ _ => rsFtz
  | .fcmp_64 _ _ _ => rsFtz
  | .fcmp_96 _ _ _ _ => rsFtz
  | .hadd2_32 _ _ => rsFp
  | .hadd2_64 _ _ _ => rsFp
  | .hadd2_96 _ _ _ _ => rsFp
  | .hmul2_32 _ _ => rsFp
  | .hmul2_64 _ _ _ => rsFp
  | .hmul2_96 _ _ _ _ => rsFp
  | .hfma2_32 _ _ => rsFp
  | .hfma2_64 _ _ _ => rsFp
  | .hfma2_96 _ _ _ _ => rsFp
  | .hmin2_32 _ _ => rsFtz
  | .hmin2_64 _ _ _ => rsFtz
  | .hmin2_96 _ _ _ _ => rsFtz
  | .hmax2_32 _ _ => rsFtz
  | .hmax2_64 _ _ _ => rsFtz
  | .hmax2_96 _ _ _ _ => rsFtz
  | .hcmp2_32 _ _ => rsFtz
  | .hcmp2_64 _ _ _ => rsFtz
  | .hcmp2_96 _ _ _ _ => rsFtz
  | .cvt_32 _ w => (rsCvt (bitsN w.b.toNat 3 3))
  | .cvt_64 _ _ x => (rsCvt (bitsN x.hi.toNat 4 4))
  | .cvtp_32 _ _ => rsFp
  | .cvtp_64 _ _ _ => rsFp
  | .cvtu_32 _ _ => rsFtz
  | .cvtu_64 _ _ _ => rsFtz
  | .scl_32 _ _ => rsFp
  | .scl_64 _ _ _ => rsFp
  | .dot2_32 _ _ => rsFp
  | .dot2_64 _ _ x => (rsDot (decide (bitsN x.hi.toNat 0 3 ≤ 1)))
  | .dot4_32 _ _ => rsFp
  | .dot4_64 _ _ x => (rsDot (decide (bitsN x.hi.toNat 0 3 ≤ 3)))
  | .dot8_32 _ _ => rsFp
  | .dot8_64 _ _ x => (rsDot ((bitsN x.hi.toNat 0 3 == 0)))
  | .movo _ _ _ => rsNone
  | .movm _ _ _ => rsNone
  | .movu_32 _ _ => rsNone
  | .movu_64 _ _ _ => rsNone
  | .movk_to_mask _ _ => rsNone
  | .movk_from_mask _ _ => rsNone
  | .ldi_64 _ _ _ => rsNone
  | .ldi_96 _ _ _ _ => rsNone
  | .bra_64 _ _ _ => rsNone
  | .bra_96 _ _ _ _ => rsNone
  | .brx _ _ _ => rsNone
  | .pad _ _ => rsNone
  | .call_64 _ _ _ => rsNone
  | .call_96 _ _ _ _ => rsNone
  | .callx _ _ _ => rsNone
  | .ret _ _ => rsNone
  | .exit _ _ => rsNone
  | .cue_64 _ _ _ => rsNone
  | .cue_96 _ _ _ _ => rsNone
  | .trap_32 _ _ => rsNone
  | .trap_64 _ _ _ => rsNone
  | .census_32 _ _ => rsNone
  | .census_64 _ _ _ => rsNone
  | .pick_32 _ _ => rsNone
  | .pick_64 _ _ _ => rsNone
  | .peers_32 _ _ => rsNone
  | .peers_64 _ _ _ => rsNone
  | .qx_32 _ _ => rsNone
  | .qx_64 _ _ _ => rsNone
  | .red_32 _ w => (rsRed w)
  | .red_64 _ w _ => (rsRed w)
  | .scan_32 _ w => (rsRed w)
  | .scan_64 _ w _ => (rsRed w)
  | .draw _ _ _ => rsNone
  | .drawm _ _ _ => rsNone
  | .sreg_read _ _ => rsNone
  | .sreg_write _ _ => rsNone
  | .lraise_32 _ _ => rsNone
  | .lraise_64 _ _ _ => rsNone
  | .lchk_32 _ _ => rsNone
  | .lchk_k_32 _ _ => rsNone
  | .lchk_64 _ _ _ => rsNone
  | .lchk_k_64 _ _ _ => rsNone
  | .dcl_reg _ _ _ => rsNone
  | .dcl_g _ _ _ => rsNone
  | .dcl_sp _ _ _ => rsNone
  | .ld_32 _ _ => rsNone
  | .ld_64 _ _ _ => rsNone
  | .ld_96 _ _ _ _ => rsNone
  | .st_32 _ _ => rsNone
  | .st_64 _ _ _ => rsNone
  | .st_96 _ _ _ _ => rsNone
  | .lds_32 _ _ => rsNone
  | .lds_64 _ _ _ => rsNone
  | .lds_96 _ _ _ _ => rsNone
  | .sts_32 _ _ => rsNone
  | .sts_64 _ _ _ => rsNone
  | .sts_96 _ _ _ _ => rsNone
  | .ldf_32 _ _ => rsNone
  | .ldf_64 _ _ _ => rsNone
  | .ste_32 _ _ => rsNone
  | .ste_64 _ _ _ => rsNone
  | .ldx_64 _ _ _ => rsNone
  | .ldx_96 _ _ _ _ => rsNone
  | .waitc _ _ _ => rsNone
  | .atom _ _ _ => rsNone
  | .atoms _ _ _ => rsNone
  | .rdm _ _ _ => rsNone
  | .fence _ _ => rsNone
  | .bar_32 _ _ => rsNone
  | .bar_64 _ _ _ => rsNone
  | .barw _ _ => rsNone
  | .prf_32 _ _ => rsNone
  | .prf_64 _ _ _ => rsNone
  | .graise _ _ => rsNone
  | .glbl _ _ => rsNone
  | .qbind _ _ => rsNone
  | .qpoll _ _ => rsNone
  | .qrd _ _ => rsNone
  | .qwr _ _ => rsNone
  | .mx_fmt _ _ _ => rsNone
  | .mx_ldb _ _ _ => rsNone
  | .mx_mma _ _ _ => rsNone
  | .mx_mmas _ _ _ => rsNone
  | .mx_zero _ _ _ => rsNone
  | .mx_rd _ _ _ => rsMxRd
  | .mx_wr _ _ _ => rsRnd
  | .mx_rdv _ _ _ => rsNone
  | .mx_qnt _ _ _ => rsRnd
  | .xf_copy_64 _ _ _ => rsNone
  | .xf_copy_96 _ _ _ _ => rsNone
  | .xf_pref _ _ _ => rsNone
  | .xf_yield _ _ _ => rsNone
  | .bobj_init _ _ _ => rsNone
  | .cl_put _ _ _ => rsNone
  | .cl_get _ _ _ => rsNone
  | .cl_red _ _ _ => rsNone
  | .cl_atom _ _ _ => rsNone
  | .cl_draw _ _ _ => rsNone
  | .cl_sig _ _ _ => rsNone
  | .mb_open _ _ _ => rsNone
  | .mb_send_32 _ _ => rsNone
  | .mb_send_64 _ _ _ => rsNone
  | .mb_send_sp _ _ _ => rsNone
  | .lock_32 _ _ => rsNone
  | .lock_64 _ _ _ => rsNone
  | .trylock_32 _ _ => rsNone
  | .trylock_64 _ _ _ => rsNone
  | .unlock_32 _ _ => rsNone
  | .unlock_64 _ _ _ => rsNone
  | .promise _ _ => rsNone
  | .heir _ _ _ => rsNone
  | .launch _ _ _ => rsNone
  | .nop_h0 _ => rsNone
  | .nop_h1 _ => rsNone
  | .nop_h2 _ => rsNone
  | .nop_h3 _ => rsNone
  | .ineg _ _ => rsInt
  | .iabs _ _ => rsInt
  | .popc _ _ => rsNone
  | .clz _ _ => rsNone
  | .ctz _ _ => rsNone
  | .brev _ _ => rsNone
  | .frcp _ _ => rsFp
  | .frsq _ _ => rsFp
  | .fsqrt _ _ => rsFp
  | .fexp2 _ _ => rsFp
  | .flog2 _ _ => rsFp
  | .fsin _ _ => rsFp
  | .fcos _ _ => rsFp
  | .ftanh _ _ => rsFp
  | .frnd _ _ => rsRnd
  | .ffrc _ _ => rsFtz
  | .kill _ _ => rsNone
  | .syncw _ _ => rsNone
  | .yield _ _ => rsNone
  | .bkpt _ _ => rsNone
  | .elect _ _ => rsNone
  | .lget _ _ => rsNone
  | .seal _ _ => rsNone
  | .unseal _ _ => rsNone
  | .qfree _ _ => rsNone
  | .rett _ _ => rsNone
  | .tclr _ _ => rsNone
  | .tmask _ _ => rsNone
  | .halt _ _ => rsNone
  | .mx_gang _ _ => rsNone
  | .mx_wait _ _ => rsNone
  | .mx_drop _ _ => rsNone
  | .xf_wait _ _ => rsNone
  | .xf_cancel _ _ => rsNone
  | .bobj_arv _ _ => rsNone
  | .cl_flush _ _ => rsNone
  | .mb_ver _ _ => rsNone
  | .mb_mode _ _ => rsNone
  | .will _ _ => rsNone
  | .estq _ _ => rsNone
  | .lwait _ _ => rsNone
  | .delivery_fault _ => rsNone
  | .store_apply_at_home _ => rsNone
  | .replica_apply _ _ => rsNone
  | .ldx_reply _ _ _ => rsNone
  | .ldf_ste_lane_complete _ _ => rsNone
  | .queue_held_entry_deliver _ _ => rsNone
  | .preemption_request _ => rsNone
  | .full_save _ => rsNone
  | .resume _ _ => rsNone
  | .conveyance _ => rsNone
  | .probate_delivery _ => rsNone
  | .lock_retry _ => rsNone
  | .rendezvous_release _ => rsNone
  | .mx_consumed _ => rsNone
  | .mx_done _ => rsNone
  | .audit_verdict _ _ _ _ _ => rsNone
  | .cl_audit_verdict _ _ => rsNone
  | .copy_complete _ _ => rsNone
  | .prefetch_arrival _ => rsNone
  | .xf_yield_resume _ => rsNone
  | .slot_start _ _ => rsNone
  | .cl_peer_apply _ _ _ => rsNone
  | .cl_complete _ => rsNone
  | .switch_write_back _ _ => rsNone
  | .write_back_at_home _ => rsNone
  | .await _ _ => rsNone
  | .await_wake _ _ => rsNone
  | .end_ _ _ => rsNone
  | .u_mode_exception _ _ => rsNone
  | .mbpop _ _ => rsNone
  | .mbpush _ _ => rsNone
  | .observation_delivery _ _ => rsNone
  | .watchdog _ _ _ => rsNone
  | .episode_create _ _ => rsNone
  | .episode_end _ _ _ => rsNone
  | .mbcfg_write _ _ _ _ => rsNone
  | .mbdrop_read _ _ _ => rsNone
  | .mbstat_read _ _ => rsNone
  | .launch_port_store _ _ _ _ _ => rsNone
  | .lpstat_read _ _ _ => rsNone
  | .deal => rsNone
  | .block_start _ => rsNone
  | .steal _ _ => rsNone
  | .grid_complete _ => rsNone
  | .virtual_time_charge _ => rsNone
  | .slice_end _ => rsNone
  | .gfpop _ _ _ => rsNone
  | .gfstat_read _ _ => rsNone
  | .vdcreate _ _ => rsNone
  | .vdreset _ _ => rsNone
  | .vdfree _ _ => rsNone
  | .grant_install _ _ _ => rsNone
  | .grant_revoke _ _ _ => rsNone
  | .migout _ _ _ _ => rsNone
  | .migin _ _ => rsNone
  | .migabort _ _ => rsNone
  | .migration_complete _ => rsNone
  | .ticket_expiry _ => rsNone
  | .msnap _ _ _ => rsNone
  | .attest _ _ => rsNone
  | .fwload _ _ _ _ => rsNone
  | .lcset _ _ _ _ => rsNone
  | .dbgattach _ _ _ _ => rsNone
  | .sbstat_read _ => rsNone
  | .qown_write _ _ _ => rsNone
  | .sown_write _ _ _ => rsNone
  | .mapsync _ _ _ _ => rsNone
  | .mapsync_done _ => rsNone
  | .parkgo _ _ _ => rsNone
  | .parkkill _ _ _ => rsNone
  | .mapstat_read _ _ => rsNone
  | .xwin_write _ _ _ _ => rsNone
  | .evpop _ _ _ => rsNone
  | .hvpop _ _ => rsNone
  | .event_record_release _ => rsNone
  | .vdstat_read _ _ => rsNone
  | .hvstat_read _ => rsNone
  | .qstat_read _ _ => rsNone
  | .quench_clear _ => rsNone
  | .row_mitigation _ _ _ _ => rsNone
  | .metering_tick _ => rsNone
  | .bellows_period _ _ _ => rsNone
  | .uncorrectable_error _ => rsNone
  | .corrected_error _ _ _ _ _ => rsNone
  | .line_fetch _ _ _ => rsNone
  | .elpop _ _ _ => rsNone
  | .elstat_read _ _ => rsNone
  | .debug_resume _ _ => rsNone
  | .block_freeze _ _ _ => rsNone
  | .host_kill _ _ => rsNone
  | .hbm_window_write _ _ _ => rsNone
  | .kwid_write _ _ => rsNone
  | .violation_freeze _ => rsNone
  | .host_module_disable _ => rsNone
  | .reset _ => rsNone
  | .bring_up_phase _ => rsNone
  | .register_write _ _ _ _ => rsNone
  | .unassigned_opcode _ _ _ _ _ => rsNone
  | .orphaned_prefix _ _ _ => rsNone
  | .episode_instruction _ _ => rsNone
  | .peer_copy_access _ _ _ => rsNone
  | .kwport_read _ _ => rsNone
  | .qown_read _ _ => rsNone
  | .sown_read _ _ => rsNone
  | .activation_window _ _ => rsNone

/-- The PFX words of the instruction's group. -/
def Instr.pfx : Instr → Pfx
  | .nop => Pfx.none
  | .iadd_32 p _ => p
  | .iadd_64 p _ _ => p
  | .iadd_96 p _ _ _ => p
  | .isub_32 p _ => p
  | .isub_64 p _ _ => p
  | .isub_96 p _ _ _ => p
  | .iaddc_32 p _ => p
  | .iaddc_64 p _ _ => p
  | .iaddc_96 p _ _ _ => p
  | .imul_32 p _ => p
  | .imul_64 p _ _ => p
  | .imul_96 p _ _ _ => p
  | .imulh_32 p _ => p
  | .imulh_64 p _ _ => p
  | .imulh_96 p _ _ _ => p
  | .imad_32 p _ => p
  | .imad_64 p _ _ => p
  | .imad_96 p _ _ _ => p
  | .imadw_32 p _ => p
  | .imadw_64 p _ _ => p
  | .imadw_96 p _ _ _ => p
  | .imin_32 p _ => p
  | .imin_64 p _ _ => p
  | .imin_96 p _ _ _ => p
  | .imax_32 p _ => p
  | .imax_64 p _ _ => p
  | .imax_96 p _ _ _ => p
  | .and_32 p _ => p
  | .and_64 p _ _ => p
  | .and_96 p _ _ _ => p
  | .or_32 p _ => p
  | .or_64 p _ _ => p
  | .or_96 p _ _ _ => p
  | .xor_32 p _ => p
  | .xor_64 p _ _ => p
  | .xor_96 p _ _ _ => p
  | .andn_32 p _ => p
  | .andn_64 p _ _ => p
  | .andn_96 p _ _ _ => p
  | .bool3_64 p _ _ => p
  | .bool3_96 p _ _ _ => p
  | .shl_32 p _ => p
  | .shl_64 p _ _ => p
  | .shl_96 p _ _ _ => p
  | .shr_32 p _ => p
  | .shr_64 p _ _ => p
  | .shr_96 p _ _ _ => p
  | .sar_32 p _ => p
  | .sar_64 p _ _ => p
  | .sar_96 p _ _ _ => p
  | .rot_32 p _ => p
  | .rot_64 p _ _ => p
  | .rot_96 p _ _ _ => p
  | .shf_32 p _ => p
  | .shf_64 p _ _ => p
  | .shf_96 p _ _ _ => p
  | .bfx_32 p _ => p
  | .bfx_64 p _ _ => p
  | .bfx_96 p _ _ _ => p
  | .bfi_32 p _ => p
  | .bfi_64 p _ _ => p
  | .bfi_96 p _ _ _ => p
  | .prmt_32 p _ => p
  | .prmt_64 p _ _ => p
  | .prmt_96 p _ _ _ => p
  | .icmp_32 p _ => p
  | .icmp_64 p _ _ => p
  | .icmp_96 p _ _ _ => p
  | .isel_32 p _ => p
  | .isel_64 p _ _ => p
  | .isel_96 p _ _ _ => p
  | .lea_32 p _ => p
  | .lea_64 p _ _ => p
  | .lea_96 p _ _ _ => p
  | .fadd_32 p _ => p
  | .fadd_64 p _ _ => p
  | .fadd_96 p _ _ _ => p
  | .fmul_32 p _ => p
  | .fmul_64 p _ _ => p
  | .fmul_96 p _ _ _ => p
  | .ffma_32 p _ => p
  | .ffma_64 p _ _ => p
  | .ffma_96 p _ _ _ => p
  | .fmin_32 p _ => p
  | .fmin_64 p _ _ => p
  | .fmin_96 p _ _ _ => p
  | .fmax_32 p _ => p
  | .fmax_64 p _ _ => p
  | .fmax_96 p _ _ _ => p
  | .fcmp_32 p _ => p
  | .fcmp_64 p _ _ => p
  | .fcmp_96 p _ _ _ => p
  | .hadd2_32 p _ => p
  | .hadd2_64 p _ _ => p
  | .hadd2_96 p _ _ _ => p
  | .hmul2_32 p _ => p
  | .hmul2_64 p _ _ => p
  | .hmul2_96 p _ _ _ => p
  | .hfma2_32 p _ => p
  | .hfma2_64 p _ _ => p
  | .hfma2_96 p _ _ _ => p
  | .hmin2_32 p _ => p
  | .hmin2_64 p _ _ => p
  | .hmin2_96 p _ _ _ => p
  | .hmax2_32 p _ => p
  | .hmax2_64 p _ _ => p
  | .hmax2_96 p _ _ _ => p
  | .hcmp2_32 p _ => p
  | .hcmp2_64 p _ _ => p
  | .hcmp2_96 p _ _ _ => p
  | .cvt_32 p _ => p
  | .cvt_64 p _ _ => p
  | .cvtp_32 p _ => p
  | .cvtp_64 p _ _ => p
  | .cvtu_32 p _ => p
  | .cvtu_64 p _ _ => p
  | .scl_32 p _ => p
  | .scl_64 p _ _ => p
  | .dot2_32 p _ => p
  | .dot2_64 p _ _ => p
  | .dot4_32 p _ => p
  | .dot4_64 p _ _ => p
  | .dot8_32 p _ => p
  | .dot8_64 p _ _ => p
  | .movo p _ _ => p
  | .movm p _ _ => p
  | .movu_32 p _ => p
  | .movu_64 p _ _ => p
  | .movk_to_mask p _ => p
  | .movk_from_mask p _ => p
  | .ldi_64 p _ _ => p
  | .ldi_96 p _ _ _ => p
  | .bra_64 p _ _ => p
  | .bra_96 p _ _ _ => p
  | .brx p _ _ => p
  | .pad p _ => p
  | .call_64 p _ _ => p
  | .call_96 p _ _ _ => p
  | .callx p _ _ => p
  | .ret p _ => p
  | .exit p _ => p
  | .cue_64 p _ _ => p
  | .cue_96 p _ _ _ => p
  | .trap_32 p _ => p
  | .trap_64 p _ _ => p
  | .census_32 p _ => p
  | .census_64 p _ _ => p
  | .pick_32 p _ => p
  | .pick_64 p _ _ => p
  | .peers_32 p _ => p
  | .peers_64 p _ _ => p
  | .qx_32 p _ => p
  | .qx_64 p _ _ => p
  | .red_32 p _ => p
  | .red_64 p _ _ => p
  | .scan_32 p _ => p
  | .scan_64 p _ _ => p
  | .draw p _ _ => p
  | .drawm p _ _ => p
  | .sreg_read p _ => p
  | .sreg_write p _ => p
  | .lraise_32 p _ => p
  | .lraise_64 p _ _ => p
  | .lchk_32 p _ => p
  | .lchk_k_32 p _ => p
  | .lchk_64 p _ _ => p
  | .lchk_k_64 p _ _ => p
  | .dcl_reg p _ _ => p
  | .dcl_g p _ _ => p
  | .dcl_sp p _ _ => p
  | .ld_32 p _ => p
  | .ld_64 p _ _ => p
  | .ld_96 p _ _ _ => p
  | .st_32 p _ => p
  | .st_64 p _ _ => p
  | .st_96 p _ _ _ => p
  | .lds_32 p _ => p
  | .lds_64 p _ _ => p
  | .lds_96 p _ _ _ => p
  | .sts_32 p _ => p
  | .sts_64 p _ _ => p
  | .sts_96 p _ _ _ => p
  | .ldf_32 p _ => p
  | .ldf_64 p _ _ => p
  | .ste_32 p _ => p
  | .ste_64 p _ _ => p
  | .ldx_64 p _ _ => p
  | .ldx_96 p _ _ _ => p
  | .waitc p _ _ => p
  | .atom p _ _ => p
  | .atoms p _ _ => p
  | .rdm p _ _ => p
  | .fence p _ => p
  | .bar_32 p _ => p
  | .bar_64 p _ _ => p
  | .barw p _ => p
  | .prf_32 p _ => p
  | .prf_64 p _ _ => p
  | .graise p _ => p
  | .glbl p _ => p
  | .qbind p _ => p
  | .qpoll p _ => p
  | .qrd p _ => p
  | .qwr p _ => p
  | .mx_fmt p _ _ => p
  | .mx_ldb p _ _ => p
  | .mx_mma p _ _ => p
  | .mx_mmas p _ _ => p
  | .mx_zero p _ _ => p
  | .mx_rd p _ _ => p
  | .mx_wr p _ _ => p
  | .mx_rdv p _ _ => p
  | .mx_qnt p _ _ => p
  | .xf_copy_64 p _ _ => p
  | .xf_copy_96 p _ _ _ => p
  | .xf_pref p _ _ => p
  | .xf_yield p _ _ => p
  | .bobj_init p _ _ => p
  | .cl_put p _ _ => p
  | .cl_get p _ _ => p
  | .cl_red p _ _ => p
  | .cl_atom p _ _ => p
  | .cl_draw p _ _ => p
  | .cl_sig p _ _ => p
  | .mb_open p _ _ => p
  | .mb_send_32 p _ => p
  | .mb_send_64 p _ _ => p
  | .mb_send_sp p _ _ => p
  | .lock_32 p _ => p
  | .lock_64 p _ _ => p
  | .trylock_32 p _ => p
  | .trylock_64 p _ _ => p
  | .unlock_32 p _ => p
  | .unlock_64 p _ _ => p
  | .promise p _ => p
  | .heir p _ _ => p
  | .launch p _ _ => p
  | .nop_h0 _ => Pfx.none
  | .nop_h1 _ => Pfx.none
  | .nop_h2 _ => Pfx.none
  | .nop_h3 _ => Pfx.none
  | .ineg p _ => p
  | .iabs p _ => p
  | .popc p _ => p
  | .clz p _ => p
  | .ctz p _ => p
  | .brev p _ => p
  | .frcp p _ => p
  | .frsq p _ => p
  | .fsqrt p _ => p
  | .fexp2 p _ => p
  | .flog2 p _ => p
  | .fsin p _ => p
  | .fcos p _ => p
  | .ftanh p _ => p
  | .frnd p _ => p
  | .ffrc p _ => p
  | .kill p _ => p
  | .syncw p _ => p
  | .yield p _ => p
  | .bkpt p _ => p
  | .elect p _ => p
  | .lget p _ => p
  | .seal p _ => p
  | .unseal p _ => p
  | .qfree p _ => p
  | .rett p _ => p
  | .tclr p _ => p
  | .tmask p _ => p
  | .halt p _ => p
  | .mx_gang p _ => p
  | .mx_wait p _ => p
  | .mx_drop p _ => p
  | .xf_wait p _ => p
  | .xf_cancel p _ => p
  | .bobj_arv p _ => p
  | .cl_flush p _ => p
  | .mb_ver p _ => p
  | .mb_mode p _ => p
  | .will p _ => p
  | .estq p _ => p
  | .lwait p _ => p
  | .delivery_fault _ => Pfx.none
  | .store_apply_at_home _ => Pfx.none
  | .replica_apply _ _ => Pfx.none
  | .ldx_reply _ _ _ => Pfx.none
  | .ldf_ste_lane_complete _ _ => Pfx.none
  | .queue_held_entry_deliver _ _ => Pfx.none
  | .preemption_request _ => Pfx.none
  | .full_save _ => Pfx.none
  | .resume _ _ => Pfx.none
  | .conveyance _ => Pfx.none
  | .probate_delivery _ => Pfx.none
  | .lock_retry _ => Pfx.none
  | .rendezvous_release _ => Pfx.none
  | .mx_consumed _ => Pfx.none
  | .mx_done _ => Pfx.none
  | .audit_verdict _ _ _ _ _ => Pfx.none
  | .cl_audit_verdict _ _ => Pfx.none
  | .copy_complete _ _ => Pfx.none
  | .prefetch_arrival _ => Pfx.none
  | .xf_yield_resume _ => Pfx.none
  | .slot_start _ _ => Pfx.none
  | .cl_peer_apply _ _ _ => Pfx.none
  | .cl_complete _ => Pfx.none
  | .switch_write_back _ _ => Pfx.none
  | .write_back_at_home _ => Pfx.none
  | .await _ _ => Pfx.none
  | .await_wake _ _ => Pfx.none
  | .end_ _ _ => Pfx.none
  | .u_mode_exception _ _ => Pfx.none
  | .mbpop _ _ => Pfx.none
  | .mbpush _ _ => Pfx.none
  | .observation_delivery _ _ => Pfx.none
  | .watchdog _ _ _ => Pfx.none
  | .episode_create _ _ => Pfx.none
  | .episode_end _ _ _ => Pfx.none
  | .mbcfg_write _ _ _ _ => Pfx.none
  | .mbdrop_read _ _ _ => Pfx.none
  | .mbstat_read _ _ => Pfx.none
  | .launch_port_store _ _ _ _ _ => Pfx.none
  | .lpstat_read _ _ _ => Pfx.none
  | .deal => Pfx.none
  | .block_start _ => Pfx.none
  | .steal _ _ => Pfx.none
  | .grid_complete _ => Pfx.none
  | .virtual_time_charge _ => Pfx.none
  | .slice_end _ => Pfx.none
  | .gfpop _ _ _ => Pfx.none
  | .gfstat_read _ _ => Pfx.none
  | .vdcreate _ _ => Pfx.none
  | .vdreset _ _ => Pfx.none
  | .vdfree _ _ => Pfx.none
  | .grant_install _ _ _ => Pfx.none
  | .grant_revoke _ _ _ => Pfx.none
  | .migout _ _ _ _ => Pfx.none
  | .migin _ _ => Pfx.none
  | .migabort _ _ => Pfx.none
  | .migration_complete _ => Pfx.none
  | .ticket_expiry _ => Pfx.none
  | .msnap _ _ _ => Pfx.none
  | .attest _ _ => Pfx.none
  | .fwload _ _ _ _ => Pfx.none
  | .lcset _ _ _ _ => Pfx.none
  | .dbgattach _ _ _ _ => Pfx.none
  | .sbstat_read _ => Pfx.none
  | .qown_write _ _ _ => Pfx.none
  | .sown_write _ _ _ => Pfx.none
  | .mapsync _ _ _ _ => Pfx.none
  | .mapsync_done _ => Pfx.none
  | .parkgo _ _ _ => Pfx.none
  | .parkkill _ _ _ => Pfx.none
  | .mapstat_read _ _ => Pfx.none
  | .xwin_write _ _ _ _ => Pfx.none
  | .evpop _ _ _ => Pfx.none
  | .hvpop _ _ => Pfx.none
  | .event_record_release _ => Pfx.none
  | .vdstat_read _ _ => Pfx.none
  | .hvstat_read _ => Pfx.none
  | .qstat_read _ _ => Pfx.none
  | .quench_clear _ => Pfx.none
  | .row_mitigation _ _ _ _ => Pfx.none
  | .metering_tick _ => Pfx.none
  | .bellows_period _ _ _ => Pfx.none
  | .uncorrectable_error _ => Pfx.none
  | .corrected_error _ _ _ _ _ => Pfx.none
  | .line_fetch _ _ _ => Pfx.none
  | .elpop _ _ _ => Pfx.none
  | .elstat_read _ _ => Pfx.none
  | .debug_resume _ _ => Pfx.none
  | .block_freeze _ _ _ => Pfx.none
  | .host_kill _ _ => Pfx.none
  | .hbm_window_write _ _ _ => Pfx.none
  | .kwid_write _ _ => Pfx.none
  | .violation_freeze _ => Pfx.none
  | .host_module_disable _ => Pfx.none
  | .reset _ => Pfx.none
  | .bring_up_phase _ => Pfx.none
  | .register_write _ _ _ _ => Pfx.none
  | .unassigned_opcode _ _ _ _ _ => Pfx.none
  | .orphaned_prefix _ _ _ => Pfx.none
  | .episode_instruction _ _ => Pfx.none
  | .peer_copy_access _ _ _ => Pfx.none
  | .kwport_read _ _ => Pfx.none
  | .qown_read _ _ => Pfx.none
  | .sown_read _ _ => Pfx.none
  | .activation_window _ _ => Pfx.none

/-- Step 6 of R108 for IADD_32. -/
def WF.iadd_32 (p : Pfx) (w : W0) : Bool :=
  (accAlu true w).ok p && rsOk rsInt p && (ab true w)
/-- Step 6 of R108 for IADD_64. -/
def WF.iadd_64 (p : Pfx) (w : W0) (x : W1) : Bool :=
  (accAlu true w).ok p && rsOk rsInt p && (immC true 1 w x)
/-- Step 6 of R108 for IADD_96. -/
def WF.iadd_96 (p : Pfx) (w : W0) (x : W1) (_lit : Word) : Bool :=
  (accAlu true w).ok p && rsOk rsInt p && (litC true 1 w x)
/-- Step 6 of R108 for ISUB_32. -/
def WF.isub_32 (p : Pfx) (w : W0) : Bool :=
  (accAlu true w).ok p && rsOk rsInt p && (ab true w)
/-- Step 6 of R108 for ISUB_64. -/
def WF.isub_64 (p : Pfx) (w : W0) (x : W1) : Bool :=
  (accAlu true w).ok p && rsOk rsInt p && (immC true 1 w x)
/-- Step 6 of R108 for ISUB_96. -/
def WF.isub_96 (p : Pfx) (w : W0) (x : W1) (_lit : Word) : Bool :=
  (accAlu true w).ok p && rsOk rsInt p && (litC true 1 w x)
/-- Step 6 of R108 for IADDC_32. -/
def WF.iaddc_32 (p : Pfx) (w : W0) : Bool :=
  (accAlu false w).ok p && rsOk rsNone p && (ab false w)
/-- Step 6 of R108 for IADDC_64. -/
def WF.iaddc_64 (p : Pfx) (w : W0) (x : W1) : Bool :=
  (accAlu false w).ok p && rsOk rsNone p && (immC false 4 w x)
/-- Step 6 of R108 for IADDC_96. -/
def WF.iaddc_96 (p : Pfx) (w : W0) (x : W1) (_lit : Word) : Bool :=
  (accAlu false w).ok p && rsOk rsNone p && (litC false 4 w x)
/-- Step 6 of R108 for IMUL_32. -/
def WF.imul_32 (p : Pfx) (w : W0) : Bool :=
  (accAlu true w).ok p && rsOk rsInt p && (ab true w)
/-- Step 6 of R108 for IMUL_64. -/
def WF.imul_64 (p : Pfx) (w : W0) (x : W1) : Bool :=
  (accAlu true w).ok p && rsOk rsInt p && (immC true 1 w x)
/-- Step 6 of R108 for IMUL_96. -/
def WF.imul_96 (p : Pfx) (w : W0) (x : W1) (_lit : Word) : Bool :=
  (accAlu true w).ok p && rsOk rsInt p && (litC true 1 w x)
/-- Step 6 of R108 for IMULH_32. -/
def WF.imulh_32 (p : Pfx) (w : W0) : Bool :=
  (accAlu false w).ok p && rsOk rsNone p && (ab true w)
/-- Step 6 of R108 for IMULH_64. -/
def WF.imulh_64 (p : Pfx) (w : W0) (x : W1) : Bool :=
  (accAlu false w).ok p && rsOk rsNone p && (immC true 1 w x)
/-- Step 6 of R108 for IMULH_96. -/
def WF.imulh_96 (p : Pfx) (w : W0) (x : W1) (_lit : Word) : Bool :=
  (accAlu false w).ok p && rsOk rsNone p && (litC true 1 w x)
/-- Step 6 of R108 for IMAD_32. -/
def WF.imad_32 (p : Pfx) (w : W0) : Bool :=
  (accAlu false w).ok p && rsOk rsNone p && (ab true w)
/-- Step 6 of R108 for IMAD_64. -/
def WF.imad_64 (p : Pfx) (w : W0) (x : W1) : Bool :=
  (accAlu false w).ok p && rsOk rsNone p && (immReg w x)
/-- Step 6 of R108 for IMAD_96. -/
def WF.imad_96 (p : Pfx) (w : W0) (x : W1) (_lit : Word) : Bool :=
  (accAlu false w).ok p && rsOk rsNone p && (litReg w x)
/-- Step 6 of R108 for IMADW_32. -/
def WF.imadw_32 (p : Pfx) (w : W0) : Bool :=
  (accAlu false w).ok p && rsOk rsNone p && (imadw32 w)
/-- Step 6 of R108 for IMADW_64. -/
def WF.imadw_64 (p : Pfx) (w : W0) (x : W1) : Bool :=
  (accAlu false w).ok p && rsOk rsNone p && (imadw64 w x)
/-- Step 6 of R108 for IMADW_96. -/
def WF.imadw_96 (p : Pfx) (w : W0) (x : W1) (_lit : Word) : Bool :=
  (accAlu false w).ok p && rsOk rsNone p && (imadw96 w x)
/-- Step 6 of R108 for IMIN_32. -/
def WF.imin_32 (p : Pfx) (w : W0) : Bool :=
  (accAlu false w).ok p && rsOk rsNone p && (ab true w)
/-- Step 6 of R108 for IMIN_64. -/
def WF.imin_64 (p : Pfx) (w : W0) (x : W1) : Bool :=
  (accAlu false w).ok p && rsOk rsNone p && (immC true 1 w x)
/-- Step 6 of R108 for IMIN_96. -/
def WF.imin_96 (p : Pfx) (w : W0) (x : W1) (_lit : Word) : Bool :=
  (accAlu false w).ok p && rsOk rsNone p && (litC true 1 w x)
/-- Step 6 of R108 for IMAX_32. -/
def WF.imax_32 (p : Pfx) (w : W0) : Bool :=
  (accAlu false w).ok p && rsOk rsNone p && (ab true w)
/-- Step 6 of R108 for IMAX_64. -/
def WF.imax_64 (p : Pfx) (w : W0) (x : W1) : Bool :=
  (accAlu false w).ok p && rsOk rsNone p && (immC true 1 w x)
/-- Step 6 of R108 for IMAX_96. -/
def WF.imax_96 (p : Pfx) (w : W0) (x : W1) (_lit : Word) : Bool :=
  (accAlu false w).ok p && rsOk rsNone p && (litC true 1 w x)
/-- Step 6 of R108 for AND_32. -/
def WF.and_32 (p : Pfx) (w : W0) : Bool :=
  (accAlu false w).ok p && rsOk rsNone p && (ab true w)
/-- Step 6 of R108 for AND_64. -/
def WF.and_64 (p : Pfx) (w : W0) (x : W1) : Bool :=
  (accAlu false w).ok p && rsOk rsNone p && (immC true 0 w x)
/-- Step 6 of R108 for AND_96. -/
def WF.and_96 (p : Pfx) (w : W0) (x : W1) (_lit : Word) : Bool :=
  (accAlu false w).ok p && rsOk rsNone p && (litC true 0 w x)
/-- Step 6 of R108 for OR_32. -/
def WF.or_32 (p : Pfx) (w : W0) : Bool :=
  (accAlu false w).ok p && rsOk rsNone p && (ab true w)
/-- Step 6 of R108 for OR_64. -/
def WF.or_64 (p : Pfx) (w : W0) (x : W1) : Bool :=
  (accAlu false w).ok p && rsOk rsNone p && (immC true 0 w x)
/-- Step 6 of R108 for OR_96. -/
def WF.or_96 (p : Pfx) (w : W0) (x : W1) (_lit : Word) : Bool :=
  (accAlu false w).ok p && rsOk rsNone p && (litC true 0 w x)
/-- Step 6 of R108 for XOR_32. -/
def WF.xor_32 (p : Pfx) (w : W0) : Bool :=
  (accAlu false w).ok p && rsOk rsNone p && (ab true w)
/-- Step 6 of R108 for XOR_64. -/
def WF.xor_64 (p : Pfx) (w : W0) (x : W1) : Bool :=
  (accAlu false w).ok p && rsOk rsNone p && (immC true 0 w x)
/-- Step 6 of R108 for XOR_96. -/
def WF.xor_96 (p : Pfx) (w : W0) (x : W1) (_lit : Word) : Bool :=
  (accAlu false w).ok p && rsOk rsNone p && (litC true 0 w x)
/-- Step 6 of R108 for ANDN_32. -/
def WF.andn_32 (p : Pfx) (w : W0) : Bool :=
  (accAlu false w).ok p && rsOk rsNone p && (ab true w)
/-- Step 6 of R108 for ANDN_64. -/
def WF.andn_64 (p : Pfx) (w : W0) (x : W1) : Bool :=
  (accAlu false w).ok p && rsOk rsNone p && (immC true 0 w x)
/-- Step 6 of R108 for ANDN_96. -/
def WF.andn_96 (p : Pfx) (w : W0) (x : W1) (_lit : Word) : Bool :=
  (accAlu false w).ok p && rsOk rsNone p && (litC true 0 w x)
/-- Step 6 of R108 for BOOL3_64. -/
def WF.bool3_64 (p : Pfx) (w : W0) (x : W1) : Bool :=
  (accAlu false w).ok p && rsOk rsNone p && (modReg true 8 w x)
/-- Step 6 of R108 for BOOL3_96. -/
def WF.bool3_96 (p : Pfx) (w : W0) (x : W1) (_lit : Word) : Bool :=
  (accAlu false w).ok p && rsOk rsNone p && (litMod true 8 w x)
/-- Step 6 of R108 for SHL_32. -/
def WF.shl_32 (p : Pfx) (w : W0) : Bool :=
  (accAlu false w).ok p && rsOk rsNone p && (ab true w)
/-- Step 6 of R108 for SHL_64. -/
def WF.shl_64 (p : Pfx) (w : W0) (x : W1) : Bool :=
  (accAlu false w).ok p && rsOk rsNone p && (immC true 0 w x)
/-- Step 6 of R108 for SHL_96. -/
def WF.shl_96 (p : Pfx) (w : W0) (x : W1) (_lit : Word) : Bool :=
  (accAlu false w).ok p && rsOk rsNone p && (litC true 0 w x)
/-- Step 6 of R108 for SHR_32. -/
def WF.shr_32 (p : Pfx) (w : W0) : Bool :=
  (accAlu false w).ok p && rsOk rsNone p && (ab true w)
/-- Step 6 of R108 for SHR_64. -/
def WF.shr_64 (p : Pfx) (w : W0) (x : W1) : Bool :=
  (accAlu false w).ok p && rsOk rsNone p && (immC true 0 w x)
/-- Step 6 of R108 for SHR_96. -/
def WF.shr_96 (p : Pfx) (w : W0) (x : W1) (_lit : Word) : Bool :=
  (accAlu false w).ok p && rsOk rsNone p && (litC true 0 w x)
/-- Step 6 of R108 for SAR_32. -/
def WF.sar_32 (p : Pfx) (w : W0) : Bool :=
  (accAlu false w).ok p && rsOk rsNone p && (ab true w)
/-- Step 6 of R108 for SAR_64. -/
def WF.sar_64 (p : Pfx) (w : W0) (x : W1) : Bool :=
  (accAlu false w).ok p && rsOk rsNone p && (immC true 0 w x)
/-- Step 6 of R108 for SAR_96. -/
def WF.sar_96 (p : Pfx) (w : W0) (x : W1) (_lit : Word) : Bool :=
  (accAlu false w).ok p && rsOk rsNone p && (litC true 0 w x)
/-- Step 6 of R108 for ROT_32. -/
def WF.rot_32 (p : Pfx) (w : W0) : Bool :=
  (accAlu false w).ok p && rsOk rsNone p && (ab true w)
/-- Step 6 of R108 for ROT_64. -/
def WF.rot_64 (p : Pfx) (w : W0) (x : W1) : Bool :=
  (accAlu false w).ok p && rsOk rsNone p && (immC true 0 w x)
/-- Step 6 of R108 for ROT_96. -/
def WF.rot_96 (p : Pfx) (w : W0) (x : W1) (_lit : Word) : Bool :=
  (accAlu false w).ok p && rsOk rsNone p && (litC true 0 w x)
/-- Step 6 of R108 for SHF_32. -/
def WF.shf_32 (p : Pfx) (w : W0) : Bool :=
  (accAlu false w).ok p && rsOk rsNone p && (ab true w)
/-- Step 6 of R108 for SHF_64. -/
def WF.shf_64 (p : Pfx) (w : W0) (x : W1) : Bool :=
  (accAlu false w).ok p && rsOk rsNone p && (modReg true 1 w x)
/-- Step 6 of R108 for SHF_96. -/
def WF.shf_96 (p : Pfx) (w : W0) (x : W1) (_lit : Word) : Bool :=
  (accAlu false w).ok p && rsOk rsNone p && (litMod true 1 w x)
/-- Step 6 of R108 for BFX_32. -/
def WF.bfx_32 (p : Pfx) (w : W0) : Bool :=
  (accAlu false w).ok p && rsOk rsNone p && (ab true w)
/-- Step 6 of R108 for BFX_64. -/
def WF.bfx_64 (p : Pfx) (w : W0) (x : W1) : Bool :=
  (accAlu false w).ok p && rsOk rsNone p && (immC true 1 w x)
/-- Step 6 of R108 for BFX_96. -/
def WF.bfx_96 (p : Pfx) (w : W0) (x : W1) (_lit : Word) : Bool :=
  (accAlu false w).ok p && rsOk rsNone p && (litC true 1 w x)
/-- Step 6 of R108 for BFI_32. -/
def WF.bfi_32 (p : Pfx) (w : W0) : Bool :=
  (accAlu false w).ok p && rsOk rsNone p && (ab true w)
/-- Step 6 of R108 for BFI_64. -/
def WF.bfi_64 (p : Pfx) (w : W0) (x : W1) : Bool :=
  (accAlu false w).ok p && rsOk rsNone p && (immReg w x)
/-- Step 6 of R108 for BFI_96. -/
def WF.bfi_96 (p : Pfx) (w : W0) (x : W1) (_lit : Word) : Bool :=
  (accAlu false w).ok p && rsOk rsNone p && (litReg w x)
/-- Step 6 of R108 for PRMT_32. -/
def WF.prmt_32 (p : Pfx) (w : W0) : Bool :=
  (accAlu false w).ok p && rsOk rsNone p && (ab true w)
/-- Step 6 of R108 for PRMT_64. -/
def WF.prmt_64 (p : Pfx) (w : W0) (x : W1) : Bool :=
  (accAlu false w).ok p && rsOk rsNone p && (immReg w x)
/-- Step 6 of R108 for PRMT_96. -/
def WF.prmt_96 (p : Pfx) (w : W0) (x : W1) (_lit : Word) : Bool :=
  (accAlu false w).ok p && rsOk rsNone p && (litReg w x)
/-- Step 6 of R108 for ICMP_32. -/
def WF.icmp_32 (p : Pfx) (w : W0) : Bool :=
  accK.ok p && rsOk rsNone p && (cmp32 w)
/-- Step 6 of R108 for ICMP_64. -/
def WF.icmp_64 (p : Pfx) (w : W0) (x : W1) : Bool :=
  accK.ok p && rsOk rsNone p && (cmp64 1 w x && icmpCC w x)
/-- Step 6 of R108 for ICMP_96. -/
def WF.icmp_96 (p : Pfx) (w : W0) (x : W1) (_lit : Word) : Bool :=
  accK.ok p && rsOk rsNone p && (cmp96 1 w x && icmpCC w x)
/-- Step 6 of R108 for ISEL_32. -/
def WF.isel_32 (p : Pfx) (w : W0) : Bool :=
  (accAlu false w).ok p && rsOk rsNone p && (ab true w)
/-- Step 6 of R108 for ISEL_64. -/
def WF.isel_64 (p : Pfx) (w : W0) (x : W1) : Bool :=
  (accAlu false w).ok p && rsOk rsNone p && (immC true 4 w x)
/-- Step 6 of R108 for ISEL_96. -/
def WF.isel_96 (p : Pfx) (w : W0) (x : W1) (_lit : Word) : Bool :=
  (accAlu false w).ok p && rsOk rsNone p && (litC true 4 w x)
/-- Step 6 of R108 for LEA_32. -/
def WF.lea_32 (p : Pfx) (w : W0) : Bool :=
  (accAlu false w).ok p && rsOk rsNone p && (lea32 w)
/-- Step 6 of R108 for LEA_64. -/
def WF.lea_64 (p : Pfx) (w : W0) (x : W1) : Bool :=
  (accAlu false w).ok p && rsOk rsNone p && (lea64 w x)
/-- Step 6 of R108 for LEA_96. -/
def WF.lea_96 (p : Pfx) (w : W0) (x : W1) (_lit : Word) : Bool :=
  (accAlu false w).ok p && rsOk rsNone p && (lea96 w x)
/-- Step 6 of R108 for FADD_32. -/
def WF.fadd_32 (p : Pfx) (w : W0) : Bool :=
  (accAlu true w).ok p && rsOk rsFp p && (ab true w)
/-- Step 6 of R108 for FADD_64. -/
def WF.fadd_64 (p : Pfx) (w : W0) (x : W1) : Bool :=
  (accAlu true w).ok p && rsOk rsFp p && (immC true 0 w x)
/-- Step 6 of R108 for FADD_96. -/
def WF.fadd_96 (p : Pfx) (w : W0) (x : W1) (_lit : Word) : Bool :=
  (accAlu true w).ok p && rsOk rsFp p && (litC true 0 w x)
/-- Step 6 of R108 for FMUL_32. -/
def WF.fmul_32 (p : Pfx) (w : W0) : Bool :=
  (accAlu true w).ok p && rsOk rsFp p && (ab true w)
/-- Step 6 of R108 for FMUL_64. -/
def WF.fmul_64 (p : Pfx) (w : W0) (x : W1) : Bool :=
  (accAlu true w).ok p && rsOk rsFp p && (immC true 0 w x)
/-- Step 6 of R108 for FMUL_96. -/
def WF.fmul_96 (p : Pfx) (w : W0) (x : W1) (_lit : Word) : Bool :=
  (accAlu true w).ok p && rsOk rsFp p && (litC true 0 w x)
/-- Step 6 of R108 for FFMA_32. -/
def WF.ffma_32 (p : Pfx) (w : W0) : Bool :=
  (accAlu true w).ok p && rsOk rsFp p && (ab true w)
/-- Step 6 of R108 for FFMA_64. -/
def WF.ffma_64 (p : Pfx) (w : W0) (x : W1) : Bool :=
  (accAlu true w).ok p && rsOk rsFp p && (immReg w x)
/-- Step 6 of R108 for FFMA_96. -/
def WF.ffma_96 (p : Pfx) (w : W0) (x : W1) (_lit : Word) : Bool :=
  (accAlu true w).ok p && rsOk rsFp p && (litReg w x)
/-- Step 6 of R108 for FMIN_32. -/
def WF.fmin_32 (p : Pfx) (w : W0) : Bool :=
  (accAlu true w).ok p && rsOk rsFtz p && (ab true w)
/-- Step 6 of R108 for FMIN_64. -/
def WF.fmin_64 (p : Pfx) (w : W0) (x : W1) : Bool :=
  (accAlu true w).ok p && rsOk rsFtz p && (immC true 0 w x)
/-- Step 6 of R108 for FMIN_96. -/
def WF.fmin_96 (p : Pfx) (w : W0) (x : W1) (_lit : Word) : Bool :=
  (accAlu true w).ok p && rsOk rsFtz p && (litC true 0 w x)
/-- Step 6 of R108 for FMAX_32. -/
def WF.fmax_32 (p : Pfx) (w : W0) : Bool :=
  (accAlu true w).ok p && rsOk rsFtz p && (ab true w)
/-- Step 6 of R108 for FMAX_64. -/
def WF.fmax_64 (p : Pfx) (w : W0) (x : W1) : Bool :=
  (accAlu true w).ok p && rsOk rsFtz p && (immC true 0 w x)
/-- Step 6 of R108 for FMAX_96. -/
def WF.fmax_96 (p : Pfx) (w : W0) (x : W1) (_lit : Word) : Bool :=
  (accAlu true w).ok p && rsOk rsFtz p && (litC true 0 w x)
/-- Step 6 of R108 for FCMP_32. -/
def WF.fcmp_32 (p : Pfx) (w : W0) : Bool :=
  accRSK.ok p && rsOk rsFtz p && (cmp32 w)
/-- Step 6 of R108 for FCMP_64. -/
def WF.fcmp_64 (p : Pfx) (w : W0) (x : W1) : Bool :=
  accRSK.ok p && rsOk rsFtz p && (cmp64 0 w x)
/-- Step 6 of R108 for FCMP_96. -/
def WF.fcmp_96 (p : Pfx) (w : W0) (x : W1) (_lit : Word) : Bool :=
  accRSK.ok p && rsOk rsFtz p && (cmp96 0 w x)
/-- Step 6 of R108 for HADD2_32. -/
def WF.hadd2_32 (p : Pfx) (w : W0) : Bool :=
  (accAlu true w).ok p && rsOk rsFp p && (ab true w)
/-- Step 6 of R108 for HADD2_64. -/
def WF.hadd2_64 (p : Pfx) (w : W0) (x : W1) : Bool :=
  (accAlu true w).ok p && rsOk rsFp p && (immC true 1 w x)
/-- Step 6 of R108 for HADD2_96. -/
def WF.hadd2_96 (p : Pfx) (w : W0) (x : W1) (_lit : Word) : Bool :=
  (accAlu true w).ok p && rsOk rsFp p && (litC true 1 w x)
/-- Step 6 of R108 for HMUL2_32. -/
def WF.hmul2_32 (p : Pfx) (w : W0) : Bool :=
  (accAlu true w).ok p && rsOk rsFp p && (ab true w)
/-- Step 6 of R108 for HMUL2_64. -/
def WF.hmul2_64 (p : Pfx) (w : W0) (x : W1) : Bool :=
  (accAlu true w).ok p && rsOk rsFp p && (immC true 1 w x)
/-- Step 6 of R108 for HMUL2_96. -/
def WF.hmul2_96 (p : Pfx) (w : W0) (x : W1) (_lit : Word) : Bool :=
  (accAlu true w).ok p && rsOk rsFp p && (litC true 1 w x)
/-- Step 6 of R108 for HFMA2_32. -/
def WF.hfma2_32 (p : Pfx) (w : W0) : Bool :=
  (accAlu true w).ok p && rsOk rsFp p && (ab true w)
/-- Step 6 of R108 for HFMA2_64. -/
def WF.hfma2_64 (p : Pfx) (w : W0) (x : W1) : Bool :=
  (accAlu true w).ok p && rsOk rsFp p && (modReg true 1 w x)
/-- Step 6 of R108 for HFMA2_96. -/
def WF.hfma2_96 (p : Pfx) (w : W0) (x : W1) (_lit : Word) : Bool :=
  (accAlu true w).ok p && rsOk rsFp p && (litMod true 1 w x)
/-- Step 6 of R108 for HMIN2_32. -/
def WF.hmin2_32 (p : Pfx) (w : W0) : Bool :=
  (accAlu true w).ok p && rsOk rsFtz p && (ab true w)
/-- Step 6 of R108 for HMIN2_64. -/
def WF.hmin2_64 (p : Pfx) (w : W0) (x : W1) : Bool :=
  (accAlu true w).ok p && rsOk rsFtz p && (immC true 1 w x)
/-- Step 6 of R108 for HMIN2_96. -/
def WF.hmin2_96 (p : Pfx) (w : W0) (x : W1) (_lit : Word) : Bool :=
  (accAlu true w).ok p && rsOk rsFtz p && (litC true 1 w x)
/-- Step 6 of R108 for HMAX2_32. -/
def WF.hmax2_32 (p : Pfx) (w : W0) : Bool :=
  (accAlu true w).ok p && rsOk rsFtz p && (ab true w)
/-- Step 6 of R108 for HMAX2_64. -/
def WF.hmax2_64 (p : Pfx) (w : W0) (x : W1) : Bool :=
  (accAlu true w).ok p && rsOk rsFtz p && (immC true 1 w x)
/-- Step 6 of R108 for HMAX2_96. -/
def WF.hmax2_96 (p : Pfx) (w : W0) (x : W1) (_lit : Word) : Bool :=
  (accAlu true w).ok p && rsOk rsFtz p && (litC true 1 w x)
/-- Step 6 of R108 for HCMP2_32. -/
def WF.hcmp2_32 (p : Pfx) (w : W0) : Bool :=
  (accAlu true w).ok p && rsOk rsFtz p && (ab true w)
/-- Step 6 of R108 for HCMP2_64. -/
def WF.hcmp2_64 (p : Pfx) (w : W0) (x : W1) : Bool :=
  (accAlu true w).ok p && rsOk rsFtz p && (immC true 4 w x)
/-- Step 6 of R108 for HCMP2_96. -/
def WF.hcmp2_96 (p : Pfx) (w : W0) (x : W1) (_lit : Word) : Bool :=
  (accAlu true w).ok p && rsOk rsFtz p && (litC true 4 w x)
/-- Step 6 of R108 for CVT_32. -/
def WF.cvt_32 (p : Pfx) (w : W0) : Bool :=
  (accAlu true w).ok p && rsOk (rsCvt (bitsN w.b.toNat 3 3)) p && (aOnly true w)
/-- Step 6 of R108 for CVT_64. -/
def WF.cvt_64 (p : Pfx) (w : W0) (x : W1) : Bool :=
  (accAlu true w).ok p && rsOk (rsCvt (bitsN x.hi.toNat 4 4)) p && (a64 true w x && w.b == 0#6 && hiBelow x 256 && bitsN x.hi.toNat 4 4 != 14)
/-- Step 6 of R108 for CVTP_32. -/
def WF.cvtp_32 (p : Pfx) (w : W0) : Bool :=
  (accAlu true w).ok p && rsOk rsFp p && (ab true w)
/-- Step 6 of R108 for CVTP_64. -/
def WF.cvtp_64 (p : Pfx) (w : W0) (x : W1) : Bool :=
  (accAlu true w).ok p && rsOk rsFp p && (src w.a && src w.b && dst w.d && x.c == w.d && hiBelow x 32 && cvtpJ (bitsN x.hi.toNat 0 3) (bitsN x.hi.toNat 3 2) && role w x true true true && uni true w (x.role == 0#2) [w.a, w.b])
/-- Step 6 of R108 for CVTU_32. -/
def WF.cvtu_32 (p : Pfx) (w : W0) : Bool :=
  (accAlu true w).ok p && rsOk rsFtz p && (aOnly true w && cvtuJ (bitsN w.b.toNat 3 3) (bitsN w.b.toNat 0 3))
/-- Step 6 of R108 for CVTU_64. -/
def WF.cvtu_64 (p : Pfx) (w : W0) (x : W1) : Bool :=
  (accAlu true w).ok p && rsOk rsFtz p && (a64 true w x && x.hi == 0#16 && cvtuJ (bitsN w.b.toNat 3 3) (bitsN w.b.toNat 0 3))
/-- Step 6 of R108 for SCL_32. -/
def WF.scl_32 (p : Pfx) (w : W0) : Bool :=
  (accAlu true w).ok p && rsOk rsFp p && (ab true w)
/-- Step 6 of R108 for SCL_64. -/
def WF.scl_64 (p : Pfx) (w : W0) (x : W1) : Bool :=
  (accAlu true w).ok p && rsOk rsFp p && (src w.a && src w.b && dst w.d && x.c == 0#6 && hiBelow x 12 && role w x true true true && uni true w (x.role == 0#2) [w.a, w.b])
/-- Step 6 of R108 for DOT2_32. -/
def WF.dot2_32 (p : Pfx) (w : W0) : Bool :=
  accRSK.ok p && rsOk rsFp p && (ab false w)
/-- Step 6 of R108 for DOT2_64. -/
def WF.dot2_64 (p : Pfx) (w : W0) (x : W1) : Bool :=
  accRSK.ok p && rsOk (rsDot (decide (bitsN x.hi.toNat 0 3 ≤ 1))) p && (modReg false 6 w x && dotT dot2T x)
/-- Step 6 of R108 for DOT4_32. -/
def WF.dot4_32 (p : Pfx) (w : W0) : Bool :=
  accRSK.ok p && rsOk rsFp p && (ab false w)
/-- Step 6 of R108 for DOT4_64. -/
def WF.dot4_64 (p : Pfx) (w : W0) (x : W1) : Bool :=
  accRSK.ok p && rsOk (rsDot (decide (bitsN x.hi.toNat 0 3 ≤ 3))) p && (modReg false 6 w x && dotT dot4T x)
/-- Step 6 of R108 for DOT8_32. -/
def WF.dot8_32 (p : Pfx) (w : W0) : Bool :=
  accRSK.ok p && rsOk rsFp p && (ab false w)
/-- Step 6 of R108 for DOT8_64. -/
def WF.dot8_64 (p : Pfx) (w : W0) (x : W1) : Bool :=
  accRSK.ok p && rsOk (rsDot ((bitsN x.hi.toNat 0 3 == 0))) p && (modReg false 6 w x && dotT dot8T x)
/-- Step 6 of R108 for MOVO. -/
def WF.movo (p : Pfx) (w : W0) (x : W1) : Bool :=
  accK.ok p && rsOk rsNone p && (w.a == 0#6 && w.b == 0#6 && !w.luB && x.role == 1#2 && x.hi == 0#16 && x.c == 0#6 && isO w.d)
/-- Step 6 of R108 for MOVM. -/
def WF.movm (p : Pfx) (w : W0) (x : W1) : Bool :=
  accK.ok p && rsOk rsNone p && (src w.a && w.d == 0#6 && w.b == 0#6 && !w.luB && x.role == 3#2 && x.hi == 0#16 && x.c == 0#6)
/-- Step 6 of R108 for MOVU_32. -/
def WF.movu_32 (p : Pfx) (w : W0) : Bool :=
  (accAlu false w).ok p && rsOk rsNone p && (isU w.a && w.b == 0#6 && !w.luB && dst w.d)
/-- Step 6 of R108 for MOVU_64. -/
def WF.movu_64 (p : Pfx) (w : W0) (x : W1) : Bool :=
  accK.ok p && rsOk rsNone p && (isU w.a && w.b == 0#6 && !w.luB && w.d == 0#6 && x.role == 3#2 && x.hi == 0#16 && x.c == 0#6)
/-- Step 6 of R108 for MOVK_TO_MASK. -/
def WF.movk_to_mask (p : Pfx) (w : W0) : Bool :=
  accK.ok p && rsOk rsNone p && (src w.a && w.b == 0#6 && !w.luB && w.d.toNat < 8)
/-- Step 6 of R108 for MOVK_FROM_MASK. -/
def WF.movk_from_mask (p : Pfx) (w : W0) : Bool :=
  (accAlu false w).ok p && rsOk rsNone p && (w.a.toNat < 8 && w.b == 1#6 && noLu w && dst w.d)
/-- Step 6 of R108 for LDI_64. -/
def WF.ldi_64 (p : Pfx) (w : W0) (x : W1) : Bool :=
  (accAlu false w).ok p && rsOk rsNone p && (w.a == 0#6 && w.b == 20#6 && noLu w && x.c.toNat < 2 && role w x false false true && dst w.d && (x.role == 0#2 || !isU w.d))
/-- Step 6 of R108 for LDI_96. -/
def WF.ldi_96 (p : Pfx) (w : W0) (x : W1) (_lit : Word) : Bool :=
  (accAlu false w).ok p && rsOk rsNone p && (w.a == 0#6 && w.b == 20#6 && noLu w && x.c == 0#6 && x.hi == 0#16 && role w x false false true && dst w.d)
/-- Step 6 of R108 for BRA_64. -/
def WF.bra_64 (p : Pfx) (w : W0) (x : W1) : Bool :=
  accK.ok p && rsOk rsNone p && (braD w (w.a == 0#6 && w.b == 0#6) && plain1 x)
/-- Step 6 of R108 for BRA_96. -/
def WF.bra_96 (p : Pfx) (w : W0) (x : W1) (_lit : Word) : Bool :=
  accK.ok p && rsOk rsNone p && (braD w (x.hi == 0#16) && w.a == 0#6 && w.b == 0#6 && plain1 x)
/-- Step 6 of R108 for BRX. -/
def WF.brx (p : Pfx) (w : W0) (x : W1) : Bool :=
  accK.ok p && rsOk rsNone p && (brxW w x)
/-- Step 6 of R108 for PAD. -/
def WF.pad (p : Pfx) (w : W0) : Bool :=
  acc0.ok p && rsOk rsNone p && (noRes w && noLu w && w.b == 0#6 && w.d == 0#6)
/-- Step 6 of R108 for CALL_64. -/
def WF.call_64 (p : Pfx) (w : W0) (x : W1) : Bool :=
  accK.ok p && rsOk rsNone p && (zero0 w && plain1 x)
/-- Step 6 of R108 for CALL_96. -/
def WF.call_96 (p : Pfx) (w : W0) (x : W1) (_lit : Word) : Bool :=
  accK.ok p && rsOk rsNone p && (zero0 w && plain1 x && x.hi == 0#16)
/-- Step 6 of R108 for CALLX. -/
def WF.callx (p : Pfx) (w : W0) (x : W1) : Bool :=
  accK.ok p && rsOk rsNone p && (brxW w x && x.hi == 0#16)
/-- Step 6 of R108 for RET. -/
def WF.ret (p : Pfx) (w : W0) : Bool :=
  accK.ok p && rsOk rsNone p && (zero0 w)
/-- Step 6 of R108 for EXIT. -/
def WF.exit (p : Pfx) (w : W0) : Bool :=
  accK.ok p && rsOk rsNone p && (zero0 w)
/-- Step 6 of R108 for CUE_64. -/
def WF.cue_64 (p : Pfx) (w : W0) (x : W1) : Bool :=
  acc0.ok p && rsOk rsNone p && (noRes w && noLu w && w.d == 0#6 && plain1 x)
/-- Step 6 of R108 for CUE_96. -/
def WF.cue_96 (p : Pfx) (w : W0) (x : W1) (_lit : Word) : Bool :=
  acc0.ok p && rsOk rsNone p && (noRes w && noLu w && w.d == 0#6 && plain1 x)
/-- Step 6 of R108 for TRAP_32. -/
def WF.trap_32 (p : Pfx) (w : W0) : Bool :=
  accK.ok p && rsOk rsNone p && (noRes w && noLu w && w.d == 0#6)
/-- Step 6 of R108 for TRAP_64. -/
def WF.trap_64 (p : Pfx) (w : W0) (x : W1) : Bool :=
  accK.ok p && rsOk rsNone p && (zero0 w && plain1 x)
/-- Step 6 of R108 for CENSUS_32. -/
def WF.census_32 (p : Pfx) (w : W0) : Bool :=
  accKZ.ok p && rsOk rsNone p && (src w.a && w.b == 0#6 && !w.luB && bitsN w.d.toNat 3 3 ≤ 4)
/-- Step 6 of R108 for CENSUS_64. -/
def WF.census_64 (p : Pfx) (w : W0) (x : W1) : Bool :=
  accKZ.ok p && rsOk rsNone p && (src w.a && w.b == 0#6 && !w.luB && bitsN w.d.toNat 3 3 ≤ 4 && x.c == 0#6 && hiBelow x 2 && role w x true false false)
/-- Step 6 of R108 for PICK_32. -/
def WF.pick_32 (p : Pfx) (w : W0) : Bool :=
  accKZ.ok p && rsOk rsNone p && (src w.a && src w.b && laneDst w.d)
/-- Step 6 of R108 for PICK_64. -/
def WF.pick_64 (p : Pfx) (w : W0) (x : W1) : Bool :=
  accKZ.ok p && rsOk rsNone p && (src w.a && b93 w x && laneDst w.d && role w x true false true && x.c.toNat < 32 && bitsN x.c.toNat 2 3 ≤ 4)
/-- Step 6 of R108 for PEERS_32. -/
def WF.peers_32 (p : Pfx) (w : W0) : Bool :=
  accKZ.ok p && rsOk rsNone p && (x32 w && w.b.toNat ≤ 2)
/-- Step 6 of R108 for PEERS_64. -/
def WF.peers_64 (p : Pfx) (w : W0) (x : W1) : Bool :=
  accKZ.ok p && rsOk rsNone p && (x64 w x && w.b.toNat ≤ 2 && hiBelow x 2 && (x.hi == 0#16 || (x.role == 0#2 && (evenO w.a || evenU w.a || w.a == 20#6) && even w.d)))
/-- Step 6 of R108 for QX_32. -/
def WF.qx_32 (p : Pfx) (w : W0) : Bool :=
  accKZ.ok p && rsOk rsNone p && (x32 w && w.b.toNat ≤ 2)
/-- Step 6 of R108 for QX_64. -/
def WF.qx_64 (p : Pfx) (w : W0) (x : W1) : Bool :=
  accKZ.ok p && rsOk rsNone p && (x64 w x && w.b.toNat ≤ 2 && x.hi == 0#16)
/-- Step 6 of R108 for RED_32. -/
def WF.red_32 (p : Pfx) (w : W0) : Bool :=
  accRSKZ.ok p && rsOk (rsRed w) p && (x32 w && redB w)
/-- Step 6 of R108 for RED_64. -/
def WF.red_64 (p : Pfx) (w : W0) (x : W1) : Bool :=
  accRSKZ.ok p && rsOk (rsRed w) p && (x64 w x && redB w && hiBelow x 2)
/-- Step 6 of R108 for SCAN_32. -/
def WF.scan_32 (p : Pfx) (w : W0) : Bool :=
  accRSKZ.ok p && rsOk (rsRed w) p && (x32 w && redB w)
/-- Step 6 of R108 for SCAN_64. -/
def WF.scan_64 (p : Pfx) (w : W0) (x : W1) : Bool :=
  accRSKZ.ok p && rsOk (rsRed w) p && (x64 w x && redB w && hiBelow x 4)
/-- Step 6 of R108 for DRAW. -/
def WF.draw (p : Pfx) (w : W0) (x : W1) : Bool :=
  accKZ.ok p && rsOk rsNone p && (src w.a && src w.b && evenO w.d && keyQuad x.c && noRole x && hiBelow x 128 && drawT x)
/-- Step 6 of R108 for DRAWM. -/
def WF.drawm (p : Pfx) (w : W0) (x : W1) : Bool :=
  accKZ.ok p && rsOk rsNone p && (evenO w.a && w.b == 0#6 && !w.luB && evenO w.d && keyQuad x.c && noRole x && hiBelow x 4)
/-- Step 6 of R108 for SREG_READ. -/
def WF.sreg_read (p : Pfx) (w : W0) : Bool :=
  (accAlu false w).ok p && rsOk rsNone p && (noLu w && w.b == 20#6 && w.a.toNat ≤ 20 && dst w.d && (!sel64 w.a.toNat || even w.d) && (!selLane w.a.toNat || !isU w.d))
/-- Step 6 of R108 for SREG_WRITE. -/
def WF.sreg_write (p : Pfx) (w : W0) : Bool :=
  accK.ok p && rsOk rsNone p && (noRes w && !w.luA && w.a == 18#6 && w.d == 20#6 && isU w.b)
/-- Step 6 of R108 for LRAISE_32. -/
def WF.lraise_32 (p : Pfx) (w : W0) : Bool :=
  (accAlu false w).ok p && rsOk rsNone p && (ab true w)
/-- Step 6 of R108 for LRAISE_64. -/
def WF.lraise_64 (p : Pfx) (w : W0) (x : W1) : Bool :=
  (accAlu false w).ok p && rsOk rsNone p && (src w.a && b93 w x && dst w.d && x.c == 0#6 && role w x true false true && uni true w (x.role == 0#2) (if isImm w x then [w.a] else [w.a, w.b]))
/-- Step 6 of R108 for LCHK_32. -/
def WF.lchk_32 (p : Pfx) (w : W0) : Bool :=
  accK.ok p && rsOk rsNone p && (noRes w && src w.a && src w.b && w.d == 0#6)
/-- Step 6 of R108 for LCHK_K_32. -/
def WF.lchk_k_32 (p : Pfx) (w : W0) : Bool :=
  accK.ok p && rsOk rsNone p && (src w.a && src w.b && bitsN w.d.toNat 3 3 == 1)
/-- Step 6 of R108 for LCHK_64. -/
def WF.lchk_64 (p : Pfx) (w : W0) (x : W1) : Bool :=
  accK.ok p && rsOk rsNone p && (noRes w && src w.a && b93 w x && x.c == 0#6 && role w x true false false && w.d == 0#6)
/-- Step 6 of R108 for LCHK_K_64. -/
def WF.lchk_k_64 (p : Pfx) (w : W0) (x : W1) : Bool :=
  accK.ok p && rsOk rsNone p && (src w.a && b93 w x && x.c == 0#6 && role w x true false false && bitsN w.d.toNat 3 3 == 1)
/-- Step 6 of R108 for DCL_REG. -/
def WF.dcl_reg (p : Pfx) (w : W0) (x : W1) : Bool :=
  (accAlu false w).ok p && rsOk rsNone p && (a64 true w x && w.b == 0#6 && hiBelow x 64)
/-- Step 6 of R108 for DCL_G. -/
def WF.dcl_g (p : Pfx) (w : W0) (x : W1) : Bool :=
  accK.ok p && rsOk rsNone p && (noRes w && apair w.a && w.b == 0#6 && !w.luB && w.d == 20#6 && plain1 x && bitsN x.hi.toNat 6 10 == 1)
/-- Step 6 of R108 for DCL_SP. -/
def WF.dcl_sp (p : Pfx) (w : W0) (x : W1) : Bool :=
  accK.ok p && rsOk rsNone p && (noRes w && src w.a && w.b == 0#6 && !w.luB && w.d == 20#6 && plain1 x && bitsN x.hi.toNat 6 10 == 2)
/-- Step 6 of R108 for LD_32. -/
def WF.ld_32 (p : Pfx) (w : W0) : Bool :=
  (accAlu false w).ok p && rsOk rsNone p && (ld32 true w)
/-- Step 6 of R108 for LD_64. -/
def WF.ld_64 (p : Pfx) (w : W0) (x : W1) : Bool :=
  (accAlu false w).ok p && rsOk rsNone p && (ld64 true w x)
/-- Step 6 of R108 for LD_96. -/
def WF.ld_96 (p : Pfx) (w : W0) (x : W1) (_lit : Word) : Bool :=
  (accAlu false w).ok p && rsOk rsNone p && (ld96 true w x)
/-- Step 6 of R108 for ST_32. -/
def WF.st_32 (p : Pfx) (w : W0) : Bool :=
  accK.ok p && rsOk rsNone p && (st32 true w)
/-- Step 6 of R108 for ST_64. -/
def WF.st_64 (p : Pfx) (w : W0) (x : W1) : Bool :=
  accK.ok p && rsOk rsNone p && (st64 true w x)
/-- Step 6 of R108 for ST_96. -/
def WF.st_96 (p : Pfx) (w : W0) (x : W1) (_lit : Word) : Bool :=
  accK.ok p && rsOk rsNone p && (st96 true w x)
/-- Step 6 of R108 for LDS_32. -/
def WF.lds_32 (p : Pfx) (w : W0) : Bool :=
  (accAlu false w).ok p && rsOk rsNone p && (ld32 false w)
/-- Step 6 of R108 for LDS_64. -/
def WF.lds_64 (p : Pfx) (w : W0) (x : W1) : Bool :=
  (accAlu false w).ok p && rsOk rsNone p && (ld64 false w x)
/-- Step 6 of R108 for LDS_96. -/
def WF.lds_96 (p : Pfx) (w : W0) (x : W1) (_lit : Word) : Bool :=
  (accAlu false w).ok p && rsOk rsNone p && (ld96 false w x)
/-- Step 6 of R108 for STS_32. -/
def WF.sts_32 (p : Pfx) (w : W0) : Bool :=
  accK.ok p && rsOk rsNone p && (st32 false w)
/-- Step 6 of R108 for STS_64. -/
def WF.sts_64 (p : Pfx) (w : W0) (x : W1) : Bool :=
  accK.ok p && rsOk rsNone p && (st64 false w x)
/-- Step 6 of R108 for STS_96. -/
def WF.sts_96 (p : Pfx) (w : W0) (x : W1) (_lit : Word) : Bool :=
  accK.ok p && rsOk rsNone p && (st96 false w x)
/-- Step 6 of R108 for LDF_32. -/
def WF.ldf_32 (p : Pfx) (w : W0) : Bool :=
  accK.ok p && rsOk rsNone p && (lsrc w.a && !w.luB && laneDst w.d && w.b.toNat < 8)
/-- Step 6 of R108 for LDF_64. -/
def WF.ldf_64 (p : Pfx) (w : W0) (x : W1) : Bool :=
  accK.ok p && rsOk rsNone p && (lsrc w.a && !w.luB && laneDst w.d && w.b.toNat < 8 && x.c == 0#6 && bitsN x.hi.toNat 0 4 == 0 && role w x true false true)
/-- Step 6 of R108 for STE_32. -/
def WF.ste_32 (p : Pfx) (w : W0) : Bool :=
  accK.ok p && rsOk rsNone p && (noRes w && lsrc w.a && src w.b && w.d.toNat < 8)
/-- Step 6 of R108 for STE_64. -/
def WF.ste_64 (p : Pfx) (w : W0) (x : W1) : Bool :=
  accK.ok p && rsOk rsNone p && (noRes w && lsrc w.a && src w.b && w.d.toNat < 8 && x.c == 0#6 && bitsN x.hi.toNat 0 4 == 0 && role w x true true false)
/-- Step 6 of R108 for LDX_64. -/
def WF.ldx_64 (p : Pfx) (w : W0) (x : W1) : Bool :=
  accK.ok p && rsOk rsNone p && (ldx64 (!bitN w.b.toNat 4) w x && !bitN w.b.toNat 5 && !isU w.d && !bitN x.hi.toNat 3)
/-- Step 6 of R108 for LDX_96. -/
def WF.ldx_96 (p : Pfx) (w : W0) (x : W1) (_lit : Word) : Bool :=
  accK.ok p && rsOk rsNone p && (ldx64 (!bitN w.b.toNat 4) w x && !bitN w.b.toNat 5 && !isU w.d && hiBelow x 8)
/-- Step 6 of R108 for WAITC. -/
def WF.waitc (p : Pfx) (w : W0) (x : W1) : Bool :=
  accK.ok p && rsOk rsNone p && (noRes w && noLu w && w.d == 0#6 && w.b == 0#6 && w.a.toNat < 16 && plain1 x)
/-- Step 6 of R108 for ATOM. -/
def WF.atom (p : Pfx) (w : W0) (x : W1) : Bool :=
  accK.ok p && rsOk rsNone p && (atomW true false w x)
/-- Step 6 of R108 for ATOMS. -/
def WF.atoms (p : Pfx) (w : W0) (x : W1) : Bool :=
  accK.ok p && rsOk rsNone p && (atomW false false w x)
/-- Step 6 of R108 for RDM. -/
def WF.rdm (p : Pfx) (w : W0) (x : W1) : Bool :=
  accK.ok p && rsOk rsNone p && (atomW true true w x)
/-- Step 6 of R108 for FENCE. -/
def WF.fence (p : Pfx) (w : W0) : Bool :=
  acc0.ok p && rsOk rsNone p && (noRes w && !w.luB && fenceScope w ≤ 5 && fenceSucc w != 0 && fencePred w != 0)
/-- Step 6 of R108 for BAR_32. -/
def WF.bar_32 (p : Pfx) (w : W0) : Bool :=
  acc0.ok p && rsOk rsNone p && (noRes w && noLu w && w.a == 0#6 && w.d == 0#6)
/-- Step 6 of R108 for BAR_64. -/
def WF.bar_64 (p : Pfx) (w : W0) (x : W1) : Bool :=
  acc0.ok p && rsOk rsNone p && (!w.luB && x.c == 0#6 && noRole x && hiBelow x 5 && (if x.hi == 0#16 then noRes w && !w.luA && w.a == 20#6 && w.d == 20#6 else src w.a && isU w.d))
/-- Step 6 of R108 for BARW. -/
def WF.barw (p : Pfx) (w : W0) : Bool :=
  acc0.ok p && rsOk rsNone p && (noRes w && w.d.toNat < 2 && oaddr (w.d == 1#6) w.a && isU w.b)
/-- Step 6 of R108 for PRF_32. -/
def WF.prf_32 (p : Pfx) (w : W0) : Bool :=
  accK.ok p && rsOk rsNone p && (noRes w && !w.luB && apair w.a && w.d == 0#6)
/-- Step 6 of R108 for PRF_64. -/
def WF.prf_64 (p : Pfx) (w : W0) (x : W1) : Bool :=
  accK.ok p && rsOk rsNone p && (noRes w && !w.luB && apair w.a && w.b == 20#6 && w.d == 0#6 && plain1 x && bitsN x.hi.toNat 0 4 == 0)
/-- Step 6 of R108 for GRAISE. -/
def WF.graise (p : Pfx) (w : W0) : Bool :=
  accK.ok p && rsOk rsNone p && (noRes w && w.d.toNat < 2 && ldAddr (w.d == 0#6) w && src w.b)
/-- Step 6 of R108 for GLBL. -/
def WF.glbl (p : Pfx) (w : W0) : Bool :=
  (accAlu false w).ok p && rsOk rsNone p && (!w.luB && w.b.toNat < 2 && ldAddr (w.b == 0#6) w && dst w.d && (!isU w.d || usrc w.a))
/-- Step 6 of R108 for QBIND. -/
def WF.qbind (p : Pfx) (w : W0) : Bool :=
  acc0.ok p && rsOk rsNone p && (noRes w && noLu w && w.d.toNat < 16 && w.a.toNat < 8 && w.b == 0#6)
/-- Step 6 of R108 for QPOLL. -/
def WF.qpoll (p : Pfx) (w : W0) : Bool :=
  acc0.ok p && rsOk rsNone p && (noLu w && evenU w.d && w.a.toNat < 16 && w.b.toNat < 8)
/-- Step 6 of R108 for QRD. -/
def WF.qrd (p : Pfx) (w : W0) : Bool :=
  acc0.ok p && rsOk rsNone p && (noLu w && evenU w.d && w.a.toNat < 16 && w.b == 0#6)
/-- Step 6 of R108 for QWR. -/
def WF.qwr (p : Pfx) (w : W0) : Bool :=
  acc0.ok p && rsOk rsNone p && (noRes w && !w.luB && w.d.toNat < 16 && evenU w.a && w.b == 0#6)
/-- Step 6 of R108 for MX_FMT. -/
def WF.mx_fmt (p : Pfx) (w : W0) (x : W1) : Bool :=
  acc0.ok p && rsOk rsNone p && (noRes w && mxD w && (w.a == 20#6 && !w.luA || isU w.a) && isU w.b && desc x.c && noRole x && mxOp x == 0 && mxFmt x == 0 && scopeOk (mxScope x) (mxAcq x) (mxRel x) && (!mxRel x || mxTok w))
/-- Step 6 of R108 for MX_LDB. -/
def WF.mx_ldb (p : Pfx) (w : W0) (x : W1) : Bool :=
  acc0.ok p && rsOk rsNone p && (mx true true (fun f => f ≤ 2) w x && mxA0 w && isU w.b && noRole x)
/-- Step 6 of R108 for MX_MMA. -/
def WF.mx_mma (p : Pfx) (w : W0) (x : W1) : Bool :=
  acc0.ok p && rsOk rsNone p && (mx true true (fun f => f == 0) w x && isU w.b && (x.role == 1#2 && w.a == 0#6 || noRole x && isO w.a))
/-- Step 6 of R108 for MX_MMAS. -/
def WF.mx_mmas (p : Pfx) (w : W0) (x : W1) : Bool :=
  acc0.ok p && rsOk rsNone p && (mx true true (fun f => f == 0) w x && isU w.b && (x.role == 1#2 && w.a == 0#6 || noRole x && isO w.a))
/-- Step 6 of R108 for MX_ZERO. -/
def WF.mx_zero (p : Pfx) (w : W0) (x : W1) : Bool :=
  acc0.ok p && rsOk rsNone p && (mx true true (fun f => f == 0) w x && mxA0 w && mxB0 w && noRole x)
/-- Step 6 of R108 for MX_RD. -/
def WF.mx_rd (p : Pfx) (w : W0) (x : W1) : Bool :=
  accRS.ok p && rsOk rsMxRd p && (mx true true rdFmt w x && (w.a == 20#6 && !w.luA || isU w.a) && isU w.b && noRole x)
/-- Step 6 of R108 for MX_WR. -/
def WF.mx_wr (p : Pfx) (w : W0) (x : W1) : Bool :=
  accRS.ok p && rsOk rsRnd p && (mx true true (fun f => f ≤ 2) w x && mxA0 w && isU w.b && noRole x)
/-- Step 6 of R108 for MX_RDV. -/
def WF.mx_rdv (p : Pfx) (w : W0) (x : W1) : Bool :=
  acc0.ok p && rsOk rsNone p && (mxA0 w && mxB0 w && ctl x.c && bitsN (mxHi x) 0 9 == 0 && (x.role == 3#2 && w.d == 0#6 || noRole x && isO w.d))
/-- Step 6 of R108 for MX_QNT. -/
def WF.mx_qnt (p : Pfx) (w : W0) (x : W1) : Bool :=
  accRS.ok p && rsOk rsRnd p && (mx true true (fun f => 9 ≤ f && f ≤ 13) w x && isU w.a && isU w.b && noRole x)
/-- Step 6 of R108 for XF_COPY_64. -/
def WF.xf_copy_64 (p : Pfx) (w : W0) (x : W1) : Bool :=
  accK.ok p && rsOk rsNone p && (xfWord false w x && copyTiers x)
/-- Step 6 of R108 for XF_COPY_96. -/
def WF.xf_copy_96 (p : Pfx) (w : W0) (x : W1) (lit : Word) : Bool :=
  accK.ok p && rsOk rsNone p && (xfWord false w x && copyTiers x && w.b != 20#6 && lit != 0#32)
/-- Step 6 of R108 for XF_PREF. -/
def WF.xf_pref (p : Pfx) (w : W0) (x : W1) : Bool :=
  accK.ok p && rsOk rsNone p && (xfWord false w x && prefTiers x && w.d == 0#6 && w.b != 20#6)
/-- Step 6 of R108 for XF_YIELD. -/
def WF.xf_yield (p : Pfx) (w : W0) (x : W1) : Bool :=
  accK.ok p && rsOk rsNone p && (xfWord true w x && copyTiers x && w.d == 0#6 && w.b == 20#6)
/-- Step 6 of R108 for BOBJ_INIT. -/
def WF.bobj_init (p : Pfx) (w : W0) (x : W1) : Bool :=
  accK.ok p && rsOk rsNone p && (noRes w && mxD w && oaddr (xfOsp x) w.a && isU w.b && bitsN (xfBits x) 0 16 == 0 && bitsN (xfBits x) 22 10 == 0 && xfScope x ≤ 5)
/-- Step 6 of R108 for CL_PUT. -/
def WF.cl_put (p : Pfx) (w : W0) (x : W1) : Bool :=
  accK.ok p && rsOk rsNone p && (cl w x && clPutTy x && w.d == 0#6 && clWide (clRegs x) w.b)
/-- Step 6 of R108 for CL_GET. -/
def WF.cl_get (p : Pfx) (w : W0) (x : W1) : Bool :=
  accK.ok p && rsOk rsNone p && (cl w x && clPutTy x && clTok x && w.b == 0#6 && !w.luB && isO w.d && clWide (clRegs x) w.d)
/-- Step 6 of R108 for CL_RED. -/
def WF.cl_red (p : Pfx) (w : W0) (x : W1) : Bool :=
  accK.ok p && rsOk rsNone p && (cl w x && clTy x ≤ 4 && atomOT (clOp x) (clTy x) && rdmOp (clOp x) && clOp x ≤ 8 && w.d == 0#6 && clWide (clAtomRegs x) w.b)
/-- Step 6 of R108 for CL_ATOM. -/
def WF.cl_atom (p : Pfx) (w : W0) (x : W1) : Bool :=
  accK.ok p && rsOk rsNone p && (cl w x && clTy x ≤ 4 && atomOT (clOp x) (clTy x) && clOp x ≤ 8 && clTok x && isO w.d && clWide (clAtomRegs x) w.d && clWide (clAtomRegs x) w.b)
/-- Step 6 of R108 for CL_DRAW. -/
def WF.cl_draw (p : Pfx) (w : W0) (x : W1) : Bool :=
  accK.ok p && rsOk rsNone p && (cl w x && clTy x == 0 && clOp x == 0 && 4 ≤ clX w && !clAt x && w.d == 0#6 && clWide 2 w.b)
/-- Step 6 of R108 for CL_SIG. -/
def WF.cl_sig (p : Pfx) (w : W0) (x : W1) : Bool :=
  accK.ok p && rsOk rsNone p && (cl w x && clTy x == 0 && clOp x == 0 && w.d == 0#6 && (clReg w.b || w.b == 20#6))
/-- Step 6 of R108 for MB_OPEN. -/
def WF.mb_open (p : Pfx) (w : W0) (x : W1) : Bool :=
  acc0.ok p && rsOk rsNone p && (noRes w && w.d.toNat < 16 && isU w.b && plain1 x && (isU w.a && x.hi == 0#16 || w.a == 20#6 && !w.luA && hiBelow x 512))
/-- Step 6 of R108 for MB_SEND_32. -/
def WF.mb_send_32 (p : Pfx) (w : W0) : Bool :=
  accK.ok p && rsOk rsNone p && (noRes w && !w.luB && w.d.toNat < 16 && evenU w.a && w.b == 0#6)
/-- Step 6 of R108 for MB_SEND_64. -/
def WF.mb_send_64 (p : Pfx) (w : W0) (x : W1) : Bool :=
  accK.ok p && rsOk rsNone p && (noRes w && !w.luB && w.d.toNat < 16 && isO w.a && w.b == 0#6 && plain1 x && hiBelow x 8 && !bitN x.hi.toNat 1)
/-- Step 6 of R108 for MB_SEND_SP. -/
def WF.mb_send_sp (p : Pfx) (w : W0) (x : W1) : Bool :=
  accK.ok p && rsOk rsNone p && (noRes w && !w.luB && w.d.toNat < 16 && isU w.a && w.b == 0#6 && plain1 x && hiBelow x 4 && bitN x.hi.toNat 1)
/-- Step 6 of R108 for LOCK_32. -/
def WF.lock_32 (p : Pfx) (w : W0) : Bool :=
  acc0.ok p && rsOk rsNone p && (lockB w && lockD w)
/-- Step 6 of R108 for LOCK_64. -/
def WF.lock_64 (p : Pfx) (w : W0) (x : W1) : Bool :=
  acc0.ok p && rsOk rsNone p && (lockB w && lockD w && plain1 x)
/-- Step 6 of R108 for TRYLOCK_32. -/
def WF.trylock_32 (p : Pfx) (w : W0) : Bool :=
  acc0.ok p && rsOk rsNone p && (lockB w && lockD w)
/-- Step 6 of R108 for TRYLOCK_64. -/
def WF.trylock_64 (p : Pfx) (w : W0) (x : W1) : Bool :=
  acc0.ok p && rsOk rsNone p && (lockB w && lockD w && noRole x && x.c.toNat < 8)
/-- Step 6 of R108 for UNLOCK_32. -/
def WF.unlock_32 (p : Pfx) (w : W0) : Bool :=
  accK.ok p && rsOk rsNone p && (noRes w && lockB w && w.d == 0#6)
/-- Step 6 of R108 for UNLOCK_64. -/
def WF.unlock_64 (p : Pfx) (w : W0) (x : W1) : Bool :=
  accK.ok p && rsOk rsNone p && (noRes w && lockB w && w.d == 0#6 && plain1 x && hiBelow x 2)
/-- Step 6 of R108 for PROMISE. -/
def WF.promise (p : Pfx) (w : W0) : Bool :=
  accK.ok p && rsOk rsNone p && (noRes w && !w.luB && isU w.a && w.b == 0#6 && w.d == 0#6)
/-- Step 6 of R108 for HEIR. -/
def WF.heir (p : Pfx) (w : W0) (x : W1) : Bool :=
  accK.ok p && rsOk rsNone p && (noRes w && heirW w x)
/-- Step 6 of R108 for LAUNCH. -/
def WF.launch (p : Pfx) (w : W0) (x : W1) : Bool :=
  accK.ok p && rsOk rsNone p && (noRes w && (bitN w.d.toNat 4 || bitsN w.d.toNat 0 4 == 0) && oaddr (bitN w.d.toNat 5) w.a && (isU w.b || w.b == 20#6 && !w.luB) && x.hi == 0#16 && plain1 x)
/-- Step 6 of R108 for INEG. -/
def WF.ineg (p : Pfx) (w : W0) : Bool :=
  (accAlu true w).ok p && rsOk rsInt p && (aOnly true w && w.b == 0#6)
/-- Step 6 of R108 for IABS. -/
def WF.iabs (p : Pfx) (w : W0) : Bool :=
  (accAlu true w).ok p && rsOk rsInt p && (aOnly true w && w.b == 0#6)
/-- Step 6 of R108 for POPC. -/
def WF.popc (p : Pfx) (w : W0) : Bool :=
  (accAlu false w).ok p && rsOk rsNone p && (aOnly true w && w.b == 0#6)
/-- Step 6 of R108 for CLZ. -/
def WF.clz (p : Pfx) (w : W0) : Bool :=
  (accAlu false w).ok p && rsOk rsNone p && (aOnly true w && w.b == 0#6)
/-- Step 6 of R108 for CTZ. -/
def WF.ctz (p : Pfx) (w : W0) : Bool :=
  (accAlu false w).ok p && rsOk rsNone p && (aOnly true w && w.b == 0#6)
/-- Step 6 of R108 for BREV. -/
def WF.brev (p : Pfx) (w : W0) : Bool :=
  (accAlu false w).ok p && rsOk rsNone p && (aOnly true w && w.b == 0#6)
/-- Step 6 of R108 for FRCP. -/
def WF.frcp (p : Pfx) (w : W0) : Bool :=
  (accAlu true w).ok p && rsOk rsFp p && (aOnly true w && w.b == 0#6)
/-- Step 6 of R108 for FRSQ. -/
def WF.frsq (p : Pfx) (w : W0) : Bool :=
  (accAlu true w).ok p && rsOk rsFp p && (aOnly true w && w.b == 0#6)
/-- Step 6 of R108 for FSQRT. -/
def WF.fsqrt (p : Pfx) (w : W0) : Bool :=
  (accAlu true w).ok p && rsOk rsFp p && (aOnly true w && w.b == 0#6)
/-- Step 6 of R108 for FEXP2. -/
def WF.fexp2 (p : Pfx) (w : W0) : Bool :=
  (accAlu true w).ok p && rsOk rsFp p && (aOnly true w && w.b == 0#6)
/-- Step 6 of R108 for FLOG2. -/
def WF.flog2 (p : Pfx) (w : W0) : Bool :=
  (accAlu true w).ok p && rsOk rsFp p && (aOnly true w && w.b == 0#6)
/-- Step 6 of R108 for FSIN. -/
def WF.fsin (p : Pfx) (w : W0) : Bool :=
  (accAlu true w).ok p && rsOk rsFp p && (aOnly true w && w.b == 0#6)
/-- Step 6 of R108 for FCOS. -/
def WF.fcos (p : Pfx) (w : W0) : Bool :=
  (accAlu true w).ok p && rsOk rsFp p && (aOnly true w && w.b == 0#6)
/-- Step 6 of R108 for FTANH. -/
def WF.ftanh (p : Pfx) (w : W0) : Bool :=
  (accAlu true w).ok p && rsOk rsFp p && (aOnly true w && w.b == 0#6)
/-- Step 6 of R108 for FRND. -/
def WF.frnd (p : Pfx) (w : W0) : Bool :=
  (accAlu true w).ok p && rsOk rsRnd p && (aOnly true w && w.b == 0#6)
/-- Step 6 of R108 for FFRC. -/
def WF.ffrc (p : Pfx) (w : W0) : Bool :=
  (accAlu true w).ok p && rsOk rsFtz p && (aOnly true w && w.b == 0#6)
/-- Step 6 of R108 for KILL. -/
def WF.kill (p : Pfx) (w : W0) : Bool :=
  accK.ok p && rsOk rsNone p && (zero0 w)
/-- Step 6 of R108 for SYNCW. -/
def WF.syncw (p : Pfx) (w : W0) : Bool :=
  acc0.ok p && rsOk rsNone p && (zero0 w)
/-- Step 6 of R108 for YIELD. -/
def WF.yield (p : Pfx) (w : W0) : Bool :=
  acc0.ok p && rsOk rsNone p && (zero0 w)
/-- Step 6 of R108 for BKPT. -/
def WF.bkpt (p : Pfx) (w : W0) : Bool :=
  accK.ok p && rsOk rsNone p && (zero0 w)
/-- Step 6 of R108 for ELECT. -/
def WF.elect (p : Pfx) (w : W0) : Bool :=
  accKZ.ok p && rsOk rsNone p && (noLu w && w.a == 0#6 && w.b == 0#6 && w.d.toNat < 8)
/-- Step 6 of R108 for LGET. -/
def WF.lget (p : Pfx) (w : W0) : Bool :=
  (accAlu false w).ok p && rsOk rsNone p && (aOnly true w && w.b == 0#6)
/-- Step 6 of R108 for SEAL. -/
def WF.seal (p : Pfx) (w : W0) : Bool :=
  accK.ok p && rsOk rsNone p && (noRes w && w.d == 0#6 && evenU w.a && isU w.b)
/-- Step 6 of R108 for UNSEAL. -/
def WF.unseal (p : Pfx) (w : W0) : Bool :=
  accK.ok p && rsOk rsNone p && (noRes w && w.d == 0#6 && evenU w.a && isU w.b)
/-- Step 6 of R108 for QFREE. -/
def WF.qfree (p : Pfx) (w : W0) : Bool :=
  acc0.ok p && rsOk rsNone p && (noRes w && noLu w && w.d.toNat < 16 && w.a == 0#6 && w.b == 0#6)
/-- Step 6 of R108 for RETT. -/
def WF.rett (p : Pfx) (w : W0) : Bool :=
  acc0.ok p && rsOk rsNone p && (zero0 w)
/-- Step 6 of R108 for TCLR. -/
def WF.tclr (p : Pfx) (w : W0) : Bool :=
  accK.ok p && rsOk rsNone p && (noRes w && !w.luB && evenU w.a && w.b == 0#6 && w.d == 0#6)
/-- Step 6 of R108 for TMASK. -/
def WF.tmask (p : Pfx) (w : W0) : Bool :=
  acc0.ok p && rsOk rsNone p && (!w.luB && evenU w.a && w.b == 0#6 && evenU w.d)
/-- Step 6 of R108 for HALT. -/
def WF.halt (p : Pfx) (w : W0) : Bool :=
  acc0.ok p && rsOk rsNone p && (zero0 w)
/-- Step 6 of R108 for MX_GANG. -/
def WF.mx_gang (p : Pfx) (w : W0) : Bool :=
  acc0.ok p && rsOk rsNone p && (noRes w && !w.luB && isU w.a && w.b == 0#6 && w.d == 0#6)
/-- Step 6 of R108 for MX_WAIT. -/
def WF.mx_wait (p : Pfx) (w : W0) : Bool :=
  acc0.ok p && rsOk rsNone p && (zero0 w)
/-- Step 6 of R108 for MX_DROP. -/
def WF.mx_drop (p : Pfx) (w : W0) : Bool :=
  acc0.ok p && rsOk rsNone p && (noRes w && !w.luB && isU w.a && 1 ≤ w.b.toNat && w.b.toNat ≤ 32 && w.d == 0#6)
/-- Step 6 of R108 for XF_WAIT. -/
def WF.xf_wait (p : Pfx) (w : W0) : Bool :=
  acc0.ok p && rsOk rsNone p && (zero0 w)
/-- Step 6 of R108 for XF_CANCEL. -/
def WF.xf_cancel (p : Pfx) (w : W0) : Bool :=
  acc0.ok p && rsOk rsNone p && (noRes w && !w.luB && isU w.a && w.b == 0#6 && w.d == 0#6)
/-- Step 6 of R108 for BOBJ_ARV. -/
def WF.bobj_arv (p : Pfx) (w : W0) : Bool :=
  accK.ok p && rsOk rsNone p && (noRes w && !bitN w.d.toNat 5 && bitsN w.d.toNat 1 3 ≤ 5 && (bitN w.d.toNat 4 || bitsN w.d.toNat 1 3 == 0) && oaddr (bitN w.d.toNat 0) w.a && (isU w.b || w.b == 20#6 && !w.luB))
/-- Step 6 of R108 for CL_FLUSH. -/
def WF.cl_flush (p : Pfx) (w : W0) : Bool :=
  acc0.ok p && rsOk rsNone p && (noRes w && mxD w && evenU w.a && isU w.b)
/-- Step 6 of R108 for MB_VER. -/
def WF.mb_ver (p : Pfx) (w : W0) : Bool :=
  acc0.ok p && rsOk rsNone p && (noRes w && !w.luB && isU w.a && w.b == 0#6 && w.d == 0#6)
/-- Step 6 of R108 for MB_MODE. -/
def WF.mb_mode (p : Pfx) (w : W0) : Bool :=
  acc0.ok p && rsOk rsNone p && (noRes w && noLu w && w.d.toNat < 16 && w.a.toNat < 3 && w.b == 0#6)
/-- Step 6 of R108 for WILL. -/
def WF.will (p : Pfx) (w : W0) : Bool :=
  acc0.ok p && rsOk rsNone p && (noRes w && !w.luB && isU w.a && w.b == 0#6 && w.d == 0#6)
/-- Step 6 of R108 for ESTQ. -/
def WF.estq (p : Pfx) (w : W0) : Bool :=
  acc0.ok p && rsOk rsNone p && (noRes w && noLu w && w.d.toNat < 16 && w.a.toNat < 2 && w.b == 0#6)
/-- Step 6 of R108 for LWAIT. -/
def WF.lwait (p : Pfx) (w : W0) : Bool :=
  acc0.ok p && rsOk rsNone p && (zero0 w)

/-- Well-formed: the group's PFX words are accepted, their settings listed, and every field holds an assigned code. -/
def Instr.wf : Instr → Bool
  | .nop => true
  | .iadd_32 p w => WF.iadd_32 p w
  | .iadd_64 p w x => WF.iadd_64 p w x
  | .iadd_96 p w x lit => WF.iadd_96 p w x lit
  | .isub_32 p w => WF.isub_32 p w
  | .isub_64 p w x => WF.isub_64 p w x
  | .isub_96 p w x lit => WF.isub_96 p w x lit
  | .iaddc_32 p w => WF.iaddc_32 p w
  | .iaddc_64 p w x => WF.iaddc_64 p w x
  | .iaddc_96 p w x lit => WF.iaddc_96 p w x lit
  | .imul_32 p w => WF.imul_32 p w
  | .imul_64 p w x => WF.imul_64 p w x
  | .imul_96 p w x lit => WF.imul_96 p w x lit
  | .imulh_32 p w => WF.imulh_32 p w
  | .imulh_64 p w x => WF.imulh_64 p w x
  | .imulh_96 p w x lit => WF.imulh_96 p w x lit
  | .imad_32 p w => WF.imad_32 p w
  | .imad_64 p w x => WF.imad_64 p w x
  | .imad_96 p w x lit => WF.imad_96 p w x lit
  | .imadw_32 p w => WF.imadw_32 p w
  | .imadw_64 p w x => WF.imadw_64 p w x
  | .imadw_96 p w x lit => WF.imadw_96 p w x lit
  | .imin_32 p w => WF.imin_32 p w
  | .imin_64 p w x => WF.imin_64 p w x
  | .imin_96 p w x lit => WF.imin_96 p w x lit
  | .imax_32 p w => WF.imax_32 p w
  | .imax_64 p w x => WF.imax_64 p w x
  | .imax_96 p w x lit => WF.imax_96 p w x lit
  | .and_32 p w => WF.and_32 p w
  | .and_64 p w x => WF.and_64 p w x
  | .and_96 p w x lit => WF.and_96 p w x lit
  | .or_32 p w => WF.or_32 p w
  | .or_64 p w x => WF.or_64 p w x
  | .or_96 p w x lit => WF.or_96 p w x lit
  | .xor_32 p w => WF.xor_32 p w
  | .xor_64 p w x => WF.xor_64 p w x
  | .xor_96 p w x lit => WF.xor_96 p w x lit
  | .andn_32 p w => WF.andn_32 p w
  | .andn_64 p w x => WF.andn_64 p w x
  | .andn_96 p w x lit => WF.andn_96 p w x lit
  | .bool3_64 p w x => WF.bool3_64 p w x
  | .bool3_96 p w x lit => WF.bool3_96 p w x lit
  | .shl_32 p w => WF.shl_32 p w
  | .shl_64 p w x => WF.shl_64 p w x
  | .shl_96 p w x lit => WF.shl_96 p w x lit
  | .shr_32 p w => WF.shr_32 p w
  | .shr_64 p w x => WF.shr_64 p w x
  | .shr_96 p w x lit => WF.shr_96 p w x lit
  | .sar_32 p w => WF.sar_32 p w
  | .sar_64 p w x => WF.sar_64 p w x
  | .sar_96 p w x lit => WF.sar_96 p w x lit
  | .rot_32 p w => WF.rot_32 p w
  | .rot_64 p w x => WF.rot_64 p w x
  | .rot_96 p w x lit => WF.rot_96 p w x lit
  | .shf_32 p w => WF.shf_32 p w
  | .shf_64 p w x => WF.shf_64 p w x
  | .shf_96 p w x lit => WF.shf_96 p w x lit
  | .bfx_32 p w => WF.bfx_32 p w
  | .bfx_64 p w x => WF.bfx_64 p w x
  | .bfx_96 p w x lit => WF.bfx_96 p w x lit
  | .bfi_32 p w => WF.bfi_32 p w
  | .bfi_64 p w x => WF.bfi_64 p w x
  | .bfi_96 p w x lit => WF.bfi_96 p w x lit
  | .prmt_32 p w => WF.prmt_32 p w
  | .prmt_64 p w x => WF.prmt_64 p w x
  | .prmt_96 p w x lit => WF.prmt_96 p w x lit
  | .icmp_32 p w => WF.icmp_32 p w
  | .icmp_64 p w x => WF.icmp_64 p w x
  | .icmp_96 p w x lit => WF.icmp_96 p w x lit
  | .isel_32 p w => WF.isel_32 p w
  | .isel_64 p w x => WF.isel_64 p w x
  | .isel_96 p w x lit => WF.isel_96 p w x lit
  | .lea_32 p w => WF.lea_32 p w
  | .lea_64 p w x => WF.lea_64 p w x
  | .lea_96 p w x lit => WF.lea_96 p w x lit
  | .fadd_32 p w => WF.fadd_32 p w
  | .fadd_64 p w x => WF.fadd_64 p w x
  | .fadd_96 p w x lit => WF.fadd_96 p w x lit
  | .fmul_32 p w => WF.fmul_32 p w
  | .fmul_64 p w x => WF.fmul_64 p w x
  | .fmul_96 p w x lit => WF.fmul_96 p w x lit
  | .ffma_32 p w => WF.ffma_32 p w
  | .ffma_64 p w x => WF.ffma_64 p w x
  | .ffma_96 p w x lit => WF.ffma_96 p w x lit
  | .fmin_32 p w => WF.fmin_32 p w
  | .fmin_64 p w x => WF.fmin_64 p w x
  | .fmin_96 p w x lit => WF.fmin_96 p w x lit
  | .fmax_32 p w => WF.fmax_32 p w
  | .fmax_64 p w x => WF.fmax_64 p w x
  | .fmax_96 p w x lit => WF.fmax_96 p w x lit
  | .fcmp_32 p w => WF.fcmp_32 p w
  | .fcmp_64 p w x => WF.fcmp_64 p w x
  | .fcmp_96 p w x lit => WF.fcmp_96 p w x lit
  | .hadd2_32 p w => WF.hadd2_32 p w
  | .hadd2_64 p w x => WF.hadd2_64 p w x
  | .hadd2_96 p w x lit => WF.hadd2_96 p w x lit
  | .hmul2_32 p w => WF.hmul2_32 p w
  | .hmul2_64 p w x => WF.hmul2_64 p w x
  | .hmul2_96 p w x lit => WF.hmul2_96 p w x lit
  | .hfma2_32 p w => WF.hfma2_32 p w
  | .hfma2_64 p w x => WF.hfma2_64 p w x
  | .hfma2_96 p w x lit => WF.hfma2_96 p w x lit
  | .hmin2_32 p w => WF.hmin2_32 p w
  | .hmin2_64 p w x => WF.hmin2_64 p w x
  | .hmin2_96 p w x lit => WF.hmin2_96 p w x lit
  | .hmax2_32 p w => WF.hmax2_32 p w
  | .hmax2_64 p w x => WF.hmax2_64 p w x
  | .hmax2_96 p w x lit => WF.hmax2_96 p w x lit
  | .hcmp2_32 p w => WF.hcmp2_32 p w
  | .hcmp2_64 p w x => WF.hcmp2_64 p w x
  | .hcmp2_96 p w x lit => WF.hcmp2_96 p w x lit
  | .cvt_32 p w => WF.cvt_32 p w
  | .cvt_64 p w x => WF.cvt_64 p w x
  | .cvtp_32 p w => WF.cvtp_32 p w
  | .cvtp_64 p w x => WF.cvtp_64 p w x
  | .cvtu_32 p w => WF.cvtu_32 p w
  | .cvtu_64 p w x => WF.cvtu_64 p w x
  | .scl_32 p w => WF.scl_32 p w
  | .scl_64 p w x => WF.scl_64 p w x
  | .dot2_32 p w => WF.dot2_32 p w
  | .dot2_64 p w x => WF.dot2_64 p w x
  | .dot4_32 p w => WF.dot4_32 p w
  | .dot4_64 p w x => WF.dot4_64 p w x
  | .dot8_32 p w => WF.dot8_32 p w
  | .dot8_64 p w x => WF.dot8_64 p w x
  | .movo p w x => WF.movo p w x
  | .movm p w x => WF.movm p w x
  | .movu_32 p w => WF.movu_32 p w
  | .movu_64 p w x => WF.movu_64 p w x
  | .movk_to_mask p w => WF.movk_to_mask p w
  | .movk_from_mask p w => WF.movk_from_mask p w
  | .ldi_64 p w x => WF.ldi_64 p w x
  | .ldi_96 p w x lit => WF.ldi_96 p w x lit
  | .bra_64 p w x => WF.bra_64 p w x
  | .bra_96 p w x lit => WF.bra_96 p w x lit
  | .brx p w x => WF.brx p w x
  | .pad p w => WF.pad p w
  | .call_64 p w x => WF.call_64 p w x
  | .call_96 p w x lit => WF.call_96 p w x lit
  | .callx p w x => WF.callx p w x
  | .ret p w => WF.ret p w
  | .exit p w => WF.exit p w
  | .cue_64 p w x => WF.cue_64 p w x
  | .cue_96 p w x lit => WF.cue_96 p w x lit
  | .trap_32 p w => WF.trap_32 p w
  | .trap_64 p w x => WF.trap_64 p w x
  | .census_32 p w => WF.census_32 p w
  | .census_64 p w x => WF.census_64 p w x
  | .pick_32 p w => WF.pick_32 p w
  | .pick_64 p w x => WF.pick_64 p w x
  | .peers_32 p w => WF.peers_32 p w
  | .peers_64 p w x => WF.peers_64 p w x
  | .qx_32 p w => WF.qx_32 p w
  | .qx_64 p w x => WF.qx_64 p w x
  | .red_32 p w => WF.red_32 p w
  | .red_64 p w x => WF.red_64 p w x
  | .scan_32 p w => WF.scan_32 p w
  | .scan_64 p w x => WF.scan_64 p w x
  | .draw p w x => WF.draw p w x
  | .drawm p w x => WF.drawm p w x
  | .sreg_read p w => WF.sreg_read p w
  | .sreg_write p w => WF.sreg_write p w
  | .lraise_32 p w => WF.lraise_32 p w
  | .lraise_64 p w x => WF.lraise_64 p w x
  | .lchk_32 p w => WF.lchk_32 p w
  | .lchk_k_32 p w => WF.lchk_k_32 p w
  | .lchk_64 p w x => WF.lchk_64 p w x
  | .lchk_k_64 p w x => WF.lchk_k_64 p w x
  | .dcl_reg p w x => WF.dcl_reg p w x
  | .dcl_g p w x => WF.dcl_g p w x
  | .dcl_sp p w x => WF.dcl_sp p w x
  | .ld_32 p w => WF.ld_32 p w
  | .ld_64 p w x => WF.ld_64 p w x
  | .ld_96 p w x lit => WF.ld_96 p w x lit
  | .st_32 p w => WF.st_32 p w
  | .st_64 p w x => WF.st_64 p w x
  | .st_96 p w x lit => WF.st_96 p w x lit
  | .lds_32 p w => WF.lds_32 p w
  | .lds_64 p w x => WF.lds_64 p w x
  | .lds_96 p w x lit => WF.lds_96 p w x lit
  | .sts_32 p w => WF.sts_32 p w
  | .sts_64 p w x => WF.sts_64 p w x
  | .sts_96 p w x lit => WF.sts_96 p w x lit
  | .ldf_32 p w => WF.ldf_32 p w
  | .ldf_64 p w x => WF.ldf_64 p w x
  | .ste_32 p w => WF.ste_32 p w
  | .ste_64 p w x => WF.ste_64 p w x
  | .ldx_64 p w x => WF.ldx_64 p w x
  | .ldx_96 p w x lit => WF.ldx_96 p w x lit
  | .waitc p w x => WF.waitc p w x
  | .atom p w x => WF.atom p w x
  | .atoms p w x => WF.atoms p w x
  | .rdm p w x => WF.rdm p w x
  | .fence p w => WF.fence p w
  | .bar_32 p w => WF.bar_32 p w
  | .bar_64 p w x => WF.bar_64 p w x
  | .barw p w => WF.barw p w
  | .prf_32 p w => WF.prf_32 p w
  | .prf_64 p w x => WF.prf_64 p w x
  | .graise p w => WF.graise p w
  | .glbl p w => WF.glbl p w
  | .qbind p w => WF.qbind p w
  | .qpoll p w => WF.qpoll p w
  | .qrd p w => WF.qrd p w
  | .qwr p w => WF.qwr p w
  | .mx_fmt p w x => WF.mx_fmt p w x
  | .mx_ldb p w x => WF.mx_ldb p w x
  | .mx_mma p w x => WF.mx_mma p w x
  | .mx_mmas p w x => WF.mx_mmas p w x
  | .mx_zero p w x => WF.mx_zero p w x
  | .mx_rd p w x => WF.mx_rd p w x
  | .mx_wr p w x => WF.mx_wr p w x
  | .mx_rdv p w x => WF.mx_rdv p w x
  | .mx_qnt p w x => WF.mx_qnt p w x
  | .xf_copy_64 p w x => WF.xf_copy_64 p w x
  | .xf_copy_96 p w x lit => WF.xf_copy_96 p w x lit
  | .xf_pref p w x => WF.xf_pref p w x
  | .xf_yield p w x => WF.xf_yield p w x
  | .bobj_init p w x => WF.bobj_init p w x
  | .cl_put p w x => WF.cl_put p w x
  | .cl_get p w x => WF.cl_get p w x
  | .cl_red p w x => WF.cl_red p w x
  | .cl_atom p w x => WF.cl_atom p w x
  | .cl_draw p w x => WF.cl_draw p w x
  | .cl_sig p w x => WF.cl_sig p w x
  | .mb_open p w x => WF.mb_open p w x
  | .mb_send_32 p w => WF.mb_send_32 p w
  | .mb_send_64 p w x => WF.mb_send_64 p w x
  | .mb_send_sp p w x => WF.mb_send_sp p w x
  | .lock_32 p w => WF.lock_32 p w
  | .lock_64 p w x => WF.lock_64 p w x
  | .trylock_32 p w => WF.trylock_32 p w
  | .trylock_64 p w x => WF.trylock_64 p w x
  | .unlock_32 p w => WF.unlock_32 p w
  | .unlock_64 p w x => WF.unlock_64 p w x
  | .promise p w => WF.promise p w
  | .heir p w x => WF.heir p w x
  | .launch p w x => WF.launch p w x
  | .nop_h0 _ => true
  | .nop_h1 _ => true
  | .nop_h2 _ => true
  | .nop_h3 _ => true
  | .ineg p w => WF.ineg p w
  | .iabs p w => WF.iabs p w
  | .popc p w => WF.popc p w
  | .clz p w => WF.clz p w
  | .ctz p w => WF.ctz p w
  | .brev p w => WF.brev p w
  | .frcp p w => WF.frcp p w
  | .frsq p w => WF.frsq p w
  | .fsqrt p w => WF.fsqrt p w
  | .fexp2 p w => WF.fexp2 p w
  | .flog2 p w => WF.flog2 p w
  | .fsin p w => WF.fsin p w
  | .fcos p w => WF.fcos p w
  | .ftanh p w => WF.ftanh p w
  | .frnd p w => WF.frnd p w
  | .ffrc p w => WF.ffrc p w
  | .kill p w => WF.kill p w
  | .syncw p w => WF.syncw p w
  | .yield p w => WF.yield p w
  | .bkpt p w => WF.bkpt p w
  | .elect p w => WF.elect p w
  | .lget p w => WF.lget p w
  | .seal p w => WF.seal p w
  | .unseal p w => WF.unseal p w
  | .qfree p w => WF.qfree p w
  | .rett p w => WF.rett p w
  | .tclr p w => WF.tclr p w
  | .tmask p w => WF.tmask p w
  | .halt p w => WF.halt p w
  | .mx_gang p w => WF.mx_gang p w
  | .mx_wait p w => WF.mx_wait p w
  | .mx_drop p w => WF.mx_drop p w
  | .xf_wait p w => WF.xf_wait p w
  | .xf_cancel p w => WF.xf_cancel p w
  | .bobj_arv p w => WF.bobj_arv p w
  | .cl_flush p w => WF.cl_flush p w
  | .mb_ver p w => WF.mb_ver p w
  | .mb_mode p w => WF.mb_mode p w
  | .will p w => WF.will p w
  | .estq p w => WF.estq p w
  | .lwait p w => WF.lwait p w
  | .delivery_fault _ => true
  | .store_apply_at_home _ => true
  | .replica_apply _ _ => true
  | .ldx_reply _ _ _ => true
  | .ldf_ste_lane_complete _ _ => true
  | .queue_held_entry_deliver _ _ => true
  | .preemption_request _ => true
  | .full_save _ => true
  | .resume _ _ => true
  | .conveyance _ => true
  | .probate_delivery _ => true
  | .lock_retry _ => true
  | .rendezvous_release _ => true
  | .mx_consumed _ => true
  | .mx_done _ => true
  | .audit_verdict _ _ _ _ _ => true
  | .cl_audit_verdict _ _ => true
  | .copy_complete _ _ => true
  | .prefetch_arrival _ => true
  | .xf_yield_resume _ => true
  | .slot_start _ _ => true
  | .cl_peer_apply _ _ _ => true
  | .cl_complete _ => true
  | .switch_write_back _ _ => true
  | .write_back_at_home _ => true
  | .await _ _ => true
  | .await_wake _ _ => true
  | .end_ _ _ => true
  | .u_mode_exception _ _ => true
  | .mbpop _ _ => true
  | .mbpush _ _ => true
  | .observation_delivery _ _ => true
  | .watchdog _ _ _ => true
  | .episode_create _ _ => true
  | .episode_end _ _ _ => true
  | .mbcfg_write _ _ _ _ => true
  | .mbdrop_read _ _ _ => true
  | .mbstat_read _ _ => true
  | .launch_port_store _ _ _ _ _ => true
  | .lpstat_read _ _ _ => true
  | .deal => true
  | .block_start _ => true
  | .steal _ _ => true
  | .grid_complete _ => true
  | .virtual_time_charge _ => true
  | .slice_end _ => true
  | .gfpop _ _ _ => true
  | .gfstat_read _ _ => true
  | .vdcreate _ _ => true
  | .vdreset _ _ => true
  | .vdfree _ _ => true
  | .grant_install _ _ _ => true
  | .grant_revoke _ _ _ => true
  | .migout _ _ _ _ => true
  | .migin _ _ => true
  | .migabort _ _ => true
  | .migration_complete _ => true
  | .ticket_expiry _ => true
  | .msnap _ _ _ => true
  | .attest _ _ => true
  | .fwload _ _ _ _ => true
  | .lcset _ _ _ _ => true
  | .dbgattach _ _ _ _ => true
  | .sbstat_read _ => true
  | .qown_write _ _ _ => true
  | .sown_write _ _ _ => true
  | .mapsync _ _ _ _ => true
  | .mapsync_done _ => true
  | .parkgo _ _ _ => true
  | .parkkill _ _ _ => true
  | .mapstat_read _ _ => true
  | .xwin_write _ _ _ _ => true
  | .evpop _ _ _ => true
  | .hvpop _ _ => true
  | .event_record_release _ => true
  | .vdstat_read _ _ => true
  | .hvstat_read _ => true
  | .qstat_read _ _ => true
  | .quench_clear _ => true
  | .row_mitigation _ _ _ _ => true
  | .metering_tick _ => true
  | .bellows_period _ _ _ => true
  | .uncorrectable_error _ => true
  | .corrected_error _ _ _ _ _ => true
  | .line_fetch _ _ _ => true
  | .elpop _ _ _ => true
  | .elstat_read _ _ => true
  | .debug_resume _ _ => true
  | .block_freeze _ _ _ => true
  | .host_kill _ _ => true
  | .hbm_window_write _ _ _ => true
  | .kwid_write _ _ => true
  | .violation_freeze _ => true
  | .host_module_disable _ => true
  | .reset _ => true
  | .bring_up_phase _ => true
  | .register_write _ _ _ _ => true
  | .unassigned_opcode _ _ _ _ _ => true
  | .orphaned_prefix _ _ _ => true
  | .episode_instruction _ _ => true
  | .peer_copy_access _ _ _ => true
  | .kwport_read _ _ => true
  | .qown_read _ _ => true
  | .sown_read _ _ => true
  | .activation_window _ _ => true

open WF in
/-- Whether the first word of a longer instruction passes step 6 of R108 by itself; the failing word is then a later one. -/
def Instr.firstOk : Instr → Bool
  | .iadd_64 _ w _ => ab true w
  | .iadd_96 _ w _ _ => lit0 true w
  | .isub_64 _ w _ => ab true w
  | .isub_96 _ w _ _ => lit0 true w
  | .iaddc_64 _ w _ => ab false w
  | .iaddc_96 _ w _ _ => lit0 false w
  | .imul_64 _ w _ => ab true w
  | .imul_96 _ w _ _ => lit0 true w
  | .imulh_64 _ w _ => ab true w
  | .imulh_96 _ w _ _ => lit0 true w
  | .imad_64 _ w _ => ab true w
  | .imad_96 _ w _ _ => lit0 true w
  | .imadw_64 _ w _ => ab true w && pairDst w.d
  | .imadw_96 _ w _ _ => lit0 true w && pairDst w.d
  | .imin_64 _ w _ => ab true w
  | .imin_96 _ w _ _ => lit0 true w
  | .imax_64 _ w _ => ab true w
  | .imax_96 _ w _ _ => lit0 true w
  | .and_64 _ w _ => ab true w
  | .and_96 _ w _ _ => lit0 true w
  | .or_64 _ w _ => ab true w
  | .or_96 _ w _ _ => lit0 true w
  | .xor_64 _ w _ => ab true w
  | .xor_96 _ w _ _ => lit0 true w
  | .andn_64 _ w _ => ab true w
  | .andn_96 _ w _ _ => lit0 true w
  | .bool3_64 _ w _ => ab true w
  | .bool3_96 _ w _ _ => lit0 true w
  | .shl_64 _ w _ => ab true w
  | .shl_96 _ w _ _ => lit0 true w
  | .shr_64 _ w _ => ab true w
  | .shr_96 _ w _ _ => lit0 true w
  | .sar_64 _ w _ => ab true w
  | .sar_96 _ w _ _ => lit0 true w
  | .rot_64 _ w _ => ab true w
  | .rot_96 _ w _ _ => lit0 true w
  | .shf_64 _ w _ => ab true w
  | .shf_96 _ w _ _ => lit0 true w
  | .bfx_64 _ w _ => ab true w
  | .bfx_96 _ w _ _ => lit0 true w
  | .bfi_64 _ w _ => ab true w
  | .bfi_96 _ w _ _ => lit0 true w
  | .prmt_64 _ w _ => ab true w
  | .prmt_96 _ w _ _ => lit0 true w
  | .icmp_64 _ w _ => cmp32 w
  | .icmp_96 _ w _ _ => src w.a && w.b == 20#6 && !w.luB
  | .isel_64 _ w _ => ab true w
  | .isel_96 _ w _ _ => lit0 true w
  | .lea_64 _ w _ => ab true w && pairDst w.d && pairDst w.a
  | .lea_96 _ w _ _ => lit0 true w && pairDst w.d && pairDst w.a
  | .fadd_64 _ w _ => ab true w
  | .fadd_96 _ w _ _ => lit0 true w
  | .fmul_64 _ w _ => ab true w
  | .fmul_96 _ w _ _ => lit0 true w
  | .ffma_64 _ w _ => ab true w
  | .ffma_96 _ w _ _ => lit0 true w
  | .fmin_64 _ w _ => ab true w
  | .fmin_96 _ w _ _ => lit0 true w
  | .fmax_64 _ w _ => ab true w
  | .fmax_96 _ w _ _ => lit0 true w
  | .fcmp_64 _ w _ => cmp32 w
  | .fcmp_96 _ w _ _ => src w.a && w.b == 20#6 && !w.luB
  | .hadd2_64 _ w _ => ab true w
  | .hadd2_96 _ w _ _ => lit0 true w
  | .hmul2_64 _ w _ => ab true w
  | .hmul2_96 _ w _ _ => lit0 true w
  | .hfma2_64 _ w _ => ab true w
  | .hfma2_96 _ w _ _ => lit0 true w
  | .hmin2_64 _ w _ => ab true w
  | .hmin2_96 _ w _ _ => lit0 true w
  | .hmax2_64 _ w _ => ab true w
  | .hmax2_96 _ w _ _ => lit0 true w
  | .hcmp2_64 _ w _ => ab true w
  | .hcmp2_96 _ w _ _ => lit0 true w
  | .cvt_64 _ w _ => aOnly true w && w.b == 0#6
  | .cvtp_64 _ w _ => src w.a && src w.b && dst w.d
  | .cvtu_64 _ w _ => aOnly true w && cvtuJ (bitsN w.b.toNat 3 3) (bitsN w.b.toNat 0 3)
  | .scl_64 _ w _ => src w.a && src w.b && dst w.d
  | .dot2_64 _ w _ => ab false w
  | .dot4_64 _ w _ => ab false w
  | .dot8_64 _ w _ => ab false w
  | .movo _ w _ => w.a == 0#6 && w.b == 0#6 && !w.luB && isO w.d
  | .movm _ w _ => src w.a && w.d == 0#6 && w.b == 0#6 && !w.luB
  | .movu_64 _ w _ => isU w.a && w.b == 0#6 && !w.luB && w.d == 0#6
  | .ldi_64 _ w _ => w.a == 0#6 && w.b == 20#6 && noLu w && dst w.d
  | .ldi_96 _ w _ _ => w.a == 0#6 && w.b == 20#6 && noLu w && dst w.d
  | .bra_64 _ w _ => noRes w && noLu w && !bitN w.d.toNat 5
  | .bra_96 _ w _ _ => noRes w && noLu w && !bitN w.d.toNat 5 && w.a == 0#6 && w.b == 0#6
  | .brx _ w _ => noRes w && src w.a && evenU w.b
  | .call_64 _ w _ => zero0 w
  | .call_96 _ w _ _ => zero0 w
  | .callx _ w _ => noRes w && src w.a && evenU w.b
  | .cue_64 _ w _ => noRes w && noLu w && w.d == 0#6
  | .cue_96 _ w _ _ => noRes w && noLu w && w.d == 0#6
  | .trap_64 _ w _ => zero0 w
  | .census_64 _ w _ => src w.a && w.b == 0#6 && !w.luB && bitsN w.d.toNat 3 3 ≤ 4
  | .pick_64 _ w _ => src w.a && src w.b && laneDst w.d
  | .peers_64 _ w _ => x32 w && w.b.toNat ≤ 2
  | .qx_64 _ w _ => x32 w && w.b.toNat ≤ 2
  | .red_64 _ w _ => x32 w && redB w
  | .scan_64 _ w _ => x32 w && redB w
  | .draw _ w _ => src w.a && src w.b && evenO w.d
  | .drawm _ w _ => evenO w.a && w.b == 0#6 && !w.luB && evenO w.d
  | .lraise_64 _ w _ => src w.a && src w.b && dst w.d
  | .lchk_64 _ w _ => noRes w && src w.a && src w.b && w.d == 0#6
  | .lchk_k_64 _ w _ => src w.a && src w.b && bitsN w.d.toNat 3 3 == 1
  | .dcl_reg _ w _ => aOnly true w && w.b == 0#6
  | .dcl_g _ w _ => noRes w && apair w.a && w.b == 0#6 && !w.luB && w.d == 20#6
  | .dcl_sp _ w _ => noRes w && src w.a && w.b == 0#6 && !w.luB && w.d == 20#6
  | .ld_64 _ w _ => ldAddr true w && w.b == 20#6 && !w.luB && dst w.d
  | .ld_96 _ w _ _ => ldAddr true w && w.b == 20#6 && !w.luB && dst w.d
  | .st_64 _ w _ => noRes w && ldAddr true w && src w.b && w.d == 0#6
  | .st_96 _ w _ _ => noRes w && ldAddr true w && src w.b && w.d == 0#6
  | .lds_64 _ w _ => ldAddr false w && w.b == 20#6 && !w.luB && dst w.d
  | .lds_96 _ w _ _ => ldAddr false w && w.b == 20#6 && !w.luB && dst w.d
  | .sts_64 _ w _ => noRes w && ldAddr false w && src w.b && w.d == 0#6
  | .sts_96 _ w _ _ => noRes w && ldAddr false w && src w.b && w.d == 0#6
  | .ldf_64 _ w _ => lsrc w.a && !w.luB && laneDst w.d && w.b.toNat < 8
  | .ste_64 _ w _ => noRes w && lsrc w.a && src w.b && w.d.toNat < 8
  | .ldx_64 _ w _ => ldAddr (!bitN w.b.toNat 4) w && !w.luB && dst w.d && !bitN w.b.toNat 5 && !isU w.d
  | .ldx_96 _ w _ _ => ldAddr (!bitN w.b.toNat 4) w && !w.luB && dst w.d && !bitN w.b.toNat 5 && !isU w.d
  | .waitc _ w _ => noRes w && noLu w && w.d == 0#6 && w.b == 0#6 && w.a.toNat < 16
  | .atom _ w _ => ldAddr true w && src w.b && laneDst w.d
  | .atoms _ w _ => ldAddr false w && src w.b && laneDst w.d
  | .rdm _ w _ => ldAddr true w && src w.b && w.d == 0#6 && noRes w
  | .bar_64 _ w _ => !w.luB
  | .prf_64 _ w _ => noRes w && !w.luB && apair w.a && w.b == 20#6 && w.d == 0#6
  | .mx_fmt _ w _ => noRes w && mxD w && (w.a == 20#6 && !w.luA || isU w.a) && isU w.b
  | .mx_ldb _ w _ => noRes w && mxD w && mxA0 w && isU w.b
  | .mx_mma _ w _ => noRes w && mxD w && isU w.b
  | .mx_mmas _ w _ => noRes w && mxD w && isU w.b
  | .mx_zero _ w _ => noRes w && mxD w && mxA0 w && mxB0 w
  | .mx_rd _ w _ => noRes w && mxD w && (w.a == 20#6 && !w.luA || isU w.a) && isU w.b
  | .mx_wr _ w _ => noRes w && mxD w && mxA0 w && isU w.b
  | .mx_rdv _ w _ => mxA0 w && mxB0 w
  | .mx_qnt _ w _ => noRes w && mxD w && isU w.a && isU w.b
  | .xf_copy_64 _ w _ => noRes w && mxD w && desc w.a && src w.b
  | .xf_copy_96 _ w _ _ => noRes w && mxD w && desc w.a && src w.b && w.b != 20#6
  | .xf_pref _ w _ => noRes w && mxD w && desc w.a && src w.b && w.d == 0#6 && w.b != 20#6
  | .xf_yield _ w _ => noRes w && mxD w && desc w.a && src w.b && w.d == 0#6 && w.b == 20#6
  | .bobj_init _ w _ => noRes w && mxD w && isU w.b
  | .cl_put _ w _ => (clX w == 0 || 4 ≤ clX w) && apair w.a && w.d == 0#6
  | .cl_get _ w _ => (clX w == 0 || 4 ≤ clX w) && apair w.a && w.b == 0#6 && !w.luB && isO w.d
  | .cl_red _ w _ => (clX w == 0 || 4 ≤ clX w) && apair w.a && w.d == 0#6
  | .cl_atom _ w _ => (clX w == 0 || 4 ≤ clX w) && apair w.a && isO w.d
  | .cl_draw _ w _ => (clX w == 0 || 4 ≤ clX w) && apair w.a && 4 ≤ clX w && w.d == 0#6 && clWide 2 w.b
  | .cl_sig _ w _ => (clX w == 0 || 4 ≤ clX w) && apair w.a && w.d == 0#6 && (clReg w.b || w.b == 20#6)
  | .mb_open _ w _ => noRes w && w.d.toNat < 16 && isU w.b
  | .mb_send_64 _ w _ => noRes w && !w.luB && w.d.toNat < 16 && isO w.a && w.b == 0#6
  | .mb_send_sp _ w _ => noRes w && !w.luB && w.d.toNat < 16 && isU w.a && w.b == 0#6
  | .lock_64 _ w _ => lockB w && lockD w
  | .trylock_64 _ w _ => lockB w && lockD w
  | .unlock_64 _ w _ => noRes w && lockB w && w.d == 0#6
  | .heir _ w _ => noRes w
  | .launch _ w _ => noRes w && (bitN w.d.toNat 4 || bitsN w.d.toNat 0 4 == 0) && oaddr (bitN w.d.toNat 5) w.a && (isU w.b || w.b == 20#6 && !w.luB)
  | _ => false

/-- The main-file register that a second word names, where its role names one (R90). -/
def W1.mainReg (x : W1) : Option Nat := if x.role = 0#2 then none else some x.main.toNat

/-- The main-file register of an instruction's second word; the second words of transfer and collective commands have other fields. -/
def Instr.mainReg : Instr → Option Nat
  | .iadd_64 _ _ x => x.mainReg
  | .iadd_96 _ _ x _ => x.mainReg
  | .isub_64 _ _ x => x.mainReg
  | .isub_96 _ _ x _ => x.mainReg
  | .iaddc_64 _ _ x => x.mainReg
  | .iaddc_96 _ _ x _ => x.mainReg
  | .imul_64 _ _ x => x.mainReg
  | .imul_96 _ _ x _ => x.mainReg
  | .imulh_64 _ _ x => x.mainReg
  | .imulh_96 _ _ x _ => x.mainReg
  | .imad_64 _ _ x => x.mainReg
  | .imad_96 _ _ x _ => x.mainReg
  | .imadw_64 _ _ x => x.mainReg
  | .imadw_96 _ _ x _ => x.mainReg
  | .imin_64 _ _ x => x.mainReg
  | .imin_96 _ _ x _ => x.mainReg
  | .imax_64 _ _ x => x.mainReg
  | .imax_96 _ _ x _ => x.mainReg
  | .and_64 _ _ x => x.mainReg
  | .and_96 _ _ x _ => x.mainReg
  | .or_64 _ _ x => x.mainReg
  | .or_96 _ _ x _ => x.mainReg
  | .xor_64 _ _ x => x.mainReg
  | .xor_96 _ _ x _ => x.mainReg
  | .andn_64 _ _ x => x.mainReg
  | .andn_96 _ _ x _ => x.mainReg
  | .bool3_64 _ _ x => x.mainReg
  | .bool3_96 _ _ x _ => x.mainReg
  | .shl_64 _ _ x => x.mainReg
  | .shl_96 _ _ x _ => x.mainReg
  | .shr_64 _ _ x => x.mainReg
  | .shr_96 _ _ x _ => x.mainReg
  | .sar_64 _ _ x => x.mainReg
  | .sar_96 _ _ x _ => x.mainReg
  | .rot_64 _ _ x => x.mainReg
  | .rot_96 _ _ x _ => x.mainReg
  | .shf_64 _ _ x => x.mainReg
  | .shf_96 _ _ x _ => x.mainReg
  | .bfx_64 _ _ x => x.mainReg
  | .bfx_96 _ _ x _ => x.mainReg
  | .bfi_64 _ _ x => x.mainReg
  | .bfi_96 _ _ x _ => x.mainReg
  | .prmt_64 _ _ x => x.mainReg
  | .prmt_96 _ _ x _ => x.mainReg
  | .icmp_64 _ _ x => x.mainReg
  | .icmp_96 _ _ x _ => x.mainReg
  | .isel_64 _ _ x => x.mainReg
  | .isel_96 _ _ x _ => x.mainReg
  | .lea_64 _ _ x => x.mainReg
  | .lea_96 _ _ x _ => x.mainReg
  | .fadd_64 _ _ x => x.mainReg
  | .fadd_96 _ _ x _ => x.mainReg
  | .fmul_64 _ _ x => x.mainReg
  | .fmul_96 _ _ x _ => x.mainReg
  | .ffma_64 _ _ x => x.mainReg
  | .ffma_96 _ _ x _ => x.mainReg
  | .fmin_64 _ _ x => x.mainReg
  | .fmin_96 _ _ x _ => x.mainReg
  | .fmax_64 _ _ x => x.mainReg
  | .fmax_96 _ _ x _ => x.mainReg
  | .fcmp_64 _ _ x => x.mainReg
  | .fcmp_96 _ _ x _ => x.mainReg
  | .hadd2_64 _ _ x => x.mainReg
  | .hadd2_96 _ _ x _ => x.mainReg
  | .hmul2_64 _ _ x => x.mainReg
  | .hmul2_96 _ _ x _ => x.mainReg
  | .hfma2_64 _ _ x => x.mainReg
  | .hfma2_96 _ _ x _ => x.mainReg
  | .hmin2_64 _ _ x => x.mainReg
  | .hmin2_96 _ _ x _ => x.mainReg
  | .hmax2_64 _ _ x => x.mainReg
  | .hmax2_96 _ _ x _ => x.mainReg
  | .hcmp2_64 _ _ x => x.mainReg
  | .hcmp2_96 _ _ x _ => x.mainReg
  | .cvt_64 _ _ x => x.mainReg
  | .cvtp_64 _ _ x => x.mainReg
  | .cvtu_64 _ _ x => x.mainReg
  | .scl_64 _ _ x => x.mainReg
  | .dot2_64 _ _ x => x.mainReg
  | .dot4_64 _ _ x => x.mainReg
  | .dot8_64 _ _ x => x.mainReg
  | .movo _ _ x => x.mainReg
  | .movm _ _ x => x.mainReg
  | .movu_64 _ _ x => x.mainReg
  | .ldi_64 _ _ x => x.mainReg
  | .ldi_96 _ _ x _ => x.mainReg
  | .brx _ _ x => x.mainReg
  | .callx _ _ x => x.mainReg
  | .census_64 _ _ x => x.mainReg
  | .pick_64 _ _ x => x.mainReg
  | .peers_64 _ _ x => x.mainReg
  | .qx_64 _ _ x => x.mainReg
  | .red_64 _ _ x => x.mainReg
  | .scan_64 _ _ x => x.mainReg
  | .lraise_64 _ _ x => x.mainReg
  | .lchk_64 _ _ x => x.mainReg
  | .lchk_k_64 _ _ x => x.mainReg
  | .dcl_reg _ _ x => x.mainReg
  | .ld_64 _ _ x => x.mainReg
  | .ld_96 _ _ x _ => x.mainReg
  | .st_64 _ _ x => x.mainReg
  | .st_96 _ _ x _ => x.mainReg
  | .lds_64 _ _ x => x.mainReg
  | .lds_96 _ _ x _ => x.mainReg
  | .sts_64 _ _ x => x.mainReg
  | .sts_96 _ _ x _ => x.mainReg
  | .ldf_64 _ _ x => x.mainReg
  | .ste_64 _ _ x => x.mainReg
  | .ldx_64 _ _ x => x.mainReg
  | .ldx_96 _ _ x _ => x.mainReg
  | .atom _ _ x => x.mainReg
  | .atoms _ _ x => x.mainReg
  | .rdm _ _ x => x.mainReg
  | .mx_mma _ _ x => x.mainReg
  | .mx_mmas _ _ x => x.mainReg
  | .mx_rdv _ _ x => x.mainReg
  | .heir _ _ x => x.mainReg
  | _ => none

end Sys2Proof
end

