-- ==== Sys2Proof/Machine/Operands.lean ====
section
/-! DEFINITION. Operands of warp instructions: what an issuing group sees (R109), sources (R89 to R93), latches (R135), last-use
bits (R134), poison (R224), PFX.K (R96), and writing results with their labels (R30, R38, R146, R148). -/

namespace Sys2Proof.Machine

open Sys2Proof

/-- A meaning: it stops with no effect, or goes on with a new state. -/
abbrev M := StateT State (Except Stop)

namespace M

/-- Stop the instruction. -/
def stop {α : Type} (x : Stop) : M α := fun _ => .error x
/-- A change of the state that cannot stop. -/
def upd (f : State → State) : M Unit := fun s => .ok ((), f s)
/-- A value with a change of the state. -/
def run' {α : Type} (f : State → α × State) : M α := fun s => .ok (f s)
/-- The state. -/
def st : M State := fun s => .ok (s, s)
/-- Wait, where the condition does not hold (R132). -/
def await (b : Bool) : M Unit := if b then fun s => .ok ((), s) else stop .wait
/-- Do for each element, in order. -/
def each {α : Type} (xs : List α) (f : α → M Unit) : M Unit :=
  match xs with
  | [] => fun s => .ok ((), s)
  | x :: xs => fun s =>
    match f x s with
    | .ok (_, s) => each xs f s
    | .error e => .error e

end M

/-- What an issuing group sees: warp, sub-warp, PC, sequential successor, where it runs, its active lanes, the lanes of them that
are on, the helper lanes that run, the label of PFX.K's register, the slot of its first word, and whether a comparator has matched the
group already, which then does not stop it again (R227). -/
structure Ctx where
  w : Nat
  sub : SubWarp
  pc : DWord
  next : DWord
  quad : Nat
  core : Nat
  die : Nat
  vd : Nat
  act : LaneMask
  on : LaneMask
  helpers : LaneMask
  kl : List Label
  slot : Nat
  skip : Bool
  deriving DecidableEq, Repr

/-- The lanes that execute: those that are on, and helpers. -/
def Ctx.run (c : Ctx) : LaneMask := c.on ||| c.helpers

/-- A trap of the group's instruction: cause, failing lanes, and what the record shows (R212). -/
def Ctx.info (c : Ctx) (cause : Nat) (lanes : LaneMask) : TrapInfo :=
  ⟨cause, c.pc, 0#64, lanes, c.slot, 0, false, 0#32, 0#32, [], [], none, false⟩

/-- Trap (R109). -/
def trap {α : Type} (c : Ctx) (cause : Nat) (lanes : LaneMask := c.on) : M α := M.stop (.trap (c.info cause lanes))

/-- Trap when the condition holds. -/
def trapIf (c : Ctx) (b : Bool) (cause : Nat) (lanes : LaneMask := c.on) : M Unit :=
  if b then trap c cause lanes else fun s => .ok ((), s)

/-- A failed label check stops the instruction: its record names handles that the check's joins may have allocated, so these stay (R25,
R46). -/
def stopLabel {α : Type} (c : Ctx) (t : TrapInfo) : M α := fun s =>
  .error (.label t (s.vd c.vd).table ((s.warp c.w).flags.getLsbD 7))

/-- A LABEL trap: the label checked and the one that failed to dominate it stand in s30, an address in s26:s27 (R46, R212). -/
def trapLabel {α : Type} (c : Ctx) (lanes : LaneMask) (checked dom : Label) (addr : DWord) (step : Nat) : M α :=
  stopLabel c { c.info 6 lanes with
    addr := addr, step := step, low := BitVec.ofNat 32 (checked.toNat + 256 * dom.toNat), lbls := [checked, dom] }

/-- A label check over lanes (R33, R34): the label that `dom` gives a lane must dominate the lane's label in `ls`; LABEL is raised in
every lane that fails, the record showing the lowest. -/
def requireDomAt (c : Ctx) (step : Nat) (lanes : LaneMask) (ls : SMap Label) (dom : Nat → Label) (addr : Nat → DWord) : M Unit := fun s =>
  let bad := maskOf (fun i => hasLane lanes i && !s.dominates c.vd (dom i) (ls.get 0#8 i))
  match lowestLane bad with
  | none => .ok ((), s)
  | some i => trapLabel c bad (ls.get 0#8 i) (dom i) (addr i) step s

/-- A label check that is no step of R188. -/
def requireDom (c : Ctx) (lanes : LaneMask) (ls : SMap Label) (dom : Nat → Label) (addr : Nat → DWord) : M Unit :=
  requireDomAt c 0 lanes ls dom addr

/-! Sources. -/

/-- A source operand: a register code of R89, a main-file register (R90), or a constant with label 0 (R28, R91, R93). -/
inductive Src where
  | code (c : BitVec 6)
  | main (n : Nat)
  | const (v : Word)
  deriving DecidableEq, Repr

/-- The register after this one: the high half of a pair (R110); the constants zero and all ones have themselves. -/
def Src.up (x : Src) (j : Nat) : Src :=
  match x with
  | .code c => if c.toNat < 20 ∨ 24 ≤ c.toNat then .code (c + BitVec.ofNat 6 j) else .code c
  | y => y

/-- Whether the source is a latch (R89). -/
def Src.latch (x : Src) : Option Nat :=
  match x with
  | .code c => if 16 ≤ c.toNat ∧ c.toNat < 20 then some (c.toNat - 16) else none
  | _ => none

/-- The registers as the group sees them: for the second member of a pair, as they stood before the pair (R103). -/
def State.seen (s : State) (w : Nat) : Warp :=
  match s.view with
  | some x => x.1
  | none => s.warp w

/-- The quadrant's latches as the group sees them: for the second member of a pair, as they stood before the pair (R79, R103). -/
def State.seenQuad (s : State) (q : Nat) : Quad :=
  match s.view with
  | some x => x.2
  | none => s.quad q

/-- A source in a lane (R89): value and label. -/
def srcReg (s : State) (c : Ctx) (x : Src) (i : Nat) : Reg :=
  let v := s.seen c.w
  match x with
  | .const u => ⟨u, 0#8, false, false⟩
  | .main n => v.v.get Reg.zero (32 * n + i)
  | .code k =>
    let n := k.toNat
    if n < 16 then v.o.get Reg.zero (32 * n + i)
    else if n < 20 then (((s.seenQuad c.quad).latches[n - 16]?).getD ⟨false, []⟩).lanes.get Reg.zero i
    else if n = 21 then ⟨BitVec.ofNat 32 i, 0#8, false, false⟩
    else if n = 22 then ⟨BitVec.allOnes 32, 0#8, false, false⟩
    else if 24 ≤ n ∧ n < 56 then (v.s[n - 24]?).getD Reg.zero
    else Reg.zero

/-- A source in a lane, its value alone. -/
def srcVal (s : State) (c : Ctx) (x : Src) (i : Nat) : Word := (srcReg s c x i).val
/-- A source in a lane, its label alone. -/
def srcLbl (s : State) (c : Ctx) (x : Src) (i : Nat) : Label := (srcReg s c x i).lbl
/-- A pair source in a lane (R110, R186). -/
def pairVal (s : State) (c : Ctx) (x : Src) (i : Nat) : DWord := pair (srcVal s c (x.up 1) i) (srcVal s c x i)

/-- Whether a latch that a source names is invalid for the sub-warp (R135). -/
def badLatch (s : State) (c : Ctx) (x : Src) : Bool :=
  match x.latch with
  | none => false
  | some n => (s.seenQuad c.quad).owner != some (c.w, c.sub.id) || !(((s.seenQuad c.quad).latches[n]?).getD ⟨false, []⟩).valid

/-- A main-file register at or above the launch's count (R90). -/
def badMain (s : State) (c : Ctx) (n : Nat) : Bool := (s.record c.w).regs ≤ n

/-- A source that is a main-file register at or above the launch's count. -/
def badMainSrc (s : State) (c : Ctx) (x : Src) : Bool :=
  match x with
  | .main n => badMain s c n
  | _ => false

/-- Check the sources that an instruction reads: main-file bounds (ILLEGAL), latches (LATCH), then poison in the lanes that read
them (R90, R135, R224). -/
def checkSrcs (c : Ctx) (xs : List Src) (lanes : LaneMask) : M Unit := do
  let s ← M.st
  trapIf c (xs.any (badMainSrc s c)) 0
  trapIf c (xs.any (badLatch s c)) 3
  let bad := maskOf (fun i => hasLane lanes i && xs.any (fun x => (srcReg s c x i).poison))
  trapIf c (bad != 0#32) 18 bad

/-- Mark register `k` of a lane file dead in the lanes of a mask. -/
def deadLanes (m : LaneMask) (k : Nat) (f : SMap Reg) : SMap Reg :=
  (lanesOf m).foldl (fun (f : SMap Reg) i => f.set Reg.zero (32 * k + i) { f.get Reg.zero (32 * k + i) with dead := true }) f

/-- The lanes of the issuing sub-warp, helper lanes among them (R130, R134). -/
def subLanes (s : State) (c : Ctx) : LaneMask := c.act ||| helpersOf s c.w c.act

/-- Mark the registers of a source dead in the lanes of the sub-warp (R134). -/
def killSrc (c : Ctx) (x : Src) (s : State) : State :=
  match x with
  | .main n => s.modWarp c.w (fun y => { y with v := deadLanes (subLanes s c) n y.v })
  | .code k =>
    if k.toNat < 16 then s.modWarp c.w (fun y => { y with o := deadLanes (subLanes s c) k.toNat y.o })
    else if 24 ≤ k.toNat ∧ k.toNat < 56 then s.modWarp c.w (fun y =>
      if y.splits = [] then
        { y with s := setPad Reg.zero y.s (k.toNat - 24) { (y.s[k.toNat - 24]?).getD Reg.zero with dead := true } } else y)
    else s
  | .const _ => s

/-- Apply the last-use bits of the named sources. -/
def lastUse (c : Ctx) (xs : List (Bool × Src)) : M Unit :=
  M.upd (fun s => xs.foldl (fun s p => if p.1 then killSrc c p.2 s else s) s)

/-! Destinations. -/

/-- A destination: nothing, consecutive operand registers, one main-file register, or consecutive uniform registers. -/
inductive Dst where
  | none
  | o (n : Nat)
  | v (n : Nat)
  | u (n : Nat)
  deriving DecidableEq, Repr

/-- The destination that a field code names (R89). -/
def Dst.ofCode (k : BitVec 6) : Dst :=
  if k.toNat < 16 then .o k.toNat else if 24 ≤ k.toNat ∧ k.toNat < 56 then .u (k.toNat - 24) else .none

/-- Source A of a form, after its role (R90). -/
def srcA (w : W0) (x : W1) : Src := if x.role = 1#2 then .main x.main.toNat else .code w.a
/-- Source B of a form, after its role. -/
def srcB (w : W0) (x : W1) : Src := if x.role = 2#2 then .main x.main.toNat else .code w.b
/-- The destination of a form, after its role. -/
def dstD (w : W0) (x : W1) : Dst := if x.role = 3#2 then .v x.main.toNat else Dst.ofCode w.d

/-- A destination that is a main-file register at or above the launch's count. -/
def badMainDst (s : State) (c : Ctx) (d : Dst) : Bool :=
  match d with
  | .v n => badMain s c n
  | _ => false

/-- A main-file destination at or above the launch's count traps ILLEGAL (R90). -/
def checkDst (c : Ctx) (d : Dst) : M Unit := do
  let s ← M.st
  trapIf c (badMainDst s c d) 0

/-- Note a written register in the entry of the writing child (R38). -/
def noteWrite (s : State) (c : Ctx) (d : Dst) (k : Nat) : State :=
  match c.sub.id with
  | .none => s
  | some (e, _) =>
    s.modWarp c.w (fun x =>
      match x.splits.get? e with
      | .none => x
      | some z =>
        let z := match d with
          | .o n => { z with writtenO := z.writtenO ||| (BitVec.ofNat 16 ((2 ^ k - 1) * 2 ^ n)) }
          | .v n => { z with writtenV := z.writtenV ||| (1#256 <<< n) }
          | .u n => { z with writtenS := z.writtenS ||| (BitVec.ofNat 32 ((2 ^ k - 1) * 2 ^ n)) }
          | .none => z
        { x with splits := x.splits.put e z })

/-- Put a value into register `j` of a destination in a lane. -/
def putLane (x : Warp) (d : Dst) (j i : Nat) (r : Reg) : Warp :=
  match d with
  | .o n => { x with o := x.o.set Reg.zero (32 * (n + j) + i) r }
  | .v n => { x with v := x.v.set Reg.zero (32 * (n + j) + i) r }
  | .u n => { x with s := setPad Reg.zero x.s (n + j) r }
  | .none => x

/-- What register `j` of a destination holds in a lane. -/
def getLane (x : Warp) (d : Dst) (j i : Nat) : Reg :=
  match d with
  | .o n => x.o.get Reg.zero (32 * (n + j) + i)
  | .v n => x.v.get Reg.zero (32 * (n + j) + i)
  | .u n => (x.s[n + j]?).getD Reg.zero
  | .none => Reg.zero

/-- Capture lanes in a latch of the quadrant (R89, R135); it belongs to the issuing sub-warp. -/
def capture (c : Ctx) (latch : Nat) (lanes : SMap Reg) (s : State) : State :=
  s.modQuad c.quad (fun q => { q with owner := some (c.w, c.sub.id), latches := setPad ⟨false, []⟩ q.latches latch ⟨true, lanes⟩ })

/-- The labels of PFX.K joined into register `j` of a destination in the lanes that are off (R96). -/
def joinOff (c : Ctx) (d : Dst) (n : Nat) (s : State) : State :=
  match c.kl with
  | [] => s
  | k :: _ =>
    (lanesOf (c.act &&& ~~~c.on)).foldl (fun s i =>
      (List.range n).foldl (fun s j =>
        let r := getLane (s.warp c.w) d j i
        let (h, s) := s.join c.w r.lbl k
        s.modWarp c.w (fun x => putLane x d j i { r with lbl := h })) s) s

/-- What the lanes of the capture latch that PFX.K leaves off keep: zero under write-back suppress (R96), otherwise their old values, with
PFX.K's label joined in (R69, R96). The old value of an invalid latch is open. -/
def keptLanes (c : Ctx) (w : W0) (off : LaneMask) (s : State) : SMap Reg × State :=
  let old := ((s.quad c.quad).latches[w.latch.toNat]?).getD ⟨false, []⟩
  let (ls, t) := s.joinLanes c.w off (fun i =>
    if w.wbs || !old.valid then c.kl ++ [pathIn s c.w c.on i] else (old.lanes.get Reg.zero i).lbl :: c.kl)
  let reg (i : Nat) : Reg :=
    if w.wbs then ⟨0#32, ls.get 0#8 i, false, false⟩
    else if old.valid then { old.lanes.get Reg.zero i with lbl := ls.get 0#8 i }
    else ⟨Config.freeWord (t.free + i), ls.get 0#8 i, false, false⟩
  ((lanesOf off).foldl (fun m i => m.set Reg.zero i (reg i)) [],
    if w.wbs || old.valid || off == 0#32 then t else { t with free := t.free + 32 })

/-- Put `n` registers from a destination in the lanes of `lanes`. -/
def putLanes (x : Warp) (d : Dst) (n : Nat) (lanes : LaneMask) (val : Nat → List Word) (lbl : Nat → Label) : Warp :=
  (lanesOf lanes).foldl (fun x i => (List.range n).foldl (fun x j => putLane x d j i ⟨((val i)[j]?).getD 0#32, lbl i, false, false⟩) x) x

/-- The registers of a per-lane result: noted (R38), put, and PFX.K's label joined in the lanes that are off (R96). -/
def putResult (c : Ctx) (d : Dst) (n : Nat) (lanes : LaneMask) (val : Nat → List Word) (lbl : Nat → Label) (s : State) : State :=
  let s := if lanes = 0#32 then s else noteWrite s c d n
  let s := s.modWarp c.w (fun x => putLanes x d n lanes val lbl)
  if d = .none then s else joinOff c d n s

/-- The lanes of a per-lane result as a latch captures them: the first register of each (which half: DEDUCED, log entry 39). -/
def laneRegs (lanes : LaneMask) (val : Nat → List Word) (lbl : Nat → Label) (kept : SMap Reg) : SMap Reg :=
  (lanesOf lanes).foldl (fun m i => m.set Reg.zero i ⟨((val i)[0]?).getD 0#32, lbl i, false, false⟩) kept

/-- Write per-lane results: `n` registers from the destination in the lanes of `lanes`, unless write-back is suppressed, and the
capture of the first register (R89). -/
def writeLanes (c : Ctx) (w : W0) (d : Dst) (n : Nat) (lanes : LaneMask) (val : Nat → List Word) (lbl : Nat → Label) : M Unit := do
  M.upd (fun s => if w.wbs then s else putResult c d n lanes val lbl s)
  let kept ← M.run' (keptLanes c w (c.act &&& ~~~c.on &&& ~~~lanes))
  M.upd (capture c w.latch.toNat (laneRegs lanes val lbl kept))

/-- The registers of a uniform result: noted and put. -/
def putUniform (c : Ctx) (d : Dst) (vals : List Word) (lbl : Label) (s : State) : State :=
  (noteWrite s c d vals.length).modWarp c.w (fun x => putLanes x d vals.length 1#32 (fun _ => vals) (fun _ => lbl))

/-- Write a uniform result, captured in every lane of the latch (R89). -/
def writeUni (c : Ctx) (w : W0) (d : Dst) (vals : List Word) (lbl : Label) : M Unit := do
  M.upd (fun s => if w.wbs then s else putUniform c d vals lbl s)
  M.upd (capture c w.latch.toNat (laneRegs (BitVec.allOnes 32) (fun _ => vals) (fun _ => lbl) []))

/-! Lane-mask registers (R148). -/

/-- A lane-mask register as the group sees it. -/
def maskReg (s : State) (c : Ctx) (n : Nat) : MaskReg := ((s.seen c.w).k[n]?).getD MaskReg.zero

/-- Set a lane-mask register, its register label being the join of its bit labels. -/
def setMask (s : State) (w n : Nat) (bits : Word) (lbls : SMap Label) : State :=
  let (l, s) := s.joinList w ((lbls.map (fun e => e.2)).dedup)
  s.modWarp w (fun x => { x with k := setPad MaskReg.zero x.k n ⟨bits, lbls, l⟩ })

/-- The labels of a lane-mask register's bits after a write to `lanes`: the result's in those lanes, and elsewhere the bit's own, joined
with the mask's label where sub-warps are split and with the predicate's where it is off (R75, R148). -/
def bitLabels (c : Ctx) (lanes : LaneMask) (live : Bool) (lbl : Nat → Label) (a : SMap Label × State) (i : Nat) : SMap Label × State :=
  if hasLane lanes i then (a.1.set 0#8 i (lbl i), a.2)
  else
    let (h, s) := a.2.joinList c.w ((a.1.get 0#8 i) :: ((if live then [c.sub.maskLabel] else []) ++
      (if hasLane (c.act &&& ~~~c.on) i then c.kl else [])))
    (a.1.set 0#8 i h, s)

/-- Write bits of a lane-mask register in the lanes of `lanes` (R148): unwritten bits take the mask label while a split is live,
and lanes of active that are off take PFX.K's label. -/
def writeBits (c : Ctx) (n : Nat) (lanes : LaneMask) (bits : Word) (lbl : Nat → Label) (s : State) : State :=
  let r := ((s.warp c.w).k[n]?).getD MaskReg.zero
  let a := (List.range 32).foldl (bitLabels c lanes (decide ((s.warp c.w).splits ≠ [])) lbl) (r.lbls, s)
  setMask a.2 c.w n ((r.bits &&& ~~~lanes) ||| (bits &&& lanes)) a.1

/-- A compare result as a latch captures it: all ones or zero in each lane (R89). -/
def maskLane (bits : Word) (i : Nat) (l : Label) : Reg := ⟨if hasLane bits i then BitVec.allOnes 32 else 0#32, l, false, false⟩

/-- Write a compare result: the bits of `lanes` of k[n], and the capture, in every active lane, of that lane's bit of the register; with
write-back suppressed the register stays and the lanes that are off capture zero (R89, R96, R148). -/
def writeCompare (c : Ctx) (w : W0) (n : Nat) (lanes : LaneMask) (bits : Word) (lbl : Nat → Label) : M Unit := do
  if w.wbs then
    let kept ← M.run' (keptLanes c w (c.act &&& ~~~lanes))
    M.upd (capture c w.latch.toNat ((lanesOf lanes).foldl (fun m i => m.set Reg.zero i (maskLane bits i (lbl i))) kept))
  else
    M.upd (writeBits c n lanes bits lbl)
    M.upd (fun s =>
      let r := ((s.warp c.w).k[n]?).getD MaskReg.zero
      capture c w.latch.toNat ((lanesOf (c.act ||| lanes)).foldl (fun (m : SMap Reg) i =>
        m.set Reg.zero i (maskLane r.bits i (r.lbls.get 0#8 i))) []) s)

end Sys2Proof.Machine
end

