-- ==== Sys2Proof/Machine/Flags.lean ====
section
/-! DEFINITION. The sticky flags of %astat and their label (R119). -/

namespace Sys2Proof.Machine

open Sys2Proof

/-- Flag bits of %astat. -/
def fNV : BitVec 8 := 0x01#8
def fDZ : BitVec 8 := 0x02#8
def fOF : BitVec 8 := 0x04#8
def fUF : BitVec 8 := 0x08#8
def fNX : BitVec 8 := 0x10#8
def fSAT : BitVec 8 := 0x20#8
def fNANLOST : BitVec 8 := 0x40#8
def fLSAT : BitVec 8 := 0x80#8

/-- A result that sets flags ORs them in, and its label joins the flag label (R119). -/
def setFlags (s : State) (w : Nat) (f : BitVec 8) (l : Label) : State :=
  if f = 0#8 then s
  else
    let (h, s) := s.join w (s.warp w).flagLabel l
    s.modWarp w (fun x => { x with flags := x.flags ||| f, flagLabel := h })

/-- %astat as it reads (R119). -/
def astat (x : Warp) : DWord := x.srseq ++ 0#8 ++ x.flagLabel ++ 0#8 ++ x.flags

end Sys2Proof.Machine
end

