-- ==== Sys2Proof/Machine/Issue.lean ====
section
/-! DEFINITION. Issuing a group: what it sees, its predicate (R96), the checks of step 6 of R108, what follows its effect (R84,
R116, R135, R140, R142), and what is done when it stops (R132, R212, R216, R227). -/

namespace Sys2Proof.Machine

open Sys2Proof

/-- The outcome of a step of this machine. -/
abbrev Out := Host.Outcome State Fault Refusal

/-- What follows a meaning's effect: the sub-warp goes on at the sequential successor, or the meaning has placed it itself. -/
inductive Done where
  | next
  | placed
  deriving DecidableEq, Repr

/-- The predicate of a group (R96): the register and the lanes it lets on. -/
def predicate (s : State) (w : Nat) (p : Pfx) : LaneMask × List Label :=
  match p.k with
  | none => (BitVec.allOnes 32, [])
  | some r =>
    let k := ((s.seen w).k[r.n.toNat]?).getD MaskReg.zero
    (if r.inv then ~~~k.bits else k.bits, [k.lbl])

/-- What the issuing group sees, its sub-warp standing at the group; the guides of helper lanes are among the lanes that are on (R109,
R130) (the guide under PFX.K: DEDUCED, log entry 46). -/
def mkCtx (s : State) (u : SubWarp) (p : Pfx) : Ctx :=
  let x := s.warp s.cur.warp
  let (pm, kl) := predicate s s.cur.warp p
  { w := s.cur.warp, sub := { u with matched := false }, pc := s.cur.pc, next := s.cur.next, quad := x.quad, core := coreOfQuad x.quad
    die := dieOfQuad x.quad, vd := x.vd, act := u.mask, on := u.mask &&& pm
    helpers := helpersOf s s.cur.warp (u.mask &&& pm), kl := kl, slot := s.cur.slot, skip := u.matched }

/-- The check of PFX.K's label against the clearance in every active lane (R96). -/
def checkPredicate (c : Ctx) : M Unit := do
  match c.kl with
  | [] => pure ()
  | k :: _ =>
    let ls ← M.run' (fun s => s.joinLanes c.w c.act (fun i => [k, pathIn s c.w c.on i]))
    let s ← M.st
    requireDom c c.act ls (fun _ => (s.warp c.w).clearance) (fun _ => 0#64)

/-- The pair that keys stochastic rounding is read by the instruction, so that a poisoned register of it is consumed (R116, R224). -/
def checkKey (c : Ctx) (p : Pfx) : M Unit :=
  match p.rs with
  | some r =>
    if r.rnd = .sr then checkSrcs c [.code (24#6 + BitVec.ofNat 6 (2 * r.key.toNat)), .code (25#6 + BitVec.ofNat 6 (2 * r.key.toNat))] c.on
    else pure ()
  | none => pure ()

/-- What the PFX words of a group check before its instruction: PFX.K's label, and PFX.RS's key (R96, R224). -/
def checkPfx (c : Ctx) (p : Pfx) : M Unit := do
  checkPredicate c
  checkKey c p

/-- The latches of the quadrant belong to the sub-warp that issues; another sub-warp's are gone (R135). -/
def takeLatches (s : State) (u : SubWarp) : State :=
  let q := (s.warp s.cur.warp).quad
  if (s.quad q).owner = some (s.cur.warp, u.id) then s
  else s.modQuad q (fun x => { x with latches := Quad.reset.latches, owner := some (s.cur.warp, u.id) })

/-- After the effect of a group that is not the first of a pair: the sub-warp goes on, is stamped, and may arrive at its join. -/
def advance (s : State) (u : SubWarp) (d : Done) : State :=
  match d with
  | .placed => s
  | .next =>
    match (s.warp s.cur.warp).sub u.id with
    | none => s
    | some v =>
      if s.cur.pair = 2 ∧ v.hold ≠ .ready ∧ v.hold ≠ .waiting then s
      else arriveCheck (makeReady s s.cur.warp { v with pc := s.cur.next, matched := false }) s.cur.warp u.id

/-- After an instruction has taken effect: srseq counts one that carries SR (R116), and the sub-warp goes on. -/
def complete (p : Pfx) (s : State) (u : SubWarp) (d : Done) : State :=
  let s := if (p.rs.map (fun r => r.rnd)) = some .sr then s.modWarp s.cur.warp (fun x => { x with srseq := x.srseq + 1 }) else s
  let s := if s.cur.pair = 1 then s else advance s u d
  { s with report := .done }

/-- Set the hit bits of comparators (R226, R227). -/
def noteHits (s : State) (core : Nat) (dpc dda : List Nat) : State :=
  let hit (r : List (BitVec 128)) (n : Nat) : List (BitVec 128) := setAt r n (((r[n]?).getD 0#128) ||| (1#128 <<< 108))
  s.modCore core (fun x => { x with dpc := dpc.foldl hit x.dpc, dda := dda.foldl hit x.dda })

/-- Comparators that match halt the sub-warp (R227): the hit bits and WATCH are set, and a debug event is posted (where the event goes: DESIGN CHOICE, log entry 74). -/
def haltSub (s : State) (u : SubWarp) (dpc dda : List Nat) : State :=
  let s := noteHits s (coreOfQuad s.cur.quad) dpc dda
  let s := dropLatchesOf s s.cur.warp u.id
  let s := s.modWarp s.cur.warp (fun y => { y.setSub { u with hold := .halted, matched := true } with tc := tcBit y.tc 24 })
  { s with
    package := { s.package with debugEvents := s.package.debugEvents ++ [⟨s.cur.warp, u.pc, dpc, dda⟩] }, report := .halt }

/-- The handles that a failed label check allocated stay, with the saturation flag where its joins set it (R25, R46) (that they stand: DEDUCED, log entry 19). -/
def keepTable (s : State) (w : Nat) (table : SMap OwnerSet) (sat : Bool) : State :=
  let s := s.modVd (s.warp w).vd (fun d => { d with table := table })
  if sat then s.setLsat w else s

/-- A group that stops: only tried, the reason is reported; else the sub-warp waits, parks, halts, or takes the trap. -/
def takeStop (s : State) (u : SubWarp) (x : Stop) : State :=
  if s.cur.probe then { s with stopped := some x }
  else
    match x with
    | .trap t => takeTrap (takeLatches s u) s.cur.warp u.id t
    | .label t table sat => takeTrap (keepTable (takeLatches s u) s.cur.warp table sat) s.cur.warp u.id t
    | .wait =>
      let s := s.modWarp s.cur.warp (fun y => y.setSub { u with hold := .waiting })
      { s with report := .wait }
    | .lock spad addr =>
      let s := s.modWarp s.cur.warp (fun y => y.setSub { u with hold := .locking spad addr })
      { s with report := .wait }
    | .park t access =>
      if (s.record s.cur.warp).park then parkXlate s s.cur.warp u.id t access else takeTrap s s.cur.warp u.id t
    | .enter m =>
      let s := s.modWarp s.cur.warp (fun y => y.setSub { u with hold := .waiting })
      let s := s.modQuad s.cur.quad (fun q => { q with rendezvous := q.rendezvous ++ [m] })
      { s with report := .wait }
    | .halt dpc dda => haltSub s u dpc dda

/-- Issue an instruction of the group at `s.cur` (R108 steps 6 and 7, R109): one that is not well-formed (`ok` false) traps ILLEGAL, the predicate's label
is checked, and the body acts. With no such sub-warp nothing happens. -/
def issue (p : Pfx) (ok : Bool) (s : State) (body : Ctx → M Done) : Out :=
  match (s.warp s.cur.warp).sub s.cur.sub with
  | none => .next { s with report := .disabled }
  | some u =>
    let c := mkCtx s u p
    if !ok then .next (takeStop s u (.trap (c.info 0 c.act)))
    else
      match (do checkPfx c p; body c : M Done) (takeLatches s u) with
      | .ok (d, t) => .next (complete p t u d)
      | .error e => .next (takeStop s u e)

end Sys2Proof.Machine
end

