-- ==== Sys2Proof/Machine/Numbers.lean ====
section
/-! DEFINITION. Number formats, rounding, saturation and narrowing (R110 to R119), and the draw generator (R120). Every result is
computed exactly and rounded once. -/

namespace Sys2Proof.Machine

open Sys2Proof

/-! Formats (R112, R113, R157). -/

/-- Which codes of a format are NaN. -/
inductive NanKind where
  /-- exponent all ones, mantissa not zero; quiet when the top mantissa bit is set -/
  | ieee
  /-- exponent all ones, mantissa not zero; all quiet -/
  | quiet
  /-- S.1111.111 alone -/
  | one
  | none
  deriving DecidableEq, Repr

/-- A floating format: width, exponent bits, mantissa bits, bias, whether it has infinity, and its NaN codes. -/
structure Fmt where
  width : Nat
  ew : Nat
  mw : Nat
  bias : Nat
  inf : Bool
  nan : NanKind
  deriving DecidableEq, Repr

def Fmt.f32 : Fmt := ⟨32, 8, 23, 127, true, .ieee⟩
def Fmt.f16 : Fmt := ⟨16, 5, 10, 15, true, .ieee⟩
def Fmt.bf16 : Fmt := ⟨16, 8, 7, 127, true, .ieee⟩
def Fmt.e4m3 : Fmt := ⟨8, 4, 3, 7, false, .one⟩
def Fmt.e5m2 : Fmt := ⟨8, 5, 2, 15, true, .quiet⟩
def Fmt.e3m2 : Fmt := ⟨6, 3, 2, 3, false, .none⟩
def Fmt.e2m3 : Fmt := ⟨6, 2, 3, 1, false, .none⟩
def Fmt.e2m1 : Fmt := ⟨4, 2, 1, 1, false, .none⟩

/-- A number format of R157: floating, an E8M0 scale, or an integer with its width and signedness. -/
inductive NumFmt where
  | float (f : Fmt)
  | scale
  | int (width : Nat) (signed : Bool)
  deriving DecidableEq, Repr

/-- The formats by their code in CVT (R157). -/
def fmtOf (n : Nat) : NumFmt :=
  match n with
  | 0 => .float .f32
  | 1 => .float .f16
  | 2 => .float .bf16
  | 3 => .int 32 true
  | 4 => .int 32 false
  | 5 => .int 16 true
  | 6 => .int 16 false
  | 7 => .int 8 true
  | 8 => .int 8 false
  | 9 => .float .e4m3
  | 10 => .float .e5m2
  | 11 => .float .e3m2
  | 12 => .float .e2m3
  | 13 => .float .e2m1
  | 14 => .scale
  | _ => .int 4 true

/-- The formats by their narrow code (R157). -/
def narrowOf (n : Nat) : NumFmt :=
  match n with
  | 0 => .float .f16
  | 1 => .float .bf16
  | 2 => .float .e4m3
  | 3 => .float .e5m2
  | 4 => .float .e3m2
  | 5 => .float .e2m3
  | 6 => .float .e2m1
  | _ => .scale

/-- The bits that an element of a narrow code takes in a register (R111). -/
def narrowWidth (n : Nat) : Nat := if n ≤ 1 then 16 else if n = 6 then 4 else 8

/-! Exact values. -/

/-- An exact value: a NaN with its sign, signalling or not; an infinity; or ±m · 2^e, where `more` says that the true magnitude lies
strictly between m · 2^e and (m + 1) · 2^e. -/
inductive Num where
  | nan (neg signalling : Bool)
  | inf (neg : Bool)
  | fin (neg : Bool) (m : Nat) (e : Int) (more : Bool)
  deriving DecidableEq, Repr

/-- The number of bits of a magnitude. -/
def bitLen (n : Nat) : Nat := if n = 0 then 0 else Nat.log2 n + 1

/-- The value of a code of a floating format; with `ftz`, a subnormal reads as a zero of its sign (R115). -/
def Fmt.decode (f : Fmt) (ftz : Bool) (x : Nat) : Num :=
  let x := x % 2 ^ f.width
  let neg := bitN x (f.width - 1)
  let e := bitsN x f.mw f.ew
  let m := x % 2 ^ f.mw
  let top := 2 ^ f.ew - 1
  let nan := match f.nan with
    | .ieee => e == top && m != 0
    | .quiet => e == top && m != 0
    | .one => e == top && m == 2 ^ f.mw - 1
    | .none => false
  if nan then .nan neg (f.nan == .ieee && !bitN m (f.mw - 1))
  else if f.inf && e == top then .inf neg
  else if e = 0 then .fin neg (if ftz then 0 else m) (1 - (f.bias : Int) - f.mw) false
  else .fin neg (m + 2 ^ f.mw) ((e : Int) - f.bias - f.mw) false

/-- The value of an E8M0 code (R113). -/
def scaleVal (x : Nat) : Num :=
  if x % 256 = 255 then .nan false false else .fin false 1 ((x % 256 : Nat) - (127 : Int)) false

/-- An integer as an exact value. -/
def ofInt (x : Int) : Num := .fin (decide (x < 0)) x.natAbs 0 false

/-- `w` bits read as an integer. -/
def readInt (w : Nat) (signed : Bool) (x : Nat) : Int :=
  let y := x % 2 ^ w
  if signed && 2 ^ (w - 1) ≤ y then (y : Int) - 2 ^ w else y

/-- The value that a format gives the low bits of a register. -/
def NumFmt.decode (t : NumFmt) (ftz : Bool) (x : Nat) : Num :=
  match t with
  | .float f => f.decode ftz x
  | .scale => scaleVal x
  | .int w sg => ofInt (readInt w sg x)

def Num.isNan : Num → Bool
  | .nan _ _ => true
  | _ => false

def Num.signalling : Num → Bool
  | .nan _ s => s
  | _ => false

/-- A zero. -/
def Num.isZero : Num → Bool
  | .fin _ m _ more => m == 0 && !more
  | _ => false

/-- The largest finite magnitude of a format: m · 2^e. -/
def Fmt.maxFin (f : Fmt) : Nat × Int :=
  let top := 2 ^ f.ew - 1
  match f.nan with
  | .none => (2 ^ (f.mw + 1) - 1, (top : Int) - f.bias - f.mw)
  | .one => (2 ^ (f.mw + 1) - 2, (top : Int) - f.bias - f.mw)
  | _ => (2 ^ (f.mw + 1) - 1, (top : Int) - 1 - f.bias - f.mw)

/-- Its value with a sign. -/
def Fmt.maxNum (f : Fmt) (neg : Bool) : Num := .fin neg f.maxFin.1 f.maxFin.2 false

/-- The canonical NaN of a format with a sign (R114). -/
def Fmt.nanCode (f : Fmt) (neg : Bool) : Nat :=
  (if neg then 2 ^ (f.width - 1) else 0) + (2 ^ f.ew - 1) * 2 ^ f.mw +
  (match f.nan with
    | .one => 2 ^ f.mw - 1
    | _ => 2 ^ (f.mw - 1))

/-- m · 2^e < n · 2^k, for magnitudes. -/
def magLt (m : Nat) (e : Int) (n : Nat) (k : Int) : Bool :=
  if e ≤ k then decide (m < n * 2 ^ (k - e).toNat) else decide (m * 2 ^ (e - k).toNat < n)

/-- The code of a magnitude m · 2^e that the format holds exactly. -/
def Fmt.codeOf (f : Fmt) (neg : Bool) (m : Nat) (e : Int) : Nat :=
  let s := if neg then 2 ^ (f.width - 1) else 0
  if m = 0 then s
  else
    let top := e + bitLen m - 1
    let emin := 1 - (f.bias : Int)
    let q := max top emin - f.mw
    let r := if q ≤ e then m * 2 ^ (e - q).toNat else m / 2 ^ (q - e).toNat
    if top < emin then s + r else s + (top + f.bias).toNat * 2 ^ f.mw + (r - 2 ^ f.mw)

/-! Rounding (R115, R116). -/

/-- How a result is rounded and saturated: mode, flush-to-zero, saturation, and the 24-bit value of the generator under SR. -/
structure RM where
  rnd : Rnd
  ftz : Bool
  sat : Sat
  coin : Nat
  deriving DecidableEq, Repr

/-- Round to nearest, keep subnormals, do not saturate (R95). -/
def RM.plain : RM := ⟨.rne, false, .none, 0⟩

/-- Round a magnitude to a multiple of 2^q: the multiple, and whether that was inexact. -/
def roundMag (r : RM) (neg : Bool) (m : Nat) (e : Int) (more : Bool) (q : Int) : Nat × Bool :=
  if q ≤ e then (m * 2 ^ (e - q).toNat, more)
  else
    let d := (q - e).toNat
    let a := m / 2 ^ d
    let rem := m % 2 ^ d
    let half := 2 ^ (d - 1)
    let inexact := rem != 0 || more
    let up : Bool :=
      match r.rnd with
      | .rne => decide (half < rem) || (rem == half && (more || a % 2 == 1))
      | .rna => decide (half ≤ rem)
      | .rtz => false
      | .rup => inexact && !neg
      | .rdn => inexact && neg
      | .sr => inexact && decide (2 ^ 24 ≤ rem * 2 ^ 24 / 2 ^ d + r.coin)
    (if up then a + 1 else a, inexact)

/-- Whether an overflow goes to infinity under a mode (R115). -/
def toInf (r : RM) (neg : Bool) : Bool :=
  match r.rnd with
  | .rne => true
  | .rna => true
  | .sr => true
  | .rtz => false
  | .rup => !neg
  | .rdn => neg

/-- What saturation makes of a rounded value (R115): none where it leaves the value unchanged. -/
def saturated (f : Fmt) (r : RM) (x : Num) : Option Num :=
  let big (neg : Bool) : Option Num := some (.fin neg 1 0 false)
  match r.sat, x with
  | .none, _ => none
  | _, .nan _ _ => none
  | .range, .inf neg => some (f.maxNum neg)
  | .range, _ => none
  | .unit, .inf neg => if neg then some (.fin false 0 0 false) else big false
  | .unit, .fin neg m e _ =>
    if m = 0 then none else if neg then some (.fin false 0 0 false) else if magLt 1 0 m e then big false else none
  | .signed, .inf neg => big neg
  | .signed, .fin neg m e _ => if m = 0 then none else if magLt 1 0 m e then big neg else none

/-- The code of a value that a format holds. -/
def Fmt.encode (f : Fmt) : Num → Nat
  | .nan neg _ => f.nanCode neg
  | .inf neg => (if neg then 2 ^ (f.width - 1) else 0) + (2 ^ f.ew - 1) * 2 ^ f.mw
  | .fin neg m e _ => f.codeOf neg m e

/-- Round a finite value into a format: the value there and the flags, before saturation. `narrow` says that the conversion is
narrowing, so that it saturates (R117). -/
def roundFin (f : Fmt) (narrow : Bool) (r : RM) (neg : Bool) (m : Nat) (e : Int) (more : Bool) : Num × BitVec 8 :=
  if m = 0 ∧ more = false then (.fin neg 0 0 false, 0#8)
  else
    let top := e + bitLen m - 1
    let emin := 1 - (f.bias : Int)
    let q := max top emin - f.mw
    let (a, inexact) := roundMag r neg m e more q
    let nx := if inexact then fNX else 0#8
    let tiny := decide (top < emin) &&
      magLt (roundMag r neg m e more (top - f.mw)).1 (top - f.mw) 1 emin
    let uf := if tiny && inexact then fUF else 0#8
    let (mm, me) := f.maxFin
    if r.ftz && a != 0 && magLt a q 1 emin then (.fin neg 0 0 false, fUF ||| fNX)
    else if a = 0 then (.fin neg 0 0 false, nx ||| uf)
    else if magLt mm me a q then
      if narrow || !f.inf || r.sat == .range then (f.maxNum neg, fSAT)
      else if r.sat != .none then (.inf neg, 0#8)
      else (if toInf r neg then .inf neg else f.maxNum neg, fOF ||| fNX)
    else (.fin neg a q false, nx ||| uf)

/-- Round an exact value into a floating format, saturate, and give its code and flags (R114 to R117). -/
def Fmt.pack (f : Fmt) (narrow : Bool) (r : RM) (x : Num) : Nat × BitVec 8 :=
  match x with
  | .nan neg _ =>
    if r.sat == .unit || r.sat == .signed then (0, fNV ||| fSAT)
    else if f.nan == .none then (f.encode (f.maxNum neg), fNANLOST)
    else (f.nanCode neg, 0#8)
  | x =>
    let (y, fl) := match x with
      | .fin neg m e more => roundFin f narrow r neg m e more
      | .inf neg => if narrow || !f.inf then (f.maxNum neg, fSAT) else (.inf neg, 0#8)
      | y => (y, 0#8)
    match saturated f r y with
    | none => (f.encode y, fl)
    | some z => (f.encode z, (fl &&& ~~~(fNX ||| fOF)) ||| fSAT)

/-- The least and the greatest value that an integer destination takes: its format's range, or what unit and signed-unit saturation clamp
to (R115, R117). -/
def intRange (w : Nat) (signed : Bool) (sat : Sat) : Int × Int :=
  match sat with
  | .unit => (0, 1)
  | .signed => (if signed then -1 else 0, 1)
  | _ => if signed then (-(2 ^ (w - 1)), 2 ^ (w - 1) - 1) else (0, 2 ^ w - 1)

/-- Convert an exact value to an integer format: R117, with the code in `w` bits; unit and signed-unit saturation decide a NaN first
(R115). -/
def packInt (w : Nat) (signed : Bool) (r : RM) (x : Num) : Nat × BitVec 8 :=
  let lo := (intRange w signed r.sat).1
  let hi := (intRange w signed r.sat).2
  let (v, fl) : Int × BitVec 8 :=
    match x with
    | .nan neg _ =>
      if r.sat == .unit || r.sat == .signed then (0, fNV ||| fSAT) else (if neg then lo else hi, fNANLOST)
    | .inf neg => (if neg then lo else hi, fSAT)
    | .fin neg m e more =>
      let (a, inexact) := roundMag r neg m e more 0
      let v : Int := if neg then -(a : Int) else a
      if v < lo then (lo, fSAT) else if hi < v then (hi, fSAT) else (v, if inexact then fNX else 0#8)
  ((v % 2 ^ w).toNat, fl)

/-! Exact arithmetic. -/

/-- ±m · 2^e as an integer multiple of 2^q, where q is at most e. -/
def scaledInt (neg : Bool) (m : Nat) (e q : Int) : Int :=
  let a : Int := (m * 2 ^ (e - q).toNat : Nat)
  if neg then -a else a

/-- The exact value of an integer multiple of 2^q; an exact zero sum is −0 under RDN and +0 otherwise (R153). -/
def sumNum (r : Rnd) (x q : Int) : Num :=
  if x = 0 then .fin (r == .rdn) 0 0 false else .fin (decide (x < 0)) x.natAbs q false

/-- The exact product; flags of an invalid product (R114). -/
def mulNum (x y : Num) : Num × BitVec 8 :=
  match x, y with
  | .nan _ _, _ => (.nan false false, 0#8)
  | _, .nan _ _ => (.nan false false, 0#8)
  | .inf a, .inf b => (.inf (a != b), 0#8)
  | .inf a, .fin b m _ _ => if m = 0 then (.nan false false, fNV) else (.inf (a != b), 0#8)
  | .fin a m _ _, .inf b => if m = 0 then (.nan false false, fNV) else (.inf (a != b), 0#8)
  | .fin a m e _, .fin b n k _ => (.fin (a != b) (m * n) (e + k) false, 0#8)

/-- The exact sum, with the zero rule of R153. -/
def addNum (r : Rnd) (x y : Num) : Num × BitVec 8 :=
  match x, y with
  | .nan _ _, _ => (.nan false false, 0#8)
  | _, .nan _ _ => (.nan false false, 0#8)
  | .inf a, .inf b => if a = b then (.inf a, 0#8) else (.nan false false, fNV)
  | .inf a, _ => (.inf a, 0#8)
  | _, .inf b => (.inf b, 0#8)
  | .fin a m e _, .fin b n k _ =>
    if m = 0 ∧ n = 0 then (.fin (if a = b then a else r == .rdn) 0 0 false, 0#8)
    else if m = 0 then (.fin b n k false, 0#8)
    else if n = 0 then (.fin a m e false, 0#8)
    else
      let q := min e k
      (sumNum r (scaledInt a m e q + scaledInt b n k q) q, 0#8)

/-- NV where one of the inputs is a signalling NaN (R114). -/
def sigFlag (xs : List Num) : BitVec 8 := if xs.any Num.signalling then fNV else 0#8

/-- The three operations of R153. -/
inductive FOp where
  | add | mul | fma
  deriving DecidableEq, Repr

/-- FADD, FMUL, FFMA in a format (R153, R156): code and flags. -/
def farith (f : Fmt) (op : FOp) (r : RM) (a b c : Nat) : Nat × BitVec 8 :=
  let x := f.decode r.ftz a
  let y := f.decode r.ftz b
  let z := f.decode r.ftz c
  match op with
  | .add =>
    let (v, fl) := addNum r.rnd x y
    let (u, fl') := f.pack false r v
    (u, sigFlag [x, y] ||| fl ||| fl')
  | .mul =>
    let (v, fl) := mulNum x y
    let (u, fl') := f.pack false r v
    (u, sigFlag [x, y] ||| fl ||| fl')
  | .fma =>
    let (p, fl) := mulNum x y
    let (v, fl') := addNum r.rnd p z
    let (u, fl'') := f.pack false r v
    (u, sigFlag [x, y, z] ||| fl ||| fl' ||| fl'')

/-- The order of two values that are not NaN: x < y, the two zeros equal. -/
def Num.lt (x y : Num) : Bool :=
  match x, y with
  | .inf a, .inf b => a && !b
  | .inf a, _ => a
  | _, .inf b => !b
  | .fin a m e _, .fin b n k _ => decide (scaledInt a m e (min e k) < scaledInt b n k (min e k))
  | _, _ => false

/-- Equality of two values that are not NaN. -/
def Num.same (x y : Num) : Bool := !x.lt y && !y.lt x

/-- The sign of a value. -/
def Num.neg : Num → Bool
  | .nan s _ => s
  | .inf s => s
  | .fin s _ _ _ => s

/-- minimumNumber and maximumNumber (R153). -/
def fminmax (f : Fmt) (isMax ftz : Bool) (a b : Nat) : Nat × BitVec 8 :=
  let x := f.decode ftz a
  let y := f.decode ftz b
  let fl := sigFlag [x, y]
  let va := if x.isZero then f.encode x else a % 2 ^ f.width
  let vb := if y.isZero then f.encode y else b % 2 ^ f.width
  if x.isNan && y.isNan then (f.nanCode false, fl)
  else if x.isNan then (vb, fl)
  else if y.isNan then (va, fl)
  else
    let less := x.lt y || (x.isZero && y.isZero && x.neg && !y.neg)
    let more := y.lt x || (x.isZero && y.isZero && y.neg && !x.neg)
    if isMax then (if less then vb else va, fl) else (if more then vb else va, fl)

/-- The comparisons of R154. -/
def fcompare (f : Fmt) (cc : Nat) (ftz : Bool) (a b : Nat) : Bool × BitVec 8 :=
  let x := f.decode ftz a
  let y := f.decode ftz b
  let nan := x.isNan || y.isNan
  let fl := if x.signalling || y.signalling || (nan && decide (2 ≤ cc) && decide (cc ≤ 5)) then fNV else 0#8
  let v :=
    match cc with
    | 0 => !nan && x.same y
    | 1 => nan || !x.same y
    | 2 => !nan && x.lt y
    | 3 => !nan && !y.lt x
    | 4 => !nan && y.lt x
    | 5 => !nan && !x.lt y
    | 6 => !nan
    | _ => nan
  (v, fl)

/-! Conversions (R117, R157 to R162). -/

/-- Whether a floating destination holds every value of its source exactly, so that the conversion widens (R117). -/
def widens (src : NumFmt) (dst : Fmt) : Bool :=
  match src with
  | .float f => decide (f.mw ≤ dst.mw) && !magLt dst.maxFin.1 dst.maxFin.2 f.maxFin.1 f.maxFin.2 &&
      decide (f.bias + f.mw ≤ dst.bias + dst.mw) && (!f.inf || dst.inf)
  | .scale => !magLt dst.maxFin.1 dst.maxFin.2 1 127 && decide (128 ≤ dst.bias + dst.mw)
  | .int w sg => !magLt dst.maxFin.1 dst.maxFin.2 (2 ^ (if sg then w - 1 else w) - (if sg then 0 else 1)) 0

/-- Convert the low bits of a register between two formats (R159): code and flags. -/
def convert (src dst : NumFmt) (r : RM) (x : Nat) : Nat × BitVec 8 :=
  let v := src.decode r.ftz x
  let fl := if v.signalling || (src == .scale && v.isNan) then fNV else 0#8
  match dst with
  | .float f =>
    let (u, fl') := f.pack (!widens src f) r v
    (u, fl ||| fl')
  | .scale => (0, 0#8)
  | .int w sg =>
    let (u, fl') := packInt w sg r v
    ((if sg && bitN u (w - 1) then 2 ^ 32 - 2 ^ w + u else u), fl ||| fl')

/-- A value times 2^(e − 127) for a scale code (R113, R118). -/
def scaleBy (x : Num) (e : Nat) : Num :=
  match x with
  | .fin neg m k more => .fin neg m (k + (e : Int) - 127) more
  | y => y

/-- SCL of one element (R162). -/
def scl (f : Fmt) (r : RM) (a e : Nat) : Nat × BitVec 8 :=
  let x := f.decode r.ftz a
  let nan := x.isNan || e == 255
  let (u, fl) := f.pack false r (if nan then .nan false false else scaleBy x e)
  (u, (if x.signalling || e == 255 then fNV else 0#8) ||| fl)

/-! The draw generator (R120). -/

/-- The generator G. -/
def drawG (key ctr : DWord) : DWord :=
  let x := ctr ^^^ key
  let x := (x ^^^ (x >>> 29)) * 0x9C3D5B71E28F6A4D#64
  let x := (x ^^^ (x >>> 32)) * 0x6F1E8A3C5B2D4977#64
  x ^^^ (x >>> 28)

/-- The 24-bit uniform u. -/
def drawU (key ctr : DWord) : Nat := (drawG key ctr >>> 40).toNat

end Sys2Proof.Machine
end

