-- ==== Sys2Proof/Machine/Alu.lean ====
section
/-! DEFINITION. The wrapper of the arithmetic, conversion and move instructions (R144 to R148): operands of each form, one function
per lane or once for a uniform destination, labels, flags, last-use bits and results. -/

namespace Sys2Proof.Machine

open Sys2Proof

/-- The sources of an instruction, each with its last-use bit. -/
abbrev Srcs := List (Bool × Src)

/-- A and B of a 32-bit form. -/
def ab32 (w : W0) : Srcs := [(w.luA, .code w.a), (w.luB, .code w.b)]
/-- A, B and C of a 32-bit form: C is the destination's register, read before the result is written (R144). -/
def abc32 (w : W0) : Srcs := ab32 w ++ [(false, .code w.d)]
/-- Source B of a 64-bit form under R93: the extended immediate where field B holds code 20 and role 10 is not given. -/
def immB (ext : BitVec 16 → Word) (w : W0) (x : W1) : Bool × Src :=
  if WF.isImm w x then (false, .const (ext x.hi)) else (w.luB, srcB w x)
/-- A and B of a 64-bit form under R93. -/
def abImm (ext : BitVec 16 → Word) (w : W0) (x : W1) : Srcs := [(w.luA, srcA w x), immB ext w x]
/-- A, B and C of a 64-bit form under R93. -/
def abcImm (ext : BitVec 16 → Word) (w : W0) (x : W1) : Srcs := abImm ext w x ++ [(false, .code x.c)]
/-- A, B and C of a 64-bit form with its modifiers in [31:16]. -/
def abc64 (w : W0) (x : W1) : Srcs := [(w.luA, srcA w x), (w.luB, srcB w x), (false, .code x.c)]
/-- A and the literal of a 96-bit form (R91). -/
def abLit (w : W0) (x : W1) (lit : Word) : Srcs := [(w.luA, srcA w x), (false, .const lit)]
/-- A, the literal and C of a 96-bit form. -/
def abcLit (w : W0) (x : W1) (lit : Word) : Srcs := abLit w x lit ++ [(false, .code x.c)]

/-- The immediate sign-extended and zero-extended (R93). -/
def immS (h : BitVec 16) : Word := sext h 32
def immZ (h : BitVec 16) : Word := zext h 32
/-- The immediate of a `.s32` or a `.b32` form. -/
def immT (b32 : Bool) (h : BitVec 16) : Word := if b32 then immZ h else immS h
/-- The immediate as an FP16 value widened exactly to FP32 (R93): a NaN keeps its sign and its fraction, signalling or quiet (R114). -/
def immF (h : BitVec 16) : Word :=
  if (field h 10 5) = 31#5 ∧ (field h 0 10) ≠ 0#10 then (field h 15 1) ++ 0xFF#8 ++ (field h 0 10) ++ 0#13
  else BitVec.ofNat 32 (convert (.float .f16) (.float .f32) RM.plain h.toNat).1
/-- The immediate in both halves (R93). -/
def immH (h : BitVec 16) : Word := (h ++ h : BitVec 32)

/-- Whether a destination is uniform. -/
def Dst.uniform : Dst → Bool
  | .u _ => true
  | _ => false

/-- The rounding of a lane's element (R95, R116): under SR the generator keyed by PFX.RS's pair, at srseq, lane and element. -/
def laneRM (s : State) (c : Ctx) (p : Pfx) (lane element : Nat) : RM :=
  match p.rs with
  | none => RM.plain
  | some r =>
    let v := s.seen c.w
    let reg (n : Nat) : Word := ((v.s[n]?).getD Reg.zero).val
    let key := pair (reg (2 * r.key.toNat + 1)) (reg (2 * r.key.toNat))
    let ctr : DWord := (zext v.srseq 64 <<< 32) ||| BitVec.ofNat 64 (lane * 256 + element)
    ⟨r.rnd, r.ftz, r.sat, if r.rnd = .sr then drawU key ctr else 0⟩

/-- A lane's result: the values of the consecutive destination registers, and the flags that they set. -/
abbrev LaneFn := State → Nat → List Word → List Word × BitVec 8

/-- Set the flags of lane results in ascending lane order (R119); helper lanes set none (R130). -/
def laneFlags (c : Ctx) (rs : List (Nat × List Word × BitVec 8)) (ls : SMap Label) (s : State) : State :=
  rs.foldl (fun s r => if hasLane c.on r.1 then setFlags s c.w r.2.2 (ls.get 0#8 r.1) else s) s

/-- The labels of lane results (R30, R146): sources, what `extra` adds, the path label, and PFX.K's register (R96). -/
def laneLabels (c : Ctx) (xs : Srcs) (extra : State → Nat → List Label) : M (SMap Label) := fun s =>
  .ok (s.joinLanes c.w c.run (fun i => xs.map (fun x => srcLbl s c x.2 i) ++ extra s i ++ [pathIn s c.w c.on i] ++ c.kl))

/-- The values that lane `i` reads. -/
def laneVals (s : State) (c : Ctx) (xs : Srcs) (i : Nat) : List Word := xs.map (fun x => srcVal s c x.2 i)

/-- The body of a per-lane or uniform instruction (R146): `n` result registers from `d`. -/
def aluBody (c : Ctx) (w : W0) (d : Dst) (n : Nat) (xs : Srcs) (extra : State → Nat → List Label) (f : LaneFn) : M Done := do
  checkDst c d
  checkSrcs c (xs.map (fun x => x.2)) c.on
  let s ← M.st
  if d.uniform then
    let r := f s 0 (laneVals s c xs 0)
    let l ← M.run' (fun t => t.joinList c.w (xs.map (fun x => srcLbl s c x.2 0) ++ extra s 0 ++ [c.sub.maskLabel]))
    M.upd (fun t => setFlags t c.w r.2 l)
    lastUse c xs
    writeUni c w d ((List.range n).map (fun j => (r.1[j]?).getD 0#32)) l
  else
    let rs := (lanesOf c.run).map (fun i => (i, f s i (laneVals s c xs i)))
    let ls ← laneLabels c xs extra
    M.upd (laneFlags c rs ls)
    lastUse c xs
    let vals : SMap (List Word) := rs.map (fun r => (r.1, r.2.1))
    writeLanes c w d n c.run (fun i => vals.get [] i) (fun i => ls.get 0#8 i)
  pure .next

/-- A body with one result register, no label beside the sources', and a function of the values alone. -/
def alu (c : Ctx) (w : W0) (d : Dst) (xs : Srcs) (f : State → Nat → List Word → Word × BitVec 8) : M Done :=
  aluBody c w d 1 xs (fun _ _ => []) (fun s i v => let r := f s i v; ([r.1], r.2))

/-- The body of a comparison into lane-mask register `n` (R148, R151). -/
def cmpBody (c : Ctx) (w : W0) (n : Nat) (xs : Srcs) (f : List Word → Bool × BitVec 8) : M Done := do
  checkSrcs c (xs.map (fun x => x.2)) c.on
  let s ← M.st
  let rs := (lanesOf c.on).map (fun i => (i, f (laneVals s c xs i)))
  let ls ← laneLabels c xs (fun _ _ => [])
  M.upd (fun t => rs.foldl (fun t r => setFlags t c.w r.2.2 (ls.get 0#8 r.1)) t)
  lastUse c xs
  let bits := rs.foldl (fun m r => if r.2.1 then m ||| laneBit r.1 else m) 0#32
  writeCompare c w n c.on bits (fun i => ls.get 0#8 i)
  pure .next

/-- The value at a place of the list of values that a lane reads. -/
def at' (v : List Word) (k : Nat) : Word := (v[k]?).getD 0#32

end Sys2Proof.Machine
end

