-- ==== Sys2Proof/Machine/Functions.lean ====
section
/-! DEFINITION. The special functions of R155, and the draw arithmetic of R123 to R126. A function value that is not exact is formed in
fixed point with `FP` bits below the point and marked as lying strictly above the integer formed; it is then rounded once. -/

namespace Sys2Proof.Machine

open Sys2Proof

/-! Roots. -/

/-- Bit by bit from bit `k - 1` down, the largest r with r² at most n, starting from `r`. -/
def isqrtFrom (n : Nat) : Nat → Nat → Nat
  | 0, r => r
  | k + 1, r => if (r + 2 ^ k) * (r + 2 ^ k) ≤ n then isqrtFrom n k (r + 2 ^ k) else isqrtFrom n k r

/-- The integer square root. -/
def isqrt (n : Nat) : Nat := isqrtFrom n (bitLen n / 2 + 1) 0

/-! Fixed point with `p` bits below the point. -/

/-- The fixed-point precision of function values. -/
def FP : Nat := 512

/-- The sum of z^(2k+1) / (2k+1) for the `n` terms from term `k` on, `zp` being z^(2k+1): the inverse hyperbolic tangent. -/
def atanhSum (p z2 : Nat) : Nat → Nat → Nat → Nat
  | 0, _, _ => 0
  | n + 1, k, zp => zp / (2 * k + 1) + atanhSum p z2 n (k + 1) (zp * z2 / 2 ^ p)

/-- ln of y, for y in [1, 2]: twice the inverse hyperbolic tangent of (y − 1)/(y + 1). -/
def lnFix (p y : Nat) : Nat :=
  let z := (y - 2 ^ p) * 2 ^ p / (y + 2 ^ p)
  2 * atanhSum p (z * z / 2 ^ p) (p / 3 + 4) 0 z

/-- ln 2. -/
def ln2Fix (p : Nat) : Nat := lnFix p (2 * 2 ^ p)

/-- The sum of x^k / k! for the `n` terms from term `k` on, `t` being x^k / k!. -/
def expSum (p x : Nat) : Nat → Nat → Nat → Nat
  | 0, _, _ => 0
  | n + 1, k, t => t + expSum p x n (k + 1) (t * x / 2 ^ p / (k + 1))

/-- e^x for x in [0, 1]. -/
def expFix (p x : Nat) : Nat := expSum p x 110 0 (2 ^ p)

/-- The alternating sum of x^(2k+j) / (2k+j)!, `t` being the next term. -/
def altSum (p x2 : Nat) : Nat → Nat → Nat → Int
  | 0, _, _ => 0
  | n + 1, k, t => (t : Int) - altSum p x2 n (k + 2) (t * x2 / 2 ^ p / ((k + 1) * (k + 2)))

/-- sin and cos of x in [0, 2). -/
def sinFix (p x : Nat) : Int := altSum p (x * x / 2 ^ p) 80 1 x
def cosFix (p x : Nat) : Int := altSum p (x * x / 2 ^ p) 80 0 (2 ^ p)

/-- The alternating sum of (1/d)^(2k+1) / (2k+1): the arc tangent of 1/d. -/
def atanInv (d : Nat) : Nat → Nat → Nat → Int
  | 0, _, _ => 0
  | n + 1, k, t => (t / (2 * k + 1) : Nat) - atanInv d n (k + 1) (t / (d * d))

/-- π (Machin: 16 atan(1/5) − 4 atan(1/239)). -/
def piFix (p : Nat) : Nat := (16 * atanInv 5 (p / 4 + 4) 0 (2 ^ p / 5) - 4 * atanInv 239 (p / 15 + 4) 0 (2 ^ p / 239)).toNat

/-! Values that are not exact. -/

/-- A positive fixed-point value that is not exact. -/
def fixNum (neg : Bool) (v : Nat) : Num := .fin neg v (-(FP : Int)) true

/-- The largest value below m · 2^e, and the smallest above it, as inexact values. -/
def justBelow (neg : Bool) (m : Nat) (e : Int) : Num := .fin neg (m * 2 ^ 96 - 1) (e - 96) true
def justAbove (neg : Bool) (m : Nat) (e : Int) : Num := .fin neg (m * 2 ^ 96) (e - 96) true

/-- n / d as a magnitude with 128 bits or more, and whether a remainder is left. -/
def quotient (neg : Bool) (n d : Nat) (e : Int) : Num :=
  let k := 128 + bitLen d
  .fin neg (n * 2 ^ k / d) (e - k) (n * 2 ^ k % d != 0)

/-- m · 2^e in fixed point with `p` bits below the point, cut off below. -/
def toFix (p m : Nat) (e : Int) : Nat :=
  let k := e + p
  if 0 ≤ k then m * 2 ^ k.toNat else m / 2 ^ (-k).toNat

/-- floor of m · 2^e. -/
def floorMag (m : Nat) (e : Int) : Nat := if 0 ≤ e then m * 2 ^ e.toNat else m / 2 ^ (-e).toNat

/-- 2^(±m · 2^e) for a magnitude below 2^12: the integer part moves the exponent, and e^(f · ln 2) gives the fraction. -/
def exp2Num (neg : Bool) (m : Nat) (e : Int) : Num :=
  let n := floorMag m e
  let whole := magLt m e n 0 == false && magLt n 0 m e == false
  if whole then .fin false 1 (if neg then -(n : Int) else n) false
  else
    -- the exponent as k + f with 0 < f < 1
    let frac := toFix FP m e - n * 2 ^ FP
    let (k, f) : Int × Nat := if neg then (-(n : Int) - 1, 2 ^ FP - frac) else (n, frac)
    .fin false (expFix FP (f * ln2Fix FP / 2 ^ FP)) (k - FP) true

/-- log2 of m · 2^e (m not zero). -/
def log2Num (m : Nat) (e : Int) : Num :=
  let l := bitLen m - 1
  let k := e + l
  if m = 2 ^ l then .fin (decide (k < 0)) k.natAbs 0 false
  else
    let t := lnFix FP (m * 2 ^ FP / 2 ^ l) * 2 ^ FP / ln2Fix FP
    let v : Int := k * 2 ^ FP + t
    if 0 ≤ v then fixNum false v.toNat else fixNum true ((-v).toNat - 1)

/-- sin or cos of m · 2^e: reduced modulo π/2 with the bits of π that the operand needs. -/
def trigNum (isCos neg : Bool) (m : Nat) (e : Int) : Num :=
  let small := magLt m e 1 (-120)
  if small then (if isCos then justBelow false 1 0 else justBelow neg m e)
  else
    let p := FP + 160
    let half := piFix p / 2
    let a := toFix p m e
    let q := a / half
    let r := (a - q * half) / 2 ^ 160
    let useCos := xor isCos (q % 2 == 1)
    let v := if useCos then cosFix FP r else sinFix FP r
    -- the sign by quadrant
    let flip := if isCos then q % 4 == 1 || q % 4 == 2 else xor neg (q % 4 == 2 || q % 4 == 3)
    fixNum flip v.toNat

/-- tanh of m · 2^e. -/
def tanhNum (neg : Bool) (m : Nat) (e : Int) : Num :=
  if magLt m e 1 (-120) then justBelow neg m e
  else if magLt 64 0 m e then justBelow neg 1 0
  else
    let y := 2 * toFix FP m e
    let l2 := ln2Fix FP
    let n := y / l2
    let t := 2 ^ (2 * FP) / expFix FP (y - n * l2) / 2 ^ n
    fixNum neg ((2 ^ FP - t) * 2 ^ FP / (2 ^ FP + t))

/-- The special functions. -/
inductive SFn where
  | rcp | rsq | sqrt | exp2 | log2 | sin | cos | tanh
  deriving DecidableEq, Repr

/-- The value of a special function at a value that is not NaN, with the flags of its special inputs (R155). -/
def sfn (g : SFn) (x : Num) : Num × BitVec 8 :=
  let one : Num := .fin false 1 0 false
  match g, x with
  | .rcp, .inf neg => (.fin neg 0 0 false, 0#8)
  | .rcp, .fin neg m e _ => if m = 0 then (.inf neg, fDZ) else (quotient neg 1 m (-e), 0#8)
  | .rsq, .inf neg => if neg then (.nan false false, fNV) else (.fin false 0 0 false, 0#8)
  | .rsq, .fin neg m e _ =>
    if m = 0 then (.inf neg, fDZ)
    else if neg then (.nan false false, fNV)
    else
      let (m, e) := if e % 2 = 0 then (m, e) else (2 * m, e - 1)
      let r := isqrt (2 ^ 400 / m)
      (.fin false r (-200 - e / 2) (r * r * m != 2 ^ 400), 0#8)
  | .sqrt, .inf neg => if neg then (.nan false false, fNV) else (.inf false, 0#8)
  | .sqrt, .fin neg m e more =>
    if m = 0 then (.fin neg m e more, 0#8)
    else if neg then (.nan false false, fNV)
    else
      let (m, e) := if e % 2 = 0 then (m, e) else (2 * m, e - 1)
      let r := isqrt (m * 2 ^ 240)
      (.fin false r (e / 2 - 120) (r * r != m * 2 ^ 240), 0#8)
  | .exp2, .inf neg => (if neg then .fin false 0 0 false else .inf false, 0#8)
  | .exp2, .fin neg m e _ =>
    if m = 0 then (one, 0#8)
    else if magLt 1 11 m e then (if neg then .fin false 1 (-2048) true else .fin false 1 2048 true, 0#8)
    else (exp2Num neg m e, 0#8)
  | .log2, .inf neg => if neg then (.nan false false, fNV) else (.inf false, 0#8)
  | .log2, .fin neg m e _ =>
    if m = 0 then (.inf true, fDZ) else if neg then (.nan false false, fNV) else (log2Num m e, 0#8)
  | .sin, .inf _ => (.nan false false, fNV)
  | .sin, .fin neg m e more => if m = 0 then (.fin neg m e more, 0#8) else (trigNum false neg m e, 0#8)
  | .cos, .inf _ => (.nan false false, fNV)
  | .cos, .fin neg m e _ => if m = 0 then (one, 0#8) else (trigNum true neg m e, 0#8)
  | .tanh, .inf neg => (.fin neg 1 0 false, 0#8)
  | .tanh, .fin neg m e more => if m = 0 then (.fin neg m e more, 0#8) else (tanhNum neg m e, 0#8)
  | _, .nan _ _ => (.nan false false, 0#8)

/-- A special-function entry (R155): code and flags. -/
def special (g : SFn) (r : RM) (a : Nat) : Nat × BitVec 8 :=
  let x := Fmt.f32.decode r.ftz a
  let (v, fl) := sfn g x
  let (u, fl') := Fmt.f32.pack false r v
  (u, sigFlag [x] ||| fl ||| fl')

/-- FRND (R155): an integral value by the mode; neither NX nor UF. -/
def frnd (r : RM) (a : Nat) : Nat × BitVec 8 :=
  let x := Fmt.f32.decode r.ftz a
  match x with
  | .nan _ sg => (Fmt.f32.nanCode false, if sg then fNV else 0#8)
  | .inf _ => (a, 0#8)
  | .fin neg m e more =>
    if m = 0 then (Fmt.f32.encode x, 0#8) else (Fmt.f32.codeOf neg (roundMag r neg m e more 0).1 0, 0#8)

/-- FFRC (R155): a − floor(a), rounded by RNE. -/
def ffrc (r : RM) (a : Nat) : Nat × BitVec 8 :=
  let x := Fmt.f32.decode r.ftz a
  match x with
  | .nan _ sg => (Fmt.f32.nanCode false, if sg then fNV else 0#8)
  | .inf _ => (Fmt.f32.nanCode false, fNV)
  | .fin neg m e _ =>
    if 0 ≤ e then (0, 0#8)
    else
      let d := 2 ^ (-e).toNat
      let f := m % d
      let g := if neg && f != 0 then d - f else f
      let (u, fl) := Fmt.f32.pack false { r with rnd := .rne, sat := .none } (.fin false g e false)
      if u = 0x3F800000 then (0x3F7FFFFF, fl ||| fNX) else (u, fl)

/-! Draw pairs (R123 to R126). -/

/-- A draw pair: an FP32 log-weight and an index. -/
structure Pair where
  l : Nat
  i : Nat
  deriving DecidableEq, Repr

/-- The FP32 code of −∞, the largest finite FP32 code, and the index NONE. -/
def negInf : Nat := 0xFF800000
def maxCode : Nat := 0x7F7FFFFF
def noneIdx : Nat := 0xFFFFFFFF
/-- No mass. -/
def Pair.empty : Pair := ⟨negInf, noneIdx⟩

/-- A pair in 64 bits (R123). -/
def Pair.word (p : Pair) : DWord := BitVec.ofNat 64 (p.l % 2 ^ 32 + (p.i % 2 ^ 32) * 2 ^ 32)
def Pair.ofWord (x : DWord) : Pair := ⟨x.toNat % 2 ^ 32, x.toNat / 2 ^ 32⟩

/-- A rounded result beyond FP32 is the largest finite value with SAT (R123, R124). -/
def packDraw (x : Num) : Nat × BitVec 8 :=
  let (u, fl) := Fmt.f32.pack false { RM.plain with sat := .range } x
  (u, fl &&& fSAT)

/-- A leaf (R123): pair and flags. -/
def leaf (t x i : Nat) : Pair × BitVec 8 :=
  let tv := Fmt.f32.decode false t
  let xv := Fmt.f32.decode false x
  if tv.isNan || (tv.neg && !tv.isZero) then (Pair.empty, fNV)
  else if xv.isNan then (Pair.empty, fNV)
  else if x % 2 ^ 32 = negInf then (Pair.empty, 0#8)
  else
    let (x', xv', fl) := match xv with
      | .inf _ => (maxCode, Fmt.f32.maxNum false, fSAT)
      | y => (x % 2 ^ 32, y, 0#8)
    if tv.isZero then (⟨x', i⟩, fl)
    else
      match tv, xv' with
      | .inf _, _ => (⟨0, i⟩, fl)
      | .fin _ n k _, .fin neg m e _ =>
        let v : Num := if m = 0 then .fin neg 0 0 false else quotient neg m n (e - k)
        let (u, fl') := packDraw v
        (⟨u, i⟩, fl ||| fl')
      | _, _ => (Pair.empty, fl)

/-- A pair as every merge reads it (R124). -/
def Pair.read (p : Pair) : Pair × BitVec 8 :=
  match Fmt.f32.decode false p.l with
  | .nan _ _ => (Pair.empty, fNV)
  | .inf neg => if neg then (p, 0#8) else (⟨maxCode, p.i⟩, fSAT)
  | _ => (p, 0#8)

/-- log2(2^a + 2^b) for a above b, the difference d = n · 2^q not zero: a + log2(1 + 2^−d). -/
def logSum (neg : Bool) (m : Nat) (e : Int) (n : Nat) (q : Int) : Num :=
  let up := (if magLt 1 9 n q then (if neg then justBelow neg m e else justAbove neg m e)
    else
      let d := match exp2Num true n q with
        | .fin _ x k _ => toFix FP x k
        | _ => 0
      let t := lnFix FP (2 ^ FP + d) * 2 ^ FP / ln2Fix FP
      let v : Int := (if neg then -(toFix FP m e : Int) else toFix FP m e) + t
      if 0 ≤ v then fixNum false v.toNat else fixNum true ((-v).toNat - 1))
  if m = 0 ∧ magLt 1 9 n q then .fin false 1 (-600) true else up

/-- The threshold floor(2^(Lb − L) · 2^24) for Lb − L = ±m · 2^e (R124). -/
def threshold (x : Num) : Nat :=
  match x with
  | .fin neg m e _ =>
    if m = 0 then 2 ^ 24
    else if !neg then 2 ^ 24
    else if magLt 32 0 m e then 0
    else match exp2Num true m e with
      | .fin _ y k _ => min (floorMag y (k + 24)) (2 ^ 24)
      | _ => 0
  | _ => 0

/-- The exact difference of two finite values. -/
def subNum (x y : Num) : Num :=
  match y with
  | .fin b n k more => (addNum .rne x (.fin (!b) n k more)).1
  | _ => x

/-- Merge two pairs with generator value u (R124): the pair and the flags. -/
def mergePairs (a b : Pair) (u : Nat) : Pair × BitVec 8 :=
  let (a, fa) := a.read
  let (b, fb) := b.read
  let fl := fa ||| fb
  if a.l = negInf ∧ b.l = negInf then (Pair.empty, fl)
  else if b.l = negInf then (a, fl)
  else if a.l = negInf then (b, fl)
  else
    let x := Fmt.f32.decode false a.l
    let y := Fmt.f32.decode false b.l
    if x.same y then
      let (l, fl') := packDraw ((addNum .rne x (.fin false 1 0 false)).1)
      (⟨l, if u < 2 ^ 23 then b.i else a.i⟩, fl ||| fl')
    else
      let (hi, lo) := if x.lt y then (y, x) else (x, y)
      match hi, subNum hi lo with
      | .fin neg m e _, .fin _ n q _ =>
        let (l, fl') := packDraw (logSum neg m e n q)
        let thr := threshold (subNum y (Fmt.f32.decode false l))
        (⟨l, if u < thr then b.i else a.i⟩, fl ||| fl')
      | _, _ => (a, fl)

/-- Argmax of two pairs (R125). -/
def maxPairs (a b : Pair) : Pair × BitVec 8 :=
  let (a, fa) := a.read
  let (b, fb) := b.read
  let x := Fmt.f32.decode false a.l
  let y := Fmt.f32.decode false b.l
  let p :=
    if b = Pair.empty then a else if a = Pair.empty then b
    else if x.lt y then b else if y.lt x then a else if b.i < a.i then b else a
  (p, fa ||| fb)

/-- The tree of a draw (R126): node `n` of a tree of depth `d` over the leaves `xs`; absent leaves are none. -/
def drawTree (argmax : Bool) (key base : DWord) : Nat → Nat → List (Option Pair) → Option Pair × BitVec 8
  | 0, _, xs => ((xs.head?).getD none, 0#8)
  | d + 1, n, xs =>
    let h := 2 ^ d
    let (a, fa) := drawTree argmax key base d (2 * n + 1) (xs.take h)
    let (b, fb) := drawTree argmax key base d (2 * n + 2) (xs.drop h)
    match a, b with
    | none, _ => (b, fa ||| fb)
    | _, none => (a, fa ||| fb)
    | some a, some b =>
      let (p, fl) := if argmax then maxPairs a b else mergePairs a b (drawU key (base + BitVec.ofNat 64 n))
      (some p, fa ||| fb ||| fl)

end Sys2Proof.Machine
end

