-- ==== Sys2Proof/Machine/Floating.lean ====
section
/-! DEFINITION. Floating-point instructions (R152 to R156). -/

namespace Sys2Proof.Machine

open Sys2Proof

/-- An FP32 function of three sources, rounded as the group says. -/
def f32Fn (c : Ctx) (p : Pfx) (op : FOp) (s : State) (i : Nat) (v : List Word) : Word × BitVec 8 :=
  let r := farith .f32 op (laneRM s c p i 0) (at' v 0).toNat (at' v 1).toNat (at' v 2).toNat
  (BitVec.ofNat 32 r.1, r.2)

/-- Whether PFX.RS sets flush-to-zero. -/
def ftzOf (p : Pfx) : Bool := (p.rs.map (fun r => r.ftz)).getD false

/-- FMIN and FMAX (R153). -/
def fmmFn (p : Pfx) (isMax : Bool) (_ : State) (_ : Nat) (v : List Word) : Word × BitVec 8 :=
  let r := fminmax .f32 isMax (ftzOf p) (at' v 0).toNat (at' v 1).toNat
  (BitVec.ofNat 32 r.1, r.2)

/-- FCMP (R154). -/
def fcmpTrue (p : Pfx) (cc : Nat) (v : List Word) : Bool × BitVec 8 :=
  fcompare .f32 cc (ftzOf p) (at' v 0).toNat (at' v 1).toNat

/-- The type of a packed entry (R152). -/
def halfFmt (bf16 : Bool) : Fmt := if bf16 then .bf16 else .f16

/-- A function done independently on each half, element 0 the low one (R156). -/
def halves (f : Nat → Nat → Nat → Nat → Nat × BitVec 8) (v : List Word) : Word × BitVec 8 :=
  let h (k j : Nat) : Nat := bitsN (at' v j).toNat (16 * k) 16
  let lo := f 0 (h 0 0) (h 0 1) (h 0 2)
  let hi := f 1 (h 1 0) (h 1 1) (h 1 2)
  (BitVec.ofNat 32 (lo.1 % 2 ^ 16 + hi.1 % 2 ^ 16 * 2 ^ 16), lo.2 ||| hi.2)

/-- HADD2, HMUL2, HFMA2 (R156). -/
def halfFn (c : Ctx) (p : Pfx) (op : FOp) (bf16 : Bool) (s : State) (i : Nat) (v : List Word) : Word × BitVec 8 :=
  halves (fun k x y z => farith (halfFmt bf16) op (laneRM s c p i k) x y z) v

/-- HMIN2 and HMAX2 (R153, R156). -/
def halfMm (p : Pfx) (isMax bf16 : Bool) (_ : State) (_ : Nat) (v : List Word) : Word × BitVec 8 :=
  halves (fun _ x y _ => fminmax (halfFmt bf16) isMax (ftzOf p) x y) v

/-- HCMP2 (R154): 0xFFFF or 0 in each half. -/
def halfCmp (p : Pfx) (cc : Nat) (bf16 : Bool) (_ : State) (_ : Nat) (v : List Word) : Word × BitVec 8 :=
  halves (fun _ x y _ => let r := fcompare (halfFmt bf16) cc (ftzOf p) x y; (if r.1 then 0xFFFF else 0, r.2)) v

/-- A special function of one source. -/
def sfnFn (c : Ctx) (p : Pfx) (g : SFn) (s : State) (i : Nat) (v : List Word) : Word × BitVec 8 :=
  let r := special g (laneRM s c p i 0) (at' v 0).toNat
  (BitVec.ofNat 32 r.1, r.2)

/-- FADD, 32-bit form (R152, R153). -/
def execFadd32 (p : Pfx) (w : W0) (s : State) : Out :=
  issue p (WF.fadd_32 p w) s (fun c => alu c w (Dst.ofCode w.d) (ab32 w) (f32Fn c p .add))

/-- FADD, 64-bit form (R152, R153). -/
def execFadd64 (p : Pfx) (w : W0) (x : W1) (s : State) : Out :=
  issue p (WF.fadd_64 p w x) s (fun c => alu c w (dstD w x) (abImm immF w x) (f32Fn c p .add))

/-- FADD, 96-bit form (R152, R153). -/
def execFadd96 (p : Pfx) (w : W0) (x : W1) (lit : Word) (s : State) : Out :=
  issue p (WF.fadd_96 p w x lit) s (fun c => alu c w (dstD w x) (abLit w x lit) (f32Fn c p .add))

/-- FMUL, 32-bit form (R152, R153). -/
def execFmul32 (p : Pfx) (w : W0) (s : State) : Out :=
  issue p (WF.fmul_32 p w) s (fun c => alu c w (Dst.ofCode w.d) (ab32 w) (f32Fn c p .mul))

/-- FMUL, 64-bit form (R152, R153). -/
def execFmul64 (p : Pfx) (w : W0) (x : W1) (s : State) : Out :=
  issue p (WF.fmul_64 p w x) s (fun c => alu c w (dstD w x) (abImm immF w x) (f32Fn c p .mul))

/-- FMUL, 96-bit form (R152, R153). -/
def execFmul96 (p : Pfx) (w : W0) (x : W1) (lit : Word) (s : State) : Out :=
  issue p (WF.fmul_96 p w x lit) s (fun c => alu c w (dstD w x) (abLit w x lit) (f32Fn c p .mul))

/-- FFMA, 32-bit form (R152, R153). -/
def execFfma32 (p : Pfx) (w : W0) (s : State) : Out :=
  issue p (WF.ffma_32 p w) s (fun c => alu c w (Dst.ofCode w.d) (abc32 w) (f32Fn c p .fma))

/-- FFMA, 64-bit form (R152, R153). -/
def execFfma64 (p : Pfx) (w : W0) (x : W1) (s : State) : Out :=
  issue p (WF.ffma_64 p w x) s (fun c => alu c w (dstD w x) (abcImm immF w x) (f32Fn c p .fma))

/-- FFMA, 96-bit form (R152, R153). -/
def execFfma96 (p : Pfx) (w : W0) (x : W1) (lit : Word) (s : State) : Out :=
  issue p (WF.ffma_96 p w x lit) s (fun c => alu c w (dstD w x) (abcLit w x lit) (f32Fn c p .fma))

/-- FMIN, 32-bit form (R153). -/
def execFmin32 (p : Pfx) (w : W0) (s : State) : Out :=
  issue p (WF.fmin_32 p w) s (fun c => alu c w (Dst.ofCode w.d) (ab32 w) (fmmFn p false))

/-- FMIN, 64-bit form (R153). -/
def execFmin64 (p : Pfx) (w : W0) (x : W1) (s : State) : Out :=
  issue p (WF.fmin_64 p w x) s (fun c => alu c w (dstD w x) (abImm immF w x) (fmmFn p false))

/-- FMIN, 96-bit form (R153). -/
def execFmin96 (p : Pfx) (w : W0) (x : W1) (lit : Word) (s : State) : Out :=
  issue p (WF.fmin_96 p w x lit) s (fun c => alu c w (dstD w x) (abLit w x lit) (fmmFn p false))

/-- FMAX, 32-bit form (R153). -/
def execFmax32 (p : Pfx) (w : W0) (s : State) : Out :=
  issue p (WF.fmax_32 p w) s (fun c => alu c w (Dst.ofCode w.d) (ab32 w) (fmmFn p true))

/-- FMAX, 64-bit form (R153). -/
def execFmax64 (p : Pfx) (w : W0) (x : W1) (s : State) : Out :=
  issue p (WF.fmax_64 p w x) s (fun c => alu c w (dstD w x) (abImm immF w x) (fmmFn p true))

/-- FMAX, 96-bit form (R153). -/
def execFmax96 (p : Pfx) (w : W0) (x : W1) (lit : Word) (s : State) : Out :=
  issue p (WF.fmax_96 p w x lit) s (fun c => alu c w (dstD w x) (abLit w x lit) (fmmFn p true))

/-- FCMP, 32-bit form (R154). -/
def execFcmp32 (p : Pfx) (w : W0) (s : State) : Out :=
  issue p (WF.fcmp_32 p w) s (fun c => cmpBody c w (field w.d 0 3).toNat (ab32 w) (fcmpTrue p (field w.d 3 3).toNat))

/-- FCMP, 64-bit form (R154). -/
def execFcmp64 (p : Pfx) (w : W0) (x : W1) (s : State) : Out :=
  issue p (WF.fcmp_64 p w x) s (fun c => cmpBody c w (field w.d 0 3).toNat (abImm immF w x) (fcmpTrue p (field w.d 3 3).toNat))

/-- FCMP, 96-bit form (R154). -/
def execFcmp96 (p : Pfx) (w : W0) (x : W1) (lit : Word) (s : State) : Out :=
  issue p (WF.fcmp_96 p w x lit) s (fun c => cmpBody c w (field w.d 0 3).toNat (abLit w x lit) (fcmpTrue p (field w.d 3 3).toNat))

/-- HADD2, 32-bit form (R156). -/
def execHadd232 (p : Pfx) (w : W0) (s : State) : Out :=
  issue p (WF.hadd2_32 p w) s (fun c => alu c w (Dst.ofCode w.d) (ab32 w) (halfFn c p .add false))

/-- HADD2, 64-bit form (R156). -/
def execHadd264 (p : Pfx) (w : W0) (x : W1) (s : State) : Out :=
  issue p (WF.hadd2_64 p w x) s (fun c => alu c w (dstD w x) (abImm immH w x) (halfFn c p .add (x.c.getLsbD 0)))

/-- HADD2, 96-bit form (R156). -/
def execHadd296 (p : Pfx) (w : W0) (x : W1) (lit : Word) (s : State) : Out :=
  issue p (WF.hadd2_96 p w x lit) s (fun c => alu c w (dstD w x) (abLit w x lit) (halfFn c p .add (x.c.getLsbD 0)))

/-- HMUL2, 32-bit form (R156). -/
def execHmul232 (p : Pfx) (w : W0) (s : State) : Out :=
  issue p (WF.hmul2_32 p w) s (fun c => alu c w (Dst.ofCode w.d) (ab32 w) (halfFn c p .mul false))

/-- HMUL2, 64-bit form (R156). -/
def execHmul264 (p : Pfx) (w : W0) (x : W1) (s : State) : Out :=
  issue p (WF.hmul2_64 p w x) s (fun c => alu c w (dstD w x) (abImm immH w x) (halfFn c p .mul (x.c.getLsbD 0)))

/-- HMUL2, 96-bit form (R156). -/
def execHmul296 (p : Pfx) (w : W0) (x : W1) (lit : Word) (s : State) : Out :=
  issue p (WF.hmul2_96 p w x lit) s (fun c => alu c w (dstD w x) (abLit w x lit) (halfFn c p .mul (x.c.getLsbD 0)))

/-- HMIN2, 32-bit form (R156). -/
def execHmin232 (p : Pfx) (w : W0) (s : State) : Out :=
  issue p (WF.hmin2_32 p w) s (fun c => alu c w (Dst.ofCode w.d) (ab32 w) (halfMm p false false))

/-- HMIN2, 64-bit form (R156). -/
def execHmin264 (p : Pfx) (w : W0) (x : W1) (s : State) : Out :=
  issue p (WF.hmin2_64 p w x) s (fun c => alu c w (dstD w x) (abImm immH w x) (halfMm p false (x.c.getLsbD 0)))

/-- HMIN2, 96-bit form (R156). -/
def execHmin296 (p : Pfx) (w : W0) (x : W1) (lit : Word) (s : State) : Out :=
  issue p (WF.hmin2_96 p w x lit) s (fun c => alu c w (dstD w x) (abLit w x lit) (halfMm p false (x.c.getLsbD 0)))

/-- HMAX2, 32-bit form (R156). -/
def execHmax232 (p : Pfx) (w : W0) (s : State) : Out :=
  issue p (WF.hmax2_32 p w) s (fun c => alu c w (Dst.ofCode w.d) (ab32 w) (halfMm p true false))

/-- HMAX2, 64-bit form (R156). -/
def execHmax264 (p : Pfx) (w : W0) (x : W1) (s : State) : Out :=
  issue p (WF.hmax2_64 p w x) s (fun c => alu c w (dstD w x) (abImm immH w x) (halfMm p true (x.c.getLsbD 0)))

/-- HMAX2, 96-bit form (R156). -/
def execHmax296 (p : Pfx) (w : W0) (x : W1) (lit : Word) (s : State) : Out :=
  issue p (WF.hmax2_96 p w x lit) s (fun c => alu c w (dstD w x) (abLit w x lit) (halfMm p true (x.c.getLsbD 0)))

/-- HFMA2, 32-bit form (R156). -/
def execHfma232 (p : Pfx) (w : W0) (s : State) : Out :=
  issue p (WF.hfma2_32 p w) s (fun c => alu c w (Dst.ofCode w.d) (abc32 w) (halfFn c p .fma false))

/-- HFMA2, 64-bit form (R156). -/
def execHfma264 (p : Pfx) (w : W0) (x : W1) (s : State) : Out :=
  issue p (WF.hfma2_64 p w x) s (fun c => alu c w (dstD w x) (abc64 w x) (halfFn c p .fma (x.hi.getLsbD 0)))

/-- HFMA2, 96-bit form (R156). -/
def execHfma296 (p : Pfx) (w : W0) (x : W1) (lit : Word) (s : State) : Out :=
  issue p (WF.hfma2_96 p w x lit) s (fun c => alu c w (dstD w x) (abcLit w x lit) (halfFn c p .fma (x.hi.getLsbD 0)))

/-- HCMP2, 32-bit form: eq.f16 (R154, R156). -/
def execHcmp232 (p : Pfx) (w : W0) (s : State) : Out :=
  issue p (WF.hcmp2_32 p w) s (fun c => alu c w (Dst.ofCode w.d) (ab32 w) (halfCmp p 0 false))

/-- HCMP2, 64-bit form (R154, R156). -/
def execHcmp264 (p : Pfx) (w : W0) (x : W1) (s : State) : Out :=
  issue p (WF.hcmp2_64 p w x) s (fun c => alu c w (dstD w x) (abImm immH w x) (halfCmp p (field x.c 1 3).toNat (x.c.getLsbD 0)))

/-- HCMP2, 96-bit form (R154, R156). -/
def execHcmp296 (p : Pfx) (w : W0) (x : W1) (lit : Word) (s : State) : Out :=
  issue p (WF.hcmp2_96 p w x lit) s (fun c => alu c w (dstD w x) (abLit w x lit) (halfCmp p (field x.c 1 3).toNat (x.c.getLsbD 0)))

/-- FRCP (R155). -/
def execFrcp (p : Pfx) (w : W0) (s : State) : Out :=
  issue p (WF.frcp p w) s (fun c => alu c w (Dst.ofCode w.d) [(w.luA, .code w.a)] (sfnFn c p .rcp))

/-- FRSQ (R155). -/
def execFrsq (p : Pfx) (w : W0) (s : State) : Out :=
  issue p (WF.frsq p w) s (fun c => alu c w (Dst.ofCode w.d) [(w.luA, .code w.a)] (sfnFn c p .rsq))

/-- FSQRT (R155). -/
def execFsqrt (p : Pfx) (w : W0) (s : State) : Out :=
  issue p (WF.fsqrt p w) s (fun c => alu c w (Dst.ofCode w.d) [(w.luA, .code w.a)] (sfnFn c p .sqrt))

/-- FEXP2 (R155). -/
def execFexp2 (p : Pfx) (w : W0) (s : State) : Out :=
  issue p (WF.fexp2 p w) s (fun c => alu c w (Dst.ofCode w.d) [(w.luA, .code w.a)] (sfnFn c p .exp2))

/-- FLOG2 (R155). -/
def execFlog2 (p : Pfx) (w : W0) (s : State) : Out :=
  issue p (WF.flog2 p w) s (fun c => alu c w (Dst.ofCode w.d) [(w.luA, .code w.a)] (sfnFn c p .log2))

/-- FSIN (R155). -/
def execFsin (p : Pfx) (w : W0) (s : State) : Out :=
  issue p (WF.fsin p w) s (fun c => alu c w (Dst.ofCode w.d) [(w.luA, .code w.a)] (sfnFn c p .sin))

/-- FCOS (R155). -/
def execFcos (p : Pfx) (w : W0) (s : State) : Out :=
  issue p (WF.fcos p w) s (fun c => alu c w (Dst.ofCode w.d) [(w.luA, .code w.a)] (sfnFn c p .cos))

/-- FTANH (R155). -/
def execFtanh (p : Pfx) (w : W0) (s : State) : Out :=
  issue p (WF.ftanh p w) s (fun c => alu c w (Dst.ofCode w.d) [(w.luA, .code w.a)] (sfnFn c p .tanh))

/-- FRND (R155). -/
def execFrnd (p : Pfx) (w : W0) (s : State) : Out :=
  issue p (WF.frnd p w) s (fun c => alu c w (Dst.ofCode w.d) [(w.luA, .code w.a)] (fun s i v => let r := frnd (laneRM s c p i 0) (at' v 0).toNat; (BitVec.ofNat 32 r.1, r.2)))

/-- FFRC (R155). -/
def execFfrc (p : Pfx) (w : W0) (s : State) : Out :=
  issue p (WF.ffrc p w) s (fun c => alu c w (Dst.ofCode w.d) [(w.luA, .code w.a)] (fun s i v => let r := ffrc (laneRM s c p i 0) (at' v 0).toNat; (BitVec.ofNat 32 r.1, r.2)))

end Sys2Proof.Machine
end

