-- ==== Sys2Proof/Machine/Integer.lean ====
section
/-! DEFINITION. Integer, logic and bit-field instructions (R149 to R151). -/

namespace Sys2Proof.Machine

open Sys2Proof

/-- A word read by `.t`: signed under `.s32`, unsigned under `.b32`. -/
def ext (b32 : Bool) (x : Word) : Int := if b32 then x.toNat else x.toInt

/-- The type bit of M in C. -/
def typeC (x : W1) : Bool := x.c.getLsbD 0

/-- An exact integer result: wrapped, or clamped to the range of `.t` with SAT (R150). -/
def intResult (p : Pfx) (b32 : Bool) (x : Int) : Word × BitVec 8 :=
  let lo : Int := if b32 then 0 else -(2 ^ 31)
  let hi : Int := if b32 then 2 ^ 32 - 1 else 2 ^ 31 - 1
  if p.rs.map (fun r => r.sat) = some .range then
    if x < lo then (BitVec.ofInt 32 lo, fSAT) else if hi < x then (BitVec.ofInt 32 hi, fSAT) else (BitVec.ofInt 32 x, 0#8)
  else (BitVec.ofInt 32 x, 0#8)

/-- A two-source integer function of R150. -/
def int2 (p : Pfx) (b32 : Bool) (f : Int → Int → Int) (_ : State) (_ : Nat) (v : List Word) : Word × BitVec 8 :=
  intResult p b32 (f (ext b32 (at' v 0)) (ext b32 (at' v 1)))

/-- A function of words with no flags. -/
def word2 (f : Word → Word → Word) (_ : State) (_ : Nat) (v : List Word) : Word × BitVec 8 := (f (at' v 0) (at' v 1), 0#8)
def word3 (f : Word → Word → Word → Word) (_ : State) (_ : Nat) (v : List Word) : Word × BitVec 8 :=
  (f (at' v 0) (at' v 1) (at' v 2), 0#8)
def word1 (f : Word → Word) (_ : State) (_ : Nat) (v : List Word) : Word × BitVec 8 := (f (at' v 0), 0#8)

/-- IMULH: the high half of the exact product. -/
def mulHigh (x y : Int) : Int := x * y / 2 ^ 32
/-- SHL, SHR, SAR, ROT (R150): B is an unsigned count. -/
def shlW (a b : Word) : Word := if b.toNat < 32 then a <<< b.toNat else 0#32
def shrW (a b : Word) : Word := if b.toNat < 32 then a >>> b.toNat else 0#32
def sarW (a b : Word) : Word := a.sshiftRight (min b.toNat 31)
def rotW (a b : Word) : Word := a.rotateLeft (b.toNat % 32)
/-- SHF (R150). -/
def shfW (left : Bool) (a b c : Word) : Word :=
  let x := pair c a
  if left then hi32 (x <<< (b.toNat % 64)) else lo32 (x >>> (b.toNat % 64))
/-- BFX (R150): position in b[7:0], length in b[15:8]. -/
def bfxW (b32 : Bool) (a b : Word) : Word :=
  let pos := (field b 0 8).toNat
  let n := min (field b 8 8).toNat 32
  let f : Int := ext b32 a / 2 ^ min pos 63 % 2 ^ n
  if n = 0 then 0#32
  else if b32 then BitVec.ofInt 32 f
  else BitVec.ofInt 32 (if 2 ^ (n - 1) ≤ f then f - 2 ^ n else f)
/-- BFI (R150). -/
def bfiW (a b c : Word) : Word :=
  let pos := (field b 0 8).toNat
  let n := min (field b 8 8).toNat 32
  let m := BitVec.ofNat 32 ((2 ^ n - 1) * 2 ^ pos)
  (c &&& ~~~m) ||| (BitVec.ofNat 32 (a.toNat * 2 ^ pos) &&& m)
/-- PRMT (R150): byte j by the selector b[4j+3:4j]. -/
def prmtW (a b c : Word) : Word :=
  let x := pair c a
  let byte (j : Nat) : Byte :=
    let y := byteOf x (field b (4 * j) 3).toNat
    if b.getLsbD (4 * j + 3) then (if y.getLsbD 7 then 0xFF#8 else 0#8) else y
  (byte 3 ++ byte 2 ++ byte 1 ++ byte 0 : BitVec 32)
/-- BOOL3 (R150): bit k is f[a_k + 2 b_k + 4 c_k]. -/
def bool3W (f : BitVec 8) (a b c : Word) : Word :=
  let bit (k : Nat) : Nat := (a.getLsbD k).toNat + 2 * (b.getLsbD k).toNat + 4 * (c.getLsbD k).toNat
  maskOf (fun k => f.getLsbD (bit k))
/-- POPC, CLZ, CTZ, BREV (R150). -/
def popcW (a : Word) : Word := BitVec.ofNat 32 (popN 32 a.toNat)
def clzW (a : Word) : Word := BitVec.ofNat 32 (32 - bitLen a.toNat)
def ctzW (a : Word) : Word := BitVec.ofNat 32 (((List.range 32).find? (fun k => a.getLsbD k)).getD 32)
def brevW (a : Word) : Word := maskOf (fun k => a.getLsbD (31 - k))

/-- IADDC (R150): the carry in and out passes through bit i of k[kc], which write-back suppress does not keep from being written. -/
def iaddcBody (c : Ctx) (w : W0) (d : Dst) (xs : Srcs) (kc : Nat) (first : Bool) : M Done := do
  checkDst c d
  checkSrcs c (xs.map (fun x => x.2)) c.on
  let s ← M.st
  let k := maskReg s c kc
  let sum (i : Nat) : Nat :=
    let v := laneVals s c xs i
    (at' v 0).toNat + (at' v 1).toNat + (if !first && hasLane k.bits i then 1 else 0)
  let ls ← laneLabels c xs (fun _ i => if first then [] else [k.lbls.get 0#8 i])
  lastUse c xs
  writeLanes c w d 1 c.run (fun i => [BitVec.ofNat 32 (sum i)]) (fun i => ls.get 0#8 i)
  M.upd (writeBits c kc c.on (maskOf (fun i => decide (2 ^ 32 ≤ sum i))) (fun i => ls.get 0#8 i))
  pure .next

/-- ISEL (R150): a or b by bit i of k[ks], or by the whole register for a uniform destination. -/
def iselBody (c : Ctx) (w : W0) (d : Dst) (xs : Srcs) (ks : Nat) (inv : Bool) : M Done :=
  aluBody c w d 1 xs
    (fun s i => if d.uniform then [(maskReg s c ks).lbl] else [(maskReg s c ks).lbls.get 0#8 i])
    (fun s i v =>
      let k := (maskReg s c ks).bits
      let sel := xor (if d.uniform then k != 0#32 else hasLane k i) inv
      ([if sel then at' v 0 else at' v 1], 0#8))

/-- IMADW (R150): the pair ext(a) · ext(b) + c. -/
def imadwBody (c : Ctx) (w : W0) (d : Dst) (b32 : Bool) (xs : Srcs) : M Done :=
  aluBody c w d 2 xs (fun _ _ => []) (fun _ _ v =>
    let r := BitVec.ofInt 64 (ext b32 (at' v 0) * ext b32 (at' v 1) + (pair (at' v 3) (at' v 2)).toNat)
    ([lo32 r, hi32 r], 0#8))

/-- LEA (R150): the pair a + (ext(b) << s). -/
def leaBody (c : Ctx) (w : W0) (d : Dst) (b32 : Bool) (sh : Nat) (xs : Srcs) : M Done :=
  aluBody c w d 2 xs (fun _ _ => []) (fun _ _ v =>
    let r := BitVec.ofInt 64 ((pair (at' v 1) (at' v 0)).toNat + ext b32 (at' v 2) * 2 ^ sh)
    ([lo32 r, hi32 r], 0#8))

/-- The condition code of a comparison: dest [14:12], and C [0] above it (R151). -/
def ccOf (w : W0) (x : W1) : Nat := (field w.d 3 3).toNat + 8 * (x.c.getLsbD 0).toNat

/-- The conditions of ICMP (R151). -/
def icmpTrue (cc : Nat) (v : List Word) : Bool × BitVec 8 :=
  let a := at' v 0
  let b := at' v 1
  (match cc with
    | 0 => a == b
    | 1 => a != b
    | 2 => decide (a.toInt < b.toInt)
    | 3 => decide (a.toInt ≤ b.toInt)
    | 4 => decide (b.toInt < a.toInt)
    | 5 => decide (b.toInt ≤ a.toInt)
    | 6 => decide (a.toNat < b.toNat)
    | 7 => decide (a.toNat ≤ b.toNat)
    | 8 => decide (b.toNat < a.toNat)
    | _ => decide (b.toNat ≤ a.toNat), 0#8)

/-- IADD, 32-bit form (R149, R150). -/
def execIadd32 (p : Pfx) (w : W0) (s : State) : Out :=
  issue p (WF.iadd_32 p w) s (fun c => alu c w (Dst.ofCode w.d) (ab32 w) (int2 p false (· + ·)))

/-- IADD, 64-bit form (R149, R150). -/
def execIadd64 (p : Pfx) (w : W0) (x : W1) (s : State) : Out :=
  issue p (WF.iadd_64 p w x) s (fun c => alu c w (dstD w x) (abImm (immT (typeC x)) w x) (int2 p (typeC x) (· + ·)))

/-- IADD, 96-bit form (R149, R150). -/
def execIadd96 (p : Pfx) (w : W0) (x : W1) (lit : Word) (s : State) : Out :=
  issue p (WF.iadd_96 p w x lit) s (fun c => alu c w (dstD w x) (abLit w x lit) (int2 p (typeC x) (· + ·)))

/-- ISUB, 32-bit form (R149, R150). -/
def execIsub32 (p : Pfx) (w : W0) (s : State) : Out :=
  issue p (WF.isub_32 p w) s (fun c => alu c w (Dst.ofCode w.d) (ab32 w) (int2 p false (· - ·)))

/-- ISUB, 64-bit form (R149, R150). -/
def execIsub64 (p : Pfx) (w : W0) (x : W1) (s : State) : Out :=
  issue p (WF.isub_64 p w x) s (fun c => alu c w (dstD w x) (abImm (immT (typeC x)) w x) (int2 p (typeC x) (· - ·)))

/-- ISUB, 96-bit form (R149, R150). -/
def execIsub96 (p : Pfx) (w : W0) (x : W1) (lit : Word) (s : State) : Out :=
  issue p (WF.isub_96 p w x lit) s (fun c => alu c w (dstD w x) (abLit w x lit) (int2 p (typeC x) (· - ·)))

/-- IMUL, 32-bit form (R149, R150). -/
def execImul32 (p : Pfx) (w : W0) (s : State) : Out :=
  issue p (WF.imul_32 p w) s (fun c => alu c w (Dst.ofCode w.d) (ab32 w) (int2 p false (· * ·)))

/-- IMUL, 64-bit form (R149, R150). -/
def execImul64 (p : Pfx) (w : W0) (x : W1) (s : State) : Out :=
  issue p (WF.imul_64 p w x) s (fun c => alu c w (dstD w x) (abImm (immT (typeC x)) w x) (int2 p (typeC x) (· * ·)))

/-- IMUL, 96-bit form (R149, R150). -/
def execImul96 (p : Pfx) (w : W0) (x : W1) (lit : Word) (s : State) : Out :=
  issue p (WF.imul_96 p w x lit) s (fun c => alu c w (dstD w x) (abLit w x lit) (int2 p (typeC x) (· * ·)))

/-- IMULH, 32-bit form (R149, R150). -/
def execImulh32 (p : Pfx) (w : W0) (s : State) : Out :=
  issue p (WF.imulh_32 p w) s (fun c => alu c w (Dst.ofCode w.d) (ab32 w) (int2 p false mulHigh))

/-- IMULH, 64-bit form (R149, R150). -/
def execImulh64 (p : Pfx) (w : W0) (x : W1) (s : State) : Out :=
  issue p (WF.imulh_64 p w x) s (fun c => alu c w (dstD w x) (abImm (immT (typeC x)) w x) (int2 p (typeC x) mulHigh))

/-- IMULH, 96-bit form (R149, R150). -/
def execImulh96 (p : Pfx) (w : W0) (x : W1) (lit : Word) (s : State) : Out :=
  issue p (WF.imulh_96 p w x lit) s (fun c => alu c w (dstD w x) (abLit w x lit) (int2 p (typeC x) mulHigh))

/-- IMIN, 32-bit form (R149, R150). -/
def execImin32 (p : Pfx) (w : W0) (s : State) : Out :=
  issue p (WF.imin_32 p w) s (fun c => alu c w (Dst.ofCode w.d) (ab32 w) (int2 p false min))

/-- IMIN, 64-bit form (R149, R150). -/
def execImin64 (p : Pfx) (w : W0) (x : W1) (s : State) : Out :=
  issue p (WF.imin_64 p w x) s (fun c => alu c w (dstD w x) (abImm (immT (typeC x)) w x) (int2 p (typeC x) min))

/-- IMIN, 96-bit form (R149, R150). -/
def execImin96 (p : Pfx) (w : W0) (x : W1) (lit : Word) (s : State) : Out :=
  issue p (WF.imin_96 p w x lit) s (fun c => alu c w (dstD w x) (abLit w x lit) (int2 p (typeC x) min))

/-- IMAX, 32-bit form (R149, R150). -/
def execImax32 (p : Pfx) (w : W0) (s : State) : Out :=
  issue p (WF.imax_32 p w) s (fun c => alu c w (Dst.ofCode w.d) (ab32 w) (int2 p false max))

/-- IMAX, 64-bit form (R149, R150). -/
def execImax64 (p : Pfx) (w : W0) (x : W1) (s : State) : Out :=
  issue p (WF.imax_64 p w x) s (fun c => alu c w (dstD w x) (abImm (immT (typeC x)) w x) (int2 p (typeC x) max))

/-- IMAX, 96-bit form (R149, R150). -/
def execImax96 (p : Pfx) (w : W0) (x : W1) (lit : Word) (s : State) : Out :=
  issue p (WF.imax_96 p w x lit) s (fun c => alu c w (dstD w x) (abLit w x lit) (int2 p (typeC x) max))

/-- AND, 32-bit form (R149, R150). -/
def execAnd32 (p : Pfx) (w : W0) (s : State) : Out :=
  issue p (WF.and_32 p w) s (fun c => alu c w (Dst.ofCode w.d) (ab32 w) (word2 (· &&& ·)))

/-- AND, 64-bit form (R149, R150). -/
def execAnd64 (p : Pfx) (w : W0) (x : W1) (s : State) : Out :=
  issue p (WF.and_64 p w x) s (fun c => alu c w (dstD w x) (abImm immZ w x) (word2 (· &&& ·)))

/-- AND, 96-bit form (R149, R150). -/
def execAnd96 (p : Pfx) (w : W0) (x : W1) (lit : Word) (s : State) : Out :=
  issue p (WF.and_96 p w x lit) s (fun c => alu c w (dstD w x) (abLit w x lit) (word2 (· &&& ·)))

/-- OR, 32-bit form (R149, R150). -/
def execOr32 (p : Pfx) (w : W0) (s : State) : Out :=
  issue p (WF.or_32 p w) s (fun c => alu c w (Dst.ofCode w.d) (ab32 w) (word2 (· ||| ·)))

/-- OR, 64-bit form (R149, R150). -/
def execOr64 (p : Pfx) (w : W0) (x : W1) (s : State) : Out :=
  issue p (WF.or_64 p w x) s (fun c => alu c w (dstD w x) (abImm immZ w x) (word2 (· ||| ·)))

/-- OR, 96-bit form (R149, R150). -/
def execOr96 (p : Pfx) (w : W0) (x : W1) (lit : Word) (s : State) : Out :=
  issue p (WF.or_96 p w x lit) s (fun c => alu c w (dstD w x) (abLit w x lit) (word2 (· ||| ·)))

/-- XOR, 32-bit form (R149, R150). -/
def execXor32 (p : Pfx) (w : W0) (s : State) : Out :=
  issue p (WF.xor_32 p w) s (fun c => alu c w (Dst.ofCode w.d) (ab32 w) (word2 (· ^^^ ·)))

/-- XOR, 64-bit form (R149, R150). -/
def execXor64 (p : Pfx) (w : W0) (x : W1) (s : State) : Out :=
  issue p (WF.xor_64 p w x) s (fun c => alu c w (dstD w x) (abImm immZ w x) (word2 (· ^^^ ·)))

/-- XOR, 96-bit form (R149, R150). -/
def execXor96 (p : Pfx) (w : W0) (x : W1) (lit : Word) (s : State) : Out :=
  issue p (WF.xor_96 p w x lit) s (fun c => alu c w (dstD w x) (abLit w x lit) (word2 (· ^^^ ·)))

/-- ANDN, 32-bit form (R149, R150). -/
def execAndn32 (p : Pfx) (w : W0) (s : State) : Out :=
  issue p (WF.andn_32 p w) s (fun c => alu c w (Dst.ofCode w.d) (ab32 w) (word2 (fun a b => a &&& ~~~b)))

/-- ANDN, 64-bit form (R149, R150). -/
def execAndn64 (p : Pfx) (w : W0) (x : W1) (s : State) : Out :=
  issue p (WF.andn_64 p w x) s (fun c => alu c w (dstD w x) (abImm immZ w x) (word2 (fun a b => a &&& ~~~b)))

/-- ANDN, 96-bit form (R149, R150). -/
def execAndn96 (p : Pfx) (w : W0) (x : W1) (lit : Word) (s : State) : Out :=
  issue p (WF.andn_96 p w x lit) s (fun c => alu c w (dstD w x) (abLit w x lit) (word2 (fun a b => a &&& ~~~b)))

/-- SHL, 32-bit form (R149, R150). -/
def execShl32 (p : Pfx) (w : W0) (s : State) : Out :=
  issue p (WF.shl_32 p w) s (fun c => alu c w (Dst.ofCode w.d) (ab32 w) (word2 shlW))

/-- SHL, 64-bit form (R149, R150). -/
def execShl64 (p : Pfx) (w : W0) (x : W1) (s : State) : Out :=
  issue p (WF.shl_64 p w x) s (fun c => alu c w (dstD w x) (abImm immZ w x) (word2 shlW))

/-- SHL, 96-bit form (R149, R150). -/
def execShl96 (p : Pfx) (w : W0) (x : W1) (lit : Word) (s : State) : Out :=
  issue p (WF.shl_96 p w x lit) s (fun c => alu c w (dstD w x) (abLit w x lit) (word2 shlW))

/-- SHR, 32-bit form (R149, R150). -/
def execShr32 (p : Pfx) (w : W0) (s : State) : Out :=
  issue p (WF.shr_32 p w) s (fun c => alu c w (Dst.ofCode w.d) (ab32 w) (word2 shrW))

/-- SHR, 64-bit form (R149, R150). -/
def execShr64 (p : Pfx) (w : W0) (x : W1) (s : State) : Out :=
  issue p (WF.shr_64 p w x) s (fun c => alu c w (dstD w x) (abImm immZ w x) (word2 shrW))

/-- SHR, 96-bit form (R149, R150). -/
def execShr96 (p : Pfx) (w : W0) (x : W1) (lit : Word) (s : State) : Out :=
  issue p (WF.shr_96 p w x lit) s (fun c => alu c w (dstD w x) (abLit w x lit) (word2 shrW))

/-- SAR, 32-bit form (R149, R150). -/
def execSar32 (p : Pfx) (w : W0) (s : State) : Out :=
  issue p (WF.sar_32 p w) s (fun c => alu c w (Dst.ofCode w.d) (ab32 w) (word2 sarW))

/-- SAR, 64-bit form (R149, R150). -/
def execSar64 (p : Pfx) (w : W0) (x : W1) (s : State) : Out :=
  issue p (WF.sar_64 p w x) s (fun c => alu c w (dstD w x) (abImm immZ w x) (word2 sarW))

/-- SAR, 96-bit form (R149, R150). -/
def execSar96 (p : Pfx) (w : W0) (x : W1) (lit : Word) (s : State) : Out :=
  issue p (WF.sar_96 p w x lit) s (fun c => alu c w (dstD w x) (abLit w x lit) (word2 sarW))

/-- ROT, 32-bit form (R149, R150). -/
def execRot32 (p : Pfx) (w : W0) (s : State) : Out :=
  issue p (WF.rot_32 p w) s (fun c => alu c w (Dst.ofCode w.d) (ab32 w) (word2 rotW))

/-- ROT, 64-bit form (R149, R150). -/
def execRot64 (p : Pfx) (w : W0) (x : W1) (s : State) : Out :=
  issue p (WF.rot_64 p w x) s (fun c => alu c w (dstD w x) (abImm immZ w x) (word2 rotW))

/-- ROT, 96-bit form (R149, R150). -/
def execRot96 (p : Pfx) (w : W0) (x : W1) (lit : Word) (s : State) : Out :=
  issue p (WF.rot_96 p w x lit) s (fun c => alu c w (dstD w x) (abLit w x lit) (word2 rotW))

/-- BFX, 32-bit form (R149, R150). -/
def execBfx32 (p : Pfx) (w : W0) (s : State) : Out :=
  issue p (WF.bfx_32 p w) s (fun c => alu c w (Dst.ofCode w.d) (ab32 w) (word2 (bfxW false)))

/-- BFX, 64-bit form (R149, R150). -/
def execBfx64 (p : Pfx) (w : W0) (x : W1) (s : State) : Out :=
  issue p (WF.bfx_64 p w x) s (fun c => alu c w (dstD w x) (abImm immZ w x) (word2 (bfxW (typeC x))))

/-- BFX, 96-bit form (R149, R150). -/
def execBfx96 (p : Pfx) (w : W0) (x : W1) (lit : Word) (s : State) : Out :=
  issue p (WF.bfx_96 p w x lit) s (fun c => alu c w (dstD w x) (abLit w x lit) (word2 (bfxW (typeC x))))

/-- IMAD, 32-bit form (R149, R150). -/
def execImad32 (p : Pfx) (w : W0) (s : State) : Out :=
  issue p (WF.imad_32 p w) s (fun c => alu c w (Dst.ofCode w.d) (abc32 w) (word3 (fun a b c => a * b + c)))

/-- IMAD, 64-bit form (R149, R150). -/
def execImad64 (p : Pfx) (w : W0) (x : W1) (s : State) : Out :=
  issue p (WF.imad_64 p w x) s (fun c => alu c w (dstD w x) (abcImm immS w x) (word3 (fun a b c => a * b + c)))

/-- IMAD, 96-bit form (R149, R150). -/
def execImad96 (p : Pfx) (w : W0) (x : W1) (lit : Word) (s : State) : Out :=
  issue p (WF.imad_96 p w x lit) s (fun c => alu c w (dstD w x) (abcLit w x lit) (word3 (fun a b c => a * b + c)))

/-- BFI, 32-bit form (R149, R150). -/
def execBfi32 (p : Pfx) (w : W0) (s : State) : Out :=
  issue p (WF.bfi_32 p w) s (fun c => alu c w (Dst.ofCode w.d) (abc32 w) (word3 bfiW))

/-- BFI, 64-bit form (R149, R150). -/
def execBfi64 (p : Pfx) (w : W0) (x : W1) (s : State) : Out :=
  issue p (WF.bfi_64 p w x) s (fun c => alu c w (dstD w x) (abcImm immZ w x) (word3 bfiW))

/-- BFI, 96-bit form (R149, R150). -/
def execBfi96 (p : Pfx) (w : W0) (x : W1) (lit : Word) (s : State) : Out :=
  issue p (WF.bfi_96 p w x lit) s (fun c => alu c w (dstD w x) (abcLit w x lit) (word3 bfiW))

/-- PRMT, 32-bit form (R149, R150). -/
def execPrmt32 (p : Pfx) (w : W0) (s : State) : Out :=
  issue p (WF.prmt_32 p w) s (fun c => alu c w (Dst.ofCode w.d) (abc32 w) (word3 prmtW))

/-- PRMT, 64-bit form (R149, R150). -/
def execPrmt64 (p : Pfx) (w : W0) (x : W1) (s : State) : Out :=
  issue p (WF.prmt_64 p w x) s (fun c => alu c w (dstD w x) (abcImm immZ w x) (word3 prmtW))

/-- PRMT, 96-bit form (R149, R150). -/
def execPrmt96 (p : Pfx) (w : W0) (x : W1) (lit : Word) (s : State) : Out :=
  issue p (WF.prmt_96 p w x lit) s (fun c => alu c w (dstD w x) (abcLit w x lit) (word3 prmtW))

/-- BOOL3, 64-bit form (R149, R150). -/
def execBool364 (p : Pfx) (w : W0) (x : W1) (s : State) : Out :=
  issue p (WF.bool3_64 p w x) s (fun c => alu c w (dstD w x) (abc64 w x) (word3 (bool3W (field x.hi 0 8))))

/-- BOOL3, 96-bit form (R149, R150). -/
def execBool396 (p : Pfx) (w : W0) (x : W1) (lit : Word) (s : State) : Out :=
  issue p (WF.bool3_96 p w x lit) s (fun c => alu c w (dstD w x) (abcLit w x lit) (word3 (bool3W (field x.hi 0 8))))

/-- SHF, 32-bit form: right (R149, R150). -/
def execShf32 (p : Pfx) (w : W0) (s : State) : Out :=
  issue p (WF.shf_32 p w) s (fun c => alu c w (Dst.ofCode w.d) (abc32 w) (word3 (shfW false)))

/-- SHF, 64-bit form (R149, R150). -/
def execShf64 (p : Pfx) (w : W0) (x : W1) (s : State) : Out :=
  issue p (WF.shf_64 p w x) s (fun c => alu c w (dstD w x) (abc64 w x) (word3 (shfW (x.hi.getLsbD 0))))

/-- SHF, 96-bit form (R149, R150). -/
def execShf96 (p : Pfx) (w : W0) (x : W1) (lit : Word) (s : State) : Out :=
  issue p (WF.shf_96 p w x lit) s (fun c => alu c w (dstD w x) (abcLit w x lit) (word3 (shfW (x.hi.getLsbD 0))))

/-- IADDC, 32-bit form: k0, with carry in (R149, R150). -/
def execIaddc32 (p : Pfx) (w : W0) (s : State) : Out :=
  issue p (WF.iaddc_32 p w) s (fun c => iaddcBody c w (Dst.ofCode w.d) (ab32 w) 0 false)

/-- IADDC, 64-bit form (R149, R150). -/
def execIaddc64 (p : Pfx) (w : W0) (x : W1) (s : State) : Out :=
  issue p (WF.iaddc_64 p w x) s (fun c => iaddcBody c w (dstD w x) (abImm immS w x) (field x.c 0 3).toNat (x.c.getLsbD 3))

/-- IADDC, 96-bit form (R149, R150). -/
def execIaddc96 (p : Pfx) (w : W0) (x : W1) (lit : Word) (s : State) : Out :=
  issue p (WF.iaddc_96 p w x lit) s (fun c => iaddcBody c w (dstD w x) (abLit w x lit) (field x.c 0 3).toNat (x.c.getLsbD 3))

/-- ISEL, 32-bit form: k0 (R149, R150). -/
def execIsel32 (p : Pfx) (w : W0) (s : State) : Out :=
  issue p (WF.isel_32 p w) s (fun c => iselBody c w (Dst.ofCode w.d) (ab32 w) 0 false)

/-- ISEL, 64-bit form (R149, R150). -/
def execIsel64 (p : Pfx) (w : W0) (x : W1) (s : State) : Out :=
  issue p (WF.isel_64 p w x) s (fun c => iselBody c w (dstD w x) (abImm immS w x) (field x.c 0 3).toNat (x.c.getLsbD 3))

/-- ISEL, 96-bit form (R149, R150). -/
def execIsel96 (p : Pfx) (w : W0) (x : W1) (lit : Word) (s : State) : Out :=
  issue p (WF.isel_96 p w x lit) s (fun c => iselBody c w (dstD w x) (abLit w x lit) (field x.c 0 3).toNat (x.c.getLsbD 3))

/-- IMADW, 32-bit form: C is the pair of the destination (R149, R150). -/
def execImadw32 (p : Pfx) (w : W0) (s : State) : Out :=
  issue p (WF.imadw_32 p w) s (fun c => imadwBody c w (Dst.ofCode w.d) false (abc32 w ++ [(false, (Src.code w.d).up 1)]))

/-- IMADW, 64-bit form (R149, R150). -/
def execImadw64 (p : Pfx) (w : W0) (x : W1) (s : State) : Out :=
  issue p (WF.imadw_64 p w x) s (fun c => imadwBody c w (Dst.ofCode w.d) (x.hi.getLsbD 0) (abc64 w x ++ [(false, (Src.code x.c).up 1)]))

/-- IMADW, 96-bit form (R149, R150). -/
def execImadw96 (p : Pfx) (w : W0) (x : W1) (lit : Word) (s : State) : Out :=
  issue p (WF.imadw_96 p w x lit) s (fun c => imadwBody c w (Dst.ofCode w.d) (x.hi.getLsbD 0) (abcLit w x lit ++ [(false, (Src.code x.c).up 1)]))

/-- LEA, 32-bit form: no shift (R149, R150). -/
def execLea32 (p : Pfx) (w : W0) (s : State) : Out :=
  issue p (WF.lea_32 p w) s (fun c => leaBody c w (Dst.ofCode w.d) false 0 ([(w.luA, .code w.a), (w.luA, (Src.code w.a).up 1)] ++ [(w.luB, .code w.b)]))

/-- LEA, 64-bit form (R149, R150). -/
def execLea64 (p : Pfx) (w : W0) (x : W1) (s : State) : Out :=
  issue p (WF.lea_64 p w x) s (fun c => leaBody c w (Dst.ofCode w.d) (x.c.getLsbD 3) (field x.c 0 3).toNat ([(w.luA, .code w.a), (w.luA, (Src.code w.a).up 1)] ++ [immB (immT (x.c.getLsbD 3)) w x]))

/-- LEA, 96-bit form (R149, R150). -/
def execLea96 (p : Pfx) (w : W0) (x : W1) (lit : Word) (s : State) : Out :=
  issue p (WF.lea_96 p w x lit) s (fun c => leaBody c w (Dst.ofCode w.d) (x.c.getLsbD 3) (field x.c 0 3).toNat ([(w.luA, .code w.a), (w.luA, (Src.code w.a).up 1)] ++ [(false, .const lit)]))

/-- ICMP, 32-bit form (R151). -/
def execIcmp32 (p : Pfx) (w : W0) (s : State) : Out :=
  issue p (WF.icmp_32 p w) s (fun c => cmpBody c w (field w.d 0 3).toNat (ab32 w) (icmpTrue (field w.d 3 3).toNat))

/-- ICMP, 64-bit form (R151). -/
def execIcmp64 (p : Pfx) (w : W0) (x : W1) (s : State) : Out :=
  issue p (WF.icmp_64 p w x) s (fun c => cmpBody c w (field w.d 0 3).toNat (abImm (if 6 ≤ ccOf w x then immZ else immS) w x) (icmpTrue (ccOf w x)))

/-- ICMP, 96-bit form (R151). -/
def execIcmp96 (p : Pfx) (w : W0) (x : W1) (lit : Word) (s : State) : Out :=
  issue p (WF.icmp_96 p w x lit) s (fun c => cmpBody c w (field w.d 0 3).toNat (abLit w x lit) (icmpTrue (ccOf w x)))

/-- INEG (R149, R150). -/
def execIneg (p : Pfx) (w : W0) (s : State) : Out :=
  issue p (WF.ineg p w) s (fun c => alu c w (Dst.ofCode w.d) [(w.luA, .code w.a)] (fun _ _ v => intResult p false (-(at' v 0).toInt)))

/-- IABS (R149, R150). -/
def execIabs (p : Pfx) (w : W0) (s : State) : Out :=
  issue p (WF.iabs p w) s (fun c => alu c w (Dst.ofCode w.d) [(w.luA, .code w.a)] (fun _ _ v => intResult p false ((at' v 0).toInt.natAbs)))

/-- POPC (R149, R150). -/
def execPopc (p : Pfx) (w : W0) (s : State) : Out :=
  issue p (WF.popc p w) s (fun c => alu c w (Dst.ofCode w.d) [(w.luA, .code w.a)] (word1 popcW))

/-- CLZ (R149, R150). -/
def execClz (p : Pfx) (w : W0) (s : State) : Out :=
  issue p (WF.clz p w) s (fun c => alu c w (Dst.ofCode w.d) [(w.luA, .code w.a)] (word1 clzW))

/-- CTZ (R149, R150). -/
def execCtz (p : Pfx) (w : W0) (s : State) : Out :=
  issue p (WF.ctz p w) s (fun c => alu c w (Dst.ofCode w.d) [(w.luA, .code w.a)] (word1 ctzW))

/-- BREV (R149, R150). -/
def execBrev (p : Pfx) (w : W0) (s : State) : Out :=
  issue p (WF.brev p w) s (fun c => alu c w (Dst.ofCode w.d) [(w.luA, .code w.a)] (word1 brevW))

end Sys2Proof.Machine
end

