-- ==== Sys2Proof/Machine/CrossLane.lean ====
section
/-! DEFINITION. Cross-lane instructions (R166, R167, R175 to R179): CENSUS, ELECT, PICK, QX, PEERS, RED, SCAN, DRAW, DRAWM. -/

namespace Sys2Proof.Machine

open Sys2Proof

/-! Members (R166). -/

/-- Who takes part: the contributors, the zero members, and the label of the member mask. -/
structure Members where
  cs : LaneMask
  zeros : LaneMask
  lbl : List Label
  deriving DecidableEq, Repr

/-- The contributors and zero members together, which the entries count. -/
def Members.all (m : Members) : LaneMask := m.cs ||| m.zeros

/-- The members of a cross-lane instruction: those outside S are zero members (R166). -/
def membersOf (s : State) (c : Ctx) (p : Pfx) : Members :=
  match p.z.bind (fun z => z.member) with
  | some n =>
    let r := maskReg s c n.toNat
    ⟨r.bits &&& c.on, r.bits &&& ~~~c.act &&& ~~~(helpersOf s c.w c.act), [r.lbl]⟩
  | none => ⟨c.on, c.on &&& ~~~c.act &&& ~~~(helpersOf s c.w c.act), []⟩

/-- Whether Z is set, under which a member outside S is a zero member. -/
def zeroMembers (p : Pfx) : Bool := (p.z.map (fun z => z.z)).getD false

/-- The members of a cross-lane instruction, or MEMBER (R166). -/
def members (c : Ctx) (p : Pfx) : M Members := do
  let s ← M.st
  let m := membersOf s c p
  if m.zeros ≠ 0#32 ∧ !zeroMembers p then trap c 5 m.zeros else pure m

/-- The checks of a cross-lane instruction's sources: those of `xs` are read in the contributors, those of `ys` in every lane of on
(R224). -/
def checkCross (c : Ctx) (m : Members) (xs ys : List Src) : M Unit := do
  checkSrcs c xs m.cs
  checkSrcs c ys c.on

/-- The labels of cross-lane results (R32, R166): what the entry names, the mask label, the path label, the member mask and PFX.K. -/
def crossLabels (c : Ctx) (m : Members) (f : State → Nat → List Label) : M (SMap Label) :=
  M.run' (fun s => s.joinLanes c.w c.run (fun i => f s i ++ [c.sub.maskLabel, pathIn s c.w c.on i] ++ m.lbl ++ c.kl))

/-- The labels of a source in the lanes of a mask. -/
def lanesLbl (s : State) (c : Ctx) (x : Src) (m : LaneMask) : List Label := (lanesOf m).map (srcLbl s c x)

/-- Lanes of the quad or of the warp that a lane belongs to (R167). -/
def groupOf (quad : Bool) (i : Nat) : LaneMask := if quad then 0xF#32 <<< (i / 4 * 4) else BitVec.allOnes 32

/-! CENSUS and ELECT (R175). -/

/-- Write all 32 bits of a lane-mask register, and capture them in the active lanes (R89, R148); write-back suppress keeps the register,
and the lanes that are off then capture zero (R96) (the write with no lane on: DESIGN CHOICE, log entry 40). -/
def writeWholeMask (c : Ctx) (w : W0) (n : Nat) (bits : Word) (lbls : SMap Label) : M Unit := do
  let kept ← M.run' (fun s => if w.wbs then keptLanes c w (c.act &&& ~~~c.on) s else ([], s))
  M.upd (fun s => if w.wbs then s else setMask s c.w n bits lbls)
  M.upd (capture c w.latch.toNat ((lanesOf (if w.wbs then c.on else c.act)).foldl (fun (m : SMap Reg) i =>
    m.set Reg.zero i (maskLane bits i (lbls.get 0#8 i))) kept))

/-- The bits of a CENSUS in one group: `map` are the contributors with a nonzero value, `all` the members with the zero members. -/
def censusBits (mode : Nat) (group map all : LaneMask) (vals : List Word) : LaneMask :=
  let r : Bool :=
    if mode = 0 then map != 0#32 else if mode = 1 then map == all
    else if mode = 3 then decide (vals.dedup.length ≤ 1) else popN 32 map.toNat % 2 == 1
  if mode = 2 then map else if r then group else 0#32

/-- The bits that CENSUS writes: each group's, over the warp or over its quads (R175). -/
def censusResult (s : State) (c : Ctx) (m : Members) (a : Src) (mode : Nat) (quad : Bool) : Word :=
  let val := fun i => if hasLane m.cs i then srcVal s c a i else 0#32
  let groups := if quad then (List.range 8).map (fun q => groupOf true (4 * q)) else [groupOf false 0]
  groups.foldl (fun b g =>
    let all := m.all &&& g
    b ||| censusBits mode g (maskOf (fun i => hasLane all i && val i != 0#32)) all ((lanesOf all).map val)) 0#32

/-- CENSUS (R175). -/
def censusBody (c : Ctx) (p : Pfx) (w : W0) (a : Src) (quad : Bool) : M Done := do
  let n := (field w.d 0 3).toNat
  let mode := (field w.d 3 3).toNat
  let m ← members c p
  checkCross c m [a] []
  let s ← M.st
  let ls ← M.run' (fun s => s.joinLanes c.w (BitVec.allOnes 32) (fun i =>
    (if mode = 2 then (if hasLane m.cs i then [srcLbl s c a i] else []) else lanesLbl s c a (m.cs &&& groupOf quad i)) ++
    [c.sub.maskLabel] ++ m.lbl ++ c.kl))
  lastUse c [(w.luA, a)]
  writeWholeMask c w n (censusResult s c m a mode quad) ls
  pure .next

/-- CENSUS, 32-bit form (R175). -/
def execCensus32 (p : Pfx) (w : W0) (s : State) : Out :=
  issue p (WF.census_32 p w) s (fun c => censusBody c p w (.code w.a) false)

/-- CENSUS, 64-bit form (R175). -/
def execCensus64 (p : Pfx) (w : W0) (x : W1) (s : State) : Out :=
  issue p (WF.census_64 p w x) s (fun c => censusBody c p w (srcA w x) (x.hi.getLsbD 0))

/-- The bit that ELECT writes: the lowest contributor's, never a zero member's (R175). -/
def electBits (m : Members) : Word :=
  match lowestLane m.cs with
  | some i => laneBit i
  | none => 0#32

/-- ELECT (R175). -/
def execElect (p : Pfx) (w : W0) (s : State) : Out :=
  issue p (WF.elect p w) s (fun c => do
    let m ← members c p
    let ls ← M.run' (fun s => s.joinLanes c.w (BitVec.allOnes 32) (fun _ => [c.sub.maskLabel] ++ m.lbl ++ c.kl))
    writeWholeMask c w w.d.toNat (electBits m) ls
    pure .next)

/-! PICK and QX (R176). -/

/-- The value and label of a lane whose source lane is `j`, by the table of R176. -/
def exchange (s : State) (c : Ctx) (m : Members) (a : Src) (b : List Label) (i j : Nat) : Word × List Label :=
  if hasLane m.cs j then (srcVal s c a j, [srcLbl s c a j] ++ b ++ [c.sub.maskLabel])
  else if hasLane m.zeros j then (0#32, b ++ [c.sub.maskLabel])
  else if hasLane c.helpers j && hasLane c.helpers i then (srcVal s c a j, [srcLbl s c a j] ++ b)
  else (srcVal s c a i, [srcLbl s c a i] ++ b ++ [c.sub.maskLabel])

/-- An exchange: `src` gives each lane its source lane. -/
def exchangeBody (c : Ctx) (p : Pfx) (w : W0) (d : Dst) (a : Bool × Src) (b : List (Bool × Src)) (src : State → Nat → Nat) : M Done := do
  checkDst c d
  let m ← members c p
  checkCross c m [a.2] (a.2 :: b.map (fun x => x.2))
  let s ← M.st
  let r := fun i => exchange s c m a.2 (b.map (fun x => srcLbl s c x.2 i)) i (src s i)
  let ls ← M.run' (fun t => t.joinLanes c.w c.run (fun i => (r i).2 ++ [pathIn t c.w c.on i] ++ m.lbl ++ c.kl))
  lastUse c (a :: b)
  writeLanes c w d 1 c.run (fun i => [(r i).1]) (fun i => ls.get 0#8 i)
  pure .next

/-- The source lane of PICK (R176): mode 0 abs, 1 rot, 2 near, 3 flip, in groups of `n` lanes. -/
def pickLane (mode n i : Nat) (b : Word) : Nat :=
  let base := i / n * n
  if mode = 0 then base + b.toNat % n
  else if mode = 1 then base + (((i - base : Nat) + b.toInt) % n).toNat
  else if mode = 2 then
    let j : Int := i + b.toInt
    if (base : Int) ≤ j ∧ j < base + n then j.toNat else i
  else base + Nat.xor (i - base) (b.toNat % n)

/-- PICK, 32-bit form: abs over the warp (R176). -/
def execPick32 (p : Pfx) (w : W0) (s : State) : Out :=
  issue p (WF.pick_32 p w) s (fun c => exchangeBody c p w (Dst.ofCode w.d) (w.luA, .code w.a) [(w.luB, .code w.b)]
    (fun s i => pickLane 0 32 i (srcVal s c (.code w.b) i)))

/-- PICK, 64-bit form (R176): the immediate is zero-extended under abs and flip, sign-extended under rot and near. -/
def execPick64 (p : Pfx) (w : W0) (x : W1) (s : State) : Out :=
  issue p (WF.pick_64 p w x) s (fun c =>
    let mode := (field x.c 0 2).toNat
    let b := immB (immT (mode == 0 || mode == 3)) w x
    exchangeBody c p w (dstD w x) (w.luA, srcA w x) [b]
      (fun s i => pickLane mode (32 / 2 ^ (field x.c 2 3).toNat) i (srcVal s c b.2 i)))

/-- The source lane of QX (R176). -/
def qxLane (dir i : Nat) : Nat := i / 4 * 4 + Nat.xor (i % 4) (dir + 1)

/-- QX, 32-bit form (R176). -/
def execQx32 (p : Pfx) (w : W0) (s : State) : Out :=
  issue p (WF.qx_32 p w) s (fun c => exchangeBody c p w (Dst.ofCode w.d) (w.luA, .code w.a) [] (fun _ i => qxLane w.b.toNat i))

/-- QX, 64-bit form (R176). -/
def execQx64 (p : Pfx) (w : W0) (x : W1) (s : State) : Out :=
  issue p (WF.qx_64 p w x) s (fun c => exchangeBody c p w (dstD w x) (w.luA, srcA w x) [] (fun _ i => qxLane w.b.toNat i))

/-! PEERS (R177). -/

/-- The value of a lane that PEERS compares; `two` compares pairs. -/
def peersVal (s : State) (c : Ctx) (a : Src) (two : Bool) (i : Nat) : DWord :=
  if two then pairVal s c a i else zext (srcVal s c a i) 64

/-- What PEERS gives a lane (R177): the members with its value, all members where they agree, or how many of its peers are below it. -/
def peersResult (s : State) (c : Ctx) (m : Members) (a : Src) (mode : Nat) (two : Bool) (i : Nat) : Word :=
  let mv := fun j => if hasLane m.cs j then peersVal s c a two j else 0#64
  let same := maskOf (fun j => hasLane m.all j && mv j == peersVal s c a two i)
  if mode = 0 then same
  else if mode = 1 then (if ((lanesOf m.all).map mv).dedup.length ≤ 1 then m.all else 0#32)
  else BitVec.ofNat 32 (popN 32 (same &&& lanesBelow i).toNat)

/-- PEERS: `two` compares pairs. -/
def peersBody (c : Ctx) (p : Pfx) (w : W0) (d : Dst) (a : Src) (mode : Nat) (two : Bool) : M Done := do
  checkDst c d
  let m ← members c p
  let as := if two then [a, a.up 1] else [a]
  checkCross c m as as
  let s ← M.st
  let lbls := fun (s : State) (i : Nat) => as.map (fun x => srcLbl s c x i)
  let joined := fun (s : State) (k : LaneMask) => ((lanesOf k).map (lbls s)).flatten
  let ls ← crossLabels c m (fun s i => joined s (if mode = 2 then m.cs &&& lanesBelow i else m.cs) ++ lbls s i)
  lastUse c (as.map (fun x => (w.luA, x)))
  writeLanes c w d (if two then 2 else 1) c.run (fun i => [peersResult s c m a mode two i, 0#32]) (fun i => ls.get 0#8 i)
  pure .next

/-- PEERS, 32-bit form (R177). -/
def execPeers32 (p : Pfx) (w : W0) (s : State) : Out :=
  issue p (WF.peers_32 p w) s (fun c => peersBody c p w (Dst.ofCode w.d) (.code w.a) w.b.toNat false)

/-- PEERS, 64-bit form (R177). -/
def execPeers64 (p : Pfx) (w : W0) (x : W1) (s : State) : Out :=
  issue p (WF.peers_64 p w x) s (fun c => peersBody c p w (dstD w x) (srcA w x) w.b.toNat (x.hi.getLsbD 0))

/-! RED and SCAN (R121, R178). -/

/-- A combined value: an exact integer or a word, and the flags of the combining. -/
abbrev Comb := Int × BitVec 8

/-- One tree node of `2 ^ d` lanes from lane `i` (R121): a node with one absent subtree passes the other through. -/
def redTree (f : Int → Int → Comb) (v : Nat → Option Int) : Nat → Nat → Option Comb
  | 0, i => (v i).map (fun x => (x, 0#8))
  | d + 1, i =>
    match redTree f v d i, redTree f v d (i + 2 ^ d) with
    | none, b => b
    | a, none => a
    | some a, some b => let r := f a.1 b.1; some (r.1, a.2 ||| b.2 ||| r.2)

/-- The prefix over `n` lanes from lane `i`, `n` at most 32: aligned blocks, largest first, from left to right (R121). -/
def redPrefix (f : Int → Int → Comb) (v : Nat → Option Int) (i n : Nat) : Option Comb :=
  ([5, 4, 3, 2, 1, 0].foldl (fun (a : Nat × Option Comb) d =>
    if bitN n d then
      (a.1 + 2 ^ d, match a.2, redTree f v d a.1 with
        | none, b => b
        | x, none => x
        | some x, some y => let r := f x.1 y.1; some (r.1, x.2 ||| y.2 ||| r.2))
    else a) (i, none)).2

/-- Combining two values by op (0 add, 1 min, 2 max, 3 and, 4 or, 5 xor) and type (0 .s32, 1 .b32, 2 .f32, 3 .f16, 4 .bf16). -/
def redOp (p : Pfx) (op ty : Nat) (x y : Int) : Comb :=
  let ftz := (p.rs.map (fun r => r.ftz)).getD false
  let rm : RM := { RM.plain with rnd := (p.rs.map (fun r => r.rnd)).getD .rne, ftz := ftz }
  if ty ≤ 1 then
    if op = 0 then (x + y, 0#8) else if op = 1 then (min x y, 0#8) else if op = 2 then (max x y, 0#8)
    else
      let a := BitVec.ofInt 32 x
      let b := BitVec.ofInt 32 y
      (((if op = 3 then a &&& b else if op = 4 then a ||| b else a ^^^ b).toNat : Int), 0#8)
  else
    let a := x.toNat
    let b := y.toNat
    let g := fun (f : Fmt) (a b : Nat) => if op = 0 then farith f .add rm a b 0 else fminmax f (op == 2) ftz a b
    if ty = 2 then let r := g .f32 a b; ((r.1 : Int), r.2)
    else
      let f : Fmt := if ty = 3 then .f16 else .bf16
      let lo := g f (bitsN a 0 16) (bitsN b 0 16)
      let hi := g f (bitsN a 16 16) (bitsN b 16 16)
      (((lo.1 + hi.1 * 2 ^ 16 : Nat) : Int), lo.2 ||| hi.2)

/-- A lane's value as the combining takes it. -/
def redIn (op ty : Nat) (v : Word) : Int := if ty = 0 ∧ op ≤ 2 then v.toInt else v.toNat

/-- The identity of an empty set (R178). -/
def redIdentity (op ty : Nat) : Word :=
  if op = 1 then
    (if ty = 0 then 0x7FFFFFFF#32 else if ty = 1 then 0xFFFFFFFF#32 else if ty = 2 then 0x7F800000#32
     else if ty = 3 then 0x7C007C00#32 else 0x7F807F80#32)
  else if op = 2 then
    (if ty = 0 then 0x80000000#32 else if ty = 1 then 0#32 else if ty = 2 then 0xFF800000#32
     else if ty = 3 then 0xFC00FC00#32 else 0xFF80FF80#32)
  else if op = 3 then 0xFFFFFFFF#32 else 0#32

/-- The word of a combined value: integer sums wrap, or clamp and set SAT (R178). -/
def redOut (p : Pfx) (op ty : Nat) (r : Option Comb) : Word × BitVec 8 :=
  match r with
  | none => (redIdentity op ty, 0#8)
  | some (x, fl) => if ty ≤ 1 ∧ op = 0 then intResult p (ty == 1) x else (BitVec.ofInt 32 x, fl)

/-- The lanes that a lane of RED or SCAN combines: the first, and how many (R178). -/
def redSpan (c : Ctx) (quad scan excl : Bool) (i : Nat) : Nat × Nat :=
  let start := if quad then i / 4 * 4 else 0
  (start, if scan then i - start + (if excl then 0 else 1) else if quad then 4 else 32)

/-- What RED or SCAN gives a lane, with the flags that it sets (R178). -/
def redResult (s : State) (c : Ctx) (p : Pfx) (m : Members) (a : Src) (op ty : Nat) (quad scan excl : Bool) (i : Nat) : Word × BitVec 8 :=
  let v := fun j => if hasLane m.cs j then some (redIn op ty (srcVal s c a j)) else if hasLane m.zeros j then some (0 : Int) else none
  let n := redSpan c quad scan excl i
  redOut p op ty (redPrefix (redOp p op ty) v n.1 n.2)

/-- RED, or SCAN with its `excl` form (R178). -/
def redBody (c : Ctx) (p : Pfx) (w : W0) (d : Dst) (a : Src) (quad scan excl : Bool) : M Done := do
  let op := (field w.b 0 3).toNat
  let ty := (field w.b 3 3).toNat
  checkDst c d
  let m ← members c p
  checkCross c m [a] []
  let s ← M.st
  let r := redResult s c p m a op ty quad scan excl
  let rs := (lanesOf c.run).map (fun i => (i, [(r i).1], (r i).2))
  let ls ← crossLabels c m (fun s i => lanesLbl s c a (m.cs &&& maskOf (fun j =>
    let n := redSpan c quad scan excl i
    decide (n.1 ≤ j) && decide (j < n.1 + n.2))))
  M.upd (laneFlags c rs ls)
  lastUse c [(w.luA, a)]
  let vals : SMap (List Word) := rs.map (fun r => (r.1, r.2.1))
  writeLanes c w d 1 c.run (fun i => vals.get [] i) (fun i => ls.get 0#8 i)
  pure .next

/-- RED, 32-bit form (R178). -/
def execRed32 (p : Pfx) (w : W0) (s : State) : Out :=
  issue p (WF.red_32 p w) s (fun c => redBody c p w (Dst.ofCode w.d) (.code w.a) false false false)

/-- RED, 64-bit form (R178). -/
def execRed64 (p : Pfx) (w : W0) (x : W1) (s : State) : Out :=
  issue p (WF.red_64 p w x) s (fun c => redBody c p w (dstD w x) (srcA w x) (x.hi.getLsbD 0) false false)

/-- SCAN, 32-bit form (R178). -/
def execScan32 (p : Pfx) (w : W0) (s : State) : Out :=
  issue p (WF.scan_32 p w) s (fun c => redBody c p w (Dst.ofCode w.d) (.code w.a) false true false)

/-- SCAN, 64-bit form (R178). -/
def execScan64 (p : Pfx) (w : W0) (x : W1) (s : State) : Out :=
  issue p (WF.scan_64 p w x) s (fun c => redBody c p w (dstD w x) (srcA w x) (x.hi.getLsbD 0) true (x.hi.getLsbD 1))

/-! DRAW and DRAWM (R179). -/

/-- The four uniform registers that hold key and base. -/
def keySrcs (k : BitVec 6) : List Src := (List.range 4).map (fun j => .code (k + BitVec.ofNat 6 j))

/-- Key and base of a draw (R179). -/
def keyBase (s : State) (c : Ctx) (k : BitVec 6) : DWord × DWord :=
  (pairVal s c (.code k) 0, pairVal s c (.code (k + 2#6)) 0)

/-- The leaves of a draw: a contributor's pair, a zero member's empty one (R179). -/
def drawLeaves (s : State) (m : Members) (leaves : State → Nat → Pair × BitVec 8) : List (Option (Pair × BitVec 8)) :=
  (List.range 32).map (fun j =>
    if hasLane m.cs j then some (leaves s j) else if hasLane m.zeros j then some (Pair.empty, 0#8) else none)

/-- The roots of a draw, of the warp or of each quad (R123, R179). -/
def drawRoots (s : State) (c : Ctx) (m : Members) (k : BitVec 6) (quad argmax : Bool) (leaves : State → Nat → Pair × BitVec 8) :
    List (Option Pair × BitVec 8) :=
  let key := keyBase s c k
  let pairs := (drawLeaves s m leaves).map (fun o => o.map (fun r => r.1))
  if quad then (List.range 8).map (fun q => drawTree argmax key.1 (key.2 + BitVec.ofNat 64 (4 * q)) 2 0 ((pairs.drop (4 * q)).take 4))
  else [drawTree argmax key.1 key.2 5 0 pairs]

/-- The flags of a draw: NV and SAT of its leaves and nodes (R179). -/
def drawFlags (s : State) (m : Members) (leaves : State → Nat → Pair × BitVec 8) (roots : List (Option Pair × BitVec 8)) : BitVec 8 :=
  roots.foldl (fun f r => f ||| r.2) ((drawLeaves s m leaves).foldl (fun f o => f ||| ((o.map (fun r => r.2)).getD 0#8)) 0#8) &&& (fNV ||| fSAT)

/-- The pair that a draw gives a lane (the pair of a group with no member: DESIGN CHOICE, log entry 45). -/
def drawPair (c : Ctx) (quad : Bool) (roots : List (Option Pair × BitVec 8)) (i : Nat) : Pair :=
  (((roots[if quad then i / 4 else 0]?).getD (none, 0#8)).1).getD Pair.empty

/-- A draw over the groups: `leaves` gives each contributor's pair and its flags, `extra` the uniform sources. -/
def drawBody (c : Ctx) (p : Pfx) (w : W0) (x : W1) (lu : Srcs) (srcs extra : List Src) (argmax : State → Bool) (leaves : State → Nat → Pair × BitVec 8) :
    M Done := do
  let quad := x.hi.getLsbD 0
  let m ← members c p
  checkCross c m srcs extra
  let s ← M.st
  let roots := drawRoots s c m x.c quad (argmax s) leaves
  let ls ← crossLabels c m (fun s i =>
    (srcs.map (fun y => lanesLbl s c y (m.cs &&& groupOf quad (i)))).flatten ++ extra.map (fun y => srcLbl s c y 0))
  let all ← M.run' (fun s => s.joinList c.w ((lanesOf c.on).map (fun i => ls.get 0#8 i)))
  M.upd (fun t => setFlags t c.w (drawFlags s m leaves roots) all)
  lastUse c lu
  writeLanes c w (Dst.ofCode w.d) 2 c.run (fun i =>
    let r := drawPair c quad roots i
    [BitVec.ofNat 32 r.l, BitVec.ofNat 32 r.i]) (fun i => ls.get 0#8 i)
  pure .next

/-- The temperature register of DRAW. -/
def drawTSrc (x : W1) : Src := .code (field x.hi 1 6)

/-- DRAW (R179): leaves by R123, argmax when T is zero. -/
def execDraw (p : Pfx) (w : W0) (x : W1) (s : State) : Out :=
  issue p (WF.draw p w x) s (fun c => do
    let a := Src.code w.a
    let b := Src.code w.b
    let t := drawTSrc x
    drawBody c p w x [(w.luA, a), (w.luB, b)] [a, b] (t :: keySrcs x.c) (fun s => (srcVal s c t 0 &&& 0x7FFFFFFF#32) == 0#32)
      (fun s j => leaf (srcVal s c t 0).toNat (srcVal s c a j).toNat (srcVal s c b j).toNat))

/-- DRAWM (R179): merges pairs unchanged. -/
def execDrawm (p : Pfx) (w : W0) (x : W1) (s : State) : Out :=
  issue p (WF.drawm p w x) s (fun c => do
    let a := Src.code w.a
    drawBody c p w x [(w.luA, a), (w.luA, a.up 1)] [a, a.up 1] (keySrcs x.c) (fun _ => x.hi.getLsbD 1)
      (fun s j => (⟨(srcVal s c a j).toNat, (srcVal s c (a.up 1) j).toNat⟩, 0#8)))

end Sys2Proof.Machine
end

