-- ==== Sys2Proof/Machine/Access.lean ====
section
/-! DEFINITION. The accesses of the warp engine: addresses (R186, R187), the checks of R188 in their order, data comparators (R227),
reading and writing a place with its label (R31, R34, R192, R224). -/

namespace Sys2Proof.Machine

open Sys2Proof

/-- What an access does to its location (R188, R227, R369). -/
inductive Kind where
  | read | write | atomic | label
  deriving DecidableEq, Repr

/-- The permission that an access needs (R369). -/
def Kind.need : Kind → Need
  | .read => .read
  | .write => .write
  | .atomic => .atomic
  | .label => .label

/-- The access code of an XLATE record (R372). -/
def Kind.code : Kind → Nat
  | .read => 0
  | .write => 1
  | .atomic => 2
  | .label => 1

/-- The location of a lane's access once step 5 of R188 has passed. -/
inductive Place where
  | mem (p : Page)
  | spad (block off : Nat)
  deriving DecidableEq, Repr

/-- The places of the lanes of an instruction. -/
abbrev Places := List (Nat × Place)

/-- The place of a lane. -/
def placeOf (ps : Places) (i : Nat) : Place := (SMap.get? ps i).getD (.spad 0 0)

/-- One record of an access trap: the failing lanes, the lowest one's address with its label, and the step (R188, R212). -/
def accessTrap (c : Ctx) (e : AccessFault) (lanes : LaneMask) (addr : Nat → DWord) (lbl : Nat → Label) (access : Nat) : Stop :=
  let i := (lowestLane lanes).getD 0
  let t := { c.info e.cause lanes with addr := addr i, step := e.step, lbls := [lbl i] }
  if e = .xlate then .park t access else .trap t

/-- Whether data comparator `r` meets an access (R226, R227): its bytes overlap the range in a lane that the comparator names. The
address of a comparator is a virtual address, so that scratchpad accesses meet none. -/
def ddaMeets (s : State) (c : Ctx) (lanes : LaneMask) (addr : Nat → DWord) (n : Nat) (k : Kind) (r : BitVec 128) : Bool :=
  let a := (field r 0 64).toNat
  let len := (field r 109 7).toNat
  let kind := (field r 116 2).toNat
  r.getLsbD 107 && decide (1 ≤ len) && decide (len ≤ 64) &&
  (kind == 2 || (kind == 0 && k != .write && k != .label) || (kind == 1 && k != .read)) &&
  (if r.getLsbD 106 then field r 96 10 == BitVec.ofNat 10 c.vd else s.security.life == 0) &&
  (lanesOf lanes).any (fun i => (field r 64 32).getLsbD i && decide ((addr i).toNat < a + len) && decide (a < (addr i).toNat + n))

/-- The data comparators that an access meets; none stops a group that a comparator has matched already (R227). -/
def ddaMatch (s : State) (c : Ctx) (lanes : LaneMask) (addr : Nat → DWord) (n : Nat) (k : Kind) : List Nat :=
  if c.skip || !(s.vd c.vd).debug then []
  else (List.range 4).filter (fun d => ddaMeets s c lanes addr n k ((((s.core c.core).dda)[d]?).getD 0#128))

/-- Steps 2 to 5 of R188 for one lane. -/
def laneAccess (s : State) (c : Ctx) (spad : Bool) (a : DWord) (n : Nat) (k : Kind) : Except AccessFault Place × State :=
  if spad then
    let x := s.warp c.w
    match spadLoc s x.grid x.block (lo32 a) n with
    | some (b, off) => (.ok (.spad b off), s)
    | none => (.error .bounds, s)
  else
    match s.translate (.quad c.quad) c.vd a k.need (k != .read) true with
    | (.ok p, s) => (.ok (.mem p), s)
    | (.error e, s) => (.error e, s)

/-- Steps 2 to 5 of R188 for lanes in ascending order. -/
def lanesAccess (c : Ctx) (spad : Bool) (addr : Nat → DWord) (n : Nat) (k : Kind) : List Nat → State → List (Nat × Except AccessFault Place) × State
  | [], s => ([], s)
  | i :: is, s =>
    let (r, s) := laneAccess s c spad (addr i) n k
    let (rs, s) := lanesAccess c spad addr n k is s
    ((i, r) :: rs, s)

/-- The first step of R188 at which some lane fails. -/
def firstFault (rs : List (Nat × Except AccessFault Place)) : Option AccessFault :=
  rs.foldl (fun b r => match r.2, b with
    | .error e, some f => if e.step < f.step then some e else some f
    | .error e, none => some e
    | .ok _, b => b) none

/-- The lanes that fail at a step. -/
def failingLanes (rs : List (Nat × Except AccessFault Place)) (e : AccessFault) : LaneMask :=
  rs.foldl (fun m r => match r.2 with
    | .error f => if f.step = e.step then m ||| laneBit r.1 else m
    | .ok _ => m) 0#32

/-- Steps 1 to 5 of R188 over every lane of `lanes`, before any takes effect: the places of the lanes. -/
def checkAccess (c : Ctx) (spad : Bool) (lanes : LaneMask) (addr : Nat → DWord) (n : Nat) (k : Kind) (lbl : Nat → Label) : M Places := fun s =>
  let odd := maskOf (fun i => hasLane lanes i && (addr i).toNat % n != 0)
  if odd ≠ 0#32 then .error (accessTrap c .align odd addr lbl k.code)
  else
    match (if spad then [] else ddaMatch s c lanes addr n k) with
    | d :: ds => .error (.halt [] (d :: ds))
    | [] =>
      let (rs, t) := lanesAccess c spad addr n k (lanesOf lanes) s
      match firstFault rs with
      | some e => .error (accessTrap c e (failingLanes rs e) addr lbl k.code)
      | none => .ok (rs.filterMap (fun r => match r.2 with
          | .ok p => some (r.1, p)
          | .error _ => none), t)

/-! Reading and writing a place. -/

/-- The block of a warp's cluster that a place names. -/
def State.spadOf (s : State) (w b : Nat) : Spad := (s.block (s.warp w).grid b).spad
/-- Change a block's scratchpad. -/
def State.modSpad (s : State) (w b : Nat) (f : Spad → Spad) : State :=
  s.modBlock (s.warp w).grid b (fun x => { x with spad := f x.spad })

/-- The label of the granule at a place, as the issuing die holds it (R31, R35). -/
def placeLabel (s : State) (c : Ctx) : Place → Label
  | .mem p => s.pageLabel c.die p
  | .spad b off => (s.spadOf c.w b).label off

/-- The label that the granule at a place must dominate with at a write: an unscrubbed line counts with the label that its clear, which the
write waits for, gives it (R34, R374; DEDUCED, log entry 33). -/
def guardLabel (s : State) (c : Ctx) : Place → Label
  | .mem p => s.guardLoc c.die p
  | .spad b off => (s.spadOf c.w b).label off

/-- The `n` bytes at a place, from one state of the granule (R61, R192). -/
def placeRead (s : State) (c : Ctx) (n : Nat) : Place → List Byte
  | .mem p => s.readLoc c.die p.loc n
  | .spad b off => (s.spadOf c.w b).read off n

/-- Whether the bytes at a place are poisoned (R224, R386). -/
def placePoison (s : State) (c : Ctx) (n : Nat) : Place → Bool
  | .mem p => !p.loc.host && s.poisoned.get false (granule p.loc.pa)
  | .spad b off => (s.spadOf c.w b).poisoned off n

/-- Whether the issuing die has still to apply a write of the warp to the bytes at a place (R192). -/
def placePending (s : State) (c : Ctx) (n : Nat) : Place → Bool
  | .mem p => s.ownPending c.w c.die p.loc n
  | .spad _ _ => false

/-- Whether the issuing die has still to apply a label that the warp has raised or lowered in the granule of a place. -/
def labelPending (s : State) (c : Ctx) : Place → Bool
  | .mem p => s.flights.any (fun f => f.warp == c.w && f.op == .label && f.host == p.loc.host &&
      granule f.pa == granule p.loc.pa && !(if f.host then f.atHome else f.applied.contains c.die))
  | .spad _ _ => false

/-- Write bytes at a place (R192): scratchpad at once, global memory as a store in flight (which of the allowed results an unordered reader sees: DESIGN CHOICE, log entry 15). -/
def placeWrite (s : State) (c : Ctx) (va : DWord) (bs : List Byte) (lbl : Label) (lanes : LaneMask) : Place → State
  | .mem p => s.issueStore c.w c.die c.vd p.loc va bs lbl c.pc lanes
  | .spad b off => s.modSpad c.w b (fun x => x.write off bs)

/-! Scratchpad passes (R190, R367, R398). -/

/-- 1 MiB bank groups of a core that a quadrant's partition has: all four, or its quadrants' where the core is shared (R367). -/
def bankGroups (s : State) (q : Nat) : Nat :=
  let own := s.package.qown.get 0#16 q &&& 0x1FF#16
  let es := ((List.range 4).map (fun k => s.package.qown.get 0#16 (q / 4 * 4 + k) &&& 0x1FF#16)).filter (fun e => e.getLsbD 8)
  if es.all (fun e => e == own) then 4 else (es.filter (fun e => e == own)).length

/-- The passes of a beat (R190): per bank, the distinct rows, or with `each` every lane by itself; the most of any bank, at least 1. -/
def beatPasses (k : Nat) (offs : List Nat) (each : Bool) : Nat :=
  let at' (o : Nat) : Nat × Nat := (o / 16 % (16 * k), o / (256 * k))
  let ps := if each then offs.map at' else (offs.map at').dedup
  max 1 ((ps.map (fun p => (ps.filter (fun r => r.1 == p.1)).length)).foldl max 0)

/-- The scratchpad offsets that beat `h` of an instruction addresses in block `b`. -/
def beatOffs (ps : Places) (h b : Nat) : List Nat :=
  ps.filterMap (fun p => match p.2 with
    | .spad b' o => if b' = b ∧ p.1 / 16 = h then some o else none
    | .mem _ => none)

/-- Count `n` passes in a core's event counters. -/
def countPass (s : State) (core v n : Nat) : State := (List.range n).foldl (fun s _ => countCore s core 5 v) s

/-- Count the passes of a scratchpad instruction's two beats in the event counters of the core whose banks they take; a beat with no lane
on takes one (R190). -/
def countPasses (c : Ctx) (spad : Bool) (ps : Places) (each : Bool) (s : State) : State :=
  if !spad then s else
  let k := bankGroups s c.quad
  let beat (s : State) (h : Nat) : State :=
    match (ps.filterMap (fun p => match p.2 with
      | .spad b _ => if p.1 / 16 = h then some b else none
      | .mem _ => none)).dedup with
    | [] => countPass s c.core c.vd 1
    | bs => bs.foldl (fun s b => countPass s (s.block (s.warp c.w).grid b).core c.vd (beatPasses k (beatOffs ps h b) each)) s
  beat (beat s 0) 1

/-- A read waits until the issuing die has applied the warp's own writes to the bytes (R192). -/
def awaitReads (c : Ctx) (n : Nat) (ps : Places) : M Unit := do
  let s ← M.st
  M.await (!ps.any (fun q => placePending s c n q.2))

/-- A label check waits for the label changes that the warp itself has in flight. -/
def awaitLabels (c : Ctx) (ps : Places) : M Unit := do
  let s ← M.st
  M.await (!ps.any (fun q => labelPending s c q.2))

/-- Whether every write of a warp on the paths of a set, numbered as in R202, has been performed throughout a scope (R49, R202): up to a
die, the copy of the issuing die has applied it; beyond, every copy has. A host store is performed
at the host port. The writes of a command that has not completed are not waited for (scope .warp: DEDUCED, log entry 30). -/
def settled (s : State) (w d scope : Nat) (path : Nat → Bool) : Bool :=
  s.flights.all (fun f => f.warp != w || !path f.path || (s.cmds.get? f.cmd).isSome ||
    (if f.host then f.atHome else if scope ≤ 3 then f.applied.contains d else s.liveDies.all f.applied.contains))

/-! Sizes (R191). -/

/-- Bytes of a size code: .b8, .s8, .b16, .s16, .b32, .b64, .b128. -/
def sizeBytes (sz : Nat) : Nat := if sz ≤ 1 then 1 else if sz ≤ 3 then 2 else if sz = 4 then 4 else if sz = 5 then 8 else 16
/-- Registers of a size code. -/
def sizeRegs (sz : Nat) : Nat := if sz = 5 then 2 else if sz = 6 then 4 else 1

/-- The register values that a load of `sz` makes of its bytes (R192). -/
def loadWords (sz : Nat) (bs : List Byte) : List Word :=
  if sz = 0 ∨ sz = 2 then [BitVec.ofNat 32 (ofBytesN bs)]
  else if sz = 1 then [sext (ofBytes 8 bs) 32]
  else if sz = 3 then [sext (ofBytes 16 bs) 32]
  else (List.range (sizeRegs sz)).map (fun k => ofBytes 32 (slice bs (4 * k) 4))

/-- The bytes that a store of `sz` makes of its register values (R192). -/
def storeBytes (sz : Nat) (vs : List Word) : List Byte :=
  slice ((vs.map (fun v => toBytes v 4)).flatten) 0 (sizeBytes sz)

/-! Addresses (R186, R187). -/

/-- A lane's effective address: a pair plus the offset modulo 2^64, or a scratchpad register plus the offset modulo 2^32. -/
def effAddr (s : State) (c : Ctx) (spad : Bool) (a : Src) (off : Int) (i : Nat) : DWord :=
  if spad then zext (srcVal s c a i + BitVec.ofInt 32 off) 64 else pairVal s c a i + BitVec.ofInt 64 off

/-- The registers of an address. -/
def addrSrcs (spad : Bool) (a : Src) : List Src := if spad then [a] else [a, a.up 1]

/-- The labels of an address in a lane. -/
def addrLbls (s : State) (c : Ctx) (spad : Bool) (a : Src) (i : Nat) : List Label := (addrSrcs spad a).map (fun x => srcLbl s c x i)

/-- The join of the address labels in each lane, as the trap record shows it. -/
def addrLabel (c : Ctx) (spad : Bool) (a : Src) : M (SMap Label) :=
  M.run' (fun s => s.joinLanes c.w c.on (addrLbls s c spad a))

/-! Results of accesses. -/

/-- Mark the loaded registers of lanes poisoned, in the register file and in the latch (R224). -/
def markPoison (c : Ctx) (w : W0) (d : Dst) (n : Nat) (bad : LaneMask) : M Unit :=
  M.upd (fun s =>
    if bad = 0#32 then s
    else
      let s := if w.wbs then s
        else s.modWarp c.w (fun x => (lanesOf bad).foldl (fun x i =>
          (List.range n).foldl (fun x j => putLane x d j i { getLane x d j i with poison := true }) x) x)
      s.modQuad c.quad (fun q =>
        let l := (q.latches[w.latch.toNat]?).getD ⟨false, []⟩
        let lanes := if d.uniform then List.range 32 else lanesOf bad
        { q with latches := setAt q.latches w.latch.toNat ⟨l.valid, lanes.foldl (fun m i =>
          m.set Reg.zero i { m.get Reg.zero i with poison := true }) l.lanes⟩ }))

/-- Per-lane results with helper lanes receiving zero with label 0 (R130, R189), or one uniform result. -/
def writeLoaded (c : Ctx) (w : W0) (d : Dst) (n : Nat) (val : Nat → List Word) (lbl : SMap Label) (ulbl : Label) (bad : LaneMask) : M Unit := do
  if d.uniform then
    let i := (lowestLane c.on).getD 0
    writeUni c w d ((List.range n).map (fun j => ((val i)[j]?).getD 0#32)) ulbl
    markPoison c w d n (if bad = 0#32 then 0#32 else 1#32)
  else
    writeLanes c w d n c.run (fun i => if hasLane c.on i then val i else []) (fun i => if hasLane c.on i then lbl.get 0#8 i else 0#8)
    markPoison c w d n bad

end Sys2Proof.Machine
end

