-- ==== Sys2Proof/Machine/Flights.lean ====
section
/-! DEFINITION. Writes on their way: applying stores at their home and at replicas (R35, R51 to R53, R192), performing atomics at a
home, a switch or a bank (R42, R198, R199, R279), reduction-window lines, and delivery faults (R189, R333). -/

namespace Sys2Proof.Machine

open Sys2Proof

/-! Delivery faults (R189, R212, R333). -/

/-- The DELIVERY record of a fault that no warp receives (R333, R361). -/
def deliveryRecord (s : State) (w : Nat) (d : Delivery) : State :=
  gfRecord s (s.warp w).vd 6 (s.warp w).grid w d.pc (le 1 d.cause ++ le 3 0 ++ le 4 d.lanes.toNat ++ le 8 d.addr.toNat)

/-- A fault found after issue is reported to the warp; that of a dead warp goes to the heir of its store debt, whose own death sends
it on; without an heir it goes to the grid fault record. `n` bounds the heirs followed. -/
def deliverTo : Nat → State → Nat → Delivery → State
  | 0, s, w, d => deliveryRecord s w d
  | n + 1, s, w, d =>
    let x := s.warp w
    if x.debtDone || x.life == .dead then
      match x.debtTo with
      | some h => deliverTo n s h { d with sub := none }
      | none => deliveryRecord s w d
    else s.modWarp w (fun x => { x with deliveries := x.deliveries ++ [d] })

/-- Report a fault of a warp's access, raised at sub-warp `sub` where one waits for it (R274). -/
def deliverAt (s : State) (w cause : Nat) (pc : DWord) (lanes : LaneMask) (addr : DWord) (lbl : Label) (sub : Option SubId) : State :=
  deliverTo 64 s w ⟨cause, pc, lanes, addr, w, lbl, sub⟩

/-- Report a fault of a warp's access (R109 `deliver`). -/
def deliver (s : State) (w cause : Nat) (pc : DWord) (lanes : LaneMask) (addr : DWord) (lbl : Label) : State :=
  deliverAt s w cause pc lanes addr lbl none

/-- A delivery fault reaches a sub-warp in place of its next group (R189, R212); in handler mode it is recorded and waits for RETT
(R214). -/
def raiseDelivery (s : State) (w : Nat) (u : SubWarp) (d : Delivery) : State :=
  let x := s.warp w
  if x.handler then s.modWarp w (fun y => { y with tc := tcBit y.tc 17 })
  else
    let s := s.modWarp w (fun y => { y with deliveries := y.deliveries.erase d })
    takeTrap s w u.id
      ⟨d.cause, u.pc, d.addr, d.lanes, 0, 0, true, lo32 d.pc, hi32 d.pc, [d.lbl], [], if d.source = w then none else some d.source, false⟩

/-- The ready sub-warp of a warp with the oldest stamp. -/
def oldestReady (x : Warp) : Option SubWarp :=
  (x.subs.filter (fun u => u.hold == .ready)).foldl (fun b u =>
    match b with
    | none => some u
    | some v => if u.stamp < v.stamp then some u else some v) none

/-- The sub-warp at which a delivery fault is raised: the one that the copy's completion resumed (R274), once it is ready; else the one that
would issue next (R212). -/
def deliverySub (x : Warp) (d : Delivery) : Option SubWarp :=
  match d.sub with
  | none => oldestReady x
  | some i =>
    match x.sub i with
    | some u => if u.hold = .ready then some u else none
    | none => oldestReady x

/-- The delivery fault that the next issue opportunity of a sub-warp raises (R189, R274); while a cue sheet runs, none (R220). -/
def deliveryFor (x : Warp) (u : SubWarp) : Option Delivery :=
  if x.sheet then none else x.deliveries.find? (fun d => (deliverySub x d).map (fun v => v.id) == some u.id)

/-- DELIVERY_FAULT (R189): the oldest waiting delivery fault of a warp is raised. -/
def execDeliveryFault (w : Nat) (s : State) : Out :=
  let x := s.warp w
  match x.deliveries.head? with
  | none => .next { s with report := .disabled }
  | some d =>
    match (if x.life = .resident then deliverySub x d else none) with
    | none => .next { s with report := .disabled }
    | some u => if x.sheet ∨ (x.handler ∧ x.tc.getLsbD 17) then .next { s with report := .disabled } else .next (raiseDelivery s w u d)

/-! Atomics (R121, R124, R153, R197). -/

/-- Bytes of an atomic's type: 0 .s32, 1 .b32, 2 .s64, 3 .b64, 4 .f32, 5 .pair. -/
def atomBytes (ty : Nat) : Nat := if ty = 2 ∨ ty = 3 ∨ ty = 5 then 8 else 4

/-- The value that an atomic stores (R197). -/
def atomResult (op ty : Nat) (old b cmp key ctr : DWord) : DWord :=
  let bits := 8 * atomBytes ty
  let o := old.toNat % 2 ^ bits
  let v := b.toNat % 2 ^ bits
  let num := fun (x : Nat) => if ty = 0 ∨ ty = 2 then readInt bits true x else (x : Int)
  let out := fun (x : Nat) => BitVec.ofNat 64 (x % 2 ^ bits)
  match op with
  | 0 => if ty = 4 then out (farith .f32 .add RM.plain o v 0).1 else out (o + v)
  | 1 => if ty = 4 then out (fminmax .f32 false false o v).1 else if num v < num o then out v else out o
  | 2 => if ty = 4 then out (fminmax .f32 true false o v).1 else if num o < num v then out v else out o
  | 3 => out (Nat.land o v)
  | 4 => out (Nat.lor o v)
  | 5 => out (Nat.xor o v)
  | 6 => out v
  | 7 => if o = cmp.toNat % 2 ^ bits then out v else out o
  | 8 => if v ≤ o then out 0 else out (o + 1)
  | _ => (mergePairs (Pair.ofWord old) (Pair.ofWord b) (drawU key ctr)).1.word

/-- Where an atomic is performed: the home of a line, the switch that holds a window's line, or a scratchpad bank. -/
inductive Target where
  | mem (loc : Loc)
  | win (va : Nat)
  | spad (block off : Nat)
  deriving DecidableEq, Repr

/-- A lane of an atomic: target, virtual address, operands, the counter of a draw, the labels that R34 and R42 join, and the clock that
its request carries (R51). -/
structure AtomLane where
  lane : Nat
  tgt : Target
  va : DWord
  b : DWord
  cmp : DWord
  ctr : DWord
  lbls : List Label
  clk : List Nat
  deriving DecidableEq, Repr

/-! Reduction-window lines (R278, R279). -/

/-- A line that the switches hold for a VD. -/
def winLine? (s : State) (v va : Nat) : Option WinLine :=
  s.switchLines.find? (fun l => l.vd == v && l.va == va / 64 * 64)

/-- A line that was evicted has still to reach its home: until it has, a touch of the line waits, so that the accesses to it stay in one
co (R279). -/
def winBusy (s : State) (v va : Nat) : Bool := s.writeBacks.any (fun l => l.vd == v && l.va == va / 64 * 64)

/-- Replace a line that the switches hold. -/
def setWinLine (s : State) (l : WinLine) : State :=
  { s with switchLines := s.switchLines.map (fun m => if m.vd == l.vd && m.va == l.va then l else m) }

/-- The home of a window (R278). -/
def windowHome (s : State) (v : Nat) (va : DWord) : Nat := ((s.window v va).map (fun x => (field x 80 12).toNat)).getD 0

/-- An owner mask that the label table of a VD cannot hold sets the saturation bit of the VD's status, and a LABELSAT record tells of it (R29,
R372). -/
def setVdSat (v : Nat) (x : OwnerSet) (s : State) : State :=
  vdEvent (s.modVd v (fun d => { d with labelSat := true })) v (s.vd v).gen 6 (toBytes x 8)

/-- The handle of a packet's owner mask at this package (R29). -/
def internPacket (s : State) (v : Nat) (x : OwnerSet) : Label × State := s.intern v x (setVdSat v x)

/-- The first touch of a line fetches it from its home with its granule label and the page's floating state and ceiling, as owner masks
(R29); a home on another package answers what the peer holds (R279). -/
def touchWindow (s : State) (v va : Nat) : State :=
  match winLine? s v va with
  | some _ => s
  | none =>
    let a := BitVec.ofNat 64 (va / 64 * 64)
    let home := windowHome s v a
    let gen := (s.vd v).gen
    if home = s.package.kwid then
      match s.walk v a with
      | .leaf l =>
        let p := l.loc a
        let h := homeDie p.pa
        { s with switchLines := s.switchLines ++ [⟨0, v, a.toNat, home, s.readLoc h p 64, s.ownersOf v (s.labelLoc h p), leafBit l.bits 8,
            s.ownersOf v (leafCeiling l.bits), gen⟩] }
      | _ => s
    else
      let r := Config.peerLine home a.toNat s.free
      { s with
        free := s.free + 1
        switchLines := s.switchLines ++ [⟨0, v, a.toNat, home, slice r.1 0 64, r.2.1, r.2.2.1, r.2.2.2, gen⟩] }

/-! What a target holds. -/

/-- The join of labels as an owner mask, as a packet carries it (R29). -/
def maskOfLabels (s : State) (v : Nat) (ls : List Label) : OwnerSet := ls.foldl (fun m l => m ||| s.ownersOf v l) 0#64

/-- The label, floating state and ceiling of a target at the copy that performs the access; a window's line has owner masks instead. -/
def targetLabel (s : State) (w v : Nat) (t : Target) (va : DWord) : Label × Bool × Label :=
  match t with
  | .spad b off => ((s.spadOf w b).label off, false, 0#8)
  | .win _ => (0#8, false, 0#8)
  | .mem loc =>
    let lbl := s.labelLoc (homeDie loc.pa) loc
    match (s.findLeaf (.die (homeDie loc.pa)) v va).1 with
    | .leaf l => (lbl, leafBit l.bits 8, leafCeiling l.bits)
    | _ => (lbl, false, 0#8)

/-- The `n` bytes of a target. -/
def targetRead (s : State) (w v n : Nat) : Target → DWord
  | .spad b off => ofBytes 64 ((s.spadOf w b).read off n)
  | .win a => match winLine? s v a with
    | some l => ofBytes 64 (slice l.bytes (a % 64) n)
    | none => 0#64
  | .mem loc => ofBytes 64 (s.readLoc (homeDie loc.pa) loc n)

/-- Whether a target's line or words are poisoned at the performing copy. -/
def targetPoison (s : State) (w n : Nat) : Target → Bool
  | .spad b off => (s.spadOf w b).poisoned off n
  | .win _ => false
  | .mem loc => s.poisoned.get false (granule loc.pa)

/-- The granule of a target. -/
def targetKey : Target → Nat
  | .spad b off => b * 2 ^ 16 + granule off
  | .win a => 2 ^ 61 + granule a
  | .mem loc => 2 ^ 59 + granule loc.pa

/-- What an atomic leaves in the labels of its granules: of memory granules the handles, of window lines the owner masks. -/
structure Raised where
  mem : SMap Label
  win : SMap OwnerSet
  deriving DecidableEq, Repr

/-- Who performs an atomic: the warp, its VD, the path of the access and the command that makes it (R48). -/
structure Actor where
  warp : Nat
  vd : Nat
  path : Nat
  cmd : Nat
  deriving DecidableEq, Repr

/-- Write a target's `n` bytes; a granule whose label the access raised takes its new label with the value (R61). -/
def targetWrite (s : State) (y : Actor) (n : Nat) (va : DWord) (x : DWord) (m : Raised) (reqClock : List Nat) (t : Target) : State :=
  match t with
  | .spad b off => s.modSpad y.warp b (fun p => p.write off (toBytes x n))
  | .win a => match winLine? s y.vd a with
    | some l => setWinLine s { l with
        bytes := slice l.bytes 0 (a % 64) ++ toBytes x n ++ slice l.bytes (a % 64 + n) (64 - a % 64 - n)
        owners := (m.win.get? (targetKey t)).getD l.owners }
    | none => s
  | .mem loc => s.performAtHome y.warp y.vd y.path y.cmd loc va (toBytes x n) (m.mem.get? (targetKey t)) reqClock

/-- Why a lane of an atomic fails at the performing copy (R198): the label checked and the label that does not dominate it, or poison. -/
inductive AtomFail where
  | label (checked dom : Label)
  | poison
  deriving DecidableEq, Repr

/-- The cause that a failure raises (R198). -/
def AtomFail.cause : AtomFail → Nat
  | .label _ _ => 6
  | .poison => 18

/-- The join of labels at the copy that performs an access: for the warp that makes it, or for another package's, no warp's flag being
set (R25). -/
def joinFor (s : State) (y : Actor) (ls : List Label) : Label × State :=
  if y.warp = 0 then ls.foldl (fun (r : Label × State) l => r.2.joinVd y.vd r.1 l) (0#8, s) else s.joinList y.warp ls

/-- The labels that granules of floating pages would take: each joins what its lanes join, in ascending lane order (R42); in a switch the
owner masks are joined (R29). -/
def raiseAtoms (y : Actor) : List AtomLane → Raised → State → Raised × State
  | [], m, s => (m, s)
  | a :: as, m, s =>
    let k := targetKey a.tgt
    match a.tgt with
    | .win va =>
      match winLine? s y.vd va with
      | some l =>
        if l.floating then
          raiseAtoms y as { m with win := m.win.put k ((m.win.get? k).getD l.owners ||| maskOfLabels s y.vd a.lbls) } s
        else raiseAtoms y as m s
      | none => raiseAtoms y as m s
    | _ =>
      let (g, floating, _) := targetLabel s y.warp y.vd a.tgt a.va
      if floating then
        let (new, s) := joinFor s y ((m.mem.get? k).getD g :: a.lbls)
        raiseAtoms y as { m with mem := m.mem.put k new } s
      else raiseAtoms y as m s

/-- Whether a lane's granule in a switch refuses it (R42, R34): by its ceiling where it floats, by its own label where it does not; what
was checked, and what failed to dominate it, as handles of this package (R29). -/
def failsInSwitch (y : Actor) (m : Raised) (a : AtomLane) (l : WinLine) (s : State) : Option (Label × Label) × State :=
  let x := (m.win.get? (targetKey a.tgt)).getD (maskOfLabels s y.vd a.lbls)
  let dom := if l.floating then l.ceiling else l.owners
  if x &&& ~~~dom = 0#64 then (none, s)
  else
    let (h, s) := internPacket s y.vd x
    let (g, s) := internPacket s y.vd dom
    (some (h, g), s)

/-- How a lane of an atomic fails at its performing copy, where it does (R34, R42, R198). -/
def failsAt (y : Actor) (n : Nat) (m : Raised) (a : AtomLane) (s : State) : Option AtomFail × State :=
  match a.tgt with
  | .win va =>
    match winLine? s y.vd va with
    | some l => (fun (r : Option (Label × Label) × State) => (r.1.map (fun p => .label p.1 p.2), r.2)) (failsInSwitch y m a l s)
    | none => (none, s)
  | _ =>
    let (g, floating, ceiling) := targetLabel s y.warp y.vd a.tgt a.va
    let (x, s) := match m.mem.get? (targetKey a.tgt) with
      | some new => (new, s)
      | none => joinFor s y a.lbls
    let dom := if floating then ceiling else g
    if targetPoison s y.warp n a.tgt then (some .poison, s)
    else if s.dominates y.vd dom x then (none, s)
    else (some (.label x dom), s)

/-- The lanes that fail, each with how it does. -/
def failingAtoms (y : Actor) (n : Nat) (m : Raised) : List AtomLane → State → List (Nat × AtomFail) × State
  | [], s => ([], s)
  | a :: as, s =>
    let (f, s) := failsAt y n m a s
    let (fs, s) := failingAtoms y n m as s
    (match f with
      | some e => (a.lane, e) :: fs
      | none => fs, s)

/-- The lanes that fail with the cause of the lowest one that fails, and that one. -/
def firstFail (fs : List (Nat × AtomFail)) : Option (LaneMask × Nat × AtomFail) :=
  match fs with
  | [] => none
  | (i, e) :: _ => some (fs.foldl (fun m f => if f.2.cause = e.cause then m ||| laneBit f.1 else m) 0#32, i, e)

/-- Apply the lanes in ascending order: the old values. -/
def applyAtoms (y : Actor) (op ty : Nat) (key : DWord) (m : Raised) : List AtomLane → State → List (Nat × DWord) × State
  | [], s => ([], s)
  | a :: as, s =>
    let n := atomBytes ty
    let old := targetRead s y.warp y.vd n a.tgt
    let s := targetWrite s y n a.va (atomResult op ty old a.b a.cmp key a.ctr) m a.clk a.tgt
    let (r, s) := applyAtoms y op ty key m as s
    ((a.lane, old) :: r, s)

/-- The label of a lane's granule after an atomic, as a result carries it (R42); a switch's is mapped to a handle of this package (R29). -/
def labelAfter (y : Actor) (a : AtomLane) (s : State) : Label × State :=
  match a.tgt with
  | .win va => match winLine? s y.vd va with
    | some l => internPacket s y.vd l.owners
    | none => (0#8, s)
  | _ => ((targetLabel s y.warp y.vd a.tgt a.va).1, s)

/-- The labels of the lanes' granules after an atomic. -/
def labelsAfter (y : Actor) (as : List AtomLane) (s : State) : SMap Label × State :=
  as.foldl (fun (r : SMap Label × State) a => let (l, s) := labelAfter y a r.2; (r.1.put a.lane l, s)) ([], s)

/-- Perform an atomic instruction (R198): every location is checked before any lane is applied. The old values, the labels of the lanes'
granules afterwards, and the state; or the lanes that fail and what the lowest of them fails. -/
def performAtoms (y : Actor) (op ty : Nat) (key : DWord) (as : List AtomLane) (s : State) :
    Except (LaneMask × Nat × AtomFail) (List (Nat × DWord) × SMap Label) × State :=
  let s := as.foldl (fun s a => match a.tgt with
    | .win va => touchWindow s y.vd va
    | _ => s) s
  let (m, s) := raiseAtoms y as ⟨[], []⟩ s
  let (fs, s) := failingAtoms y (atomBytes ty) m as s
  match firstFail fs with
  | some e => (.error e, s)
  | none =>
    let (r, s) := applyAtoms y op ty key m as s
    let (ls, s) := labelsAfter y as s
    (.ok (r, ls), s)

/-! Applying flights. -/

/-- A flight of a number. -/
def flight? (s : State) (f : Nat) : Option Flight := s.flights.find? (fun x => x.id == f)
/-- Drop a flight. -/
def dropFlight (s : State) (f : Nat) : State := { s with flights := s.flights.filter (fun x => x.id != f) }
/-- Replace a flight. -/
def setFlight (s : State) (f : Flight) : State := { s with flights := s.flights.map (fun x => if x.id == f.id then f else x) }

/-- The dies that perform a flight's writes: the home of a store, the homes of an RDM's lanes. -/
def flightHomes (f : Flight) : List Nat :=
  match f.op with
  | .rdm _ _ lanes _ _ => (lanes.filterMap (fun x => if x.pa < 2 ^ 64 then some (homeDie x.pa) else none)).dedup
  | _ => [homeDie f.pa]

/-- The locations in HBM that a flight writes. -/
def flightLocs (f : Flight) : List Loc :=
  match f.op with
  | .rdm _ _ lanes _ _ => lanes.filterMap (fun x => if x.pa < 2 ^ 64 then some ⟨false, x.pa⟩ else none)
  | _ => if f.host then [] else [⟨false, f.pa⟩]

/-- An RDM waits while a window line of its lanes is on its way home (R279). -/
def switchesFree (s : State) (f : Flight) : Bool :=
  match f.op with
  | .rdm _ _ lanes _ _ => lanes.all (fun x => decide (x.pa < 2 ^ 64) || !winBusy s f.vd (x.pa - 2 ^ 64))
  | _ => true

/-- A flight may be applied at its home: causal order (R52), the lines cleared (R374), and a warp's writes to one host location in
order (R53). -/
def mayGoHome (s : State) (f : Flight) : Bool :=
  !f.atHome && !(flightLocs f).any (fun l => s.blocked l) && switchesFree s f &&
  (if f.host then !s.flights.any (fun g => g.host && g.warp == f.warp && decide (g.id < f.id) && !g.atHome && State.overlaps g ⟨true, f.pa⟩ 16)
   else (flightHomes f).all (fun h => !(s.die h).fenced && match f.op with
     | .rdm _ _ _ _ _ => s.flights.all (fun g => g.id == f.id || g.host || g.applied.contains h ||
         !((List.zipWith (fun x y => decide (x ≤ y)) g.clock (clockMax (s.clockOf h) f.clock)).all id))
     | _ => s.mayApply h f))

/-- Raise a granule's label in a copy (R41, R200): the label joins what the copy holds. -/
def raiseAt (s : State) (v d : Nat) (l : Loc) (h : Label) : State :=
  let (new, s) := s.joinVd v (s.labelLoc d l) h
  s.setLabelAt d l new

/-- The clock that lane `j` of `k` lanes of an RDM carries (R51): the last lane's is the flight's. -/
def laneClock (f : Flight) (j k : Nat) : List Nat := setAt f.clock f.src (((f.clock[f.src]?).getD 0) - (k - 1 - j))

/-- The address of an RDM lane as a target. -/
def rdmTarget (a : Nat) : Target := if a < 2 ^ 64 then .mem ⟨false, a⟩ else .win (a - 2 ^ 64)

/-- An RDM is performed (R199): all its lanes, or none and a delivery fault. -/
def performRdm (s : State) (f : Flight) (op ty : Nat) (lanes : List RdmLane) (key base : DWord) : State :=
  let as : List AtomLane := (lanes.zipIdx).map (fun p =>
    { lane := p.1.lane, tgt := rdmTarget p.1.pa, va := p.1.va, b := p.1.b, cmp := 0#64, ctr := base + BitVec.ofNat 64 p.1.lane
      lbls := [p.1.lbl], clk := laneClock f p.2 lanes.length })
  match performAtoms ⟨f.warp, f.vd, f.path, f.cmd⟩ op ty key as s with
  | (.ok _, s) => dropFlight s f.id
  | (.error (bad, i, e), s) =>
    deliver (dropFlight s f.id) f.warp e.cause f.pc bad (((lanes.find? (fun x => x.lane == i)).map (fun x => x.va)).getD 0#64) f.lbl

/-- A failure of a command is noted; the lowest failing address is reported once, at its completion (R269). -/
def failCmd (s : State) (c : Nat) (cause : Nat) (addr : DWord) (lbl : Label) : State :=
  { s with cmds := s.cmds.map (fun e => if e.1 = c then (e.1, { e.2 with failed :=
      match e.2.failed with
      | some (k, a, h) => if addr.toNat < a.toNat then some (cause, addr, lbl) else some (k, a, h)
      | none => some (cause, addr, lbl) }) else e) }

/-- Whether a command is a collective, whose lanes report their faults each by itself (R277). -/
def CmdOp.collective : CmdOp → Bool
  | .cl _ _ _ _ _ _ _ _ => true
  | _ => false

/-- A write that its home refuses: the command that made it notes the failure and writes one word fewer; a store's, and that of a lane of
a collective, is delivered. -/
def refuseWrite (s : State) (f : Flight) (cause : Nat) (dom : Label) : State :=
  match s.cmds.get? f.cmd with
  | some c =>
    let s := failCmd { s with cmds := s.cmds.put f.cmd { c with moved := c.moved - 1 } } f.cmd cause f.va dom
    if c.op.collective then deliver s f.warp cause f.pc f.lanes f.va f.lbl else s
  | none => deliver s f.warp cause f.pc f.lanes f.va f.lbl

/-- A write bound for a fenced die's memory is dropped, and counted against its warp (R331, R393). -/
def loseWrite (s : State) (f : Flight) : State :=
  let s := dropFlight s f.id
  if (s.warps.get? f.warp).isSome then s.modWarp f.warp (fun x => { x with dropped := x.dropped + 1 }) else s

/-- Whether a write on its way is bound for a fenced die's memory. -/
def boundAway (s : State) (f : Flight) : Bool := !f.host && !f.atHome && (flightHomes f).any (fun h => (s.die h).fenced)

/-- STORE_APPLY_AT_HOME (R35, R51 to R53, R189, R393): a write reaches its home, is checked again, and is applied or discarded with a
delivery fault; one bound for a fenced die's memory is dropped. -/
def execStoreApplyAtHome (f : Nat) (s : State) : Out :=
  match flight? s f with
  | none => .next { s with report := .disabled }
  | some x =>
    if boundAway s x then .next { loseWrite s x with report := .done }
    else if !mayGoHome s x then .next { s with report := .disabled }
    else
      let h := homeDie x.pa
      let l : Loc := ⟨x.host, x.pa⟩
      let seen := { x with atHome := true, applied := if x.host then x.applied else x.applied ++ [h] }
      let s := match x.op with
        | .rdm op ty lanes key base => performRdm s x op ty lanes key base
        | .label =>
          let s := raiseAt s x.vd h l x.lbl
          let s := if x.host then s else s.setClock h (clockMax (s.clockOf h) x.clock)
          (setFlight s seen).retireFlights
        | .store bs =>
          if !x.host && !s.dominates x.vd (s.labelLoc h l) x.lbl then
            refuseWrite (dropFlight s f) x 6 (s.labelLoc h l)
          else if x.host then
            (setFlight { s with hostMem := { s.hostMem with bytes := writeBytes s.hostMem.bytes x.pa bs } } seen).retireFlights
          else (setFlight (s.applyAt h x.pa bs x.clock x.src) seen).retireFlights
      .next { (if x.comm then s.rank (x.pa / 2 ^ 36) else s) with report := .done }

/-- REPLICA_APPLY (R51 to R53): a die that is not the home applies a write that the home has applied, after the writes before it in
causal order. -/
def execReplicaApply (d f : Nat) (s : State) : Out :=
  match flight? s f with
  | none => .next { s with report := .disabled }
  | some x =>
    if !x.atHome || x.host || x.applied.contains d || !s.liveDies.contains d || !s.mayApply d x || s.blocked ⟨false, x.pa⟩ then .next { s with report := .disabled }
    else
      let l : Loc := ⟨false, x.pa⟩
      let s := match x.op with
        | .store bs =>
          let s := s.applyAt d x.pa bs x.clock x.src
          if x.floating then raiseAt s x.vd d l x.lbl else s
        | _ => (raiseAt s x.vd d l x.lbl).setClock d (clockMax (s.clockOf d) x.clock)
      .next { (setFlight s { x with applied := x.applied ++ [d] }).retireFlights with report := .done }

end Sys2Proof.Machine
end

