-- ==== Sys2Proof/Machine/Atomics.lean ====
section
/-! DEFINITION. ATOM, ATOMS and RDM (R42, R60, R197 to R199). -/

namespace Sys2Proof.Machine

open Sys2Proof

/-- Where a lane's atomic goes, once steps 2 to 5 of R188 have passed: a scratchpad word, a line of memory with its page, or a line
of a reduction window, whose page is translated where this package homes it (R279). -/
structure AtomPlace where
  tgt : Target
  page : Option Page
  deriving DecidableEq, Repr

/-- Steps 2 to 5 of R188 for a lane of an atomic. -/
def atomLane (s : State) (c : Ctx) (spad : Bool) (a : DWord) (n : Nat) : Except AccessFault AtomPlace × State :=
  if spad then
    match laneAccess s c true a n .atomic with
    | (.ok (.spad b off), s) => (.ok ⟨.spad b off, none⟩, s)
    | (.ok (.mem p), s) => (.ok ⟨.mem p.loc, some p⟩, s)
    | (.error e, s) => (.error e, s)
  else
    match s.window c.vd a with
    | some x =>
      if (field x 80 12).toNat != s.package.kwid then (.ok ⟨.win a.toNat, none⟩, s)
      else
        match s.translate (.quad c.quad) c.vd a .atomic true false with
        | (.ok p, s) => (.ok ⟨.win a.toNat, some p⟩, s)
        | (.error e, s) => (.error e, s)
    | none =>
      match s.translate (.quad c.quad) c.vd a .atomic true false with
      | (.ok p, s) => (.ok ⟨.mem p.loc, some p⟩, s)
      | (.error e, s) => (.error e, s)

/-- Steps 2 to 5 of R188 for lanes in ascending order. -/
def atomLanes (c : Ctx) (spad : Bool) (addr : Nat → DWord) (n : Nat) : List Nat → State → List (Nat × Except AccessFault AtomPlace) × State
  | [], s => ([], s)
  | i :: is, s =>
    let (r, s) := atomLane s c spad (addr i) n
    let (rs, s) := atomLanes c spad addr n is s
    ((i, r) :: rs, s)

/-- Steps 1 to 5 of R188 over the lanes of on. -/
def checkAtomic (c : Ctx) (spad : Bool) (addr : Nat → DWord) (n : Nat) (lbl : Nat → Label) : M (List (Nat × AtomPlace)) := fun s =>
  let odd := maskOf (fun i => hasLane c.on i && (addr i).toNat % n != 0)
  if odd ≠ 0#32 then .error (accessTrap c .align odd addr lbl Kind.atomic.code)
  else
    match (if spad then [] else ddaMatch s c c.on addr n .atomic) with
    | d :: ds => .error (.halt [] (d :: ds))
    | [] =>
      let (rs, t) := atomLanes c spad addr n (lanesOf c.on) s
      let first := rs.foldl (fun (b : Option AccessFault) r => match r.2, b with
        | .error e, some f => if e.step < f.step then some e else some f
        | .error e, none => some e
        | .ok _, b => b) none
      match first with
      | some e =>
        let bad := rs.foldl (fun m r => match r.2 with
          | .error f => if f.step = e.step then m ||| laneBit r.1 else m
          | .ok _ => m) 0#32
        .error (accessTrap c e bad addr lbl Kind.atomic.code)
      | none => .ok (rs.filterMap (fun r => match r.2 with
          | .ok p => some (r.1, p)
          | .error _ => none), t)

/-- The operands of an atomic: what the forms of R197 name. -/
structure AtomArgs where
  spad : Bool
  op : Nat
  ty : Nat
  a : Bool × Src
  b : Bool × Src
  /-- the compare value of cas, or the key register of draw -/
  cc : BitVec 6
  deriving DecidableEq, Repr

/-- The operands that the words of an atomic name. -/
def atomArgs (spad : Bool) (w : W0) (x : W1) : AtomArgs :=
  ⟨spad, WF.aop x, WF.aty x, (w.luA, if spad then srcA w x else .code w.a), (w.luB, srcB w x), x.c⟩

/-- The registers of b. -/
def AtomArgs.bSrcs (g : AtomArgs) : List Src := if atomBytes g.ty = 8 then [g.b.2, g.b.2.up 1] else [g.b.2]
/-- The registers of c: the compare value, or the four of key and base. -/
def AtomArgs.cSrcs (g : AtomArgs) : List Src :=
  if g.op = 9 then keySrcs g.cc
  else if g.op = 7 then (if atomBytes g.ty = 8 then [.code g.cc, .code (g.cc + 1#6)] else [.code g.cc])
  else []

/-- A value of one or two registers in a lane. -/
def wideVal (s : State) (c : Ctx) (xs : List Src) (i : Nat) : DWord :=
  match xs with
  | [x] => zext (srcVal s c x i) 64
  | x :: y :: _ => pair (srcVal s c y i) (srcVal s c x i)
  | [] => 0#64

/-- The labels that R34 and R42 join for a lane: b, c, address, path, and the register of PFX.K. -/
def atomLbls (s : State) (c : Ctx) (g : AtomArgs) (i : Nat) : List Label :=
  (g.bSrcs ++ g.cSrcs).map (fun y => srcLbl s c y i) ++ addrLbls s c g.spad g.a.2 i ++ [pathIn s c.w c.on i] ++ c.kl

/-- The clock that the request of lane number `j` of an instruction carries: the issuing die's, ticked once per lane up to it (R51). -/
def requestClock (s : State) (d j : Nat) : List Nat := (s.tick d (j + 1)).clockOf d

/-- The lanes of an atomic as they are performed. -/
def atomWork (s : State) (c : Ctx) (g : AtomArgs) (addr : Nat → DWord) (ps : List (Nat × AtomPlace)) : List AtomLane :=
  let base := (keyBase s c g.cc).2
  (ps.zipIdx).map (fun r =>
    let i := r.1.1
    { lane := i, tgt := r.1.2.tgt, va := addr i, b := wideVal s c g.bSrcs i, cmp := wideVal s c g.cSrcs i
      ctr := base + BitVec.ofNat 64 i, lbls := atomLbls s c g i, clk := requestClock s c.die r.2 })

/-- The check of R34 at issue, where a granule lies in scratchpad, or is global and does not float: against the label that the issuing
die holds (R35, R198, R199). -/
def checkAtIssue (c : Ctx) (g : AtomArgs) (addr : Nat → DWord) (ps : List (Nat × AtomPlace)) : M Unit := do
  let fixed := ps.filter (fun q => match q.2.tgt, q.2.page with
    | .spad _ _, _ => true
    | _, some p => !p.floating
    | _, none => false)
  let m := maskOf (fun i => fixed.any (fun q => q.1 == i))
  let ls ← M.run' (fun s => s.joinLanes c.w m (fun i => atomLbls s c g i))
  let s ← M.st
  requireDomAt c 6 m ls (fun i => match SMap.get? fixed i with
    | some ⟨.spad b off, _⟩ => (s.spadOf c.w b).label off
    | some ⟨_, some p⟩ => s.guardLoc c.die p
    | _ => 0#8) addr

/-- The registers that an atomic reads, checked. -/
def checkAtomSrcs (c : Ctx) (g : AtomArgs) : M Unit := checkSrcs c (addrSrcs g.spad g.a.2 ++ g.bSrcs ++ g.cSrcs) c.on

/-- The last-use bits of an atomic. -/
def atomLastUse (c : Ctx) (g : AtomArgs) : M Unit :=
  lastUse c ((addrSrcs g.spad g.a.2).map (fun y => (g.a.1, y)) ++ g.bSrcs.map (fun y => (g.b.1, y)))

/-- An instruction that is issued in some lane commits the region (R217). -/
def commitOn (c : Ctx) : M Unit := M.upd (fun s => if c.on = 0#32 then s else commit s c.w)

/-- An atomic of a warp can be performed now: its own writes to the place are at home, the line is cleared (R374), and the home and the
issuing die have applied every write that the atomic follows (R51, R52). -/
def atomReady (s : State) (c : Ctx) (n : Nat) (q : AtomPlace) : Bool :=
  match q.tgt with
  | .mem l =>
    let clk := clockMax (s.clockOf (homeDie l.pa)) (s.clockOf c.die)
    !s.blocked l && !(s.die (homeDie l.pa)).fenced &&
    !s.flights.any (fun f => f.warp == c.w && State.overlaps f l n && !f.atHome) &&
    s.caughtUp (homeDie l.pa) clk && s.caughtUp c.die clk
  | .win a => !winBusy s c.vd a && !s.flights.any (fun f => f.warp == c.w && State.overlaps f ⟨false, 2 ^ 64 + a⟩ n && !f.atHome)
  | .spad _ _ => true

/-- After the answer of an atomic the issuing die's clock merges the home's. -/
def mergeHomes (c : Ctx) (ps : List (Nat × AtomPlace)) (s : State) : State :=
  ps.foldl (fun s q => match q.2.tgt with
    | .mem l => s.setClock c.die (clockMax (s.clockOf c.die) (s.clockOf (homeDie l.pa)))
    | _ => s) s

/-- The checks of ATOM and ATOMS at issue (R188, R198): the places of the lanes, each of them ready. -/
def atomChecks (c : Ctx) (d : Dst) (g : AtomArgs) : M (List (Nat × AtomPlace)) := do
  checkDst c d
  checkAtomSrcs c g
  let s ← M.st
  let n := atomBytes g.ty
  let addr := effAddr s c g.spad g.a.2 0
  let al ← addrLabel c g.spad g.a.2
  let ps ← checkAtomic c g.spad addr n (fun i => al.get 0#8 i)
  let s ← M.st
  M.await (ps.all (fun q => atomReady s c n q.2))
  checkAtIssue c g addr ps
  pure ps

/-- An atomic performed where its places stand (R198); each lane of a global one ticks the die's clock as it issues (R51). -/
def atomPerform (s : State) (c : Ctx) (g : AtomArgs) (ps : List (Nat × AtomPlace)) :
    Except (LaneMask × Nat × AtomFail) (List (Nat × DWord) × SMap Label) × State :=
  performAtoms ⟨c.w, c.vd, 2, 0⟩ g.op g.ty (keyBase s c g.cc).1 (atomWork s c g (effAddr s c g.spad g.a.2 0) ps)
    (if g.spad then s else s.tick c.die ps.length)

/-- The registers of an old value. -/
def atomWords (g : AtomArgs) (v : DWord) : List Word := if atomBytes g.ty = 8 then [lo32 v, hi32 v] else [lo32 v]

/-- ATOM and ATOMS (R198). -/
def atomBody (c : Ctx) (w : W0) (d : Dst) (g : AtomArgs) : M Done := do
  let ps ← atomChecks c d g
  let s ← M.st
  let addr := effAddr s c g.spad g.a.2 0
  let (r, t) := atomPerform s c g ps
  match r with
  | .error (bad, i, .label x y) =>
    M.upd (fun _ => t)
    trapLabel c bad x y (addr i) 6
  | .error (bad, i, .poison) => M.stop (.trap { c.info 18 bad with addr := addr i })
  | .ok (old, after) =>
    M.upd (fun _ => mergeHomes c ps t)
    M.upd (countPasses c g.spad (ps.filterMap (fun q => match q.2.tgt with
      | .spad b o => some (q.1, .spad b o)
      | _ => none)) true)
    let ls ← M.run' (fun u => u.joinLanes c.w c.on (fun i =>
      after.get 0#8 i :: addrLbls u c g.spad g.a.2 i ++
        [pathIn u c.w c.on i] ++ c.kl))
    atomLastUse c g
    commitOn c
    writeLoaded c w d (atomBytes g.ty / 4) (fun i => atomWords g ((SMap.get? old i).getD 0#64)) ls 0#8 0#32
    pure .next

/-- ATOM (R197, R198). -/
def execAtom (p : Pfx) (w : W0) (x : W1) (s : State) : Out :=
  issue p (WF.atom p w x) s (fun c => atomBody c w (dstD w x) (atomArgs false w x))
/-- ATOMS (R197, R198). -/
def execAtoms (p : Pfx) (w : W0) (x : W1) (s : State) : Out :=
  issue p (WF.atoms p w x) s (fun c => atomBody c w (dstD w x) (atomArgs true w x))

/-- The flight of an RDM: one for all its lanes, so that all or none are applied (R199); each lane ticks the die's clock, the last one at the
flight's issue (R51). -/
def rdmFlight (s : State) (c : Ctx) (g : AtomArgs) (as : List AtomLane) (lbls : List Label) (key base : DWord) (va : DWord) : State :=
  let lane := fun (p : AtomLane × Label) => (⟨p.1.lane, match p.1.tgt with
    | .mem l => l.pa
    | .win a => 2 ^ 64 + a
    | .spad _ off => off, p.1.va, p.1.b, p.2⟩ : RdmLane)
  let f := State.mkFlight c.w c.die c.vd ⟨false, 2 ^ 65⟩ va (.rdm g.op g.ty ((as.zip lbls).map lane) key base) ((lbls.head?).getD 0#8)
    c.pc c.on 2 0
  (s.tick c.die (as.length - 1)).issueFlight f id

/-- The checks of RDM at issue (R188, R199): the places of the lanes, and the label of each. -/
def rdmChecks (c : Ctx) (g : AtomArgs) : M (List (Nat × AtomPlace) × SMap Label) := do
  checkAtomSrcs c g
  let s ← M.st
  let addr := effAddr s c false g.a.2 0
  let al ← addrLabel c false g.a.2
  let ps ← checkAtomic c false addr (atomBytes g.ty) (fun i => al.get 0#8 i)
  checkAtIssue c g addr ps
  let ls ← M.run' (fun s => s.joinLanes c.w c.on (fun i => atomLbls s c g i))
  pure (ps, ls)

/-- The RDM of the lanes of on leaves, as the group at `s` reads its registers; with no lane on nothing does. -/
def rdmIssue (s : State) (c : Ctx) (g : AtomArgs) (ps : List (Nat × AtomPlace)) (ls : SMap Label) (t : State) : State :=
  let addr := effAddr s c false g.a.2 0
  let k := keyBase s c g.cc
  if c.on = 0#32 then t
  else rdmFlight t c g (atomWork s c g addr ps) (ps.map (fun q => ls.get 0#8 q.1)) k.1 k.2 (addr ((lowestLane c.on).getD 0))

/-- RDM (R199): checked at issue, performed when it reaches its homes and switches. -/
def execRdm (p : Pfx) (w : W0) (x : W1) (s : State) : Out :=
  issue p (WF.rdm p w x) s (fun c => do
    let g := atomArgs false w x
    let r ← rdmChecks c g
    let s ← M.st
    atomLastUse c g
    commitOn c
    M.upd (rdmIssue s c g r.1 r.2)
    pure .next)

end Sys2Proof.Machine
end

