-- ==== Sys2Proof/Machine/Loads.lean ====
section
/-! DEFINITION. Loads, stores, full/empty and split-phase accesses, prefetch, granule labels and sealing (R191 to R196, R200, R201,
R205). -/

namespace Sys2Proof.Machine

open Sys2Proof

/-! LD, LDS, ST, STS (R191, R192). -/

/-- The checks of a load (R188, R192): operands, places of the lanes, and the warp's own writes to them applied. -/
def loadChecks (c : Ctx) (d : Dst) (spad : Bool) (n : Nat) (a : Src) (off : Int) : M Places := do
  checkDst c d
  checkSrcs c (addrSrcs spad a) c.on
  let s ← M.st
  let al ← addrLabel c spad a
  let ps ← checkAccess c spad c.on (effAddr s c spad a off) n .read (fun i => al.get 0#8 i)
  awaitReads c n ps
  pure ps

/-- A load (R31, R192): size code, address with its last-use bit, offset. -/
def loadBody (c : Ctx) (w : W0) (d : Dst) (spad : Bool) (sz : Nat) (a : Bool × Src) (off : Int) : M Done := do
  let n := sizeBytes sz
  let ps ← loadChecks c d spad n a.2 off
  let s ← M.st
  let val := fun i => loadWords sz (placeRead s c n (placeOf ps i))
  let ls ← M.run' (fun t => t.joinLanes c.w c.on (fun i =>
    placeLabel s c (placeOf ps i) :: addrLbls s c spad a.2 i ++ [if d.uniform then c.sub.maskLabel else pathIn s c.w c.on i] ++ c.kl))
  let bad := maskOf (fun i => hasLane c.on i && placePoison s c n (placeOf ps i))
  lastUse c ((addrSrcs spad a.2).map (fun y => (a.1, y)))
  writeLoaded c w d (sizeRegs sz) val ls (ls.get 0#8 ((lowestLane c.on).getD 0)) bad
  M.upd (countPasses c spad ps false)
  pure .next

/-- The registers of a stored value. -/
def valueSrcs (sz : Nat) (b : Src) : List Src := (List.range (sizeRegs sz)).map (fun j => b.up j)

/-- The check of R34 over the lanes of on: value, address and path labels against the granule's label, the die's own copy (R35). -/
def checkStore (c : Ctx) (ps : Places) (addr : Nat → DWord) (lbls : State → Nat → List Label) : M Unit := do
  let ls ← M.run' (fun s => s.joinLanes c.w c.on (fun i => lbls s i ++ [pathIn s c.w c.on i] ++ c.kl))
  let s ← M.st
  requireDomAt c 6 c.on ls (fun i => guardLabel s c (placeOf ps i)) addr

/-- The labels of a store's operands in a lane. -/
def storeLabels (s : State) (c : Ctx) (spad : Bool) (sz : Nat) (a b : Src) (i : Nat) : List Label :=
  (valueSrcs sz b).map (fun y => srcLbl s c y i) ++ addrLbls s c spad a i

/-- The checks of a store (R34, R188, R192): the places of the lanes, with the label that each store carries. -/
def storeChecks (c : Ctx) (spad : Bool) (sz : Nat) (a b : Src) (off : Int) : M (Places × SMap Label) := do
  checkSrcs c (addrSrcs spad a ++ valueSrcs sz b) c.on
  let s ← M.st
  let al ← addrLabel c spad a
  let ps ← checkAccess c spad c.on (effAddr s c spad a off) (sizeBytes sz) .write (fun i => al.get 0#8 i)
  awaitLabels c ps
  checkStore c ps (effAddr s c spad a off) (fun s i => storeLabels s c spad sz a b i)
  let ls ← M.run' (fun s => s.joinLanes c.w c.on (fun i => storeLabels s c spad sz a b i ++ [pathIn s c.w c.on i] ++ c.kl))
  pure (ps, ls)

/-- The bytes that a lane stores. -/
def laneBytes (s : State) (c : Ctx) (sz : Nat) (b : Src) (i : Nat) : List Byte := storeBytes sz ((valueSrcs sz b).map (fun y => srcVal s c y i))

/-- The stores of the lanes of on, in ascending order (R192). -/
def storeLanes (c : Ctx) (ps : Places) (addr : Nat → DWord) (bytes : Nat → List Byte) (ls : SMap Label) (s : State) : State :=
  (lanesOf c.on).foldl (fun t i => placeWrite t c (addr i) (bytes i) (ls.get 0#8 i) (laneBit i) (placeOf ps i)) s

/-- A store (R34, R192). -/
def storeBody (c : Ctx) (spad : Bool) (sz : Nat) (a b : Bool × Src) (off : Int) : M Done := do
  let r ← storeChecks c spad sz a.2 b.2 off
  let s ← M.st
  lastUse c (((addrSrcs spad a.2).map (fun y => (a.1, y))) ++ (valueSrcs sz b.2).map (fun y => (b.1, y)))
  M.upd (storeLanes c r.1 (effAddr s c spad a.2 off) (laneBytes s c sz b.2) r.2)
  M.upd (countPasses c spad r.1 false)
  pure .next

/-- A word offset of six bits, in bytes (R191). -/
def wordOff (f : BitVec 6) : Int := 4 * f.toInt
/-- A byte offset of twelve bits, in second-word [31:20]. -/
def byteOff (x : W1) : Int := (field x.hi 4 12).toInt
/-- The size code of a second word. -/
def sizeOf' (x : W1) : Nat := (field x.hi 0 3).toNat

/-- LD, 32-bit form (R191). -/
def execLd32 (p : Pfx) (w : W0) (s : State) : Out :=
  issue p (WF.ld_32 p w) s (fun c => loadBody c w (Dst.ofCode w.d) false 4 (w.luA, .code w.a) (wordOff w.b))
/-- LD, 64-bit form (R191). -/
def execLd64 (p : Pfx) (w : W0) (x : W1) (s : State) : Out :=
  issue p (WF.ld_64 p w x) s (fun c => loadBody c w (dstD w x) false (sizeOf' x) (w.luA, .code w.a) (byteOff x))
/-- LD, 96-bit form (R191). -/
def execLd96 (p : Pfx) (w : W0) (x : W1) (lit : Word) (s : State) : Out :=
  issue p (WF.ld_96 p w x lit) s (fun c => loadBody c w (dstD w x) false (sizeOf' x) (w.luA, .code w.a) lit.toInt)
/-- LDS, 32-bit form (R191). -/
def execLds32 (p : Pfx) (w : W0) (s : State) : Out :=
  issue p (WF.lds_32 p w) s (fun c => loadBody c w (Dst.ofCode w.d) true 4 (w.luA, .code w.a) (wordOff w.b))
/-- LDS, 64-bit form (R191). -/
def execLds64 (p : Pfx) (w : W0) (x : W1) (s : State) : Out :=
  issue p (WF.lds_64 p w x) s (fun c => loadBody c w (dstD w x) true (sizeOf' x) (w.luA, srcA w x) (byteOff x))
/-- LDS, 96-bit form (R191). -/
def execLds96 (p : Pfx) (w : W0) (x : W1) (lit : Word) (s : State) : Out :=
  issue p (WF.lds_96 p w x lit) s (fun c => loadBody c w (dstD w x) true (sizeOf' x) (w.luA, srcA w x) lit.toInt)
/-- ST, 32-bit form (R191). -/
def execSt32 (p : Pfx) (w : W0) (s : State) : Out :=
  issue p (WF.st_32 p w) s (fun c => storeBody c false 4 (w.luA, .code w.a) (w.luB, .code w.b) (wordOff w.d))
/-- ST, 64-bit form (R191). -/
def execSt64 (p : Pfx) (w : W0) (x : W1) (s : State) : Out :=
  issue p (WF.st_64 p w x) s (fun c => storeBody c false (sizeOf' x) (w.luA, .code w.a) (w.luB, srcB w x) (byteOff x))
/-- ST, 96-bit form (R191). -/
def execSt96 (p : Pfx) (w : W0) (x : W1) (lit : Word) (s : State) : Out :=
  issue p (WF.st_96 p w x lit) s (fun c => storeBody c false (sizeOf' x) (w.luA, .code w.a) (w.luB, srcB w x) lit.toInt)
/-- STS, 32-bit form (R191). -/
def execSts32 (p : Pfx) (w : W0) (s : State) : Out :=
  issue p (WF.sts_32 p w) s (fun c => storeBody c true 4 (w.luA, .code w.a) (w.luB, .code w.b) (wordOff w.d))
/-- STS, 64-bit form (R191). -/
def execSts64 (p : Pfx) (w : W0) (x : W1) (s : State) : Out :=
  issue p (WF.sts_64 p w x) s (fun c => storeBody c true (sizeOf' x) (w.luA, srcA w x) (w.luB, srcB w x) (byteOff x))
/-- STS, 96-bit form (R191). -/
def execSts96 (p : Pfx) (w : W0) (x : W1) (lit : Word) (s : State) : Out :=
  issue p (WF.sts_96 p w x lit) s (fun c => storeBody c true (sizeOf' x) (w.luA, srcA w x) (w.luB, srcB w x) lit.toInt)

/-! LDF and STE (R194). -/

/-- The number of a scratchpad word: block and word. -/
def wordNumber (block off : Nat) : Nat := block * 2 ^ 20 + off / 4
/-- The block and the word of a number. -/
def wordBlock (n : Nat) : Nat := n / 2 ^ 20
def wordOffset (n : Nat) : Nat := n % 2 ^ 20

/-- The tag of a word (R194). -/
def Spad.tag (p : Spad) (wd : Nat) : Tag := p.tags.get .empty wd
/-- Set a word's tag. -/
def Spad.setTag (p : Spad) (wd : Nat) (t : Tag) : Spad := { p with tags := p.tags.set .empty wd t }

/-- Whether a lane of a full/empty access has its turn: no lower lane of the instruction and no earlier waiter of its kind still
waits for the word (R194). -/
def feTurn (s : State) (w : Nat) (f : FullEmpty) (lane : Nat) : Bool :=
  let wd := f.addr.get 0 lane
  !(lanesOf f.left).any (fun j => decide (j < lane) && f.addr.get 0 j == wd) &&
  !s.warps.any (fun e => e.2.grid == (s.warp w).grid && e.2.fe.any (fun g =>
    g.load == f.load && decide (g.order < f.order) && (lanesOf g.left).any (fun j => g.addr.get 0 j == wd)))

/-- Whether a lane can complete now: its word has the tag it waits for, and it has its turn. -/
def feReady (s : State) (w : Nat) (f : FullEmpty) (lane : Nat) : Bool :=
  let wd := f.addr.get 0 lane
  let t := (s.spadOf w (wordBlock wd)).tag (wordOffset wd)
  hasLane f.left lane && feTurn s w f lane && (t == .broken || (if f.load then t == .full else t == .empty))

/-- Replace the record of a sub-warp's full/empty access. -/
def putFe (x : Warp) (f : FullEmpty) : Warp := { x with fe := x.fe.map (fun g => if g.sub == f.sub then f else g) }

/-- Write register number `r` in a lane: operand registers from 0, main-file registers from 64; noted in the split entry (R38). -/
def writeRegLane (x : Warp) (sub : SubId) (r i : Nat) (v : Reg) : Warp :=
  let x := if r < 16 then { x with o := x.o.set Reg.zero (32 * r + i) v }
    else if 64 ≤ r then { x with v := x.v.set Reg.zero (32 * (r - 64) + i) v } else x
  match sub with
  | .none => x
  | some (e, _) =>
    match x.splits.get? e with
    | .none => x
    | some z =>
      let z := if r < 16 then { z with writtenO := z.writtenO ||| (1#16 <<< r) }
        else if 64 ≤ r then { z with writtenV := z.writtenV ||| (1#256 <<< (r - 64)) } else z
      { x with splits := x.splits.put e z }

/-- A promise's word is filled: every promise of it is discharged, in the tables of warps and in probate (R336, R341). -/
def fulfil (s : State) (g wd : Nat) : State :=
  let other (h : Holding) : Bool := h.kind != 2 ||
    (match spadLoc s g h.block (BitVec.ofNat 32 h.ref) 4 with
      | some (b, o) => wordNumber b o != wd
      | none => true)
  let s := { s with warps := s.warps.map (fun (e : Nat × Warp) => if e.2.grid = g then (e.1, { e.2 with estate := e.2.estate.filter other }) else e) }
  s.modGrid g (fun x => { x with probate := x.probate.filter (fun p => other p.holding) })

/-- A lane completes (R194): the region commits, the word and its tag change, the destination and the bit of the outcome are
written. -/
def feLane (s : State) (w : Nat) (f : FullEmpty) (lane : Nat) : FullEmpty × State :=
  let wd := f.addr.get 0 lane
  let b := wordBlock wd
  let o := wordOffset wd
  let p := s.spadOf w b
  let broken := p.tag o == .broken
  let s := commit s w
  let (l, s) := if f.load then s.join w (f.lbl.get 0#8 lane) (p.label (4 * o)) else (f.lbl.get 0#8 lane, s)
  let s := if broken then s
    else if f.load then s.modSpad w b (fun q => q.setTag o .empty)
    else fulfil (s.modSpad w b (fun q => (q.write (4 * o) (toBytes (f.val.get Reg.zero lane).val 4)).setTag o .full)) (s.warp w).grid wd
  let got : Reg := ⟨if broken then BitVec.allOnes 32 else ofBytes 32 (p.read (4 * o) 4), l, !broken && p.poisoned (4 * o) 4, false⟩
  let s := match f.dest with
    | some r => if f.load ∧ !f.wbs then s.modWarp w (fun x => writeRegLane x f.sub r lane got) else s
    | none => s
  let k := ((s.warp w).k[f.kb]?).getD MaskReg.zero
  let bits := if broken then k.bits ||| laneBit lane else k.bits &&& ~~~(laneBit lane)
  let s := setMask s w f.kb bits (k.lbls.set 0#8 lane l)
  let f := { f with left := f.left &&& ~~~(laneBit lane), val := if f.load then f.val.set Reg.zero lane got else f.val }
  (f, s.modWarp w (fun x => putFe x f))

/-- Complete every lane that can, in ascending order. -/
def feLanes (s : State) (w : Nat) (f : FullEmpty) : FullEmpty × State :=
  (lanesOf f.left).foldl (fun (r : FullEmpty × State) i => if feReady r.2 w r.1 i then feLane r.2 w r.1 i else r) (f, s)

/-- The end of a full/empty access whose lanes have all completed: the result is captured if the latches still belong to the
sub-warp, and the record goes. -/
def feEnd (s : State) (w : Nat) (f : FullEmpty) : State :=
  let s := s.modWarp w (fun x => { x with fe := x.fe.filter (fun g => g.sub != f.sub) })
  if f.load then captureLate s w f.sub f.latch f.val else s

/-- A load writes zero with label 0 in helper lanes (R130, R189). -/
def zeroHelpers (c : Ctx) (d : Dst) (n : Nat) (s : State) : State :=
  (noteWrite s c d n).modWarp c.w (fun y => (lanesOf c.helpers).foldl (fun y i =>
    (List.range n).foldl (fun y j => putLane y d j i Reg.zero) y) y)

/-- The registration of a full/empty access: the bits of k[kb] that are not written take what R148 and R96 give; of an LDF's destination
the off lanes take PFX.K's label and the helper lanes zero. -/
def feLabels (c : Ctx) (w : W0) (load : Bool) (kb : Nat) (d : Dst) (s : State) : State :=
  let s := writeBits c kb 0#32 0#32 (fun _ => 0#8) s
  if load && !w.wbs then zeroHelpers c d 1 (joinOff c d 1 s) else s

/-- The checks of LDF or STE (R188, R194): the places of the lanes, with the label of each. An STE waits until the warp's earlier writes are
seen on its die, which orders them before what an LDF of the word's state then reads (R54). -/
def feChecks (c : Ctx) (load : Bool) (a : Src) (bs : List Src) (d : Dst) (off : Int) : M (Places × SMap Label) := do
  checkDst c d
  checkSrcs c (a :: bs) c.on
  let s ← M.st
  let addr := effAddr s c true a off
  let al ← addrLabel c true a
  let ps ← checkAccess c true c.on addr 4 (if load then .read else .write) (fun i => al.get 0#8 i)
  let lbls := fun (s : State) (i : Nat) => bs.map (fun y => srcLbl s c y i) ++ [srcLbl s c a i]
  if !load then checkStore c ps addr lbls
  let s ← M.st
  M.await (load || settled s c.w c.die 3 (fun _ => true))
  let ls ← M.run' (fun s => s.joinLanes c.w c.on (fun i => lbls s i ++ [pathIn s c.w c.on i] ++ c.kl))
  pure (ps, ls)

/-- The record of a full/empty access of the issuing sub-warp, of order `t`; `kept` is what the other lanes of the capture latch hold. -/
def feOf (s : State) (c : Ctx) (w : W0) (load : Bool) (bs : List Src) (d : Dst) (kb : Nat) (r : Places × SMap Label) (kept : SMap Reg) (t : Nat) :
    FullEmpty :=
  let word := fun i => match placeOf r.1 i with
    | .spad bl o => wordNumber bl o
    | .mem _ => 0
  { sub := c.sub.id, load := load, left := c.on, addr := (lanesOf c.on).map (fun i => (i, word i))
    val := (lanesOf c.on).foldl (fun m i => m.set Reg.zero i ((bs.head?.map (fun y => srcReg s c y i)).getD Reg.zero)) kept
    lbl := r.2, dest := match d with
      | .o n => some n
      | .v n => some (64 + n)
      | _ => none
    kb := kb, latch := w.latch.toNat, wbs := w.wbs, order := t }

/-- LDF or STE (R194): checked, then each lane completes on its own; the sub-warp parks at the successor until all have. -/
def feBody (c : Ctx) (w : W0) (load : Bool) (a : Bool × Src) (b : Option (Bool × Src)) (d : Dst) (kb : Nat) (off : Int) : M Done := do
  let r ← feChecks c load a.2 ((b.map (fun y => y.2)).toList) d off
  let s ← M.st
  lastUse c (a :: b.toList)
  M.upd (feLabels c w load kb d)
  M.upd (countPasses c true r.1 false)
  let kept ← M.run' (keptLanes c w (if load then c.act &&& ~~~c.run else 0#32))
  let t ← M.run' freshStamp
  let f := feOf s c w load ((b.map (fun y => y.2)).toList) d kb r kept t
  M.upd (fun s => s.modWarp c.w (fun x => { x with fe := x.fe ++ [f] }))
  let f ← M.run' (fun s => feLanes s c.w f)
  if f.left = 0#32 then
    M.upd (fun s => feEnd s c.w f)
    pure .next
  else
    M.upd (fun s => s.modWarp c.w (fun x => x.setSub { c.sub with pc := c.next, hold := .fullEmpty load f.left }))
    pure .placed

/-- LDF, 32-bit form (R194). -/
def execLdf32 (p : Pfx) (w : W0) (s : State) : Out :=
  issue p (WF.ldf_32 p w) s (fun c => feBody c w true (w.luA, .code w.a) none (Dst.ofCode w.d) w.b.toNat 0)
/-- LDF, 64-bit form (R194). -/
def execLdf64 (p : Pfx) (w : W0) (x : W1) (s : State) : Out :=
  issue p (WF.ldf_64 p w x) s (fun c => feBody c w true (w.luA, srcA w x) none (dstD w x) w.b.toNat (byteOff x))
/-- STE, 32-bit form (R194). -/
def execSte32 (p : Pfx) (w : W0) (s : State) : Out :=
  issue p (WF.ste_32 p w) s (fun c => feBody c w false (w.luA, .code w.a) (some (w.luB, .code w.b)) .none w.d.toNat 0)
/-- STE, 64-bit form (R194). -/
def execSte64 (p : Pfx) (w : W0) (x : W1) (s : State) : Out :=
  issue p (WF.ste_64 p w x) s (fun c => feBody c w false (w.luA, srcA w x) (some (w.luB, srcB w x)) .none w.d.toNat (byteOff x))

/-- LDF_STE_LANE_COMPLETE (R194): a waiting lane of warp `w` completes; the last one ends the instruction. -/
def execLdfSteLaneComplete (w lane : Nat) (s : State) : Out :=
  match (if (s.warp w).life = .resident then (s.warp w).fe.find? (fun f => feReady s w f lane) else none) with
  | none => .next { s with report := .disabled }
  | some f =>
    let (f, s) := feLane s w f lane
    if f.left = 0#32 then
      let s := feEnd s w f
      match (s.warp w).sub f.sub with
      | some u => .next { arriveCheck (makeReady s w u) w u.id with report := .done }
      | none => .next { s with report := .done }
    else
      .next { s.modWarp w (fun x => { x with subs := x.subs.map (fun u => if u.id == f.sub then { u with hold := .fullEmpty f.load f.left } else u) })
        with report := .done }

/-! LDX and WAITC (R195, R196). -/

/-- An unused number for an LDX of a warp. -/
def freeLdx (x : Warp) : Nat := ((List.range 33).find? (fun n => !x.ldx.any (fun l => l.id == n))).getD 33

/-- The counter `ac[n]` rises by one (R195). -/
def bumpAc (x : Warp) (n : Nat) : Warp := { x with ac := setPad 0#16 x.ac n (((x.ac[n]?).getD 0#16) + 1) }

/-- The checks of LDX (R188, R195): a 33rd outstanding one waits. -/
def ldxChecks (c : Ctx) (d : Dst) (spad : Bool) (n : Nat) (a : Src) (off : Int) : M Places := do
  checkDst c d
  checkSrcs c (addrSrcs spad a) c.on
  let s ← M.st
  let al ← addrLabel c spad a
  let ps ← checkAccess c spad c.on (effAddr s c spad a off) n .read (fun i => al.get 0#8 i)
  M.await (decide ((s.warp c.w).ldx.length < 32))
  awaitReads c n ps
  pure ps

/-- The label of each lane's reply (R31, R195). -/
def ldxLabels (s : State) (c : Ctx) (spad : Bool) (a : Src) (ps : Places) (t : State) : SMap Label × State :=
  t.joinLanes c.w c.on (fun i =>
    placeLabel s c (placeOf ps i) :: addrLbls t c spad a i ++ [pathIn t c.w c.on i] ++ c.kl)

/-- What an LDX leaves in flight (R195): the values read at issue, for the lanes of on (when the value is read: DEDUCED, log entry 64). -/
def ldxOf (s : State) (c : Ctx) (w : W0) (x : W1) (ps : Places) (y : Warp) : Ldx :=
  let sz := sizeOf' x
  let reg : Bool × Nat := if w.wbs then (false, 20) else match dstD w x with
    | .o n => (false, n)
    | .v n => (true, n)
    | _ => (false, 20)
  { id := freeLdx y, ac := (field w.b 0 4).toNat, main := reg.1, reg := reg.2, left := c.on
    val := (lanesOf c.on).map (fun i => (i, loadWords sz (placeRead s c (sizeBytes sz) (placeOf ps i))))
    lbl := (ldxLabels s c (w.b.getLsbD 4) (srcA w x) ps s).1
    bad := maskOf (fun i => hasLane c.on i && placePoison s c (sizeBytes sz) (placeOf ps i)) }

/-- The capture of an LDX (R69, R89): the first register of each lane's value, zero in helper lanes, whatever its destination. -/
def ldxCapture (c : Ctx) (w : W0) (l : Ldx) : M Unit := do
  let kept ← M.run' (keptLanes c w (c.act &&& ~~~c.run))
  M.upd (capture c w.latch.toNat ((lanesOf c.on).foldl (fun m i =>
    m.set Reg.zero i ⟨((SMap.get [] l.val i)[0]?).getD 0#32, l.lbl.get 0#8 i, hasLane l.bad i, false⟩) kept))

/-- LDX (R195, R207): checked and performed at issue, its result captured; the replies land later. -/
def ldxBody (c : Ctx) (w : W0) (x : W1) (off : Int) : M Done := do
  let spad := w.b.getLsbD 4
  let ac := (field w.b 0 4).toNat
  let sz := sizeOf' x
  let a := srcA w x
  let d := dstD w x
  let ps ← ldxChecks c d spad (sizeBytes sz) a off
  let s ← M.st
  let _ ← M.run' (ldxLabels s c spad a ps)
  lastUse c ((addrSrcs spad a).map (fun y => (w.luA, y)))
  M.upd (fun s => if w.wbs then s else joinOff c d (sizeRegs sz) s)
  M.upd (countPasses c spad ps false)
  ldxCapture c w (ldxOf s c w x ps (s.warp c.w))
  if c.on = 0#32 then
    M.upd (fun s => s.modWarp c.w (fun x => bumpAc x ac))
    pure .next
  else
    M.upd (fun s => if w.wbs then s else zeroHelpers c d (sizeRegs sz) s)
    M.upd (fun t => t.modWarp c.w (fun y => { y with ldx := y.ldx ++ [ldxOf s c w x ps y] }))
    pure .next

/-- LDX, 64-bit form (R195). -/
def execLdx64 (p : Pfx) (w : W0) (x : W1) (s : State) : Out :=
  issue p (WF.ldx_64 p w x) s (fun c => ldxBody c w x (byteOff x))
/-- LDX, 96-bit form (R195). -/
def execLdx96 (p : Pfx) (w : W0) (x : W1) (lit : Word) (s : State) : Out :=
  issue p (WF.ldx_96 p w x lit) s (fun c => ldxBody c w x lit.toInt)

/-- Put the registers of a landed reply. -/
def ldxPut (x : Warp) (l : Ldx) (lane : Nat) (vs : List Word) (lbl : Label) (bad : Bool) : Warp :=
  (vs.zipIdx).foldl (fun (x : Warp) (p : Word × Nat) =>
    let r : Reg := ⟨p.1, lbl, bad, false⟩
    if l.main then { x with v := x.v.set Reg.zero (32 * (l.reg + p.2) + lane) r }
    else if l.reg < 16 then { x with o := x.o.set Reg.zero (32 * (l.reg + p.2) + lane) r } else x) x

/-- LDX_REPLY (R195): the reply of a lane lands; with the last one the counter rises. A program that has written the destination
since finds whichever came later. -/
def execLdxReply (w id lane : Nat) (s : State) : Out :=
  match (s.warp w).ldx.find? (fun l => l.id == id && hasLane l.left lane) with
  | none => .next { s with report := .disabled }
  | some l =>
    let s := s.modWarp w (fun x => ldxPut x l lane (SMap.get [] l.val lane) (l.lbl.get 0#8 lane) (hasLane l.bad lane))
    let left := l.left &&& ~~~(laneBit lane)
    let s := s.modWarp w (fun x =>
      if left = 0#32 then bumpAc { x with ldx := x.ldx.filter (fun m => m.id != id) } l.ac
      else { x with ldx := x.ldx.map (fun m => if m.id == id then { m with left := left } else m) })
    .next { s with report := .done }

/-- WAITC (R196). -/
def execWaitc (p : Pfx) (w : W0) (x : W1) (s : State) : Out :=
  issue p (WF.waitc p w x) s (fun c => do
    if c.on = 0#32 then pure .next
    else
      let s ← M.st
      M.await (decide (((((s.warp c.w).ac[w.a.toNat]?).getD 0#16) - x.hi).toNat < 2 ^ 15))
      pure .next)

/-! PRF (R205). -/

/-- PRF, 32-bit form (R205): no access event, no check, no trap; it changes nothing but timing. -/
def execPrf32 (p : Pfx) (w : W0) (s : State) : Out :=
  issue p (WF.prf_32 p w) s (fun c => do
    lastUse c [(w.luA, .code w.a), (w.luA, (Src.code w.a).up 1)]
    pure .next)
/-- PRF, 64-bit form (R205). -/
def execPrf64 (p : Pfx) (w : W0) (x : W1) (s : State) : Out :=
  issue p (WF.prf_64 p w x) s (fun c => do
    lastUse c [(w.luA, .code w.a), (w.luA, (Src.code w.a).up 1)]
    pure .next)

/-! GRAISE and GLBL (R200). -/

/-- The ceiling of a raise (R200): the page's ceiling on a floating page, else the page label; the clearance in scratchpad. -/
def raiseCeiling (s : State) (c : Ctx) : Place → Label
  | .mem p => if p.floating then p.ceiling else p.label
  | .spad _ _ => (s.warp c.w).clearance

/-- The key of a granule, to follow several raises of one granule in one instruction. -/
def granuleKey : Place → Nat
  | .mem p => (if p.loc.host then 2 ^ 60 else 2 ^ 59) + granule p.loc.pa
  | .spad b off => b * 2 ^ 16 + granule off

/-- A raise of a global granule is issued like a store (R200). -/
def issueLabel (s : State) (c : Ctx) (p : Page) (va : DWord) (lbl : Label) (lane : Nat) : State :=
  let f := State.mkFlight c.w c.die c.vd p.loc va .label lbl c.pc (laneBit lane) 1 0
  s.issueFlight f (fun s => s.setLabelAt c.die p.loc lbl)

/-- The new labels of the lanes' granules in ascending lane order, each starting from what the lanes before it left. -/
def raiseLanes (c : Ctx) (ps : Places) (lbls : State → Nat → List Label) : M (SMap Label) :=
  M.run' (fun s => (fun (r : SMap Label × SMap Label × State) => (r.1, r.2.2)) ((lanesOf c.on).foldl
    (fun (r : SMap Label × SMap Label × State) i =>
      let k := granuleKey (placeOf ps i)
      let cur := (r.2.1.get? k).getD (guardLabel r.2.2 c (placeOf ps i))
      let (l, s) := r.2.2.joinList c.w (cur :: lbls r.2.2 i ++ [pathIn r.2.2 c.w c.on i] ++ c.kl)
      (r.1.set 0#8 i l, r.2.1.put k l, s)) ([], [], s)))

/-- The checks of GRAISE (R188, R200): the places of the lanes, and the labels that they get, below their ceilings. -/
def graiseChecks (c : Ctx) (spad : Bool) (a b : Src) : M (Places × SMap Label) := do
  checkSrcs c (b :: addrSrcs spad a) c.on
  let s ← M.st
  let al ← addrLabel c spad a
  let ps ← checkAccess c spad c.on (effAddr s c spad a 0) 1 .label (fun i => al.get 0#8 i)
  awaitLabels c ps
  let ls ← raiseLanes c ps (fun s i => srcLbl s c b i :: addrLbls s c spad a i)
  let s ← M.st
  requireDomAt c 6 c.on ls (fun i => raiseCeiling s c (placeOf ps i)) (effAddr s c spad a 0)
  pure (ps, ls)

/-- The raises of the lanes of on, in ascending order: a scratchpad granule's at once, a global one's issued like a store (R200). -/
def raiseGranules (c : Ctx) (ps : Places) (addr : Nat → DWord) (ls : SMap Label) (s : State) : State :=
  (lanesOf c.on).foldl (fun s i =>
    match placeOf ps i with
    | .mem q => issueLabel s c q (addr i) (ls.get 0#8 i) i
    | .spad bl off => s.modSpad c.w bl (fun y => y.setLabel off (ls.get 0#8 i))) s

/-- GRAISE (R200). -/
def execGraise (p : Pfx) (w : W0) (s : State) : Out :=
  issue p (WF.graise p w) s (fun c => do
    let spad := w.d.getLsbD 0
    let a := Src.code w.a
    let r ← graiseChecks c spad a (.code w.b)
    let s ← M.st
    lastUse c ((w.luB, .code w.b) :: (addrSrcs spad a).map (fun y => (w.luA, y)))
    M.upd (raiseGranules c r.1 (effAddr s c spad a 0) r.2)
    M.upd (countPasses c spad r.1 false)
    pure .next)

/-- The checks of GLBL (R188, R200): the places of the lanes. -/
def glblChecks (c : Ctx) (spad : Bool) (a : Src) : M Places := do
  checkSrcs c (addrSrcs spad a) c.on
  let s ← M.st
  let al ← addrLabel c spad a
  let ps ← checkAccess c spad c.on (effAddr s c spad a 0) 1 .read (fun i => al.get 0#8 i)
  awaitLabels c ps
  pure ps

/-- GLBL (R200): the handle of the granule's label. -/
def execGlbl (p : Pfx) (w : W0) (s : State) : Out :=
  issue p (WF.glbl p w) s (fun c => do
    let spad := w.b.getLsbD 0
    let a := Src.code w.a
    let d := Dst.ofCode w.d
    let ps ← glblChecks c spad a
    let s ← M.st
    let ls ← M.run' (fun t => t.joinLanes c.w c.on (fun i =>
      placeLabel s c (placeOf ps i) :: addrLbls s c spad a i ++ [if d.uniform then c.sub.maskLabel else pathIn s c.w c.on i] ++ c.kl))
    lastUse c ((addrSrcs spad a).map (fun y => (w.luA, y)))
    writeLoaded c w d 1 (fun i => [zext (placeLabel s c (placeOf ps i)) 32]) ls (ls.get 0#8 ((lowestLane c.on).getD 0)) 0#32
    M.upd (countPasses c spad ps false)
    pure .next)

/-! SEAL and UNSEAL (R63, R201). -/

/-- The leaves of a range of 64 KiB pages, in order; a page that is larger is found once per 64 KiB. -/
def rangeLeaves (m : Mmu) (v : Nat) (base : Nat) : Nat → State → List (Nat × Walk) × State
  | 0, s => ([], s)
  | n + 1, s =>
    let (r, s) := s.findLeaf m v (BitVec.ofNat 64 base)
    let (rs, s) := rangeLeaves m v (base + 65536) n s
    ((base, r) :: rs, s)

/-- A store, label or RDM in flight to a frame. -/
def frameBusy (s : State) (l : Loc) : Bool :=
  s.flights.any (fun f => match f.op with
    | .rdm _ _ lanes _ _ => !l.host && lanes.any (fun x => frameOf x.pa == frameOf l.pa)
    | _ => f.host == l.host && frameOf f.pa == frameOf l.pa)

/-- Writes of a VD to a range that have passed their page check by way of a reduction window, and are not home yet (R63, R279): merges of
RDM in flight, lines that a switch holds, and lines on their way home. -/
def windowBusy (s : State) (v base len : Nat) : Bool :=
  let inside (a : Nat) : Bool := decide (base ≤ a) && decide (a < base + len)
  (s.switchLines ++ s.writeBacks).any (fun l => l.vd == v && l.home == s.package.kwid && inside l.va) ||
  s.flights.any (fun f => f.vd == v && (match f.op with
    | .rdm _ _ lanes _ _ => lanes.any (fun x => inside x.va.toNat)
    | _ => false))

/-- The checks of SEAL and UNSEAL, with some lane on (R63, R201): the frames of the range, in order. They wait until the writes in flight to
the range are applied everywhere. -/
def sealChecks (c : Ctx) (a b : Src) : M (List Loc) := do
  checkSrcs c [a, a.up 1, b] c.on
  let s ← M.st
  let base := (pairVal s c a 0).toNat
  let len := (srcVal s c b 0).toNat
  let al ← M.run' (fun s => s.joinList c.w [srcLbl s c a 0, srcLbl s c (a.up 1) 0])
  let fail := fun (e : AccessFault) (va : Nat) =>
    (M.stop (accessTrap c e c.on (fun _ => BitVec.ofNat 64 va) (fun _ => al) 1) : M Unit)
  if base % 65536 ≠ 0 ∨ len = 0 ∨ len % 65536 ≠ 0 then fail .align base
  let pages ← M.run' (rangeLeaves (.quad c.quad) c.vd base (len / 65536))
  match pages.find? (fun p => match p.2 with
      | .leaf l => decide (l.va < base) || decide (base + len < l.va + pageBytes l.size)
      | _ => false) with
  | some p => fail .align p.1
  | none => pure ()
  match pages.find? (fun p => p.2 == .xlate) with
  | some p => fail .xlate p.1
  | none => pure ()
  let s ← M.st
  match pages.find? (fun p => match p.2 with
      | .leaf l => leafBad s l || !leafBit l.bits 5 || s.peerVa c.vd (BitVec.ofNat 64 p.1)
      | _ => true) with
  | some p => fail .prot p.1
  | none => pure ()
  let ls := pages.filterMap (fun p => match p.2 with
      | .leaf l => some (p.1, l)
      | _ => none)
  let chk ← M.run' (fun s => s.joinList c.w ([srcLbl s c a 0, srcLbl s c (a.up 1) 0, srcLbl s c b 0, c.sub.maskLabel] ++ c.kl))
  let s ← M.st
  match ls.find? (fun p => !s.dominates c.vd (leafLabel p.2.bits) chk) with
  | some p => trapLabel c c.on chk (leafLabel p.2.bits) (BitVec.ofNat 64 p.1) 6
  | none => pure ()
  let locs := ls.map (fun p => p.2.loc (BitVec.ofNat 64 p.1))
  M.await (!locs.any (frameBusy s) && !windowBusy s c.vd base len)
  pure locs

/-- Seal or unseal frames. -/
def setSeals (on : Bool) (locs : List Loc) (s : State) : State :=
  { s with sealed := locs.foldl (fun m l => m.set false (sealKey l) on) s.sealed }

/-- The measurements over a range are discarded (R45). -/
def forget (base len : Nat) (x : VD) : VD :=
  { x with measured := x.measured.filter (fun m => !(decide (m.1 < base + len) && decide (base < m.2.1))) }

/-- SEAL or UNSEAL (R201): the region commits; UNSEAL discards the measurements over the range (R45). -/
def sealBody (c : Ctx) (w : W0) (on : Bool) : M Done := do
  let a := Src.code w.a
  let b := Src.code w.b
  if c.on = 0#32 then pure ()
  else
    let locs ← sealChecks c a b
    let s ← M.st
    M.upd (fun s => commit s c.w)
    M.upd (setSeals on locs)
    M.upd (fun t => if on then t else t.modVd c.vd (forget (pairVal s c a 0).toNat (srcVal s c b 0).toNat))
  lastUse c [(w.luA, a), (w.luA, a.up 1), (w.luB, b)]
  pure .next

/-- SEAL (R201). -/
def execSeal (p : Pfx) (w : W0) (s : State) : Out :=
  issue p (WF.seal p w) s (fun c => sealBody c w true)
/-- UNSEAL (R201). -/
def execUnseal (p : Pfx) (w : W0) (s : State) : Out :=
  issue p (WF.unseal p w) s (fun c => sealBody c w false)

end Sys2Proof.Machine
end

