-- ==== Sys2Proof/Decode.lean ====
section
/-! DEFINITION. Decoding fetch lines into instruction groups (R84 to R108) and, after it, the encoder of the same tables. -/

namespace Sys2Proof

open Machine

/-- A first word whose fields are all zero. -/
def W0.zero : W0 := ⟨0#2, false, false, false, 0#6, 0#6, 0#6⟩

/-- A second word whose fields are all zero. -/
def W1.zero : W1 := ⟨0#16, 0#2, 0#8, 0#6⟩

/-- The fields of a first word (R88). -/
def W0.ofWord (v : Word) : W0 :=
  ⟨field v 30 2, v.getLsbD 29, v.getLsbD 28, v.getLsbD 27, field v 21 6, field v 15 6, field v 9 6⟩

/-- The fields of a second word (R90). -/
def W1.ofWord (v : Word) : W1 := ⟨field v 16 16, field v 14 2, field v 6 8, field v 0 6⟩

/-- The length class of a word that starts an instruction; none for a PFX word (R86). -/
def lenOf (v : Word) : Option Len :=
  match (field v 0 2).toNat with
  | 0 => some .w32
  | 1 => some .w64
  | 2 => some .w96
  | _ => none

/-- The words of a length class. -/
def Len.words : Len → Nat
  | .w32 => 1
  | .w64 => 2
  | .w96 => 3

/-- What an instruction group consists of: its page, code, PFX words and words. -/
structure Parts where
  page1 : Bool
  code : BitVec 7
  pfx : Pfx
  w : W0
  x : W1
  lit : Word
  len : Len
  deriving DecidableEq, Repr

noncomputable section

/-- The 32-bit instructions of page 0 by their code (R104). -/
def page0Of32 (p : Pfx) (w : W0) (code : Nat) : Option Instr :=
  match code with
  | 0 => if w = W0.zero then some .nop else none
  | 1 => some (.iadd_32 p w)
  | 2 => some (.isub_32 p w)
  | 3 => some (.iaddc_32 p w)
  | 4 => some (.imul_32 p w)
  | 5 => some (.imulh_32 p w)
  | 6 => some (.imad_32 p w)
  | 7 => some (.imadw_32 p w)
  | 8 => some (.imin_32 p w)
  | 9 => some (.imax_32 p w)
  | 10 => some (.and_32 p w)
  | 11 => some (.or_32 p w)
  | 12 => some (.xor_32 p w)
  | 13 => some (.andn_32 p w)
  | 15 => some (.shl_32 p w)
  | 16 => some (.shr_32 p w)
  | 17 => some (.sar_32 p w)
  | 18 => some (.rot_32 p w)
  | 19 => some (.shf_32 p w)
  | 20 => some (.bfx_32 p w)
  | 21 => some (.bfi_32 p w)
  | 22 => some (.prmt_32 p w)
  | 23 => some (.icmp_32 p w)
  | 24 => some (.isel_32 p w)
  | 25 => some (.lea_32 p w)
  | 26 => some (.fadd_32 p w)
  | 27 => some (.fmul_32 p w)
  | 28 => some (.ffma_32 p w)
  | 29 => some (.fmin_32 p w)
  | 30 => some (.fmax_32 p w)
  | 31 => some (.fcmp_32 p w)
  | 32 => some (.hadd2_32 p w)
  | 33 => some (.hmul2_32 p w)
  | 34 => some (.hfma2_32 p w)
  | 35 => some (.hmin2_32 p w)
  | 36 => some (.hmax2_32 p w)
  | 37 => some (.hcmp2_32 p w)
  | 38 => some (.cvt_32 p w)
  | 39 => some (.cvtp_32 p w)
  | 40 => some (.cvtu_32 p w)
  | 41 => some (.scl_32 p w)
  | 42 => some (.dot2_32 p w)
  | 43 => some (.dot4_32 p w)
  | 44 => some (.dot8_32 p w)
  | 47 => some (.movu_32 p w)
  | 48 => if w.b == 1#6 then some (.movk_from_mask p w) else some (.movk_to_mask p w)
  | 52 => some (.pad p w)
  | 55 => some (.ret p w)
  | 56 => some (.exit p w)
  | 58 => some (.trap_32 p w)
  | 59 => some (.census_32 p w)
  | 60 => some (.pick_32 p w)
  | 61 => some (.peers_32 p w)
  | 62 => some (.qx_32 p w)
  | 63 => some (.red_32 p w)
  | 64 => some (.scan_32 p w)
  | 67 => if w.b == 20#6 then some (.sreg_read p w) else some (.sreg_write p w)
  | 68 => some (.lraise_32 p w)
  | 69 => if field w.d 3 3 == 1#3 then some (.lchk_k_32 p w) else some (.lchk_32 p w)
  | 71 => some (.ld_32 p w)
  | 72 => some (.st_32 p w)
  | 73 => some (.lds_32 p w)
  | 74 => some (.sts_32 p w)
  | 75 => some (.ldf_32 p w)
  | 76 => some (.ste_32 p w)
  | 82 => some (.fence p w)
  | 83 => some (.bar_32 p w)
  | 84 => some (.barw p w)
  | 85 => some (.prf_32 p w)
  | 86 => some (.graise p w)
  | 87 => some (.glbl p w)
  | 88 => some (.qbind p w)
  | 89 => some (.qpoll p w)
  | 90 => some (.qrd p w)
  | 91 => some (.qwr p w)
  | 112 => some (.mb_send_32 p w)
  | 113 => some (.lock_32 p w)
  | 114 => some (.trylock_32 p w)
  | 115 => some (.unlock_32 p w)
  | 116 => some (.promise p w)
  | 119 => some (.nop_h0 w)
  | 120 => some (.nop_h1 w)
  | 121 => some (.nop_h2 w)
  | 122 => some (.nop_h3 w)
  | _ => none

/-- The 32-bit instructions of page 1 by their code (R105). -/
def page1Of32 (p : Pfx) (w : W0) (code : Nat) : Option Instr :=
  match code with
  | 1 => some (.ineg p w)
  | 2 => some (.iabs p w)
  | 3 => some (.popc p w)
  | 4 => some (.clz p w)
  | 5 => some (.ctz p w)
  | 6 => some (.brev p w)
  | 7 => some (.frcp p w)
  | 8 => some (.frsq p w)
  | 9 => some (.fsqrt p w)
  | 10 => some (.fexp2 p w)
  | 11 => some (.flog2 p w)
  | 12 => some (.fsin p w)
  | 13 => some (.fcos p w)
  | 14 => some (.ftanh p w)
  | 15 => some (.frnd p w)
  | 16 => some (.ffrc p w)
  | 17 => some (.kill p w)
  | 18 => some (.syncw p w)
  | 19 => some (.yield p w)
  | 20 => some (.bkpt p w)
  | 21 => some (.elect p w)
  | 22 => some (.lget p w)
  | 23 => some (.seal p w)
  | 24 => some (.unseal p w)
  | 25 => some (.qfree p w)
  | 26 => some (.rett p w)
  | 27 => some (.tclr p w)
  | 28 => some (.tmask p w)
  | 29 => some (.halt p w)
  | 30 => some (.mx_gang p w)
  | 31 => some (.mx_wait p w)
  | 32 => some (.mx_drop p w)
  | 33 => some (.xf_wait p w)
  | 34 => some (.xf_cancel p w)
  | 35 => some (.bobj_arv p w)
  | 36 => some (.cl_flush p w)
  | 37 => some (.mb_ver p w)
  | 38 => some (.mb_mode p w)
  | 39 => some (.will p w)
  | 40 => some (.estq p w)
  | 41 => some (.lwait p w)
  | _ => none

/-- The 64-bit instructions of page 0 by their code (R104). -/
def page0Of64 (p : Pfx) (w : W0) (x : W1) (code : Nat) : Option Instr :=
  match code with
  | 1 => some (.iadd_64 p w x)
  | 2 => some (.isub_64 p w x)
  | 3 => some (.iaddc_64 p w x)
  | 4 => some (.imul_64 p w x)
  | 5 => some (.imulh_64 p w x)
  | 6 => some (.imad_64 p w x)
  | 7 => some (.imadw_64 p w x)
  | 8 => some (.imin_64 p w x)
  | 9 => some (.imax_64 p w x)
  | 10 => some (.and_64 p w x)
  | 11 => some (.or_64 p w x)
  | 12 => some (.xor_64 p w x)
  | 13 => some (.andn_64 p w x)
  | 14 => some (.bool3_64 p w x)
  | 15 => some (.shl_64 p w x)
  | 16 => some (.shr_64 p w x)
  | 17 => some (.sar_64 p w x)
  | 18 => some (.rot_64 p w x)
  | 19 => some (.shf_64 p w x)
  | 20 => some (.bfx_64 p w x)
  | 21 => some (.bfi_64 p w x)
  | 22 => some (.prmt_64 p w x)
  | 23 => some (.icmp_64 p w x)
  | 24 => some (.isel_64 p w x)
  | 25 => some (.lea_64 p w x)
  | 26 => some (.fadd_64 p w x)
  | 27 => some (.fmul_64 p w x)
  | 28 => some (.ffma_64 p w x)
  | 29 => some (.fmin_64 p w x)
  | 30 => some (.fmax_64 p w x)
  | 31 => some (.fcmp_64 p w x)
  | 32 => some (.hadd2_64 p w x)
  | 33 => some (.hmul2_64 p w x)
  | 34 => some (.hfma2_64 p w x)
  | 35 => some (.hmin2_64 p w x)
  | 36 => some (.hmax2_64 p w x)
  | 37 => some (.hcmp2_64 p w x)
  | 38 => some (.cvt_64 p w x)
  | 39 => some (.cvtp_64 p w x)
  | 40 => some (.cvtu_64 p w x)
  | 41 => some (.scl_64 p w x)
  | 42 => some (.dot2_64 p w x)
  | 43 => some (.dot4_64 p w x)
  | 44 => some (.dot8_64 p w x)
  | 45 => some (.movo p w x)
  | 46 => some (.movm p w x)
  | 47 => some (.movu_64 p w x)
  | 49 => some (.ldi_64 p w x)
  | 50 => some (.bra_64 p w x)
  | 51 => some (.brx p w x)
  | 53 => some (.call_64 p w x)
  | 54 => some (.callx p w x)
  | 57 => some (.cue_64 p w x)
  | 58 => some (.trap_64 p w x)
  | 59 => some (.census_64 p w x)
  | 60 => some (.pick_64 p w x)
  | 61 => some (.peers_64 p w x)
  | 62 => some (.qx_64 p w x)
  | 63 => some (.red_64 p w x)
  | 64 => some (.scan_64 p w x)
  | 65 => some (.draw p w x)
  | 66 => some (.drawm p w x)
  | 68 => some (.lraise_64 p w x)
  | 69 => if field w.d 3 3 == 1#3 then some (.lchk_k_64 p w x) else some (.lchk_64 p w x)
  | 70 => if field x.hi 6 10 == 1#10 then some (.dcl_g p w x) else if field x.hi 6 10 == 2#10 then some (.dcl_sp p w x) else some (.dcl_reg p w x)
  | 71 => some (.ld_64 p w x)
  | 72 => some (.st_64 p w x)
  | 73 => some (.lds_64 p w x)
  | 74 => some (.sts_64 p w x)
  | 75 => some (.ldf_64 p w x)
  | 76 => some (.ste_64 p w x)
  | 77 => some (.ldx_64 p w x)
  | 78 => some (.waitc p w x)
  | 79 => some (.atom p w x)
  | 80 => some (.atoms p w x)
  | 81 => some (.rdm p w x)
  | 83 => some (.bar_64 p w x)
  | 85 => some (.prf_64 p w x)
  | 92 => some (.mx_fmt p w x)
  | 93 => some (.mx_ldb p w x)
  | 94 => some (.mx_mma p w x)
  | 95 => some (.mx_mmas p w x)
  | 96 => some (.mx_zero p w x)
  | 97 => some (.mx_rd p w x)
  | 98 => some (.mx_wr p w x)
  | 99 => some (.mx_rdv p w x)
  | 100 => some (.mx_qnt p w x)
  | 101 => some (.xf_copy_64 p w x)
  | 102 => some (.xf_pref p w x)
  | 103 => some (.xf_yield p w x)
  | 104 => some (.bobj_init p w x)
  | 105 => some (.cl_put p w x)
  | 106 => some (.cl_get p w x)
  | 107 => some (.cl_red p w x)
  | 108 => some (.cl_atom p w x)
  | 109 => some (.cl_draw p w x)
  | 110 => some (.cl_sig p w x)
  | 111 => some (.mb_open p w x)
  | 112 => if x.hi.getLsbD 1 then some (.mb_send_sp p w x) else some (.mb_send_64 p w x)
  | 113 => some (.lock_64 p w x)
  | 114 => some (.trylock_64 p w x)
  | 115 => some (.unlock_64 p w x)
  | 117 => some (.heir p w x)
  | 118 => some (.launch p w x)
  | _ => none

/-- The 96-bit instructions of page 0 by their code (R104). -/
def page0Of96 (p : Pfx) (w : W0) (x : W1) (lit : Word) (code : Nat) : Option Instr :=
  match code with
  | 1 => some (.iadd_96 p w x lit)
  | 2 => some (.isub_96 p w x lit)
  | 3 => some (.iaddc_96 p w x lit)
  | 4 => some (.imul_96 p w x lit)
  | 5 => some (.imulh_96 p w x lit)
  | 6 => some (.imad_96 p w x lit)
  | 7 => some (.imadw_96 p w x lit)
  | 8 => some (.imin_96 p w x lit)
  | 9 => some (.imax_96 p w x lit)
  | 10 => some (.and_96 p w x lit)
  | 11 => some (.or_96 p w x lit)
  | 12 => some (.xor_96 p w x lit)
  | 13 => some (.andn_96 p w x lit)
  | 14 => some (.bool3_96 p w x lit)
  | 15 => some (.shl_96 p w x lit)
  | 16 => some (.shr_96 p w x lit)
  | 17 => some (.sar_96 p w x lit)
  | 18 => some (.rot_96 p w x lit)
  | 19 => some (.shf_96 p w x lit)
  | 20 => some (.bfx_96 p w x lit)
  | 21 => some (.bfi_96 p w x lit)
  | 22 => some (.prmt_96 p w x lit)
  | 23 => some (.icmp_96 p w x lit)
  | 24 => some (.isel_96 p w x lit)
  | 25 => some (.lea_96 p w x lit)
  | 26 => some (.fadd_96 p w x lit)
  | 27 => some (.fmul_96 p w x lit)
  | 28 => some (.ffma_96 p w x lit)
  | 29 => some (.fmin_96 p w x lit)
  | 30 => some (.fmax_96 p w x lit)
  | 31 => some (.fcmp_96 p w x lit)
  | 32 => some (.hadd2_96 p w x lit)
  | 33 => some (.hmul2_96 p w x lit)
  | 34 => some (.hfma2_96 p w x lit)
  | 35 => some (.hmin2_96 p w x lit)
  | 36 => some (.hmax2_96 p w x lit)
  | 37 => some (.hcmp2_96 p w x lit)
  | 49 => some (.ldi_96 p w x lit)
  | 50 => some (.bra_96 p w x lit)
  | 53 => some (.call_96 p w x lit)
  | 57 => some (.cue_96 p w x lit)
  | 71 => some (.ld_96 p w x lit)
  | 72 => some (.st_96 p w x lit)
  | 73 => some (.lds_96 p w x lit)
  | 74 => some (.sts_96 p w x lit)
  | 77 => some (.ldx_96 p w x lit)
  | 101 => some (.xf_copy_96 p w x lit)
  | _ => none

/-- The instruction that an opcode and its words stand for; an opcode that its length class and page do not assign answers
none (R104, R105). -/
def Parts.instr (q : Parts) : Option Instr :=
  match q.page1, q.len with
  | false, .w32 => page0Of32 q.pfx q.w q.code.toNat
  | true, .w32 => page1Of32 q.pfx q.w q.code.toNat
  | false, .w64 => page0Of64 q.pfx q.w q.x q.code.toNat
  | false, .w96 => page0Of96 q.pfx q.w q.x q.lit q.code.toNat
  | true, _ => none

/-- The parts of a warp instruction's group; an event has no words. -/
def Instr.parts : Instr → Option Parts
  | .nop => some ⟨false, 0#7, .none, W0.zero, W1.zero, 0#32, .w32⟩
  | .iadd_32 p w => some ⟨false, 1#7, p, w, W1.zero, 0#32, .w32⟩
  | .iadd_64 p w x => some ⟨false, 1#7, p, w, x, 0#32, .w64⟩
  | .iadd_96 p w x lit => some ⟨false, 1#7, p, w, x, lit, .w96⟩
  | .isub_32 p w => some ⟨false, 2#7, p, w, W1.zero, 0#32, .w32⟩
  | .isub_64 p w x => some ⟨false, 2#7, p, w, x, 0#32, .w64⟩
  | .isub_96 p w x lit => some ⟨false, 2#7, p, w, x, lit, .w96⟩
  | .iaddc_32 p w => some ⟨false, 3#7, p, w, W1.zero, 0#32, .w32⟩
  | .iaddc_64 p w x => some ⟨false, 3#7, p, w, x, 0#32, .w64⟩
  | .iaddc_96 p w x lit => some ⟨false, 3#7, p, w, x, lit, .w96⟩
  | .imul_32 p w => some ⟨false, 4#7, p, w, W1.zero, 0#32, .w32⟩
  | .imul_64 p w x => some ⟨false, 4#7, p, w, x, 0#32, .w64⟩
  | .imul_96 p w x lit => some ⟨false, 4#7, p, w, x, lit, .w96⟩
  | .imulh_32 p w => some ⟨false, 5#7, p, w, W1.zero, 0#32, .w32⟩
  | .imulh_64 p w x => some ⟨false, 5#7, p, w, x, 0#32, .w64⟩
  | .imulh_96 p w x lit => some ⟨false, 5#7, p, w, x, lit, .w96⟩
  | .imad_32 p w => some ⟨false, 6#7, p, w, W1.zero, 0#32, .w32⟩
  | .imad_64 p w x => some ⟨false, 6#7, p, w, x, 0#32, .w64⟩
  | .imad_96 p w x lit => some ⟨false, 6#7, p, w, x, lit, .w96⟩
  | .imadw_32 p w => some ⟨false, 7#7, p, w, W1.zero, 0#32, .w32⟩
  | .imadw_64 p w x => some ⟨false, 7#7, p, w, x, 0#32, .w64⟩
  | .imadw_96 p w x lit => some ⟨false, 7#7, p, w, x, lit, .w96⟩
  | .imin_32 p w => some ⟨false, 8#7, p, w, W1.zero, 0#32, .w32⟩
  | .imin_64 p w x => some ⟨false, 8#7, p, w, x, 0#32, .w64⟩
  | .imin_96 p w x lit => some ⟨false, 8#7, p, w, x, lit, .w96⟩
  | .imax_32 p w => some ⟨false, 9#7, p, w, W1.zero, 0#32, .w32⟩
  | .imax_64 p w x => some ⟨false, 9#7, p, w, x, 0#32, .w64⟩
  | .imax_96 p w x lit => some ⟨false, 9#7, p, w, x, lit, .w96⟩
  | .and_32 p w => some ⟨false, 10#7, p, w, W1.zero, 0#32, .w32⟩
  | .and_64 p w x => some ⟨false, 10#7, p, w, x, 0#32, .w64⟩
  | .and_96 p w x lit => some ⟨false, 10#7, p, w, x, lit, .w96⟩
  | .or_32 p w => some ⟨false, 11#7, p, w, W1.zero, 0#32, .w32⟩
  | .or_64 p w x => some ⟨false, 11#7, p, w, x, 0#32, .w64⟩
  | .or_96 p w x lit => some ⟨false, 11#7, p, w, x, lit, .w96⟩
  | .xor_32 p w => some ⟨false, 12#7, p, w, W1.zero, 0#32, .w32⟩
  | .xor_64 p w x => some ⟨false, 12#7, p, w, x, 0#32, .w64⟩
  | .xor_96 p w x lit => some ⟨false, 12#7, p, w, x, lit, .w96⟩
  | .andn_32 p w => some ⟨false, 13#7, p, w, W1.zero, 0#32, .w32⟩
  | .andn_64 p w x => some ⟨false, 13#7, p, w, x, 0#32, .w64⟩
  | .andn_96 p w x lit => some ⟨false, 13#7, p, w, x, lit, .w96⟩
  | .bool3_64 p w x => some ⟨false, 14#7, p, w, x, 0#32, .w64⟩
  | .bool3_96 p w x lit => some ⟨false, 14#7, p, w, x, lit, .w96⟩
  | .shl_32 p w => some ⟨false, 15#7, p, w, W1.zero, 0#32, .w32⟩
  | .shl_64 p w x => some ⟨false, 15#7, p, w, x, 0#32, .w64⟩
  | .shl_96 p w x lit => some ⟨false, 15#7, p, w, x, lit, .w96⟩
  | .shr_32 p w => some ⟨false, 16#7, p, w, W1.zero, 0#32, .w32⟩
  | .shr_64 p w x => some ⟨false, 16#7, p, w, x, 0#32, .w64⟩
  | .shr_96 p w x lit => some ⟨false, 16#7, p, w, x, lit, .w96⟩
  | .sar_32 p w => some ⟨false, 17#7, p, w, W1.zero, 0#32, .w32⟩
  | .sar_64 p w x => some ⟨false, 17#7, p, w, x, 0#32, .w64⟩
  | .sar_96 p w x lit => some ⟨false, 17#7, p, w, x, lit, .w96⟩
  | .rot_32 p w => some ⟨false, 18#7, p, w, W1.zero, 0#32, .w32⟩
  | .rot_64 p w x => some ⟨false, 18#7, p, w, x, 0#32, .w64⟩
  | .rot_96 p w x lit => some ⟨false, 18#7, p, w, x, lit, .w96⟩
  | .shf_32 p w => some ⟨false, 19#7, p, w, W1.zero, 0#32, .w32⟩
  | .shf_64 p w x => some ⟨false, 19#7, p, w, x, 0#32, .w64⟩
  | .shf_96 p w x lit => some ⟨false, 19#7, p, w, x, lit, .w96⟩
  | .bfx_32 p w => some ⟨false, 20#7, p, w, W1.zero, 0#32, .w32⟩
  | .bfx_64 p w x => some ⟨false, 20#7, p, w, x, 0#32, .w64⟩
  | .bfx_96 p w x lit => some ⟨false, 20#7, p, w, x, lit, .w96⟩
  | .bfi_32 p w => some ⟨false, 21#7, p, w, W1.zero, 0#32, .w32⟩
  | .bfi_64 p w x => some ⟨false, 21#7, p, w, x, 0#32, .w64⟩
  | .bfi_96 p w x lit => some ⟨false, 21#7, p, w, x, lit, .w96⟩
  | .prmt_32 p w => some ⟨false, 22#7, p, w, W1.zero, 0#32, .w32⟩
  | .prmt_64 p w x => some ⟨false, 22#7, p, w, x, 0#32, .w64⟩
  | .prmt_96 p w x lit => some ⟨false, 22#7, p, w, x, lit, .w96⟩
  | .icmp_32 p w => some ⟨false, 23#7, p, w, W1.zero, 0#32, .w32⟩
  | .icmp_64 p w x => some ⟨false, 23#7, p, w, x, 0#32, .w64⟩
  | .icmp_96 p w x lit => some ⟨false, 23#7, p, w, x, lit, .w96⟩
  | .isel_32 p w => some ⟨false, 24#7, p, w, W1.zero, 0#32, .w32⟩
  | .isel_64 p w x => some ⟨false, 24#7, p, w, x, 0#32, .w64⟩
  | .isel_96 p w x lit => some ⟨false, 24#7, p, w, x, lit, .w96⟩
  | .lea_32 p w => some ⟨false, 25#7, p, w, W1.zero, 0#32, .w32⟩
  | .lea_64 p w x => some ⟨false, 25#7, p, w, x, 0#32, .w64⟩
  | .lea_96 p w x lit => some ⟨false, 25#7, p, w, x, lit, .w96⟩
  | .fadd_32 p w => some ⟨false, 26#7, p, w, W1.zero, 0#32, .w32⟩
  | .fadd_64 p w x => some ⟨false, 26#7, p, w, x, 0#32, .w64⟩
  | .fadd_96 p w x lit => some ⟨false, 26#7, p, w, x, lit, .w96⟩
  | .fmul_32 p w => some ⟨false, 27#7, p, w, W1.zero, 0#32, .w32⟩
  | .fmul_64 p w x => some ⟨false, 27#7, p, w, x, 0#32, .w64⟩
  | .fmul_96 p w x lit => some ⟨false, 27#7, p, w, x, lit, .w96⟩
  | .ffma_32 p w => some ⟨false, 28#7, p, w, W1.zero, 0#32, .w32⟩
  | .ffma_64 p w x => some ⟨false, 28#7, p, w, x, 0#32, .w64⟩
  | .ffma_96 p w x lit => some ⟨false, 28#7, p, w, x, lit, .w96⟩
  | .fmin_32 p w => some ⟨false, 29#7, p, w, W1.zero, 0#32, .w32⟩
  | .fmin_64 p w x => some ⟨false, 29#7, p, w, x, 0#32, .w64⟩
  | .fmin_96 p w x lit => some ⟨false, 29#7, p, w, x, lit, .w96⟩
  | .fmax_32 p w => some ⟨false, 30#7, p, w, W1.zero, 0#32, .w32⟩
  | .fmax_64 p w x => some ⟨false, 30#7, p, w, x, 0#32, .w64⟩
  | .fmax_96 p w x lit => some ⟨false, 30#7, p, w, x, lit, .w96⟩
  | .fcmp_32 p w => some ⟨false, 31#7, p, w, W1.zero, 0#32, .w32⟩
  | .fcmp_64 p w x => some ⟨false, 31#7, p, w, x, 0#32, .w64⟩
  | .fcmp_96 p w x lit => some ⟨false, 31#7, p, w, x, lit, .w96⟩
  | .hadd2_32 p w => some ⟨false, 32#7, p, w, W1.zero, 0#32, .w32⟩
  | .hadd2_64 p w x => some ⟨false, 32#7, p, w, x, 0#32, .w64⟩
  | .hadd2_96 p w x lit => some ⟨false, 32#7, p, w, x, lit, .w96⟩
  | .hmul2_32 p w => some ⟨false, 33#7, p, w, W1.zero, 0#32, .w32⟩
  | .hmul2_64 p w x => some ⟨false, 33#7, p, w, x, 0#32, .w64⟩
  | .hmul2_96 p w x lit => some ⟨false, 33#7, p, w, x, lit, .w96⟩
  | .hfma2_32 p w => some ⟨false, 34#7, p, w, W1.zero, 0#32, .w32⟩
  | .hfma2_64 p w x => some ⟨false, 34#7, p, w, x, 0#32, .w64⟩
  | .hfma2_96 p w x lit => some ⟨false, 34#7, p, w, x, lit, .w96⟩
  | .hmin2_32 p w => some ⟨false, 35#7, p, w, W1.zero, 0#32, .w32⟩
  | .hmin2_64 p w x => some ⟨false, 35#7, p, w, x, 0#32, .w64⟩
  | .hmin2_96 p w x lit => some ⟨false, 35#7, p, w, x, lit, .w96⟩
  | .hmax2_32 p w => some ⟨false, 36#7, p, w, W1.zero, 0#32, .w32⟩
  | .hmax2_64 p w x => some ⟨false, 36#7, p, w, x, 0#32, .w64⟩
  | .hmax2_96 p w x lit => some ⟨false, 36#7, p, w, x, lit, .w96⟩
  | .hcmp2_32 p w => some ⟨false, 37#7, p, w, W1.zero, 0#32, .w32⟩
  | .hcmp2_64 p w x => some ⟨false, 37#7, p, w, x, 0#32, .w64⟩
  | .hcmp2_96 p w x lit => some ⟨false, 37#7, p, w, x, lit, .w96⟩
  | .cvt_32 p w => some ⟨false, 38#7, p, w, W1.zero, 0#32, .w32⟩
  | .cvt_64 p w x => some ⟨false, 38#7, p, w, x, 0#32, .w64⟩
  | .cvtp_32 p w => some ⟨false, 39#7, p, w, W1.zero, 0#32, .w32⟩
  | .cvtp_64 p w x => some ⟨false, 39#7, p, w, x, 0#32, .w64⟩
  | .cvtu_32 p w => some ⟨false, 40#7, p, w, W1.zero, 0#32, .w32⟩
  | .cvtu_64 p w x => some ⟨false, 40#7, p, w, x, 0#32, .w64⟩
  | .scl_32 p w => some ⟨false, 41#7, p, w, W1.zero, 0#32, .w32⟩
  | .scl_64 p w x => some ⟨false, 41#7, p, w, x, 0#32, .w64⟩
  | .dot2_32 p w => some ⟨false, 42#7, p, w, W1.zero, 0#32, .w32⟩
  | .dot2_64 p w x => some ⟨false, 42#7, p, w, x, 0#32, .w64⟩
  | .dot4_32 p w => some ⟨false, 43#7, p, w, W1.zero, 0#32, .w32⟩
  | .dot4_64 p w x => some ⟨false, 43#7, p, w, x, 0#32, .w64⟩
  | .dot8_32 p w => some ⟨false, 44#7, p, w, W1.zero, 0#32, .w32⟩
  | .dot8_64 p w x => some ⟨false, 44#7, p, w, x, 0#32, .w64⟩
  | .movo p w x => some ⟨false, 45#7, p, w, x, 0#32, .w64⟩
  | .movm p w x => some ⟨false, 46#7, p, w, x, 0#32, .w64⟩
  | .movu_32 p w => some ⟨false, 47#7, p, w, W1.zero, 0#32, .w32⟩
  | .movu_64 p w x => some ⟨false, 47#7, p, w, x, 0#32, .w64⟩
  | .movk_to_mask p w => some ⟨false, 48#7, p, w, W1.zero, 0#32, .w32⟩
  | .movk_from_mask p w => some ⟨false, 48#7, p, w, W1.zero, 0#32, .w32⟩
  | .ldi_64 p w x => some ⟨false, 49#7, p, w, x, 0#32, .w64⟩
  | .ldi_96 p w x lit => some ⟨false, 49#7, p, w, x, lit, .w96⟩
  | .bra_64 p w x => some ⟨false, 50#7, p, w, x, 0#32, .w64⟩
  | .bra_96 p w x lit => some ⟨false, 50#7, p, w, x, lit, .w96⟩
  | .brx p w x => some ⟨false, 51#7, p, w, x, 0#32, .w64⟩
  | .pad p w => some ⟨false, 52#7, p, w, W1.zero, 0#32, .w32⟩
  | .call_64 p w x => some ⟨false, 53#7, p, w, x, 0#32, .w64⟩
  | .call_96 p w x lit => some ⟨false, 53#7, p, w, x, lit, .w96⟩
  | .callx p w x => some ⟨false, 54#7, p, w, x, 0#32, .w64⟩
  | .ret p w => some ⟨false, 55#7, p, w, W1.zero, 0#32, .w32⟩
  | .exit p w => some ⟨false, 56#7, p, w, W1.zero, 0#32, .w32⟩
  | .cue_64 p w x => some ⟨false, 57#7, p, w, x, 0#32, .w64⟩
  | .cue_96 p w x lit => some ⟨false, 57#7, p, w, x, lit, .w96⟩
  | .trap_32 p w => some ⟨false, 58#7, p, w, W1.zero, 0#32, .w32⟩
  | .trap_64 p w x => some ⟨false, 58#7, p, w, x, 0#32, .w64⟩
  | .census_32 p w => some ⟨false, 59#7, p, w, W1.zero, 0#32, .w32⟩
  | .census_64 p w x => some ⟨false, 59#7, p, w, x, 0#32, .w64⟩
  | .pick_32 p w => some ⟨false, 60#7, p, w, W1.zero, 0#32, .w32⟩
  | .pick_64 p w x => some ⟨false, 60#7, p, w, x, 0#32, .w64⟩
  | .peers_32 p w => some ⟨false, 61#7, p, w, W1.zero, 0#32, .w32⟩
  | .peers_64 p w x => some ⟨false, 61#7, p, w, x, 0#32, .w64⟩
  | .qx_32 p w => some ⟨false, 62#7, p, w, W1.zero, 0#32, .w32⟩
  | .qx_64 p w x => some ⟨false, 62#7, p, w, x, 0#32, .w64⟩
  | .red_32 p w => some ⟨false, 63#7, p, w, W1.zero, 0#32, .w32⟩
  | .red_64 p w x => some ⟨false, 63#7, p, w, x, 0#32, .w64⟩
  | .scan_32 p w => some ⟨false, 64#7, p, w, W1.zero, 0#32, .w32⟩
  | .scan_64 p w x => some ⟨false, 64#7, p, w, x, 0#32, .w64⟩
  | .draw p w x => some ⟨false, 65#7, p, w, x, 0#32, .w64⟩
  | .drawm p w x => some ⟨false, 66#7, p, w, x, 0#32, .w64⟩
  | .sreg_read p w => some ⟨false, 67#7, p, w, W1.zero, 0#32, .w32⟩
  | .sreg_write p w => some ⟨false, 67#7, p, w, W1.zero, 0#32, .w32⟩
  | .lraise_32 p w => some ⟨false, 68#7, p, w, W1.zero, 0#32, .w32⟩
  | .lraise_64 p w x => some ⟨false, 68#7, p, w, x, 0#32, .w64⟩
  | .lchk_32 p w => some ⟨false, 69#7, p, w, W1.zero, 0#32, .w32⟩
  | .lchk_k_32 p w => some ⟨false, 69#7, p, w, W1.zero, 0#32, .w32⟩
  | .lchk_64 p w x => some ⟨false, 69#7, p, w, x, 0#32, .w64⟩
  | .lchk_k_64 p w x => some ⟨false, 69#7, p, w, x, 0#32, .w64⟩
  | .dcl_reg p w x => some ⟨false, 70#7, p, w, x, 0#32, .w64⟩
  | .dcl_g p w x => some ⟨false, 70#7, p, w, x, 0#32, .w64⟩
  | .dcl_sp p w x => some ⟨false, 70#7, p, w, x, 0#32, .w64⟩
  | .ld_32 p w => some ⟨false, 71#7, p, w, W1.zero, 0#32, .w32⟩
  | .ld_64 p w x => some ⟨false, 71#7, p, w, x, 0#32, .w64⟩
  | .ld_96 p w x lit => some ⟨false, 71#7, p, w, x, lit, .w96⟩
  | .st_32 p w => some ⟨false, 72#7, p, w, W1.zero, 0#32, .w32⟩
  | .st_64 p w x => some ⟨false, 72#7, p, w, x, 0#32, .w64⟩
  | .st_96 p w x lit => some ⟨false, 72#7, p, w, x, lit, .w96⟩
  | .lds_32 p w => some ⟨false, 73#7, p, w, W1.zero, 0#32, .w32⟩
  | .lds_64 p w x => some ⟨false, 73#7, p, w, x, 0#32, .w64⟩
  | .lds_96 p w x lit => some ⟨false, 73#7, p, w, x, lit, .w96⟩
  | .sts_32 p w => some ⟨false, 74#7, p, w, W1.zero, 0#32, .w32⟩
  | .sts_64 p w x => some ⟨false, 74#7, p, w, x, 0#32, .w64⟩
  | .sts_96 p w x lit => some ⟨false, 74#7, p, w, x, lit, .w96⟩
  | .ldf_32 p w => some ⟨false, 75#7, p, w, W1.zero, 0#32, .w32⟩
  | .ldf_64 p w x => some ⟨false, 75#7, p, w, x, 0#32, .w64⟩
  | .ste_32 p w => some ⟨false, 76#7, p, w, W1.zero, 0#32, .w32⟩
  | .ste_64 p w x => some ⟨false, 76#7, p, w, x, 0#32, .w64⟩
  | .ldx_64 p w x => some ⟨false, 77#7, p, w, x, 0#32, .w64⟩
  | .ldx_96 p w x lit => some ⟨false, 77#7, p, w, x, lit, .w96⟩
  | .waitc p w x => some ⟨false, 78#7, p, w, x, 0#32, .w64⟩
  | .atom p w x => some ⟨false, 79#7, p, w, x, 0#32, .w64⟩
  | .atoms p w x => some ⟨false, 80#7, p, w, x, 0#32, .w64⟩
  | .rdm p w x => some ⟨false, 81#7, p, w, x, 0#32, .w64⟩
  | .fence p w => some ⟨false, 82#7, p, w, W1.zero, 0#32, .w32⟩
  | .bar_32 p w => some ⟨false, 83#7, p, w, W1.zero, 0#32, .w32⟩
  | .bar_64 p w x => some ⟨false, 83#7, p, w, x, 0#32, .w64⟩
  | .barw p w => some ⟨false, 84#7, p, w, W1.zero, 0#32, .w32⟩
  | .prf_32 p w => some ⟨false, 85#7, p, w, W1.zero, 0#32, .w32⟩
  | .prf_64 p w x => some ⟨false, 85#7, p, w, x, 0#32, .w64⟩
  | .graise p w => some ⟨false, 86#7, p, w, W1.zero, 0#32, .w32⟩
  | .glbl p w => some ⟨false, 87#7, p, w, W1.zero, 0#32, .w32⟩
  | .qbind p w => some ⟨false, 88#7, p, w, W1.zero, 0#32, .w32⟩
  | .qpoll p w => some ⟨false, 89#7, p, w, W1.zero, 0#32, .w32⟩
  | .qrd p w => some ⟨false, 90#7, p, w, W1.zero, 0#32, .w32⟩
  | .qwr p w => some ⟨false, 91#7, p, w, W1.zero, 0#32, .w32⟩
  | .mx_fmt p w x => some ⟨false, 92#7, p, w, x, 0#32, .w64⟩
  | .mx_ldb p w x => some ⟨false, 93#7, p, w, x, 0#32, .w64⟩
  | .mx_mma p w x => some ⟨false, 94#7, p, w, x, 0#32, .w64⟩
  | .mx_mmas p w x => some ⟨false, 95#7, p, w, x, 0#32, .w64⟩
  | .mx_zero p w x => some ⟨false, 96#7, p, w, x, 0#32, .w64⟩
  | .mx_rd p w x => some ⟨false, 97#7, p, w, x, 0#32, .w64⟩
  | .mx_wr p w x => some ⟨false, 98#7, p, w, x, 0#32, .w64⟩
  | .mx_rdv p w x => some ⟨false, 99#7, p, w, x, 0#32, .w64⟩
  | .mx_qnt p w x => some ⟨false, 100#7, p, w, x, 0#32, .w64⟩
  | .xf_copy_64 p w x => some ⟨false, 101#7, p, w, x, 0#32, .w64⟩
  | .xf_copy_96 p w x lit => some ⟨false, 101#7, p, w, x, lit, .w96⟩
  | .xf_pref p w x => some ⟨false, 102#7, p, w, x, 0#32, .w64⟩
  | .xf_yield p w x => some ⟨false, 103#7, p, w, x, 0#32, .w64⟩
  | .bobj_init p w x => some ⟨false, 104#7, p, w, x, 0#32, .w64⟩
  | .cl_put p w x => some ⟨false, 105#7, p, w, x, 0#32, .w64⟩
  | .cl_get p w x => some ⟨false, 106#7, p, w, x, 0#32, .w64⟩
  | .cl_red p w x => some ⟨false, 107#7, p, w, x, 0#32, .w64⟩
  | .cl_atom p w x => some ⟨false, 108#7, p, w, x, 0#32, .w64⟩
  | .cl_draw p w x => some ⟨false, 109#7, p, w, x, 0#32, .w64⟩
  | .cl_sig p w x => some ⟨false, 110#7, p, w, x, 0#32, .w64⟩
  | .mb_open p w x => some ⟨false, 111#7, p, w, x, 0#32, .w64⟩
  | .mb_send_32 p w => some ⟨false, 112#7, p, w, W1.zero, 0#32, .w32⟩
  | .mb_send_64 p w x => some ⟨false, 112#7, p, w, x, 0#32, .w64⟩
  | .mb_send_sp p w x => some ⟨false, 112#7, p, w, x, 0#32, .w64⟩
  | .lock_32 p w => some ⟨false, 113#7, p, w, W1.zero, 0#32, .w32⟩
  | .lock_64 p w x => some ⟨false, 113#7, p, w, x, 0#32, .w64⟩
  | .trylock_32 p w => some ⟨false, 114#7, p, w, W1.zero, 0#32, .w32⟩
  | .trylock_64 p w x => some ⟨false, 114#7, p, w, x, 0#32, .w64⟩
  | .unlock_32 p w => some ⟨false, 115#7, p, w, W1.zero, 0#32, .w32⟩
  | .unlock_64 p w x => some ⟨false, 115#7, p, w, x, 0#32, .w64⟩
  | .promise p w => some ⟨false, 116#7, p, w, W1.zero, 0#32, .w32⟩
  | .heir p w x => some ⟨false, 117#7, p, w, x, 0#32, .w64⟩
  | .launch p w x => some ⟨false, 118#7, p, w, x, 0#32, .w64⟩
  | .nop_h0 w => some ⟨false, 119#7, .none, w, W1.zero, 0#32, .w32⟩
  | .nop_h1 w => some ⟨false, 120#7, .none, w, W1.zero, 0#32, .w32⟩
  | .nop_h2 w => some ⟨false, 121#7, .none, w, W1.zero, 0#32, .w32⟩
  | .nop_h3 w => some ⟨false, 122#7, .none, w, W1.zero, 0#32, .w32⟩
  | .ineg p w => some ⟨true, 1#7, p, w, W1.zero, 0#32, .w32⟩
  | .iabs p w => some ⟨true, 2#7, p, w, W1.zero, 0#32, .w32⟩
  | .popc p w => some ⟨true, 3#7, p, w, W1.zero, 0#32, .w32⟩
  | .clz p w => some ⟨true, 4#7, p, w, W1.zero, 0#32, .w32⟩
  | .ctz p w => some ⟨true, 5#7, p, w, W1.zero, 0#32, .w32⟩
  | .brev p w => some ⟨true, 6#7, p, w, W1.zero, 0#32, .w32⟩
  | .frcp p w => some ⟨true, 7#7, p, w, W1.zero, 0#32, .w32⟩
  | .frsq p w => some ⟨true, 8#7, p, w, W1.zero, 0#32, .w32⟩
  | .fsqrt p w => some ⟨true, 9#7, p, w, W1.zero, 0#32, .w32⟩
  | .fexp2 p w => some ⟨true, 10#7, p, w, W1.zero, 0#32, .w32⟩
  | .flog2 p w => some ⟨true, 11#7, p, w, W1.zero, 0#32, .w32⟩
  | .fsin p w => some ⟨true, 12#7, p, w, W1.zero, 0#32, .w32⟩
  | .fcos p w => some ⟨true, 13#7, p, w, W1.zero, 0#32, .w32⟩
  | .ftanh p w => some ⟨true, 14#7, p, w, W1.zero, 0#32, .w32⟩
  | .frnd p w => some ⟨true, 15#7, p, w, W1.zero, 0#32, .w32⟩
  | .ffrc p w => some ⟨true, 16#7, p, w, W1.zero, 0#32, .w32⟩
  | .kill p w => some ⟨true, 17#7, p, w, W1.zero, 0#32, .w32⟩
  | .syncw p w => some ⟨true, 18#7, p, w, W1.zero, 0#32, .w32⟩
  | .yield p w => some ⟨true, 19#7, p, w, W1.zero, 0#32, .w32⟩
  | .bkpt p w => some ⟨true, 20#7, p, w, W1.zero, 0#32, .w32⟩
  | .elect p w => some ⟨true, 21#7, p, w, W1.zero, 0#32, .w32⟩
  | .lget p w => some ⟨true, 22#7, p, w, W1.zero, 0#32, .w32⟩
  | .seal p w => some ⟨true, 23#7, p, w, W1.zero, 0#32, .w32⟩
  | .unseal p w => some ⟨true, 24#7, p, w, W1.zero, 0#32, .w32⟩
  | .qfree p w => some ⟨true, 25#7, p, w, W1.zero, 0#32, .w32⟩
  | .rett p w => some ⟨true, 26#7, p, w, W1.zero, 0#32, .w32⟩
  | .tclr p w => some ⟨true, 27#7, p, w, W1.zero, 0#32, .w32⟩
  | .tmask p w => some ⟨true, 28#7, p, w, W1.zero, 0#32, .w32⟩
  | .halt p w => some ⟨true, 29#7, p, w, W1.zero, 0#32, .w32⟩
  | .mx_gang p w => some ⟨true, 30#7, p, w, W1.zero, 0#32, .w32⟩
  | .mx_wait p w => some ⟨true, 31#7, p, w, W1.zero, 0#32, .w32⟩
  | .mx_drop p w => some ⟨true, 32#7, p, w, W1.zero, 0#32, .w32⟩
  | .xf_wait p w => some ⟨true, 33#7, p, w, W1.zero, 0#32, .w32⟩
  | .xf_cancel p w => some ⟨true, 34#7, p, w, W1.zero, 0#32, .w32⟩
  | .bobj_arv p w => some ⟨true, 35#7, p, w, W1.zero, 0#32, .w32⟩
  | .cl_flush p w => some ⟨true, 36#7, p, w, W1.zero, 0#32, .w32⟩
  | .mb_ver p w => some ⟨true, 37#7, p, w, W1.zero, 0#32, .w32⟩
  | .mb_mode p w => some ⟨true, 38#7, p, w, W1.zero, 0#32, .w32⟩
  | .will p w => some ⟨true, 39#7, p, w, W1.zero, 0#32, .w32⟩
  | .estq p w => some ⟨true, 40#7, p, w, W1.zero, 0#32, .w32⟩
  | .lwait p w => some ⟨true, 41#7, p, w, W1.zero, 0#32, .w32⟩
  | .delivery_fault _ => none
  | .store_apply_at_home _ => none
  | .replica_apply _ _ => none
  | .ldx_reply _ _ _ => none
  | .ldf_ste_lane_complete _ _ => none
  | .queue_held_entry_deliver _ _ => none
  | .preemption_request _ => none
  | .full_save _ => none
  | .resume _ _ => none
  | .conveyance _ => none
  | .probate_delivery _ => none
  | .lock_retry _ => none
  | .rendezvous_release _ => none
  | .mx_consumed _ => none
  | .mx_done _ => none
  | .audit_verdict _ _ _ _ _ => none
  | .cl_audit_verdict _ _ => none
  | .copy_complete _ _ => none
  | .prefetch_arrival _ => none
  | .xf_yield_resume _ => none
  | .slot_start _ _ => none
  | .cl_peer_apply _ _ _ => none
  | .cl_complete _ => none
  | .switch_write_back _ _ => none
  | .write_back_at_home _ => none
  | .await _ _ => none
  | .await_wake _ _ => none
  | .end_ _ _ => none
  | .u_mode_exception _ _ => none
  | .mbpop _ _ => none
  | .mbpush _ _ => none
  | .observation_delivery _ _ => none
  | .watchdog _ _ _ => none
  | .episode_create _ _ => none
  | .episode_end _ _ _ => none
  | .mbcfg_write _ _ _ _ => none
  | .mbdrop_read _ _ _ => none
  | .mbstat_read _ _ => none
  | .launch_port_store _ _ _ _ _ => none
  | .lpstat_read _ _ _ => none
  | .deal => none
  | .block_start _ => none
  | .steal _ _ => none
  | .grid_complete _ => none
  | .virtual_time_charge _ => none
  | .slice_end _ => none
  | .gfpop _ _ _ => none
  | .gfstat_read _ _ => none
  | .vdcreate _ _ => none
  | .vdreset _ _ => none
  | .vdfree _ _ => none
  | .grant_install _ _ _ => none
  | .grant_revoke _ _ _ => none
  | .migout _ _ _ _ => none
  | .migin _ _ => none
  | .migabort _ _ => none
  | .migration_complete _ => none
  | .ticket_expiry _ => none
  | .msnap _ _ _ => none
  | .attest _ _ => none
  | .fwload _ _ _ _ => none
  | .lcset _ _ _ _ => none
  | .dbgattach _ _ _ _ => none
  | .sbstat_read _ => none
  | .qown_write _ _ _ => none
  | .sown_write _ _ _ => none
  | .mapsync _ _ _ _ => none
  | .mapsync_done _ => none
  | .parkgo _ _ _ => none
  | .parkkill _ _ _ => none
  | .mapstat_read _ _ => none
  | .xwin_write _ _ _ _ => none
  | .evpop _ _ _ => none
  | .hvpop _ _ => none
  | .event_record_release _ => none
  | .vdstat_read _ _ => none
  | .hvstat_read _ => none
  | .qstat_read _ _ => none
  | .quench_clear _ => none
  | .row_mitigation _ _ _ _ => none
  | .metering_tick _ => none
  | .bellows_period _ _ _ => none
  | .uncorrectable_error _ => none
  | .corrected_error _ _ _ _ _ => none
  | .line_fetch _ _ _ => none
  | .elpop _ _ _ => none
  | .elstat_read _ _ => none
  | .debug_resume _ _ => none
  | .block_freeze _ _ _ => none
  | .host_kill _ _ => none
  | .hbm_window_write _ _ _ => none
  | .kwid_write _ _ => none
  | .violation_freeze _ => none
  | .host_module_disable _ => none
  | .reset _ => none
  | .bring_up_phase _ => none
  | .register_write _ _ _ _ => none
  | .unassigned_opcode _ _ _ _ _ => none
  | .orphaned_prefix _ _ _ => none
  | .episode_instruction _ _ => none
  | .peer_copy_access _ _ _ => none
  | .kwport_read _ _ => none
  | .qown_read _ _ => none
  | .sown_read _ _ => none
  | .activation_window _ _ => none

/-- The register fields of an instruction that may name a latch (R89). -/
def Instr.sources : Instr → List (BitVec 6)
  | .nop => []
  | .iadd_32 _ w => [w.a, w.b]
  | .iadd_64 _ w _ => [w.a, w.b]
  | .iadd_96 _ w _ _ => [w.a]
  | .isub_32 _ w => [w.a, w.b]
  | .isub_64 _ w _ => [w.a, w.b]
  | .isub_96 _ w _ _ => [w.a]
  | .iaddc_32 _ w => [w.a, w.b]
  | .iaddc_64 _ w _ => [w.a, w.b]
  | .iaddc_96 _ w _ _ => [w.a]
  | .imul_32 _ w => [w.a, w.b]
  | .imul_64 _ w _ => [w.a, w.b]
  | .imul_96 _ w _ _ => [w.a]
  | .imulh_32 _ w => [w.a, w.b]
  | .imulh_64 _ w _ => [w.a, w.b]
  | .imulh_96 _ w _ _ => [w.a]
  | .imad_32 _ w => [w.a, w.b]
  | .imad_64 _ w x => [w.a, w.b, x.c]
  | .imad_96 _ w x _ => [w.a, x.c]
  | .imadw_32 _ w => [w.a, w.b]
  | .imadw_64 _ w x => [w.a, w.b, x.c]
  | .imadw_96 _ w x _ => [w.a, x.c]
  | .imin_32 _ w => [w.a, w.b]
  | .imin_64 _ w _ => [w.a, w.b]
  | .imin_96 _ w _ _ => [w.a]
  | .imax_32 _ w => [w.a, w.b]
  | .imax_64 _ w _ => [w.a, w.b]
  | .imax_96 _ w _ _ => [w.a]
  | .and_32 _ w => [w.a, w.b]
  | .and_64 _ w _ => [w.a, w.b]
  | .and_96 _ w _ _ => [w.a]
  | .or_32 _ w => [w.a, w.b]
  | .or_64 _ w _ => [w.a, w.b]
  | .or_96 _ w _ _ => [w.a]
  | .xor_32 _ w => [w.a, w.b]
  | .xor_64 _ w _ => [w.a, w.b]
  | .xor_96 _ w _ _ => [w.a]
  | .andn_32 _ w => [w.a, w.b]
  | .andn_64 _ w _ => [w.a, w.b]
  | .andn_96 _ w _ _ => [w.a]
  | .bool3_64 _ w x => [w.a, w.b, x.c]
  | .bool3_96 _ w x _ => [w.a, x.c]
  | .shl_32 _ w => [w.a, w.b]
  | .shl_64 _ w _ => [w.a, w.b]
  | .shl_96 _ w _ _ => [w.a]
  | .shr_32 _ w => [w.a, w.b]
  | .shr_64 _ w _ => [w.a, w.b]
  | .shr_96 _ w _ _ => [w.a]
  | .sar_32 _ w => [w.a, w.b]
  | .sar_64 _ w _ => [w.a, w.b]
  | .sar_96 _ w _ _ => [w.a]
  | .rot_32 _ w => [w.a, w.b]
  | .rot_64 _ w _ => [w.a, w.b]
  | .rot_96 _ w _ _ => [w.a]
  | .shf_32 _ w => [w.a, w.b]
  | .shf_64 _ w x => [w.a, w.b, x.c]
  | .shf_96 _ w x _ => [w.a, x.c]
  | .bfx_32 _ w => [w.a, w.b]
  | .bfx_64 _ w _ => [w.a, w.b]
  | .bfx_96 _ w _ _ => [w.a]
  | .bfi_32 _ w => [w.a, w.b]
  | .bfi_64 _ w x => [w.a, w.b, x.c]
  | .bfi_96 _ w x _ => [w.a, x.c]
  | .prmt_32 _ w => [w.a, w.b]
  | .prmt_64 _ w x => [w.a, w.b, x.c]
  | .prmt_96 _ w x _ => [w.a, x.c]
  | .icmp_32 _ w => [w.a, w.b]
  | .icmp_64 _ w _ => [w.a, w.b]
  | .icmp_96 _ w _ _ => [w.a]
  | .isel_32 _ w => [w.a, w.b]
  | .isel_64 _ w _ => [w.a, w.b]
  | .isel_96 _ w _ _ => [w.a]
  | .lea_32 _ w => [w.a, w.b]
  | .lea_64 _ w _ => [w.a, w.b]
  | .lea_96 _ w _ _ => [w.a]
  | .fadd_32 _ w => [w.a, w.b]
  | .fadd_64 _ w _ => [w.a, w.b]
  | .fadd_96 _ w _ _ => [w.a]
  | .fmul_32 _ w => [w.a, w.b]
  | .fmul_64 _ w _ => [w.a, w.b]
  | .fmul_96 _ w _ _ => [w.a]
  | .ffma_32 _ w => [w.a, w.b]
  | .ffma_64 _ w x => [w.a, w.b, x.c]
  | .ffma_96 _ w x _ => [w.a, x.c]
  | .fmin_32 _ w => [w.a, w.b]
  | .fmin_64 _ w _ => [w.a, w.b]
  | .fmin_96 _ w _ _ => [w.a]
  | .fmax_32 _ w => [w.a, w.b]
  | .fmax_64 _ w _ => [w.a, w.b]
  | .fmax_96 _ w _ _ => [w.a]
  | .fcmp_32 _ w => [w.a, w.b]
  | .fcmp_64 _ w _ => [w.a, w.b]
  | .fcmp_96 _ w _ _ => [w.a]
  | .hadd2_32 _ w => [w.a, w.b]
  | .hadd2_64 _ w _ => [w.a, w.b]
  | .hadd2_96 _ w _ _ => [w.a]
  | .hmul2_32 _ w => [w.a, w.b]
  | .hmul2_64 _ w _ => [w.a, w.b]
  | .hmul2_96 _ w _ _ => [w.a]
  | .hfma2_32 _ w => [w.a, w.b]
  | .hfma2_64 _ w x => [w.a, w.b, x.c]
  | .hfma2_96 _ w x _ => [w.a, x.c]
  | .hmin2_32 _ w => [w.a, w.b]
  | .hmin2_64 _ w _ => [w.a, w.b]
  | .hmin2_96 _ w _ _ => [w.a]
  | .hmax2_32 _ w => [w.a, w.b]
  | .hmax2_64 _ w _ => [w.a, w.b]
  | .hmax2_96 _ w _ _ => [w.a]
  | .hcmp2_32 _ w => [w.a, w.b]
  | .hcmp2_64 _ w _ => [w.a, w.b]
  | .hcmp2_96 _ w _ _ => [w.a]
  | .cvt_32 _ w => [w.a]
  | .cvt_64 _ w _ => [w.a]
  | .cvtp_32 _ w => [w.a, w.b]
  | .cvtp_64 _ w _ => [w.a, w.b]
  | .cvtu_32 _ w => [w.a]
  | .cvtu_64 _ w _ => [w.a]
  | .scl_32 _ w => [w.a, w.b]
  | .scl_64 _ w _ => [w.a, w.b]
  | .dot2_32 _ w => [w.a, w.b]
  | .dot2_64 _ w x => [w.a, w.b, x.c]
  | .dot4_32 _ w => [w.a, w.b]
  | .dot4_64 _ w x => [w.a, w.b, x.c]
  | .dot8_32 _ w => [w.a, w.b]
  | .dot8_64 _ w x => [w.a, w.b, x.c]
  | .movo _ _ _ => []
  | .movm _ w _ => [w.a]
  | .movu_32 _ _ => []
  | .movu_64 _ _ _ => []
  | .movk_to_mask _ w => [w.a]
  | .movk_from_mask _ _ => []
  | .ldi_64 _ _ _ => []
  | .ldi_96 _ _ _ _ => []
  | .bra_64 _ _ _ => []
  | .bra_96 _ _ _ _ => []
  | .brx _ w _ => [w.a]
  | .pad _ _ => []
  | .call_64 _ _ _ => []
  | .call_96 _ _ _ _ => []
  | .callx _ w _ => [w.a]
  | .ret _ _ => []
  | .exit _ _ => []
  | .cue_64 _ _ _ => []
  | .cue_96 _ _ _ _ => []
  | .trap_32 _ _ => []
  | .trap_64 _ _ _ => []
  | .census_32 _ w => [w.a]
  | .census_64 _ w _ => [w.a]
  | .pick_32 _ w => [w.a, w.b]
  | .pick_64 _ w _ => [w.a, w.b]
  | .peers_32 _ w => [w.a]
  | .peers_64 _ w _ => [w.a]
  | .qx_32 _ w => [w.a]
  | .qx_64 _ w _ => [w.a]
  | .red_32 _ w => [w.a]
  | .red_64 _ w _ => [w.a]
  | .scan_32 _ w => [w.a]
  | .scan_64 _ w _ => [w.a]
  | .draw _ w _ => [w.a, w.b]
  | .drawm _ _ _ => []
  | .sreg_read _ _ => []
  | .sreg_write _ _ => []
  | .lraise_32 _ w => [w.a, w.b]
  | .lraise_64 _ w _ => [w.a, w.b]
  | .lchk_32 _ w => [w.a, w.b]
  | .lchk_k_32 _ w => [w.a, w.b]
  | .lchk_64 _ w _ => [w.a, w.b]
  | .lchk_k_64 _ w _ => [w.a, w.b]
  | .dcl_reg _ w _ => [w.a]
  | .dcl_g _ _ _ => []
  | .dcl_sp _ w _ => [w.a]
  | .ld_32 _ _ => []
  | .ld_64 _ _ _ => []
  | .ld_96 _ _ _ _ => []
  | .st_32 _ w => [w.a, w.b]
  | .st_64 _ w _ => [w.a, w.b]
  | .st_96 _ w _ _ => [w.a, w.b]
  | .lds_32 _ w => [w.a]
  | .lds_64 _ w _ => [w.a]
  | .lds_96 _ w _ _ => [w.a]
  | .sts_32 _ w => [w.a, w.b]
  | .sts_64 _ w _ => [w.a, w.b]
  | .sts_96 _ w _ _ => [w.a, w.b]
  | .ldf_32 _ w => [w.a]
  | .ldf_64 _ w _ => [w.a]
  | .ste_32 _ w => [w.a, w.b]
  | .ste_64 _ w _ => [w.a, w.b]
  | .ldx_64 _ w _ => [w.a]
  | .ldx_96 _ w _ _ => [w.a]
  | .waitc _ _ _ => []
  | .atom _ w x => [w.a, w.b, x.c]
  | .atoms _ w x => [w.a, w.b, x.c]
  | .rdm _ w x => [w.a, w.b, x.c]
  | .fence _ _ => []
  | .bar_32 _ _ => []
  | .bar_64 _ w _ => [w.a]
  | .barw _ _ => []
  | .prf_32 _ _ => []
  | .prf_64 _ _ _ => []
  | .graise _ w => [w.a, w.b]
  | .glbl _ w => [w.a]
  | .qbind _ _ => []
  | .qpoll _ _ => []
  | .qrd _ _ => []
  | .qwr _ _ => []
  | .mx_fmt _ _ _ => []
  | .mx_ldb _ _ _ => []
  | .mx_mma _ _ _ => []
  | .mx_mmas _ _ _ => []
  | .mx_zero _ _ _ => []
  | .mx_rd _ _ _ => []
  | .mx_wr _ _ _ => []
  | .mx_rdv _ _ _ => []
  | .mx_qnt _ _ _ => []
  | .xf_copy_64 _ _ _ => []
  | .xf_copy_96 _ _ _ _ => []
  | .xf_pref _ _ _ => []
  | .xf_yield _ _ _ => []
  | .bobj_init _ _ _ => []
  | .cl_put _ _ _ => []
  | .cl_get _ _ _ => []
  | .cl_red _ _ _ => []
  | .cl_atom _ _ _ => []
  | .cl_draw _ _ _ => []
  | .cl_sig _ _ _ => []
  | .mb_open _ _ _ => []
  | .mb_send_32 _ _ => []
  | .mb_send_64 _ _ _ => []
  | .mb_send_sp _ _ _ => []
  | .lock_32 _ _ => []
  | .lock_64 _ _ _ => []
  | .trylock_32 _ _ => []
  | .trylock_64 _ _ _ => []
  | .unlock_32 _ _ => []
  | .unlock_64 _ _ _ => []
  | .promise _ _ => []
  | .heir _ _ _ => []
  | .launch _ _ _ => []
  | .nop_h0 _ => []
  | .nop_h1 _ => []
  | .nop_h2 _ => []
  | .nop_h3 _ => []
  | .ineg _ w => [w.a]
  | .iabs _ w => [w.a]
  | .popc _ w => [w.a]
  | .clz _ w => [w.a]
  | .ctz _ w => [w.a]
  | .brev _ w => [w.a]
  | .frcp _ w => [w.a]
  | .frsq _ w => [w.a]
  | .fsqrt _ w => [w.a]
  | .fexp2 _ w => [w.a]
  | .flog2 _ w => [w.a]
  | .fsin _ w => [w.a]
  | .fcos _ w => [w.a]
  | .ftanh _ w => [w.a]
  | .frnd _ w => [w.a]
  | .ffrc _ w => [w.a]
  | .kill _ _ => []
  | .syncw _ _ => []
  | .yield _ _ => []
  | .bkpt _ _ => []
  | .elect _ _ => []
  | .lget _ w => [w.a]
  | .seal _ _ => []
  | .unseal _ _ => []
  | .qfree _ _ => []
  | .rett _ _ => []
  | .tclr _ _ => []
  | .tmask _ _ => []
  | .halt _ _ => []
  | .mx_gang _ _ => []
  | .mx_wait _ _ => []
  | .mx_drop _ _ => []
  | .xf_wait _ _ => []
  | .xf_cancel _ _ => []
  | .bobj_arv _ _ => []
  | .cl_flush _ _ => []
  | .mb_ver _ _ => []
  | .mb_mode _ _ => []
  | .will _ _ => []
  | .estq _ _ => []
  | .lwait _ _ => []
  | .delivery_fault _ => []
  | .store_apply_at_home _ => []
  | .replica_apply _ _ => []
  | .ldx_reply _ _ _ => []
  | .ldf_ste_lane_complete _ _ => []
  | .queue_held_entry_deliver _ _ => []
  | .preemption_request _ => []
  | .full_save _ => []
  | .resume _ _ => []
  | .conveyance _ => []
  | .probate_delivery _ => []
  | .lock_retry _ => []
  | .rendezvous_release _ => []
  | .mx_consumed _ => []
  | .mx_done _ => []
  | .audit_verdict _ _ _ _ _ => []
  | .cl_audit_verdict _ _ => []
  | .copy_complete _ _ => []
  | .prefetch_arrival _ => []
  | .xf_yield_resume _ => []
  | .slot_start _ _ => []
  | .cl_peer_apply _ _ _ => []
  | .cl_complete _ => []
  | .switch_write_back _ _ => []
  | .write_back_at_home _ => []
  | .await _ _ => []
  | .await_wake _ _ => []
  | .end_ _ _ => []
  | .u_mode_exception _ _ => []
  | .mbpop _ _ => []
  | .mbpush _ _ => []
  | .observation_delivery _ _ => []
  | .watchdog _ _ _ => []
  | .episode_create _ _ => []
  | .episode_end _ _ _ => []
  | .mbcfg_write _ _ _ _ => []
  | .mbdrop_read _ _ _ => []
  | .mbstat_read _ _ => []
  | .launch_port_store _ _ _ _ _ => []
  | .lpstat_read _ _ _ => []
  | .deal => []
  | .block_start _ => []
  | .steal _ _ => []
  | .grid_complete _ => []
  | .virtual_time_charge _ => []
  | .slice_end _ => []
  | .gfpop _ _ _ => []
  | .gfstat_read _ _ => []
  | .vdcreate _ _ => []
  | .vdreset _ _ => []
  | .vdfree _ _ => []
  | .grant_install _ _ _ => []
  | .grant_revoke _ _ _ => []
  | .migout _ _ _ _ => []
  | .migin _ _ => []
  | .migabort _ _ => []
  | .migration_complete _ => []
  | .ticket_expiry _ => []
  | .msnap _ _ _ => []
  | .attest _ _ => []
  | .fwload _ _ _ _ => []
  | .lcset _ _ _ _ => []
  | .dbgattach _ _ _ _ => []
  | .sbstat_read _ => []
  | .qown_write _ _ _ => []
  | .sown_write _ _ _ => []
  | .mapsync _ _ _ _ => []
  | .mapsync_done _ => []
  | .parkgo _ _ _ => []
  | .parkkill _ _ _ => []
  | .mapstat_read _ _ => []
  | .xwin_write _ _ _ _ => []
  | .evpop _ _ _ => []
  | .hvpop _ _ => []
  | .event_record_release _ => []
  | .vdstat_read _ _ => []
  | .hvstat_read _ => []
  | .qstat_read _ _ => []
  | .quench_clear _ => []
  | .row_mitigation _ _ _ _ => []
  | .metering_tick _ => []
  | .bellows_period _ _ _ => []
  | .uncorrectable_error _ => []
  | .corrected_error _ _ _ _ _ => []
  | .line_fetch _ _ _ => []
  | .elpop _ _ _ => []
  | .elstat_read _ _ => []
  | .debug_resume _ _ => []
  | .block_freeze _ _ _ => []
  | .host_kill _ _ => []
  | .hbm_window_write _ _ _ => []
  | .kwid_write _ _ => []
  | .violation_freeze _ => []
  | .host_module_disable _ => []
  | .reset _ => []
  | .bring_up_phase _ => []
  | .register_write _ _ _ _ => []
  | .unassigned_opcode _ _ _ _ _ => []
  | .orphaned_prefix _ _ _ => []
  | .episode_instruction _ _ => []
  | .peer_copy_access _ _ _ => []
  | .kwport_read _ _ => []
  | .qown_read _ _ => []
  | .sown_read _ _ => []
  | .activation_window _ _ => []

/-- Whether an instruction reads a latch (R135, R137). -/
def Instr.readsLatch (i : Instr) : Bool := i.sources.any (fun c => decide (16 ≤ c.toNat) && decide (c.toNat < 20))

/-- A field code as register numbers: o and s registers under their code of R89; nothing for a discarded result. -/
def regCode (d : BitVec 6) (n : Nat) : List Nat :=
  if d.toNat < 16 ∨ 24 ≤ d.toNat then (List.range n).map (fun j => d.toNat + j) else []

/-- The destination of a first word; under write-back suppress no register is written (R38, R88). -/
def destReg (w : W0) (n : Nat) : List Nat := if w.wbs then [] else regCode w.d n

/-- The destination after a second word's role: v registers are numbered from 64 (R90). -/
def destRole (w : W0) (x : W1) (n : Nat) : List Nat :=
  if w.wbs then [] else if x.role = 3#2 then [64 + x.main.toNat] else regCode w.d n

/-- A lane-mask register, numbered from 400. -/
def maskCode (n : Nat) : List Nat := [400 + n % 8]

/-- The lane-mask destination of a first word. -/
def destMask (w : W0) : List Nat := if w.wbs then [] else maskCode w.d.toNat

/-- The registers and lane-mask registers that an instruction of a pairing class writes (R102). -/
def Instr.writes : Instr → List Nat
  | .nop => []
  | .iadd_32 _ w => destReg w 1
  | .iadd_64 _ w x => destRole w x 1
  | .iadd_96 _ w x _ => destRole w x 1
  | .isub_32 _ w => destReg w 1
  | .isub_64 _ w x => destRole w x 1
  | .isub_96 _ w x _ => destRole w x 1
  | .iaddc_32 _ w => destReg w 1 ++ maskCode 0
  | .iaddc_64 _ w x => destRole w x 1 ++ maskCode x.c.toNat
  | .iaddc_96 _ w x _ => destRole w x 1 ++ maskCode x.c.toNat
  | .imul_32 _ w => destReg w 1
  | .imul_64 _ w x => destRole w x 1
  | .imul_96 _ w x _ => destRole w x 1
  | .imulh_32 _ w => destReg w 1
  | .imulh_64 _ w x => destRole w x 1
  | .imulh_96 _ w x _ => destRole w x 1
  | .imad_32 _ w => destReg w 1
  | .imad_64 _ w x => destRole w x 1
  | .imad_96 _ w x _ => destRole w x 1
  | .imadw_32 _ w => destReg w 2
  | .imadw_64 _ w _ => destReg w 2
  | .imadw_96 _ w _ _ => destReg w 2
  | .imin_32 _ w => destReg w 1
  | .imin_64 _ w x => destRole w x 1
  | .imin_96 _ w x _ => destRole w x 1
  | .imax_32 _ w => destReg w 1
  | .imax_64 _ w x => destRole w x 1
  | .imax_96 _ w x _ => destRole w x 1
  | .and_32 _ w => destReg w 1
  | .and_64 _ w x => destRole w x 1
  | .and_96 _ w x _ => destRole w x 1
  | .or_32 _ w => destReg w 1
  | .or_64 _ w x => destRole w x 1
  | .or_96 _ w x _ => destRole w x 1
  | .xor_32 _ w => destReg w 1
  | .xor_64 _ w x => destRole w x 1
  | .xor_96 _ w x _ => destRole w x 1
  | .andn_32 _ w => destReg w 1
  | .andn_64 _ w x => destRole w x 1
  | .andn_96 _ w x _ => destRole w x 1
  | .bool3_64 _ w x => destRole w x 1
  | .bool3_96 _ w x _ => destRole w x 1
  | .shl_32 _ w => destReg w 1
  | .shl_64 _ w x => destRole w x 1
  | .shl_96 _ w x _ => destRole w x 1
  | .shr_32 _ w => destReg w 1
  | .shr_64 _ w x => destRole w x 1
  | .shr_96 _ w x _ => destRole w x 1
  | .sar_32 _ w => destReg w 1
  | .sar_64 _ w x => destRole w x 1
  | .sar_96 _ w x _ => destRole w x 1
  | .rot_32 _ w => destReg w 1
  | .rot_64 _ w x => destRole w x 1
  | .rot_96 _ w x _ => destRole w x 1
  | .shf_32 _ w => destReg w 1
  | .shf_64 _ w x => destRole w x 1
  | .shf_96 _ w x _ => destRole w x 1
  | .bfx_32 _ w => destReg w 1
  | .bfx_64 _ w x => destRole w x 1
  | .bfx_96 _ w x _ => destRole w x 1
  | .bfi_32 _ w => destReg w 1
  | .bfi_64 _ w x => destRole w x 1
  | .bfi_96 _ w x _ => destRole w x 1
  | .prmt_32 _ w => destReg w 1
  | .prmt_64 _ w x => destRole w x 1
  | .prmt_96 _ w x _ => destRole w x 1
  | .icmp_32 _ w => destMask w
  | .icmp_64 _ w _ => destMask w
  | .icmp_96 _ w _ _ => destMask w
  | .isel_32 _ w => destReg w 1
  | .isel_64 _ w x => destRole w x 1
  | .isel_96 _ w x _ => destRole w x 1
  | .lea_32 _ w => destReg w 2
  | .lea_64 _ w _ => destReg w 2
  | .lea_96 _ w _ _ => destReg w 2
  | .fadd_32 _ w => destReg w 1
  | .fadd_64 _ w x => destRole w x 1
  | .fadd_96 _ w x _ => destRole w x 1
  | .fmul_32 _ w => destReg w 1
  | .fmul_64 _ w x => destRole w x 1
  | .fmul_96 _ w x _ => destRole w x 1
  | .ffma_32 _ w => destReg w 1
  | .ffma_64 _ w x => destRole w x 1
  | .ffma_96 _ w x _ => destRole w x 1
  | .fmin_32 _ w => destReg w 1
  | .fmin_64 _ w x => destRole w x 1
  | .fmin_96 _ w x _ => destRole w x 1
  | .fmax_32 _ w => destReg w 1
  | .fmax_64 _ w x => destRole w x 1
  | .fmax_96 _ w x _ => destRole w x 1
  | .fcmp_32 _ w => destMask w
  | .fcmp_64 _ w _ => destMask w
  | .fcmp_96 _ w _ _ => destMask w
  | .hadd2_32 _ w => destReg w 1
  | .hadd2_64 _ w x => destRole w x 1
  | .hadd2_96 _ w x _ => destRole w x 1
  | .hmul2_32 _ w => destReg w 1
  | .hmul2_64 _ w x => destRole w x 1
  | .hmul2_96 _ w x _ => destRole w x 1
  | .hfma2_32 _ w => destReg w 1
  | .hfma2_64 _ w x => destRole w x 1
  | .hfma2_96 _ w x _ => destRole w x 1
  | .hmin2_32 _ w => destReg w 1
  | .hmin2_64 _ w x => destRole w x 1
  | .hmin2_96 _ w x _ => destRole w x 1
  | .hmax2_32 _ w => destReg w 1
  | .hmax2_64 _ w x => destRole w x 1
  | .hmax2_96 _ w x _ => destRole w x 1
  | .hcmp2_32 _ w => destReg w 1
  | .hcmp2_64 _ w x => destRole w x 1
  | .hcmp2_96 _ w x _ => destRole w x 1
  | .cvt_32 _ w => destReg w 1
  | .cvt_64 _ w x => destRole w x 1
  | .cvtp_32 _ w => destReg w 1
  | .cvtp_64 _ w x => destRole w x 1
  | .cvtu_32 _ w => destReg w 1
  | .cvtu_64 _ w x => destRole w x 1
  | .scl_32 _ w => destReg w 1
  | .scl_64 _ w x => destRole w x 1
  | .dot2_32 _ w => destReg w 1
  | .dot2_64 _ w x => destRole w x 1
  | .dot4_32 _ w => destReg w 1
  | .dot4_64 _ w x => destRole w x 1
  | .dot8_32 _ w => destReg w 1
  | .dot8_64 _ w x => destRole w x 1
  | .movo _ w x => destRole w x 1
  | .movm _ w x => destRole w x 1
  | .movu_32 _ w => destReg w 1
  | .movu_64 _ w x => destRole w x 1
  | .movk_to_mask _ w => destMask w
  | .movk_from_mask _ w => destReg w 1
  | .ldi_64 _ w x => destRole w x 1
  | .ldi_96 _ w x _ => destRole w x 1
  | .bra_64 _ _ _ => []
  | .bra_96 _ _ _ _ => []
  | .brx _ _ _ => []
  | .pad _ _ => []
  | .call_64 _ _ _ => []
  | .call_96 _ _ _ _ => []
  | .callx _ _ _ => []
  | .ret _ _ => []
  | .exit _ _ => []
  | .cue_64 _ _ _ => []
  | .cue_96 _ _ _ _ => []
  | .trap_32 _ _ => []
  | .trap_64 _ _ _ => []
  | .census_32 _ _ => []
  | .census_64 _ _ _ => []
  | .pick_32 _ _ => []
  | .pick_64 _ _ _ => []
  | .peers_32 _ _ => []
  | .peers_64 _ _ _ => []
  | .qx_32 _ _ => []
  | .qx_64 _ _ _ => []
  | .red_32 _ _ => []
  | .red_64 _ _ _ => []
  | .scan_32 _ _ => []
  | .scan_64 _ _ _ => []
  | .draw _ _ _ => []
  | .drawm _ _ _ => []
  | .sreg_read _ _ => []
  | .sreg_write _ _ => []
  | .lraise_32 _ _ => []
  | .lraise_64 _ _ _ => []
  | .lchk_32 _ _ => []
  | .lchk_k_32 _ _ => []
  | .lchk_64 _ _ _ => []
  | .lchk_k_64 _ _ _ => []
  | .dcl_reg _ _ _ => []
  | .dcl_g _ _ _ => []
  | .dcl_sp _ _ _ => []
  | .ld_32 _ w => destReg w 1
  | .ld_64 _ w x => destRole w x (if WF.size x = 5 then 2 else if WF.size x = 6 then 4 else 1)
  | .ld_96 _ w x _ => destRole w x (if WF.size x = 5 then 2 else if WF.size x = 6 then 4 else 1)
  | .st_32 _ _ => []
  | .st_64 _ _ _ => []
  | .st_96 _ _ _ _ => []
  | .lds_32 _ w => destReg w 1
  | .lds_64 _ w x => destRole w x (if WF.size x = 5 then 2 else if WF.size x = 6 then 4 else 1)
  | .lds_96 _ w x _ => destRole w x (if WF.size x = 5 then 2 else if WF.size x = 6 then 4 else 1)
  | .sts_32 _ _ => []
  | .sts_64 _ _ _ => []
  | .sts_96 _ _ _ _ => []
  | .ldf_32 _ w => destReg w 1 ++ maskCode w.b.toNat
  | .ldf_64 _ w x => destRole w x 1 ++ maskCode w.b.toNat
  | .ste_32 _ w => maskCode w.d.toNat
  | .ste_64 _ w _ => maskCode w.d.toNat
  | .ldx_64 _ w x => destRole w x (if WF.size x = 5 then 2 else if WF.size x = 6 then 4 else 1)
  | .ldx_96 _ w x _ => destRole w x (if WF.size x = 5 then 2 else if WF.size x = 6 then 4 else 1)
  | .waitc _ _ _ => []
  | .atom _ w x => destRole w x (if WF.wide (WF.aty x) then 2 else 1)
  | .atoms _ w x => destRole w x (if WF.wide (WF.aty x) then 2 else 1)
  | .rdm _ _ _ => []
  | .fence _ _ => []
  | .bar_32 _ _ => []
  | .bar_64 _ w _ => destReg w 1
  | .barw _ _ => []
  | .prf_32 _ _ => []
  | .prf_64 _ _ _ => []
  | .graise _ _ => []
  | .glbl _ w => destReg w 1
  | .qbind _ _ => []
  | .qpoll _ w => destReg w 2 ++ maskCode w.b.toNat
  | .qrd _ w => destReg w 2
  | .qwr _ _ => []
  | .mx_fmt _ _ _ => []
  | .mx_ldb _ _ _ => []
  | .mx_mma _ _ _ => []
  | .mx_mmas _ _ _ => []
  | .mx_zero _ _ _ => []
  | .mx_rd _ _ _ => []
  | .mx_wr _ _ _ => []
  | .mx_rdv _ w x => destRole w x 1
  | .mx_qnt _ _ _ => []
  | .xf_copy_64 _ _ _ => []
  | .xf_copy_96 _ _ _ _ => []
  | .xf_pref _ _ _ => []
  | .xf_yield _ _ _ => []
  | .bobj_init _ _ _ => []
  | .cl_put _ _ _ => []
  | .cl_get _ w x => regCode w.d (WF.clRegs x)
  | .cl_red _ _ _ => []
  | .cl_atom _ w x => regCode w.d (WF.clAtomRegs x)
  | .cl_draw _ _ _ => []
  | .cl_sig _ _ _ => []
  | .mb_open _ _ _ => []
  | .mb_send_32 _ _ => []
  | .mb_send_64 _ _ _ => []
  | .mb_send_sp _ _ _ => []
  | .lock_32 _ w => destReg w 2
  | .lock_64 _ w _ => destReg w 2
  | .trylock_32 _ w => destReg w 2 ++ maskCode 0
  | .trylock_64 _ w x => destReg w 2 ++ maskCode x.c.toNat
  | .unlock_32 _ _ => []
  | .unlock_64 _ _ _ => []
  | .promise _ _ => []
  | .heir _ _ _ => []
  | .launch _ _ _ => []
  | .nop_h0 _ => []
  | .nop_h1 _ => []
  | .nop_h2 _ => []
  | .nop_h3 _ => []
  | .ineg _ _ => []
  | .iabs _ _ => []
  | .popc _ _ => []
  | .clz _ _ => []
  | .ctz _ _ => []
  | .brev _ _ => []
  | .frcp _ _ => []
  | .frsq _ _ => []
  | .fsqrt _ _ => []
  | .fexp2 _ _ => []
  | .flog2 _ _ => []
  | .fsin _ _ => []
  | .fcos _ _ => []
  | .ftanh _ _ => []
  | .frnd _ _ => []
  | .ffrc _ _ => []
  | .kill _ _ => []
  | .syncw _ _ => []
  | .yield _ _ => []
  | .bkpt _ _ => []
  | .elect _ _ => []
  | .lget _ _ => []
  | .seal _ _ => []
  | .unseal _ _ => []
  | .qfree _ _ => []
  | .rett _ _ => []
  | .tclr _ _ => []
  | .tmask _ _ => []
  | .halt _ _ => []
  | .mx_gang _ _ => []
  | .mx_wait _ _ => []
  | .mx_drop _ _ => []
  | .xf_wait _ _ => []
  | .xf_cancel _ _ => []
  | .bobj_arv _ _ => []
  | .cl_flush _ _ => []
  | .mb_ver _ _ => []
  | .mb_mode _ _ => []
  | .will _ _ => []
  | .estq _ _ => []
  | .lwait _ _ => []
  | .delivery_fault _ => []
  | .store_apply_at_home _ => []
  | .replica_apply _ _ => []
  | .ldx_reply _ _ _ => []
  | .ldf_ste_lane_complete _ _ => []
  | .queue_held_entry_deliver _ _ => []
  | .preemption_request _ => []
  | .full_save _ => []
  | .resume _ _ => []
  | .conveyance _ => []
  | .probate_delivery _ => []
  | .lock_retry _ => []
  | .rendezvous_release _ => []
  | .mx_consumed _ => []
  | .mx_done _ => []
  | .audit_verdict _ _ _ _ _ => []
  | .cl_audit_verdict _ _ => []
  | .copy_complete _ _ => []
  | .prefetch_arrival _ => []
  | .xf_yield_resume _ => []
  | .slot_start _ _ => []
  | .cl_peer_apply _ _ _ => []
  | .cl_complete _ => []
  | .switch_write_back _ _ => []
  | .write_back_at_home _ => []
  | .await _ _ => []
  | .await_wake _ _ => []
  | .end_ _ _ => []
  | .u_mode_exception _ _ => []
  | .mbpop _ _ => []
  | .mbpush _ _ => []
  | .observation_delivery _ _ => []
  | .watchdog _ _ _ => []
  | .episode_create _ _ => []
  | .episode_end _ _ _ => []
  | .mbcfg_write _ _ _ _ => []
  | .mbdrop_read _ _ _ => []
  | .mbstat_read _ _ => []
  | .launch_port_store _ _ _ _ _ => []
  | .lpstat_read _ _ _ => []
  | .deal => []
  | .block_start _ => []
  | .steal _ _ => []
  | .grid_complete _ => []
  | .virtual_time_charge _ => []
  | .slice_end _ => []
  | .gfpop _ _ _ => []
  | .gfstat_read _ _ => []
  | .vdcreate _ _ => []
  | .vdreset _ _ => []
  | .vdfree _ _ => []
  | .grant_install _ _ _ => []
  | .grant_revoke _ _ _ => []
  | .migout _ _ _ _ => []
  | .migin _ _ => []
  | .migabort _ _ => []
  | .migration_complete _ => []
  | .ticket_expiry _ => []
  | .msnap _ _ _ => []
  | .attest _ _ => []
  | .fwload _ _ _ _ => []
  | .lcset _ _ _ _ => []
  | .dbgattach _ _ _ _ => []
  | .sbstat_read _ => []
  | .qown_write _ _ _ => []
  | .sown_write _ _ _ => []
  | .mapsync _ _ _ _ => []
  | .mapsync_done _ => []
  | .parkgo _ _ _ => []
  | .parkkill _ _ _ => []
  | .mapstat_read _ _ => []
  | .xwin_write _ _ _ _ => []
  | .evpop _ _ _ => []
  | .hvpop _ _ => []
  | .event_record_release _ => []
  | .vdstat_read _ _ => []
  | .hvstat_read _ => []
  | .qstat_read _ _ => []
  | .quench_clear _ => []
  | .row_mitigation _ _ _ _ => []
  | .metering_tick _ => []
  | .bellows_period _ _ _ => []
  | .uncorrectable_error _ => []
  | .corrected_error _ _ _ _ _ => []
  | .line_fetch _ _ _ => []
  | .elpop _ _ _ => []
  | .elstat_read _ _ => []
  | .debug_resume _ _ => []
  | .block_freeze _ _ _ => []
  | .host_kill _ _ => []
  | .hbm_window_write _ _ _ => []
  | .kwid_write _ _ => []
  | .violation_freeze _ => []
  | .host_module_disable _ => []
  | .reset _ => []
  | .bring_up_phase _ => []
  | .register_write _ _ _ _ => []
  | .unassigned_opcode _ _ _ _ _ => []
  | .orphaned_prefix _ _ _ => []
  | .episode_instruction _ _ => []
  | .peer_copy_access _ _ _ => []
  | .kwport_read _ _ => []
  | .qown_read _ _ => []
  | .sown_read _ _ => []
  | .activation_window _ _ => []

/-! PFX words (R94 to R98). -/

/-- A PFX word of an assigned kind. -/
inductive PfxWord where
  | rs (r : PfxRS)
  | k (r : PfxK)
  | z (r : PfxZ)
  | x
  deriving DecidableEq, Repr

/-- The kinds of R94. -/
def PfxWord.kind : PfxWord → Nat
  | .rs _ => 0
  | .k _ => 1
  | .z _ => 2
  | .x => 3

/-- The rounding modes of R95 by their code. -/
def rndOf (n : Nat) : Option Rnd :=
  match n with
  | 0 => some .rne
  | 1 => some .rtz
  | 2 => some .rup
  | 3 => some .rdn
  | 4 => some .rna
  | 5 => some .sr
  | _ => none

/-- The saturation modes of R95 by their code. -/
def satOf (n : Nat) : Sat :=
  match n with
  | 0 => .none
  | 1 => .range
  | 2 => .unit
  | _ => .signed

/-- A PFX word; none for a reserved kind or field (R94 to R98). -/
def pfxOf (v : Word) : Option PfxWord :=
  match (field v 2 3).toNat with
  | 0 =>
    match rndOf (field v 5 3).toNat with
    | some r =>
      if field v 15 17 = 0#17 ∧ (r = .sr ∨ field v 11 4 = 0#4) then
        some (.rs ⟨r, v.getLsbD 8, satOf (field v 9 2).toNat, field v 11 4⟩)
      else none
    | none => none
  | 1 => if field v 9 23 = 0#23 then some (.k ⟨field v 5 3, v.getLsbD 8⟩) else none
  | 2 =>
    if field v 10 22 = 0#22 ∧ (v.getLsbD 9 ∨ field v 6 3 = 0#3) then
      some (.z ⟨v.getLsbD 5, if v.getLsbD 9 then some (field v 6 3) else none⟩)
    else none
  | 3 => if field v 5 27 = 0#27 then some .x else none
  | _ => none

/-- Add a PFX word to the modifiers of a run. -/
def Pfx.add (p : Pfx) : PfxWord → Pfx
  | .rs r => { p with rs := some r }
  | .k r => { p with k := some r }
  | .z r => { p with z := some r }
  | .x => p

/-! Lines (R84 to R86). A line is its sixteen words. -/

/-- The word in slot `k` of a line. -/
def lineWord (ln : List Word) (k : Nat) : Word := (ln[k]?).getD 0#32

/-- The target bit of a slot (R85). -/
def targetBit (ln : List Word) (k : Nat) : Bool := decide (k ≤ 14) && (lineWord ln 15).getLsbD k

/-- The pair bit of a slot (R85). -/
def pairBit (ln : List Word) (k : Nat) : Bool := decide (k ≤ 13) && (lineWord ln 15).getLsbD (15 + k)

/-- What the decode of a line from slot 0 finds in a slot (R86, R100). -/
inductive SlotKind where
  /-- the first word of an instruction -/
  | first
  /-- the first PFX word of a run -/
  | run
  /-- a later PFX word of a run -/
  | runRest
  /-- a second or literal word -/
  | rest
  deriving DecidableEq, Repr

/-- The kinds of the slots from `k` on: `skip` words belong to an instruction already begun, `inRun` says that the slot before
holds a PFX word. -/
def slotKinds (ln : List Word) : Nat → Nat → Nat → Bool → List SlotKind
  | 0, _, _, _ => []
  | n + 1, k, skip + 1, _ => .rest :: slotKinds ln n (k + 1) skip false
  | n + 1, k, 0, inRun =>
    match lenOf (lineWord ln k) with
    | none => (if inRun then .runRest else .run) :: slotKinds ln n (k + 1) 0 true
    | some l => .first :: slotKinds ln n (k + 1) (l.words - 1) false

/-- The kinds of the fifteen slots of a line. -/
def lineKinds (ln : List Word) : List SlotKind := slotKinds ln 15 0 0 false

/-- Whether a slot starts an instruction or a run of PFX words (R100). -/
def startsGroup (ln : List Word) (k : Nat) : Bool :=
  (lineKinds ln)[k]? == some .first || (lineKinds ln)[k]? == some .run

/-- The number of consecutive PFX words from slot `k`. -/
def runLength (ln : List Word) : Nat → Nat → Nat
  | 0, _ => 0
  | n + 1, k => if k ≤ 14 ∧ lenOf (lineWord ln k) = none then 1 + runLength ln n (k + 1) else 0

/-- The parts of the group whose first word stands in slot `k`, after the PFX words `ps`. -/
def partsAt (ln : List Word) (ps : List PfxWord) (k : Nat) : Parts :=
  let v := lineWord ln k
  let l := (lenOf v).getD .w32
  { page1 := ps.contains .x, code := field v 2 7, pfx := ps.foldl Pfx.add Pfx.none, w := W0.ofWord v
    x := if l.words ≥ 2 then W1.ofWord (lineWord ln (k + 1)) else W1.zero
    lit := if l.words ≥ 3 then lineWord ln (k + 2) else 0#32
    len := l }

/-- Why a group is refused before its instruction acts (R108), each with the slot whose PC the rule names. -/
inductive Bad where
  /-- step 2: a word passes slot 14 -/
  | straddle (slot : Nat)
  /-- step 4: a pair bit that breaks R102 -/
  | badPair (slot : Nat)
  /-- step 6: a field code or reserved bit -/
  | fields (slot : Nat)
  deriving DecidableEq, Repr

/-- A decoded group: its instruction and the slots that it takes, PFX words included; or why it is refused. -/
inductive Group where
  | ok (i : Instr) (slots : Nat)
  | bad (why : Bad)
  deriving DecidableEq, Repr

/-- Whether a code is assigned in its class and page (R104, R105). -/
def Parts.assigned (q : Parts) : Bool :=
  q.instr.isSome || (q.page1 == false && q.len == .w32 && q.code == 0#7)

/-- Whether the instruction of the parts accepts the PFX word (R94 to R97): PFX.X by every page-1 opcode. -/
def Parts.accepts (q : Parts) (u : PfxWord) : Bool :=
  match q.instr with
  | none => q.page1 == false && u == .x
  | some i =>
    match u with
    | .rs _ => i.acc.rs
    | .k _ => i.acc.k
    | .z _ => i.acc.z
    | .x => true

/-- Whether the PFX word in slot `k`, of a run that ends in the group `q`, is orphaned (R98, R99). -/
def orphanAt (ln : List Word) (q : Option Parts) (u : PfxWord) (k : Nat) : Bool :=
  k == 14 || targetBit ln (k + 1) || pairBit ln k ||
  match q with
  | none => false
  | some q => (u == .x && q.len != .w32) || (u != .x || q.len == .w32) && q.assigned && !q.accepts u

/-- The slot of the first orphan of a run. -/
def firstOrphan (ln : List Word) (q : Option Parts) : List PfxWord → Nat → Option Nat
  | [], _ => none
  | u :: us, k => if orphanAt ln q u k then some k else firstOrphan ln q us (k + 1)

/-- The PFX words of a run, where every one has an assigned kind and no reserved bit (R94). -/
def runWords (ln : List Word) (k n : Nat) : Option (List PfxWord) :=
  (List.range n).mapM (fun j => pfxOf (lineWord ln (k + j)))

/-- The slot of the first PFX word of a run with a reserved kind or field. -/
def firstBad (ln : List Word) (k n : Nat) : Nat :=
  (((List.range n).map (fun j => k + j)).find? (fun j => (pfxOf (lineWord ln j)).isNone)).getD k

/-- The address of a slot of the line at address `base` (R84). -/
def slotPc (base : DWord) (k : Nat) : DWord := base + BitVec.ofNat 64 (4 * k)

/-! Pairs (R102). -/

/-- The pairing classes of page 0. -/
inductive PairClass where
  | alu | memory | engine | never
  deriving DecidableEq, Repr

/-- The class of the instruction whose first word this is, on page 0. -/
def pairClass (v : Word) : PairClass :=
  let c := (field v 2 7).toNat
  if 1 ≤ c ∧ c ≤ 0x31 then .alu else if 0x47 ≤ c ∧ c ≤ 0x5B then .memory else if 0x5C ≤ c ∧ c ≤ 0x76 then .engine else .never

/-- One member is ALU and the other memory, queue or engine command. -/
def pairClasses (a b : PairClass) : Bool :=
  (a == .alu && (b == .memory || b == .engine)) || (b == .alu && (a == .memory || a == .engine))

/-- The slot after the instruction whose first word is in slot `k`. -/
def afterSlot (ln : List Word) (k : Nat) : Nat := k + ((lenOf (lineWord ln k)).getD .w32).words

/-- Whether slot `k` is the second member of a pair: the slot of the instruction before it has its pair bit set. -/
def isSecond (ln : List Word) (k : Nat) : Bool :=
  (List.range k).any (fun j =>
    (lineKinds ln)[j]? == some .first && afterSlot ln j == k && pairBit ln j)

/-- Whether the pair bit of slot `k` is legal (R102), but for the registers that the members write. -/
def pairShape (ln : List Word) (k : Nat) : Bool :=
  (lineKinds ln)[k]? == some .first && !(decide (0 < k) && ((lineKinds ln)[k - 1]?).any (fun s => s == .run || s == .runRest)) &&
  !isSecond ln k && (lineKinds ln)[afterSlot ln k]? == some .first && !targetBit ln (afterSlot ln k) &&
  pairClasses (pairClass (lineWord ln k)) (pairClass (lineWord ln (afterSlot ln k)))

/-- The two members of a pair write no common register or lane-mask register (R102). -/
def noCommon (a b : Instr) : Bool := a.writes.all (fun r => !b.writes.contains r)

/-- The instruction whose first word stands in slot `k` with no PFX word before it. -/
def plainAt (ln : List Word) (k : Nat) : Option Instr := (partsAt ln [] k).instr

/-- Whether the pair bit of slot `k`, where an instruction starts that no PFX word precedes, breaks R102. The registers are those of the
decoded members; a member whose opcode is unassigned writes none. -/
def pairBroken (ln : List Word) (k : Nat) : Bool :=
  !pairShape ln k ||
  match plainAt ln k, plainAt ln (afterSlot ln k) with
  | some a, some b => !noCommon a b
  | _, _ => false

/-- The slot of the first pair bit that breaks R102 in the group whose first word stands in slot `j`, after `n` PFX words: the bit of a
slot that starts no instruction, of an instruction under PFX words, of a pair that is not legal, or of a pair's second member. -/
def pairFault (ln : List Word) (n j : Nat) : Option Nat :=
  let e := if pairBit ln j then afterSlot ln (afterSlot ln j) else afterSlot ln j
  if pairBit ln j && (n != 0 || pairBroken ln j) then some j
  else ((List.range e).drop (j + 1)).find? (pairBit ln)

/-- The slot of the word that fails step 6 of R108: PFX.RS whose setting the entry does not list, else the first word where it fails
by itself, else a later one. -/
def failingSlot (us : List PfxWord) (i : Instr) (k j : Nat) : Nat :=
  if WF.rsOk i.rsa i.pfx then
    match i with
    | .xf_copy_96 p w x _ => if WF.xf_copy_96 p w x 1#32 then j + 2 else if i.firstOk then j + 1 else j
    | _ => if i.firstOk then j + 1 else j
  else k + us.findIdx (fun (u : PfxWord) => match u with
    | .rs _ => true
    | _ => false)

/-- The group that starts in slot `k` of the line at address `base`, checked in the order of R108 from step 2. -/
def decodeGroup (ln : List Word) (base : DWord) (k : Nat) : Group :=
  let n := runLength ln 15 k
  let j := k + n
  let ws := runWords ln k n
  let ends := decide (j ≤ 14)
  let q := partsAt ln (ws.getD []) j
  if ends ∧ q.len.words > 1 ∧ j + q.len.words > 15 then .bad (.straddle j)
  else
    match ws with
    | none => .ok (.orphaned_prefix .malformed (slotPc base k) (firstBad ln k n)) n
    | some us =>
      if n > 2 ∨ (n = 2 ∧ (us.map PfxWord.kind).dedup.length < 2) then
        .ok (.orphaned_prefix .malformed (slotPc base k) (if (us.map PfxWord.kind).take 2 |>.Nodup then k + 2 else k + 1)) n
      else
        match firstOrphan ln (if ends then some q else none) us k with
        | some o => .ok (.orphaned_prefix .orphan (slotPc base o) o) n
        | none =>
          match if ends then pairFault ln n j else none with
          | some b => .bad (.badPair b)
          | none =>
            match q.instr with
            | none => .ok (.unassigned_opcode q.pfx q.page1 q.len q.code q.w) (n + q.len.words)
            | some i => if i.wf then .ok i (n + q.len.words) else .bad (.fields (failingSlot us i k j))

/-- The instruction that the decoder reads from a line whose line word is zero (no target bit, no pair bit), in slot 0; none
where it refuses the group. -/
def decodeWords (ws : List Word) : Option Instr :=
  match decodeGroup ((List.range 15).map (fun k => (ws[k]?).getD 0#32) ++ [0#32]) 0#64 0 with
  | .ok i _ => some i
  | .bad _ => none

/-- The words of a number, `n` of them, the first in bits [31:0]. -/
def wordsOfNat (n w : Nat) : List Word := (List.range n).map (fun k => BitVec.ofNat 32 (w >>> (32 * k)))

/-- The instruction that the decoder reads from the bits `w`, numbered as the operation table numbers them: the first word holds
bits [31:0]. Bits above `nbits` are zero. -/
def decodeTableWord (nbits w : Nat) : Option Instr := decodeWords (wordsOfNat 3 (w % 2 ^ nbits))

/-! The encoder, from the same tables (R88, R90, R94 to R98, R104, R105). -/

/-- A first word (R88). -/
def encodeW0 (w : W0) (code : BitVec 7) (len : BitVec 2) : Word :=
  (w.latch ++ BitVec.ofBool w.wbs ++ BitVec.ofBool w.luB ++ BitVec.ofBool w.luA ++ w.b ++ w.a ++ w.d ++ code ++ len : BitVec 32)

/-- A second word (R90). -/
def encodeW1 (x : W1) : Word := (x.hi ++ x.role ++ x.main ++ x.c : BitVec 32)

/-- The code of a rounding mode (R95). -/
def Rnd.code : Rnd → BitVec 3
  | .rne => 0
  | .rtz => 1
  | .rup => 2
  | .rdn => 3
  | .rna => 4
  | .sr => 5

/-- The code of a saturation mode (R95). -/
def Sat.code : Sat → BitVec 2
  | .none => 0
  | .range => 1
  | .unit => 2
  | .signed => 3

/-- A PFX.RS word (R95). -/
def encodeRS (r : PfxRS) : Word :=
  (0#17 ++ r.key ++ r.sat.code ++ BitVec.ofBool r.ftz ++ r.rnd.code ++ 0#3 ++ 3#2 : BitVec 32)

/-- A PFX.K word (R96). -/
def encodeK (r : PfxK) : Word := (0#23 ++ BitVec.ofBool r.inv ++ r.n ++ 1#3 ++ 3#2 : BitVec 32)

/-- A PFX.Z word (R97). -/
def encodeZ (r : PfxZ) : Word :=
  (0#22 ++ BitVec.ofBool r.member.isSome ++ r.member.getD 0#3 ++ BitVec.ofBool r.z ++ 2#3 ++ 3#2 : BitVec 32)

/-- The PFX words of a group: PFX.X first where the opcode is of page 1, then RS, K and Z in the order of their kinds. -/
def encodePfx (page1 : Bool) (p : Pfx) : List Word :=
  (p.rs.map encodeRS).toList ++ (p.k.map encodeK).toList ++ (p.z.map encodeZ).toList ++ (if page1 then [0x0000000F#32] else [])

/-- The length bits of a first word (R86). -/
def Len.code : Len → BitVec 2
  | .w32 => 0
  | .w64 => 1
  | .w96 => 2

/-- The words of a group; an event has none. -/
def encode (i : Instr) : List Word :=
  match i.parts with
  | none => []
  | some q =>
    encodePfx q.page1 q.pfx ++ [encodeW0 q.w q.code q.len.code] ++
    (if q.len.words ≥ 2 then [encodeW1 q.x] else []) ++ (if q.len.words ≥ 3 then [q.lit] else [])

/-- A group's run holds at most two PFX words, PFX.X counted (R99, R105). -/
def Instr.runFits (i : Instr) : Bool :=
  match i.parts with
  | none => false
  | some q => (encodePfx q.page1 q.pfx).length ≤ 2

end

end Sys2Proof
end

