-- ==== Sys2Proof/Machine/Fetch.lean ====
section
/-! DEFINITION. Fetching a line (R84, R87), its parity (R85), and the PCs of its slots. -/

namespace Sys2Proof.Machine

open Sys2Proof

/-- The sixteen words of a line. -/
def lineWords (bs : List Byte) : List Word := (List.range 16).map (fun k => ofBytes 32 (slice bs (4 * k) 4))

/-- The parity of a list of words. -/
def parityOf (ws : List Word) : Bool := ws.foldl (fun p w => xor p (parityN 32 w.toNat)) false

/-- The three parity bits of a line hold (R85). -/
def lineOk (ws : List Word) : Bool :=
  let lw := lineWord ws 15
  parityOf (ws.take 5) == lw.getLsbD 29 && parityOf ((ws.drop 5).take 5) == lw.getLsbD 30 &&
  parityOf ((ws.drop 10).take 5 ++ [lw &&& 0x1FFFFFFF#32]) == lw.getLsbD 31

/-- What a fetch brings: a line, a translation fault (R188), or a line that failed its parity twice (R87). -/
inductive Fetched where
  | ok (ws : List Word)
  | fault (e : AccessFault)
  | bad
  deriving DecidableEq, Repr

/-- A quadrant fetches the line at `base` for a VD: from its die's copy, and on a mismatch again from the home (R87) (the second fetch: DEDUCED, log entry 35). -/
def fetchLine (s : State) (q v : Nat) (base : DWord) : Fetched × State :=
  let d := dieOfQuad q
  match s.translate (.quad q) v base .exec false true with
  | (.error e, s) => (.fault e, s)
  | (.ok p, s) =>
    if (s.quad q).badLines.contains base.toNat then (.bad, s)
    else
      let ws := lineWords (s.readLoc d p.loc 64)
      let again := lineWords (s.readLoc (homeDie p.loc.pa) p.loc 64)
      if !p.loc.host && s.poisoned.get false (granule p.loc.pa) then (.bad, s)
      else if lineOk ws then (.ok ws, s)
      else if lineOk again then (.ok again, s)
      else (.bad, s)

/-- The address of the line that holds a PC, and the PC's slot (R84). -/
def lineBase (pc : DWord) : DWord := BitVec.ofNat 64 (pc.toNat / 64 * 64)
def lineSlot (pc : DWord) : Nat := pc.toNat % 64 / 4

/-- The PC `n` slots after a group's, the line word passed over (R84). -/
def nextPc (pc : DWord) (n : Nat) : DWord :=
  if lineSlot pc + n ≥ 15 then lineBase pc + 64#64 else pc + BitVec.ofNat 64 (4 * n)


end Sys2Proof.Machine
end

