-- ==== Sys2Proof/Machine/Control.lean ====
section
/-! DEFINITION. Control instructions (R165 to R174): BRA, BRX, CALL, CALLX, RET, EXIT, KILL, CUE, TRAP, BKPT, SYNCW, YIELD, with the
checks of target slots (R100, R101) and the making of splits (R37, R136, R139). -/

namespace Sys2Proof.Machine

open Sys2Proof

/-! Target slots (R84, R100). -/

/-- A legal PC (R84): a multiple of 4 that is no line word. -/
def legalPc (pc : DWord) : Bool := pc.toNat % 4 == 0 && lineSlot pc != 15

/-- The line that holds a PC, fetched by the issuing quadrant; a translation that fails raises its cause at the transfer. A line that
fails its parity twice is none: its error is consumed at the PC when the warp reaches it (R387). -/
def fetchFor (c : Ctx) (pc : DWord) : M (Option (List Word)) := fun s =>
  match fetchLine s c.quad c.vd (lineBase pc) with
  | (.ok ws, s) => .ok (some ws, s)
  | (.bad, s) => .ok (none, s)
  | (.fault e, _) =>
    let t := { c.info e.cause c.on with addr := pc, step := e.step }
    .error (if e = .xlate then .park t 0 else .trap t)

/-- A TARGET trap: the record names the PC that failed, and for a jump table the step of R101. -/
def trapTarget {α : Type} (c : Ctx) (lanes : LaneMask) (pc : DWord) (step : Nat) : M α :=
  M.stop (.trap { c.info 2 lanes with addr := pc, step := step })

/-- A PC that a transfer reaches must start an instruction or a run of PFX words; a direct one is also checked against the target
mask, and must not be the second member of a pair (R100). -/
def checkStart (c : Ctx) (pc : DWord) (direct : Bool) : M Unit := do
  if legalPc pc then
    let line' ← fetchFor c pc
    let k := lineSlot pc
    match line' with
    | some ws => if startsGroup ws k && (!direct || (targetBit ws k && !isSecond ws k)) then pure () else trapTarget c c.on pc 0
    | none => pure ()
  else trapTarget c c.on pc 0

/-! Transfers and splits (R37, R139). -/

/-- The condition check of R33, at a step of R101: the clearance must dominate each lane's condition label joined with its path label. -/
def checkConditionAt (c : Ctx) (step : Nat) (lanes : LaneMask) (cl : Nat → List Label) : M Unit := do
  let ls ← M.run' (fun s => s.joinLanes c.w lanes (fun i => cl i ++ [pathIn s c.w c.on i]))
  let s ← M.st
  requireDomAt c step lanes ls (fun _ => (s.warp c.w).clearance) (fun _ => 0#64)

/-- The condition check of R33. -/
def checkCondition (c : Ctx) (lanes : LaneMask) (cl : Nat → List Label) : M Unit := checkConditionAt c 0 lanes cl

/-- The lowest free entry of a split table (R139). -/
def freeEntry (x : Warp) : Option Nat := (List.range 16).find? (fun e => (x.splits.get? e).isNone)
/-- The free entries of a split table. -/
def freeEntries (x : Warp) : Nat := ((List.range 16).filter (fun e => (x.splits.get? e).isNone)).length

/-- Record entry `e` for a sub-warp and start its children, the fall-through child stamped first (R37, R139, R142). A one-sided
entry's second child is empty and counts as arrived. -/
def recordSplit (s : State) (w e : Nat) (u : SubWarp) (m0 m1 : LaneMask) (pc0 pc1 join : DWord) (cl : SMap Label) : State :=
  let x := s.warp w
  let (paths, s) := s.joinLanes w u.mask (fun i => [x.pathOf i, cl.get 0#8 i])
  let (m', s) := s.joinList w (u.maskLabel :: (lanesOf u.mask).map (fun i => cl.get 0#8 i))
  let z : Split :=
    { parent := u.id, arrived0 := false, arrived1 := decide (m1 = 0#32), oneSided := decide (m1 = 0#32), parentLabel := u.maskLabel
      childLabel := m', mask0 := m0, mask1 := m1, join := join
      parentPath := (lanesOf u.mask).foldl (fun p i => p.set 0#8 i (x.pathOf i)) []
      writtenO := 0#16, writtenV := 0#256, writtenS := 0#32 }
  let s := s.modWarp w (fun y => { setPaths (y.dropSub u.id) u.mask (fun i => paths.get 0#8 i) with splits := y.splits.put e z })
  let s := countCore s (coreOfQuad x.quad) 3 x.vd
  let s := if m1 = 0#32 then s else addSub s w ⟨some (e, 1), m1, m', pc1, 0, .ready, false⟩
  addSub s w ⟨some (e, 0), m0, m', pc0, 0, .ready, false⟩

/-- The sub-warp goes on at a PC without a split. -/
def jumpSub (s : State) (w : Nat) (u : SubWarp) (pc : DWord) : State := arriveCheck (makeReady s w { u with pc := pc }) w u.id

/-- Whether lanes that agree need a one-sided entry (R37): some lane's condition label is not dominated by its path label. -/
def needsEntry (s : State) (c : Ctx) (cl : SMap Label) : Bool :=
  (lanesOf c.act).any (fun i => !s.dominates c.vd ((s.warp c.w).pathOf i) (cl.get 0#8 i))

/-- The lanes of a sub-warp go to two or more PCs: one two-way entry after another, each taking the first group as side 0 (R139).
`back` is where a side-1 child stands until it is split again. -/
def splitChain (w : Nat) (back join : DWord) (cl : SMap Label) : List (DWord × LaneMask) → SubWarp → State → State
  | [], _, s => s
  | [_], _, s => s
  | (p0, m0) :: (p1, m1) :: rest, u, s =>
    match freeEntry (s.warp w) with
    | none => s
    | some e =>
      let s := recordSplit s w e u m0 (u.mask &&& ~~~m0) p0 (if rest = [] then p1 else back) join cl
      let s := arriveCheck s w (some (e, 0))
      if rest = [] then arriveCheck s w (some (e, 1))
      else
        match (s.warp w).sub (some (e, 1)) with
        | some v => splitChain w back join cl ((p1, m1) :: rest) v s
        | none => s

/-- Where a transfer's lanes go: groups of lanes by PC, whether a join of zero slots was given, whether the join is checked by R100,
and whether the latches pass to a child (R136). -/
structure Transfer where
  groups : List (DWord × LaneMask)
  join : DWord
  noJoin : Bool
  checkJoin : Bool
  keep : Bool
  deriving DecidableEq, Repr

/-- The latches of a quadrant pass to a child of the issuing sub-warp (R136). -/
def inheritLatches (s : State) (c : Ctx) (i : SubId) : State :=
  if (s.quad c.quad).owner = some (c.w, c.sub.id) then s.modQuad c.quad (fun q => { q with owner := some (c.w, i) }) else s

/-- The entries that a transfer takes, with its checks: lanes that agree take one only where a label needs it; a join of zero slots,
a join that is no target, and a full table trap (R37, R100, R139). -/
def transferChecks (c : Ctx) (t : Transfer) (cl : SMap Label) : M Nat := do
  let s ← M.st
  let need := if t.groups.length = 1 ∧ needsEntry s c cl then 1 else t.groups.length - 1
  if need = 0 then pure 0
  else
    if t.noJoin then trapTarget c c.on t.join 0
    if t.checkJoin then checkStart c t.join true
    trapIf c (decide (freeEntries (s.warp c.w) < need)) 4
    pure need

/-- Make a checked transfer that takes `need` entries: every lane to one PC without an entry, or with a one-sided one; or a split (R37,
R139). -/
def transferTo (c : Ctx) (t : Transfer) (cl : SMap Label) (need : Nat) (s : State) : State :=
  match t.groups with
  | [] => s
  | (pc, m) :: rest =>
    if need = 0 then jumpSub s c.w c.sub pc
    else
      let e := (freeEntry (s.warp c.w)).getD 0
      let s := if t.keep then inheritLatches s c (some (e, if rest = [] then 0 else 1)) else dropLatches s c.quad
      if rest = [] then arriveCheck (recordSplit s c.w e c.sub m 0#32 pc pc t.join cl) c.w (some (e, 0))
      else splitChain c.w c.pc t.join cl t.groups c.sub s

/-- A displacement in slots from a PC (R168). -/
def slotsFrom (pc : DWord) (d : Int) : DWord := pc + BitVec.ofInt 64 (4 * d)

/-- The lanes that BRA takes to its target: `d` holds n, inv and the conditional bit (R168). -/
def braTaken (s : State) (c : Ctx) (d : BitVec 6) : LaneMask :=
  let k := (maskReg s c (field d 0 3).toNat).bits
  if d.getLsbD 4 then c.on &&& (if d.getLsbD 3 then ~~~k else k) else c.on

/-- The condition label of a lane of BRA (R148, R168). -/
def braLabels (s : State) (c : Ctx) (d : BitVec 6) (i : Nat) : List Label :=
  (if d.getLsbD 4 then [(maskReg s c (field d 0 3).toNat).lbls.get 0#8 i] else []) ++ c.kl

/-- Where the lanes of BRA go: those taken to the target, the others on. -/
def braGroups (s : State) (c : Ctx) (d : BitVec 6) (t : Int) : List (DWord × LaneMask) :=
  let taken := braTaken s c d
  let fall := c.act &&& ~~~taken
  (if taken = 0#32 then [] else [(slotsFrom c.pc t, taken)]) ++ (if fall = 0#32 then [] else [(c.next, fall)])

/-- The transfer of BRA. -/
def braTransfer (s : State) (c : Ctx) (d : BitVec 6) (j t : Int) : Transfer :=
  ⟨braGroups s c d t, slotsFrom c.pc j, decide (j = 0), true, true⟩

/-- The checks of BRA: condition labels, target, and those of the transfer (R33, R100, R168). -/
def braChecks (c : Ctx) (d : BitVec 6) (j t : Int) : M (SMap Label × Nat) := do
  let s ← M.st
  checkCondition c c.act (braLabels s c d)
  let cl ← M.run' (fun r => r.joinLanes c.w c.act (braLabels s c d))
  checkStart c (slotsFrom c.pc t) true
  let n ← transferChecks c (braTransfer s c d j t) cl
  pure (cl, n)

/-- BRA (R168). -/
def braBody (c : Ctx) (d : BitVec 6) (j t : Int) : M Done := do
  let r ← braChecks c d j t
  M.upd (fun s => transferTo c (braTransfer s c d j t) r.1 r.2 s)
  pure .placed

/-- BRA, 64-bit form (R168). -/
def execBra64 (p : Pfx) (w : W0) (x : W1) (s : State) : Out :=
  issue p (WF.bra_64 p w x) s (fun c => braBody c w.d (w.b ++ w.a : BitVec 12).toInt x.hi.toInt)

/-- BRA, 96-bit form (R168). -/
def execBra96 (p : Pfx) (w : W0) (x : W1) (lit : Word) (s : State) : Out :=
  issue p (WF.bra_96 p w x lit) s (fun c => braBody c w.d x.hi.toInt lit.toInt)

/-! Calls and jump tables (R101, R169, R170). -/

/-- Return stack of a lane. -/
def Warp.stackOf (x : Warp) (i : Nat) : List RetEntry := SMap.get [] x.rets i

/-- A full return stack of a lane of on traps BOUNDS, and nothing is pushed (R170). -/
def checkReturns (c : Ctx) : M Unit := do
  let s ← M.st
  let full := maskOf (fun i => hasLane c.on i && decide (8 ≤ ((s.warp c.w).stackOf i).length))
  trapIf c (full != 0#32) 12 full

/-- Push the return PC and the path label in every lane of on (R170). -/
def pushReturns (c : Ctx) (x : Warp) : Warp :=
  { x with rets := (lanesOf c.on).foldl (fun r i => r.set [] i (⟨c.next, x.pathOf i⟩ :: x.stackOf i)) x.rets }

/-- A transfer of the lanes of on to `target`: those off fall through (R170). -/
def partOf (c : Ctx) (target join : DWord) : Transfer :=
  ⟨[(target, c.on), (c.next, c.act &&& ~~~c.on)], join, false, false, false⟩

/-- The checks of a transfer of the lanes of on: where some are off it splits, the predicate's label being each lane's condition label
(R170). -/
def partChecks (c : Ctx) (target join : DWord) : M (SMap Label × Nat) := do
  if c.on = 0#32 ∨ c.on = c.act then pure ([], 0)
  else
    let cl ← M.run' (fun s => s.joinLanes c.w c.act (fun _ => c.kl))
    let n ← transferChecks c (partOf c target join) cl
    pure (cl, n)

/-- Transfer the lanes of on, with no lane on none (R170). -/
def partTo (c : Ctx) (target join : DWord) (cl : SMap Label) (n : Nat) : M Done := do
  if c.on = 0#32 then pure .next
  else if c.on = c.act then
    M.upd (fun s => jumpSub s c.w c.sub target)
    pure .placed
  else
    M.upd (transferTo c (partOf c target join) cl n)
    pure .placed

/-- The checks of CALL (R100, R170). -/
def callChecks (c : Ctx) (t : Int) : M (SMap Label × Nat) := do
  checkStart c (slotsFrom c.pc t) true
  checkReturns c
  partChecks c (slotsFrom c.pc t) c.next

/-- CALL (R170). With no lane on it does nothing. -/
def callBody (c : Ctx) (t : Int) : M Done := do
  let r ← callChecks c t
  M.upd (fun s => s.modWarp c.w (pushReturns c))
  partTo c (slotsFrom c.pc t) c.next r.1 r.2

/-- CALL, 64-bit form (R170). -/
def execCall64 (p : Pfx) (w : W0) (x : W1) (s : State) : Out :=
  issue p (WF.call_64 p w x) s (fun c => callBody c x.hi.toInt)

/-- CALL, 96-bit form (R170). -/
def execCall96 (p : Pfx) (w : W0) (x : W1) (lit : Word) (s : State) : Out :=
  issue p (WF.call_96 p w x lit) s (fun c => callBody c lit.toInt)

/-- The tag of the PAD at a slot, where the slot holds a 32-bit PAD of page 0 with no run before it (R101, step 4). -/
def padTag (ws : List Word) (k : Nat) : Option (BitVec 6) :=
  let v := lineWord ws k
  if (lineKinds ws)[k]? = some .first ∧ lenOf v = some .w32 ∧ field v 2 7 = 0x34#7 ∧
      !(decide (0 < k) && ((lineKinds ws)[k - 1]?).any (fun x => x == .run || x == .runRest)) then some (field v 15 6)
  else none

/-- Steps 3 to 5 of R101 for the lanes' entries, each step over all lanes. -/
def checkEntries (c : Ctx) (tag : BitVec 6) (es : List (Nat × DWord)) : M Unit := do
  let fail (step : Nat) (bad : List (Nat × DWord)) : M Unit :=
    match bad with
    | [] => pure ()
    | b :: _ => trapTarget c (maskOf (fun i => bad.any (fun e => e.1 == i))) b.2 step
  fail 3 (es.filter (fun e => !legalPc e.2))
  let rec tags : List (Nat × DWord) → M (List ((Nat × DWord) × Option (BitVec 6)))
    | [] => pure []
    | e :: r => do
      let line' ← fetchFor c e.2
      let rest ← tags r
      pure (match line' with
        | some ws => (e, padTag ws (lineSlot e.2)) :: rest
        | none => rest)
  let ts ← tags es
  fail 4 ((ts.filter (fun t => t.2.isNone)).map (fun t => t.1))
  fail 5 ((ts.filter (fun t => t.2 != some tag)).map (fun t => t.1))

/-- Group lanes by PC, in ascending order of the PC. -/
def groupByPc (es : List (Nat × DWord)) : List (DWord × LaneMask) :=
  (sortOn (fun (t : DWord) => t.toNat) ((es.map (fun e => e.2)).dedup)).map (fun t =>
    (t, maskOf (fun i => es.any (fun e => e.1 == i && e.2 == t))))

/-- The registers that a jump through a table reads: index, table address and count. -/
def tableSrcs (w : W0) (x : W1) : List Src := [srcA w x, .code w.b, (Src.code w.b).up 1, .code x.c]

/-- The address of a lane's entry of the table (R101). -/
def entryAddr (s : State) (c : Ctx) (w : W0) (x : W1) (i : Nat) : DWord :=
  pairVal s c (.code w.b) 0 + BitVec.ofNat 64 (8 * (srcVal s c (srcA w x) i).toNat)

/-- Where the lanes of BRX and CALLX go: the lanes of on to the PCs of the table in ascending order, the lanes that are off fall
through last (R169) (the lanes that are off: DESIGN CHOICE, log entry 53). -/
def indirectGroups (c : Ctx) (es : List (Nat × DWord)) : List (DWord × LaneMask) :=
  let off := c.act &&& ~~~c.on
  let gs := groupByPc es
  if off = 0#32 then gs
  else (gs.filter (fun g => g.1 != c.next)) ++ [(c.next, off ||| ((gs.filter (fun g => g.1 == c.next)).foldl (fun m g => m ||| g.2) 0#32))]

/-- The transfer of BRX and CALLX. -/
def indirectTransfer (c : Ctx) (x : W1) (call : Bool) (es : List (Nat × DWord)) : Transfer :=
  ⟨indirectGroups c es, if call then c.next else slotsFrom c.pc x.hi.toInt, !call && x.hi == 0#16, !call, false⟩

/-- The checks of BRX and CALLX (R101, R169, R170): the entries that the lanes read, their condition labels, and the split entries that
the transfer takes. -/
def indirectChecks (c : Ctx) (w : W0) (x : W1) (call : Bool) : M (List (Nat × DWord) × SMap Label × Nat) := do
  checkSrcs c (tableSrcs w x) c.on
  let s ← M.st
  let regs := fun i => (tableSrcs w x).map (fun y => srcLbl s c y i) ++ c.kl
  checkConditionAt c 1 c.act regs
  let beyond := maskOf (fun i => hasLane c.on i && decide ((srcVal s c (.code x.c) 0).toNat ≤ (srcVal s c (srcA w x) i).toNat))
  if beyond ≠ 0#32 then trapTarget c beyond (pairVal s c (.code w.b) 0) 1
  let al ← M.run' (fun s => s.joinLanes c.w c.on regs)
  let ps ← checkAccess c false c.on (entryAddr s c w x) 8 .read (fun i => al.get 0#8 i)
  awaitReads c 8 ps
  let s ← M.st
  let bad := maskOf (fun i => hasLane c.on i && placePoison s c 8 (placeOf ps i))
  trapIf c (bad != 0#32) 18 bad
  let full := fun i => regs i ++ (if hasLane c.on i then [placeLabel s c (placeOf ps i)] else [])
  checkConditionAt c 2 c.act full
  let cl ← M.run' (fun s => s.joinLanes c.w c.act full)
  let es := (lanesOf c.on).map (fun i => (i, ofBytes 64 (placeRead s c 8 (placeOf ps i))))
  checkEntries c w.d es
  if c.on = 0#32 then pure (es, cl, 0)
  else
    if call then checkReturns c
    let n ← transferChecks c (indirectTransfer c x call es) cl
    pure (es, cl, n)

/-- BRX and CALLX (R101, R169): with no lane on they transfer none. -/
def indirectBody (c : Ctx) (w : W0) (x : W1) (call : Bool) : M Done := do
  let r ← indirectChecks c w x call
  lastUse c [(w.luA, srcA w x), (w.luB, .code w.b), (w.luB, (Src.code w.b).up 1)]
  if c.on = 0#32 then pure .next
  else
    M.upd (fun s => if call then s.modWarp c.w (pushReturns c) else s)
    M.upd (transferTo c (indirectTransfer c x call r.1) r.2.1 r.2.2)
    M.upd (fun s => dropLatches s c.quad)
    pure .placed

/-- BRX (R169). -/
def execBrx (p : Pfx) (w : W0) (x : W1) (s : State) : Out :=
  issue p (WF.brx p w x) s (fun c => indirectBody c w x false)

/-- CALLX (R169, R170). -/
def execCallx (p : Pfx) (w : W0) (x : W1) (s : State) : Out :=
  issue p (WF.callx p w x) s (fun c => indirectBody c w x true)

/-- Whether a RET commits the region (R217): a lane pops an entry at or below its depth at the cue point. -/
def retCommits (x : Warp) (on : LaneMask) : Bool :=
  match x.cue with
  | some q => !q.committed && (lanesOf on).any (fun i => decide ((x.stackOf i).length ≤ (SMap.get [] q.rets i).length))
  | none => false

/-- The return stacks after one entry is popped in each lane of a mask. -/
def popReturns (x : Warp) (m : LaneMask) : SMap (List RetEntry) :=
  (lanesOf m).foldl (fun (r : SMap (List RetEntry)) (i : Nat) => SMap.set [] r i (List.drop 1 (x.stackOf i))) x.rets

/-- The return PCs of the lanes of on. -/
def returnPcs (x : Warp) (on : LaneMask) : List DWord :=
  ((lanesOf on).map (fun i => (((x.stackOf i).head?).map (fun e => e.pc)).getD 0#64)).dedup

/-- The checks of RET: an empty stack traps BOUNDS, return PCs that differ TARGET (R100, R170). With no lane on there is no PC. -/
def retChecks (c : Ctx) : M (Option (DWord × SMap Label × Nat)) := do
  let s ← M.st
  let x := s.warp c.w
  let empty := maskOf (fun i => hasLane c.on i && (x.stackOf i).isEmpty)
  trapIf c (empty != 0#32) 12 empty
  match returnPcs x c.on with
  | [] => pure none
  | [t] =>
    checkStart c t false
    let r ← partChecks c t t
    pure (some (t, r))
  | t :: _ => trapTarget c c.on t 0

/-- The state after RET's pops, the region committed where one of them leaves it (R170, R217). -/
def popped (c : Ctx) (s : State) : State :=
  (if retCommits (s.warp c.w) c.on then commit s c.w else s).modWarp c.w (fun y => { y with rets := popReturns y c.on })

/-- RET (R170). With no lane on it does nothing. -/
def retBody (c : Ctx) : M Done := do
  match ← retChecks c with
  | none => pure .next
  | some (t, cl, n) =>
    M.upd (popped c)
    partTo c t t cl n

/-- RET (R170). -/
def execRet (p : Pfx) (w : W0) (s : State) : Out :=
  issue p (WF.ret p w) s retBody

/-! Ends, halts and waits (R171 to R173). -/

/-- The lanes of a sub-warp that go on after others of it have ended stand at the successor. -/
def goOn (s : State) (c : Ctx) : State :=
  match (s.warp c.w).sub c.sub.id with
  | some u => if u.hold = .ready then jumpSub s c.w { u with matched := false } c.next else s
  | none => s

/-- EXIT (R171): every lane of on ends. -/
def execExit (p : Pfx) (w : W0) (s : State) : Out :=
  issue p (WF.exit p w) s (fun c => do
    if c.on = 0#32 then pure .next
    else
      M.upd (fun s => goOn (exitLanes s c.w c.on c.sub.maskLabel) c)
      pure .placed)

/-- KILL (R171): when a lane is on, every lane of the warp ends, with cause KILL. -/
def execKill (p : Pfx) (w : W0) (s : State) : Out :=
  issue p (WF.kill p w) s (fun c => do
    if c.on = 0#32 then pure .next
    else
      M.upd (fun s => dieWarp (commit s c.w) c.w 1 c.sub.maskLabel)
      pure .placed)

/-- SYNCW (R172): outside a split it does nothing; inside, it parks at the successor until the other side has arrived, exited, or
waits in SYNCW too. -/
def execSyncw (p : Pfx) (w : W0) (s : State) : Out :=
  issue p (WF.syncw p w) s (fun c => do
    match c.sub.id with
    | none => pure .next
    | some _ =>
      M.upd (fun s => wakeSyncs (s.modWarp c.w (fun x => x.setSub { c.sub with pc := c.next, hold := .syncw })) c.w 33)
      pure .placed)

/-- YIELD (R172): the sub-warp becomes the newest ready one, its run ends, and the latches become invalid. -/
def execYield (p : Pfx) (w : W0) (s : State) : Out :=
  issue p (WF.yield p w) s (fun c => do
    M.upd (fun s => (dropLatches s c.quad).modQuad c.quad (fun q => { q with run := none }))
    pure .next)

/-- TRAP (R173): SWTRAP with its code, the return PC being the successor; nothing with no lane on. -/
def trapBody (c : Ctx) (code : Word) : M Done := do
  if c.on = 0#32 then pure .next
  else M.stop (.trap { c.info 23 c.on with pc := c.next, high := code })

/-- TRAP, 32-bit form (R173). -/
def execTrap32 (p : Pfx) (w : W0) (s : State) : Out :=
  issue p (WF.trap_32 p w) s (fun c => trapBody c (zext (w.b ++ w.a : BitVec 12) 32))

/-- TRAP, 64-bit form (R173). -/
def execTrap64 (p : Pfx) (w : W0) (x : W1) (s : State) : Out :=
  issue p (WF.trap_64 p w x) s (fun c => trapBody c (zext x.hi 32))

/-- BKPT (R173). -/
def execBkpt (p : Pfx) (w : W0) (s : State) : Out :=
  issue p (WF.bkpt p w) s (fun c => do
    if c.on = 0#32 then pure .next
    else trap c 22)

/-! CUE (R174). -/

/-- The registers that a flashback restores: those of a bitmap, in every lane. -/
def keepRegs {n : Nat} (f : SMap Reg) (base : Nat) (m : BitVec n) : SMap Reg :=
  f.filter (fun e => decide (base * 32 ≤ e.1) && m.getLsbD (e.1 / 32 - base))

/-- The bytes of a cue buffer (R174). -/
def cueBytes (o : BitVec 16) (sm : BitVec 16) (v : BitVec 8) : Nat := 256 + 160 * (popN 16 o.toNat + popN 8 v.toNat) + 8 * popN 16 sm.toNat

/-- The checks of CUE (R174): ILLEGAL in a split, with more than 16 registers, or with a main-file range beyond the launch's count;
BOUNDS where the launch's cue bytes do not hold the snapshot. -/
def cueChecks (c : Ctx) (o sm : BitVec 16) (v : BitVec 8) (b : Nat) : M Unit := do
  let s ← M.st
  let r := s.record c.w
  trapIf c ((s.warp c.w).splits != []) 0
  trapIf c (decide (16 < popN 16 o.toNat + popN 16 sm.toNat + popN 8 v.toNat) || (v != 0#8 && decide (r.regs ≤ b + 7))) 0
  trapIf c (decide (r.cueBytes < cueBytes o sm v)) 12

/-- The cue point that CUE sets (R219): where the region starts again, its sheet `d` lines away, and the snapshot. -/
def cueAt (s : State) (c : Ctx) (d : Int) (o sm : BitVec 16) (v : BitVec 8) (b : Nat) : Cue :=
  let x := s.warp c.w
  { pc := c.next, sheet := if d = 0 then 0#64 else lineBase c.pc + BitVec.ofInt 64 (64 * d), counters := x.ac, srseq := x.srseq
    oMap := o, sMap := sm, vBase := b, vMap := v, committed := false, rollbacks := 0, lanes := liveLanes s c.w, rets := x.rets
    images := [], o := keepRegs x.o 0 o, v := keepRegs x.v b v
    s := (List.range 32).map (fun k => if k < 16 ∧ sm.getLsbD k then (x.s[k]?).getD Reg.zero else Reg.zero)
    cmdMark := s.cmdSerial, lost := false }

/-- A region starts: the cue point replaces any other, and entries popped before are given up (R217, R220). -/
def startRegion (s : State) (w : Nat) (q : Cue) : State :=
  s.modWarp w (fun x => { x with cue := some q, queues := x.queues.map (fun u => ({ u with popped := [] } : Queue).refill) })

/-- CUE (R174, R219): `d` is the sheet's displacement in lines. -/
def cueBody (c : Ctx) (d : Int) (o sm : BitVec 16) (v : BitVec 8) (b : Nat) : M Done := do
  cueChecks c o sm v b
  M.upd (fun s => startRegion s c.w (cueAt s c d o sm v b))
  pure .next

/-- CUE, 64-bit form (R174). -/
def execCue64 (p : Pfx) (w : W0) (x : W1) (s : State) : Out :=
  issue p (WF.cue_64 p w x) s (fun c => cueBody c (w.b ++ w.a : BitVec 12).toInt x.hi 0#16 0#8 0)

/-- CUE, 96-bit form (R174). -/
def execCue96 (p : Pfx) (w : W0) (x : W1) (lit : Word) (s : State) : Out :=
  issue p (WF.cue_96 p w x lit) s (fun c => cueBody c (w.b ++ w.a : BitVec 12).toInt x.hi (field lit 0 16) (field lit 16 8) (field lit 24 8).toNat)

end Sys2Proof.Machine
end

