-- ==== Sys2Proof/Machine/Objects.lean ====
section
/-! DEFINITION. Barrier objects (R204, R271, R290, R291) and the life of a transfer command: issue, failures, completion (R18, R22,
R270, R275, R281, R289). -/

namespace Sys2Proof.Machine

open Sys2Proof

/-! Barrier objects (R271). -/

/-- An object that arrivals accept: the valid bit set, expected not zero, bytes 13 to 31 zero (which bits: DEDUCED, log entry 120). -/
def objValid (bs : List Byte) : Bool :=
  leAt bs 12 1 % 2 == 1 && leAt bs 0 4 != 0 && (List.range 19).all (fun k => leAt bs (13 + k) 1 == 0)

/-- Pending and phase after `n` arrivals: the steps of R271 taken together. -/
def objStep (expected pending phase n : Nat) : Nat × Nat :=
  if n = 0 then (pending, phase)
  else if n < pending then (pending - n, phase)
  else
    let r := n - pending
    (expected - r % expected, (phase + 1 + r / expected) % 2 ^ 32)

/-- Bytes 4 to 11 of an object after `n` arrivals. -/
def objBytes (bs : List Byte) (n : Nat) : List Byte :=
  let r := objStep (leAt bs 0 4) (leAt bs 4 4) (leAt bs 8 4) n
  le 4 r.1 ++ le 4 r.2

/-- The bytes that BOBJ.INIT writes (R290). -/
def objInit (expected : Nat) : List Byte := le 4 expected ++ le 4 expected ++ le 4 0 ++ le 1 1 ++ le 19 0

/-- Who makes an arrival or writes an object: warp, VD, die, source of the clock, what a fault record shows, and the path of the access with
the command that makes it (R48). -/
structure Doer where
  warp : Nat
  vd : Nat
  die : Nat
  src : Nat
  grid : Nat
  block : Nat
  pc : DWord
  lanes : LaneMask
  path : Nat
  cmd : Nat
  deriving DecidableEq, Repr

/-- Where an object lies: a scratchpad granule, a line of memory, or the cause of R188 that refuses it. -/
def objPlace (s : State) (d : Doer) (spad : Bool) (addr : DWord) : Except Nat Place × State :=
  if spad then
    match spadLoc s d.grid d.block (lo32 addr) 32 with
    | some (b, off) => (.ok (.spad b off), s)
    | none => (.error 12, s)
  else
    match s.translate (.die d.die) d.vd addr .atomic true true with
    | (.ok p, s) => (.ok (.mem p), s)
    | (.error e, s) => (.error e.cause, s)

/-- Whether an access to an object can be performed now (R51, R52, R374). -/
def objReady (s : State) (d : Doer) (spad : Bool) (addr : DWord) : Bool :=
  match (objPlace s d spad addr).1 with
  | .ok (.mem p) =>
    !s.blocked p.loc && !(s.die (homeDie p.loc.pa)).fenced &&
    s.caughtUp (homeDie p.loc.pa) (clockMax (s.clockOf (homeDie p.loc.pa)) (s.clockOf d.src))
  | _ => true

/-- The label check of an access to a global object (R271): the granule's label must dominate the access's; where `raise` says so and the
page floats, the granule is raised and checked against the ceiling instead (R42, R294). The label that failed to dominate, or the granule's
new label where it is raised. -/
def objLabel (s : State) (d : Doer) (raise : Bool) (p : Page) (lbl : Label) : Except Label (Option Label) × State :=
  let g := s.labelLoc (homeDie p.loc.pa) p.loc
  if raise && p.floating then
    let (new, s) := s.joinVd d.vd g lbl
    if s.dominates d.vd p.ceiling new then (.ok (some new), s) else (.error p.ceiling, s)
  else if s.dominates d.vd g lbl then (.ok none, s) else (.error g, s)

/-- Change an object by `f`, one atomic on its bytes at the home or the bank (R271, R290), for which the clock of its source ticks (R51): `f`
gives the offset and the bytes that it writes, or none where the object is not valid; the label of the access is checked against the
granule. -/
def objAtomic (s : State) (d : Doer) (raise spad : Bool) (addr : DWord) (lbl : Label) (f : List Byte → Option (Nat × List Byte)) :
    Except (Nat × Label) Unit × State :=
  match objPlace s d spad addr with
  | (.error e, s) => (.error (e, lbl), s)
  | (.ok (.spad b off), s) =>
    let q := (s.block d.grid b).spad
    if q.poisoned off 32 then (.error (18, lbl), s)
    else
      match f (q.read off 32) with
      | none => (.error (9, lbl), s)
      | some (k, bs) =>
        if !s.dominates d.vd (q.label off) lbl then (.error (6, q.label off), s)
        else if bs = [] then (.ok (), s)
        else (.ok (), s.modBlock d.grid b (fun x => { x with spad := x.spad.write (off + k) bs }))
  | (.ok (.mem p), s) =>
    let h := homeDie p.loc.pa
    if s.poisoned.get false (granule p.loc.pa) then (.error (18, lbl), s)
    else
      match f (s.readLoc h p.loc 32) with
      | none => (.error (9, lbl), s)
      | some (k, bs) =>
        match objLabel s d raise p lbl with
        | (.error g, s) => (.error (6, g), s)
        | (.ok new, s) =>
          if bs = [] then (.ok (), s)
          else
            let s := s.tick d.src 1
            (.ok (), s.performAtHome d.warp d.vd d.path d.cmd ⟨false, p.loc.pa + k⟩ addr bs new (s.clockOf d.src))

/-- `n` arrivals on an object (R271): none of them is still checked, and writes nothing (which arrivals raise: DEDUCED, log entry 22). -/
def objArrive (s : State) (d : Doer) (raise spad : Bool) (addr : DWord) (n : Nat) (lbl : Label) : Except (Nat × Label) Unit × State :=
  objAtomic s d raise spad addr lbl (fun bs => if objValid bs then some (4, if n = 0 then [] else objBytes bs n) else none)

/-- An arrival whose failure is delivered to the warp that makes it (R271). -/
def arrive (s : State) (d : Doer) (spad : Bool) (addr : DWord) (n : Nat) (lbl : Label) : State :=
  match objArrive s d false spad addr n lbl with
  | (.ok _, s) => s
  | (.error (e, _), s) => deliver s d.warp e d.pc d.lanes addr lbl

/-! Commands. -/

/-- The doer of an issuing group's access. -/
def Ctx.doer (c : Ctx) (s : State) : Doer := ⟨c.w, c.vd, c.die, c.die, (s.warp c.w).grid, (s.warp c.w).block, c.pc, c.on, 4, 0⟩
/-- The doer of a command's access. -/
def Cmd.doer (c : Cmd) : Doer := ⟨c.warp, c.vd, c.die, c.die, c.grid, c.block, c.pc, c.lanes, 4, c.id⟩

/-- The queue register that a command names, checked by R18. -/
def checkQueue (c : Ctx) (kind : Nat) (q : Option Nat) : M Unit := do
  let s ← M.st
  trapIf c (match q with
    | some n => ((s.warp c.w).queue n).kind != some kind
    | none => false) 13

/-- The queue field of a command's first word: number and token bit. -/
def tokOf (w : W0) : Option Nat := if WF.mxTok w then some (field w.d 0 4).toNat else none

/-- A command before its own fields are set. -/
def Cmd.blank (s : State) (c : Ctx) (op : CmdOp) (q : Option Nat) (lbl : Label) : Cmd :=
  { id := s.cmdSerial, warp := c.w, vd := c.vd, die := c.die, quad := c.quad, grid := (s.warp c.w).grid, block := (s.warp c.w).block
    op := op, queue := q.map (fun n => (c.w, n)), tag := 0#16, acq := false, rel := false, scope := 0, lbl := lbl, path := [], pc := c.pc
    lanes := c.on, object := none, reached := none, started := false, consumed := false, moved := 0, doneWords := [], failed := none, status := 0, verdict := none }

/-- Whether a command is one of the transfer engine. -/
def CmdOp.isTransfer : CmdOp → Bool
  | .mx _ _ _ _ _ _ _ _ => false
  | _ => true

/-- Whether a VD's auditor samples unit `n` (R388). -/
def sampled (x : VD) (n : Nat) : Bool :=
  let k := (field x.audcfg 0 5).toNat
  k == 0 || (drawG x.audkey (BitVec.ofNat 64 n)).toNat / 2 ^ (64 - k) == 0

/-- Number a CL.RED or CL.DRAW for its VD's auditor on a die (R388): none where it is not sampled, 1 where it waits for its verdict, else 0. -/
def clSample (s : State) (v d : Nat) : Option Nat × State :=
  let x := s.vd v
  let k := x.auditsCl.get 0 d
  let s := s.setVd v { x with auditsCl := x.auditsCl.set 0 d (k + 1) }
  if x.audcfg.getLsbD 6 && sampled x k then (some (if x.audcfg.getLsbD 7 then 1 else 0), countDie s d 17 v) else (none, s)

/-- Put a command in flight. -/
def addCmd (s : State) (c : Cmd) : State :=
  let s := { s with cmds := s.cmds.put c.id c, cmdSerial := s.cmdSerial + 1 }
  if c.op.isTransfer then countDie s c.die 22 c.vd else s
/-- Replace a command. -/
def putCmd (s : State) (c : Cmd) : State := { s with cmds := s.cmds.put c.id c }
/-- A command ends. -/
def endCmd (s : State) (c : Cmd) : State := { s with cmds := s.cmds.erase c.id }

/-- The entry of a command goes to the queue register that its completion was given, of the warp or of the queue's heir (R22). -/
def cmdEntry (s : State) (c : Cmd) (kind : Nat) (data : DWord) (lbl : Label) : State :=
  match c.queue with
  | none => s
  | some (w, q) => deliverEntry s w q kind ⟨data, lbl, if kind = 0 then c.id else 0, if kind = 0 then 0 else c.warp⟩

/-- An XF record (R270): tag, status, kind, count. -/
def xfRecord (tag : BitVec 16) (status kind count : Nat) : DWord :=
  (zext tag 64 <<< 48) ||| (BitVec.ofNat 64 (status % 256) <<< 40) ||| (BitVec.ofNat 64 (kind % 16) <<< 36) ||| BitVec.ofNat 64 (count % 2 ^ 32)

/-- The kind of a transfer command in its record (R270). -/
def CmdOp.kind : CmdOp → Nat
  | .copy _ (some _) => 2
  | .copy _ none => 0
  | .prefetch _ => 1
  | .init _ => 3
  | .cl code _ _ _ _ _ _ _ => code
  | .flush _ _ => 10
  | .mx _ _ _ _ _ _ _ _ => 0

/-- The sub-warp that waits for a command (R273, R274). -/
def CmdOp.resumes : CmdOp → Option SubId
  | .copy _ (some (i, _)) => some i
  | _ => none

/-- A CL command held for its slot (R281). -/
def Cmd.held (c : Cmd) : Bool :=
  match c.op with
  | .cl _ _ _ _ _ slot _ _ => slot.isSome && !c.started
  | _ => false

/-- A command of number `id` waits behind a held command of its warp (R281). -/
def waitsBehind (s : State) (w id : Nat) : Bool := s.cmds.any (fun e => e.2.warp == w && decide (e.1 < id) && e.2.held)
def behindHeld (s : State) (c : Cmd) : Bool := waitsBehind s c.warp c.id

/-- The writes of a command have been performed at their homes, and, with .rel, throughout its scope (R54, R270). -/
def cmdSettled (s : State) (c : Cmd) : Bool :=
  s.flights.all (fun f => f.cmd != c.id ||
    (if f.host then f.atHome
     else if c.rel then (if c.scope ≤ 3 then f.applied.contains c.die && f.atHome else s.liveDies.all f.applied.contains) else f.atHome))

/-- The arrival that a command makes can be performed now. -/
def arrivalReady (s : State) (c : Cmd) : Bool :=
  match c.object with
  | none => true
  | some o => objReady s c.doer o.spad o.addr

/-- A transfer command completes (R270, R271): its failure is reported once, its entry delivered, its arrival made. -/
def finishCmd (s : State) (c : Cmd) (count : Nat) (report : Bool) : State :=
  let s := endCmd s c
  let (lbl, s) := match c.failed with
    | some (_, _, h) => s.join c.warp c.lbl h
    | none => (c.lbl, s)
  let s := match c.failed with
    | some (k, a, h) => if report then deliverAt s c.warp k c.pc c.lanes a h c.op.resumes else s
    | none => s
  let status := if c.failed.isSome then 4 else c.status
  let s := cmdEntry s c 1 (xfRecord c.tag status c.op.kind count) lbl
  match c.object with
  | none => s
  | some o =>
    let (l, s) := s.joinList c.warp (c.lbl :: c.path)
    arrive s c.doer o.spad o.addr o.count l

/-- Only the communication warp, or any warp while the role is vacant, may go on (R275). -/
def checkComm (c : Ctx) : M Unit := do
  let s ← M.st
  match (s.block (s.warp c.w).grid (s.warp c.w).block).comm with
  | some w => trapIf c (w != c.w) 16
  | none => pure ()

/-- The issuing warp is the communication warp of its block; a vacant role is taken (R275). -/
def claimComm (c : Ctx) (s : State) : State :=
  s.modBlock (s.warp c.w).grid (s.warp c.w).block (fun b => { b with comm := some (b.comm.getD c.w) })

/-- A command with .acq waits until the warp's earlier writes are performed throughout its scope (R56, case 1). -/
def awaitAcq (c : Ctx) (acq : Bool) (scope : Nat) : M Unit := do
  let s ← M.st
  M.await (!acq || settled s c.w c.die scope (fun _ => true))

/-! BARW, BOBJ.ARV, BOBJ.INIT. -/

/-- The registers of an object's address (R204, R286, R290). -/
def objAddr (s : State) (c : Ctx) (spad : Bool) (a : Src) : DWord := if spad then zext (srcVal s c a 0) 64 else pairVal s c a 0

/-- Steps 1 to 5 of R188 for an object that a uniform instruction names. -/
def checkObj (c : Ctx) (spad : Bool) (a : Src) (k : Kind) : M Place := do
  let s ← M.st
  let al ← M.run' (fun s => s.joinList c.w (addrLbls s c spad a 0))
  let ps ← checkAccess c spad c.on (fun _ => objAddr s c spad a) 32 k (fun _ => al)
  pure (placeOf ps ((lowestLane c.on).getD 0))

/-- The checks of BARW (R204): the object is read, and its phase has been reached. -/
def barwChecks (c : Ctx) (spad : Bool) (a b : Src) : M Unit := do
  checkSrcs c (b :: addrSrcs spad a) c.on
  let pl ← checkObj c spad a .read
  let ps : Places := [(0, pl)]
  awaitLabels c ps
  awaitReads c 32 ps
  let l ← M.run' (fun s => s.joinList c.w (placeLabel s c pl :: addrLbls s c spad a 0 ++ [srcLbl s c b 0, c.sub.maskLabel]))
  let s ← M.st
  requireDom c c.on ((lanesOf c.on).map (fun i => (i, l))) (fun _ => (s.warp c.w).clearance) (fun _ => objAddr s c spad a)
  trapIf c (placePoison s c 32 pl) 18
  M.await (decide ((ofBytes 32 (slice (placeRead s c 32 pl) 8 4) - srcVal s c b 0).toNat < 2 ^ 31))

/-- BARW (R204): waits for the object's phase. -/
def execBarw (p : Pfx) (w : W0) (s : State) : Out :=
  issue p (WF.barw p w) s (fun c => do
    let spad := w.d.getLsbD 0
    barwChecks c spad (.code w.a) (.code w.b)
    lastUse c ((w.luB, .code w.b) :: (addrSrcs spad (.code w.a)).map (fun y => (w.luA, y)))
    pure .next)

/-- An arrival that an instruction makes: space and address of its object, how many, and its label. -/
structure Arriving where
  spad : Bool
  addr : DWord
  count : Nat
  lbl : Label
  deriving DecidableEq, Repr

/-- The register of BOBJ.ARV's count (R291). -/
def arvCount (w : W0) : List Src := if w.b = 20#6 then [] else [Src.code w.b]

/-- The checks of BOBJ.ARV (R291), with some lane on; with .rel it waits for the warp's writes. -/
def arvChecks (c : Ctx) (w : W0) : M (Option Arriving) := do
  if c.on = 0#32 then pure none
  else
    let spad := w.d.getLsbD 0
    let a := Src.code w.a
    checkSrcs c (arvCount w ++ addrSrcs spad a) c.on
    let s ← M.st
    let n := if w.b = 20#6 then 1 else (srcVal s c (.code w.b) 0).toNat
    let _ ← checkObj c spad a .atomic
    let s ← M.st
    M.await (!(w.d.getLsbD 4) || settled s c.w c.die (field w.d 1 3).toNat (fun _ => true))
    M.await (!waitsBehind s c.w s.cmdSerial)
    M.await (objReady s (c.doer s) spad (objAddr s c spad a))
    let l ← M.run' (fun s => s.joinList c.w ((arvCount w).map (fun y => srcLbl s c y 0) ++ addrLbls s c spad a 0 ++ [c.sub.maskLabel] ++ c.kl))
    pure (some ⟨spad, objAddr s c spad a, n, l⟩)

/-- The arrivals are made, and the region commits (R291). -/
def arrived (c : Ctx) (r : Option Arriving) (s : State) : State :=
  match r with
  | none => s
  | some x => arrive (commit s c.w) (c.doer s) x.spad x.addr x.count x.lbl

/-- BOBJ.ARV (R291): arrivals of c, performed at once. -/
def execBobjArv (p : Pfx) (w : W0) (s : State) : Out :=
  issue p (WF.bobj_arv p w) s (fun c => do
    let r ← arvChecks c w
    lastUse c ((arvCount w).map (fun y => (w.luB, y)) ++ (addrSrcs (w.d.getLsbD 0) (.code w.a)).map (fun y => (w.luA, y)))
    M.upd (arrived c r)
    pure .next)

/-- A command whose lanes of on are empty delivers its entry at once (R285). -/
def emptyEntry (c : Ctx) (q : Option Nat) (tag : BitVec 16) (kind : Nat) (lbl : Label) (s : State) : State :=
  match q with
  | some n => deliverEntry s c.w n 1 ⟨xfRecord tag 0 kind 0, lbl, 0, c.w⟩
  | none => s

/-- The eight registers of a descriptor (R255, R287). -/
def descSrcs (d : BitVec 6) : List Src := (List.range 8).map (fun k => .code (d + BitVec.ofNat 6 k))

/-- The checks of BOBJ.INIT (R290): the label of its operands, and the expected count with the object's address; none with no lane on. -/
def initChecks (c : Ctx) (w : W0) (x : W1) : M (Label × Option (Word × DWord)) := do
  let spad := WF.xfOsp x
  let a := Src.code w.a
  let e := Src.code w.b
  checkQueue c 1 (tokOf w)
  checkSrcs c (e :: addrSrcs spad a) c.on
  let lbl ← M.run' (fun s => s.joinList c.w (srcLbl s c e 0 :: addrLbls s c spad a 0 ++ [c.sub.maskLabel] ++ c.kl))
  if c.on = 0#32 then pure (lbl, none)
  else
    let s ← M.st
    let addr := objAddr s c spad a
    let pl ← checkObj c spad a .atomic
    trapIf c (srcVal s c e 0 == 0#32) 12
    awaitLabels c [(0, pl)]
    let s ← M.st
    requireDomAt c 6 c.on ((lanesOf c.on).map (fun i => (i, lbl))) (fun _ => guardLabel s c pl) (fun _ => addr)
    awaitAcq c (WF.xfAcq x) (WF.xfScope x)
    pure (lbl, some (srcVal s c e 0, addr))

/-- The command of BOBJ.INIT is in flight; with no lane on its entry is delivered at once (R285, R290). -/
def initStart (c : Ctx) (w : W0) (x : W1) (r : Label × Option (Word × DWord)) (s : State) : State :=
  match r.2 with
  | none => emptyEntry c (tokOf w) 0#16 3 r.1 s
  | some y => addCmd s { Cmd.blank s c (.init y.1) (tokOf w) r.1 with
      acq := WF.xfAcq x, rel := WF.xfRel x, scope := WF.xfScope x, object := some ⟨WF.xfOsp x, y.2, 0, 0⟩ }

/-- BOBJ.INIT (R290): checked at issue; the object is written when the command is performed. -/
def execBobjInit (p : Pfx) (w : W0) (x : W1) (s : State) : Out :=
  issue p (WF.bobj_init p w x) s (fun c => do
    let r ← initChecks c w x
    lastUse c ((w.luB, .code w.b) :: (addrSrcs (WF.xfOsp x) (.code w.a)).map (fun y => (w.luA, y)))
    M.upd (initStart c w x r)
    pure .next)

/-- BOBJ.INIT is performed (R290): one atomic on the object's 32 bytes, after which its entry goes out with .rel's ordering. -/
def performInit (s : State) (c : Cmd) (expected : Word) : Out :=
  match c.object with
  | none => .next { s with report := .disabled }
  | some o =>
    if c.started then
      if cmdSettled s c then .next { finishCmd s { c with object := none } c.moved true with report := .done }
      else .next { s with report := .disabled }
    else if behindHeld s c || !objReady s c.doer o.spad o.addr then .next { s with report := .disabled }
    else
      let r := objAtomic s c.doer false o.spad o.addr c.lbl (fun _ => some (0, objInit expected.toNat))
      let c' := match r.1 with
        | .ok _ => { c with started := true, moved := 2 }
        | .error (e, h) => { c with started := true, failed := some (e, o.addr, h) }
      let t := putCmd r.2 c'
      if cmdSettled t c' then .next { finishCmd t { c' with object := none } c'.moved true with report := .done }
      else .next { t with report := .done }

end Sys2Proof.Machine
end

