-- ==== Sys2Proof/Machine/Transfer.lean ====
section
/-! DEFINITION. Copies and prefetches (R267 to R274, R284 to R289, R296): their issue, the performance of their words, and their
completion. -/

namespace Sys2Proof.Machine

open Sys2Proof

/-! Tiles (R267, R287). -/

/-- 16-byte words in a row of a tile. -/
def Tile.units (t : Tile) : Nat := t.bytes / 16
/-- 16-byte words of a tile; a fill of the die cache moves none. -/
def Tile.words (t : Tile) : Nat := if t.dstTier = 4 then 0 else t.rows * t.units
/-- The distance of word `k` from the base of an endpoint. -/
def Tile.delta (t : Tile) (stride k : Nat) : Nat := k / t.units * stride + 16 * (k % t.units)
/-- The address of word `k` at the source and at the destination. -/
def Tile.srcAt (t : Tile) (k : Nat) : DWord := t.src + BitVec.ofNat 64 (t.delta t.srcStride k)
def Tile.dstAt (t : Tile) (k : Nat) : DWord := t.dst + BitVec.ofNat 64 (t.delta t.dstStride k)

/-- The tile that a descriptor names: eight uniform registers (R287). -/
def tileOf (r : List Word) (src dst : Nat) : Tile :=
  let g (k : Nat) : Word := (r[k]?).getD 0#32
  { srcTier := src, dstTier := dst, src := pair (g 1) (g 0), dst := pair (g 3) (g 2), rows := (field (g 4) 0 16).toNat + 1
    bytes := 16 * ((field (g 4) 16 12).toNat + 1), srcStride := 16 * (g 5).toNat, dstStride := 16 * (g 6).toNat
    package := (field (g 7) 16 12).toNat }

/-- The first limit of ALIGN that a tile breaks, as the address to report (R267). -/
def tileMisaligned (t : Tile) : Option DWord :=
  let strideBad (s : Nat) : Bool := !(decide (t.bytes ≤ s) || (s == 0 && t.rows == 1))
  if t.src.toNat % 16 ≠ 0 ∨ strideBad t.srcStride then some t.src
  else if t.dst.toNat % 16 ≠ 0 ∨ (t.dstTier ≠ 4 ∧ strideBad t.dstStride) then some t.dst
  else none

/-- Whether a scratchpad endpoint leaves the block's scratchpad (R187, R267). -/
def tileOutside (s : State) (g b : Nat) (t : Tile) (base : DWord) (stride : Nat) : Bool :=
  match spadLoc s g b (lo32 base) 16 with
  | none => true
  | some (_, off) => decide ((s.grid g).record.spadBytes < off + (t.rows - 1) * stride + t.bytes)

/-- The first limit of BOUNDS that a tile breaks, as the address to report (R267, R287). -/
def tileUnbounded (s : State) (g b : Nat) (t : Tile) (r : List Word) : Option DWord :=
  let x (k : Nat) : Word := (r[k]?).getD 0#32
  if field (x 4) 28 4 ≠ 0#4 ∨ field (x 7) 28 4 ≠ 0#4 ∨ (t.srcTier ≠ 3 ∧ t.dstTier ≠ 3 ∧ t.package ≠ 0) then some t.src
  else if t.srcTier = 0 ∧ (hi32 t.src ≠ 0#32 ∨ tileOutside s g b t t.src t.srcStride) then some t.src
  else if t.dstTier = 4 ∧ (t.dst ≠ 0#64 ∨ t.dstStride ≠ 0) then some t.dst
  else if t.dstTier = 0 ∧ (hi32 t.dst ≠ 0#32 ∨ tileOutside s g b t t.dst t.dstStride) then some t.dst
  else none

/-- Addresses of a row, one in each 64 KiB page that it touches. -/
def rowPages (a bytes : Nat) : List Nat :=
  a :: ((List.range ((a + bytes - 1) / 65536 - a / 65536)).map (fun k => (a / 65536 + k + 1) * 65536))

/-- Addresses that name every page of an endpoint. -/
def endPages (t : Tile) (base : DWord) (stride : Nat) : List DWord :=
  (((List.range t.rows).map (fun r => rowPages (base.toNat + r * stride) t.bytes)).flatten).map (fun a => BitVec.ofNat 64 a)

/-- Translate addresses, noting each one's fault. -/
def pageFaults (m : Mmu) (v : Nat) (need : Need) (write : Bool) : List DWord → State → List (DWord × AccessFault) × State
  | [], s => ([], s)
  | a :: as, s =>
    let (r, s) := s.translate m v a need write true
    let (rs, s) := pageFaults m v need write as s
    match r with
    | .ok _ => (rs, s)
    | .error e => ((a, e) :: rs, s)

/-- The issue checks of R268 over every page of both endpoints: the first step of R188 at which an address fails; a page that is not mapped is
reported as an engine's access (R216, R372). -/
def checkPages (c : Ctx) (t : Tile) (lbl : Label) : M Unit := do
  let side := fun (tier : Nat) (base : DWord) (stride : Nat) (need : Need) (write : Bool) =>
    M.run' (fun s => if tier = 1 ∨ tier = 2 then pageFaults (.quad c.quad) c.vd need write (endPages t base stride) s else ([], s))
  let a ← side t.srcTier t.src t.srcStride .read false
  let b ← side t.dstTier t.dst t.dstStride .write true
  let fs := a ++ b
  let first := fs.foldl (fun (x : Option (DWord × AccessFault)) f => match x with
    | some g => if f.2.step < g.2.step then some f else some g
    | none => some f) none
  match first with
  | some (va, e) => M.stop (accessTrap c e c.on (fun _ => va) (fun _ => lbl) 3)
  | none => pure ()

/-! Issue (R286 to R288). -/

/-- The image that the cue buffer keeps of an object (R218): its place and bytes. -/
def objImage (s : State) (c : Ctx) (o : Arrival) : Option Image :=
  match (objPlace s (c.doer s) o.spad o.addr).1 with
  | .ok (.spad b off) => some ⟨true, b * 2 ^ 22 + off, (s.spadOf c.w b).read off 32⟩
  | .ok (.mem p) => some ⟨false, p.loc.pa, s.readLoc (homeDie p.loc.pa) p.loc 32⟩
  | .error _ => none

/-- A prefetch in an uncommitted region (R217, R218): the image of an object named for the first time is recorded; a fifth object
commits the region. -/
def noteImage (s : State) (c : Ctx) (o : Arrival) : State :=
  match (s.warp c.w).cue, objImage s c o with
  | some q, some im =>
    if q.committed ∨ q.images.any (fun j => j.spad == im.spad && j.addr == im.addr) then s
    else if q.images.length < 4 then
      s.modWarp c.w (fun x => { x with cue := some { q with images := q.images ++ [im] } })
    else commit s c.w
  | _, _ => s

/-- What a transfer instruction has checked: the tile, the tag, the label of its operands, its object's address, and for XF.YIELD the PC at
which the sub-warp goes on. -/
structure Xf where
  tile : Tile
  tag : BitVec 16
  lbl : Label
  object : DWord
  cont : DWord
  deriving DecidableEq, Repr

/-- The registers of a transfer's object. -/
def xfObj (w : W0) (x : W1) : List Src := if w.b = 20#6 then [] else addrSrcs (WF.xfOsp x) (.code w.b)
/-- The queue register that a transfer names: XF.COPY alone has one. -/
def xfQueue (kind : Nat) (w : W0) : Option Nat := if kind = 0 then tokOf w else none

/-- The checks of XF.COPY, XF.PREF and XF.YIELD (R267, R268, R275, R288); with no lane on the operands are read and nothing more. -/
def xfChecks (c : Ctx) (kind : Nat) (w : W0) (x : W1) : M Xf := do
  checkQueue c 1 (xfQueue kind w)
  let ds := descSrcs w.a
  let osp := WF.xfOsp x
  checkSrcs c (ds ++ xfObj w x) c.on
  let s ← M.st
  let r := ds.map (fun y => srcVal s c y 0)
  let t := tileOf r (WF.xfSrc x) (WF.xfDst x)
  let lbl ← M.run' (fun s => s.joinList c.w ((ds ++ xfObj w x).map (fun y => srcLbl s c y 0) ++ [c.sub.maskLabel] ++ c.kl))
  let oa := objAddr s c osp (.code w.b)
  let cont := c.pc + BitVec.ofInt 64 (4 * (BitVec.ofNat 10 (WF.xfD x)).toInt)
  let plan : Xf := ⟨t, field ((r[7]?).getD 0#32) 0 16, lbl, oa, cont⟩
  if c.on = 0#32 then pure plan
  else
    if t.srcTier = 3 ∨ t.dstTier = 3 then checkComm c
    trapIf c (t.srcTier == 3 && t.dstTier == 3) 9
    let fail := fun (e : AccessFault) (va : DWord) => (M.stop (accessTrap c e c.on (fun _ => va) (fun _ => lbl) 0) : M Unit)
    match tileMisaligned t with
    | some a => fail .align a
    | none => pure ()
    if w.b ≠ 20#6 ∧ oa.toNat % 32 ≠ 0 then fail .align oa
    let s ← M.st
    match tileUnbounded s (s.warp c.w).grid (s.warp c.w).block t r with
    | some a => fail .bounds a
    | none => pure ()
    if w.b ≠ 20#6 ∧ osp ∧ (spadLoc s (s.warp c.w).grid (s.warp c.w).block (lo32 oa) 32).isNone then fail .bounds oa
    checkPages c t lbl
    if kind = 2 then checkStart c cont false
    awaitAcq c (WF.xfAcq x) (WF.xfScope x)
    pure plan

/-- The number of an object's place, as images name it (R218). -/
def placeNumber (s : State) (c : Ctx) (spad : Bool) (addr : DWord) : Nat := ((objImage s c ⟨spad, addr, 0, 0⟩).map (fun im => im.addr)).getD 0

/-- The command of a transfer, of arrival count `n`. -/
def xfCmd (s : State) (c : Ctx) (kind n : Nat) (w : W0) (x : W1) (r : Xf) : Cmd :=
  { Cmd.blank s c (if kind = 0 then .copy r.tile none else if kind = 1 then .prefetch r.tile else .copy r.tile (some (c.sub.id, r.cont)))
      (xfQueue kind w) r.lbl with
    tag := r.tag, acq := WF.xfAcq x, rel := WF.xfRel x, scope := WF.xfScope x
    path := ((lanesOf c.act).map (fun i => pathIn s c.w c.on i)).dedup
    object := if w.b = 20#6 then none else some ⟨WF.xfOsp x, r.object, n, placeNumber s c (WF.xfOsp x) r.object⟩ }

/-- What a transfer instruction does (R217, R218, R273, R285, R288): its command is in flight; a prefetch notes its object's image, and any other commits the
region; XF.YIELD parks its sub-warp. With no lane on its entry is delivered at once. -/
def xfStart (c : Ctx) (kind n : Nat) (w : W0) (x : W1) (r : Xf) (s : State) : State :=
  if c.on = 0#32 then emptyEntry c (xfQueue kind w) r.tag kind r.lbl s
  else
    let cmd := xfCmd s c kind n w x r
    let s := if r.tile.srcTier = 3 ∨ r.tile.dstTier = 3 then claimComm c s else s
    let s := if kind = 1 then (match cmd.object with
      | some o => noteImage s c o
      | none => s) else commit s c.w
    let s := if cmd.acq ∧ r.tile.dstTier = 3 then s.mergeIngress c.die else s
    let s := addCmd s cmd
    if kind = 2 then dropLatchesOf (s.modWarp c.w (fun y => y.setSub { c.sub with pc := r.cont, hold := .yielded cmd.id })) c.w c.sub.id else s

/-- XF.COPY, XF.PREF or XF.YIELD (R288): kind 0, 1 or 2, arrival count `n`. -/
def xfBody (c : Ctx) (kind n : Nat) (w : W0) (x : W1) : M Done := do
  let r ← xfChecks c kind w x
  lastUse c ((descSrcs w.a).map (fun y => (w.luA, y)) ++ (xfObj w x).map (fun y => (w.luB, y)))
  M.upd (xfStart c kind n w x r)
  pure (if kind = 2 ∧ c.on ≠ 0#32 then .placed else .next)

/-- XF.COPY, 64-bit form (R288). -/
def execXfCopy64 (p : Pfx) (w : W0) (x : W1) (s : State) : Out :=
  issue p (WF.xf_copy_64 p w x) s (fun c => xfBody c 0 1 w x)
/-- XF.COPY, 96-bit form (R288): the literal is the arrival count. -/
def execXfCopy96 (p : Pfx) (w : W0) (x : W1) (lit : Word) (s : State) : Out :=
  issue p (WF.xf_copy_96 p w x lit) s (fun c => xfBody c 0 lit.toNat w x)
/-- XF.PREF (R272, R288). -/
def execXfPref (p : Pfx) (w : W0) (x : W1) (s : State) : Out := issue p (WF.xf_pref p w x) s (fun c => xfBody c 1 1 w x)
/-- XF.YIELD (R273, R288). -/
def execXfYield (p : Pfx) (w : W0) (x : W1) (s : State) : Out := issue p (WF.xf_yield p w x) s (fun c => xfBody c 2 1 w x)

/-! Performing a copy (R269). -/

/-- A command seen as the group that issued it: what the accesses of a place need. -/
def Cmd.ctx (c : Cmd) : Ctx :=
  { w := c.warp, sub := ⟨none, c.lanes, 0#8, c.pc, 0, .ready, false⟩, pc := c.pc, next := c.pc, quad := c.quad, core := coreOfQuad c.quad
    die := c.die, vd := c.vd, act := c.lanes, on := c.lanes, helpers := 0#32, kl := [], slot := 0, skip := true }

/-- The place of a word of an endpoint when it is performed: a peer endpoint is one of this package. -/
def endPlace (s : State) (c : Cmd) (tier : Nat) (base addr : DWord) (write : Bool) : Except Nat Place × State :=
  if tier = 0 then
    match spadLoc s c.grid c.block (lo32 base) 16 with
    | some (b, off) => (.ok (.spad b (off + (addr - base).toNat)), s)
    | none => (.error 12, s)
  else
    match s.translate (.die c.die) c.vd addr (if write then .write else .read) write true with
    | (.ok p, s) => (.ok (.mem p), s)
    | (.error e, s) => (.error e.cause, s)

/-- The words of a tile that share the destination granule of word `k`: a granule holds four, in order. -/
def Tile.mates (t : Tile) (k : Nat) : List Nat :=
  ((List.range 7).map (fun j => k + j - 3)).filter (fun j => decide (j < t.words) && decide (k ≤ j + 3) &&
    granule (t.dstAt j).toNat == granule (t.dstAt k).toNat) |>.dedup

/-- The source labels that feed the granule of word `k`, whether one of them is poisoned, and the first failure. -/
def feeds (s : State) (c : Cmd) (t : Tile) (ks : List Nat) : List Label × Bool × Option Nat × State :=
  ks.foldl (fun (r : List Label × Bool × Option Nat × State) j =>
    let (ls, bad, e, s) := r
    match endPlace s c t.srcTier t.src (t.srcAt j) false with
    | (.ok p, s) => (placeLabel s c.ctx p :: ls, bad || placePoison s c.ctx 16 p, e, s)
    | (.error x, s) => (ls, bad, some (e.getD x), s)) ([], false, none, s)

/-- A word of a command is performed: it is noted, and counted when written. -/
def wordDone (s : State) (id k : Nat) (written : Bool) : State :=
  { s with cmds := s.cmds.map (fun e => if e.1 = id then (e.1, { e.2 with
      started := true, doneWords := e.2.doneWords ++ [k], moved := if written then e.2.moved + 1 else e.2.moved }) else e) }

/-- Write 16 bytes for a command at a place, whose granule must dominate the label of what it writes (R269). -/
def cmdWrite (s : State) (c : Cmd) (src k : Nat) (va : DWord) (bs : List Byte) (lbl : Label) (p : Place) : State :=
  if !s.dominates c.vd (guardLabel s c.ctx p) lbl then wordDone (failCmd s c.id 6 va (guardLabel s c.ctx p)) c.id k false
  else
    let s := wordDone s c.id k true
    match p with
    | .spad b off => s.modBlock c.grid b (fun x => { x with spad := x.spad.write off bs })
    | .mem q =>
      let f := State.mkFlight c.warp src c.vd q.loc va (.store bs) lbl c.pc c.lanes 4 c.id
      s.issueFlight f (fun s => s.applyAt src q.loc.pa bs (s.clockOf src) src)

/-- The source that stamps a copy's writes: the die, or the ingress for a peer endpoint of this package. -/
def copySrc (c : Cmd) (t : Tile) : Nat := if t.dstTier = 3 then 10 else c.die

/-- Perform word `k` of a copy (R269). -/
def performWord (s : State) (id k : Nat) : State :=
  match s.cmds.get? id with
  | none => s
  | some c =>
    match c.op with
    | .copy t _ => go s c t
    | .prefetch t => go s c t
    | _ => s
where
  go (s : State) (c : Cmd) (t : Tile) : State :=
    if c.doneWords.contains k ∨ t.words ≤ k then s
    else
      match endPlace s c t.srcTier t.src (t.srcAt k) false with
      | (.error e, s) => wordDone (failCmd s id e (t.srcAt k) c.lbl) id k false
      | (.ok p, s) =>
        let (ls, bad, _, s) := feeds s c t (t.mates k)
        if bad then wordDone (failCmd s id 18 (t.dstAt k) c.lbl) id k false
        else
          match endPlace s c t.dstTier t.dst (t.dstAt k) true with
          | (.error e, s) => wordDone (failCmd s id e (t.dstAt k) c.lbl) id k false
          | (.ok q, s) =>
            let (l, s) := s.joinList c.warp (ls ++ c.lbl :: c.path)
            cmdWrite s c (copySrc c t) k (t.dstAt k) (placeRead s c.ctx 16 p) l q

/-- Whether an endpoint of a tile lies on another package. -/
def Tile.remote (s : State) (t : Tile) : Bool := (t.srcTier == 3 || t.dstTier == 3) && t.package != s.package.kwid

/-- The tile of a copy or a prefetch. -/
def CmdOp.tile? : CmdOp → Option Tile
  | .copy t _ => some t
  | .prefetch t => some t
  | _ => none

/-- Whether a copy or prefetch may run now: no held command is before it (R281), and an unstarted prefetch's warp is not saved
(R221, R272), and its VD is not syncing its translations (R370). -/
def mayRun (s : State) (c : Cmd) : Bool :=
  !behindHeld s c && !(s.vd c.vd).mapBusy && (match c.op with
    | .prefetch _ => c.started || (s.warp c.warp).life == .resident
    | _ => true)

/-- Perform words of a command. -/
def performWords (s : State) (id : Nat) (ks : List Nat) : State := ks.foldl (fun s k => performWord s id k) s

/-- Finish a copy whose words are all done and whose writes are performed: the sub-warp of XF.YIELD resumes (R274). -/
def finishCopy (s : State) (c : Cmd) (t : Tile) : Option State :=
  if c.doneWords.length < t.words ∨ !cmdSettled s c ∨ !arrivalReady s c then none
  else
    let s := finishCmd s c c.moved true
    match c.op with
    | .copy _ (some (i, cont)) =>
      match (s.warp c.warp).sub i with
      | some u =>
        if u.hold = .yielded c.id then some (arriveCheck (makeReady s c.warp { u with pc := cont }) c.warp i) else some s
      | none => some s
    | _ => some s

/-- Perform words of a command, then finish it if it can be: `go` gives the words. -/
def runCopy (s : State) (id : Nat) (words : Option (List Nat)) (pick : CmdOp → Bool) : Out :=
  match s.cmds.get? id with
  | none => .next { s with report := .disabled }
  | some c =>
    match c.op.tile? with
    | none => .next { s with report := .disabled }
    | some t =>
      if !pick c.op ∨ !mayRun s c then .next { s with report := .disabled }
      else
        let ks := match words with
          | some ks => ks
          | none => List.range t.words
        let s' := if Tile.remote s t then s else performWords s id ks
        let s' := { s' with cmds := s'.cmds.map (fun e => if e.1 = id then (e.1, { e.2 with started := true }) else e) }
        match words, s'.cmds.get? id with
        | none, some c' =>
          match finishCopy s' c' t with
          | some u => .next { u with report := .done }
          | none => if s' = s then .next { s with report := .disabled } else .next { s' with report := .done }
        | _, _ => if s' = s then .next { s with report := .disabled } else .next { s' with report := .done }

/-- COPY_COMPLETE (R270): the words named are performed; with none named, all that are left, and the copy completes once its writes
are performed. A BOBJ.INIT is performed and completes the same way (R290). -/
def execCopyComplete (cmd : Nat) (words : Option (List Nat)) (s : State) : Out :=
  match s.cmds.get? cmd with
  | some c =>
    match c.op with
    | .init e => performInit s c e
    | _ => runCopy s cmd words (fun o => match o with
      | .copy _ none => true
      | _ => false)
  | none => .next { s with report := .disabled }

/-- PREFETCH_ARRIVAL (R272): the data are in place, and the request arrives on its object. -/
def execPrefetchArrival (cmd : Nat) (s : State) : Out :=
  runCopy s cmd none (fun o => match o with
    | .prefetch _ => true
    | _ => false)

/-- XF_YIELD_RESUME (R274): the copy completes and its sub-warp resumes. -/
def execXfYieldResume (cmd : Nat) (s : State) : Out :=
  runCopy s cmd none (fun o => match o with
    | .copy _ (some _) => true
    | _ => false)

/-- Words of a command fail for one cause, each at its own address. -/
def failWords (s : State) (cmd cause : Nat) (addr : Nat → DWord) (lbl : Label) (ks : List Nat) : State :=
  ks.foldl (fun s k => wordDone (failCmd s cmd cause (addr k) lbl) cmd k false) s

/-- Words that a peer has answered are written into their destination granule, which must dominate all that feeds it: `h` is the label of
what the peer sent (R29, R269). -/
def putPeerWords (s : State) (c : Cmd) (t : Tile) (bytes : List Byte) (h : Label) (ks : List Nat) : State :=
  let (l, s) := s.joinList c.warp (h :: c.lbl :: c.path)
  (ks.zipIdx).foldl (fun s p =>
    match endPlace s c t.dstTier t.dst (t.dstAt p.1) true with
    | (.error e, s) => wordDone (failCmd s c.id e (t.dstAt p.1) c.lbl) c.id p.1 false
    | (.ok q, s) => cmdWrite s c c.die p.1 (t.dstAt p.1) (slice bytes (16 * p.2) 16) l q) s

/-- The words of a copy to another package that the peer has answered: those that a poisoned source word feeds are not sent, and a granule
that the peer refuses is not written at all (R269, R386). -/
def sendPeerWords (s : State) (c : Cmd) (t : Tile) (peer : PeerReply) (ks : List Nat) : State :=
  let (_, bad, e, s) := feeds s c t ks
  match e, peer.fail with
  | some x, _ => failWords s c.id x t.srcAt c.lbl ks
  | none, some x =>
    if bad then failWords s c.id 18 t.dstAt c.lbl ks
    else
      let (h, s) := internPacket s c.vd peer.owners
      failWords s c.id x.toNat t.dstAt h ks
  | none, none =>
    if bad then failWords s c.id 18 t.dstAt c.lbl ks
    else ks.foldl (fun s k => wordDone s c.id k true) s

/-- PEER_COPY_ACCESS (R268, R269): the words of a copy with an endpoint on another package that lie in the destination granule of word `word`;
what the peer answers comes with the event, for a source on the peer the words' bytes in order and the join of the owner masks that feed
the granule. -/
def execPeerCopyAccess (cmd word : Nat) (peer : PeerReply) (s : State) : Out :=
  match s.cmds.get? cmd with
  | none => .next { s with report := .disabled }
  | some c =>
    match c.op.tile? with
    | none => .next { s with report := .disabled }
    | some t =>
      let ks := (t.mates word).filter (fun k => !c.doneWords.contains k)
      if !Tile.remote s t ∨ t.words ≤ word ∨ c.doneWords.contains word ∨ !mayRun s c then .next { s with report := .disabled }
      else if t.srcTier = 3 then
        match peer.fail with
        | some e => .next { failWords s cmd e.toNat t.srcAt c.lbl ks with report := .done }
        | none =>
          let (h, s) := internPacket s c.vd peer.owners
          .next { putPeerWords s c t ((peer.value.map (fun v => toBytes v 4)).flatten) h ks with report := .done }
      else .next { sendPeerWords s c t peer ks with report := .done }

/-! XF.WAIT and XF.CANCEL (R289). -/

/-- Whether a producer still holds an entry of a transfer command of the warp, for want of room in its queue (R17, R289). -/
def entriesHeld (s : State) (w : Nat) : Bool :=
  (s.warp w).queues.any (fun u => u.kind == some 1 && u.back.any (fun e => e.warp == w))

/-- XF.WAIT (R289): waits until every transfer command of the warp has completed, its entry delivered. -/
def execXfWait (p : Pfx) (w : W0) (s : State) : Out :=
  issue p (WF.xf_wait p w) s (fun c => do
    let s ← M.st
    M.await (!s.cmds.any (fun e => e.2.warp == c.w && e.2.op.isTransfer) && !entriesHeld s c.w)
    M.upd (fun s => commit s c.w)
    pure .next)

/-- Whether XF.CANCEL may take a command: XF.COPY, XF.PREF and CL.* commands that have not started (R289). -/
def Cmd.cancellable (c : Cmd) : Bool :=
  !c.started && (match c.op with
    | .copy _ none => true
    | .prefetch _ => true
    | .cl _ _ _ _ _ _ _ _ => true
    | _ => false)

/-- The unstarted commands of a warp with a tag are abandoned; their entries say CANCELLED (R289). -/
def cancelTagged (w : Nat) (tag : BitVec 16) (s : State) : State :=
  (s.cmds.filter (fun e => e.2.warp == w && e.2.tag == tag && e.2.cancellable)).foldl (fun s e =>
    cmdEntry (endCmd s e.2) e.2 1 (xfRecord e.2.tag 3 e.2.op.kind 0) e.2.lbl) s

/-- XF.CANCEL (R289): each unstarted command with the tag is abandoned. -/
def execXfCancel (p : Pfx) (w : W0) (s : State) : Out :=
  issue p (WF.xf_cancel p w) s (fun c => do
    let a := Src.code w.a
    checkSrcs c [a] c.on
    let s ← M.st
    lastUse c [(w.luA, a)]
    M.upd (fun s => commit s c.w)
    M.upd (cancelTagged c.w (field (srcVal s c a 0) 0 16))
    pure .next)

end Sys2Proof.Machine
end

