-- ==== Sys2Proof/Machine/Collective.lean ====
section
/-! DEFINITION. Collective commands, reduction-window write-back and CL.FLUSH (R276 to R279, R281, R292 to R297). -/

namespace Sys2Proof.Machine

open Sys2Proof

/-! Issue (R292 to R294). -/

/-- Bytes of a lane's access: a size of R191 for CL.PUT (4) and CL.GET (5), the bytes of the type of R197 for CL.RED (6) and CL.ATOM
(7), a pair for CL.DRAW (8), an object for CL.SIG (9). -/
def clBytes (code ty : Nat) : Nat :=
  if code ≤ 5 then sizeBytes ty else if code ≤ 7 then atomBytes ty else if code = 8 then 8 else 32

/-- The registers of a lane's value. -/
def clValSrcs (code ty : Nat) (w : W0) : List Src :=
  let b := Src.code w.b
  if code = 5 then []
  else if code = 9 then (if w.b = 20#6 then [] else [b])
  else (List.range (clBytes code ty / 4)).map (fun j => b.up j)

/-- The compare value of CL.ATOM with cas, read from d (R293). -/
def clCmpSrcs (code op ty : Nat) (w : W0) : List Src :=
  if code = 7 ∧ op = 7 then (List.range (atomBytes ty / 4)).map (fun j => (Src.code w.d).up j) else []

/-- The aux registers: the quad s(4x) to s(4x+3), as far as the command reads it (R292). -/
def clAux (code : Nat) (timed : Bool) (w : W0) : List Src :=
  let q (k : Nat) : Src := .code (BitVec.ofNat 6 (24 + 4 * WF.clX w + k))
  if code = 8 then [q 0, q 1, q 2, q 3] else if timed then [q 0, q 1, q 2] else []

/-- The queue register that a CL.* command names (R292). -/
def clQueue (x : W1) : Option Nat := if WF.clTok x then some (WF.clQ x) else none
/-- Every register that a CL.* command reads: package, address, value, compare value, aux. -/
def clSrcs (code : Nat) (w : W0) (x : W1) : List Src :=
  .code x.c :: addrSrcs false (.code w.a) ++ clValSrcs code (WF.clTy x) w ++ clCmpSrcs code (WF.clOp x) (WF.clTy x) w ++ clAux code (WF.clAt x) w
/-- The destination of CL.GET and CL.ATOM, and its registers. -/
def clDst (code : Nat) (w : W0) : Dst := if code = 5 ∨ code = 7 then Dst.ofCode w.d else Dst.none
def clRegs (code : Nat) (x : W1) : Nat := if code = 5 ∨ code = 7 then clBytes code (WF.clTy x) / 4 else 0

/-- The checks of a CL.* command (R275, R292 to R294): the label of its operands, and that of each lane. -/
def clChecks (c : Ctx) (code : Nat) (w : W0) (x : W1) : M (Label × SMap Label) := do
  let a := Src.code w.a
  let pk := Src.code x.c
  let ty := WF.clTy x
  checkQueue c 1 (clQueue x)
  if c.on ≠ 0#32 then checkComm c
  checkSrcs c (clSrcs code w x) c.on
  let s ← M.st
  let addr := fun i => pairVal s c a i
  let al ← addrLabel c false a
  let odd := maskOf (fun i => hasLane c.on i && (addr i).toNat % clBytes code ty != 0)
  if odd ≠ 0#32 then M.stop (accessTrap c .align odd addr (fun i => al.get 0#8 i) 0)
  let far := maskOf (fun i => hasLane c.on i && decide (4095 < (srcVal s c pk i).toNat))
  if far ≠ 0#32 then M.stop (accessTrap c .bounds far addr (fun i => al.get 0#8 i) 0)
  let lbl ← M.run' (fun s => s.joinList c.w ((((lanesOf c.on).map (fun i =>
    (clSrcs code w x).map (fun y => srcLbl s c y i))).flatten).dedup ++ [c.sub.maskLabel] ++ c.kl))
  if c.on = 0#32 then pure (lbl, [])
  else
    awaitAcq c (WF.clAcq x) 5
    let ls ← M.run' (fun s => s.joinLanes c.w c.on (fun i =>
      (pk :: addrSrcs false a ++ clValSrcs code ty w ++ clCmpSrcs code (WF.clOp x) ty w ++ (if code = 8 then clAux code (WF.clAt x) w else [])).map
        (fun y => srcLbl s c y i) ++ [pathIn s c.w c.on i] ++ c.kl))
    pure (lbl, ls)

/-- The lanes that a CL.* command sends, each with the owner mask of its label (R29, R294). -/
def clLanesOf (s : State) (c : Ctx) (code : Nat) (w : W0) (x : W1) (ls : SMap Label) : List ClLane :=
  (lanesOf c.on).map (fun i => (
    { lane := i, package := (srcVal s c (.code x.c) i).toNat, va := pairVal s c (.code w.a) i
      value := if code = 9 ∧ w.b = 20#6 then [1#32] else (clValSrcs code (WF.clTy x) w).map (fun y => srcVal s c y i)
      cmp := wideVal s c (clCmpSrcs code (WF.clOp x) (WF.clTy x) w) i, lbl := ls.get 0#8 i
      owners := s.ownersOf c.vd (ls.get 0#8 i), decided := false } : ClLane))

/-- The operation of a CL.* command, with its key and base or its slot from the aux registers (R281, R292). -/
def clOpOf (s : State) (c : Ctx) (code : Nat) (w : W0) (x : W1) (ls : SMap Label) : CmdOp :=
  let g (k : Nat) : Word := (((clAux code (WF.clAt x) w)[k]?).map (fun y => srcVal s c y 0)).getD 0#32
  .cl code (WF.clOp x) (WF.clTy x) w.d.toNat (clLanesOf s c code w x ls) (if WF.clAt x then some (pair (g 1) (g 0), g 2) else none)
    (if code = 8 then pair (g 1) (g 0) else 0#64) (if code = 8 then pair (g 3) (g 2) else 0#64)

/-- What a CL.* command does at issue with the operation `op` and the label of its operands (R217, R294, R388): the region commits and the command is in flight. With no lane on its entry is delivered at
once (R285). With .acq, what enters by Kwaisk follows what the die has seen (R56, R62); a timed command notes when it came to the head of its
warp's stream (R281). -/
def clStart (c : Ctx) (code : Nat) (x : W1) (op : CmdOp) (lbl : Label) (s : State) : State :=
  if c.on = 0#32 then emptyEntry c (clQueue x) 0#16 code lbl s
  else
    let s := commit (claimComm c s) c.w
    let s := if WF.clAcq x then s.mergeIngress c.die else s
    let reached := if WF.clAt x ∧ !waitsBehind s c.w s.cmdSerial then some s.package.time else none
    let (verdict, s) := if code = 6 ∨ code = 8 then clSample s c.vd c.die else (none, s)
    addCmd s { Cmd.blank s c op (clQueue x) lbl with acq := WF.clAcq x, rel := WF.clRel x, scope := 5, reached := reached, verdict := verdict }

/-- A CL.* command (R294): checked at issue, its lanes sent from then on. -/
def clBody (c : Ctx) (code : Nat) (w : W0) (x : W1) : M Done := do
  let r ← clChecks c code w x
  let s ← M.st
  lastUse c ((addrSrcs false (.code w.a)).map (fun y => (w.luA, y)) ++ (clValSrcs code (WF.clTy x) w).map (fun y => (w.luB, y)))
  M.upd (fun s => if c.on = 0#32 ∨ clRegs code x = 0 then s else joinOff c (clDst code w) (clRegs code x) (noteWrite s c (clDst code w) (clRegs code x)))
  M.upd (clStart c code x (clOpOf s c code w x r.2) r.1)
  pure .next

/-- CL.PUT (R294). -/
def execClPut (p : Pfx) (w : W0) (x : W1) (s : State) : Out := issue p (WF.cl_put p w x) s (fun c => clBody c 4 w x)
/-- CL.GET (R294). -/
def execClGet (p : Pfx) (w : W0) (x : W1) (s : State) : Out := issue p (WF.cl_get p w x) s (fun c => clBody c 5 w x)
/-- CL.RED (R294). -/
def execClRed (p : Pfx) (w : W0) (x : W1) (s : State) : Out := issue p (WF.cl_red p w x) s (fun c => clBody c 6 w x)
/-- CL.ATOM (R294). -/
def execClAtom (p : Pfx) (w : W0) (x : W1) (s : State) : Out := issue p (WF.cl_atom p w x) s (fun c => clBody c 7 w x)
/-- CL.DRAW (R294). -/
def execClDraw (p : Pfx) (w : W0) (x : W1) (s : State) : Out := issue p (WF.cl_draw p w x) s (fun c => clBody c 8 w x)
/-- CL.SIG (R294). -/
def execClSig (p : Pfx) (w : W0) (x : W1) (s : State) : Out := issue p (WF.cl_sig p w x) s (fun c => clBody c 9 w x)

/-! Slots (R281). -/

/-- What R281 decides for a command that came to the head of its warp's stream at time `head`, given the largest estimate of the packages
that take part: none while it is held, else the status. -/
def slotDecision (estimate head now start width : Nat) : Option Nat :=
  if width < estimate then some 2
  else if head < start then (if now < start then none else some 0)
  else if head ≤ start + width then some 0 else some 1

/-- The held commands that stand at the head of their warps' streams note the time at which they came there (R281). -/
def stampHeads (s : State) : State :=
  { s with cmds := s.cmds.map (fun e =>
      if e.2.held && !behindHeld s e.2 && e.2.reached.isNone then (e.1, { e.2 with reached := some s.package.time }) else e) }

/-- SLOT_START (R281): a held command is sent; `estimate` is the largest of the estimates of the destination packages (theirs and this
package's own are the fabric's: DESIGN CHOICE, log entry 86). -/
def execSlotStart (cmd estimate : Nat) (s : State) : Out :=
  match s.cmds.get? cmd with
  | none => .next { s with report := .disabled }
  | some c =>
    match c.op with
    | .cl _ _ _ _ _ (some (start, width)) _ _ =>
      if c.started ∨ behindHeld s c then .next { s with report := .disabled }
      else
        match slotDecision (max estimate s.package.skew) (c.reached.getD s.package.time).toNat s.package.time.toNat start.toNat width.toNat with
        | none => .next { s with report := .disabled }
        | some st => .next { putCmd s { c with started := true, status := st } with report := .done }
    | _ => .next { s with report := .disabled }

/-! Lanes at their destination (R277, R294). -/

/-- The lanes of a CL command. -/
def CmdOp.clLanes : CmdOp → List ClLane
  | .cl _ _ _ _ ls _ _ _ => ls
  | _ => []

/-- Replace the lanes of a CL command. -/
def CmdOp.setLanes (ls : List ClLane) : CmdOp → CmdOp
  | .cl c o t d _ sl k b => .cl c o t d ls sl k b
  | x => x

/-- A lane has its turn: every earlier lane, of this command or an earlier one of the warp, that names an overlapping location of the
same package is decided (R282 item 3, R294). -/
def clTurn (s : State) (c : Cmd) (l : ClLane) : Bool :=
  let near (m : ClLane) : Bool := m.package == l.package && decide (m.va.toNat / 64 = l.va.toNat / 64) && !m.decided
  !(c.op.clLanes.any (fun m => decide (m.lane < l.lane) && near m)) &&
  !s.cmds.any (fun e => e.2.warp == c.warp && decide (e.1 < c.id) && e.2.op.clLanes.any near)

/-- Whether the lanes of a CL command may be sent: its slot has come, none is held before it (R281), no verdict holds it (R392), and
its VD is not syncing its translations (R370). -/
def clSent (s : State) (c : Cmd) : Bool := !c.held && !behindHeld s c && c.verdict != some 1 && !(s.vd c.vd).mapBusy

/-- The packets of a command's lanes, in ascending order (R276): `last` holds each package's open packet, where it starts and where it
ends, and lanes take `n` bytes each. -/
def packets (n : Nat) (last : SMap (Nat × Nat)) : List ClLane → Nat
  | [] => 0
  | l :: ls =>
    let a := l.va.toNat
    match last.get? l.package with
    | some (lo, hi) =>
      if a = hi ∧ (a + n - 1) / 256 = lo / 256 then packets n (last.put l.package (lo, a + n)) ls
      else packets n (last.put l.package (a, a + n)) ls + 1
    | none => packets n (last.put l.package (a, a + n)) ls + 1

/-- The packets that a collective sends, counted with its first lane (R276, R398). -/
def countPackets (s : State) (c : Cmd) : State :=
  match c.op with
  | .cl code _ ty _ ls _ _ _ =>
    if ls.any (fun l => l.decided) then s else (List.range (packets (clBytes code ty) [] ls)).foldl (fun s _ => countDie s c.die 23 c.vd) s
  | _ => s

/-- A lane is decided: applied or failed. A failure is delivered for that lane (R277). -/
def clDecide (s : State) (c : Cmd) (l : ClLane) (fail : Option (Nat × Label)) : State :=
  let ls := c.op.clLanes.map (fun m => if m.lane = l.lane then { m with decided := true } else m)
  let c' := { c with op := c.op.setLanes ls, started := true }
  let s := countPackets s c
  match fail with
  | none => putCmd s { c' with moved := c.moved + 1 }
  | some (e, h) =>
    let s := putCmd s { c' with failed := some (e, l.va, h) }
    deliver s c.warp e c.pc (laneBit l.lane) l.va l.lbl

/-- A reply lands in d (R294): a warp that has died takes none. -/
def clLand (s : State) (c : Cmd) (dest : Nat) (l : ClLane) (vs : List Word) (granule : Label) (bad : Bool) : State :=
  match (s.warp c.warp).life with
  | .dead => s
  | .dying _ _ => s
  | _ =>
    let (h, s) := s.join c.warp granule l.lbl
    s.modWarp c.warp (fun x => (vs.zipIdx).foldl (fun (x : Warp) (p : Word × Nat) =>
      writeRegLane x none (dest + p.2) l.lane ⟨p.1, h, bad, false⟩) x)

/-- A CL.PUT at this package (R36, R51): it enters by the ingress, and its home checks its label and applies it like any write in flight (that it raises no floating granule: DEDUCED, log entry 21). -/
def clPut (s : State) (c : Cmd) (l : ClLane) (n : Nat) : State :=
  match s.translate (.die c.die) c.vd l.va .write true true with
  | (.error e, s) => clDecide s c l (some (e.cause, 0#8))
  | (.ok p, s) =>
    if p.loc.host ∧ !s.dominates c.vd p.label l.lbl then clDecide s c l (some (6, p.label))
    else
      let bs := slice ((l.value.map (fun v => toBytes v 4)).flatten) 0 n
      let s := s.issueFlight (State.mkFlight c.warp 10 c.vd p.loc l.va (.store bs) l.lbl c.pc (laneBit l.lane) 5 c.id) id
      clDecide s c l none

/-- What a lane reads at a home reaches the lane only once its die's copies have applied all that the value follows (R52). -/
def clSeen (s : State) (c : Cmd) (h : Nat) : Bool :=
  let clk := clockMax (s.clockOf h) (s.clockOf 10)
  s.caughtUp h clk && s.caughtUp c.die clk

/-- The clock of a lane's die follows what the lane has read at a home (R51, R53). -/
def mergeHome (s : State) (d h : Nat) : State := s.setClock d (clockMax (s.clockOf d) (s.clockOf h))

/-- The value of a lane: one register or a pair. -/
def ClLane.wide (l : ClLane) : DWord :=
  match l.value with
  | [x] => zext x 64
  | x :: y :: _ => pair y x
  | [] => 0#64

/-- An atomic of a collective is performed at its target (R42, R279, R294); the request enters by the ingress, whose clock has ticked
(R51). -/
def clPerform (s : State) (c : Cmd) (l : ClLane) (code op ty dest : Nat) (key base : DWord) (tgt : Target) : State :=
  let a : AtomLane :=
    { lane := l.lane, tgt := tgt, va := l.va, b := l.wide, cmp := l.cmp, ctr := base + BitVec.ofNat 64 l.lane, lbls := [l.lbl]
      clk := s.clockOf 10 }
  match performAtoms ⟨c.warp, c.vd, 5, c.id⟩ op ty key [a] s with
  | (.error (_, _, .label _ dom), s) => clDecide s c l (some (6, dom))
  | (.error (_, _, .poison), s) => clDecide s c l (some (18, 0#8))
  | (.ok (old, after), s) =>
    let v := (SMap.get? old l.lane).getD 0#64
    let s := if code = 7 then clLand s c dest l (if atomBytes ty = 8 then [lo32 v, hi32 v] else [lo32 v]) (after.get 0#8 l.lane) false else s
    clDecide s c l none

/-- CL.RED, CL.ATOM and CL.DRAW at a home of this package, or in a switch (R279, R294): a window's page is translated where this package
homes it, and the peer that homes it may refuse the lane otherwise (R277). None while causal order, a clear or a line on its way home holds
it back. -/
def clAtomic (s : State) (c : Cmd) (l : ClLane) (code op ty dest : Nat) (key base : DWord) (peer : PeerReply) : Option State :=
  let ty := if code = 8 then 5 else ty
  let op := if code = 8 then 9 else op
  match s.window c.vd l.va with
  | some x =>
    if winBusy s c.vd l.va.toNat then none
    else if (field x 80 12).toNat ≠ s.package.kwid then
      match peer.fail with
      | some e => some (clDecide s c l (some (e.toNat, 0#8)))
      | none => some (clPerform s c l code op ty dest key base (.win l.va.toNat))
    else
      match s.translate (.die c.die) c.vd l.va .atomic true false with
      | (.error e, s) => some (clDecide s c l (some (e.cause, 0#8)))
      | (.ok _, s) => some (clPerform s c l code op ty dest key base (.win l.va.toNat))
  | none =>
    match s.translate (.die c.die) c.vd l.va .atomic true true with
    | (.error e, s) => some (clDecide s c l (some (e.cause, 0#8)))
    | (.ok p, s) =>
      let h := homeDie p.loc.pa
      if s.blocked p.loc ∨ (s.die h).fenced ∨ !clSeen s c h then none
      else
        let t := clPerform (s.tick 10 1) c l code op ty dest key base (.mem p.loc)
        some (if code = 7 then mergeHome t c.die h else t)

/-- CL.GET at this package (R294). -/
def clGet (s : State) (c : Cmd) (l : ClLane) (n dest : Nat) : Option State :=
  match s.translate (.die c.die) c.vd l.va .read false true with
  | (.error e, s) => some (clDecide s c l (some (e.cause, 0#8)))
  | (.ok p, s) =>
    let h := homeDie p.loc.pa
    if !p.loc.host ∧ !clSeen s c h then none
    else
      let bs := s.readLoc h p.loc n
      let vs := (List.range (n / 4)).map (fun k => ofBytes 32 (slice bs (4 * k) 4))
      let t := clLand s c dest l vs (s.pageLabel h p) (!p.loc.host && s.poisoned.get false (granule p.loc.pa))
      some (clDecide (if p.loc.host then t else mergeHome t c.die h) c l none)

/-- CL.SIG at this package (R271, R294): an arrival, for which a floating granule is raised by R42. -/
def clSig (s : State) (c : Cmd) (l : ClLane) : Option State :=
  let d := { c.doer with src := 10, lanes := laneBit l.lane, path := 5 }
  if !objReady s d false l.va then none
  else
    match objArrive s d true false l.va ((l.value.head?).getD 0#32).toNat l.lbl with
    | (.ok _, s) => some (clDecide s c l none)
    | (.error (e, h), s) => some (clDecide s c l (some (e, h)))

/-- A lane of a CL command performed at this package, which takes the path through its own ingress: its owner mask is mapped to a handle
again (R29, R294). -/
def clHere (s : State) (c : Cmd) (l : ClLane) (code op ty dest : Nat) (key base : DWord) (peer : PeerReply) : Option State :=
  let (h, s) := internPacket s c.vd l.owners
  let l := { l with lbl := h }
  if code = 4 then some (clPut s c l (clBytes 4 ty))
  else if code = 5 then clGet s c l (clBytes 5 ty) dest
  else if code = 9 then clSig s c l
  else clAtomic s c l code op ty dest key base peer

/-- Whether a lane is performed by this package: it names it, or its address lies in a reduction window and the command is one that
the switches perform (R279). -/
def clLocal (s : State) (c : Cmd) (l : ClLane) (code : Nat) : Bool :=
  l.package == s.package.kwid || (6 ≤ code && code ≤ 8 && (s.window c.vd l.va).isSome)

/-- A lane performed at another package: what it answers comes with the event (R29, R277). -/
def clThere (s : State) (c : Cmd) (l : ClLane) (code dest : Nat) (peer : PeerReply) : State :=
  let (h, s) := internPacket s c.vd peer.owners
  match peer.fail with
  | some e => clDecide s c l (some (e.toNat, h))
  | none => clDecide (if code = 5 ∨ code = 7 then clLand s c dest l peer.value h false else s) c l none

/-- CL_PEER_APPLY (R294): a lane is performed at its package or in a switch. -/
def execClPeerApply (cmd lane : Nat) (peer : PeerReply) (s : State) : Out :=
  match s.cmds.get? cmd with
  | none => .next { s with report := .disabled }
  | some c =>
    match c.op with
    | .cl code op ty dest ls _ key base =>
      match ls.find? (fun l => l.lane == lane && !l.decided) with
      | none => .next { s with report := .disabled }
      | some l =>
        if !clSent s c ∨ !clTurn s c l then .next { s with report := .disabled }
        else if clLocal s c l code then
          match clHere s c l code op ty dest key base peer with
          | some s => .next { s with report := .done }
          | none => .next { s with report := .disabled }
        else .next { clThere s c l code dest peer with report := .done }
    | _ => .next { s with report := .disabled }

/-- CL_COMPLETE (R294): the lanes are decided, the entry is delivered. A CL.FLUSH completes once its lines are at home (R295). -/
def execClComplete (cmd : Nat) (s : State) : Out :=
  match s.cmds.get? cmd with
  | none => .next { s with report := .disabled }
  | some c =>
    let ready := match c.op with
      | .cl _ _ _ _ ls _ _ _ => ls.all (fun l => l.decided) && cmdSettled s c && c.verdict.isNone
      | .flush _ left => c.started && !s.writeBacks.any (fun l => left.contains l.id)
      | _ => false
    if !ready ∨ behindHeld s c then .next { s with report := .disabled }
    else
      let count := match c.op with
        | .flush n _ => n
        | _ => c.moved
      .next { finishCmd s c count false with report := .done }

/-! Reduction-window lines go home (R60, R279, R295). -/

/-- Send home the lines of a list, each under a number of its own. -/
def sendHome (s : State) (ls : List WinLine) : State :=
  let s := { s with switchLines := s.switchLines.filter (fun l => !ls.contains l) }
  ls.foldl (fun s l => { s with writeBacks := s.writeBacks ++ [{ l with id := s.cmdSerial }], cmdSerial := s.cmdSerial + 1 }) s

/-- SWITCH_WRITE_BACK (R279): a switch evicts a line. -/
def execSwitchWriteBack (vd line : Nat) (s : State) : Out :=
  match winLine? s vd line with
  | none => .next { s with report := .disabled }
  | some l => .next { sendHome s [l] with report := .done }

/-- The bytes of a window register's window. -/
def windowHolds (x : BitVec 128) (va : Nat) : Bool :=
  let lo := (field x 16 48).toNat * 65536
  decide (lo ≤ va) && decide (va < lo + (field x 64 16).toNat * 65536)

/-- A window that is being disabled takes what was written to its register once its lines are at home; until then enable reads 1 (R278). -/
def settleWindows (s : State) (v : Nat) : State :=
  let busy (k : Nat) : Bool := (s.writeBacks ++ s.switchLines).any (fun l =>
    l.vd == v && windowHolds (((s.vd v).windows[k]?).getD 0#128) l.va)
  s.modVd v (fun d => { d with
    windows := (d.closing.filter (fun e => !busy e.1)).foldl (fun ws e => setAt ws e.1 e.2) d.windows
    closing := d.closing.filter (fun e => busy e.1) })

/-- The label that a home's granule takes with a write-back: on a floating page it joins what the line carries (R41, R279). -/
def writeBackLabel (s : State) (l : WinLine) (floating : Bool) (h : Nat) (p : Loc) : Option Label × State :=
  if floating then
    let (new, s) := internPacket s l.vd (s.ownersOf l.vd (s.labelLoc h p) ||| l.owners)
    (some new, s)
  else (none, s)

/-- The home applies a line as one write stamped at performance, which has entered by Kwaisk (R51, R60, R279). -/
def applyLine (s : State) (l : WinLine) (f : Leaf) : State :=
  let va := BitVec.ofNat 64 l.va
  let p := f.loc va
  let (new, s) := writeBackLabel (s.tick 10 1) l (leafBit f.bits 8) (homeDie p.pa) p
  let s := s.performAtHome 0 l.vd 5 0 p va l.bytes new (s.clockOf 10)
  { s with poisoned := s.poisoned.set false (granule p.pa) false }

/-- A line whose page the VD no longer maps with write permission is dropped and counted (R279, R365). -/
def dropLine (s : State) (v : Nat) : State := s.modVd v (fun d => { d with winDrops := min (d.winDrops + 1) 255 })

/-- Whether the home can apply a line now (R52, R374). -/
def lineReady (s : State) (p : Loc) : Bool :=
  let h := homeDie p.pa
  !s.blocked p && !(s.die h).fenced && s.caughtUp h (clockMax (s.clockOf h) (s.clockOf 10))

/-- A line reaches its home (R60, R279): applied, or dropped; none while it has to wait. -/
def homeLine (s : State) (l : WinLine) : Option State :=
  let va := BitVec.ofNat 64 l.va
  if (s.vd l.vd).gen ≠ l.gen ∨ (s.vd l.vd).state = 0 then some s
  else
    match s.walk l.vd va with
    | .leaf f =>
      if leafBad s f ∨ !leafBit f.bits 5 ∨ (f.loc va).host then some (dropLine s l.vd)
      else if !lineReady s (f.loc va) then none
      else some (applyLine s l f)
    | _ => some (dropLine s l.vd)

/-- WRITE_BACK_AT_HOME (R60, R279): the home applies the line, or drops it; a home on another package takes it there. -/
def execWriteBackAtHome (k : Nat) (s : State) : Out :=
  match s.writeBacks[k]? with
  | none => .next { s with report := .disabled }
  | some l =>
    let gone := fun (s : State) => settleWindows { s with writeBacks := s.writeBacks.eraseIdx k, report := .done } l.vd
    if l.home ≠ s.package.kwid then .next (gone s)
    else
      match homeLine s l with
      | some t => .next (gone t)
      | none => .next { s with report := .disabled }

/-- The checks of CL.FLUSH (R275, R281, R295): range and label; it waits behind a held command of its warp. -/
def flushChecks (c : Ctx) (w : W0) : M (DWord × Word × Label) := do
  let a := Src.code w.a
  let b := Src.code w.b
  checkQueue c 1 (tokOf w)
  checkComm c
  checkSrcs c [a, a.up 1, b] c.on
  let s ← M.st
  let base := pairVal s c a 0
  let len := srcVal s c b 0
  let lbl ← M.run' (fun s => s.joinList c.w [srcLbl s c a 0, srcLbl s c (a.up 1) 0, srcLbl s c b 0, c.sub.maskLabel])
  if base.toNat % 64 ≠ 0 ∨ len.toNat % 64 ≠ 0 then M.stop (accessTrap c .align c.on (fun _ => base) (fun _ => lbl) 0)
  M.await (!s.cmds.any (fun e => e.2.warp == c.w && e.2.held))
  pure (base, len, lbl)

/-- The lines of the range go home, and the command is in flight until they, and those of the range that were on their way already, are
there (R282 item 4, R295). -/
def flushStart (c : Ctx) (w : W0) (r : DWord × Word × Label) (s : State) : State :=
  let s := commit (claimComm c s) c.w
  let mine (l : WinLine) : Bool := l.vd == c.vd && decide (r.1.toNat ≤ l.va) && decide (l.va < r.1.toNat + r.2.1.toNat)
  let ls := s.switchLines.filter mine
  let t := sendHome s ls
  addCmd t { Cmd.blank t c (.flush ls.length ((t.writeBacks.filter mine).map (fun l => l.id))) (tokOf w) r.2.2 with started := true }

/-- CL.FLUSH (R295). -/
def execClFlush (p : Pfx) (w : W0) (s : State) : Out :=
  issue p (WF.cl_flush p w) s (fun c => do
    let r ← flushChecks c w
    lastUse c [(w.luA, .code w.a), (w.luA, (Src.code w.a).up 1), (w.luB, .code w.b)]
    M.upd (flushStart c w r)
    pure .next)

end Sys2Proof.Machine
end

