-- ==== Sys2Proof/Machine/Convert.lean ====
section
/-! DEFINITION. Conversions and scales (R157 to R162), dot products (R163), moves (R164), NOP and the hints (R106, R107), and the groups
that are no instruction (R94, R99, R104, R105). -/

namespace Sys2Proof.Machine

open Sys2Proof

/-- CVT (R159). -/
def cvtFn (c : Ctx) (p : Pfx) (src dst : Nat) (s : State) (i : Nat) (v : List Word) : Word × BitVec 8 :=
  let r := convert (fmtOf src) (fmtOf dst) (laneRM s c p i 0) (at' v 0).toNat
  (BitVec.ofNat 32 r.1, r.2)

/-- Replace the `n` bits of a word from bit `lo` up. -/
def putBits (x lo n v : Nat) : Nat := x - bitsN x lo n * 2 ^ lo + v % 2 ^ n * 2 ^ lo

/-- What CVTP keeps of the old destination: of a 6-bit format the elements, with bits [7:6] of each container zero (R111, R160). -/
def cvtpOld (code old : Nat) : Nat := if code = 4 ∨ code = 5 then Nat.land old 0x3F3F3F3F else old

/-- CVTP (R160): a and b into elements 2j and 2j + 1 of the old destination. -/
def cvtpFn (c : Ctx) (p : Pfx) (code j : Nat) (s : State) (i : Nat) (v : List Word) : Word × BitVec 8 :=
  let n := narrowWidth code
  let lo := convert (.float .f32) (narrowOf code) (laneRM s c p i (2 * j)) (at' v 0).toNat
  let hi := convert (.float .f32) (narrowOf code) (laneRM s c p i (2 * j + 1)) (at' v 1).toNat
  let old := cvtpOld code (at' v 2).toNat
  (BitVec.ofNat 32 (putBits (putBits old (2 * j * n) n lo.1) ((2 * j + 1) * n) n hi.1), lo.2 ||| hi.2)

/-- A destination read as a source. -/
def Dst.src : Dst → Src
  | .o n => .code (BitVec.ofNat 6 n)
  | .v n => .main n
  | .u n => .code (BitVec.ofNat 6 (24 + n))
  | .none => .code 20#6

/-- CVTP's body: the old destination is a source, and its label joins, only where elements are kept. -/
def cvtpBody (c : Ctx) (p : Pfx) (w : W0) (d : Dst) (a b old : Bool × Src) (code j : Nat) : M Done :=
  alu c w d ([a, b] ++ (if narrowWidth code = 16 then [] else [old])) (cvtpFn c p code j)

/-- CVTU (R161): element j as FP32. -/
def cvtuFn (p : Pfx) (code j : Nat) (_ : State) (_ : Nat) (v : List Word) : Word × BitVec 8 :=
  let r := convert (narrowOf code) (.float .f32) { RM.plain with ftz := (p.rs.map (fun r => r.ftz)).getD false }
    ((at' v 0).toNat / 2 ^ (narrowWidth code * j))
  (BitVec.ofNat 32 r.1, r.2)

/-- SCL (R162): type 0 FP32, 1 FP16 and 2 BF16 in each half; the scale is byte k of b. -/
def sclFn (c : Ctx) (p : Pfx) (ty k : Nat) (s : State) (i : Nat) (v : List Word) : Word × BitVec 8 :=
  let a := (at' v 0).toNat
  let e := bitsN (at' v 1).toNat (8 * k) 8
  if ty = 0 then let r := scl .f32 (laneRM s c p i 0) a e; (BitVec.ofNat 32 r.1, r.2)
  else
    let f : Fmt := if ty = 1 then .f16 else .bf16
    let lo := scl f (laneRM s c p i 0) (bitsN a 0 16) e
    let hi := scl f (laneRM s c p i 1) (bitsN a 16 16) e
    (BitVec.ofNat 32 (lo.1 + hi.1 * 2 ^ 16), lo.2 ||| hi.2)

/-! Dot products (R163). -/

/-- The element formats of DOT2, DOT4 and DOT8 by their type code. -/
def dotFmt (n ty : Nat) : NumFmt :=
  match n, ty with
  | 2, 0 => .float .f16
  | 2, 1 => .float .bf16
  | 2, 2 => .int 16 true
  | 2, _ => .int 16 false
  | 4, 0 => .float .e4m3
  | 4, 1 => .float .e5m2
  | 4, 2 => .float .e3m2
  | 4, 3 => .float .e2m3
  | 4, 4 => .int 8 true
  | 4, _ => .int 8 false
  | _, 0 => .float .e2m1
  | _, _ => .int 4 true

/-- An element with an infinity read as the largest finite magnitude of its format, and SAT (R163). -/
def dotElem (t : NumFmt) (ftz : Bool) (x : Nat) : Num × BitVec 8 :=
  match t, t.decode ftz x with
  | .float f, .inf neg => (f.maxNum neg, fSAT)
  | _, v => (v, 0#8)

/-- The exact sum of finite values that are not all zero of one sign; zero sums by R163. -/
def exactSum (r : Rnd) (xs : List Num) : Num :=
  let q := xs.foldl (fun q x => match x with
    | .fin _ m e _ => if m = 0 then q else min q e
    | _ => q) (0 : Int)
  let t := xs.foldl (fun t x => match x with
    | .fin neg m e _ => if m = 0 then t else t + scaledInt neg m e q
    | _ => t) (0 : Int)
  if xs.all (fun x => x.isZero && x.neg) then .fin true 0 0 false
  else if xs.all (fun x => x.isZero && !x.neg) then .fin false 0 0 false
  else sumNum r t q

/-- A dot product of `n` elements: C plus the products, one exact sum (R163). -/
def dotFn (c : Ctx) (p : Pfx) (n ta tb : Nat) (s : State) (i : Nat) (v : List Word) : Word × BitVec 8 :=
  let w := 32 / n
  let elem (k j : Nat) : Nat := bitsN (at' v k).toNat (w * j) w
  let fa := dotFmt n ta
  let fb := dotFmt n tb
  match fa, fb with
  | .int wa sa, .int wb sb =>
    let x := (List.range n).foldl (fun t j => t + readInt wa sa (elem 0 j) * readInt wb sb (elem 1 j)) (at' v 2).toInt
    let clamp := p.rs.map (fun r => r.sat) = some .range
    if clamp ∧ x < -(2 ^ 31) then (0x80000000#32, fSAT)
    else if clamp ∧ 2 ^ 31 - 1 < x then (0x7FFFFFFF#32, fSAT)
    else (BitVec.ofInt 32 x, 0#8)
  | _, _ =>
    let r := laneRM s c p i 0
    let cv := Fmt.f32.decode r.ftz (at' v 2).toNat
    let es := (List.range n).map (fun j => (dotElem fa r.ftz (elem 0 j), dotElem fb r.ftz (elem 1 j)))
    let fl := es.foldl (fun f e => f ||| e.1.2 ||| e.2.2) (sigFlag [cv])
    if cv.isNan || es.any (fun e => e.1.1.isNan || e.2.1.isNan) then
      let u := Fmt.f32.pack false r (.nan false false)
      (BitVec.ofNat 32 u.1, fl ||| fNV ||| u.2)
    else
      match cv with
      | .inf _ => (at' v 2, fl)
      | _ =>
        let u := Fmt.f32.pack false r (exactSum r.rnd (cv :: es.map (fun e => (mulNum e.1.1 e.2.1).1)))
        (BitVec.ofNat 32 u.1, fl ||| u.2)

/-- A move (R164): the source's value. -/
def moveFn (_ : State) (_ : Nat) (v : List Word) : Word × BitVec 8 := (at' v 0, 0#8)

/-- MOVK to a mask (R164). -/
def movkTrue (v : List Word) : Bool × BitVec 8 := (at' v 0 != 0#32, 0#8)

/-- MOVK from a mask (R164): the whole register in every lane. -/
def movkFromBody (c : Ctx) (w : W0) (d : Dst) (n : Nat) : M Done :=
  aluBody c w d 1 [] (fun s _ => [(maskReg s c n).lbl, c.sub.maskLabel]) (fun s _ _ => ([(maskReg s c n).bits], 0#8))

/-- CVT, 32-bit form (R158, R159). -/
def execCvt32 (p : Pfx) (w : W0) (s : State) : Out :=
  issue p (WF.cvt_32 p w) s (fun c => alu c w (Dst.ofCode w.d) [(w.luA, .code w.a)] (cvtFn c p (field w.b 0 3).toNat (field w.b 3 3).toNat))

/-- CVT, 64-bit form (R158, R159). -/
def execCvt64 (p : Pfx) (w : W0) (x : W1) (s : State) : Out :=
  issue p (WF.cvt_64 p w x) s (fun c => alu c w (dstD w x) [(w.luA, srcA w x)] (cvtFn c p (field x.hi 0 4).toNat (field x.hi 4 4).toNat))

/-- CVTP, 32-bit form: FP16 (R160). -/
def execCvtp32 (p : Pfx) (w : W0) (s : State) : Out :=
  issue p (WF.cvtp_32 p w) s (fun c => cvtpBody c p w (Dst.ofCode w.d) (w.luA, .code w.a) (w.luB, .code w.b) (false, .code w.d) 0 0)

/-- CVTP, 64-bit form (R160). -/
def execCvtp64 (p : Pfx) (w : W0) (x : W1) (s : State) : Out :=
  issue p (WF.cvtp_64 p w x) s (fun c => cvtpBody c p w (dstD w x) (w.luA, srcA w x) (w.luB, srcB w x) (false, (dstD w x).src) (field x.hi 0 3).toNat (field x.hi 3 2).toNat)

/-- CVTU, 32-bit form (R161). -/
def execCvtu32 (p : Pfx) (w : W0) (s : State) : Out :=
  issue p (WF.cvtu_32 p w) s (fun c => alu c w (Dst.ofCode w.d) [(w.luA, .code w.a)] (cvtuFn p (field w.b 3 3).toNat (field w.b 0 3).toNat))

/-- CVTU, 64-bit form (R161). -/
def execCvtu64 (p : Pfx) (w : W0) (x : W1) (s : State) : Out :=
  issue p (WF.cvtu_64 p w x) s (fun c => alu c w (dstD w x) [(w.luA, srcA w x)] (cvtuFn p (field w.b 3 3).toNat (field w.b 0 3).toNat))

/-- SCL, 32-bit form: FP32 and byte 0 (R162). -/
def execScl32 (p : Pfx) (w : W0) (s : State) : Out :=
  issue p (WF.scl_32 p w) s (fun c => alu c w (Dst.ofCode w.d) (ab32 w) (sclFn c p 0 0))

/-- SCL, 64-bit form (R162). -/
def execScl64 (p : Pfx) (w : W0) (x : W1) (s : State) : Out :=
  issue p (WF.scl_64 p w x) s (fun c => alu c w (dstD w x) [(w.luA, srcA w x), (w.luB, srcB w x)] (sclFn c p (field x.hi 2 2).toNat (field x.hi 0 2).toNat))

/-- DOT2, 32-bit form: C is the destination (R163). -/
def execDot232 (p : Pfx) (w : W0) (s : State) : Out :=
  issue p (WF.dot2_32 p w) s (fun c => alu c w (Dst.ofCode w.d) (abc32 w) (dotFn c p 2 0 0))

/-- DOT2, 64-bit form (R163). -/
def execDot264 (p : Pfx) (w : W0) (x : W1) (s : State) : Out :=
  issue p (WF.dot2_64 p w x) s (fun c => alu c w (dstD w x) (abc64 w x) (dotFn c p 2 (field x.hi 0 3).toNat (field x.hi 3 3).toNat))

/-- DOT4, 32-bit form: C is the destination (R163). -/
def execDot432 (p : Pfx) (w : W0) (s : State) : Out :=
  issue p (WF.dot4_32 p w) s (fun c => alu c w (Dst.ofCode w.d) (abc32 w) (dotFn c p 4 0 0))

/-- DOT4, 64-bit form (R163). -/
def execDot464 (p : Pfx) (w : W0) (x : W1) (s : State) : Out :=
  issue p (WF.dot4_64 p w x) s (fun c => alu c w (dstD w x) (abc64 w x) (dotFn c p 4 (field x.hi 0 3).toNat (field x.hi 3 3).toNat))

/-- DOT8, 32-bit form: C is the destination (R163). -/
def execDot832 (p : Pfx) (w : W0) (s : State) : Out :=
  issue p (WF.dot8_32 p w) s (fun c => alu c w (Dst.ofCode w.d) (abc32 w) (dotFn c p 8 0 0))

/-- DOT8, 64-bit form (R163). -/
def execDot864 (p : Pfx) (w : W0) (x : W1) (s : State) : Out :=
  issue p (WF.dot8_64 p w x) s (fun c => alu c w (dstD w x) (abc64 w x) (dotFn c p 8 (field x.hi 0 3).toNat (field x.hi 3 3).toNat))

/-- MOVO (R164). -/
def execMovo (p : Pfx) (w : W0) (x : W1) (s : State) : Out :=
  issue p (WF.movo p w x) s (fun c => alu c w (dstD w x) [(w.luA, srcA w x)] moveFn)

/-- MOVM (R164). -/
def execMovm (p : Pfx) (w : W0) (x : W1) (s : State) : Out :=
  issue p (WF.movm p w x) s (fun c => alu c w (dstD w x) [(w.luA, srcA w x)] moveFn)

/-- MOVU, 32-bit form (R164). -/
def execMovu32 (p : Pfx) (w : W0) (s : State) : Out :=
  issue p (WF.movu_32 p w) s (fun c => alu c w (Dst.ofCode w.d) [(w.luA, .code w.a)] moveFn)

/-- MOVU, 64-bit form (R164). -/
def execMovu64 (p : Pfx) (w : W0) (x : W1) (s : State) : Out :=
  issue p (WF.movu_64 p w x) s (fun c => alu c w (dstD w x) [(w.luA, srcA w x)] moveFn)

/-- MOVK to a mask (R164). -/
def execMovkToMask (p : Pfx) (w : W0) (s : State) : Out :=
  issue p (WF.movk_to_mask p w) s (fun c => cmpBody c w (field w.d 0 3).toNat [(w.luA, .code w.a)] movkTrue)

/-- MOVK from a mask (R164). -/
def execMovkFromMask (p : Pfx) (w : W0) (s : State) : Out :=
  issue p (WF.movk_from_mask p w) s (fun c => movkFromBody c w (Dst.ofCode w.d) w.a.toNat)

/-- LDI, 64-bit form (R164). -/
def execLdi64 (p : Pfx) (w : W0) (x : W1) (s : State) : Out :=
  issue p (WF.ldi_64 p w x) s (fun c => alu c w (dstD w x) [(false, .const (immT (x.c.getLsbD 0) x.hi))] moveFn)

/-- LDI, 96-bit form (R164). -/
def execLdi96 (p : Pfx) (w : W0) (x : W1) (lit : Word) (s : State) : Out :=
  issue p (WF.ldi_96 p w x lit) s (fun c => alu c w (dstD w x) [(false, .const lit)] moveFn)

/-- NOP (R106): no effect; the sub-warp goes on. -/
def execNop (s : State) : Out := issue Pfx.none true s (fun _ => pure .next)

/-- NOP.h0 (R107). -/
def execNopH0 (_w : W0) (s : State) : Out := issue Pfx.none true s (fun _ => pure .next)

/-- NOP.h1 (R107). -/
def execNopH1 (_w : W0) (s : State) : Out := issue Pfx.none true s (fun _ => pure .next)

/-- NOP.h2 (R107). -/
def execNopH2 (_w : W0) (s : State) : Out := issue Pfx.none true s (fun _ => pure .next)

/-- NOP.h3 (R107). -/
def execNopH3 (_w : W0) (s : State) : Out := issue Pfx.none true s (fun _ => pure .next)

/-- PAD reached sequentially or by a jump (R101, R169): no effect. -/
def execPad (p : Pfx) (w : W0) (s : State) : Out := issue p (WF.pad p w) s (fun _ => pure .next)

/-- A code that its class and page do not assign (step 5 of R108): ILLEGAL. -/
def execUnassignedOpcode (_p : Pfx) (_page1 : Bool) (_len : Len) (_code : BitVec 7) (_w : W0) (s : State) : Out :=
  issue Pfx.none true s (fun c => trap c 0 c.act)

/-- A malformed run of PFX words traps ILLEGAL, an orphaned one ORPHAN, at the PC that R99 names. -/
def execOrphanedPrefix (why : RunFault) (pc : DWord) (slot : Nat) (s : State) : Out :=
  issue Pfx.none true s (fun c =>
    M.stop (.trap { c.info (if why = .orphan then 1 else 0) c.act with pc := pc, slot := slot }))

end Sys2Proof.Machine
end

