-- ==== Sys2Proof/Machine/Holdings.lean ====
section
/-! DEFINITION. The estate table of a warp (R325 to R327): registering, finding and discharging holdings, and the ESTATE trap. -/

namespace Sys2Proof.Machine

open Sys2Proof

/-- ESTATE with a reason of R326 in the record's step field. -/
def trapEstate {α : Type} (c : Ctx) (reason : Nat) : M α := M.stop (.trap { c.info 19 c.on with step := reason })

/-- Whether a warp's holdings stand in its quadrant's table: those of a saved warp stand in its context (R327). -/
def Life.inTable : Life → Bool
  | .rewound => false
  | .saved => false
  | .dead => false
  | _ => true

/-- Entries of a quadrant's estate table that are in use. -/
def tableUse (s : State) (q : Nat) : Nat :=
  s.warps.foldl (fun n e => if e.2.quad = q ∧ e.2.life.inTable then n + e.2.estate.length else n) 0

/-- Whether a warp's table has room for a registration (R326). -/
def canRegister (s : State) (w : Nat) : Bool := decide ((s.warp w).estate.length < 64) && decide (tableUse s (s.warp w).quad < 1024)

/-- Register a holding, as the newest. -/
def registerHolding (s : State) (w : Nat) (h : Holding) : State := s.modWarp w (fun x => { x with estate := x.estate ++ [h] })

/-- A holding as an instruction registers it: heir 5, the warp's default heir (R329). -/
def Holding.fresh (kind scope tag queue ref : Nat) : Holding := ⟨kind, scope, 5#16, BitVec.ofNat 16 tag, queue, ref, 0⟩

/-- The place of a warp's holding of a kind with a reference, or a queue number for kind 5. -/
def findHolding (x : Warp) (kind ref queue : Nat) : Option Nat :=
  x.estate.findIdx? (fun h => h.kind == kind && (if kind ≤ 4 then h.ref == ref else kind != 5 || h.queue == queue))

/-- A holding is discharged. -/
def discharge (s : State) (w kind ref queue : Nat) : State :=
  s.modWarp w (fun x => match findHolding x kind ref queue with
    | some k => { x with estate := x.estate.eraseIdx k }
    | none => x)

end Sys2Proof.Machine
end

