-- ==== Sys2Proof/Machine/Host.lean ====
section
/-! DEFINITION. The host port (R400, R401, R410): who may ask, what a violation freezes, and what a read returns. -/

namespace Sys2Proof.Machine

open Sys2Proof

/-- An event that cannot happen now changes nothing. -/
def off (s : State) : Out := .next { s with report := .disabled }
/-- An event has happened. -/
def did (s : State) : Out := .next { s with report := .done }

/-- The next value that the spec leaves open. -/
def freeValue (s : State) : Word × State := (Config.freeWord s.free, { s with free := s.free + 1 })
/-- Two of them side by side. -/
def freePair (s : State) : DWord × State :=
  let (a, s) := freeValue s
  let (b, s) := freeValue s
  (pair b a, s)

/-- The hypervisor's identity (R400) (requester 0 after reset: DEDUCED, log entry 110). -/
def isHv (s : State) (req : Req) : Bool := req == s.package.hv

/-- Whether a requester may reach a VD's window (R400). -/
def mayWindow (s : State) (req : Req) (v : Nat) : Bool := isHv s req || ((s.vd v).window && req == (s.vd v).requester)

/-- A freeze posts a record to the hypervisor buffer (R410). The spec gives it no kind and no payload: both are open (kind and payload: DESIGN CHOICE, log entry 105). -/
def freezeRecord (s : State) (v : Nat) : State :=
  let (k, s) := freeValue s
  let (a, s) := freePair s
  let (b, s) := freePair s
  hvEvent s v (if v < 1024 then (s.vd v).gen else 0) (k.toNat % 65536) (toBytes a 8 ++ toBytes b 8)

/-- A window freezes (R410); one that is frozen stays as it is. -/
def freezeWindow (s : State) (v : Nat) : State :=
  if (s.vd v).frozen then s else freezeRecord (s.modVd v (fun d => { d with frozen := true })) v

/-- A request to a hypervisor range from a requester that PKGHV does not name freezes the windows that name it (R400, R410). -/
def hvViolation (s : State) (req : Req) : State :=
  (s.vds.filter (fun e => e.2.window && e.2.requester == req)).foldl (fun s e => freezeWindow s e.1) s

/-- A read of the host port returns bytes. -/
def answer (s : State) (bs : List Byte) : State := { s with reply := bs }
/-- The bytes of a read that returns zero. -/
def zeros (n : Nat) : List Byte := List.replicate n 0#8

/-- A write of a hypervisor range. -/
def hvWrite (s : State) (req : Req) (f : State → State) : Out := did (if isHv s req then f s else hvViolation s req)

/-- A read of `n` bytes of a hypervisor range; a violation reads as zero. -/
def hvRead (s : State) (req : Req) (n : Nat) (f : State → List Byte × State) : Out :=
  if isHv s req then
    let (bs, s) := f s
    did (answer s bs)
  else did (answer (hvViolation s req) (zeros n))

/-- A read of `n` bytes of a VD window; a frozen window reads as zero (R410). -/
def windowRead (s : State) (req : Req) (v n : Nat) (f : State → List Byte × State) : Out :=
  if !mayWindow s req v then did (answer (freezeWindow s v) (zeros n))
  else if (s.vd v).frozen then did (answer s (zeros n))
  else
    let (bs, s) := f s
    did (answer s bs)

end Sys2Proof.Machine
end

