-- ==== Sys2Proof/Machine/Mailbox.lean ====
section
/-! DEFINITION. Step mailboxes (R303 to R305, R309 to R319): messages, answers, the MB instructions, landing and delivery. -/

namespace Sys2Proof.Machine

open Sys2Proof

/-! Messages and answers. -/

/-- A queue register names its mailbox by 512 times the die plus the number. -/
def boxKey (d m : Nat) : Nat := 512 * d + m

/-- The 16 bytes of a header (R304). -/
def Message.header (x : Message) : List Byte :=
  toBytes x.episode 2 ++ toBytes x.step 2 ++ toBytes x.version 2 ++ [x.status, x.flags] ++ toBytes x.owners 8

/-- The observation that answers an action (R304, R308, R314). -/
def answerTo (a : Message) (status : Byte) (owners : OwnerSet) (payload : List Byte) : Message :=
  { a with status := status, flags := 0#8, owners := owners, payload := payload }

/-- A mailbox whose episode has ended or is frozen answers its actions, oldest step first, while places are free (R310, R311). -/
def Mailbox.settle (owners : OwnerSet) (b : Mailbox) : Mailbox :=
  if b.ended || b.frozen then
    let all := b.opened ++ b.waiting
    let n := min (8 - b.obs.length) all.length
    let st : Byte := if b.ended then 2#8 else 1#8
    { b with
      obs := b.obs ++ (all.take n).map (fun a => answerTo a st owners (zeros 64))
      opened := b.opened.drop n
      waiting := b.waiting.drop (n - b.opened.length) }
  else b

/-- Settle a mailbox of a die. -/
def settleBox (s : State) (d m : Nat) : State := s.modMailbox d m (fun b => b.settle (s.ownersOf b.vd b.lbl))

/-! MBCFG and MBDROP (R303). -/

/-- Whether a mailbox serves an episode: MBCFG names its identifier and its core (R303, R306). -/
def Mailbox.serves (b : Mailbox) (e : Episode) : Bool := b.episode == e.id && b.core == e.core

/-- Whether a core of a die runs an episode and is frozen by its watchdog (R310). -/
def frozenEpisode (s : State) (d id core : Nat) : Bool :=
  s.episodes.any (fun e => e.die == d && e.id == id && e.core == core) && (s.pcore d core).frozen

/-- MBCFG as it is read (R303). -/
def Mailbox.config (b : Mailbox) : DWord :=
  BitVec.ofNat 64 (b.vd % 2 ^ 10 + b.lbl.toNat * 2 ^ 10 + b.episode % 2 ^ 16 * 2 ^ 18 + b.core % 16 * 2 ^ 34 + (if b.enable then 2 ^ 38 else 0) +
    (if b.frozen then 2 ^ 39 else 0) + (if b.bound then 2 ^ 40 else 0))

/-- A write of MBCFG: while enable is set it may only clear enable, which discards waiting actions and undelivered observations; a
write that would set enable with a label that is no handle of the VD's table is ignored. Frozen and bound are read only. -/
def writeMbcfg (s : State) (d m : Nat) (v : DWord) : State :=
  let b := s.mailbox d m
  if b.enable then
    if v.getLsbD 38 then s else s.modMailbox d m (fun b => { b with enable := false, ended := false, waiting := [], obs := [] })
  else if v.getLsbD 38 && ((s.vd (field v 0 10).toNat).table.get? (field v 10 8).toNat).isNone then s
  else s.modMailbox d m (fun b => { b with
    vd := (field v 0 10).toNat, lbl := field v 10 8, episode := (field v 18 16).toNat, core := (field v 34 4).toNat
    enable := v.getLsbD 38, frozen := frozenEpisode s d (field v 18 16).toNat (field v 34 4).toNat, ended := false })

/-- A page index of 4 KiB in Sv48's user space, at or after `n`, at which an episode maps nothing (R301, R306). -/
def freePage (e : Episode) (n : Nat) : Nat :=
  (((List.range (e.pages.length + e.mailboxes.length + 1)).map (fun k => (n + k) % 2 ^ 35)).find? (fun v =>
    !e.pages.any (fun p => p.1 == v) && !e.mailboxes.any (fun p => p.1 == v))).getD 0

/-- A mailbox that comes to serve a live episode appears in its address space, at an address that the stage manager chooses (R306). -/
def showBox (s : State) (d m : Nat) : State :=
  let b := s.mailbox d m
  let (v, s) := freePair s
  { s with episodes := s.episodes.map (fun e =>
      if e.die == d && b.serves e && !e.mailboxes.any (fun p => p.2 == m) then
        { e with mailboxes := sortOn (fun p => p.1) ((freePage e v.toNat, m) :: e.mailboxes) }
      else e) }

/-- MBCFG_WRITE (R303). -/
def execMbcfgWrite (req : Req) (die mb : Nat) (v : DWord) (s : State) : Out :=
  if die < 9 ∧ mb < 512 then hvWrite s req (fun s => showBox (writeMbcfg s die mb v) die mb) else off s

/-- MBDROP_READ (R303): the read clears the count. -/
def execMbdropRead (req : Req) (die mb : Nat) (s : State) : Out :=
  if die < 9 ∧ mb < 512 then
    hvRead s req 8 (fun s => (le 8 (s.mailbox die mb).dropped, s.modMailbox die mb (fun b => { b with dropped := 0 })))
  else off s

/-! Landing and delivery (R312, R313). -/

/-- The places of a landing ring that no entry of a queue names. -/
def freePlaces (u : Queue) : List Nat :=
  (List.range 8).filter (fun p => !(u.entries ++ u.popped).any (fun e => (field e.data 41 3).toNat == p))

/-- The entry of an observation (R313). -/
def mbEntry (x : Message) (place : Nat) : DWord :=
  x.step ++ BitVec.ofNat 4 0 ++ BitVec.ofNat 3 place ++ BitVec.ofBool (x.flags.getLsbD 0) ++ x.status ++ x.version ++ x.episode

/-- Whether an observation is stale under the binding warp's version (R312). -/
def isStale (current version : BitVec 16) : Bool := let d := (current - version).toNat; decide (1 ≤ d) && decide (d < 2 ^ 15)

/-- An observation is landed and delivered to the queue, which has room (R313). -/
def landObs (s : State) (d m w q : Nat) (x : Message) : State :=
  let b := s.mailbox d m
  let u := (s.warp w).queue q
  let place := ((freePlaces u).head?).getD 0
  let a := u.ring + 128 * place
  let blk := (s.warp w).block
  let p := s.spadOf w blk
  let ok := s.dominates b.vd (p.label a) b.lbl && s.dominates b.vd (p.label (a + 64)) b.lbl
  let x := if ok then x else { x with status := 3#8 }
  let s := if ok then s.modSpad w blk (fun p => (p.write a (slice x.header 0 64)).write (a + 64) x.payload) else s
  s.modWarp w (fun y => y.setQueue q { u with entries := u.entries ++ [⟨mbEntry x place, b.lbl, 0, 0⟩] })

/-- OBSERVATION_DELIVERY (R312, R313, R316): the oldest observation of a mailbox leaves it: it is discarded with its tag recorded where
nothing binds the mailbox, dropped as stale, or landed and delivered when the queue has room and the warp is not saved. -/
def execObservationDelivery (die mb : Nat) (s : State) : Out :=
  let b := s.mailbox die mb
  match b.obs with
  | [] => off s
  | x :: rest =>
    if (s.die die).fenced || !b.enable then off s
    else
      let took := fun (s : State) => settleBox (s.modMailbox die mb (fun b => { b with obs := rest })) die mb
      let (w, q) := b.binder
      if !b.bound then did (took (queueRecord s w 2 q ⟨mbEntry x 0, b.lbl, 0, 0⟩))
      else
        let y := s.warp w
        let u := y.queue q
        if 8 ≤ u.used || !(y.life == .resident || y.life == .saving) then off s
        else
          let stale := isStale y.policy x.version
          if stale && u.stale == 1 then
            did (took (s.modMailbox die mb (fun b => { b with dropped := min (b.dropped + 1) (2 ^ 32 - 1) })))
          else did (took (landObs s die mb w q (if stale && u.stale == 2 then { x with flags := 1#8 } else x)))

/-! The instructions (R315 to R319). -/

/-- The mailbox that a queue register is bound to. -/
def boxOf (s : State) (u : Queue) : Mailbox := s.mailbox (u.mailbox / 512) (u.mailbox % 512)

/-- The queue register of an MB instruction is bound to a mailbox that is in service (R317, R319). -/
def checkBox (c : Ctx) (q : Nat) : M Queue := do
  let s ← M.st
  let u := (s.warp c.w).queue q
  trapIf c (u.kind != some 2) 13
  trapIf c (!(boxOf s u).enable) 21
  pure u

/-- The checks of MB.OPEN (R316), in their order: the mailbox and the offset of its ring. -/
def openChecks (c : Ctx) (w : W0) (x : W1) : M (Nat × Nat) := do
  let q := w.d.toNat
  let a := Src.code w.a
  let b := Src.code w.b
  let srcs := if w.a = 20#6 then [b] else [a, b]
  checkSrcs c srcs c.act
  let s ← M.st
  trapIf c ((s.warp c.w).queue q).kind.isSome 13
  let l ← M.run' (fun s => s.joinList c.w (srcs.map (fun y => srcLbl s c y 0) ++ [c.sub.maskLabel]))
  if l ≠ 0#8 then trapLabel c c.on l 0#8 0#64 0
  else
    let m := if w.a = 20#6 then (field x.hi 0 9).toNat else (srcVal s c a 0).toNat
    let ring := (srcVal s c b 0).toNat
    let box := s.mailbox c.die m
    trapIf c (decide (511 < m) || !box.enable || box.vd != c.vd) 21
    trapIf c box.bound 21
    let bad (e : AccessFault) : M Unit := M.stop (.trap { c.info e.cause c.on with addr := BitVec.ofNat 64 ring, step := e.step })
    if ring % 128 ≠ 0 then bad .align else pure ()
    if (s.record c.w).spadBytes < ring + 1024 then bad .bounds else pure ()
    let clr := (s.warp c.w).clearance
    if !s.dominates c.vd clr box.lbl then trapLabel c c.on box.lbl clr 0#64 0 else pure ()
    let gs := (List.range 16).map (fun k => (s.spadOf c.w (s.warp c.w).block).label (ring + 64 * k))
    match gs.find? (fun g => !s.dominates c.vd g box.lbl) with
    | some g => trapLabel c c.on box.lbl g (BitVec.ofNat 64 ring) 0
    | none => pure ()
    if !canRegister s c.w then trapEstate c 1 else pure ()
    pure (m, ring)

/-- Mailbox `m` of the warp's die is bound to queue register `q`, which lands at `ring`; the warp holds the seat (R316). -/
def openBox (c : Ctx) (q m ring : Nat) (s : State) : State :=
  registerHolding ((s.modWarp c.w (fun y => y.setQueue q { Queue.free with kind := some 2, mailbox := boxKey c.die m, ring := ring })).modMailbox
    c.die m (fun b => { b with bound := true, binder := (c.w, q) })) c.w (Holding.fresh 5 1 0 q 0)

/-- MB.OPEN (R316). -/
def execMbOpen (p : Pfx) (w : W0) (x : W1) (s : State) : Out :=
  issue p (WF.mb_open p w x) s (fun c => do
    let r ← openChecks c w x
    lastUse c ((w.luB, .code w.b) :: (if w.a = 20#6 then [] else [(w.luA, .code w.a)]))
    M.upd (fun s => commit s c.w)
    M.upd (openBox c w.d.toNat r.1 r.2)
    pure .next)

/-- An action that a send pushes: its queue register's mailbox, label and payload; `poisoned` says that the payload read met poison at `addr`. -/
structure Sending where
  mailbox : Nat
  lbl : Label
  payload : List Byte
  poisoned : Bool
  addr : DWord
  deriving DecidableEq, Repr

/-- The checks of an action push (R206, R317): the mailbox in service, the label check, a place for it. -/
def sendChecks (c : Ctx) (q : Nat) (acq : Bool) (lbls : List Label) (payload : List Byte) (poisoned : Bool) (addr : DWord) : M (Option Sending) := do
  let u ← checkBox c q
  let l ← M.run' (fun s => s.joinList c.w (lbls ++ [c.sub.maskLabel] ++ c.kl ++ [(s.warp c.w).policyLabel]))
  let s ← M.st
  let box := boxOf s u
  if !s.dominates c.vd box.lbl l then trapLabel c c.on l box.lbl addr 0
  else
    M.await (decide (box.waiting.length + box.opened.length < 8))
    awaitAcq c acq 3
    pure (some ⟨u.mailbox, l, payload, poisoned, addr⟩)

/-- The action that a push makes of a payload (R304, R317). -/
def actionOf (s : State) (c : Ctx) (r : Sending) : Message :=
  let box := s.mailbox (r.mailbox / 512) (r.mailbox % 512)
  { episode := BitVec.ofNat 16 box.episode, step := box.step + 1, version := (s.warp c.w).policy, status := 0#8, flags := 0#8
    owners := s.ownersOf c.vd r.lbl, payload := slice r.payload 0 64 }

/-- The action goes to the mailbox, which counts its step; a poisoned payload is not sent, and POISON is delivered (R317). -/
def pushAction (c : Ctx) (r : Sending) (s : State) : State :=
  if r.poisoned then deliver s c.w 18 c.pc c.on r.addr r.lbl
  else
    let msg := actionOf s c r
    let d := r.mailbox / 512
    let m := r.mailbox % 512
    settleBox (s.modMailbox d m (fun b => { b with step := msg.step, waiting := b.waiting ++ [msg] })) d m

/-- What a push does: nothing with no lane on; else the region commits and the action goes (R217, R317). -/
def pushed (c : Ctx) (r : Option Sending) (s : State) : State :=
  match r with
  | none => s
  | some x => pushAction c x (commit s c.w)

/-- The action push of MB.SEND and QWR (R206, R317). -/
def sendBody (c : Ctx) (plan : M (Option Sending)) (uses : List (Bool × Src)) : M Done := do
  let r ← plan
  lastUse c uses
  M.upd (pushed c r)
  pure .next

/-- The checks of the 8-byte push of a uniform pair (R206, R317). -/
def pairChecks (c : Ctx) (w : W0) : M (Option Sending) := do
  if c.on = 0#32 then pure none
  else
    let a := Src.code w.a
    checkSrcs c [a, a.up 1] c.on
    let s ← M.st
    sendChecks c w.d.toNat false [srcLbl s c a 0, srcLbl s c (a.up 1) 0] (toBytes (pairVal s c a 0) 8) false 0#64

/-- The 8-byte push of a uniform pair (R206, R317). -/
def sendPair (c : Ctx) (w : W0) : M Done := sendBody c (pairChecks c w) [(w.luA, .code w.a), (w.luA, (Src.code w.a).up 1)]

/-- MB.SEND, 32-bit form (R317). -/
def execMbSend32 (p : Pfx) (w : W0) (s : State) : Out := issue p (WF.mb_send_32 p w) s (fun c => sendPair c w)

/-- The checks of the per-lane push (R317): the words of the half of the warp that its word names. -/
def laneChecks (c : Ctx) (w : W0) (x : W1) : M (Option Sending) := do
  if c.on = 0#32 then pure none
  else
    let h := if x.hi.getLsbD 2 then 16 else 0
    let a := Src.code w.a
    let half := c.on &&& (if h = 16 then 0xFFFF0000#32 else 0x0000FFFF#32)
    checkSrcs c [a] half
    let s ← M.st
    let words := (List.range 16).map (fun j => if hasLane half (h + j) then srcVal s c a (h + j) else 0#32)
    sendChecks c w.d.toNat (x.hi.getLsbD 0)
      ((lanesOf half).map (fun i => [srcLbl s c a i, pathIn s c.w c.on i])).flatten
      ((words.map (fun v => toBytes v 4)).flatten) false 0#64

/-- MB.SEND, per-lane form (R317). -/
def execMbSend64 (p : Pfx) (w : W0) (x : W1) (s : State) : Out :=
  issue p (WF.mb_send_64 p w x) s (fun c => sendBody c (laneChecks c w x) [(w.luA, .code w.a)])

/-- The checks of the scratchpad push (R317): the payload is the granule at the offset. -/
def granuleChecks (c : Ctx) (w : W0) (x : W1) : M (Option Sending) := do
  if c.on = 0#32 then pure none
  else
    let a := Src.code w.a
    checkSrcs c [a] c.on
    let _ ← checkBox c w.d.toNat
    let s ← M.st
    let y := s.warp c.w
    let addr := srcVal s c a 0
    let bad (e : AccessFault) : M Unit :=
      M.stop (.trap { c.info e.cause c.on with addr := zext addr 64, step := e.step, lbls := [srcLbl s c a 0] })
    if addr.toNat % 64 ≠ 0 then bad .align else pure ()
    match spadLoc s y.grid y.block addr 64 with
    | none =>
      bad .bounds
      pure none
    | some (b, o) =>
      let sp := s.spadOf c.w b
      sendChecks c w.d.toNat (x.hi.getLsbD 0) [sp.label o, srcLbl s c a 0] (sp.read o 64) (sp.poisoned o 64) (zext addr 64)

/-- MB.SEND, scratchpad form (R317). -/
def execMbSendSp (p : Pfx) (w : W0) (x : W1) (s : State) : Out :=
  issue p (WF.mb_send_sp p w x) s (fun c => sendBody c (granuleChecks c w x) [(w.luA, .code w.a)])

/-- MB.VER (R318). -/
def execMbVer (p : Pfx) (w : W0) (s : State) : Out :=
  issue p (WF.mb_ver p w) s (fun c => do
    let a := Src.code w.a
    checkSrcs c [a] c.act
    let l ← M.run' (fun s => s.joinList c.w [srcLbl s c a 0, c.sub.maskLabel])
    let s ← M.st
    lastUse c [(w.luA, a)]
    M.upd (fun t => commit t c.w)
    M.upd (fun t => t.modWarp c.w (fun y => { y with policy := field (srcVal s c a 0) 0 16, policyLabel := l }))
    pure .next)

/-- MB.MODE (R319). -/
def execMbMode (p : Pfx) (w : W0) (s : State) : Out :=
  issue p (WF.mb_mode p w) s (fun c => do
    let u ← checkBox c w.d.toNat
    M.upd (fun t => commit t c.w)
    M.upd (fun t => t.modWarp c.w (fun y => y.setQueue w.d.toNat { u with stale := (field w.a 0 2).toNat }))
    pure .next)

end Sys2Proof.Machine
end

