-- ==== Sys2Proof/Machine/Riscv.lean ====
section
/-! DEFINITION. RV64IMAFDC with Zicsr and Zifencei as an episode runs it in user mode (R300). The manual names the instruction set and
does not state it: decoding and results here are those of the RISC-V unprivileged specification (PRESUMED, log entry 60). -/

namespace Sys2Proof.Machine

open Sys2Proof

/-! Instructions. -/

/-- Integer operations. -/
inductive RvAlu where
  | add | sub | sll | slt | sltu | xor | srl | sra | or | and
  | mul | mulh | mulhsu | mulhu | div | divu | rem | remu
  deriving DecidableEq, Repr

/-- An instruction, its immediate values extended to 64 bits. `w` marks a 32-bit operation. -/
inductive Rv where
  | const (rd : Nat) (v : DWord)
  | pcrel (rd : Nat) (v : DWord)
  | jal (rd : Nat) (off : DWord)
  | jalr (rd rs : Nat) (off : DWord)
  | branch (f3 a b : Nat) (off : DWord)
  | load (f3 rd a : Nat) (off : DWord)
  | store (f3 a b : Nat) (off : DWord)
  | alui (op : RvAlu) (w : Bool) (rd a : Nat) (v : DWord)
  | alu (op : RvAlu) (w : Bool) (rd a b : Nat)
  | fence
  | ecall
  | wfi
  | csr (f3 rd a n : Nat)
  | amo (f5 : Nat) (w : Bool) (rd a b : Nat)
  | fload (d : Bool) (rd a : Nat) (off : DWord)
  | fstore (d : Bool) (a b : Nat) (off : DWord)
  | fma (d negP negC : Bool) (rd a b c rm : Nat)
  | fop (f5 : Nat) (d : Bool) (rd a b rm : Nat)
  deriving DecidableEq, Repr

/-- The low `n` bits of `x` sign-extended to 64. -/
def sx (n x : Nat) : DWord := (BitVec.ofNat n x).signExtend 64

/-! Decoding. -/

/-- OP and OP-32 (opcode 0x33, 0x3B). -/
def rvOp (f7 f3 : Nat) (w : Bool) : Option RvAlu :=
  match f7, f3 with
  | 0, 0 => some .add
  | 32, 0 => some .sub
  | 0, 1 => some .sll
  | 0, 2 => if w then none else some .slt
  | 0, 3 => if w then none else some .sltu
  | 0, 4 => if w then none else some .xor
  | 0, 5 => some .srl
  | 32, 5 => some .sra
  | 0, 6 => if w then none else some .or
  | 0, 7 => if w then none else some .and
  | 1, 0 => some .mul
  | 1, 1 => if w then none else some .mulh
  | 1, 2 => if w then none else some .mulhsu
  | 1, 3 => if w then none else some .mulhu
  | 1, 4 => some .div
  | 1, 5 => some .divu
  | 1, 6 => some .rem
  | 1, 7 => some .remu
  | _, _ => none

/-- OP-IMM and OP-IMM-32 (opcode 0x13, 0x1B). -/
def rvOpImm (x rd a f3 : Nat) (w : Bool) : Option Rv :=
  let imm := sx 12 (bitsN x 20 12)
  let sh := BitVec.ofNat 64 (bitsN x 20 (if w then 5 else 6))
  let top := if w then bitsN x 25 7 else bitsN x 26 6 * 2
  match f3 with
  | 0 => some (.alui .add w rd a imm)
  | 1 => if top = 0 then some (.alui .sll w rd a sh) else none
  | 5 => if top = 0 then some (.alui .srl w rd a sh) else if top = 32 then some (.alui .sra w rd a sh) else none
  | 2 => if w then none else some (.alui .slt false rd a imm)
  | 3 => if w then none else some (.alui .sltu false rd a imm)
  | 4 => if w then none else some (.alui .xor false rd a imm)
  | 6 => if w then none else some (.alui .or false rd a imm)
  | _ => if w then none else some (.alui .and false rd a imm)

/-- Whether an operation of OP-FP exists (F and D). -/
def rvFopOk (f5 fmt b rm : Nat) : Bool :=
  decide (fmt ≤ 1) && match f5 with
  | 0x00 => true
  | 0x01 => true
  | 0x02 => true
  | 0x03 => true
  | 0x0B => b == 0
  | 0x04 => decide (rm ≤ 2)
  | 0x05 => decide (rm ≤ 1)
  | 0x08 => b == 1 - fmt
  | 0x14 => decide (rm ≤ 2)
  | 0x18 => decide (b ≤ 3)
  | 0x1A => decide (b ≤ 3)
  | 0x1C => b == 0 && decide (rm ≤ 1)
  | 0x1E => b == 0 && rm == 0
  | _ => false

/-- A 32-bit instruction. -/
def rvDecode (x : Nat) : Option Rv :=
  let rd := bitsN x 7 5
  let f3 := bitsN x 12 3
  let a := bitsN x 15 5
  let b := bitsN x 20 5
  let f7 := bitsN x 25 7
  let immI := sx 12 (bitsN x 20 12)
  let immS := sx 12 (bitsN x 25 7 * 32 + rd)
  let immB := sx 13 (bitsN x 31 1 * 4096 + bitsN x 7 1 * 2048 + bitsN x 25 6 * 32 + bitsN x 8 4 * 2)
  let immU := sx 32 (bitsN x 12 20 * 4096)
  let immJ := sx 21 (bitsN x 31 1 * 1048576 + bitsN x 12 8 * 4096 + bitsN x 20 1 * 2048 + bitsN x 21 10 * 2)
  match bitsN x 0 7 with
  | 0x37 => some (.const rd immU)
  | 0x17 => some (.pcrel rd immU)
  | 0x6F => some (.jal rd immJ)
  | 0x67 => if f3 = 0 then some (.jalr rd a immI) else none
  | 0x63 => if f3 = 2 ∨ f3 = 3 then none else some (.branch f3 a b immB)
  | 0x03 => if f3 = 7 then none else some (.load f3 rd a immI)
  | 0x23 => if f3 ≤ 3 then some (.store f3 a b immS) else none
  | 0x13 => rvOpImm x rd a f3 false
  | 0x1B => rvOpImm x rd a f3 true
  | 0x33 => (rvOp f7 f3 false).map (fun o => .alu o false rd a b)
  | 0x3B => (rvOp f7 f3 true).map (fun o => .alu o true rd a b)
  | 0x0F => if f3 ≤ 1 then some .fence else none
  | 0x73 =>
    if x = 0x00000073 then some .ecall
    else if x = 0x10500073 then some .wfi
    else if f3 = 0 ∨ f3 = 4 then none
    else some (.csr f3 rd a (bitsN x 20 12))
  | 0x2F =>
    let f5 := bitsN x 27 5
    let known := [0, 1, 3, 4, 8, 12, 16, 20, 24, 28].contains f5 || (f5 == 2 && b == 0)
    if known && (f3 == 2 || f3 == 3) then some (.amo f5 (f3 == 2) rd a b) else none
  | 0x07 => if f3 = 2 ∨ f3 = 3 then some (.fload (f3 == 3) rd a immI) else none
  | 0x27 => if f3 = 2 ∨ f3 = 3 then some (.fstore (f3 == 3) a b immS) else none
  | 0x43 => if bitsN x 25 2 ≤ 1 then some (.fma (bitN x 25) false false rd a b (bitsN x 27 5) f3) else none
  | 0x47 => if bitsN x 25 2 ≤ 1 then some (.fma (bitN x 25) false true rd a b (bitsN x 27 5) f3) else none
  | 0x4B => if bitsN x 25 2 ≤ 1 then some (.fma (bitN x 25) true false rd a b (bitsN x 27 5) f3) else none
  | 0x4F => if bitsN x 25 2 ≤ 1 then some (.fma (bitN x 25) true true rd a b (bitsN x 27 5) f3) else none
  | 0x53 => if rvFopOk (bitsN x 27 5) (bitsN x 25 2) b f3 then some (.fop (bitsN x 27 5) (bitN x 25) rd a b f3) else none
  | _ => none

/-- A compressed instruction of quadrant 0. -/
def rvc0 (x : Nat) : Option Rv :=
  let rd := 8 + bitsN x 2 3
  let a := 8 + bitsN x 7 3
  let offD := BitVec.ofNat 64 (bitsN x 10 3 * 8 + bitsN x 5 2 * 64)
  let offW := BitVec.ofNat 64 (bitsN x 10 3 * 8 + bitsN x 6 1 * 4 + bitsN x 5 1 * 64)
  let spn := bitsN x 11 2 * 16 + bitsN x 7 4 * 64 + bitsN x 6 1 * 4 + bitsN x 5 1 * 8
  match bitsN x 13 3 with
  | 0 => if spn = 0 then none else some (.alui .add false rd 2 (BitVec.ofNat 64 spn))
  | 1 => some (.fload true rd a offD)
  | 2 => some (.load 2 rd a offW)
  | 3 => some (.load 3 rd a offD)
  | 5 => some (.fstore true a rd offD)
  | 6 => some (.store 2 a rd offW)
  | 7 => some (.store 3 a rd offD)
  | _ => none

/-- A compressed instruction of quadrant 1. -/
def rvc1 (x : Nat) : Option Rv :=
  let rd := bitsN x 7 5
  let r := 8 + bitsN x 7 3
  let b := 8 + bitsN x 2 3
  let n6 := bitsN x 12 1 * 32 + bitsN x 2 5
  let imm := sx 6 n6
  let sh := BitVec.ofNat 64 n6
  let jump := sx 12 (bitsN x 12 1 * 2048 + bitsN x 11 1 * 16 + bitsN x 9 2 * 256 + bitsN x 8 1 * 1024 + bitsN x 7 1 * 64 +
    bitsN x 6 1 * 128 + bitsN x 3 3 * 2 + bitsN x 2 1 * 32)
  let br := sx 9 (bitsN x 12 1 * 256 + bitsN x 10 2 * 8 + bitsN x 5 2 * 64 + bitsN x 3 2 * 2 + bitsN x 2 1 * 32)
  let sp := sx 10 (bitsN x 12 1 * 512 + bitsN x 6 1 * 16 + bitsN x 5 1 * 64 + bitsN x 3 2 * 128 + bitsN x 2 1 * 32)
  match bitsN x 13 3 with
  | 0 => some (.alui .add false rd rd imm)
  | 1 => if rd = 0 then none else some (.alui .add true rd rd imm)
  | 2 => some (.const rd imm)
  | 3 =>
    if n6 = 0 then none
    else if rd = 2 then some (.alui .add false 2 2 sp)
    else some (.const rd (imm <<< 12))
  | 4 =>
    match bitsN x 10 2 with
    | 0 => some (.alui .srl false r r sh)
    | 1 => some (.alui .sra false r r sh)
    | 2 => some (.alui .and false r r imm)
    | _ =>
      match bitsN x 12 1, bitsN x 5 2 with
      | 0, 0 => some (.alu .sub false r r b)
      | 0, 1 => some (.alu .xor false r r b)
      | 0, 2 => some (.alu .or false r r b)
      | 0, _ => some (.alu .and false r r b)
      | _, 0 => some (.alu .sub true r r b)
      | _, 1 => some (.alu .add true r r b)
      | _, _ => none
  | 5 => some (.jal 0 jump)
  | 6 => some (.branch 0 r 0 br)
  | _ => some (.branch 1 r 0 br)

/-- A compressed instruction of quadrant 2. -/
def rvc2 (x : Nat) : Option Rv :=
  let rd := bitsN x 7 5
  let b := bitsN x 2 5
  let sh := BitVec.ofNat 64 (bitsN x 12 1 * 32 + b)
  let lw := BitVec.ofNat 64 (bitsN x 12 1 * 32 + bitsN x 4 3 * 4 + bitsN x 2 2 * 64)
  let ld := BitVec.ofNat 64 (bitsN x 12 1 * 32 + bitsN x 5 2 * 8 + bitsN x 2 3 * 64)
  let sw := BitVec.ofNat 64 (bitsN x 9 4 * 4 + bitsN x 7 2 * 64)
  let sd := BitVec.ofNat 64 (bitsN x 10 3 * 8 + bitsN x 7 3 * 64)
  match bitsN x 13 3 with
  | 0 => some (.alui .sll false rd rd sh)
  | 1 => some (.fload true rd 2 ld)
  | 2 => if rd = 0 then none else some (.load 2 rd 2 lw)
  | 3 => if rd = 0 then none else some (.load 3 rd 2 ld)
  | 4 =>
    if bitsN x 12 1 = 0 then
      if b = 0 then (if rd = 0 then none else some (.jalr 0 rd 0#64)) else some (.alu .add false rd 0 b)
    else if b = 0 then (if rd = 0 then none else some (.jalr 1 rd 0#64))
    else some (.alu .add false rd rd b)
  | 5 => some (.fstore true 2 b sd)
  | 6 => some (.store 2 2 b sw)
  | _ => some (.store 3 2 b sd)

/-- A compressed instruction. -/
def rvDecodeC (x : Nat) : Option Rv :=
  match x % 4 with
  | 0 => rvc0 x
  | 1 => rvc1 x
  | 2 => rvc2 x
  | _ => none

/-! Integer results. -/

/-- An integer operation on `n`-bit values. -/
def rvAluN (n : Nat) (op : RvAlu) (x y : BitVec n) : BitVec n :=
  let sh := y.toNat % n
  match op with
  | .add => x + y
  | .sub => x - y
  | .sll => x <<< sh
  | .slt => if x.slt y then 1 else 0
  | .sltu => if x.ult y then 1 else 0
  | .xor => x ^^^ y
  | .srl => x >>> sh
  | .sra => x.sshiftRight sh
  | .or => x ||| y
  | .and => x &&& y
  | .mul => x * y
  | .mulh => BitVec.ofInt n (x.toInt * y.toInt / 2 ^ n)
  | .mulhsu => BitVec.ofInt n (x.toInt * (y.toNat : Int) / 2 ^ n)
  | .mulhu => BitVec.ofNat n (x.toNat * y.toNat / 2 ^ n)
  | .div => if y.toNat = 0 then BitVec.allOnes n else BitVec.ofInt n (x.toInt.tdiv y.toInt)
  | .divu => if y.toNat = 0 then BitVec.allOnes n else BitVec.ofNat n (x.toNat / y.toNat)
  | .rem => if y.toNat = 0 then x else BitVec.ofInt n (x.toInt.tmod y.toInt)
  | .remu => if y.toNat = 0 then x else BitVec.ofNat n (x.toNat % y.toNat)

/-- An integer operation of a register width, or of 32 bits sign-extended. -/
def rvAlu (op : RvAlu) (w : Bool) (x y : DWord) : DWord :=
  if w then (rvAluN 32 op (lo32 x) (lo32 y)).signExtend 64 else rvAluN 64 op x y

/-- A branch's condition. -/
def rvBranch (f3 : Nat) (x y : DWord) : Bool :=
  match f3 with
  | 0 => x == y
  | 1 => x != y
  | 4 => x.slt y
  | 5 => !x.slt y
  | 6 => x.ult y
  | _ => !x.ult y

/-- What an AMO stores (A). -/
def rvAmo (f5 : Nat) {n : Nat} (m y : BitVec n) : BitVec n :=
  match f5 with
  | 0x00 => m + y
  | 0x01 => y
  | 0x04 => m ^^^ y
  | 0x08 => m ||| y
  | 0x0C => m &&& y
  | 0x10 => if m.slt y then m else y
  | 0x14 => if m.slt y then y else m
  | 0x18 => if m.ult y then m else y
  | _ => if m.ult y then y else m

/-! Floating results (F, D). -/

/-- Double precision. -/
def Fmt.f64 : Fmt := ⟨64, 11, 52, 1023, true, .ieee⟩
/-- The format of an operation. -/
def rvFmt (d : Bool) : Fmt := if d then .f64 else .f32

/-- Read a floating register: a single that is not boxed reads as the canonical NaN. -/
def rvUnbox (d : Bool) (x : DWord) : Nat :=
  if d then x.toNat else if hi32 x = BitVec.allOnes 32 then (lo32 x).toNat else 0x7FC00000

/-- A result as a floating register holds it. -/
def rvBox (d : Bool) (x : Nat) : DWord := if d then BitVec.ofNat 64 x else pair (BitVec.allOnes 32) (BitVec.ofNat 32 x)

/-- The rounding mode of an instruction, through frm where it is dynamic. -/
def rvRound (rm frm : Nat) : Option Rnd :=
  match (if rm = 7 then frm else rm) with
  | 0 => some .rne
  | 1 => some .rtz
  | 2 => some .rdn
  | 3 => some .rup
  | 4 => some .rna
  | _ => none

/-- Rounding with nothing else. -/
def rvRm (r : Rnd) : RM := ⟨r, false, .none, 0⟩

/-- fflags (NX, UF, OF, DZ, NV from bit 0) of the flags of R119. -/
def rvFlags (f : BitVec 8) : BitVec 8 :=
  (if f &&& fNX = 0#8 then 0#8 else 1#8) ||| (if f &&& fUF = 0#8 then 0#8 else 2#8) ||| (if f &&& fOF = 0#8 then 0#8 else 4#8) |||
  (if f &&& fDZ = 0#8 then 0#8 else 8#8) ||| (if f &&& fNV = 0#8 then 0#8 else 16#8)

/-- The quotient of two values, to 2^-70 of its magnitude and the rest as `more`. -/
def rvDiv (x y : Num) : Num × BitVec 8 :=
  match x, y with
  | .nan _ _, _ => (.nan false false, 0#8)
  | _, .nan _ _ => (.nan false false, 0#8)
  | .inf _, .inf _ => (.nan false false, fNV)
  | .inf a, .fin b _ _ _ => (.inf (a != b), 0#8)
  | .fin a _ _ _, .inf b => (.fin (a != b) 0 0 false, 0#8)
  | .fin a m e _, .fin b n k _ =>
    if n = 0 then (if m = 0 then (.nan false false, fNV) else (.inf (a != b), fDZ))
    else if m = 0 then (.fin (a != b) 0 0 false, 0#8)
    else
      let t : Nat := 130
      (.fin (a != b) (m * 2 ^ t / n) (e - k - (t : Int)) (m * 2 ^ t % n != 0), 0#8)

/-- The square root of a value, likewise. -/
def rvSqrt (x : Num) : Num × BitVec 8 :=
  match x with
  | .nan _ _ => (.nan false false, 0#8)
  | .inf neg => if neg then (.nan false false, fNV) else (.inf false, 0#8)
  | .fin neg m e _ =>
    if m = 0 then (.fin neg 0 0 false, 0#8)
    else if neg then (.nan false false, fNV)
    else
      let (m, e) := if e % 2 = 0 then (m, e) else (2 * m, e - 1)
      let v := m * 2 ^ 160
      let r := isqrt v
      (.fin false r (e / 2 - 80) (r * r != v), 0#8)

/-- A value with its sign changed. -/
def Num.negate : Num → Num
  | .nan s q => .nan s q
  | .inf s => .inf (!s)
  | .fin s m e more => .fin (!s) m e more

/-- Round a value into a format with its flags. -/
def rvPack (f : Fmt) (r : Rnd) (v : Num) (fl : BitVec 8) : Nat × BitVec 8 :=
  let (x, g) := match v with
    | .nan _ _ => (f.nanCode false, 0#8)
    | v => f.pack false (rvRm r) v
  (x, rvFlags (fl ||| g))

/-- FMADD, FMSUB, FNMSUB, FNMADD. -/
def rvFma (d negP negC : Bool) (r : Rnd) (a b c : Nat) : Nat × BitVec 8 :=
  let f := rvFmt d
  let x := f.decode false a
  let y := f.decode false b
  let z := f.decode false c
  let (p, fl) := mulNum x y
  let (v, fl') := addNum r (if negP then p.negate else p) (if negC then z.negate else z)
  rvPack f r v (sigFlag [x, y, z] ||| fl ||| fl')

/-- FADD, FSUB, FMUL, FDIV, FSQRT. -/
def rvArith (d : Bool) (f5 : Nat) (r : Rnd) (a b : Nat) : Nat × BitVec 8 :=
  let f := rvFmt d
  let x := f.decode false a
  let y := f.decode false b
  let sig := if f5 = 0x0B then sigFlag [x] else sigFlag [x, y]
  let (v, fl) := match f5 with
    | 0x00 => addNum r x y
    | 0x01 => addNum r x y.negate
    | 0x02 => mulNum x y
    | 0x03 => rvDiv x y
    | _ => rvSqrt x
  rvPack f r v (sig ||| fl)

/-- FSGNJ, FSGNJN, FSGNJX. -/
def rvSign (d : Bool) (rm a b : Nat) : Nat :=
  let s := 2 ^ ((rvFmt d).width - 1)
  let sb := decide (s ≤ b)
  let sa := decide (s ≤ a)
  let neg := match rm with
    | 0 => sb
    | 1 => !sb
    | _ => sa != sb
  a % s + (if neg then s else 0)

/-- FMIN, FMAX: a NaN yields the other operand, −0 is below +0. -/
def rvMinMax (d isMax : Bool) (a b : Nat) : Nat × BitVec 8 :=
  let f := rvFmt d
  let x := f.decode false a
  let y := f.decode false b
  let less := x.lt y || (x.same y && x.neg && !y.neg)
  let v := if x.isNan && y.isNan then f.nanCode false
    else if x.isNan then b
    else if y.isNan then a
    else if less != isMax then a else b
  (v, rvFlags (sigFlag [x, y]))

/-- FLE, FLT, FEQ. -/
def rvCompare (d : Bool) (rm a b : Nat) : Bool × BitVec 8 :=
  let f := rvFmt d
  let x := f.decode false a
  let y := f.decode false b
  if x.isNan || y.isNan then (false, if rm = 2 then rvFlags (sigFlag [x, y]) else 16#8)
  else
    match rm with
    | 0 => (!y.lt x, 0#8)
    | 1 => (x.lt y, 0#8)
    | _ => (x.same y, 0#8)

/-- FCLASS. -/
def rvClass (d : Bool) (a : Nat) : Nat :=
  let f := rvFmt d
  match f.decode false a with
  | .nan _ s => if s then 2 ^ 8 else 2 ^ 9
  | .inf neg => if neg then 1 else 2 ^ 7
  | .fin neg m _ _ =>
    if m = 0 then (if neg then 2 ^ 3 else 2 ^ 4)
    else if bitsN a f.mw f.ew = 0 then (if neg then 2 ^ 2 else 2 ^ 5)
    else if neg then 2 ^ 1 else 2 ^ 6

/-- FCVT to an integer: width, sign; out of range or NaN gives the nearest limit with NV. -/
def rvToInt (d : Bool) (b : Nat) (r : Rnd) (a : Nat) : DWord × BitVec 8 :=
  let w := if b ≤ 1 then 32 else 64
  let signed := b % 2 == 0
  let lo : Int := if signed then -(2 ^ (w - 1)) else 0
  let hi : Int := if signed then 2 ^ (w - 1) - 1 else 2 ^ w - 1
  let (v, fl) : Int × BitVec 8 := match (rvFmt d).decode false a with
    | .nan _ _ => (hi, 16#8)
    | .inf neg => (if neg then lo else hi, 16#8)
    | .fin neg m e more =>
      let (q, inexact) := roundMag (rvRm r) neg m e more 0
      let v : Int := if neg then -(q : Int) else q
      if v < lo then (lo, 16#8) else if hi < v then (hi, 16#8) else (v, if inexact then 1#8 else 0#8)
  (sx w ((v % 2 ^ w).toNat), fl)

/-- FCVT from an integer. -/
def rvOfInt (d : Bool) (b : Nat) (r : Rnd) (x : DWord) : Nat × BitVec 8 :=
  let v : Int := match b with
    | 0 => (lo32 x).toInt
    | 1 => ((lo32 x).toNat : Int)
    | 2 => x.toInt
    | _ => (x.toNat : Int)
  rvPack (rvFmt d) r (ofInt v) 0#8

/-- FCVT between the two formats; `d` is the destination. -/
def rvCross (d : Bool) (r : Rnd) (a : Nat) : Nat × BitVec 8 :=
  let x := (rvFmt (!d)).decode false a
  rvPack (rvFmt d) r x (sigFlag [x])

end Sys2Proof.Machine
end

