-- ==== Sys2Proof/Machine/Episodes.lean ====
section
/-! DEFINITION. Episodes (R300 to R302, R306 to R311): their memory and mailbox pages, one RV64 instruction in user mode, services,
the watchdog, creation and end. -/

namespace Sys2Proof.Machine

open Sys2Proof

/-! Address space (R301, R306). -/

/-- The physical byte of an address in an episode's own memory. -/
def Episode.byte (e : Episode) (va : DWord) : Option Nat :=
  (SMap.get? e.pages (va.toNat / 4096)).map (fun p => p * 4096 + va.toNat % 4096)

/-- The physical bytes of an access; none where a page is missing. -/
def Episode.bytes (e : Episode) (va : DWord) (n : Nat) : Option (List Nat) :=
  (List.range n).foldr (fun k acc => match acc, e.byte (va + BitVec.ofNat 64 k) with
    | some l, some p => some (p :: l)
    | _, _ => none) (some [])

/-- The mailboxes that an episode's pages show, each with its page index: those that serve it (R306). -/
def shown (s : State) (e : Episode) : List (Nat × Nat) := e.mailboxes.filter (fun p => (s.mailbox e.die p.2).serves e)

/-- The mailbox page and the offset in it that an address names. -/
def boxAt (s : State) (e : Episode) (va : DWord) : Option (Nat × Nat) :=
  (SMap.get? (shown s e) (va.toNat / 4096)).map (fun m => (m, va.toNat % 4096))

/-- Bytes of an episode's memory, from the home of each. -/
def epRead (s : State) (ps : List Nat) : List Byte := ps.map (fun p => s.readMem (homeDie p) ⟨false, p⟩)

/-- Write bytes of an episode's memory, in every copy. -/
def epWrite (s : State) (ps : List Nat) (bs : List Byte) : State :=
  (ps.zip bs).foldl (fun s pb => (List.range 9).foldl (fun s d => s.modDie d (fun x =>
    { x with copy := { x.copy with bytes := writeByte x.copy.bytes pb.1 pb.2 } })) s) s

/-- A write of an unscrubbed line waits for its clear (R374). -/
def epBlocked (s : State) (ps : List Nat) : Bool := ps.any (fun p => s.blocked ⟨false, p⟩)

/-- The access moves the clears of its frames to the head (R374). -/
def epTouch (s : State) (ps : List Nat) : State := ps.foldl (fun s p => s.touchFrame p) s

/-! The mailbox page (R306 to R308). -/

/-- MBSTAT (R307). -/
def mbstat (b : Mailbox) : DWord :=
  BitVec.ofNat 64 (b.waiting.length + 16 * b.opened.length + 256 * (8 - b.obs.length) + (if b.refused then 4096 else 0) +
    (if b.bound then 8192 else 0) + b.episode * 2 ^ 32)

/-- A byte of a mailbox page. -/
def mbByte (b : Mailbox) (o : Nat) : Byte :=
  let at' (bs : List Byte) (k : Nat) : Byte := (bs[k]?).getD 0
  if o < 16 then ((b.waiting.head?).map (fun m => at' m.header o)).getD 0
  else if 64 ≤ o ∧ o < 128 then ((b.waiting.head?).map (fun m => at' m.payload (o - 64))).getD 0
  else if 128 ≤ o ∧ o < 136 then byteOf (mbstat b) (o - 128)
  else if 256 ≤ o ∧ o < 320 then at' b.obspay (o - 256)
  else if o = 320 then b.obsstat
  else 0

/-- Whether any action of an episode's mailboxes is open (R310). -/
def anyOpen (s : State) (e : Episode) : Bool := (shown s e).any (fun p => !(s.mailbox e.die p.2).opened.isEmpty)

/-- The watchdog's count of an episode's core starts again (R310). -/
def clearCount (s : State) (e : Episode) : State := s.modPcore e.die e.core (fun p => { p with count := 0 })

/-- MBPOP (R308): the oldest waiting action opens. -/
def popAction (s : State) (e : Episode) (m : Nat) : State :=
  let b := s.mailbox e.die m
  match b.waiting with
  | [] => s.modMailbox e.die m (fun b => { b with refused := true })
  | a :: rest =>
    let s := if anyOpen s e then s else clearCount s e
    s.modMailbox e.die m (fun b => { b with waiting := rest, opened := b.opened ++ [a], refused := false })

/-- MBPUSH (R308): an observation answers the oldest open action. -/
def pushObs (s : State) (e : Episode) (m : Nat) : State :=
  let b := s.mailbox e.die m
  match b.opened with
  | [] => s.modMailbox e.die m (fun b => { b with refused := true })
  | a :: rest =>
    if 8 ≤ b.obs.length ∨ (1 ≤ b.obsstat.toNat ∧ b.obsstat.toNat ≤ 15) then s.modMailbox e.die m (fun b => { b with refused := true })
    else
      let o := answerTo a b.obsstat (s.ownersOf b.vd b.lbl) b.obspay
      clearCount (s.modMailbox e.die m (fun b => { b with
        opened := rest, obs := b.obs ++ [o], obspay := zeros 64, refused := false })) e

/-! One instruction. -/

/-- What an instruction was, beside its effect on the core. -/
inductive RvAct where
  | plain
  /-- an accepted or refused store to MBPOP -/
  | pop
  /-- a store to MBPUSH -/
  | push
  /-- a load of MBSTAT -/
  | stat
  /-- ECALL with service 0, or WFI -/
  | await
  /-- ECALL with service 1: the exit code -/
  | finish (code : DWord)
  deriving DecidableEq, Repr

/-- How an instruction ends: it cannot run yet, takes an exception, or acts. -/
inductive RvOut where
  | stall
  | exn
  | go (act : RvAct) (s : State)
  deriving Repr

/-- An integer register. -/
def PCore.reg (p : PCore) (r : Nat) : DWord := if r = 0 then 0#64 else (p.x[r]?).getD 0#64
/-- Write an integer register; x0 stays zero. -/
def PCore.put (p : PCore) (r : Nat) (v : DWord) : PCore := if r = 0 then p else { p with x := setAt p.x r v }
/-- A floating register. -/
def PCore.freg (p : PCore) (r : Nat) : DWord := (p.f[r]?).getD 0#64
/-- Write a floating register and join flags into fcsr. -/
def PCore.fput (p : PCore) (r : Nat) (v : DWord) (fl : BitVec 8) : PCore := { p with f := setAt p.f r v, fcsr := p.fcsr ||| fl }
/-- frm. -/
def PCore.frm (p : PCore) : Nat := (field p.fcsr 5 3).toNat

/-- Replace a core. -/
def setPcore (s : State) (e : Episode) (p : PCore) : State := s.modPcore e.die e.core (fun _ => p)

/-- A load of `n` bytes into a register by `f`: from memory, misaligned or not, or aligned from a mailbox page (R301, R306). -/
def rvLoad (s : State) (e : Episode) (next : PCore) (va : DWord) (n : Nat) (f : PCore → List Byte → PCore) : RvOut :=
  match e.bytes va n with
  | some ps => .go .plain (setPcore (epTouch s ps) e (f next (epRead s ps)))
  | none =>
    match boxAt s e va with
    | none => .exn
    | some (m, o) =>
      if (n = 4 ∨ n = 8) ∧ o % n = 0 then
        let b := s.mailbox e.die m
        let bs := (List.range n).map (fun k => mbByte b (o + k))
        let stat := decide (128 ≤ o) && decide (o < 136)
        let s := if stat && o == 128 then s.modMailbox e.die m (fun b => { b with refused := false }) else s
        .go (if stat then .stat else .plain) (setPcore s e (f next bs))
      else .exn

/-- A store of bytes (R301, R306). -/
def rvStore (s : State) (e : Episode) (next : PCore) (va : DWord) (bs : List Byte) : RvOut :=
  let n := bs.length
  match e.bytes va n with
  | some ps => if epBlocked s ps then .stall else .go .plain (setPcore (epWrite (epTouch s ps) ps bs) e next)
  | none =>
    match boxAt s e va with
    | none => .exn
    | some (m, o) =>
      if !((n == 4 || n == 8) && o % n == 0) then .exn
      else
        let s := setPcore s e next
        if 136 ≤ o ∧ o < 144 then .go .pop (popAction s e m)
        else if 328 ≤ o ∧ o < 336 then .go .push (pushObs s e m)
        else if 256 ≤ o ∧ o < 320 then
          .go .plain (s.modMailbox e.die m (fun b => { b with obspay := writeAt b.obspay (o - 256) bs }))
        else if 320 ≤ o ∧ o < 328 then
          .go .plain (if o = 320 then s.modMailbox e.die m (fun b => { b with obsstat := (bs.head?).getD 0 }) else s)
        else .exn
where
  writeAt (xs : List Byte) (i : Nat) (bs : List Byte) : List Byte := slice xs 0 i ++ bs ++ slice xs (i + bs.length) (xs.length - i - bs.length)

/-- Extend a loaded value by the code of the load. -/
def rvExtend (f3 : Nat) (bs : List Byte) : DWord :=
  if f3 < 3 then sx (8 * bs.length) (ofBytesN bs) else BitVec.ofNat 64 (ofBytesN bs)

/-- LR, SC and the AMOs: aligned, in memory only (R301). -/
def rvAtomic (s : State) (e : Episode) (p next : PCore) (f5 : Nat) (w : Bool) (rd a b : Nat) : RvOut :=
  let n := if w then 4 else 8
  let va := p.reg a
  match (if va.toNat % n = 0 then e.bytes va n else none) with
  | none => .exn
  | some ps =>
    let old := epRead s ps
    let v : DWord := sx (8 * n) (ofBytesN old)
    let s' := epTouch s ps
    let pa := (ps.head?).getD 0
    if f5 = 2 then .go .plain (setPcore s' e { next.put rd v with reserve := some pa })
    else if f5 = 3 ∧ p.reserve ≠ some pa then .go .plain (setPcore s' e { next.put rd 1#64 with reserve := none })
    else if epBlocked s ps then .stall
    else if f5 = 3 then
      .go .plain (setPcore (epWrite s' ps (toBytes (p.reg b) n)) e { next.put rd 0#64 with reserve := none })
    else
      let bs := if w then toBytes (rvAmo f5 (lo32 v) (lo32 (p.reg b))) 4 else toBytes (rvAmo f5 v (p.reg b)) 8
      .go .plain (setPcore (epWrite s' ps bs) e (next.put rd v))

/-- A CSR instruction: fflags, frm and fcsr are the ones that user mode has. -/
def rvCsr (s : State) (e : Episode) (p next : PCore) (f3 rd a n : Nat) : RvOut :=
  let whole : Nat := p.fcsr.toNat
  let src : Nat := if 4 ≤ f3 then a else (p.reg a).toNat
  let edit (lo wd : Nat) : RvOut :=
    let old := bitsN whole lo wd
    let mask := src % 2 ^ wd
    let new := if f3 % 4 = 1 then mask else if f3 % 4 = 2 then Nat.lor old mask else old - Nat.land old mask
    let q := if f3 % 4 ≠ 1 ∧ a = 0 then next
      else { next with fcsr := BitVec.ofNat 8 (whole - old * 2 ^ lo + new * 2 ^ lo) }
    .go .plain (setPcore s e (q.put rd (BitVec.ofNat 64 old)))
  match n with
  | 1 => edit 0 5
  | 2 => edit 5 3
  | 3 => edit 0 8
  | _ => .exn

/-- An OP-FP instruction. -/
def rvFop (s : State) (e : Episode) (p next : PCore) (f5 : Nat) (d : Bool) (rd a b rm : Nat) : RvOut :=
  let x := rvUnbox d (p.freg a)
  let y := rvUnbox d (p.freg b)
  let done (q : PCore) : RvOut := .go .plain (setPcore s e q)
  let toF (r : Nat × BitVec 8) : RvOut := done (next.fput rd (rvBox d r.1) r.2)
  let rounded (f : Rnd → RvOut) : RvOut := match rvRound rm p.frm with
    | some r => f r
    | none => .exn
  match f5 with
  | 0x04 => toF (rvSign d rm x y, 0#8)
  | 0x05 => toF (rvMinMax d (rm == 1) x y)
  | 0x08 => rounded (fun r => toF (rvCross d r (rvUnbox (!d) (p.freg a))))
  | 0x14 =>
    let c := rvCompare d rm x y
    done ({ next with fcsr := next.fcsr ||| c.2 }.put rd (if c.1 then 1#64 else 0#64))
  | 0x18 => rounded (fun r =>
    let c := rvToInt d b r x
    done ({ next with fcsr := next.fcsr ||| c.2 }.put rd c.1))
  | 0x1A => rounded (fun r => toF (rvOfInt d b r (p.reg a)))
  | 0x1C =>
    done (next.put rd (if rm = 1 then BitVec.ofNat 64 (rvClass d x) else if d then p.freg a else sx 32 (p.freg a).toNat))
  | 0x1E => done (next.fput rd (if d then p.reg a else pair (BitVec.allOnes 32) (lo32 (p.reg a))) 0#8)
  | _ => rounded (fun r => toF (rvArith d f5 r x y))

/-- An instruction of an episode; `next` is the core with its PC at the sequential successor. -/
def rvExec (s : State) (e : Episode) (p next : PCore) (i : Rv) : RvOut :=
  let done (q : PCore) : RvOut := .go .plain (setPcore s e q)
  match i with
  | .const rd v => done (next.put rd v)
  | .pcrel rd v => done (next.put rd (p.pc + v))
  | .jal rd o => done { next.put rd next.pc with pc := p.pc + o }
  | .jalr rd a o => done { next.put rd next.pc with pc := (p.reg a + o) &&& ~~~1#64 }
  | .branch f3 a b o => done (if rvBranch f3 (p.reg a) (p.reg b) then { next with pc := p.pc + o } else next)
  | .load f3 rd a o => rvLoad s e next (p.reg a + o) (2 ^ (f3 % 4)) (fun q bs => q.put rd (rvExtend f3 bs))
  | .store f3 a b o => rvStore s e next (p.reg a + o) (toBytes (p.reg b) (2 ^ f3))
  | .alui op w rd a v => done (next.put rd (rvAlu op w (p.reg a) v))
  | .alu op w rd a b => done (next.put rd (rvAlu op w (p.reg a) (p.reg b)))
  | .fence => done next
  | .ecall =>
    match (p.reg 17).toNat with
    | 0 => .go .await s
    | 1 => .go (.finish (p.reg 10)) s
    | _ => done (next.put 10 (BitVec.allOnes 64))
  | .wfi => .go .await s
  | .csr f3 rd a n => rvCsr s e p next f3 rd a n
  | .amo f5 w rd a b => rvAtomic s e p next f5 w rd a b
  | .fload d rd a o => rvLoad s e next (p.reg a + o) (if d then 8 else 4) (fun q bs => q.fput rd (rvBox d (ofBytesN bs)) 0#8)
  | .fstore d a b o => rvStore s e next (p.reg a + o) (toBytes (p.freg b) (if d then 8 else 4))
  | .fma d np nc rd a b c rm =>
    match rvRound rm p.frm with
    | none => .exn
    | some r =>
      let v := rvFma d np nc r (rvUnbox d (p.freg a)) (rvUnbox d (p.freg b)) (rvUnbox d (p.freg c))
      done (next.fput rd (rvBox d v.1) v.2)
  | .fop f5 d rd a b rm => rvFop s e p next f5 d rd a b rm

/-- The length of the instruction at an episode's PC, and the instruction where it is one. -/
def rvFetch (s : State) (e : Episode) (pc : DWord) : Option (Nat × Option Rv) :=
  match e.bytes pc 2 with
  | none => none
  | some ps =>
    let lo := ofBytesN (epRead s ps)
    if lo % 4 ≠ 3 then some (2, rvDecodeC lo)
    else
      match e.bytes (pc + 2#64) 2 with
      | none => none
      | some qs => some (4, rvDecode (lo + 65536 * ofBytesN (epRead s qs)))

/-- The live episode of a core. -/
def episodeOn (s : State) (d c : Nat) : Option Episode := s.episodes.find? (fun e => e.die == d && e.core == c)

/-- Whether the count of an episode's core exceeds its budget: the watchdog freezes the core before it runs on (R310). -/
def overBudget (s : State) (e : Episode) : Bool := e.budget != 0 && decide (e.budget < (s.pcore e.die e.core).count) && anyOpen s e

/-- Whether a core runs its episode. -/
def coreRuns (s : State) (e : Episode) : Bool :=
  let p := s.pcore e.die e.core
  !p.awaiting && !p.frozen && !p.stopped && !(s.die e.die).fenced && !overBudget s e

/-- Cycles pass while an action is open (R310): at least one for each instruction. -/
def countCycle (s : State) (e : Episode) : State :=
  if anyOpen s e then s.modPcore e.die e.core (fun p => { p with count := p.count + 1 }) else s

/-- The next instruction of a core's episode. -/
def rvStep (s : State) (d c : Nat) : Option (Episode × RvOut) :=
  match episodeOn s d c with
  | none => none
  | some e =>
    if !coreRuns s e then none
    else
      let p := s.pcore d c
      match rvFetch s e p.pc with
      | none => some (e, .exn)
      | some (_, none) => some (e, .exn)
      | some (n, some i) => some (e, rvExec (countCycle s e) e p { (countCycle s e).pcore d c with pc := p.pc + BitVec.ofNat 64 n } i)

/-! End of an episode (R302, R311). -/

/-- The mailboxes of a die that serve an episode. -/
def boxesOf (s : State) (e : Episode) : List Nat :=
  ((s.die e.die).mailboxes.filter (fun x => x.2.serves e)).map (fun x => x.1)

/-- An episode ends: its core stops, its mailboxes answer, its frames are marked unscrubbed, and the VD is told the exit code. -/
def endEpisode (s : State) (e : Episode) (code : DWord) : State :=
  let s := s.modPcore e.die e.core (fun p => { PCore.reset with stopped := p.stopped, satp := p.satp, pmp := p.pmp })
  let s := (boxesOf s e).foldl (fun s m =>
    settleBox (s.modMailbox e.die m (fun b => { b with ended := b.enable, frozen := false })) e.die m) s
  let s := ((e.pages.map (fun p => p.2 / 16)).dedup).foldl (fun s f => s.markFrame f) s
  let s := { s with episodes := s.episodes.filter (fun x => !(x.die == e.die && x.id == e.id)) }
  vdEvent s e.vd (s.vd e.vd).gen 4 (le 2 e.id ++ toBytes code 8)

/-! Steps of the cores. -/

/-- The lowest page index of an episode's mailboxes that has an action waiting (R301). -/
def lowestWaiting (s : State) (e : Episode) : Option Nat :=
  (sortOn id ((shown s e).map (fun p => p.2))).find? (fun m => !(s.mailbox e.die m).waiting.isEmpty)

/-- AWAIT returns. -/
def awaitReturn (s : State) (e : Episode) (m : Nat) : State :=
  let p := s.pcore e.die e.core
  setPcore s e { p.put 10 (BitVec.ofNat 64 m) with pc := p.pc + 4#64, awaiting := false }

/-- AWAIT (R301): service 0, or WFI: returns at once where an action waits, blocks otherwise. -/
def execAwait (die core : Nat) (s : State) : Out :=
  match rvStep s die core with
  | some (e, .go .await t) =>
    match lowestWaiting t e with
    | some m => did (awaitReturn t e m)
    | none => did (t.modPcore die core (fun p => { p with awaiting := true }))
  | _ => off s

/-- AWAIT_WAKE (R301): an action waits for an episode that is blocked. -/
def execAwaitWake (die core : Nat) (s : State) : Out :=
  match episodeOn s die core with
  | none => off s
  | some e =>
    let p := s.pcore die core
    if !p.awaiting || p.frozen || p.stopped || (s.die die).fenced then off s
    else
      match lowestWaiting s e with
      | some m => did (awaitReturn s e m)
      | none => off s

/-- END (R301): service 1 ends the episode; a0 is its exit code. -/
def execEnd (die core : Nat) (s : State) : Out :=
  match rvStep s die core with
  | some (e, .go (.finish code) t) => did (endEpisode t e code)
  | _ => off s

/-- U_MODE_EXCEPTION (R301): the episode ends with exit code −2. -/
def execUModeException (die core : Nat) (s : State) : Out :=
  match rvStep s die core with
  | some (e, .exn) => did (endEpisode s e (BitVec.allOnes 64 - 1#64))
  | _ => off s

/-- Run the next instruction of a core where it is of a kind. -/
def runKind (die core : Nat) (k : RvAct) (s : State) : Out :=
  match rvStep s die core with
  | some (_, .go a t) => if a = k then did t else off s
  | _ => off s

/-- MBPOP (R308): the core's store to MBPOP. -/
def execMbpop (die core : Nat) (s : State) : Out := runKind die core .pop s
/-- MBPUSH (R308): the core's store to MBPUSH. -/
def execMbpush (die core : Nat) (s : State) : Out := runKind die core .push s
/-- MBSTAT_READ (R307): the core's load of MBSTAT; one of its low word clears refused. -/
def execMbstatRead (die core : Nat) (s : State) : Out := runKind die core .stat s
/-- EPISODE_INSTRUCTION (R300, R301, R306): any other instruction of an episode. -/
def execEpisodeInstruction (die core : Nat) (s : State) : Out := runKind die core .plain s

/-- WATCHDOG (R310): the count of cycles exceeds the budget: the core freezes and its mailboxes answer. -/
def execWatchdog (die core cycles : Nat) (s : State) : Out :=
  match episodeOn s die core with
  | none => off s
  | some e =>
    let p := s.pcore die core
    if e.budget = 0 ∨ cycles ≤ e.budget ∨ cycles < p.count ∨ !anyOpen s e ∨ p.frozen ∨ p.stopped ∨ (s.die die).fenced then off s
    else
      let s := s.modPcore die core (fun p => { p with frozen := true, count := cycles })
      did ((boxesOf s e).foldl (fun s m => settleBox (s.modMailbox die m (fun b => { b with frozen := true })) die m) s)

/-- misa of every Poleile core (R300): MXL 2; A, C, D, F, I, M, S, U. -/
def misa : DWord := 0x800000000014112D#64

/-- The table entries that a walk can reach from a table: the address and the bits of each valid one (R368). -/
def entriesOf (s : State) : Nat → Nat → List (Nat × BitVec 128)
  | level, table =>
    ((List.range 2048).map (fun i =>
      let a := table * 65536 + 16 * i
      let e := s.tableEntry a
      if !leafBit e 0 then []
      else if leafBit e 1 then [(a, e)]
      else
        match level with
        | 0 => [(a, e)]
        | k + 1 => (a, e) :: entriesOf s k (leafFrame e))).flatten

/-- The entries of a VD's tables. -/
def tableEntries (s : State) (v : Nat) : List (Nat × BitVec 128) :=
  ((s.vd v).roots.map (fun r => if r.getLsbD 0 then entriesOf s 3 (r.toNat / 65536) else [])).flatten

/-- The HBM frames that a VD maps. -/
def mappedFrames (s : State) (v : Nat) : List Nat :=
  (((tableEntries s v).filter (fun e => leafBit e.2 1 && !leafBit e.2 11)).map (fun e =>
    (List.range (pageBytes (leafSize e.2) / 65536)).map (fun k => leafFrame e.2 + k))).flatten.dedup

/-- Whether a VD's tables map a physical page of 4 KiB (R302, R368). -/
def vdMaps (s : State) (v n : Nat) : Bool := (mappedFrames s v).contains (n / 16)

/-- A page index whose addresses are canonical in Sv48 (R300). -/
def canonicalPage (n : Nat) : Bool := decide (n < 2 ^ 35) || (decide (2 ^ 52 - 2 ^ 35 ≤ n) && decide (n < 2 ^ 52))

/-- What the stage manager needs to create an episode (R302): a free core, an identifier unique on the die, a VD, canonical virtual pages,
physical pages of the VD's slices that no other episode has and that no table of the VD maps, and a page for each mailbox that serves the
episode and for no other (R306). -/
def mayCreate (s : State) (e : EpisodeArgs) : Bool :=
  decide (e.die < 9) && decide (e.core < 16) && decide (e.id < 65536) && decide (e.budget < 2 ^ 32) && !(s.die e.die).fenced &&
  (s.vd e.vd).state != 0 && !(s.pcore e.die e.core).stopped && (episodeOn s e.die e.core).isNone &&
  !s.episodes.any (fun x => x.die == e.die && x.id == e.id) &&
  e.pages.all (fun p => canonicalPage p.1 && s.ownsSlice e.vd (p.2 * 4096) && !s.episodePage (p.2 * 4096) (p.2 * 4096 + 4096) &&
    !vdMaps s e.vd p.2) &&
  e.mailboxes.all (fun p => canonicalPage p.1 && decide (p.2 < 512) && serving p.2) &&
  (List.range 512).all (fun m => !serving m || e.mailboxes.any (fun p => p.2 == m))
where
  /-- whether MBCFG of a mailbox names the episode and its core -/
  serving (m : Nat) : Bool := (s.mailbox e.die m).episode == e.id && (s.mailbox e.die m).core == e.core

/-- The stage manager writes satp, for Sv48 with a root page of its own choice, and locks the 16 PMP entries, whose contents are its own,
before an episode starts (R300): what it chooses is open (satp and PMP: DESIGN CHOICE, log entry 89). -/
def setupCore (s : State) (d c : Nat) : State :=
  let (root, s) := freePair s
  let s := s.modPcore d c (fun p => { p with satp := 8#4 ++ 0#16 ++ field root 0 44 })
  (List.range 16).foldl (fun s k =>
    let (a, s) := freePair s
    let (b, s) := freeValue s
    s.modPcore d c (fun p => if ((p.pmp[k]?).getD (0#8, 0#64)).1.getLsbD 7 then p
      else { p with pmp := setAt p.pmp k (1#1 ++ 0#2 ++ field b 0 5, a) })) s

/-- EPISODE_CREATE (R302). -/
def execEpisodeCreate (req : Req) (e : EpisodeArgs) (s : State) : Out :=
  hvWrite s req (fun s =>
    if mayCreate s e then
      let s := setupCore s e.die e.core
      let s := s.modPcore e.die e.core (fun p => { PCore.reset with pc := e.entry, satp := p.satp, pmp := p.pmp })
      { s with episodes := s.episodes ++ [⟨e.die, e.id, e.core, e.vd, e.budget, sortOn (fun p => p.1) e.pages, sortOn (fun p => p.1) e.mailboxes⟩] }
    else s)

/-- EPISODE_END (R302): the host ends an episode; the spec gives no exit code for it, so that it is open. -/
def execEpisodeEnd (req : Req) (die id : Nat) (s : State) : Out :=
  match s.episodes.find? (fun e => e.die == die && e.id == id) with
  | none => off s
  | some e => hvWrite s req (fun s =>
      let (code, s) := freePair s
      endEpisode s e code)

end Sys2Proof.Machine
end

