-- ==== Sys2Proof/Machine/Matrix.lean ====
section
/-! DEFINITION. The matrix engine (R234 to R264): gangs and windows, the rendezvous, the format block, the B latch, joint operations,
rows in and out, and tokens. -/

namespace Sys2Proof.Machine

open Sys2Proof

/-! Gangs and windows (R234, R235). -/

/-- Members of a gang register, ascending. -/
def gangMembers (g : Word) : List Nat := (List.range 16).filter (fun k => g.getLsbD k)
/-- First row of a window, and the row after its last. -/
def gangFirst (g : Word) : Nat := 32 * (field g 16 5).toNat
def gangEnd (g : Word) : Nat := gangFirst g + 32 * (field g 22 6).toNat
/-- Whether rows `a` to `b - 1` lie in a warp's window. -/
def inWindow (g : Word) (a b : Nat) : Bool := g != 0#32 && decide (gangFirst g ≤ a) && decide (b ≤ gangEnd g)

/-- The warp with an index in a warp's block that has not exited. -/
def blockMate (s : State) (w k : Nat) : Option Nat :=
  (s.block (s.warp w).grid (s.warp w).block).warps.find? (fun v => (s.warp v).index == k && (match (s.warp v).life with
    | .dead => false
    | .dying _ _ => false
    | _ => true))

/-- A gang value that MX.GANG refuses for a warp (R234). -/
def badGang (s : State) (w : Nat) (g : Word) : Bool :=
  let ms := gangMembers g
  ms.isEmpty || decide (6 < ms.length) || !ms.contains (s.warp w).index ||
  ms.any (fun k => match blockMate s w k with
    | some v => (s.warp v).quad != (s.warp w).quad
    | none => true) ||
  field g 22 6 == 0#6 || decide (32 < (field g 22 6).toNat) || decide (1024 < gangEnd g) || g.getLsbD 21 || field g 28 4 != 0#4

/-- A live claim that stands against a value (R235): another value, or another block's, on overlapping rows, held by another warp than
the issuer. -/
def claimConflict (s : State) (w : Nat) (g : Word) : Bool :=
  (s.quad (s.warp w).quad).claims.any (fun c =>
    !(c.1 == g && c.2.all (sameBlock s w)) && !(c.2 == [w]) && !c.2.isEmpty &&
    decide (gangFirst c.1 < gangEnd g) && decide (gangFirst g < gangEnd c.1))

/-- A warp gives up its hold; the claim ends with its last holder. -/
def leaveClaim (s : State) (w : Nat) : State :=
  s.modQuad (s.warp w).quad (fun q => { q with
    claims := (q.claims.map (fun c => (c.1, c.2.filter (fun v => v != w)))).filter (fun c => !c.2.isEmpty) })

/-- Note that a command writes a row: no earlier sampled operation may still poison it (R391). -/
def touchRow (s : State) (q r : Nat) : State :=
  { s with audits := s.audits.map (fun a => if a.quad = q then { a with rows := a.rows.filter (fun k => k != r) } else a) }

/-- A row of a quadrant. -/
def accRow (s : State) (q r : Nat) : AccRow := (s.quad q).rows.get AccRow.zero r

/-- A command writes a row: it is live and clean (R254, R386). -/
def setRow (s : State) (q r : Nat) (x : AccRow) : State :=
  touchRow (s.modQuad q (fun y => { y with rows := y.rows.set AccRow.zero r x })) q r

/-- Zero rows, with label 0. -/
def zeroRows (s : State) (q : Nat) (rs : List Nat) : State := rs.foldl (fun s r => setRow s q r AccRow.zero) s

/-- Rows `a` to `b - 1`. -/
def rowsFrom (a b : Nat) : List Nat := (List.range (b - a)).map (fun k => a + k)

/-- Claim or join a window (R235). -/
def takeClaim (s : State) (w : Nat) (g : Word) : State :=
  let q := (s.warp w).quad
  if (s.quad q).claims.any (fun c => c.1 == g && c.2.all (sameBlock s w)) then
    s.modQuad q (fun x => { x with claims := x.claims.map (fun c => if c.1 == g && c.2.all (sameBlock s w) then (c.1, c.2 ++ [w]) else c) })
  else
    let s := s.modQuad q (fun x => { x with claims := x.claims ++ [(g, [w])] })
    zeroRows s q (rowsFrom (gangFirst g) (gangEnd g))

/-- Whether a warp has a matrix command that is not done. -/
def mxBusy (s : State) (w : Nat) : Bool := s.cmds.any (fun e => e.2.warp == w && !e.2.op.isTransfer)

/-- The labels of operands that choose rows and offsets must join to handle 0 (R251). -/
def needZero (c : Ctx) (ls : State → List Label) : M Unit := do
  let l ← M.run' (fun s => s.joinList c.w (ls s ++ [c.sub.maskLabel]))
  if l ≠ 0#8 then trapLabel c c.on l 0#8 0#64 0 else pure ()

/-- The checks of MX.GANG (R234, R235, R254): the new value of the gang register. -/
def gangChecks (c : Ctx) (a : Src) : M Word := do
  checkSrcs c [a] c.on
  let s ← M.st
  M.await (!mxBusy s c.w)
  let g := srcVal s c a 0
  trapIf c (g != 0#32 && (badGang s c.w g || claimConflict s c.w g)) 14
  needZero c (fun s => [srcLbl s c a 0])
  if g != 0#32 && g != (s.warp c.w).gang && !canRegister (discharge s c.w 6 0 0) c.w then trapEstate c 1 else pure ()
  pure g

/-- The gang register takes a value (R235): the old hold is given up, and a window claimed or joined and held. -/
def setGang (c : Ctx) (g : Word) (s : State) : State :=
  if g = (s.warp c.w).gang then s
  else if g = 0#32 then (discharge (leaveClaim s c.w) c.w 6 0 0).modWarp c.w (fun x => { x with gang := 0#32 })
  else (registerHolding (takeClaim (leaveClaim (discharge s c.w 6 0 0) c.w) c.w g) c.w (Holding.fresh 6 1 0 0 0)).modWarp c.w (fun x => { x with gang := g })

/-- MX.GANG (R234, R235, R254). -/
def execMxGang (p : Pfx) (w : W0) (s : State) : Out :=
  issue p (WF.mx_gang p w) s (fun c => do
    let g ← gangChecks c (.code w.a)
    lastUse c [(w.luA, .code w.a)]
    M.upd (setGang c g)
    pure .next)

/-- MX.WAIT (R254). -/
def execMxWait (p : Pfx) (w : W0) (s : State) : Out :=
  issue p (WF.mx_wait p w) s (fun c => do
    let s ← M.st
    M.await (!mxBusy s c.w)
    pure .next)

/-- The checks of MX.DROP (R254): the first row that it drops, and the row after the last. -/
def dropChecks (c : Ctx) (w : W0) : M (Nat × Nat) := do
  let a := Src.code w.a
  checkSrcs c [a] c.on
  let s ← M.st
  let r := (srcVal s c a 0).toNat
  trapIf c (r % 32 != 0) 11
  trapIf c (!inWindow (s.warp c.w).gang r (r + 32 * w.b.toNat)) 12
  needZero c (fun s => [srcLbl s c a 0])
  pure (r, r + 32 * w.b.toNat)

/-- Mark rows dead: they keep what they hold until a save leaves them out (R254). -/
def dropRows (q a b : Nat) (s : State) : State :=
  s.modQuad q (fun x => { x with rows := (rowsFrom a b).foldl (fun m k =>
    m.set AccRow.zero k { m.get AccRow.zero k with dead := true }) x.rows })

/-- MX.DROP (R254). -/
def execMxDrop (p : Pfx) (w : W0) (s : State) : Out :=
  issue p (WF.mx_drop p w) s (fun c => do
    let r ← dropChecks c w
    lastUse c [(w.luA, .code w.a)]
    M.upd (dropRows c.quad r.1 r.2)
    pure .next)

/-! The control pair and tokens (R246, R251, R252). -/

/-- First row, count and tag of a control pair. -/
structure Control where
  first : Nat
  count : Nat
  tag : BitVec 16
  deriving DecidableEq, Repr

/-- The control pair's registers. -/
def ctlSrcs (x : W1) : List Src := [.code x.c, .code (x.c + 1#6)]

/-- Read and check a control pair (R251): a joint operation's count is zero and its rows are checked by R236. -/
def readControl (c : Ctx) (x : W1) (joint : Bool) : M Control := do
  let s ← M.st
  let lo := srcVal s c (.code x.c) 0
  let hi := srcVal s c (.code (x.c + 1#6)) 0
  let first := (field lo 0 10).toNat
  let count := (field lo 10 11).toNat
  trapIf c (field lo 21 11 != 0#11 || field hi 16 16 != 0#16 ||
    (if joint then count != 0 else count == 0 || decide (1024 < count) || !inWindow (s.warp c.w).gang first (first + count))) 12
  pure ⟨first, count, field hi 0 16⟩

/-- A token (R246). -/
def mxToken (tag : BitVec 16) (base : Nat) (flags : BitVec 8) (done : Bool) : DWord :=
  (zext tag 64 <<< 48) ||| (BitVec.ofNat 64 (base % 1024) <<< 16) ||| (zext flags 64 <<< 8) ||| (if done then 2#64 else 1#64)

/-- A matrix command put in flight; one that reads nothing is consumed at issue (R252). -/
def startMx (s : State) (c : Cmd) (base : Nat) (reads : Bool) : State :=
  let s := addCmd s { c with consumed := !reads }
  if reads then s else cmdEntry s c 0 (mxToken c.tag base 0#8 false) 0#8

/-- The fields of a matrix command that its words give. -/
def mxCmd (s : State) (c : Ctx) (w : W0) (x : W1) (tag : BitVec 16) (lbl : Label) (op : CmdOp) : Cmd :=
  { Cmd.blank s c op (tokOf w) lbl with tag := tag, acq := WF.mxAcq x, rel := WF.mxRel x, scope := WF.mxScope x }

/-! Scratchpad as the engine reads it. -/

/-- A span of scratchpad from an offset that a command gives: block and offset, or the cause of R188. -/
def spanOf (s : State) (g b : Nat) (a : Word) (n align : Nat) : Except AccessFault (Nat × Nat) :=
  if a.toNat % align ≠ 0 then .error .align
  else match spadLoc s g b a n with
    | some p => .ok p
    | none => .error .bounds

/-- A span in the block's own scratchpad: bits [31:22] of its offset are zero (R238). -/
def ownSpan (s : State) (g b : Nat) (a : Word) (n align : Nat) : Except AccessFault (Nat × Nat) :=
  if a.toNat % align = 0 ∧ 2 ^ 22 ≤ a.toNat then .error .bounds else spanOf s g b a n align

/-- Bytes, granule labels and poison of a span. -/
def readSpan (s : State) (g : Nat) (p : Nat × Nat) (n : Nat) : List Byte × List Label × Bool :=
  let d := (s.block g p.1).spad
  (d.read p.2 n, ((List.range (granule (p.2 + n - 1) + 1 - granule p.2)).map (fun k => d.label (64 * (granule p.2 + k)))).dedup, d.poisoned p.2 n)

/-- A place that a command's operand names, checked at issue. -/
def needSpan (c : Ctx) (a : Word) : Except AccessFault (Nat × Nat) → M (Nat × Nat)
  | .ok p => pure p
  | .error e => M.stop (accessTrap c e c.on (fun _ => zext a 64) (fun _ => 0#8) 0)

/-- A span that a command's operand names, checked at issue. -/
def checkSpan (c : Ctx) (a : Word) (n align : Nat) : M (Nat × Nat) := do
  let s ← M.st
  needSpan c a (spanOf s (s.warp c.w).grid (s.warp c.w).block a n align)

/-- The place of a format block, checked at issue (R238). -/
def checkBlock (c : Ctx) (a : Word) : M (Nat × Nat) := do
  let s ← M.st
  needSpan c a (ownSpan s (s.warp c.w).grid (s.warp c.w).block a 32 32)

/-- An engine read that meets poison is delivered to the command's warp (R386). -/
def deliverPoison (s : State) (c : Ctx) (a : Word) : State := deliver s c.w 18 c.pc c.on (zext a 64) 0#8

/-! MX_CONSUMED and MX_DONE. -/

/-- Whether some command loads a half of a quadrant's B latch. -/
def loading (s : State) (q h : Nat) : Bool := s.cmds.any (fun e => e.2.quad == q && (match e.2.op with
  | .mx _ _ _ _ _ _ l _ => l == some h
  | _ => false))

/-- The reads of a load of the B latch, performed (R242, R256): the half holds the rows and the join of the labels of the granules read;
of rows that hold poison none is loaded, and POISON is delivered (R386). -/
def readHalf (s : State) (c : Cmd) : State :=
  match c.op with
  | .mx code base fl ll ws uses (some h) rows =>
    let b := ((s.quad c.quad).halves[h]?).getD BHalf.empty
    match b.source with
    | none => s
    | some (a, n) =>
      let place := (spadLoc s c.grid c.block a (n * b.width)).getD (c.block, a.toNat % 2 ^ 22)
      let r := readSpan s c.grid place (n * b.width)
      if r.2.2 then
        let s := s.modQuad c.quad (fun q => { q with halves := setAt q.halves h BHalf.empty })
        putCmd (deliver s c.warp 18 c.pc c.lanes (zext a 64) 0#8) { c with op := .mx code base fl ll ws uses none rows }
      else
        let (l, s) := s.joinList c.warp r.2.1
        s.modQuad c.quad (fun q => { q with
          halves := setAt q.halves h { b with rows := (List.range n).map (fun j => slice r.1 (j * b.width) b.width), lbl := l, source := none } })
  | _ => s

/-- MX_CONSUMED (R246, R252): the reads are done, those of a load of the B latch now; the half is free of this use, and the token is
delivered. -/
def execMxConsumed (cmd : Nat) (s : State) : Out :=
  match s.cmds.get? cmd with
  | none => .next { s with report := .disabled }
  | some c =>
    match c.op with
    | .mx _ base _ _ _ uses _ _ =>
      if c.consumed then .next { s with report := .disabled }
      else
        let s := readHalf (putCmd s { c with consumed := true }) { c with consumed := true }
        let s := match uses with
          | some h => s.modQuad c.quad (fun q =>
              let b := (q.halves[h]?).getD BHalf.empty
              { q with halves := setAt q.halves h { b with users := b.users - 1 } })
          | none => s
        .next { cmdEntry s c 0 (mxToken c.tag base 0#8 false) 0#8 with report := .done }
    | _ => .next { s with report := .disabled }

/-- The granules that writes of a command touch. -/
def writeGranules (ws : List RowWrite) : List Nat :=
  ((ws.map (fun x => (List.range (granule (x.off + x.bytes.length - 1) + 1 - granule x.off)).map (fun k => granule x.off + k))).flatten).dedup

/-- The label check of a command's writes, granule by granule (R262): the join of the labels that write into a granule. The first
granule that fails. -/
def checkWrites (s : State) (c : Cmd) (ws : List RowWrite) : List Nat → Option (Nat × Label) × State
  | [] => (none, s)
  | g :: gs =>
    let (l, s) := s.joinList c.warp ((ws.filter (fun x => decide (x.off < 64 * g + 64) && decide (64 * g < x.off + x.bytes.length))).map (fun x => x.lbl))
    let h := (s.block c.grid (g / 2 ^ 16)).spad.label (64 * g % 2 ^ 22)
    if s.dominates c.vd h l then checkWrites s c ws gs else (some (g, h), s)

/-- Apply a command's writes into scratchpad (R262). -/
def applyWrites (s : State) (c : Cmd) (ws : List RowWrite) : State :=
  ws.foldl (fun s x => s.modBlock c.grid (x.off / 2 ^ 22) (fun b => { b with spad := b.spad.write (x.off % 2 ^ 22) x.bytes })) s

/-- A sampled operation holds back its "done" until its verdict (R391). -/
def heldForVerdict (s : State) (cmd : Nat) : Bool :=
  s.audits.any (fun a => a.hold && decide (a.cmd ≤ cmd) && decide (cmd < a.cmd + a.members))

/-- MX_DONE (R246, R252, R256, R262): the writes are done; flags and token are delivered, a loaded half is complete. -/
def execMxDone (cmd : Nat) (s : State) : Out :=
  match s.cmds.get? cmd with
  | none => .next { s with report := .disabled }
  | some c =>
    match c.op with
    | .mx _ base flags flagLbl writes _ loads _ =>
      if !c.consumed ∨ heldForVerdict s cmd then .next { s with report := .disabled }
      else
        let s := endCmd s c
        let s := match checkWrites s c writes (writeGranules writes) with
          | (some (g, h), s) => deliver s c.warp 6 c.pc c.lanes (BitVec.ofNat 64 (64 * g % 2 ^ 22)) h
          | (none, s) => applyWrites s c writes
        let s := setFlags s c.warp flags flagLbl
        let s := match loads with
          | some h =>
            let (t, s) := freshStamp s
            s.modQuad c.quad (fun q =>
              let b := (q.halves[h]?).getD BHalf.empty
              { q with halves := setAt q.halves h { b with ready := true, order := t + 1 } })
          | none => s
        let (l, s) := if flags = 0#8 then (0#8, s) else (flagLbl, s)
        .next { cmdEntry s c 0 (mxToken c.tag base flags true) l with report := .done }
    | _ => .next { s with report := .disabled }

/-! Elements and the format block (R238, R239, R241). -/

/-- Element formats by their code (R239). -/
def mxElem (code : Nat) : NumFmt :=
  match code with
  | 0 => .float .e4m3
  | 1 => .float .e5m2
  | 2 => .float .e3m2
  | 3 => .float .e2m3
  | 4 => .float .e2m1
  | 5 => .int 8 true
  | 6 => .float .f16
  | _ => .float .bf16
/-- Bits of an element's container. -/
def mxBits (code : Nat) : Nat := if code = 4 then 4 else if 6 ≤ code then 16 else 8
/-- Physical K, A row bytes, B row bytes. -/
def mxPhys (code : Nat) : Nat := if code = 4 then 256 else if 6 ≤ code then 32 else 128
def mxRowA (code : Nat) : Nat := if 6 ≤ code then 64 else 128
def mxRowB (code : Nat) : Nat := if code = 4 then 64 else if 6 ≤ code then 256 else 128
/-- N and M of a pattern; 1:1 for dense. -/
def mxPattern (p : Nat) : Nat × Nat :=
  match p with
  | 1 => (2, 4)
  | 2 => (4, 8)
  | 3 => (2, 8)
  | 4 => (8, 16)
  | 5 => (4, 16)
  | _ => (1, 1)

/-- A format block (R238). -/
structure FmtBlock where
  fa : Nat
  fb : Nat
  flags : Nat
  scaleA : Nat
  scaleB : Nat
  meta' : Nat
  pat : Nat
  deriving DecidableEq, Repr

/-- The fields of a format block's bytes. -/
def FmtBlock.read (bs : List Byte) : FmtBlock := ⟨leAt bs 0 1, leAt bs 1 1, leAt bs 3 1, leAt bs 4 4, leAt bs 8 4, leAt bs 12 4, leAt bs 16 1⟩

/-- Logical K. -/
def FmtBlock.logK (f : FmtBlock) : Nat := mxPhys f.fa * (mxPattern f.pat).2 / (mxPattern f.pat).1
/-- Blocks of 32 logical elements; kept elements of a block; their bytes; metadata bytes of a block (R240, R258). -/
def FmtBlock.blocks (f : FmtBlock) : Nat := f.logK / 32
def FmtBlock.kept (f : FmtBlock) : Nat := 32 * (mxPattern f.pat).1 / (mxPattern f.pat).2
def FmtBlock.bb (f : FmtBlock) : Nat := f.kept * mxBits f.fa / 8
def FmtBlock.fieldBits (f : FmtBlock) : Nat := Nat.log2 (mxPattern f.pat).2
def FmtBlock.mb (f : FmtBlock) : Nat := f.kept * f.fieldBits / 8

/-- The rules of R239 that do not depend on the command. -/
def fmtOk (bs : List Byte) : Bool :=
  let f := FmtBlock.read bs
  let offset (b : Nat) (on : Bool) : Bool := decide (b < 2 ^ 22) && (on || b == 0)
  decide (f.fa < 8) && decide (f.fb < 8) && (if f.fa < 4 then decide (f.fb < 4) else f.fa == f.fb) && leAt bs 2 1 == 32 &&
  decide (f.flags < 4) && decide (f.pat ≤ 5) && (List.range 15).all (fun k => leAt bs (17 + k) 1 == 0) &&
  decide (f.logK ≤ 512) && offset f.scaleA (bitN f.flags 0) && offset f.scaleB (bitN f.flags 1) && offset f.meta' (f.pat != 0)

/-- Element `k` of a row of elements of a format. -/
def elemAt (code : Nat) (bs : List Byte) (k : Nat) : Nat :=
  let w := mxBits code
  if w = 4 then bitsN (leAt bs (k / 2) 1) (4 * (k % 2)) 4 else leAt bs (k * (w / 8)) (w / 8)

/-- An element's value, an infinity as the largest finite magnitude (R122). -/
def mxValue (code x : Nat) : Num × BitVec 8 := dotElem (mxElem code) false x

/-! Joint operations (R122, R236 to R243, R257, R258). -/

/-- One A row as the Tongs read it: member, lane, row number, bytes, logical position of each kept element, a scale per block,
labels, poison. -/
structure ARow where
  lane : Nat
  row : Nat
  bytes : List Byte
  pos : List Nat
  scales : List Nat
  lbls : List Label
  bad : Bool
  deriving DecidableEq, Repr

/-- One block's term for one column (R122): the rounded, scaled sum and its flags. -/
def blockTerm (f : FmtBlock) (a : ARow) (half : BHalf) (j n scaleB : Nat) : Nat × BitVec 8 :=
  let e := { RM.plain with sat := .range }
  let terms := (List.range f.kept).map (fun t =>
    let k := j * f.kept + t
    let pos := (a.pos[k]?).getD 0
    (mxValue f.fa (elemAt f.fa a.bytes k), mxValue f.fb (elemAt f.fb ((half.rows[pos]?).getD []) n)))
  let sA := (a.scales[j]?).getD 127
  let fl := terms.foldl (fun (x : BitVec 8) t => x ||| t.1.2 ||| t.2.2) 0#8
  if sA = 255 ∨ scaleB = 255 ∨ terms.any (fun t => t.1.1.isNan || t.2.1.isNan) then (Fmt.f32.nanCode false, fl ||| fNV)
  else
    let sum := exactSum .rne ((Num.fin false 0 0 false) :: terms.map (fun t => (mulNum t.1.1 t.2.1).1))
    let (t, f1) := Fmt.f32.pack false e sum
    let (u, f2) := Fmt.f32.pack false e (match Fmt.f32.decode false t with
      | .fin neg m k more => .fin neg m (k + sA + scaleB - 254) more
      | x => x)
    (u, fl ||| (f1 &&& (fSAT ||| fNX)) ||| (f2 &&& (fSAT ||| fNX ||| fUF)))

/-- One output element (R122). -/
def mxElement (f : FmtBlock) (a : ARow) (half : BHalf) (scalesB : List (List Nat)) (acc n : Nat) : Nat × BitVec 8 :=
  (List.range f.blocks).foldl (fun (r : Nat × BitVec 8) j =>
    let (t, fl) := blockTerm f a half j n ((((scalesB[j]?).getD [])[n]?).getD 127)
    let (x, f3) := farith .f32 .add { RM.plain with sat := .range } r.1 t 0
    (x, r.2 ||| fl ||| (f3 &&& (fSAT ||| fNX)))) (acc, 0#8)

/-- A row of the accumulator after an operation, and its flags. -/
def mxRow (f : FmtBlock) (a : ARow) (half : BHalf) (scalesB : List (List Nat)) (old : AccRow) : SMap Word × BitVec 8 :=
  (List.range 128).foldl (fun (r : SMap Word × BitVec 8) n =>
    let (x, fl) := mxElement f a half scalesB (old.cols.get 0#32 n).toNat n
    (r.1.set 0#32 n (BitVec.ofNat 32 x), r.2 ||| fl)) ([], 0#8)

/-- The positions that a block's metadata names (R258), or none where a group names one twice (R241). -/
def positions (f : FmtBlock) (j : Nat) (bytes : List Byte) : Option (List Nat) :=
  let (n, m) := mxPattern f.pat
  let v := ofBytesN bytes
  let at_ := (List.range f.kept).map (fun t => bitsN v (f.fieldBits * t) f.fieldBits)
  if (List.range (f.kept / n)).any (fun g => ((at_.drop (g * n)).take n).dedup.length ≠ n) then none
  else some ((at_.zipIdx).map (fun p => 32 * j + m * (p.2 / n) + p.1))

/-- Why the release of an operation fails for its gang. -/
inductive MxFail where
  /-- a cause for every member -/
  | all (cause : Nat) (addr : Word)
  /-- a cause for members and lanes of them; GANG for the others -/
  | some (bad : List (Nat × AccessFault × Nat × Word))
  deriving DecidableEq, Repr

/-- The spans of one lane's A row: the row, its scale bytes, its metadata. -/
def rowSpans (s : State) (f : FmtBlock) (g b a : Nat) : Except AccessFault ((Nat × Nat) × List (Nat × Nat) × List (Nat × Nat)) := do
  let row ← spanOf s g b (BitVec.ofNat 32 a) (mxRowA f.fa) (mxRowA f.fa)
  let k := a / f.bb
  let sc ← (if bitN f.flags 0 then (List.range f.blocks).mapM (fun j => spanOf s g b (BitVec.ofNat 32 (f.scaleA + k + j)) 1 1) else .ok [])
  let mt ← (if f.pat = 0 then .ok [] else (List.range f.blocks).mapM (fun j =>
    spanOf s g b (BitVec.ofNat 32 (f.meta' + (k + j) * f.mb)) f.mb 1))
  pure (row, sc, mt)

/-- Read one A row (R240, R243); none where its metadata repeats a position. -/
def readARow (s : State) (f : FmtBlock) (g lane row : Nat) (sp : (Nat × Nat) × List (Nat × Nat) × List (Nat × Nat)) : Option ARow :=
  let r := readSpan s g sp.1 (mxRowA f.fa)
  let sc := sp.2.1.map (fun p => readSpan s g p 1)
  let mt := sp.2.2.map (fun p => readSpan s g p f.mb)
  let pos := if f.pat = 0 then some (List.range f.logK)
    else ((mt.zipIdx).mapM (fun p => positions f p.2 p.1.1)).map List.flatten
  pos.map (fun pos =>
    { lane := lane, row := row, bytes := r.1, pos := pos, scales := sc.map (fun x => leAt x.1 0 1)
      lbls := (r.2.1 ++ (sc.map (fun x => x.2.1)).flatten ++ (mt.map (fun x => x.2.1)).flatten).dedup
      bad := r.2.2 || sc.any (fun x => x.2.2) || mt.any (fun x => x.2.2) })

/-- The half that an operation uses: the most recently completed one loaded under its gang register (R242, R256). -/
def gangHalf (q : Quad) (g : Word) : Option (Nat × BHalf) :=
  (q.halves.zipIdx.filter (fun p => p.1.ready && p.1.gang == g)).foldl (fun b p =>
    match b with
    | none => some (p.2, p.1)
    | some (k, h) => if h.order < p.1.order then some (p.2, p.1) else some (k, h)) none

/-- The members of a gang whose operations wait in the latch, ascending by index, when all have entered. -/
def fullGang (s : State) (q : Nat) (m : Member) : Option (List Member) :=
  let ms := (gangMembers m.gang).map (fun k => (s.quad q).rendezvous.find? (fun x =>
    !x.done && x.gang == m.gang && sameBlock s x.warp m.warp && (s.warp x.warp).index == k))
  if ms.all (fun x => x.isSome) then some (ms.filterMap id) else none

/-- A pending trap for a member, which leaves the latch. -/
def memberTrap (s : State) (q : Nat) (m : Member) (cause : Nat) (lanes : LaneMask) (addr : Word) (firm : Bool) : State :=
  let s := s.modQuad q (fun x => { x with rendezvous := x.rendezvous.filter (fun y => y.warp != m.warp || y.done) })
  s.modWarp m.warp (fun x => { x with
    pending := x.pending ++ [(m.group, ⟨cause, m.pc, zext addr 64, lanes, 0, 0, false, 0#32, 0#32, [], [], none, firm⟩)] })

/-- The failure of a release (R239 to R242, R257). -/
def failGang (s : State) (q : Nat) (ms : List Member) : MxFail → State
  | .all cause addr => ms.foldl (fun s m => memberTrap s q m cause m.lanes addr false) s
  | .some bad => (ms.zipIdx).foldl (fun s p =>
      let mine := bad.filter (fun b => b.1 == p.2)
      match mine.head? with
      | none => memberTrap s q p.1 14 p.1.lanes 0#32 false
      | some b =>
        let first := mine.foldl (fun e x => if x.2.1.step < e.step then x.2.1 else e) b.2.1
        let hit := mine.filter (fun x => x.2.1 == first)
        memberTrap s q p.1 first.cause (hit.foldl (fun m x => m ||| laneBit x.2.2.1) 0#32) (((hit.head?).map (fun x => x.2.2.2)).getD 0#32) false) s

/-- A joint operation consumes an error for its whole gang (R387): every member is rolled back if every one can be, else every member
takes POISON. -/
def poisonGang (s : State) (q : Nat) (ms : List Member) : State :=
  let able := ms.all (fun m => rollsBack (s.warp m.warp) ⟨18, m.pc, 0#64, m.lanes, 0, 0, false, 0#32, 0#32, [], [], none, false⟩)
  ms.foldl (fun s m => memberTrap s q m 18 m.lanes 0#32 (!able)) s

/-- Everything that a release reads and checks (R257): the rows with their spans, the B scales with their labels and poison. -/
structure Gather where
  fmt : FmtBlock
  fmtLbls : List Label
  fmtBad : Bool
  half : Nat
  rows : List ARow
  scalesB : List (List Nat)
  scaleLbls : List Label
  scaleBad : Bool
  deriving DecidableEq, Repr

/-- The lanes of a gang with their A row offsets: member number, member, lane, offset. -/
def gangLanes (ms : List Member) : List (Nat × Member × Nat × Word) :=
  ((ms.zipIdx).map (fun p => (lanesOf p.1.lanes).map (fun i => (p.2, p.1, i, (p.1.idx.get Reg.zero i).val)))).flatten

/-- The checks and reads of a release (R257). -/
def gather (s : State) (q : Nat) (ms : List Member) (m : Member) : Except MxFail Gather :=
  let g := (s.warp m.warp).grid
  let b := (s.warp m.warp).block
  match ownSpan s g b (BitVec.ofNat 32 m.fmt) 32 32 with
  | .error e => .error (.all e.cause (BitVec.ofNat 32 m.fmt))
  | .ok fp =>
    let (bs, fl, fbad) := readSpan s g fp 32
    let f := FmtBlock.read bs
    if !fmtOk bs || (m.sparse && f.pat == 0) || (!m.sparse && f.pat != 0) then .error (.all 15 0#32)
    else
      match gangHalf (s.quad q) m.gang with
      | none => .error (.all 15 0#32)
      | some (k, half) =>
        if half.width ≠ mxRowB f.fb ∨ half.rows.length < f.logK then .error (.all 15 0#32)
        else
          let lanes := gangLanes ms
          let spans := lanes.map (fun x => (x, rowSpans s f g b x.2.2.2.toNat))
          let metaOdd := if f.pat ≠ 0 ∧ f.meta' % 8 ≠ 0 then lanes.take 1 else []
          let bad := metaOdd.map (fun x => (x.1, AccessFault.align, x.2.2.1, BitVec.ofNat 32 f.meta')) ++
            spans.filterMap (fun x => match x.2 with
              | .error e => some (x.1.1, e, x.1.2.2.1, x.1.2.2.2)
              | .ok _ => none)
          let sb := if bitN f.flags 1 then (List.range f.blocks).map (fun j => spanOf s g b (BitVec.ofNat 32 (f.scaleB + 128 * j)) 128 1) else []
          match sb.findSome? (fun x => match x with
            | .error e => some e
            | .ok _ => none) with
          | some e => .error (.all e.cause (BitVec.ofNat 32 f.scaleB))
          | none =>
            if !bad.isEmpty then .error (.some bad)
            else
              let rows := spans.map (fun x => match x.2 with
                | .ok sp => readARow s f g x.1.2.2.1 (m.base + 32 * x.1.1 + x.1.2.2.1) sp
                | .error _ => none)
              if rows.any (fun x => x.isNone) then .error (.all 15 0#32)
              else
                let rb := sb.filterMap (fun x => match x with
                  | .ok p => some (readSpan s g p 128)
                  | .error _ => none)
                .ok { fmt := f, fmtLbls := fl, fmtBad := fbad, half := k, rows := rows.filterMap id
                      scalesB := rb.map (fun x => (List.range 128).map (fun n => leAt x.1 n 1))
                      scaleLbls := ((rb.map (fun x => x.2.1)).flatten).dedup, scaleBad := rb.any (fun x => x.2.2) }

/-- The label of an index lane. -/
def indexLabel (ms : List Member) (base row lane : Nat) : Label :=
  ((ms[(row - base) / 32]?).map (fun m => (m.idx.get Reg.zero lane).lbl)).getD 0#8

/-- Compute and write the rows (R122, R243): the flags and the label of the rows that set them. -/
def computeRows (q : Nat) (ms : List Member) (m : Member) (ga : Gather) (half : BHalf) : List ARow → State → (BitVec 8 × List Label) × State
  | [], s => ((0#8, []), s)
  | a :: as, s =>
    let old := accRow s q a.row
    let (cols, fl) := mxRow ga.fmt a half ga.scalesB old
    let (l, s) := s.joinList m.warp (old.lbl :: a.lbls ++ [indexLabel ms m.base a.row a.lane] ++ ga.fmtLbls ++ ga.scaleLbls ++ [half.lbl])
    let s := setRow s q a.row ⟨cols, l, false, false⟩
    let (r, s) := computeRows q ms m ga half as s
    ((r.1 ||| fl, if fl = 0#8 then r.2 else l :: r.2), s)

/-- Count a released operation for its VD's auditor on a die, and log it where it is sampled (R388, R389). -/
def auditRelease (s : State) (q v cmd n : Nat) (rows : List Nat) : State :=
  let d := dieOfQuad q
  let x := s.vd v
  let k := x.auditsMx.get 0 d
  let s := s.setVd v { x with auditsMx := x.auditsMx.set 0 d (k + 1) }
  if x.audcfg.getLsbD 5 && sampled x k then
    let s := countDie s d 17 v
    { s with audits := s.audits ++ [⟨d, k, v, cmd, q, n, rows, x.audcfg.getLsbD 7⟩] }
  else s

/-- The commands of a released operation, one for each member, which is let go on (R246, R252). -/
def memberCmds (q : Nat) (half : Nat) (rows : List Nat) (fl : BitVec 8) (lbl : Label) : List Member → State → State
  | [], s => s
  | m :: ms, s =>
    let c : Cmd :=
      { id := s.cmdSerial, reached := none, warp := m.warp, vd := (s.warp m.warp).vd, die := dieOfQuad q, quad := q, grid := (s.warp m.warp).grid
        block := (s.warp m.warp).block, op := .mx (if m.sparse then 0x5F else 0x5E) m.base fl lbl [] (some half) none rows
        queue := m.queue.map (fun n => (m.warp, n)), tag := m.tag, acq := m.acq, rel := m.rel, scope := m.scope, lbl := 0#8, path := []
        pc := m.pc, lanes := m.lanes, object := none, started := true, consumed := false, moved := 0, doneWords := [], failed := none
        status := 0, verdict := none }
    let s := addCmd s c
    let s := s.modQuad q (fun x => { x with
      rendezvous := x.rendezvous.map (fun y => if y.warp == m.warp then { y with done := true } else y) })
    memberCmds q half rows fl lbl ms s

/-- Release a gang whose members have all entered (R257). -/
def releaseGang (s : State) (q : Nat) (ms : List Member) (m : Member) : State :=
  match gather s q ms m with
  | .error e => failGang s q ms e
  | .ok ga =>
    if ga.fmtBad || ga.scaleBad || ga.rows.any (fun a => a.bad || (accRow s q a.row).poison) then poisonGang s q ms
    else
      let half := ((s.quad q).halves[ga.half]?).getD BHalf.empty
      let s := s.modQuad q (fun x => { x with halves := setAt x.halves ga.half { half with users := half.users + ms.length } })
      let ((fl, ls), s) := computeRows q ms m ga half ga.rows s
      let (lbl, s) := s.joinList m.warp ls
      let rows := ga.rows.map (fun a => a.row)
      let s := auditRelease s q (s.warp m.warp).vd s.cmdSerial ms.length rows
      let s := countDie s (dieOfQuad q) 16 (s.warp m.warp).vd
      memberCmds q ga.half rows fl lbl ms s

/-- RENDEZVOUS_RELEASE (R236, R257): the first operation in a quadrant's latch whose members have all entered is released. -/
def execRendezvousRelease (quad : Nat) (s : State) : Out :=
  match (s.quad quad).rendezvous.findSome? (fun m => if m.done then none else (fullGang s quad m).map (fun ms => (m, ms))) with
  | none => .next { s with report := .disabled }
  | some (m, ms) => .next { releaseGang s quad ms m with report := .done }

/-- Whether a listed warp of a gang has exited. -/
def brokenGang (s : State) (w : Nat) (g : Word) : Bool := (gangMembers g).any (fun k => (blockMate s w k).isNone)

/-- The operations that wait for a warp to enter: those of its block whose gang register lists it (R236). -/
def awaiting (s : State) (q w : Nat) : List Member :=
  (s.quad q).rendezvous.filter (fun m => !m.done && m.warp != w && sameBlock s m.warp w && m.gang.getLsbD (s.warp w).index)

/-- Every gang that waits for the issuer fails, and the issuer traps GANG as well (R237). -/
def failNow (c : Ctx) : M Done := do
  M.upd (fun s =>
    let s := (((awaiting s c.quad c.w).map (fun m => m.gang)).dedup).foldl (fun s g => gangFail s c.quad c.w g) s
    takeTrap s c.w c.sub.id (c.info 14 c.on))
  pure .placed

/-- The checks of a joint operation that is not yet in the latch (R236, R237, R257): the member that enters; none where a gang that waits
for it fails with it. -/
def enterChecks (c : Ctx) (sparse : Bool) (w : W0) (x : W1) : M (Option Member) := do
  let a := srcA w x
  let b := Src.code w.b
  checkQueue c 0 (tokOf w)
  checkSrcs c (a :: b :: ctlSrcs x) c.on
  let k ← readControl c x true
  let s ← M.st
  let g := (s.warp c.w).gang
  let ms := gangMembers g
  let fmt := (srcVal s c b 0).toNat
  let waiting := awaiting s c.quad c.w
  if (s.warp c.w).splits ≠ [] then (if s.cur.probe || waiting.isEmpty then trap c 14 else pure none)
  else
    trapIf c (decide (ms.length < 2) || brokenGang s c.w g) 14
    trapIf c (!inWindow g k.first (k.first + 32 * ms.length)) 12
    let _ ← checkBlock c (srcVal s c b 0)
    needZero c (fun s => (b :: ctlSrcs x).map (fun y => srcLbl s c y 0))
    if waiting.any (fun m => m.gang != g || m.sparse != sparse || m.fmt != fmt || m.base != k.first) then
      (if s.cur.probe then trap c 14 else pure none)
    else
      awaitAcq c (WF.mxAcq x) (WF.mxScope x)
      pure (some
        { warp := c.w, sparse := sparse, fmt := fmt, base := k.first, gang := g
          idx := (lanesOf c.on).foldl (fun m i => m.set Reg.zero i (srcReg s c a i)) [], lanes := c.on, pc := c.pc, group := c.sub.pc
          queue := tokOf w, tag := k.tag, acq := WF.mxAcq x, rel := WF.mxRel x, scope := WF.mxScope x, done := false })

/-- MX.MMA or MX.MMAS (R236, R237, R257): the operation enters the rendezvous latch and waits there until it is released; a released one
goes on at the group that entered it. -/
def jointBody (c : Ctx) (sparse : Bool) (w : W0) (x : W1) : M Done := do
  let s ← M.st
  match (s.quad c.quad).rendezvous.find? (fun m => m.warp == c.w && (!m.done || m.group == c.sub.pc)) with
  | some m =>
    if m.done then
      lastUse c [(w.luA, srcA w x), (w.luB, .code w.b)]
      M.upd (fun s => leaveLatch s c.w)
      pure .next
    else M.stop .wait
  | none =>
    match ← enterChecks c sparse w x with
    | some m => M.stop (.enter m)
    | none => failNow c

/-- MX.MMA (R257). -/
def execMxMma (p : Pfx) (w : W0) (x : W1) (s : State) : Out := issue p (WF.mx_mma p w x) s (fun c => jointBody c false w x)
/-- MX.MMAS (R257). -/
def execMxMmas (p : Pfx) (w : W0) (x : W1) (s : State) : Out := issue p (WF.mx_mmas p w x) s (fun c => jointBody c true w x)

/-! MX.FMT and MX.LDB (R255, R256). -/

/-- The checks of MX.FMT (R238, R239, R255): the bytes that it writes, its tag, the place of the block, and the labels. -/
def fmtChecks (c : Ctx) (w : W0) (x : W1) : M (BitVec 16 × (Nat × Nat) × List Byte) := do
  let b := Src.code w.b
  let ts := if w.a = 20#6 then [] else [Src.code w.a]
  let ds := descSrcs x.c
  checkQueue c 0 (tokOf w)
  checkSrcs c (b :: ts ++ ds) c.on
  let s ← M.st
  let bs := (ds.map (fun y => toBytes (srcVal s c y 0) 4)).flatten
  trapIf c (!fmtOk bs) 15
  let t := if w.a = 20#6 then 0#32 else srcVal s c (.code w.a) 0
  trapIf c (field t 16 16 != 0#16) 12
  let p ← checkBlock c (srcVal s c b 0)
  needZero c (fun s => (b :: ts).map (fun y => srcLbl s c y 0))
  let l ← M.run' (fun s => s.joinList c.w (ds.map (fun y => srcLbl s c y 0) ++ [c.sub.maskLabel]))
  let s ← M.st
  requireDomAt c 6 c.on ((lanesOf c.on).map (fun i => (i, l))) (fun _ => (s.spadOf c.w p.1).label p.2) (fun _ => zext (srcVal s c b 0) 64)
  awaitAcq c (WF.mxAcq x) (WF.mxScope x)
  pure (field t 0 16, p, bs)

/-- MX.FMT writes its block, and its command is in flight (R255). -/
def fmtStart (c : Ctx) (w : W0) (x : W1) (r : BitVec 16 × (Nat × Nat) × List Byte) (s : State) : State :=
  let s := s.modSpad c.w r.2.1.1 (fun y => y.write r.2.1.2 r.2.2)
  startMx s (mxCmd s c w x r.1 0#8 (.mx 0x5C 0 0#8 0#8 [] none none [])) 0 false

/-- MX.FMT (R255). -/
def execMxFmt (p : Pfx) (w : W0) (x : W1) (s : State) : Out :=
  issue p (WF.mx_fmt p w x) s (fun c => do
    let r ← fmtChecks c w x
    lastUse c ((w.luB, .code w.b) :: (if w.a = 20#6 then [] else [(w.luA, .code w.a)]))
    M.upd (fmtStart c w x r)
    pure .next)

/-- The half that MX.LDB fills: one that no pending operation uses and no load fills, the one less recently completed. -/
def freeHalf (s : State) (q : Nat) : Option Nat :=
  (((s.quad q).halves.zipIdx).filter (fun p => p.1.users == 0 && !loading s q p.2)).foldl (fun (b : Option (Nat × Nat)) p =>
    let age := if p.1.ready then p.1.order else 0
    match b with
    | none => some (p.2, age)
    | some (k, o) => if age < o then some (p.2, age) else some (k, o)) none |>.map (fun p => p.1)

/-- Bytes of a B row in the width that MX.LDB names (R256). -/
def ldbWidth (x : W1) : Nat := if WF.mxFmt x = 0 then 128 else if WF.mxFmt x = 1 then 64 else 256

/-- The checks of MX.LDB (R256): its control fields and the place of the rows; it waits for a free half. -/
def ldbChecks (c : Ctx) (w : W0) (x : W1) : M Control := do
  let b := Src.code w.b
  checkQueue c 0 (tokOf w)
  checkSrcs c (b :: ctlSrcs x) c.on
  let k ← readControl c x false
  trapIf c (decide (65536 < k.count * ldbWidth x)) 15
  let s ← M.st
  let _ ← checkSpan c (srcVal s c b 0) (k.count * ldbWidth x) 16
  needZero c (fun s => (b :: ctlSrcs x).map (fun y => srcLbl s c y 0))
  M.await (freeHalf s c.quad).isSome
  awaitAcq c (WF.mxAcq x) (WF.mxScope x)
  pure k

/-- MX.LDB takes the free half for the rows that it is to read, and its command is in flight; the reads are performed by MX_CONSUMED
(R247, R256). -/
def ldbStart (c : Ctx) (w : W0) (x : W1) (k : Control) (s : State) : State :=
  let h := (freeHalf s c.quad).getD 0
  let half : BHalf := BHalf.mk [] (ldbWidth x) 0#8 (s.warp c.w).gang false 0 0 (some (srcVal s c (.code w.b) 0, k.count))
  let s := s.modQuad c.quad (fun q => { q with halves := setAt q.halves h half })
  startMx s (mxCmd s c w x k.tag 0#8 (.mx 0x5D k.first 0#8 0#8 [] none (some h) [])) k.first true

/-- MX.LDB (R242, R256). -/
def execMxLdb (p : Pfx) (w : W0) (x : W1) (s : State) : Out :=
  issue p (WF.mx_ldb p w x) s (fun c => do
    let k ← ldbChecks c w x
    lastUse c [(w.luB, .code w.b)]
    M.upd (ldbStart c w x k)
    pure .next)

/-! MX.ZERO, MX.WR, MX.RD, MX.QNT, MX.RDV (R260 to R263). -/

/-- The checks of MX.ZERO (R260): its control fields. -/
def zeroChecks (c : Ctx) (w : W0) (x : W1) : M Control := do
  checkQueue c 0 (tokOf w)
  checkSrcs c (ctlSrcs x) c.on
  let k ← readControl c x false
  needZero c (fun s => (ctlSrcs x).map (fun y => srcLbl s c y 0))
  pure k

/-- MX.ZERO clears its rows, and its command is in flight (R260). -/
def zeroStart (c : Ctx) (w : W0) (x : W1) (k : Control) (s : State) : State :=
  let rs := rowsFrom k.first (k.first + k.count)
  let s := zeroRows s c.quad rs
  startMx s (mxCmd s c w x k.tag 0#8 (.mx 0x60 k.first 0#8 0#8 [] none none rs)) k.first false

/-- MX.ZERO (R260). -/
def execMxZero (p : Pfx) (w : W0) (x : W1) (s : State) : Out :=
  issue p (WF.mx_zero p w x) s (fun c => do
    let k ← zeroChecks c w x
    M.upd (zeroStart c w x k)
    pure .next)

/-- An element that MX.WR widens to FP32 (R260). -/
def wrElem (code : Nat) (ftz : Bool) (x : Nat) : Nat × BitVec 8 :=
  let f := if code = 0 then Fmt.f32 else if code = 1 then Fmt.f16 else Fmt.bf16
  let v := f.decode ftz x
  let fl := if v.signalling then fNV else 0#8
  match v with
  | .nan neg _ => (Fmt.f32.nanCode neg, fl)
  | .inf neg => (Fmt.f32.encode (Fmt.f32.maxNum neg), fSAT)
  | y => ((Fmt.f32.pack false RM.plain y).1, fl)

/-- Write one row from its bytes. -/
def wrRow (code : Nat) (ftz : Bool) (bs : List Byte) : SMap Word × BitVec 8 :=
  let n := if code = 0 then 4 else 2
  (List.range 128).foldl (fun (r : SMap Word × BitVec 8) k =>
    let (u, fl) := wrElem code ftz (leAt bs (n * k) n)
    (r.1.set 0#32 k (BitVec.ofNat 32 u), r.2 ||| fl)) ([], 0#8)

/-- Bytes of a row that MX.WR reads (R260). -/
def wrStride (x : W1) : Nat := if WF.mxFmt x = 0 then 512 else 256

/-- The checks of MX.WR (R260): its control fields and the place of the rows. -/
def wrChecks (c : Ctx) (w : W0) (x : W1) : M (Control × (Nat × Nat)) := do
  let b := Src.code w.b
  checkQueue c 0 (tokOf w)
  checkSrcs c (b :: ctlSrcs x) c.on
  let k ← readControl c x false
  let s ← M.st
  let p ← checkSpan c (srcVal s c b 0) (k.count * wrStride x) 64
  needZero c (fun s => (b :: ctlSrcs x).map (fun y => srcLbl s c y 0))
  awaitAcq c (WF.mxAcq x) (WF.mxScope x)
  pure (k, p)

/-- Write the rows of MX.WR, each from its bytes: the flags, and the labels of the rows that set them. -/
def wrRows (c : Ctx) (p : Pfx) (x : W1) (k : Control) (pl : Nat × Nat) (s : State) : (BitVec 8 × List Label) × State :=
  (rowsFrom k.first (k.first + k.count)).zipIdx.foldl (fun (acc : (BitVec 8 × List Label) × State) r =>
    let sp := readSpan s (s.warp c.w).grid (pl.1, pl.2 + r.2 * wrStride x) (wrStride x)
    let (cols, f) := wrRow (WF.mxFmt x) (ftzOf p) sp.1
    let (l, t) := acc.2.joinList c.w (sp.2.1 ++ [c.sub.maskLabel])
    ((acc.1.1 ||| f, if f = 0#8 then acc.1.2 else l :: acc.1.2), setRow t c.quad r.1 ⟨cols, l, false, false⟩)) ((0#8, []), s)

/-- MX.WR writes its rows, and its command is in flight; bytes that hold poison write nothing, and POISON is delivered (R260, R386). -/
def wrStart (c : Ctx) (p : Pfx) (w : W0) (x : W1) (k : Control) (pl : Nat × Nat) (s : State) : State :=
  if (readSpan s (s.warp c.w).grid pl (k.count * wrStride x)).2.2 then
    startMx (deliverPoison s c (srcVal s c (.code w.b) 0)) (mxCmd s c w x k.tag 0#8 (.mx 0x62 k.first 0#8 0#8 [] none none [])) k.first true
  else
    let ((fl, ls), s) := wrRows c p x k pl s
    let (l, s) := s.joinList c.w ls
    startMx s (mxCmd s c w x k.tag 0#8 (.mx 0x62 k.first fl l [] none none (rowsFrom k.first (k.first + k.count)))) k.first true

/-- MX.WR (R260). -/
def execMxWr (p : Pfx) (w : W0) (x : W1) (s : State) : Out :=
  issue p (WF.mx_wr p w x) s (fun c => do
    let r ← wrChecks c w x
    lastUse c [(w.luB, .code w.b)]
    M.upd (wrStart c p w x r.1 r.2)
    pure .next)

/-- Bits of an element that MX.RD or MX.QNT writes, by its code of R157. -/
def rdBits (code : Nat) : Nat := if code = 0 ∨ code = 3 then 32 else if code ≤ 2 then 16 else if code = 13 then 4 else 8

/-- Pack elements into bytes. -/
def rdBytes (bits : Nat) (xs : List Nat) : List Byte :=
  if bits = 4 then (List.range (xs.length / 2)).map (fun k => BitVec.ofNat 8 ((xs[2 * k]?).getD 0 % 16 + 16 * ((xs[2 * k + 1]?).getD 0 % 16)))
  else (xs.map (fun v => le (bits / 8) v)).flatten

/-- The rounding, flush and saturation of a PFX.RS on a matrix command; it draws no stochastic bits (R253). -/
def mxRM (p : Pfx) : RM :=
  match p.rs with
  | none => RM.plain
  | some r => ⟨r.rnd, r.ftz, r.sat, 0⟩

/-- An accumulator value converted by MX.RD (R261): `e` is the scale code, where one is given. -/
def rdElem (code : Nat) (r : RM) (e : Option Nat) (x : Nat) : Nat × BitVec 8 :=
  let v := Fmt.f32.decode r.ftz x
  let fl := if v.signalling then fNV else 0#8
  let nan := match e with
    | some k => k == 255
    | none => false
  let y := match e with
    | some k => scaleBy v k
    | none => v
  match fmtOf code with
  | .float f =>
    if nan then
      if r.sat == .unit || r.sat == .signed then (0, fl ||| fNV ||| fSAT)
      else if f.nan == .none then (f.encode (f.maxNum v.neg), fl ||| fNV ||| fNANLOST) else (f.nanCode false, fl ||| fNV)
    else
      let (u, g) := f.pack (code != 0) r y
      (u, fl ||| g)
  | .int n sg =>
    let (u, g) := packInt n sg r (if nan then .nan v.neg false else y)
    (u, fl ||| g ||| (if nan then fNV else 0#8))
  | .scale => (0, fl)

/-- The scale that MX.QNT chooses for a block (R118). -/
def qntScale (f : Fmt) (vs : List Num) : Nat :=
  if vs.any Num.isNan then 255
  else
    let fits (e : Nat) : Bool := vs.all (fun v => match v with
      | .fin _ m k _ => !magLt f.maxFin.1 f.maxFin.2 m (k + 127 - e)
      | .inf _ => false
      | .nan _ _ => true)
    ((List.range 255).find? fits).getD 254

/-- An element that MX.QNT writes (R118, R261). -/
def qntElem (f : Fmt) (r : RM) (e : Nat) (v : Num) : Nat × BitVec 8 :=
  if e = 255 then
    if f.nan == .none then (f.encode (f.maxNum v.neg), fNV ||| fNANLOST) else (f.nanCode false, fNV)
  else
    f.pack true { r with sat := .range } (match v with
      | .fin neg m k more => .fin neg m (k + 127 - e) more
      | y => y)

/-- One row quantised: element codes, the four scales, flags. -/
def qntRow (code : Nat) (r : RM) (row : AccRow) : List Nat × List Nat × BitVec 8 :=
  match fmtOf code with
  | .float f =>
    (List.range 4).foldl (fun (a : List Nat × List Nat × BitVec 8) j =>
      let vs := (List.range 32).map (fun k => Fmt.f32.decode r.ftz (row.cols.get 0#32 (32 * j + k)).toNat)
      let e := qntScale f vs
      let us := vs.map (qntElem f r e)
      (a.1 ++ us.map (fun u => u.1), a.2.1 ++ [e], us.foldl (fun x u => x ||| u.2) a.2.2)) ([], [], 0#8)
  | _ => ([], [], 0#8)

/-- Bytes of a row that MX.RD or MX.QNT writes. -/
def rdWidth (x : W1) : Nat := 16 * rdBits (WF.mxFmt x)

/-- What a read of rows has checked: its control fields, the place of the rows, and that of MX.QNT's scales. -/
structure RowRead where
  ctl : Control
  dst : Nat × Nat
  scales : Nat × Nat
  deriving DecidableEq, Repr

/-- The checks of MX.RD and MX.QNT (R261, R262). -/
def readChecks (c : Ctx) (quant : Bool) (w : W0) (x : W1) : M RowRead := do
  let a := Src.code w.a
  let b := Src.code w.b
  let as := if w.a = 20#6 then [] else [a]
  checkQueue c 0 (tokOf w)
  checkSrcs c (b :: as ++ ctlSrcs x) c.on
  let k ← readControl c x false
  let s ← M.st
  let dst ← checkSpan c (srcVal s c b 0) (k.count * rdWidth x) 64
  let sca ← (if quant then checkSpan c (srcVal s c a 0) (4 * k.count) 1 else pure (0, 0))
  needZero c (fun s => (b :: as ++ ctlSrcs x).map (fun y => srcLbl s c y 0))
  trapIf c ((rowsFrom k.first (k.first + k.count)).any (fun r => (accRow s c.quad r).poison)) 18
  awaitAcq c (WF.mxAcq x) (WF.mxScope x)
  pure ⟨k, dst, sca⟩

/-- What one row becomes (R118, R261): element codes, scales, flags; `e` is MX.RD's scale code, where one is given. -/
def rowOut (p : Pfx) (quant : Bool) (x : W1) (e : Option Nat) (row : AccRow) : List Nat × List Nat × BitVec 8 :=
  if quant then qntRow (WF.mxFmt x) (mxRM p) row
  else
    let us := (List.range 128).map (fun n => rdElem (WF.mxFmt x) (mxRM p) e (row.cols.get 0#32 n).toNat)
    (us.map (fun u => u.1), [], us.foldl (fun x u => x ||| u.2) 0#8)

/-- The writes that a read of rows makes, with the label of each row and its flags. -/
def readOut (s : State) (c : Ctx) (p : Pfx) (quant : Bool) (x : W1) (e : Option Nat) (r : RowRead) : List (Label × BitVec 8 × List RowWrite) :=
  (rowsFrom r.ctl.first (r.ctl.first + r.ctl.count)).zipIdx.map (fun q =>
    let row := accRow s c.quad q.1
    let res := rowOut p quant x e row
    (row.lbl, res.2.2, [(⟨r.dst.1 * 2 ^ 22 + r.dst.2 + q.2 * rdWidth x, rdBytes (rdBits (WF.mxFmt x)) res.1, row.lbl⟩ : RowWrite)] ++
      (if quant then [⟨r.scales.1 * 2 ^ 22 + r.scales.2 + 4 * q.2, res.2.1.map (fun v => BitVec.ofNat 8 v), row.lbl⟩] else [])))

/-- MX.RD and MX.QNT read their rows, and their command is in flight with what it will write (R261, R262). -/
def readStart (c : Ctx) (p : Pfx) (quant : Bool) (w : W0) (x : W1) (r : RowRead) (s : State) : State :=
  let e := if quant ∨ w.a = 20#6 then none else some (field (srcVal s c (.code w.a) 0) 0 8).toNat
  let out := readOut s c p quant x e r
  let fl := out.foldl (fun x o => x ||| o.2.1) 0#8
  let (l, s) := s.joinList c.w ((out.filter (fun o => o.2.1 != 0#8)).map (fun o => o.1))
  startMx s (mxCmd s c w x r.ctl.tag 0#8
    (.mx (if quant then 0x64 else 0x61) r.ctl.first fl l ((out.map (fun o => o.2.2)).flatten) none none [])) r.ctl.first true

/-- MX.RD and MX.QNT (R261, R262): rows are read at issue; what they write waits for "done". -/
def readBody (c : Ctx) (p : Pfx) (quant : Bool) (w : W0) (x : W1) : M Done := do
  let r ← readChecks c quant w x
  lastUse c ((w.luB, .code w.b) :: (if w.a = 20#6 then [] else [(w.luA, .code w.a)]))
  M.upd (readStart c p quant w x r)
  pure .next

/-- MX.RD (R261). -/
def execMxRd (p : Pfx) (w : W0) (x : W1) (s : State) : Out := issue p (WF.mx_rd p w x) s (fun c => readBody c p false w x)
/-- MX.QNT (R261). -/
def execMxQnt (p : Pfx) (w : W0) (x : W1) (s : State) : Out := issue p (WF.mx_qnt p w x) s (fun c => readBody c p true w x)

/-- Whether a command that writes one of the rows is not done. -/
def rowsBusy (s : State) (q a b : Nat) : Bool := s.cmds.any (fun e => e.2.quad == q && (match e.2.op with
  | .mx _ _ _ _ _ _ _ rows => rows.any (fun r => decide (a ≤ r) && decide (r < b))
  | _ => false))

/-- The checks of MX.RDV (R263): its control fields; it waits for commands that write the rows. -/
def rdvChecks (c : Ctx) (w : W0) (x : W1) : M Control := do
  checkDst c (dstD w x)
  checkSrcs c (ctlSrcs x) c.on
  let k ← readControl c x false
  trapIf c (decide (32 < k.count)) 12
  needZero c (fun s => (ctlSrcs x).map (fun y => srcLbl s c y 0))
  let s ← M.st
  M.await (!rowsBusy s c.quad k.first (k.first + k.count))
  let bad := maskOf (fun i => hasLane (c.on &&& lanesBelow k.count) i && (accRow s c.quad (k.first + i)).poison)
  trapIf c (bad != 0#32) 18 bad
  pure k

/-- What a lane of MX.RDV reads. -/
def rdvVal (s : State) (c : Ctx) (x : W1) (k : Control) (i : Nat) : Word := (accRow s c.quad (k.first + i)).cols.get 0#32 (WF.mxOp x)

/-- MX.RDV (R263). -/
def execMxRdv (p : Pfx) (w : W0) (x : W1) (s : State) : Out :=
  issue p (WF.mx_rdv p w x) s (fun c => do
    let k ← rdvChecks c w x
    let s ← M.st
    let lanes := c.on &&& lanesBelow k.count
    let ls ← M.run' (fun s => s.joinLanes c.w lanes (fun i => [(accRow s c.quad (k.first + i)).lbl, pathIn s c.w c.on i]))
    writeLanes c w (dstD w x) 1 (lanes ||| c.helpers)
      (fun i => if hasLane lanes i then [rdvVal s c x k i] else [])
      (fun i => if hasLane lanes i then ls.get 0#8 i else 0#8)
    pure .next)

end Sys2Proof.Machine
end

