-- ==== Sys2Proof/Machine/Queues.lean ====
section
/-! DEFINITION. The queue instructions (R14 to R18, R206) and the delivery of held entries (R17). -/

namespace Sys2Proof.Machine

open Sys2Proof

/-- A queue register is unbound (R206, R316): its waiting entries and those that producers hold go to the grid fault record, and a
mailbox is unbound with it. -/
def unbindQueue (s : State) (w q : Nat) : State :=
  let u := (s.warp w).queue q
  match u.kind with
  | none => s
  | some k =>
    let s := (u.entries ++ u.back).foldl (fun s e => queueRecord s w k q e) s
    let s := if k = 2 then s.modMailbox (u.mailbox / 512) (u.mailbox % 512) (fun b => { b with bound := false }) else s
    s.modWarp w (fun x => x.setQueue q Queue.free)

/-- Whether QBIND may bind a queue register to a kind (R14, R206): codes 0, 1, 3, 4 and 5; one register at most for 3, 4 and 5. -/
def mayBind (x : Warp) (q k : Nat) : Bool :=
  (x.queue q).kind.isNone && (k == 0 || k == 1 || (decide (3 ≤ k) && decide (k ≤ 5) && (x.bound k).isNone))

/-- Queue register `q` is bound to a kind, and the warp holds it (R206). -/
def bindQueue (w q k : Nat) (s : State) : State :=
  registerHolding (s.modWarp w (fun y => y.setQueue q { Queue.free with kind := some k })) w (Holding.fresh 5 1 0 q 0)

/-- QBIND (R14, R206). -/
def execQbind (p : Pfx) (w : W0) (s : State) : Out :=
  issue p (WF.qbind p w) s (fun c => do
    let q := w.d.toNat
    let k := w.a.toNat
    let s ← M.st
    trapIf c (!mayBind (s.warp c.w) q k) 13
    if !canRegister s c.w then trapEstate c 1 else pure ()
    M.upd (fun s => commit s c.w)
    M.upd (bindQueue c.w q k)
    pure .next)

/-- The words of an entry, low first (R16). -/
def entryWords (e : QEntry) : List Word := [lo32 e.data, hi32 e.data]

/-- The oldest entry of a warp's queue is popped. -/
def popQ (w q : Nat) (s : State) : State :=
  match popQueue (s.warp w) q with
  | none => s
  | some (_, y) => s.setWarp w y

/-- Pop the oldest entry into a uniform pair, labelled with the entry and the mask label (R16). -/
def popInto (c : Ctx) (w : W0) (q : Nat) : M Unit := do
  let s ← M.st
  match ((s.warp c.w).queue q).entries.head? with
  | none => pure ()
  | some e =>
    let l ← M.run' (fun s => s.join c.w e.lbl c.sub.maskLabel)
    M.upd (popQ c.w q)
    writeUni c w (Dst.ofCode w.d) (entryWords e) l

/-- QRD (R16, R206): the blocking read. -/
def execQrd (p : Pfx) (w : W0) (s : State) : Out :=
  issue p (WF.qrd p w) s (fun c => do
    let q := w.a.toNat
    let s ← M.st
    trapIf c ((s.warp c.w).queue q).kind.isNone 13
    M.await (!((s.warp c.w).queue q).entries.isEmpty)
    popInto c w q
    pure .next)

/-- QPOLL (R16, R206): the read that never blocks; the mask register says whether an entry was popped, also where write-back is
suppressed. -/
def execQpoll (p : Pfx) (w : W0) (s : State) : Out :=
  issue p (WF.qpoll p w) s (fun c => do
    let q := w.a.toNat
    let k := w.b.toNat
    let s ← M.st
    trapIf c ((s.warp c.w).queue q).kind.isNone 13
    let any := !((s.warp c.w).queue q).entries.isEmpty
    if any then popInto c w q
    else
      let r := getLane (s.warp c.w) (Dst.ofCode w.d) 0 0
      M.upd (fun s => capture c w.latch.toNat ((List.range 32).foldl (fun (m : SMap Reg) i =>
        m.set Reg.zero i (if w.wbs then ⟨0#32, c.sub.maskLabel, false, false⟩ else { r with dead := false })) []) s)
    M.upd (fun s => setMask s c.w k (if any then BitVec.allOnes 32 else 0#32)
      ((List.range 32).foldl (fun (m : SMap Label) i => m.set 0#8 i c.sub.maskLabel) []))
    pure .next)

/-- QWR (R206): the action push of MB.SEND on a mailbox's queue, QUEUE on any other. -/
def execQwr (p : Pfx) (w : W0) (s : State) : Out := issue p (WF.qwr p w) s (fun c => sendPair c w)

/-- QFREE (R206). -/
def execQfree (p : Pfx) (w : W0) (s : State) : Out :=
  issue p (WF.qfree p w) s (fun c => do
    let q := w.d.toNat
    let s ← M.st
    trapIf c ((s.warp c.w).queue q).kind.isNone 13
    M.upd (fun s => commit s c.w)
    M.upd (fun s => discharge (unbindQueue s c.w q) c.w 5 0 q)
    pure .next)

/-- QUEUE_HELD_ENTRY_DELIVER (R17, R221): the oldest entry that a producer holds for a queue goes in once there is room and the warp is
not saved. -/
def execQueueHeldEntryDeliver (w q : Nat) (s : State) : Out :=
  let x := s.warp w
  let u := x.queue q
  match u.back with
  | [] => off s
  | e :: rest =>
    if u.used < 8 ∧ u.kind.isSome ∧ (x.life = .resident ∨ x.life = .saving) then
      did (s.setWarp w (x.setQueue q { u with entries := u.entries ++ [e], back := rest }))
    else off s

end Sys2Proof.Machine
end

