-- ==== Sys2Proof/Machine/Estate.lean ====
section
/-! DEFINITION. The estate unit (R325 to R344): lock words, promises, heirs and wills, conveyance, notices and probate. -/

namespace Sys2Proof.Machine

open Sys2Proof

/-! Lock words (R328). -/

/-- Fields of a lock word. -/
def lockOwner (m : DWord) : Nat := (field m 0 32).toNat
def lockBereaved (m : DWord) : Bool := m.getLsbD 32
def lockCount (m : DWord) : BitVec 16 := field m 48 16
/-- A lock word: owner, the bits bereaved, orphan and probate, and the count. -/
def lockWord (owner : Nat) (bereaved orphan probate : Bool) (count : BitVec 16) : DWord :=
  count ++ 0#13 ++ BitVec.ofBool probate ++ BitVec.ofBool orphan ++ BitVec.ofBool bereaved ++ BitVec.ofNat 32 owner

/-- Whether a lock word can be taken by a warp (R339). -/
def mayTake (m : DWord) (w : Nat) : Bool := lockOwner m == 0 || (lockOwner m == w % 2 ^ 32 && lockBereaved m)

/-- The copy that performs an access of the es path: home or bank. -/
def esRead (s : State) (w : Nat) (n : Nat) : Place → List Byte
  | .mem p => s.readLoc (homeDie p.loc.pa) p.loc n
  | .spad b off => (s.spadOf w b).read off n

/-- The granule's label there. -/
def esLabel (s : State) (w : Nat) : Place → Label
  | .mem p => s.labelLoc (homeDie p.loc.pa) p.loc
  | .spad b off => (s.spadOf w b).label off

/-- The die that asked for an atomic has its answer: its clock merges the home's (R51). -/
def esAnswer (s : State) (d : Nat) (l : Loc) : State := s.setClock d (clockMax (s.clockOf d) (s.clockOf (homeDie l.pa)))

/-- An atomic of the es path that finds nothing to write: its request ticks the die's clock, and the answer comes back (R51). -/
def esLook (s : State) (d : Nat) : Place → State
  | .mem p => esAnswer (s.tick d 1) d p.loc
  | .spad _ _ => s

/-- Write on the es path, as an atomic is performed, for which the clock of the die that asks ticks (R51, R60, R328). -/
def esWrite (s : State) (w d v : Nat) (va : DWord) (bs : List Byte) : Place → State
  | .mem p =>
    let s := s.tick d 1
    esAnswer (s.performAtHome w v 7 0 p.loc va bs none (s.clockOf d)) d p.loc
  | .spad b off => s.modSpad w b (fun q => q.write off bs)

/-- An atomic of the es path can be performed now (R51, R52, R374). -/
def esReady (s : State) (w d n : Nat) : Place → Bool
  | .mem p =>
    let l := p.loc
    let clk := clockMax (s.clockOf (homeDie l.pa)) (s.clockOf d)
    !s.blocked l && !(s.die (homeDie l.pa)).fenced && !s.flights.any (fun f => f.warp == w && State.overlaps f l n && !f.atHome) &&
    s.caughtUp (homeDie l.pa) clk && s.caughtUp d clk
  | .spad _ _ => true

/-! Finding holdings by reference. -/

/-- The word of a scratchpad reference of a grid, as block and offset. -/
def spadRef (s : State) (g : Nat) (h : Holding) : Option (Nat × Nat) := spadLoc s g h.block (BitVec.ofNat 32 h.ref) 4

/-- Whether a holding of a warp of grid `g` is one of a kind on the address that block `b` writes. -/
def onAddr (s : State) (g b kind : Nat) (addr : DWord) (h : Holding) : Bool :=
  h.kind == kind && (if kind == 0 || kind == 3 then h.ref == addr.toNat
    else spadRef s g h == spadLoc s g b (lo32 addr) 4)

/-- The place of a warp's holding of a kind: kinds 0 to 4 by address, 5 by queue number, 6 the one that there is. -/
def holdingAt (s : State) (w kind : Nat) (addr : DWord) (q : Nat) : Option Nat :=
  let x := s.warp w
  if kind ≤ 4 then x.estate.findIdx? (onAddr s x.grid x.block kind addr) else findHolding x kind 0 q

/-- The holding of a kind on an address is discharged. -/
def dischargeAt (s : State) (w kind : Nat) (addr : DWord) : State :=
  match holdingAt s w kind addr 0 with
  | some k => s.modWarp w (fun x => { x with estate := x.estate.eraseIdx k })
  | none => s

/-! LOCK, TRYLOCK, UNLOCK (R339, R340). -/

/-- Space and scope of a lock instruction. -/
def lockSpad (w : W0) : Bool := w.b.getLsbD 0
def lockScope (w : W0) : Nat := (field w.b 1 3).toNat

/-- The common checks of a lock instruction (R339): steps 1 to 5 of R188, no host memory, no window, and the store check of R34. -/
def lockCheck (c : Ctx) (w : W0) : M Place := do
  let spad := lockSpad w
  let a := Src.code w.a
  checkSrcs c (addrSrcs spad a) c.on
  let s ← M.st
  let addr := objAddr s c spad a
  let al ← M.run' (fun s => s.joinList c.w (addrLbls s c spad a 0))
  if !spad && addr.toNat % 8 == 0 && (s.window c.vd addr).isSome then
    M.stop (accessTrap c .prot c.on (fun _ => addr) (fun _ => al) 2)
  else
    let ps ← checkAccess c spad c.on (fun _ => addr) 8 .atomic (fun _ => al)
    let pl := placeOf ps ((lowestLane c.on).getD 0)
    awaitLabels c ps
    let l ← M.run' (fun s => s.joinList c.w (addrLbls s c spad a 0 ++ [c.sub.maskLabel]))
    let s ← M.st
    requireDomAt c 6 c.on ((lanesOf c.on).map (fun i => (i, l))) (fun _ => guardLabel s c pl) (fun _ => addr)
    trapIf c (placePoison s c 8 pl) 18
    M.await (esReady s c.w c.die 8 pl)
    pure pl

/-- The kind of holding that a lock instruction registers (R325), and the address that it names. -/
def lockKind (w : W0) : Nat := if lockSpad w then 1 else 0
def lockAddr (s : State) (c : Ctx) (w : W0) : DWord := objAddr s c (lockSpad w) (.code w.a)

/-- The lock word at a place, as its home or bank holds it. -/
def lockAt (s : State) (w : Nat) (pl : Place) : DWord := ofBytes 64 (esRead s w 8 pl)

/-- The checks of LOCK and TRYLOCK (R339): the word's place; a LOCK of a word that cannot be taken waits. -/
def lockChecks (c : Ctx) (w : W0) (waits : Bool) : M Place := do
  let pl ← lockCheck c w
  let s ← M.st
  let m := lockAt s c.w pl
  if lockOwner m == c.w % 2 ^ 32 && !lockBereaved m then trapEstate c 3 else pure ()
  if (holdingAt s c.w (lockKind w) (lockAddr s c w) 0).isNone && !canRegister s c.w then trapEstate c 1 else pure ()
  if !mayTake m c.w && waits then M.stop (.lock (lockSpad w) (lockAddr s c w)) else pure ()
  pure pl

/-- A word that can be taken is taken, and the holding registered where it is not yet (R328, R339); the region commits. -/
def takeLock (c : Ctx) (w : W0) (tag : BitVec 16) (pl : Place) (s : State) : State :=
  let m := lockAt s c.w pl
  let addr := lockAddr s c w
  let t := commit s c.w
  if mayTake m c.w then
    let t := esWrite t c.w c.die c.vd addr (toBytes (lockWord c.w false false false (lockCount m + 1)) 8) pl
    if (holdingAt s c.w (lockKind w) addr 0).isSome then t
    else registerHolding t c.w { Holding.fresh (lockKind w) (lockScope w) tag.toNat 0 addr.toNat with block := (s.warp c.w).block }
  else esLook t c.die pl

/-- LOCK and TRYLOCK (R339): `try'` is the mask register of TRYLOCK. -/
def lockBody (c : Ctx) (w : W0) (tag : BitVec 16) (try' : Option Nat) : M Done := do
  let pl ← lockChecks c w try'.isNone
  let s ← M.st
  let a := Src.code w.a
  let m := lockAt s c.w pl
  let l ← M.run' (fun s => s.joinList c.w (esLabel s c.w pl :: addrLbls s c (lockSpad w) a 0 ++ [c.sub.maskLabel]))
  lastUse c ((addrSrcs (lockSpad w) a).map (fun y => (w.luA, y)))
  M.upd (takeLock c w tag pl)
  match try' with
  | some k =>
    if w.wbs then pure ()
    else M.upd (fun s => setMask s c.w k (if mayTake m c.w then BitVec.allOnes 32 else 0#32)
      ((List.range 32).foldl (fun (m : SMap Label) i => m.set 0#8 i l) []))
  | none => pure ()
  writeUni c w (Dst.ofCode w.d) [lo32 m, hi32 m] l
  pure .next

/-- LOCK, 32-bit form (R339). -/
def execLock32 (p : Pfx) (w : W0) (s : State) : Out := issue p (WF.lock_32 p w) s (fun c => lockBody c w 0#16 none)
/-- LOCK, 64-bit form (R339). -/
def execLock64 (p : Pfx) (w : W0) (x : W1) (s : State) : Out := issue p (WF.lock_64 p w x) s (fun c => lockBody c w x.hi none)
/-- TRYLOCK, 32-bit form (R339). -/
def execTrylock32 (p : Pfx) (w : W0) (s : State) : Out := issue p (WF.trylock_32 p w) s (fun c => lockBody c w 0#16 (some 0))
/-- TRYLOCK, 64-bit form (R339). -/
def execTrylock64 (p : Pfx) (w : W0) (x : W1) (s : State) : Out :=
  issue p (WF.trylock_64 p w x) s (fun c => lockBody c w x.hi (some x.c.toNat))

/-- The checks of UNLOCK (R340), with some lane on: the word is the warp's own and held, and its writes are performed in its scope. -/
def unlockChecks (c : Ctx) (w : W0) : M (Option Place) := do
  if c.on = 0#32 then pure none
  else
    let pl ← lockCheck c w
    let s ← M.st
    if lockOwner (lockAt s c.w pl) != c.w % 2 ^ 32 || (holdingAt s c.w (lockKind w) (lockAddr s c w) 0).isNone then trapEstate c 2 else pure ()
    M.await (settled s c.w c.die (lockScope w) (fun _ => true))
    pure (some pl)

/-- The word is left without an owner, with the mark, and the holding discharged (R340); the region commits. -/
def leaveWord (c : Ctx) (w : W0) (mark : Bool) (pl : Option Place) (s : State) : State :=
  match pl with
  | none => s
  | some pl =>
    let addr := lockAddr s c w
    dischargeAt (esWrite (commit s c.w) c.w c.die c.vd addr (toBytes (lockWord 0 mark false false (lockCount (lockAt s c.w pl))) 8) pl) c.w (lockKind w) addr

/-- UNLOCK (R340). -/
def unlockBody (c : Ctx) (w : W0) (mark : Bool) : M Done := do
  let pl ← unlockChecks c w
  lastUse c ((addrSrcs (lockSpad w) (.code w.a)).map (fun y => (w.luA, y)))
  M.upd (leaveWord c w mark pl)
  pure .next

/-- UNLOCK, 32-bit form (R340). -/
def execUnlock32 (p : Pfx) (w : W0) (s : State) : Out := issue p (WF.unlock_32 p w) s (fun c => unlockBody c w false)
/-- UNLOCK, 64-bit form (R340). -/
def execUnlock64 (p : Pfx) (w : W0) (x : W1) (s : State) : Out :=
  issue p (WF.unlock_64 p w x) s (fun c => unlockBody c w (x.hi.getLsbD 0))

/-- The lock word that a waiting LOCK of a warp names, where it still translates. -/
def lockSeen (s : State) (w : Nat) (spad : Bool) (addr : DWord) : Option DWord :=
  let x := s.warp w
  if spad then (spadLoc s x.grid x.block (lo32 addr) 8).map (fun p => lockAt s w (.spad p.1 p.2))
  else match (s.translate (.quad x.quad) x.vd addr .atomic true true).1 with
    | .ok p => some (lockAt s w (.mem p))
    | .error _ => none

/-- Whether a sub-warp waits in LOCK for a word that can now be taken, or that no longer translates. -/
def lockDue (s : State) (w : Nat) (u : SubWarp) : Bool :=
  match u.hold with
  | .locking spad addr => ((lockSeen s w spad addr).map (fun m => mayTake m w)).getD true
  | _ => false

/-- LOCK_RETRY (R339): the word of a waiting LOCK of a warp has changed so that it can be taken: its sub-warp is ready again. -/
def execLockRetry (w : Nat) (s : State) : Out :=
  match (s.warp w).subs.find? (lockDue s w) with
  | some u => did (makeReady s w u)
  | none => off s

/-! PROMISE, HEIR, WILL, ESTQ (R341 to R344). -/

/-- The checks of PROMISE (R341), with some lane on: the word's address. -/
def promiseChecks (c : Ctx) (a : Src) : M (Option DWord) := do
  if c.on = 0#32 then pure none
  else
    checkSrcs c [a] c.on
    let s ← M.st
    let addr : DWord := zext (srcVal s c a 0) 64
    let al := srcLbl s c a 0
    let ps ← checkAccess c true c.on (fun _ => addr) 4 .write (fun _ => al)
    let pl := placeOf ps ((lowestLane c.on).getD 0)
    let l ← M.run' (fun s => s.joinList c.w [al, c.sub.maskLabel])
    let s ← M.st
    requireDomAt c 6 c.on ((lanesOf c.on).map (fun i => (i, l))) (fun _ => guardLabel s c pl) (fun _ => addr)
    let tag := match pl with
      | .spad b off => (s.spadOf c.w b).tag (off / 4)
      | .mem _ => .empty
    if tag ≠ .empty then trapEstate c 5 else pure ()
    if !canRegister s c.w then trapEstate c 1 else pure ()
    pure (some addr)

/-- The promise is registered (R341); the region commits. -/
def promised (c : Ctx) (addr : Option DWord) (s : State) : State :=
  match addr with
  | none => s
  | some addr => registerHolding (commit s c.w) c.w { Holding.fresh 2 2 0 0 addr.toNat with block := (s.warp c.w).block }

/-- PROMISE (R341). -/
def execPromise (p : Pfx) (w : W0) (s : State) : Out :=
  issue p (WF.promise p w) s (fun c => do
    let r ← promiseChecks c (.code w.a)
    lastUse c [(w.luA, .code w.a)]
    M.upd (promised c r)
    pure .next)

/-- Whether an heir specification from a register is valid for a warp (R329, R342, R343): its code, its zero bits, and a warp of the
block that is not the issuer. -/
def goodSpec (s : State) (w : Nat) (spec : BitVec 16) : Bool :=
  let code := (field spec 0 3).toNat
  let n := (field spec 3 4).toNat
  let warps := (((s.record w).lanes + 31) / 32)
  field spec 7 9 == 0#9 && code != 6 && (code == 1 || code == 4 || n == 0) &&
  (code != 1 || (decide (n < warps) && n != (s.warp w).index))

/-- HEIR's seat that is not registered: steps 1 to 4 of R188 on its 32 bytes (R342). -/
def checkSeat (c : Ctx) (spad : Bool) (addr : DWord) (al : Label) : M Unit := do
  let s ← M.st
  let bad (e : AccessFault) : M Unit := M.stop (accessTrap c e c.on (fun _ => addr) (fun _ => al) 2)
  if addr.toNat % 32 ≠ 0 then bad .align
  else if spad then
    match spadLoc s (s.warp c.w).grid (s.warp c.w).block (lo32 addr) 32 with
    | some _ => pure ()
    | none => bad .bounds
  else
    let (r, t) := s.translate (.quad c.quad) c.vd addr .atomic false true
    match r with
    | .ok _ => M.upd (fun _ => t)
    | .error e => bad e

/-- The heir that HEIR names for a holding: its kind and address, the specification and tag, and the holding's place in the table. -/
structure HeirOf where
  kind : Nat
  spad : Bool
  addr : DWord
  spec : BitVec 16
  tag : BitVec 16
  at' : Option Nat
  deriving DecidableEq, Repr

/-- The registers of HEIR: those of the address, and that of the specification. -/
def heirAddr (w : W0) : List Src :=
  let kind := (field w.d 0 3).toNat
  if kind ≤ 4 then addrSrcs (kind == 1 || kind == 2 || kind == 4) (.code w.a) else []
def heirSpec (w : W0) : List Src := if w.b = 20#6 then [] else [.code w.b]

/-- The checks of HEIR (R342), with some lane on. -/
def heirChecks (c : Ctx) (w : W0) (x : W1) : M (Option HeirOf) := do
  if c.on = 0#32 then pure none
  else
    let kind := (field w.d 0 3).toNat
    let spad := kind == 1 || kind == 2 || kind == 4
    let a := Src.code w.a
    let b := Src.code w.b
    checkSrcs c (heirAddr w ++ heirSpec w) c.on
    let s ← M.st
    let addr : DWord := if kind ≤ 4 then objAddr s c spad a else 0#64
    let q := x.c.toNat
    let l ← M.run' (fun s => s.joinList c.w ((heirAddr w ++ heirSpec w).map (fun y => srcLbl s c y 0) ++ [c.sub.maskLabel]))
    if l ≠ 0#8 then trapLabel c c.on l 0#8 addr 0
    else
      let spec : BitVec 16 := if w.b = 20#6 then x.hi else field (srcVal s c b 0) 0 16
      let tag : BitVec 16 := if w.b = 20#6 then 0#16 else field (srcVal s c b 0) 16 16
      let code := (field spec 0 3).toNat
      let seat := kind == 3 || kind == 4
      if !goodSpec s c.w spec || (code == 4 && (kind == 5 || kind == 6)) || (code == 7 && !seat) then trapEstate c 4 else pure ()
      let at' := holdingAt s c.w kind addr q
      if at'.isNone && !seat && kind != 7 then trapEstate c 2 else pure ()
      if at'.isNone && seat && code != 7 then
        checkSeat c spad addr (← M.run' (fun s => s.joinList c.w ((heirAddr w).map (fun y => srcLbl s c y 0))))
        if !canRegister s c.w then trapEstate c 1 else pure ()
      else pure ()
      pure (some ⟨kind, spad, addr, spec, tag, at'⟩)

/-- What HEIR does (R342): the heir of the store debt, the end of a seat, the heir of a holding, or a new seat; the region commits. -/
def setHeir (c : Ctx) (r : Option HeirOf) (s : State) : State :=
  match r with
  | none => s
  | some h =>
    let s := commit s c.w
    if h.kind = 7 then s.modWarp c.w (fun y => { y with debtHeir := h.spec })
    else if field h.spec 0 3 = 7#3 then dischargeAt s c.w h.kind h.addr
    else
      match h.at' with
      | some k => s.modWarp c.w (fun y =>
          match y.estate[k]? with
          | some e => { y with estate := setAt y.estate k { e with heir := h.spec, tag := h.tag } }
          | none => y)
      | none => registerHolding s c.w ⟨h.kind, if h.spad then 2 else 4, h.spec, h.tag, 0, h.addr.toNat, (s.warp c.w).block⟩

/-- HEIR (R342). -/
def execHeir (p : Pfx) (w : W0) (x : W1) (s : State) : Out :=
  issue p (WF.heir p w x) s (fun c => do
    let r ← heirChecks c w x
    lastUse c ((heirAddr w).map (fun y => (w.luA, y)) ++ (heirSpec w).map (fun y => (w.luB, y)))
    M.upd (setHeir c r)
    pure .next)

/-- The checks of WILL (R343). -/
def willChecks (c : Ctx) (a : Src) : M Unit := do
  checkSrcs c [a] c.act
  let l ← M.run' (fun s => s.joinList c.w [srcLbl s c a 0, c.sub.maskLabel])
  if l ≠ 0#8 then trapLabel c c.on l 0#8 0#64 0
  else
    let s ← M.st
    let spec := field (srcVal s c a 0) 0 16
    if !goodSpec s c.w spec || 5 ≤ (field spec 0 3).toNat then trapEstate c 4 else pure ()

/-- WILL (R343). -/
def execWill (p : Pfx) (w : W0) (s : State) : Out :=
  issue p (WF.will p w) s (fun c => do
    let a := Src.code w.a
    willChecks c a
    let s ← M.st
    lastUse c [(w.luA, a)]
    M.upd (fun t => commit t c.w)
    M.upd (fun t => t.modWarp c.w (fun y => { y with will := field (srcVal s c a 0) 0 16, willTag := field (srcVal s c a 0) 16 16 }))
    pure .next)

/-- ESTQ (R344). -/
def execEstq (p : Pfx) (w : W0) (s : State) : Out :=
  issue p (WF.estq p w) s (fun c => do
    let s ← M.st
    trapIf c (((s.warp c.w).queue w.d.toNat).kind != some 3) 13
    M.upd (fun t => commit t c.w)
    M.upd (fun t => t.modWarp c.w (fun y => { y with claimant := w.a.getLsbD 0 }))
    pure .next)

/-! Heirs (R330, R333). -/

/-- What becomes of a holding: conveyed to a warp (with the queue register that receives a binding and the candidates tried before), to
probate, to a Poleile core, or to no heir. -/
inductive Fate where
  | warp (v q steps : Nat)
  | probate (steps : Nat)
  | core (n steps : Nat)
  | heirless
  deriving DecidableEq, Repr

/-- Alive (R330): started, its death not with the estate unit, its die not fenced (R331). -/
def alive (s : State) (v : Nat) : Bool :=
  (match (s.warp v).life with
    | .dying _ _ => false
    | .dead => false
    | _ => true) && !(s.die (dieOfQuad (s.warp v).quad)).fenced

/-- Whether a warp takes a holding of a dying warp: yes with the queue register for a binding, no, or heirless at once (R330, R333,
R235). -/
def accepts (s : State) (w : Nat) (h : Holding) (lbl : Label) (v : Nat) : Option Nat × Bool :=
  let y := s.warp v
  let x := s.warp w
  if v = w ∨ !alive s v ∨ !s.dominates y.vd y.clearance lbl then (none, false)
  else if h.kind = 7 then (some 0, false)
  else if h.kind = 6 ∧ y.quad ≠ x.quad then (none, true)
  else if h.kind = 6 ∧ y.gang ≠ 0#32 ∧ y.gang ≠ x.gang then (none, false)
  else if !canRegister s v then (none, false)
  else if h.kind = 5 then
    let k := ((x.queue h.queue).kind).getD 0
    match (List.range 16).find? (fun q => (y.queue q).kind.isNone) with
    | some q => if 3 ≤ k ∧ (y.bound k).isSome then (none, false) else (some q, false)
    | none => (none, false)
  else (some 0, false)

/-- The warp of a block with an index, dead or not. -/
def byIndex (s : State) (g b k : Nat) : Option Nat := (s.block g b).warps.find? (fun v => (s.warp v).index == k)

/-- Whether some enabled mailbox of the VD that core `n` serves has a label that dominates (R330). -/
def coreTakes (s : State) (w n : Nat) (lbl : Label) : Bool :=
  let x := s.warp w
  (s.die (dieOfQuad x.quad)).mailboxes.any (fun e =>
    e.2.enable && e.2.core == n && e.2.vd == x.vd && s.dominates x.vd e.2.lbl lbl)

/-- The resolution of R330 from a specification on; `n` bounds the candidates left. -/
def resolveFrom (s : State) (w : Nat) (h : Holding) (lbl : Label) : Nat → Nat → BitVec 16 → Fate
  | 0, _, _ => .heirless
  | n + 1, steps, spec =>
    let x := s.warp w
    let arg := (field spec 3 4).toNat
    match (field spec 0 3).toNat with
    | 1 =>
      match byIndex s x.grid x.block arg with
      | none => .heirless
      | some v =>
        match accepts s w h lbl v with
        | (some q, _) => .warp v q steps
        | (none, true) => .heirless
        | (none, false) => resolveFrom s w h lbl n (steps + 1) (s.warp v).will
    | 2 =>
      let vs := sortOn (fun v => (s.warp v).index) ((s.block x.grid x.block).warps.filter (alive s))
      match vs.find? (fun v => (accepts s w h lbl v).1.isSome || (accepts s w h lbl v).2) with
      | some v => match accepts s w h lbl v with
        | (some q, _) => .warp v q steps
        | (none, _) => .heirless
      | none => .heirless
    | 3 =>
      if h.kind = 7 then .probate steps
      else if h.kind = 5 ∨ h.kind = 6 ∨ 64 ≤ (s.grid x.grid).probate.length then .heirless else .probate steps
    | 4 => if h.kind ≤ 4 ∧ coreTakes s w arg lbl then .core arg steps else .heirless
    | _ => .heirless

/-- The fate of a holding (R330): four candidates are tried. -/
def resolveHeir (s : State) (w : Nat) (h : Holding) (lbl : Label) : Fate :=
  resolveFrom s w h lbl 4 0 (if field h.heir 0 3 = 5#3 then (s.warp w).will else h.heir)

/-! Conveyance (R332 to R337). -/

/-- The place of a lock word, promise or object of a warp's holding, where it still translates. -/
def holdingPlace (s : State) (w : Nat) (h : Holding) (n : Nat) : Option Place :=
  let x := s.warp w
  if h.kind = 0 ∨ h.kind = 3 then
    match (s.translate (.die (dieOfQuad x.quad)) x.vd (BitVec.ofNat 64 h.ref) .atomic false true).1 with
    | .ok p => some (.mem p)
    | .error _ => none
  else (spadLoc s x.grid h.block (BitVec.ofNat 32 h.ref) n).map (fun p => .spad p.1 p.2)

/-- The label of a holding when it is conveyed (R325). -/
def holdingLabel (s : State) (w : Nat) (h : Holding) : Label × State :=
  let x := s.warp w
  if h.kind ≤ 4 then (((holdingPlace s w h 4).map (esLabel s w)).getD 0#8, s)
  else if h.kind = 5 then
    let u := x.queue h.queue
    s.joinList w ((u.entries ++ u.popped ++ u.back).map (fun e => e.lbl) ++ (if u.kind = some 2 then [(boxOf s u).lbl] else []))
  else
    let rows := rowsFrom (gangFirst x.gang) (gangEnd x.gang)
    s.joinList w (((rows.map (fun r => (accRow s x.quad r).lbl)) ++
      (((s.block x.grid x.block).windows.filter (fun a => a.holders.contains w)).map (fun a => a.rows.map (fun r => r.2.lbl))).flatten).dedup)

/-- A notice (R334). -/
def noticeOf (h : Holding) (q steps cause w : Nat) : DWord :=
  h.tag ++ BitVec.ofNat 4 q ++ BitVec.ofNat 3 steps ++ 0#1 ++ BitVec.ofNat 4 cause ++ BitVec.ofNat 4 h.kind ++ BitVec.ofNat 32 w

/-- The notice of a conveyance to a warp: to its ES queue, or to the grid fault record (R17). -/
def sendNotice (s : State) (v : Nat) (x : DWord) (lbl : Label) : State :=
  match (s.warp v).bound 3 with
  | some q => deliverEntry s v q 3 ⟨x, lbl, 0, 0⟩
  | none => gfRecord s (s.warp v).vd 4 (s.warp v).grid v 0#64 (le 8 x.toNat)

/-- The HEIRLESS record (R335). -/
def heirlessRecord (s : State) (w cause : Nat) (h : Holding) : State :=
  let x := s.warp w
  gfRecord s x.vd 2 x.grid w 0#64 (le 1 h.kind ++ le 1 cause ++ le 2 h.tag.toNat ++ le 4 x.dropped ++ le 8 h.ref)

/-- Write a lock word of a dead warp; a write to a fenced die's memory is dropped and counted (R331). -/
def leaveLock (s : State) (w : Nat) (h : Holding) (f : DWord → DWord) : State :=
  let x := s.warp w
  match holdingPlace s w h 8 with
  | none => s
  | some (.mem p) =>
    if (s.die (homeDie p.loc.pa)).fenced then s.modWarp w (fun x => { x with dropped := x.dropped + 1 })
    else
      let m : DWord := ofBytes 64 (esRead s w 8 (.mem p))
      esWrite s w (dieOfQuad x.quad) x.vd (BitVec.ofNat 64 h.ref) (toBytes (f m) 8) (.mem p)
  | some pl => esWrite s w (dieOfQuad x.quad) x.vd 0#64 (toBytes (f (ofBytes 64 (esRead s w 8 pl))) 8) pl

/-- A promise is broken (R333): its word becomes all ones with tag BROKEN. -/
def breakPromise (s : State) (g : Nat) (h : Holding) : State :=
  match spadRef s g h with
  | none => s
  | some (b, o) => s.modBlock g b (fun x => { x with spad := (x.spad.write o (List.replicate 4 0xFF#8)).setTag (o / 4) .broken })

/-- The arrival that a seat of a dead warp makes (R333): a failure goes to the grid fault record. -/
def seatArrival (s : State) (w : Nat) (h : Holding) (lbl : Label) : State :=
  let x := s.warp w
  let d : Doer := ⟨w, x.vd, dieOfQuad x.quad, dieOfQuad x.quad, x.grid, h.block, 0#64, 0#32, 7, 0⟩
  let addr := BitVec.ofNat 64 h.ref
  match objArrive s d false (h.kind == 4) addr 1 lbl with
  | (.ok _, s) => s
  | (.error (e, _), s) => deliveryRecord s w ⟨e, 0#64, 0#32, addr, w, lbl, none⟩

/-- A window hold passes to another warp of the quadrant (R333). -/
def passHold (s : State) (w v : Nat) : State :=
  let x := s.warp w
  let swap (l : List Nat) : List Nat := if l.contains v then l.filter (fun k => k != w) else l.map (fun k => if k = w then v else k)
  let s := s.modQuad x.quad (fun q => { q with claims := q.claims.map (fun c => (c.1, if c.2.contains w then swap c.2 else c.2)) })
  let s := s.modBlock x.grid x.block (fun b => { b with windows := b.windows.map (fun a => { a with holders := if a.holders.contains w then swap a.holders else a.holders }) })
  s.modWarp v (fun y => { y with gang := if y.gang = 0#32 then x.gang else y.gang })

/-- A dead warp gives up its window hold; the claim ends with its last holder (R235). -/
def dropHold (s : State) (w : Nat) : State :=
  let x := s.warp w
  (leaveClaim s w).modBlock x.grid x.block (fun b => { b with
    windows := (b.windows.map (fun a => { a with holders := a.holders.filter (fun k => k != w) })).filter (fun a => !a.holders.isEmpty) })

/-- A queue binding moves to another warp's register, with its entries, its mailbox, and the completions that name it (R333, R22,
R359). -/
def moveQueue (s : State) (w q v r : Nat) : State :=
  let u := (s.warp w).queue q
  let s := s.modWarp w (fun x => x.setQueue q Queue.free)
  let s := s.modWarp v (fun y => y.setQueue r ({ u with popped := [], entries := u.popped ++ u.entries } : Queue))
  let s := if u.kind = some 2 then s.modMailbox (u.mailbox / 512) (u.mailbox % 512) (fun b => { b with binder := (v, r) }) else s
  { s with
    cmds := s.cmds.map (fun e => if e.2.queue = some (w, q) then (e.1, { e.2 with queue := some (v, r) }) else e)
    grids := s.grids.map (fun e => (e.1, { e.2 with parent := e.2.parent.map (fun p => if p.queue = some (w, q) then { p with queue := some (v, r) } else p) })) }

/-- Register a conveyed holding to an heir (R333): its own heir is again the default. -/
def inherit (s : State) (v : Nat) (h : Holding) : State := registerHolding s v { h with heir := 5#16 }

/-- The row of R333 for a holding and its fate. -/
def conveyTo (s : State) (w : Nat) (h : Holding) (lbl : Label) (f : Fate) : State :=
  let g := (s.warp w).grid
  let lock (owner : Nat) (orphan probate : Bool) (s : State) : State :=
    leaveLock s w h (fun m => lockWord owner true orphan probate (lockCount m))
  match h.kind, f with
  | 5, .warp v r _ => inherit (moveQueue s w h.queue v r) v { h with queue := r }
  | 5, _ => unbindQueue s w h.queue
  | 6, .warp v _ _ =>
    let had := (findHolding (s.warp v) 6 0 0).isSome
    let s := passHold s w v
    if had then s else inherit s v h
  | 6, _ => dropHold s w
  | 2, .warp v _ _ => inherit s v h
  | 2, .probate _ => s
  | 2, _ => breakPromise s g h
  | 3, .warp v _ _ => inherit s v h
  | 4, .warp v _ _ => inherit s v h
  | 3, _ => seatArrival s w h lbl
  | 4, _ => seatArrival s w h lbl
  | _, .warp v _ _ => inherit (lock v false false s) v h
  | _, .probate _ => lock 0 false true s
  | _, .core _ _ => lock 0 false false s
  | _, .heirless => lock 0 true false s

/-- The notice or record of a conveyance (R334, R335). -/
def tellHeir (s : State) (w cause : Nat) (h : Holding) (lbl : Label) (f : Fate) : State :=
  let x := s.warp w
  match f with
  | .warp v q steps => sendNotice s v (noticeOf h q steps cause w) lbl
  | .probate steps => s.modGrid x.grid (fun y => { y with probate := y.probate ++ [⟨noticeOf h 0 steps cause w, lbl, h⟩] })
  | .core n steps => vdEvent s x.vd (s.grid x.grid).gen 3 (le 8 (noticeOf h 0 steps cause w).toNat ++ le 1 n)
  | .heirless => heirlessRecord s w cause h

/-- Whether the write of a holding's row can be made now: each conveyance is a release at the holding's scope, so that the warp's writes have
been performed there, its own die's copy no longer counting once that is fenced (R337, R393); locks and promises wait for the whole store
debt (R332), to which belong the writes of a transfer command that has not completed (R270); lock words and objects for their home (what each kind waits for: DEDUCED, log entry 94). -/
def rowReady (s : State) (w : Nat) (h : Holding) : Bool :=
  let x := s.warp w
  let d := dieOfQuad x.quad
  let gone := match holdingPlace s w h 4 with
    | some (.mem p) => (s.die (homeDie p.loc.pa)).fenced
    | _ => false
  (settled s w d h.scope (fun _ => true) || (decide (h.scope ≤ 3) && (s.die d).fenced)) && (!(decide (h.kind ≤ 2)) || !s.cmds.any (fun e => e.2.warp == w && e.2.op.isTransfer)) &&
  (gone || (match h.kind, holdingPlace s w h 8 with
    | 0, some pl => esReady s w d 8 pl
    | 3, some _ => objReady s ⟨w, x.vd, d, d, x.grid, h.block, 0#64, 0#32, 7, 0⟩ false (BitVec.ofNat 64 h.ref)
    | _, _ => true))

/-- Step 2 of R332: the heir of the store debt of a dying warp, by the labels of its writes outstanding and of its commands that have not
completed. -/
def conveyDebt (s : State) (w : Nat) : State :=
  let x := s.warp w
  let open' := (s.cmds.filter (fun e => e.2.warp == w && e.2.op.isTransfer)).map (fun e => e.2)
  let (lbl, s) := s.joinList w ((s.debt w).map (fun f => f.lbl) ++ (open'.map (fun c => c.lbl :: c.path)).flatten)
  let hr := match resolveHeir s w ⟨7, 0, x.debtHeir, 0#16, 0, 0, 0⟩ lbl with
    | .warp v _ _ => some v
    | _ => none
  let s := s.modWarp w (fun y => { y with debtTo := hr, debtDone := true, deliveries := [] })
  x.deliveries.foldl (fun s d => deliverTo 64 s w d) s

/-- The dying warp that the estate unit of a core is at. -/
def dyingOn (s : State) (core : Nat) : Option Nat := s.deaths.find? (fun w => coreOfQuad (s.warp w).quad == core)

/-- CONVEYANCE (R332): the estate unit of a core takes its next step: the store debt's heir, a holding in registration order, or, when
none is left, the end of the warp. -/
def execConveyance (core : Nat) (s : State) : Out :=
  match dyingOn s core with
  | none => off s
  | some w =>
    let x := s.warp w
    let (cause, mask) := match x.life with
      | .dying c l => (c, l)
      | _ => (0, 0#8)
    if !x.debtDone then did (conveyDebt s w)
    else
      match x.estate with
      | [] => did { s.modWarp w (fun y => { y with life := .dead }) with deaths := s.deaths.filter (fun v => v != w) }
      | h :: rest =>
        if !rowReady s w h then off s
        else
          let (hl, s) := holdingLabel s w h
          let f := resolveHeir s w h hl
          let (lbl, s) := s.join w hl mask
          let s := s.modWarp w (fun y => { y with estate := rest })
          did (tellHeir (conveyTo s w h lbl f) w cause h lbl f)

/-! Probate (R336). -/

/-- The claimants of a grid that can take a notice, lowest serial first. -/
def claimants (s : State) (g : Nat) (promise : Bool) : List (Nat × Nat) :=
  (s.warps.filter (fun e => e.2.grid == g && e.2.claimant && e.2.life == .resident)).filterMap (fun e =>
    match e.2.bound 3 with
    | some q => if (e.2.queue q).used < 8 ∧ (e.2.queue q).back = [] ∧ (!promise ∨ canRegister s e.1) then some (e.1, q) else none
    | none => none)

/-- PROBATE_DELIVERY (R336): the oldest waiting notice of a grid goes to the claimant that takes it, with its promise. -/
def execProbateDelivery (g : Nat) (s : State) : Out :=
  match (s.grid g).probate with
  | [] => off s
  | p :: rest =>
    match claimants s g (p.holding.kind == 2) with
    | [] => off s
    | (w, q) :: _ =>
      let s := s.modGrid g (fun y => { y with probate := rest })
      let s := if p.holding.kind = 2 then inherit s w p.holding else s
      did (deliverEntry s w q 3 ⟨p.notice, p.lbl, 0, 0⟩)

end Sys2Proof.Machine
end

