-- ==== Sys2Proof/Machine/Launch.lean ====
section
/-! DEFINITION. Launches and the distributor tree (R349 to R361): launch records and ports, LAUNCH and LWAIT, the deal, block starts,
stealing, completion, virtual time, and the grid fault buffer. -/

namespace Sys2Proof.Machine

open Sys2Proof

/-! Partitions and room (R127, R128, R350, R355, R366, R367). -/

/-- The package partition that a VD's launch record names. -/
def partitionOf (s : State) (v : Nat) (r : LaunchRec) : Option Nat :=
  match (s.vd v).parts[r.partition]? with
  | some e => if e.getLsbD 8 then some (field e 0 8).toNat else none
  | none => none

/-- The partition that a quadrant is assigned to. -/
def quadPartition (s : State) (q : Nat) : Option Nat :=
  let e := s.package.qown.get 0#16 q
  if e.getLsbD 8 then some (field e 0 8).toNat else none

/-- The quadrants of a core, by number on it, that belong to a partition. -/
def quadsOf (s : State) (p core : Nat) : List Nat := (List.range 4).filter (fun k => quadPartition s (4 * core + k) == some p)

/-- A core that its die's harvest map does not name as fused off. -/
def goodCore (s : State) (core : Nat) : Bool := !(s.die (dieOfCore core)).harvest.getLsbD (core % 36)

/-- The hardware cluster of a core on its die. -/
def clusterOf (core : Nat) : Nat := core % 36 / 4

/-- The cores of a hardware cluster that are active for a launch (R355); none where a cluster of blocks needs more. -/
def activeIn (s : State) (p n die cl : Nat) : List Nat :=
  let cs := ((List.range 4).map (fun k => 36 * die + 4 * cl + k)).filter (fun c => goodCore s c && !(quadsOf s p c).isEmpty)
  if cs.length < n then [] else cs

/-- Warps of a block. -/
def LaunchRec.warps (r : LaunchRec) : Nat := (r.lanes + 31) / 32

/-- The quadrant number of each warp of a block on a core of a partition (R127). -/
def placement (s : State) (p core : Nat) (r : LaunchRec) : List Nat :=
  let qs := quadsOf s p core
  (List.range r.warps).map (fun w => (qs[w / r.g % qs.length]?).getD 0)

/-- A warp holds its place on its quadrant until it exits, is killed or is saved (R127). -/
def Life.onQuad : Life → Bool
  | .resident => true
  | .saving => true
  | _ => false

/-- The warps that a quadrant holds. -/
def held (s : State) (q : Nat) : List (Nat × Warp) := s.warps.filter (fun e => e.2.quad == q && e.2.life.onQuad)

/-- Whether a quadrant that holds some warps has room for `n` more of `rows` main-file registers each (R128). -/
def roomBeside (s : State) (h : List (Nat × Warp)) (n rows : Nat) : Bool :=
  decide (h.length + n ≤ 32) && decide (h.foldl (fun a e => a + (s.record e.1).regs) 0 + n * rows ≤ 2048)

/-- Whether a quadrant has room for `n` warps of `rows` main-file registers each (R128). -/
def quadRoom (s : State) (q n rows : Nat) : Bool := roomBeside s (held s q) n rows

/-- Bytes of a core's scratchpad that a block takes, with the cue buffers of its warps. -/
def LaunchRec.need (r : LaunchRec) : Nat := r.spadBytes + r.cueBytes * r.warps

/-- Whether a block still holds its core's scratchpad: it has not been taken off the core, and a warp of it is not gone. -/
def Block.holdsCore (s : State) (b : Block) : Bool := !b.away && b.warps.any (fun w => (s.warp w).life != .dead)

/-- Bytes of a core's scratchpad that a partition's blocks may hold: all of it, or 1 MiB for each of its quadrants where the
quadrants of the core belong to several partitions (R367). -/
def coreBytes (s : State) (p core : Nat) : Nat :=
  if (List.range 4).any (fun k => match quadPartition s (4 * core + k) with
    | some x => x != p
    | none => false) then 2 ^ 20 * (quadsOf s p core).length else 2 ^ 22

/-- Bytes that a partition's blocks hold on a core. -/
def coreUsed (s : State) (p core : Nat) : Nat :=
  s.blocks.foldl (fun a e =>
    let g := s.grid e.2.grid
    if e.2.core = core ∧ e.2.holdsCore s ∧ partitionOf s g.vd g.record = some p then a + g.record.need else a) 0

/-- Whether a core of a partition can hold one more block (R127); with `free`, were all of the partition's quadrants there free. -/
def coreRoom (s : State) (p core : Nat) (r : LaunchRec) (free : Bool) : Bool :=
  let ks := placement s p core r
  !(quadsOf s p core).isEmpty &&
  (List.range 4).all (fun k =>
    let n := ks.count k
    if free then decide (n ≤ 32) && decide (n * r.regs ≤ 2048) else n == 0 || quadRoom s (4 * core + k) n r.regs) &&
  decide ((if free then 0 else coreUsed s p core) + r.need ≤ coreBytes s p core)

/-! Launch records (R349 to R351). -/

/-- The fields of a launch record. -/
def launchRecOf (bs : List Byte) : LaunchRec :=
  let q (i : Nat) : DWord := ofBytes 64 (slice bs i 8)
  let b (i : Nat) : Nat := leAt bs i 1
  { code := q 0, arg := q 8, handler := q 16, dkey := q 24, blocks := leAt bs 32 4, lanes := leAt bs 36 2
    perCluster := b 38 % 4 + 1, g := 2 ^ (b 38 / 4 % 8), regs := 8 * (b 39 % 32 + 1), spadBytes := leAt bs 40 4
    cueBytes := 64 * leAt bs 44 2, clearance := BitVec.ofNat 8 (b 46), priority := b 47 % 64, partition := leAt bs 48 2
    heir := ofBytes 16 (slice bs 50 2), comm := if bitN (b 52) 4 then some (b 52 % 16) else none, park := bitN (b 53) 0
    tag := ofBytes 16 (slice bs 54 2) }

/-- An heir specification of codes 0 to 4 (R329). -/
def goodHeir (h : BitVec 16) (warps : Nat) : Bool :=
  let code := (field h 0 3).toNat
  let n := (field h 3 4).toNat
  field h 7 9 == 0#9 && decide (code ≤ 4) && (code == 1 || code == 4 || n == 0) && (code != 1 || decide (n < warps))

/-- Whether one block, and one cluster of blocks, could ever be held (R350). -/
def couldFit (s : State) (p : Nat) (r : LaunchRec) : Bool :=
  (List.range 9).any (fun d => (List.range 9).any (fun cl =>
    let cs := activeIn s p r.perCluster d cl
    !cs.isEmpty && decide (r.perCluster ≤ (cs.filter (fun c => coreRoom s p c r true)).length)))

/-- The cause of R351 with which a record is rejected, 0 for none: the first rule of R349 that it breaks, in the table's order, then
R350 (the order of the causes: DEDUCED, log entry 98). -/
def rejection (s : State) (v : Nat) (bs : List Byte) : Nat :=
  let r := launchRecOf bs
  let b (i : Nat) : Nat := leAt bs i 1
  let rules : List (Bool × Nat) := [
    (legalPc r.code, 4), (r.handler == 0#64 || legalPc r.handler, 4), (r.blocks != 0 && r.blocks % r.perCluster == 0, 3),
    (decide (1 ≤ r.lanes) && decide (r.lanes ≤ 512), 3), (decide (b 38 / 4 % 8 ≤ 4) && decide (b 38 < 32), 4), (decide (b 39 < 32), 4),
    (r.spadBytes % 64 == 0 && decide (r.spadBytes ≤ 2 ^ 22), 3), (decide (r.cueBytes ≤ 4096), 3),
    (((s.vd v).table.get? r.clearance.toNat).isSome, 4), (decide (b 47 < 64), 4), ((partitionOf s v r).isSome, 6),
    (goodHeir r.heir r.warps, 4), (decide (b 52 < 32) && (match r.comm with
      | some n => decide (n < r.warps)
      | none => true), 4), (decide (b 53 < 2), 4), (leAt bs 56 8 == 0, 4)]
  match rules.find? (fun x => !x.1) with
  | some x => x.2
  | none => match partitionOf s v r with
    | some p => if couldFit s p r then 0 else 5
    | none => 6

/-! Eligible launches (R352, R353). -/

/-- Whether a VD has a launch that may be dealt: it exists and is not paused (R364). -/
def dealable (s : State) (v : Nat) : Bool := (s.vd v).state == 1 || (s.vd v).state == 2

/-- The eligible launches (R352): the oldest undealt launch of each port, and the child grids. -/
def eligible (s : State) : List Grid :=
  (s.grids.filter (fun e => !e.2.dealt && !e.2.killed && !e.2.complete && dealable s e.2.vd && (match e.2.port with
    | some p => (((s.vd e.2.vd).ports[p]?).bind (fun q => q.fifo.head?)) == some e.1
    | none => true))).map (fun e => e.2)

/-- The order of R352: priority, virtual time, VD number, acceptance. -/
def before (s : State) (a b : Grid) : Bool :=
  let key (g : Grid) : List Nat := [63 - g.record.priority, (s.vd g.vd).vtime.toNat, g.vd, g.serial]
  decide (key a < key b)

/-- The grids of a list in the order of R352. -/
def ranked (s : State) (gs : List Grid) : List Grid :=
  gs.foldl (fun acc g => acc.takeWhile (fun a => before s a g) ++ [g] ++ acc.dropWhile (fun a => before s a g)) []

/-- A VD that held nothing eligible takes the least virtual time among the eligible VDs at the launch's priority (R353). -/
def becomeEligible (s : State) (v prio : Nat) : State :=
  let el := eligible s
  if el.any (fun g => g.vd == v) then s
  else
    match (el.filter (fun g => g.record.priority == prio)).map (fun g => (s.vd g.vd).vtime.toNat) with
    | [] => s
    | t :: ts =>
      let least := ts.foldl min t
      s.modVd v (fun d => if d.vtime.toNat < least then { d with vtime := BitVec.ofNat 64 least } else d)

/-- The next serial of a counter of 32 bits that skips 0. -/
def nextSerial (n : Nat) : Nat := if (n + 1) % 2 ^ 32 = 0 then 1 else (n + 1) % 2 ^ 32

/-- A launch is accepted: it takes the next grid serial (R351). `mark` is the clock that the first event of each of its warps follows
(R54). -/
def acceptLaunch (s : State) (v : Nat) (r : LaunchRec) (port : Option Nat) (depth : Nat) (parent : Option Parent) (mark : List Nat) :
    Nat × State :=
  let s := becomeEligible s v r.priority
  let g := s.package.gridSerial
  let s := { s with package := { s.package with gridSerial := nextSerial g } }
  (g, s.setGrid g { Grid.none with
    serial := g, vd := v, gen := (s.vd v).gen, record := r, depth := depth, port := port, parent := parent, complete := false, mark := mark })

/-! Launch ports (R351). -/

/-- Change a launch port. -/
def modPort (s : State) (v p : Nat) (f : LaunchPort → LaunchPort) : State :=
  s.modVd v (fun d => { d with ports := setPad ⟨[], 0, 0, 0⟩ d.ports p (f ((d.ports[p]?).getD ⟨[], 0, 0, 0⟩)) })

/-- LAUNCH_PORT_STORE (R351, R364, R410): a store to a launch port is accepted, or rejected with a cause; a window that is frozen, or of a FREE
VD, refuses it with WRITE. -/
def execLaunchPortStore (req : Req) (vd port : Nat) (whole : Bool) (bytes : List Byte) (s : State) : Out :=
  if 1024 ≤ vd ∨ 4 ≤ port then off s
  else if !mayWindow s req vd then did (freezeWindow s vd)
  else
    let p := ((s.vd vd).ports[port]?).getD ⟨[], 0, 0, 0⟩
    let cause := if (s.vd vd).frozen ∨ (s.vd vd).state = 0 ∨ !whole ∨ bytes.length ≠ 64 then 2 else if 64 ≤ p.fifo.length then 1 else rejection s vd bytes
    if cause ≠ 0 then did (modPort s vd port (fun p => { p with cause := cause, rejected := min (p.rejected + 1) 0xFFFF }))
    else
      let (g, s) := acceptLaunch s vd (launchRecOf bytes) (some port) 0 none s.package.hostClock
      did (modPort s vd port (fun p => { p with fifo := p.fifo ++ [g], last := g }))

/-- LPSTAT_READ (R351): the read clears the cause and the count. -/
def execLpstatRead (req : Req) (vd port : Nat) (s : State) : Out :=
  if 1024 ≤ vd ∨ 4 ≤ port then off s
  else windowRead s req vd 8 (fun s =>
    let p := ((s.vd vd).ports[port]?).getD ⟨[], 0, 0, 0⟩
    (le 2 (p.fifo.length + 2 ^ 8 * p.cause) ++ le 2 p.rejected ++ le 4 p.last,
      modPort s vd port (fun p => { p with cause := 0, rejected := 0 })))

/-! LAUNCH and LWAIT (R358, R360). -/

/-- The child grids of a grid, or of a warp, that are not complete. -/
def childrenOf (s : State) (g : Nat) : List Grid :=
  (s.grids.filter (fun e => !e.2.complete && (match e.2.parent with
    | some p => p.grid == g
    | none => false))).map (fun e => e.2)

/-- The cause with which a child's record is rejected (R358). -/
def childRejection (s : State) (w : Nat) (bs : List Byte) : Nat :=
  let x := s.warp w
  let r := launchRecOf bs
  let p := s.record w
  let e := rejection s x.vd bs
  if e ≠ 0 then e
  else if r.partition ≠ p.partition then 6
  else if p.priority < r.priority then 7
  else if !s.dominates x.vd x.clearance r.clearance then 9
  else if 8 < (s.grid x.grid).depth + 1 then 8
  else 0

/-- The child of a LAUNCH is accepted, or its rejection reported (R358, R361). -/
def launchChild (s : State) (c : Ctx) (q : Option Nat) (bs : List Byte) (tag : Option (BitVec 16)) (addr : DWord) (lbl : Label) : State :=
  let x := s.warp c.w
  let r := launchRecOf bs
  let r := { r with tag := tag.getD r.tag }
  let e := childRejection s c.w bs
  if e = 0 then
    (acceptLaunch s x.vd r none ((s.grid x.grid).depth + 1) (some ⟨c.w, x.grid, q.map (fun n => (c.w, n)), lbl⟩) (s.clockOf c.die)).2
  else
    match q with
    | some n => deliverEntry s c.w n 5 ⟨r.tag ++ 1#8 ++ BitVec.ofNat 8 e ++ 0#32, lbl, 0, 0⟩
    | none => gfRecord s x.vd 5 x.grid c.w c.pc (le 1 e ++ le 3 0 ++ le 2 r.tag.toNat ++ le 2 0 ++ le 8 addr.toNat)

/-- A launch that LAUNCH makes: the bytes of its record, the tag from a register, the record's address and the label of the operands. -/
structure Launching where
  bytes : List Byte
  tag : Option (BitVec 16)
  addr : DWord
  lbl : Label
  deriving DecidableEq, Repr

/-- The registers of LAUNCH's tag. -/
def launchTag (w : W0) : List Src := if w.b = 20#6 then [] else [.code w.b]

/-- The checks of LAUNCH (R358), with some lane on: it waits for a place among the grid's children and for the warp's writes. -/
def launchChecks (c : Ctx) (w : W0) : M (Option Launching) := do
  if c.on = 0#32 then pure none
  else
    let spad := w.d.getLsbD 5
    let a := Src.code w.a
    checkQueue c 5 (tokOf w)
    checkSrcs c (launchTag w ++ addrSrcs spad a) c.on
    let s ← M.st
    let addr := effAddr s c spad a 0 0
    let al ← addrLabel c spad a
    let ps ← checkAccess c spad c.on (fun _ => addr) 64 .read (fun i => al.get 0#8 i)
    let pl := placeOf ps ((lowestLane c.on).getD 0)
    awaitLabels c [(0, pl)]
    let l ← M.run' (fun s => s.joinList c.w (addrLbls s c spad a 0 ++ (launchTag w).map (fun y => srcLbl s c y 0) ++ [c.sub.maskLabel]))
    let all ← M.run' (fun s => s.join c.w (placeLabel s c pl) l)
    requireDom c c.on ((lanesOf c.on).map (fun i => (i, all))) (fun _ => 0#8) (fun _ => addr)
    let s ← M.st
    M.await (decide ((childrenOf s (s.warp c.w).grid).length < 64))
    M.await (settled s c.w c.die 4 (fun _ => true))
    trapIf c (placePoison s c 64 pl) 18
    pure (some ⟨placeRead s c 64 pl, if w.b = 20#6 then none else some (field (srcVal s c (.code w.b) 0) 0 16), addr, l⟩)

/-- What LAUNCH does (R358): the region commits, and the child is accepted or its rejection reported. -/
def launched (c : Ctx) (q : Option Nat) (r : Option Launching) (s : State) : State :=
  match r with
  | none => s
  | some x => launchChild (commit s c.w) c q x.bytes x.tag x.addr x.lbl

/-- LAUNCH (R358). -/
def execLaunch (p : Pfx) (w : W0) (x : W1) (s : State) : Out :=
  issue p (WF.launch p w x) s (fun c => do
    let r ← launchChecks c w
    lastUse c ((launchTag w).map (fun y => (w.luB, y)) ++ (addrSrcs (w.d.getLsbD 5) (.code w.a)).map (fun y => (w.luA, y)))
    M.upd (launched c (tokOf w) r)
    pure .next)

/-- LWAIT (R360): waits until every child of the warp is complete. -/
def execLwait (p : Pfx) (w : W0) (s : State) : Out :=
  issue p (WF.lwait p w) s (fun c => do
    let s ← M.st
    M.await (!(childrenOf s (s.warp c.w).grid).any (fun g => match g.parent with
      | some q => q.warp == c.w
      | none => false))
    pure .next)

/-! The deal (R352, R354, R355). -/

/-- Whether a warp is on a quadrant of a partition. -/
def inPartition (s : State) (p : Nat) (x : Warp) : Bool := x.life.onQuad && quadPartition s x.quad == some p

/-- Whether a launch of a VD may run on a partition (R354): the VD holds its slice, or no VD does, or the launch's priority is above that
of every warp of other VDs there. -/
def mayRunOn (s : State) (v p prio : Nat) : Bool :=
  match s.package.holder.get? p with
  | none => true
  | some u => u == v ||
    (let ws := s.warps.filter (fun e => inPartition s p e.2 && e.2.vd != v)
     !ws.isEmpty && ws.all (fun e => decide ((s.record e.1).priority < prio)))

/-- Shares of `n` units by weights: the floors, and the units left over one each to those with weight, from the first (R355). -/
def splitUnits (n : Nat) (ws : List Nat) : List Nat :=
  let total := ws.foldl (· + ·) 0
  let floors := ws.map (fun a => n * a / total)
  (floors.zip ws).foldl (fun (acc : List Nat × Nat) p =>
    if p.2 ≠ 0 ∧ 0 < acc.2 then (acc.1 ++ [p.1 + 1], acc.2 - 1) else (acc.1 ++ [p.1], acc.2))
    ([], n - floors.foldl (· + ·) 0) |>.1

/-- Deal units to the hardware clusters of a die: contiguous ascending ranges, the k-th unit of a range to core k mod a (R355). -/
def dealDie (s : State) (p n die : Nat) (units : List Nat) : List Share :=
  let cores := (List.range 9).map (fun cl => activeIn s p n die cl)
  let sizes := splitUnits units.length (cores.map List.length)
  ((List.range 9).map (fun cl =>
    let cs := (cores[cl]?).getD []
    let skip := (sizes.take cl).foldl (· + ·) 0
    let mine := (units.drop skip).take ((sizes[cl]?).getD 0)
    (List.range mine.length).map (fun k => (⟨die, cl, (mine[k]?).getD 0, (cs[k % cs.length]?).getD 0 % 36⟩ : Share)))).flatten

/-- Deal the whole range of a launch (R355). -/
def dealAll (s : State) (p : Nat) (r : LaunchRec) : List Share :=
  let n := r.perCluster
  let counts := (List.range 9).map (fun d => ((List.range 9).map (fun cl => (activeIn s p n d cl).length)).foldl (· + ·) 0)
  let sizes := splitUnits (r.blocks / n) counts
  ((List.range 9).map (fun d =>
    dealDie s p n d ((List.range ((sizes[d]?).getD 0)).map (fun k => (sizes.take d).foldl (· + ·) 0 + k)))).flatten

/-- Whether an eligible launch can be dealt now (details of the deal: DESIGN CHOICE, log entry 99). -/
def canDeal (s : State) (g : Grid) : Bool :=
  match partitionOf s g.vd g.record with
  | some p => mayRunOn s g.vd p g.record.priority &&
    (List.range 9).any (fun d => (List.range 9).any (fun cl => !(activeIn s p g.record.perCluster d cl).isEmpty))
  | none => false

/-- A VD takes a partition that no VD holds, and runs (R354, R364). -/
def takeSlice (s : State) (v p : Nat) : State :=
  match s.package.holder.get? p with
  | some _ => s
  | none =>
    let s := { s with package := { s.package with holder := s.package.holder.put p v } }
    s.modVd v (fun d => if d.state = 2 then { d with state := 1 } else d)

/-- DEAL (R352, R355): the distributor deals the eligible launch that comes first. -/
def execDeal (s : State) : Out :=
  match ranked s ((eligible s).filter (canDeal s)) with
  | [] => off s
  | g :: _ =>
    match partitionOf s g.vd g.record with
    | none => off s
    | some p =>
      let s := takeSlice s g.vd p
      let s := match g.port with
        | some n => modPort s g.vd n (fun q => { q with fifo := q.fifo.filter (fun k => k != g.serial) })
        | none => s
      did (s.setGrid g.serial { g with dealt := true, shares := dealAll s p g.record })

/-! Block starts and stealing (R127, R356). -/

/-- The grids that a hardware cluster may start blocks of, in the order of R352. -/
def startable (s : State) : List Grid :=
  ranked s ((s.grids.filter (fun e => e.2.dealt && !e.2.killed && dealable s e.2.vd && !e.2.shares.isEmpty)).map (fun e => e.2))

/-- The unit of a grid that a core takes: the lowest of its own, otherwise the highest of its cluster's range (R356). -/
def unitFor (g : Grid) (core : Nat) : Option Share :=
  let mine := g.shares.filter (fun u => u.die == dieOfCore core && u.cluster == clusterOf core)
  match mine.find? (fun u => u.core == core % 36) with
  | some u => some u
  | none => mine.getLast?

/-- The cores that hold the blocks of a unit: distinct active cores of the cluster, from the first on and round (R355). -/
def unitCores (s : State) (p n core : Nat) : List Nat :=
  let cs := activeIn s p n (dieOfCore core) (clusterOf core)
  let i := cs.findIdx (fun c => c == core)
  if i < cs.length then (List.range n).map (fun k => (cs[(i + k) % cs.length]?).getD 0) else []

/-- Whether another VD's warps have still to leave a partition that has passed (R354). -/
def leaving (s : State) (v p : Nat) : Bool := s.warps.any (fun e => inPartition s p e.2 && e.2.vd != v && e.2.evict == 2)

/-- The partition, unit and cores with which a core could start a unit of a grid. -/
def startOf (s : State) (core : Nat) (g : Grid) : Option (Nat × Share × List Nat) :=
  match partitionOf s g.vd g.record, unitFor g core with
  | some p, some u =>
    let cs := unitCores s p g.record.perCluster core
    if cs.isEmpty ∨ !mayRunOn s g.vd p g.record.priority ∨ leaving s g.vd p then none else some (p, u, cs)
  | _, _ => none

/-- A block starts on a core: its warps in the state of R20, its scratchpad fresh (R193). -/
def startBlock (s : State) (g : Grid) (p index rank core : Nat) : State :=
  let ks := placement s p core g.record
  let (ws, s) := (List.range g.record.warps).foldl (fun (acc : List Nat × State) i =>
    let (t, s) := freshStamp acc.2
    let w := s.package.warpSerial
    let x := Warp.start w g.serial index i g.vd (4 * core + (ks[i]?).getD 0) g.record
    let s := { s with package := { s.package with warpSerial := nextSerial w } }
    (acc.1 ++ [w], s.setWarp w { x with subs := x.subs.map (fun u => { u with stamp := t }) })) ([], s)
  s.setBlock g.serial index { Block.none with
    grid := g.serial, index := index, core := core, rank := rank, warps := ws, comm := g.record.comm.bind (fun n => ws[n]?) }

/-- What a core could start now, in the order of R352: grid, partition, unit and cores; the copies of its die must have met the writes that
precede the launch (R54). -/
def starts (s : State) (core : Nat) : List (Grid × Nat × Share × List Nat) :=
  if 324 ≤ core ∨ (s.die (dieOfCore core)).fenced then []
  else
    (startable s).filterMap (fun g => match startOf s core g with
      | some (p, u, cs) =>
        if cs.all (fun c => coreRoom s p c g.record false) && s.caughtUp (dieOfCore core) g.mark then some (g, p, u, cs) else none
      | none => none)

/-- BLOCK_START (R356): a core that can hold a block starts a unit, of the first grid in the order of R352 for which it can. -/
def execBlockStart (core : Nat) (s : State) : Out :=
  match starts s core with
  | [] => off s
  | (g, p, u, cs) :: _ =>
    let s := s.modGrid g.serial (fun x => { x with shares := x.shares.filter (fun y => y != u) })
    did ((List.range cs.length).foldl (fun s k =>
      startBlock s g p (u.unit * g.record.perCluster + k) k ((cs[k]?).getD 0)) s)

/-- The units that a thief takes from the top of a range of `r` units (R356). -/
def topHalf (us : List Share) : List Share := us.drop (us.length - us.length / 2)

/-- What a cluster, or a die whose clusters hold none, steals for a grid: its shares afterwards (R356). -/
def stealFor (s : State) (die cl : Nat) (g : Grid) : Option (List Share) :=
  match partitionOf s g.vd g.record with
  | none => none
  | some p =>
    let n := g.record.perCluster
    let cs := activeIn s p n die cl
    let of (d : Nat) : List Share := sortOn (fun u => u.unit) (g.shares.filter (fun u => u.die == d))
    let ofCl (k : Nat) : List Share := (of die).filter (fun u => u.cluster == k)
    let most (xs : List (List Share)) : List Share := xs.foldl (fun a b => if a.length < b.length then b else a) []
    let sorted (us : List Share) : List Share := sortOn (fun u => u.unit) us
    if cs.isEmpty ∨ !(ofCl cl).isEmpty then none
    else if !(of die).isEmpty then
      let take := topHalf (most ((List.range 9).map ofCl))
      if take.isEmpty then none
      else some (sorted (g.shares.filter (fun u => !take.contains u) ++
        (List.range take.length).map (fun k => (⟨die, cl, ((take[k]?).map (fun u => u.unit)).getD 0, (cs[k % cs.length]?).getD 0 % 36⟩ : Share))))
    else
      let take := topHalf (most ((List.range 9).map of))
      if take.isEmpty then none
      else some (sorted (g.shares.filter (fun u => !take.contains u) ++ dealDie s p n die (take.map (fun u => u.unit))))

/-- What a cluster could steal now, in the order of R352. -/
def steals (s : State) (die cluster : Nat) : List (Grid × List Share) :=
  if 9 ≤ die ∨ 9 ≤ cluster ∨ (s.die die).fenced then []
  else (startable s).filterMap (fun g => (stealFor s die cluster g).map (fun us => (g, us)))

/-- STEAL (R356): a cluster with no unstarted unit steals from a sibling, or its die from another die. -/
def execSteal (die cluster : Nat) (s : State) : Out :=
  match steals s die cluster with
  | [] => off s
  | (g, us) :: _ => did (s.modGrid g.serial (fun x => { x with shares := us }))

/-! Completion (R336, R359). -/

/-- The warps of a grid. -/
def warpsOf (s : State) (g : Nat) : List (Nat × Warp) := s.warps.filter (fun e => e.2.grid == g)

/-- A grid's warps are gone, their writes are performed, their commands are finished and its children are complete (R359). -/
def finished (s : State) (g : Grid) : Bool :=
  !g.complete && (g.killed || (g.dealt && g.shares.isEmpty)) && (warpsOf s g.serial).all (fun e => e.2.life == .dead) &&
  (childrenOf s g.serial).isEmpty &&
  !s.flights.any (fun f => f.warp != 0 && (s.warp f.warp).grid == g.serial) && !s.cmds.any (fun e => e.2.grid == g.serial)

/-- At grid end every promise that probate holds is heirless (R336): broken, with its HEIRLESS record. -/
def endProbate (s : State) (g : Nat) : State :=
  (s.grid g).probate.foldl (fun s p =>
    if p.holding.kind = 2 then
      let s := breakPromise s g p.holding
      heirlessRecord s (field p.notice 0 32).toNat (field p.notice 36 4).toNat p.holding
    else s) s

/-- GRID_COMPLETE (R359): the completion goes to the parent's LNCH queue, or to the host as an event record (R372). -/
def execGridComplete (g : Nat) (s : State) : Out :=
  match s.grids.get? g with
  | none => off s
  | some x =>
    if !finished s x then off s
    else
      let s := endProbate s g
      let s := s.modGrid g (fun y => { y with complete := true, probate := [] })
      let x := s.grid g
      match x.parent with
      | some p => match p.queue with
        | some (w, q) => did (deliverEntry s w q 5 ⟨x.record.tag ++ 0#16 ++ BitVec.ofNat 32 g, p.lbl, 0, 0⟩)
        | none => did s
      | none => did (vdEvent s x.vd x.gen 2 (le 4 g ++ le 2 x.record.tag.toNat ++ le 1 (if x.killed then 1 else 0) ++ le 1 x.faults))

/-! Virtual time and slices (R353, R354, R371). -/

/-- VIRTUAL_TIME_CHARGE (R353): the quadrant-cycles of the last microsecond, per VD, are charged. -/
def execVirtualTimeCharge (cycles : List (Nat × Nat)) (s : State) : Out :=
  did (cycles.foldl (fun s (e : Nat × Nat) => s.modVd e.1 (fun d =>
    if d.state = 0 then d
    else
      let x := e.2 * 2 ^ 16 + d.carry
      { d with vtime := d.vtime + BitVec.ofNat 64 (x / d.weight), carry := x % d.weight })) s)

/-- The grids of a VD that have work on a partition still to run: eligible, or dealt with units or saved warps left. -/
def waitingOn (s : State) (p : Nat) : List Grid :=
  (eligible s ++ (s.grids.filter (fun e => e.2.dealt && !e.2.killed && !e.2.complete && dealable s e.2.vd &&
    (!e.2.shares.isEmpty || (warpsOf s e.1).any (fun w => w.2.life == .rewound || w.2.life == .saved)))).map (fun e => e.2)).filter
    (fun g => partitionOf s g.vd g.record == some p)

/-- Whether the contexts to save at a slice end fit the save area (R371). Contexts taken by flashback use none of it; the spec gives no
size for the others, so that the answer is open (the size of a saved context: DESIGN CHOICE, log entry 100). -/
def savesFit (s : State) (p : Nat) (v : Nat) : Bool × State :=
  if (s.warps.filter (fun e => inPartition s p e.2)).all (fun e => e.2.uncommitted && !e.2.handler) then (true, s)
  else if (s.vd v).saveLen = 0#32 then (false, s)
  else
    let (x, s) := freeValue s
    (x.getLsbD 0, s)

/-- Post a pre-emption request to warps (R221). -/
def requestAll (s : State) (kind : Nat) (pick : Nat → Warp → Bool) : State :=
  { s with warps := s.warps.map (fun (e : Nat × Warp) => (e.1, if e.2.life.onQuad && pick e.1 e.2 then { e.2 with evict := kind } else e.2)) }

/-- SLICE_END (R354, R371): the partition passes to the first waiting VD whose launch is not below what runs, every warp there being
pre-empted; otherwise the slice is renewed. -/
def execSliceEnd (partition : Nat) (s : State) : Out :=
  match s.package.holder.get? partition with
  | none => off s
  | some v =>
    let run := (s.warps.filter (fun e => inPartition s partition e.2)).map (fun e => (s.record e.1).priority)
    let mine := ((waitingOn s partition).filter (fun g => g.vd == v)).map (fun g => g.record.priority)
    let top := (run ++ mine).foldl max 0
    match ranked s ((waitingOn s partition).filter (fun g => g.vd != v && decide (top ≤ g.record.priority))) with
    | [] => did s
    | g :: _ =>
      match savesFit s partition v with
      | (false, s) => did (hvEvent s v (s.vd v).gen 9 (le 2 partition))
      | (true, s) =>
        let s := requestAll s 2 (fun _ x => quadPartition s x.quad == some partition)
        let holder := s.package.holder.put partition g.vd
        let s := { s with package := { s.package with holder := holder } }
        let s := s.modVd v (fun d => if d.state = 1 ∧ !(holder.any (fun e => e.2 == v)) then { d with state := 2 } else d)
        did (s.modVd g.vd (fun d => if d.state = 2 then { d with state := 1 } else d))

/-! The grid fault buffer (R361). -/

/-- GFPOP (R361): one aligned 64-byte read returns and removes the oldest record; another read returns zero. -/
def execGfpop (req : Req) (vd : Nat) (whole : Bool) (s : State) : Out :=
  if 1024 ≤ vd then off s
  else windowRead s req vd 64 (fun s =>
    match whole, (s.vd vd).gf with
    | true, r :: rest => (r, s.modVd vd (fun d => { d with gf := rest }))
    | _, _ => (zeros 64, s))

/-- GFSTAT_READ (R361): the read clears the dropped count. -/
def execGfstatRead (req : Req) (vd : Nat) (s : State) : Out :=
  if 1024 ≤ vd then off s
  else windowRead s req vd 8 (fun s =>
    (le 2 (s.vd vd).gf.length ++ le 2 (s.vd vd).gfDropped ++ le 4 0, s.modVd vd (fun d => { d with gfDropped := 0 })))

end Sys2Proof.Machine
end

