-- ==== Sys2Proof/Machine/Keccak.lean ====
section
/-! DEFINITION. SHAKE256 (FIPS 202), which R43, R380 and R409 use for measurements. -/

namespace Sys2Proof.Machine

open Sys2Proof

/-- The state of Keccak-f[1600]: lane (x, y) at place x + 5 y. -/
abbrev Lanes := List DWord

/-- A lane. -/
def laneAt (a : Lanes) (x y : Nat) : DWord := (a[x % 5 + 5 * (y % 5)]?).getD 0#64

/-- The rotation offsets of rho, by place. -/
def rhoOffsets : List Nat :=
  [0, 1, 62, 28, 27, 36, 44, 6, 55, 20, 3, 10, 43, 25, 39, 41, 45, 15, 21, 8, 18, 2, 61, 56, 14]

/-- The round constants of iota. -/
def roundConstants : List DWord :=
  [0x0000000000000001#64, 0x0000000000008082#64, 0x800000000000808A#64, 0x8000000080008000#64, 0x000000000000808B#64,
   0x0000000080000001#64, 0x8000000080008081#64, 0x8000000000008009#64, 0x000000000000008A#64, 0x0000000000000088#64,
   0x0000000080008009#64, 0x000000008000000A#64, 0x000000008000808B#64, 0x800000000000008B#64, 0x8000000000008089#64,
   0x8000000000008003#64, 0x8000000000008002#64, 0x8000000000000080#64, 0x000000000000800A#64, 0x800000008000000A#64,
   0x8000000080008081#64, 0x8000000000008080#64, 0x0000000080000001#64, 0x8000000080008008#64]

/-- One round: theta, rho, pi, chi, iota. -/
def keccakRound (a : Lanes) (rc : DWord) : Lanes :=
  let col := (List.range 5).map (fun x => laneAt a x 0 ^^^ laneAt a x 1 ^^^ laneAt a x 2 ^^^ laneAt a x 3 ^^^ laneAt a x 4)
  let d := (List.range 5).map (fun x => ((col[(x + 4) % 5]?).getD 0#64) ^^^ ((col[(x + 1) % 5]?).getD 0#64).rotateLeft 1)
  let t := (List.range 25).map (fun k => (((a[k]?).getD 0#64) ^^^ ((d[k % 5]?).getD 0#64)).rotateLeft ((rhoOffsets[k]?).getD 0))
  let b := (List.range 25).map (fun k => laneAt t (k % 5 + 3 * (k / 5)) (k % 5))
  (List.range 25).map (fun k =>
    let x := k % 5
    let y := k / 5
    let v := laneAt b x y ^^^ (~~~(laneAt b (x + 1) y) &&& laneAt b (x + 2) y)
    if k = 0 then v ^^^ rc else v)

/-- Keccak-f[1600]. -/
def keccakF (a : Lanes) : Lanes := roundConstants.foldl keccakRound a

/-- Absorb one block of 136 bytes. -/
def absorb (a : Lanes) (block : List Byte) : Lanes :=
  keccakF ((List.range 25).map (fun k => ((a[k]?).getD 0#64) ^^^ (if k < 17 then ofBytes 64 (slice block (8 * k) 8) else 0#64)))

/-- The padded blocks of a message: `n` blocks, the last holding the suffix 0x1F and the final bit. -/
def padded (m : List Byte) (n : Nat) : List (List Byte) :=
  (List.range n).map (fun b => (List.range 136).map (fun k =>
    let i := 136 * b + k
    let v : Byte := if i < m.length then (m[i]?).getD 0 else if i = m.length then 0x1F#8 else 0#8
    if b + 1 = n ∧ k = 135 then v ||| 0x80#8 else v))

/-- SHAKE256 with an output of 32 bytes. -/
def shake256 (m : List Byte) : List Byte :=
  let a := (padded m (m.length / 136 + 1)).foldl absorb (List.replicate 25 0#64)
  ((a.take 4).map (fun v => toBytes v 8)).flatten

end Sys2Proof.Machine
end

