-- ==== Sys2Proof/Machine/Preempt.lean ====
section
/-! DEFINITION. Pre-emption (R221 to R224, R244): requests, flashback and full save, and resumption. -/

namespace Sys2Proof.Machine

open Sys2Proof

/-! Who is taken (R223). -/

/-- The grids whose unit a core would start if it had room: those of priority above `prio` (R223). -/
def arriving (s : State) (core prio : Nat) : List (LaunchRec × Nat) :=
  ((startable s).filter (fun g => decide (prio < g.record.priority))).filterMap (fun g => match startOf s core g with
    | some (p, _, _) => some (g.record, p)
    | none => none)

/-- Whether a warp stands before another among those to evict: the lower priority, the uncommitted, the most recently launched. -/
def evictBefore (s : State) (a b : Nat) : Bool :=
  let key (w : Nat) : List Int :=
    [((s.record w).priority : Int), if (s.warp w).uncommitted && !(s.warp w).handler then 0 else 1, -((s.warp w).grid : Int), -(w : Int)]
  decide (key a < key b)

/-- Whether a debugger has halted a warp, or a part of it, or the host has frozen its block: it is not taken (R221, R227, R228). -/
def debugHalted (s : State) (x : Warp) : Bool :=
  x.stopped || (s.block x.grid x.block).frozen || x.subs.any (fun u => u.hold == .halted)

/-- Whether a warp is named in the gang register of a warp of its block. -/
def inGang (x y : Warp) : Bool :=
  x.gang != 0#32 && y.grid == x.grid && y.block == x.block && x.gang.getLsbD y.index && decide (y.index < 16)

/-- Whether a warp can be evicted with every member of its gang: none of them is halted by a debugger (R221, R223). -/
def gangGoes (s : State) (x : Warp) : Bool := !debugHalted s x && !(s.warps.any (fun e => e.2.life.onQuad && inGang x e.2 && debugHalted s e.2))

/-- The warp of a quadrant that gives way to an arriving block that finds no room there, those that are already leaving counted as gone
(R223) (one at a time: DESIGN CHOICE, log entry 73). -/
def victim (s : State) (q : Nat) : Option Nat :=
  let core := coreOfQuad q
  let stay := (held s q).filter (fun e => e.2.life == .resident && e.2.evict == 0)
  let short := (arriving s core 0).find? (fun a =>
    let n := (placement s a.2 core a.1).count (q % 4)
    n != 0 && !roomBeside s stay n a.1.regs && decide (coreUsed s a.2 core + a.1.need ≤ coreBytes s a.2 core))
  match short with
  | none => none
  | some a =>
    (stay.filter (fun e => gangGoes s e.2 && decide ((s.record e.1).priority < a.1.priority))).foldl (fun b e =>
        match b with
        | none => some e.1
        | some v => if evictBefore s e.1 v then some e.1 else some v) none

/-- A gang goes whole (R223): its other members are requested with a member that is evicted. -/
def requestGang (s : State) (w : Nat) : State :=
  let x := s.warp w
  if x.gang = 0#32 then s else requestAll s 1 (fun v y => v != w && y.evict == 0 && inGang x y)

/-! Leaving the core. -/

/-- A half of the B latch that goes with its gang (R244, R256): a load that fills it has made its reads and is complete, and the operations
that used it have read it; none where it was not loaded under the gang register. -/
def takeHalf (q : Nat) (gang : Word) (acc : List BHalf × State) (h : Nat) : List BHalf × State :=
  let s := acc.2
  let filling := (s.cmds.find? (fun e => e.2.quad == q && (match e.2.op with
    | .mx _ _ _ _ _ _ l _ => l == some h
    | _ => false))).map (fun e => e.2)
  let s := match filling with
    | some c => if c.consumed then s else readHalf s c
    | none => s
  let b := ((s.quad q).halves[h]?).getD BHalf.empty
  if b.gang ≠ gang ∨ (!b.ready && filling.isNone) ∨ b.rows = [] then (acc.1, s)
  else
    let (t, s) := freshStamp s
    let s := { s with cmds := s.cmds.map (fun (e : Nat × Cmd) =>
      match e.2.op with
      | .mx code base fl ll ws uses loads rows =>
        if e.2.quad = q then
          (e.1, { e.2 with op := .mx code base fl ll ws (if uses = some h then none else uses) (if loads = some h then none else loads) rows })
        else e
      | _ => e) }
    let s := s.modQuad q (fun x => { x with halves := setAt x.halves h BHalf.empty })
    (acc.1 ++ [{ b with ready := true, order := if b.ready then b.order else t + 1, users := 0, source := none }], s)

/-- The windows of a quadrant none of whose holders is left on it are saved with their gang, and with the halves of the B latch loaded under
its register; rows marked dead are omitted (R244, R256). -/
def saveWindows (s : State) (w : Nat) : State :=
  let x := s.warp w
  let q := s.quad x.quad
  let gone := q.claims.filter (fun a => a.2.contains w && !a.2.any (fun v => (s.warp v).life.onQuad))
  gone.foldl (fun s (a : Word × List Nat) =>
    let first := gangFirst a.1
    let last := gangEnd a.1
    let rows := ((s.quad x.quad).rows.inRange first last).filter (fun r => !r.2.dead)
    let s := s.modQuad x.quad (fun q => { q with claims := q.claims.filter (fun b => b != a), rows := q.rows.dropRange first last })
    let (hs, s) := [0, 1].foldl (takeHalf x.quad a.1) ([], s)
    s.modBlock x.grid x.block (fun b => { b with windows := b.windows ++ [⟨a.1, x.quad % 4, a.2, rows, hs⟩] })) s

/-- A block that a pre-emption has taken whole leaves its core, its scratchpad discarded if every warp was uncommitted (R222); warps evicted for
room leave it in place (R223). -/
def leaveCore (s : State) (w kind : Nat) : State :=
  let x := s.warp w
  let b := s.block x.grid x.block
  let lives := (b.warps.map (fun v => (s.warp v).life)).filter (fun l => match l with
    | .dead => false
    | .dying _ _ => false
    | _ => true)
  if lives.any Life.onQuad then s
  else s.setBlock x.grid x.block { b with
    away := b.away || kind == 2, spad := if kind == 2 && lives.all (fun l => l == .rewound) then Spad.fresh else b.spad }

/-- A warp has been taken; what its die's copies had then is noted for the die at which it goes on (R59). -/
def takenAs (s : State) (w : Nat) (l : Life) : State :=
  let kind := (s.warp w).evict
  let s := s.modWarp w (fun x => { x with mark := s.clockOf (dieOfQuad x.quad) })
  let s := dropWarpLatches (withdraw s w) w
  let s := s.modWarp w (fun x => { x with
    life := l, evict := 0
    prefetches := (s.cmds.filter (fun e => e.2.warp == w && !e.2.started && (match e.2.op with
      | .prefetch _ => true
      | _ => false))).length })
  leaveCore (saveWindows s w) w kind

/-- The park of a warp that a flashback takes: the sub-warp that starts at the cue point keeps it (R216, R221). -/
def keepPark (x : Warp) (s : State) (w : Nat) : State :=
  match x.subs.find? (fun u => match u.hold with
    | .xlate _ _ => true
    | _ => false) with
  | some u => s.modWarp w (fun y => { y with subs := y.subs.map (fun r => { r with hold := u.hold }) })
  | none => s

/-- PREEMPTION_REQUEST (R221, R223): a requested warp, or one that gives way to an arriving block, is taken at its issue opportunity: by
flashback when it is uncommitted and not in handler mode, which waits for the recorded objects' prefetches in flight once those that have
not started are cancelled; otherwise it waits for its full save. -/
def execPreemptionRequest (w : Nat) (s : State) : Out :=
  let x := s.warp w
  let gives := x.evict == 0 && victim s x.quad == some w
  if x.life ≠ .resident ∨ debugHalted s x ∨ (x.evict = 0 ∧ !gives) then off s
  else
    let t := if gives then requestGang (s.modWarp w (fun y => { y with evict := 1 })) w else s
    if x.uncommitted && !x.handler then
      if flashbackWaits t w then
        let t := cancelPrefetches t w
        if t = s then off s else did t
      else did (takenAs (keepPark x (flashback t w) w) w .rewound)
    else did (t.modWarp w (fun y => { y with life := .saving }))

/-- The lanes of a warp in which a live register is poisoned; a uniform register, and in handler mode one of the shadow bank, counts for
every lane (R224). -/
def poisonedLanes (s : State) (w : Nat) : LaneMask :=
  let x := s.warp w
  if (x.s ++ (if x.handler then x.shadow else [])).any (fun r => r.poison && !r.dead) then liveLanes s w
  else
    let bad (m : SMap Reg) (k : Nat) (i : Nat) : Bool := m.any (fun e => e.1 % k == i && e.2.poison && !e.2.dead)
    liveLanes s w &&& maskOf (fun i => bad x.o 32 i || bad x.v 32 i)

/-- Dead registers are not saved: after the restore they hold zero with label 0 (R134). -/
def omitDead (x : Warp) : Warp :=
  { x with o := x.o.filter (fun e => !e.2.dead), v := x.v.filter (fun e => !e.2.dead), s := x.s.map live, shadow := x.shadow.map live }
where
  /-- a register as it is restored -/
  live (r : Reg) : Reg := if r.dead then Reg.zero else r

/-- FULL_SAVE (R221, R224): a warp whose replies have landed is saved in full. A live register that is poisoned is consumed first: its
POISON is taken, and what is left of the warp is saved. -/
def execFullSave (w : Nat) (s : State) : Out :=
  let x := s.warp w
  if x.life ≠ .saving ∨ !x.ldx.isEmpty ∨ (s.quad x.quad).rendezvous.any (fun m => m.warp == w && m.done) then off s
  else
    let bad := poisonedLanes s w
    let s := match bad == 0#32, (match oldestReady x with
      | some u => some u
      | none => x.subs.head?) with
      | false, some u =>
        let t := takeTrap s w u.id ⟨18, u.pc, 0#64, bad, lineSlot u.pc, 0, false, 0#32, 0#32, [], [], none, false⟩
        { t with report := .done }
      | _, _ => s
    if (s.warp w).life ≠ .saving then did s
    else did (takenAs (countCore (s.modWarp w omitDead) (coreOfQuad x.quad) 7 x.vd) w .saved)

/-! Resumption (R127, R221, R222, R223). -/

/-- Warps of a block that are saved. -/
def savedWarps (s : State) (b : Block) : List Nat := b.warps.filter (fun v => match (s.warp v).life with
  | .rewound => true
  | .saved => true
  | _ => false)

/-- Whether a core has room for a block's saved warps on the quadrant numbers that they had, and for its scratchpad (R127). -/
def takesBlock (s : State) (p core : Nat) (b : Block) : Bool :=
  let r := (s.grid b.grid).record
  let ks := (savedWarps s b).map (fun v => (s.warp v).quad % 4)
  goodCore s core && !(s.die (dieOfCore core)).fenced &&
  (List.range 4).all (fun k => ks.count k == 0 || (quadPartition s (4 * core + k) == some p && quadRoom s (4 * core + k) (ks.count k) r.regs)) &&
  decide (coreUsed s p core + r.need ≤ coreBytes s p core)

/-- Whether a block that is away can be placed on a core: its cluster's other blocks stand on other cores of the same hardware cluster,
or can all be placed there with it. -/
def placesCluster (s : State) (p core : Nat) (b : Block) : Bool :=
  let n := (s.grid b.grid).record.perCluster
  let mates := ((List.range n).map (fun k => s.block b.grid (b.index / n * n + k))).filter (fun m =>
    m.index != b.index && m.warps.any (fun v => (s.warp v).life != .dead))
  let here := mates.filter (fun m => !m.away)
  let others := mates.filter (fun m => m.away)
  let home (c : Nat) : Bool := dieOfCore c == dieOfCore core && clusterOf c == clusterOf core
  let spare := ((List.range 4).map (fun k => 36 * dieOfCore core + 4 * clusterOf core + k)).filter (fun c =>
    c != core && !here.any (fun m => m.core == c) && others.all (fun m => takesBlock s p c m))
  takesBlock s p core b && here.all (fun m => home m.core && m.core != core) && decide (others.length ≤ spare.length)

/-- The saved windows that a warp holds, and whether a quadrant's live claims and B latch leave room for them (R235, R244, R256). -/
def windowsOf (b : Block) (w : Nat) : List SavedWindow := b.windows.filter (fun a => a.holders.contains w)
def windowsFit (s : State) (q : Nat) (ws : List SavedWindow) : Bool :=
  ws.all (fun a => !(s.quad q).claims.any (fun c => decide (gangFirst c.1 < gangEnd a.gang) && decide (gangFirst a.gang < gangEnd c.1))) &&
  decide ((ws.map (fun a => a.halves.length)).foldl (· + ·) 0 ≤
    (((s.quad q).halves.zipIdx).filter (fun p => p.1.users == 0 && !loading s q p.2)).length)

/-- The halves of a quadrant's B latch that saved halves can go to: no operation uses them, no load fills them, and no claim of the quadrant
is that of the gang that loaded them before those of other gangs (R242, R256). -/
def openHalves (s : State) (q : Nat) : List Nat :=
  let hs := ((s.quad q).halves.zipIdx).filter (fun p => p.1.users == 0 && !loading s q p.2)
  let kept (p : BHalf × Nat) : Bool := p.1.ready && (s.quad q).claims.any (fun c => c.1 == p.1.gang)
  (hs.filter (fun p => !kept p) ++ hs.filter kept).map (fun p => p.2)

/-- Put a saved window back on a quadrant, with the halves of the B latch loaded under its register. -/
def restoreWindow (q : Nat) (s : State) (a : SavedWindow) : State :=
  let to' := openHalves s q
  s.modQuad q (fun x => { x with
    claims := x.claims ++ [(a.gang, a.holders)]
    halves := (a.halves.zip to').foldl (fun hs p => setAt hs p.2 p.1) x.halves
    rows := a.rows.foldl (fun m r => m.set AccRow.zero r.1 r.2) (x.rows.dropRange (gangFirst a.gang) (gangEnd a.gang)) })

/-- The sub-warps of a resumed warp are stamped again in their old order, and a park is posted again (R142, R216, R221). -/
def wake (s : State) (w : Nat) : State :=
  (sortOn (fun u => u.stamp) (s.warp w).subs).foldl (fun s u =>
    match u.hold with
    | .xlate va access => vdEvent s (s.warp w).vd (s.grid (s.warp w).grid).gen 1 (le 8 va.toNat ++ le 4 w ++ le 1 access)
    | .ready => makeReady s w u
    | _ => s) s

/-- The transfer engine issues the bound prefetches of a resumed warp again that its save cancelled (R221, R272). -/
def reissue (s : State) (w : Nat) : State :=
  let again := s.cmds.filter (fun e => e.2.warp == w && !e.2.started && (match e.2.op with
    | .prefetch _ => true
    | _ => false))
  again.foldl (fun s e => addCmd (endCmd s e.2) { e.2 with id := s.cmdSerial }) s

/-- Whether a warp has been taken from its core. -/
def Life.away : Life → Bool
  | .rewound => true
  | .saved => true
  | _ => false

/-- Whether a saved warp may go on at a core now (R222, R223): on the same quadrant number, of its block's core, or of a core that takes the
whole block where the block had left; the copies of the die must have met what those of its old die had (R52, R59). -/
def mayResume (s : State) (w core : Nat) : Bool :=
  let x := s.warp w
  let b := s.block x.grid x.block
  match (if x.life.away && decide (core < 324) && dealable s x.vd then partitionOf s x.vd (s.record w) else none) with
  | none => false
  | some p =>
    let q := 4 * core + x.quad % 4
    let room := if b.away then placesCluster s p core b
      else b.core == core && !(s.die (dieOfCore core)).fenced && quadPartition s q == some p && quadRoom s q 1 (s.record w).regs
    room && s.caughtUp (dieOfCore core) x.mark && mayRunOn s x.vd p (s.record w).priority && !leaving s x.vd p && windowsFit s q (windowsOf b w)

/-- A saved warp is resident again, with the windows that it holds, its cancelled prefetches issued again. -/
def resumed (s : State) (w core : Nat) : State :=
  let x := s.warp w
  let b := s.block x.grid x.block
  let q := 4 * core + x.quad % 4
  let ws := windowsOf b w
  let s := ws.foldl (restoreWindow q) s
  let s := s.setBlock x.grid x.block { b with core := core, away := false, windows := b.windows.filter (fun a => !ws.contains a) }
  wake (reissue (s.modWarp w (fun y => { y with life := .resident, quad := q, prefetches := 0 })) w) w

/-- RESUME (R222, R223). -/
def execResume (w core : Nat) (s : State) : Out := if mayResume s w core then did (resumed s w core) else off s

end Sys2Proof.Machine
end

