-- ==== Sys2Proof/Machine/Special.lean ====
section
/-! DEFINITION. Special registers (R119, R180) and label instructions (R45, R181 to R183): SREG, LGET, LRAISE, LCHK, DCL. -/

namespace Sys2Proof.Machine

open Sys2Proof

/-! SREG (R180). -/

/-- The value of a special register in a lane. -/
def sregValue (s : State) (c : Ctx) (sel i : Nat) : DWord :=
  let x := s.warp c.w
  let r := s.record c.w
  let n : Nat → DWord := BitVec.ofNat 64
  match sel with
  | 0 => n i
  | 1 => n (i / 4)
  | 2 => n x.index
  | 3 => n x.block
  | 4 => n (x.block / r.perCluster)
  | 5 => n x.grid
  | 6 => n x.serial
  | 7 => zext c.on 64
  | 8 => zext (c.on &&& lanesBelow i) 64
  | 9 => zext (pathIn s c.w c.on i) 64
  | 10 => zext x.clearance 64
  | 11 => n x.vd
  | 12 => n c.die
  | 13 => n (c.core % 36)
  | 14 => n r.lanes
  | 15 => n r.blocks
  | 16 => s.package.time
  | 17 => x.tc
  | 18 => astat x
  | 19 => r.dkey
  | _ => zext (s.die c.die).harvest 64

/-- The label of a special register, beside the path or mask label of every result. -/
def sregLabel (s : State) (c : Ctx) (sel i : Nat) : List Label :=
  match sel with
  | 7 => [c.sub.maskLabel]
  | 8 => [c.sub.maskLabel]
  | 9 => [pathIn s c.w c.on i]
  | 17 => [c.sub.maskLabel]
  | 18 => [(s.warp c.w).flagLabel, c.sub.maskLabel]
  | _ => []

/-- SREG read (R180): a 64-bit selector writes a pair. -/
def execSregRead (p : Pfx) (w : W0) (s : State) : Out :=
  issue p (WF.sreg_read p w) s (fun c =>
    let sel := w.a.toNat
    aluBody c w (Dst.ofCode w.d) (if WF.sel64 sel then 2 else 1) [] (fun s i => sregLabel s c sel i)
      (fun s i _ => ([lo32 (sregValue s c sel i), hi32 (sregValue s c sel i)], 0#8)))

/-- SREG write (R119, R180): the flags of %astat and their label. -/
def execSregWrite (p : Pfx) (w : W0) (s : State) : Out :=
  issue p (WF.sreg_write p w) s (fun c => do
    let b := Src.code w.b
    checkSrcs c [b] c.on
    if c.on = 0#32 then pure ()
    else
      let s ← M.st
      let l ← M.run' (fun t => t.joinList c.w (srcLbl s c b 0 :: c.kl))
      M.upd (fun t => t.modWarp c.w (fun x => { x with flags := field (srcVal s c b 0) 0 8, flagLabel := l }))
    lastUse c [(w.luB, b)]
    pure .next)

/-! LGET, LRAISE, LCHK (R181, R182). -/

/-- LGET (R181): the handle of the source's label. -/
def execLget (p : Pfx) (w : W0) (s : State) : Out :=
  issue p (WF.lget p w) s (fun c =>
    let a := Src.code w.a
    alu c w (Dst.ofCode w.d) [(w.luA, a)] (fun s i _ => (zext (srcLbl s c a i) 32, 0#8)))

/-- Whether a value names an allocated handle of the VD (R181). -/
def validHandle (s : State) (v : Nat) (b : Word) : Bool := decide (b.toNat ≤ 255) && ((s.vd v).table.get? b.toNat).isSome

/-- A value that names no allocated handle traps LABEL (R181). -/
def checkHandles (c : Ctx) (d : Dst) (b : Src) : M Unit := do
  let s ← M.st
  let bad := if d.uniform then (if validHandle s c.vd (srcVal s c b 0) then 0#32 else c.on)
    else maskOf (fun i => hasLane c.on i && !validHandle s c.vd (srcVal s c b i))
  trapIf c (bad != 0#32) 6 bad

/-- The handle that a value gives; a helper lane's invalid value gives none. -/
def handleIn (s : State) (c : Ctx) (b : Src) (i : Nat) : Label :=
  if validHandle s c.vd (srcVal s c b i) then field (srcVal s c b i) 0 8 else 0#8

/-- The checks of LRAISE (R181). -/
def lraiseChecks (c : Ctx) (d : Dst) (a b : Src) : M Unit := do
  checkSrcs c [a, b] c.on
  checkHandles c d b
  checkDst c d

/-- LRAISE (R181). -/
def lraiseBody (c : Ctx) (w : W0) (d : Dst) (a b : Bool × Src) : M Done := do
  lraiseChecks c d a.2 b.2
  aluBody c w d 1 [a, b] (fun s i => [handleIn s c b.2 i]) (fun _ _ v => ([at' v 0], 0#8))

/-- LRAISE, 32-bit form (R181). -/
def execLraise32 (p : Pfx) (w : W0) (s : State) : Out :=
  issue p (WF.lraise_32 p w) s (fun c => lraiseBody c w (Dst.ofCode w.d) (w.luA, .code w.a) (w.luB, .code w.b))

/-- LRAISE, 64-bit form (R181). -/
def execLraise64 (p : Pfx) (w : W0) (x : W1) (s : State) : Out :=
  issue p (WF.lraise_64 p w x) s (fun c => lraiseBody c w (dstD w x) (w.luA, srcA w x) (immB immZ w x))

/-- The checked label of a lane of LCHK: the value's label joined with the path label (R182). -/
def lchkLabels (c : Ctx) (a : Src) (extra : List Label) : M (SMap Label) :=
  M.run' (fun s => s.joinLanes c.w c.run (fun i => [srcLbl s c a i, pathIn s c.w c.on i] ++ extra))

/-- The checks of LCHK, trapping form (R182): the handle must dominate in every lane. -/
def lchkChecks (c : Ctx) (a b : Src) : M Unit := do
  checkSrcs c [a, b] c.on
  checkHandles c .none b
  let ls ← lchkLabels c a c.kl
  let s ← M.st
  requireDom c c.on ls (fun i => handleIn s c b i) (fun _ => 0#64)

/-- LCHK, trapping form (R182): it changes nothing. -/
def lchkBody (c : Ctx) (a b : Bool × Src) : M Done := do
  lchkChecks c a.2 b.2
  lastUse c [a, b]
  pure .next

/-- The outcome of LCHK.k (R182): the lanes in which the handle dominates. -/
def lchkBits (c : Ctx) (a b : Src) : M LaneMask := do
  checkSrcs c [a, b] c.on
  checkHandles c .none b
  let ls ← lchkLabels c a []
  let s ← M.st
  pure (maskOf (fun i => hasLane c.on i && s.dominates c.vd (handleIn s c b i) (ls.get 0#8 i)))

/-- LCHK.k (R182): the outcome in a lane-mask register. -/
def lchkKBody (c : Ctx) (w : W0) (a b : Bool × Src) : M Done := do
  let bits ← lchkBits c a.2 b.2
  let rs ← laneLabels c [a, b] (fun _ _ => [])
  lastUse c [a, b]
  writeCompare c w (field w.d 0 3).toNat c.on bits (fun i => rs.get 0#8 i)
  pure .next

/-- LCHK, 32-bit form (R182). -/
def execLchk32 (p : Pfx) (w : W0) (s : State) : Out :=
  issue p (WF.lchk_32 p w) s (fun c => lchkBody c (w.luA, .code w.a) (w.luB, .code w.b))

/-- LCHK, 64-bit form (R182). -/
def execLchk64 (p : Pfx) (w : W0) (x : W1) (s : State) : Out :=
  issue p (WF.lchk_64 p w x) s (fun c => lchkBody c (w.luA, srcA w x) (immB immZ w x))

/-- LCHK.k, 32-bit form (R182). -/
def execLchkK32 (p : Pfx) (w : W0) (s : State) : Out :=
  issue p (WF.lchk_k_32 p w) s (fun c => lchkKBody c w (w.luA, .code w.a) (w.luB, .code w.b))

/-- LCHK.k, 64-bit form (R182). -/
def execLchkK64 (p : Pfx) (w : W0) (x : W1) (s : State) : Out :=
  issue p (WF.lchk_k_64 p w x) s (fun c => lchkKBody c w (w.luA, srcA w x) (immB immZ w x))

/-! DCL (R45, R183). -/

/-- The frames of a code range, as far as they are mapped for reads: location of each frame's first byte. None when one is not. -/
def rangePages (s : State) (d v : Nat) (lo : Nat) : Nat → Option (List Loc)
  | 0 => some []
  | n + 1 =>
    match s.findLeaf (.die d) v (BitVec.ofNat 64 (lo / 65536 * 65536)) with
    | (.leaf l, _) => (rangePages s d v (lo / 65536 * 65536 + 65536) n).map (fun r => l.loc (BitVec.ofNat 64 (lo / 65536 * 65536)) :: r)
    | _ => none

/-- Frames that a range of bytes touches. -/
def frameCount (lo hi : Nat) : Nat := (hi + 65535) / 65536 - lo / 65536

/-- The bytes of a range, by its frames. -/
def rangeBytes (s : State) (d lo hi : Nat) (ls : List Loc) : List Byte :=
  ((ls.zipIdx).map (fun p =>
    let base := (lo / 65536 + p.2) * 65536
    let a := max lo base
    let b := min hi (base + 65536)
    s.readLoc d { p.1 with pa := p.1.pa + (a - base) } (b - a))).flatten

/-- The measurement of a sealed range that the security block holds, taken now where it holds none (R45); none when a page of the
range is not sealed. -/
def measureRange (s : State) (d v lo hi : Nat) : Option (List Byte) × State :=
  match rangePages s d v lo (frameCount lo hi) with
  | none => (none, s)
  | some ls =>
    if ls.all (fun l => s.sealed.get false (sealKey l)) then
      match (s.vd v).measured.find? (fun m => m.1 == lo && m.2.1 == hi) with
      | some m => (some m.2.2, s)
      | none =>
        let h := shake256 (rangeBytes s d lo hi ls)
        (some h, s.modVd v (fun x => { x with measured := x.measured ++ [(lo, hi, h)] }))
    else (none, s)

/-- A GRANT trap: the slot, the step of R45, and for step 4 the label checked (R46, R212). -/
def trapGrant {α : Type} (c : Ctx) (lanes : LaneMask) (slot step : Nat) (checked : List Label) : M α :=
  stopLabel c { c.info 7 lanes with
    step := step, low := BitVec.ofNat 32 (slot * 65536 + ((checked.head?).getD 0#8).toNat), lbls := checked }

/-- Steps 1 to 3 of R45. -/
def checkGrant (c : Ctx) (slot : Nat) : M Grant := do
  let s ← M.st
  match (s.vd c.vd).grants.get? slot with
  | none => trapGrant c c.on slot 1 []
  | some g =>
    if !(decide (g.codeLo.toNat ≤ c.pc.toNat) && decide (c.pc.toNat < g.codeHi.toNat)) then trapGrant c c.on slot 2 []
    else
      let m ← M.run' (fun s => measureRange s c.die c.vd g.codeLo.toNat g.codeHi.toNat)
      if m = some g.measure then pure g else trapGrant c c.on slot 3 []

/-- Step 4 of R45 over lanes. -/
def checkFrom (c : Ctx) (g : Grant) (slot : Nat) (lanes : LaneMask) (ls : SMap Label) : M Unit := do
  let s ← M.st
  let bad := maskOf (fun i => hasLane lanes i && (s.ownersOf c.vd (ls.get 0#8 i) &&& ~~~g.fromSet) != 0#64)
  match lowestLane bad with
  | some i => trapGrant c bad slot 4 [ls.get 0#8 i]
  | none => pure ()

/-- `L minus removed` as a handle (R45). -/
def minusLabel (s : State) (w v : Nat) (l : Label) (removed : OwnerSet) : Label × State :=
  s.intern v (s.ownersOf v l &&& ~~~removed) (State.setLsat w)

/-- `L minus removed` in each lane of a map, PFX.K's label joined afterwards (R96). -/
def minusLanes (c : Ctx) (g : Grant) (lanes : LaneMask) (ls : SMap Label) : M (SMap Label) :=
  M.run' (fun s => (lanesOf lanes).foldl (fun (a : SMap Label × State) i =>
    let (l, s) := minusLabel a.2 c.w c.vd (ls.get 0#8 i) g.removed
    let (l, s) := s.joinList c.w (l :: c.kl)
    (a.1.set 0#8 i l, s)) ([], s))

/-- The checks of DCL of a register, with some lane on (R45, R183): the grant, and the labels that it lowers. -/
def dclChecks (c : Ctx) (d : Dst) (a : Src) (slot : Nat) : M (Grant × SMap Label) := do
  let g ← checkGrant c slot
  let ls ← M.run' (fun s => if d.uniform then
      let (l, s) := s.joinList c.w [srcLbl s c a 0, c.sub.maskLabel]
      ((lanesOf c.run).foldl (fun (m : SMap Label) i => m.set 0#8 i l) [], s)
    else s.joinLanes c.w c.run (fun i => [srcLbl s c a i, pathIn s c.w c.on i]))
  let chk ← M.run' (fun s => s.joinLanes c.w c.on (fun i => ls.get 0#8 i :: c.kl))
  checkFrom c g slot c.on chk
  pure (g, ls)

/-- DCL of a register (R45, R183): its value, with labels lowered by what the grant removes. -/
def dclBody (c : Ctx) (w : W0) (d : Dst) (a : Bool × Src) (slot : Nat) : M Done := do
  checkDst c d
  checkSrcs c [a.2] c.on
  if c.on = 0#32 then
    lastUse c [a]
    writeLanes c w d 1 c.run (fun _ => []) (fun _ => 0#8)
  else
    let r ← dclChecks c d a.2 slot
    let ms ← minusLanes c r.1 c.run r.2
    let s ← M.st
    lastUse c [a]
    if d.uniform then writeUni c w d [srcVal s c a.2 0] (ms.get 0#8 ((lowestLane c.on).getD 0))
    else writeLanes c w d 1 c.run (fun i => [srcVal s c a.2 i]) (fun i => ms.get 0#8 i)
  pure .next

/-- DCL of a register (R45, R183). -/
def execDclReg (p : Pfx) (w : W0) (x : W1) (s : State) : Out :=
  issue p (WF.dcl_reg p w x) s (fun c => dclBody c w (dstD w x) (w.luA, srcA w x) (field x.hi 0 6).toNat)

/-- The checks of the granule forms of DCL, with some lane on: those of a store through step 5, and those of R45 against the granule's
label (R183); the places, and the labels that they get. -/
def dclPlaces (c : Ctx) (spad : Bool) (a : Src) (slot : Nat) : M (Places × SMap Label) := do
  let s ← M.st
  let al ← addrLabel c spad a
  let ps ← checkAccess c spad c.on (effAddr s c spad a 0) 1 .label (fun i => al.get 0#8 i)
  awaitLabels c ps
  let ls ← M.run' (fun s => s.joinLanes c.w c.on (fun i =>
    placeLabel s c (placeOf ps i) :: al.get 0#8 i :: [pathIn s c.w c.on i]))
  let g ← checkGrant c slot
  let chk ← M.run' (fun s => s.joinLanes c.w c.on (fun i => ls.get 0#8 i :: c.kl))
  checkFrom c g slot c.on chk
  let ms ← M.run' (fun s => (lanesOf c.on).foldl (fun (t : SMap Label × State) i =>
    let (l, s) := minusLabel t.2 c.w c.vd (ls.get 0#8 i) g.removed
    (t.1.set 0#8 i l, s)) ([], s))
  pure (ps, ms)

/-- Labels of granules in lane order, in every copy at once (R41). -/
def setGranules (c : Ctx) (ps : Places) (ms : SMap Label) (s : State) : State :=
  (lanesOf c.on).foldl (fun s i =>
    match placeOf ps i with
    | .mem q => s.setLabelAll q.loc (ms.get 0#8 i)
    | .spad b off => s.modSpad c.w b (fun y => y.setLabel off (ms.get 0#8 i))) s

/-- Whether a label of a granule, a raise of an atomic or of GRAISE, has still to reach a copy (R41). -/
def labelInFlight (s : State) : Place → Bool
  | .mem p => s.flights.any (fun f => (f.op == .label || f.floating) && f.host == p.loc.host && granule f.pa == granule p.loc.pa)
  | .spad _ _ => false

/-- A lowering by DCL is a release at .pkg (R41, R183, R184): every earlier write of the warp is performed first, and no older label of its
granules is on its way to a copy. -/
def awaitLowering (c : Ctx) (ps : Places) : M Unit := do
  let s ← M.st
  M.await (settled s c.w c.die 4 (fun _ => true) && !ps.any (fun q => labelInFlight s q.2))

/-- The granule forms of DCL (R183) (all copies in one step: DEDUCED, log entry 23). -/
def dclGranule (c : Ctx) (w : W0) (x : W1) (spad : Bool) : M Done := do
  let a := Src.code w.a
  checkSrcs c (addrSrcs spad a) c.on
  if c.on = 0#32 then pure ()
  else
    let r ← dclPlaces c spad a (field x.hi 0 6).toNat
    awaitLowering c r.1
    M.upd (fun s => commit s c.w)
    M.upd (setGranules c r.1 r.2)
  lastUse c ((addrSrcs spad a).map (fun y => (w.luA, y)))
  pure .next

/-- DCL of a global granule (R183). -/
def execDclG (p : Pfx) (w : W0) (x : W1) (s : State) : Out :=
  issue p (WF.dcl_g p w x) s (fun c => dclGranule c w x false)

/-- DCL of a scratchpad granule (R183). -/
def execDclSp (p : Pfx) (w : W0) (x : W1) (s : State) : Out :=
  issue p (WF.dcl_sp p w x) s (fun c => dclGranule c w x true)

end Sys2Proof.Machine
end

