-- ==== Sys2Proof/Machine/Tenants.lean ====
section
/-! DEFINITION. Tenants (R23, R24, R43, R44, R364 to R376, R380, R403): the security block's commands on VDs, grants, migration,
metering snapshots. -/

namespace Sys2Proof.Machine

open Sys2Proof

/-! The security block's commands (R403). -/

/-- A command ends with a status, a detail and its output, which goes to host memory at SBOUT. -/
def sbDone (s : State) (status detail : Nat) (out : List Byte) : State :=
  let b := s.security
  let out := out.take b.sboutLen.toNat
  { s with
    security := { b with busy := false, status := status, detail := detail, outBytes := out.length, out := out }
    hostMem := { s.hostMem with bytes := writeBytes s.hostMem.bytes b.sbout.toNat out } }

/-- A command that the hypervisor writes: refused while another runs, and before the security ROM is ready (R403, R411). -/
def command (req : Req) (s : State) (f : State → State) : Out :=
  if !isHv s req then did (hvViolation s req)
  else if s.security.busy ∨ s.package.phase < 2 then did { s with security := { s.security with refused := true } }
  else did (f s)

/-- Whether a VD exists (R364). -/
def isVd (s : State) (v : Nat) : Bool := decide (v < 1024) && (s.vd v).state != 0

/-! Creating, resetting, freeing (R23, R24, R364, R403). -/

/-- The handles that VDCREATE may install (R24): 1 to 254, each once, no set twice, none of them a set that 0 or 255 holds. -/
def goodHandles (hs : List (Nat × OwnerSet)) : Bool :=
  hs.all (fun h => decide (1 ≤ h.1) && decide (h.1 ≤ 254) && h.2 != 0#64 && h.2 != BitVec.allOnes 64) &&
  (hs.map (fun h => h.1)).dedup.length == hs.length && (hs.map (fun h => h.2)).dedup.length == hs.length

/-- VDCREATE (R23, R24, R403, R407, R411): the VD is DESCHEDULED with generation 1; what the control block holds stays. -/
def execVdcreate (req : Req) (a : VdArgs) (s : State) : Out :=
  command req s (fun s =>
    if 1024 ≤ a.vd ∨ isVd s a.vd ∨ !goodHandles a.handles ∨ a.keys.any (fun k => decide (64 ≤ k.1)) ∨ s.security.life ≠ 2 ∨ s.package.phase < 7 then
      sbDone s 1 0 []
    else
      let serial := s.package.vdSerial
      let s := { s with package := { s.package with vdSerial := serial + 1 } }
      let s := s.modVd a.vd (fun d => { d with
        state := 2, gen := 1, created := serial
        keys := a.keys.foldl (fun m k => m.put k.1 k.2) []
        table := a.handles.foldl (fun m h => m.put h.1 h.2) [(0, 0#64), (255, BitVec.allOnes 64)]
        installed := a.handles.map (fun h => h.1) })
      sbDone s 0 0 [])

/-- Everything in flight for a VD ends with it: its warps and grids, with nothing conveyed and no notice, its commands, writes, deliveries
and switch-held lines (R331, R364). -/
def endWork (s : State) (v : Nat) : State :=
  let mine (w : Nat) : Bool := (s.warp w).vd == v
  let qs := ((s.warps.filter (fun e => e.2.vd == v && e.2.life.onQuad)).map (fun e => e.2.quad)).dedup
  let s := qs.foldl (fun s q =>
    let all := (held s q).all (fun e => e.2.vd == v)
    s.modQuad q (fun x => { x with
      latches := Quad.reset.latches, owner := none, run := none
      rendezvous := x.rendezvous.filter (fun m => !mine m.warp)
      claims := (x.claims.map (fun c => (c.1, c.2.filter (fun w => !mine w)))).filter (fun c => !c.2.isEmpty)
      halves := if all then Quad.reset.halves else x.halves })) s
  { s with
    warps := s.warps.map (fun (e : Nat × Warp) => if e.2.vd = v then (e.1, { e.2 with
      life := .dead, subs := [], splits := [], estate := [], ldx := [], fe := [], deliveries := [], pending := []
      queues := List.replicate 16 Queue.free, claimant := false, exited := BitVec.allOnes 32, evict := 0 }) else e)
    grids := s.grids.map (fun (e : Nat × Grid) => if e.2.vd = v then (e.1, { e.2 with
      killed := true, complete := true, shares := [], probate := [], parent := e.2.parent.map (fun p => { p with queue := none }) }) else e)
    deaths := s.deaths.filter (fun w => !mine w), cmds := s.cmds.filter (fun e => e.2.vd != v)
    flights := s.flights.filter (fun f => f.vd != v || f.src == 9), audits := s.audits.filter (fun a => a.vd != v)
    switchLines := s.switchLines.filter (fun l => l.vd != v), writeBacks := s.writeBacks.filter (fun l => l.vd != v) }

/-- A VD gives up the slices that it holds (R364). -/
def dropSlices (s : State) (v : Nat) : State :=
  { s with package := { s.package with holder := s.package.holder.filter (fun e => e.2 != v) } }

/-- A mailbox at the reset of a VD: its own are disabled (R303, R364), and one that a warp of the VD binds is bound no more. -/
def resetBox (s : State) (v : Nat) (b : Mailbox) : Mailbox :=
  let b := if b.vd = v then { b with enable := false, ended := false, waiting := [], opened := [], obs := [] } else b
  if b.bound ∧ (s.warp b.binder.1).vd = v then { b with bound := false } else b

/-- The steps of a VD reset (R364). The event records of the old generation that nothing has read are dropped and counted (R381); the
VD's grids end with it and raise no record (R385; DEDUCED, log entry 87). -/
def resetVd (s : State) (v : Nat) : State :=
  let s := endWork s v
  let s := (s.episodes.filter (fun e => e.vd == v)).foldl (fun s e =>
    let (code, s) := freePair s
    endEpisode s e code) s
  let s := (List.range 9).foldl (fun s d => s.modDie d (fun x => { x with mailboxes := x.mailboxes.map (fun e =>
    (e.1, resetBox s v e.2)) })) s
  let s := (mappedFrames s v).foldl (fun s f => s.markFrame f) s
  let s := dropSlices s v
  let s := { s with security := { s.security with streams := s.security.streams.filter (fun x => !(x.source && x.vd == v)) } }
  s.modVd v (fun d => { d with
    ports := d.ports.map (fun p => { p with fifo := [] }), windows := d.windows.map (fun x => x &&& ~~~(1#128 <<< 92)), closing := []
    grants := [], measured := [], gf := [], gfDropped := 0
    table := d.table.filter (fun e => e.1 == 0 || e.1 == 255 || d.installed.contains e.1)
    stale := min (d.stale + d.events.length + d.waiting.length) 65535, events := [], waiting := [], gen := (d.gen + 1) % 2 ^ 32, state := 2 })

/-- VDRESET (R364). -/
def execVdreset (req : Req) (vd : Nat) (s : State) : Out :=
  command req s (fun s => if isVd s vd then sbDone (resetVd s vd) 0 0 [] else sbDone s 1 0 [])

/-- A VD that no tenant holds; the metering counters stand (R364, R379). -/
def freeVd (s : State) (v : Nat) : State := s.modVd v (fun d => { VD.free with meters := d.meters })

/-- VDFREE (R403): the VD ends as at a reset, and is FREE. -/
def execVdfree (req : Req) (vd : Nat) (s : State) : Out :=
  command req s (fun s => if isVd s vd then sbDone (freeVd (resetVd s vd) vd) 0 0 [] else sbDone s 1 0 [])

/-! Grants (R43, R44). -/

/-- The owner of the first signature that fails, in ascending owner order. -/
def badSigner (keys : SMap (List Byte)) (msg : List Byte) : List (Nat × List Byte) → Option Nat
  | [] => none
  | (o, sig) :: rest => if Config.sigValid ((keys.get? o).getD []) msg sig then badSigner keys msg rest else some o

/-- The status and detail of a grant installation (R44), the checks in the order of their codes but for the signatures, which come last (the status of a body of another length: DESIGN CHOICE, log entry 17). -/
def grantStatus (s : State) (body : List Byte) (sigs : List (List Byte)) : Nat × Nat :=
  let b : DWord := ofBytes 64 (slice body 0 8)
  let d := s.vd (field b 0 10).toNat
  let q (i : Nat) : DWord := ofBytes 64 (slice body i 8)
  let owners := bitsOf (q 32)
  if body.length ≠ 96 then (6, 0)
  else if d.state = 0 ∨ (field b 16 48).toNat ≠ d.created then (1, 0)
  else if (d.grants.get? (field b 10 6).toNat).isSome then (2, 0)
  else if (q 16).toNat ≤ (q 8).toNat ∨ (q 8).toNat / 2 ^ 60 ≠ ((q 16).toNat - 1) / 2 ^ 60 then (3, 0)
  else if q 32 = 0#64 ∨ q 32 &&& ~~~(q 24) ≠ 0#64 ∨ owners.any (fun o => (d.keys.get? o).isNone) then (4, 0)
  else if (slice body 72 24).any (fun x => x != 0#8) then (6, 0)
  else if sigs.length ≠ owners.length then (7, 0)
  else match badSigner d.keys body (owners.zip sigs) with
    | some o => (5, o)
    | none => (0, 0)

/-- The grant that a body holds (R43). -/
def grantOf (body : List Byte) : Grant :=
  let q (i : Nat) : DWord := ofBytes 64 (slice body i 8)
  ⟨q 8, q 16, q 24, q 32, slice body 40 32⟩

/-- GRANT_INSTALL (R43, R44). -/
def execGrantInstall (req : Req) (body : List Byte) (sigs : List (List Byte)) (s : State) : Out :=
  command req s (fun s =>
    let (status, detail) := grantStatus s body sigs
    let b : DWord := ofBytes 64 (slice body 0 8)
    let s := if status = 0 then s.modVd (field b 0 10).toNat (fun d => { d with grants := d.grants.put (field b 10 6).toNat (grantOf body) }) else s
    sbDone s status detail [])

/-- GRANT_REVOKE (R44): the slot is emptied. -/
def execGrantRevoke (req : Req) (vd slot : Nat) (s : State) : Out :=
  command req s (fun s =>
    if !isVd s vd ∨ 64 ≤ slot then sbDone s 1 0 []
    else sbDone (s.modVd vd (fun d => { d with grants := d.grants.erase slot })) 0 0 [])

/-! Migration (R375, R376). -/

/-- The slices of a VD, ascending (R366). -/
def slicesOf (s : State) (v : Nat) : List Nat := (List.range 288).filter (fun k => s.ownsSlice v (k * 2 ^ 32))

/-- Mark every frame of a slice unscrubbed (R374): what is in flight to it reaches no copy (R64). -/
def markSlice (s : State) (k : Nat) : State :=
  { s with
    cleared := s.cleared.dropRange (k * 65536) (k * 65536 + 65536), lines := s.lines.dropRange (k * 2 ^ 26) (k * 2 ^ 26 + 2 ^ 26)
    flights := s.flights.filterMap (State.keepOff (fun f => f / 65536 == k)) }

/-- Count keys from a base. -/
def rebase {α : Type} (m : SMap α) (a b n : Nat) : SMap α := (m.inRange a (a + n)).map (fun e => (e.1 - a + b, e.2))

/-- What a stream carries of a slice. -/
def imageOf (s : State) (k : Nat) : SliceImage :=
  let cp := (s.die (homeDie (k * 2 ^ 32))).copy
  { bytes := rebase cp.bytes (k * 2 ^ 32) 0 (2 ^ 32), lbls := rebase cp.lbls (k * 2 ^ 26) 0 (2 ^ 26)
    cleared := rebase s.cleared (k * 65536) 0 65536, lines := rebase s.lines (k * 2 ^ 26) 0 (2 ^ 26)
    sealed := rebase s.sealed (k * 65536) 0 65536, poisoned := rebase s.poisoned (k * 2 ^ 26) 0 (2 ^ 26) }

/-- Replace a range of a map. -/
def graft {α : Type} (m : SMap α) (a n : Nat) (x : SMap α) : SMap α :=
  m.filter (fun e => decide (e.1 < a)) ++ x.map (fun e => (e.1 + a, e.2)) ++ m.filter (fun e => decide (a + n ≤ e.1))

/-- Put a slice that a stream carries into every copy. -/
def putImage (s : State) (k : Nat) (i : SliceImage) : State :=
  let s := (List.range 9).foldl (fun s d => s.modDie d (fun x => { x with copy := { x.copy with
    bytes := graft x.copy.bytes (k * 2 ^ 32) (2 ^ 32) i.bytes, lbls := graft x.copy.lbls (k * 2 ^ 26) (2 ^ 26) i.lbls
    stamps := x.copy.stamps.dropRange (k * 2 ^ 30) (k * 2 ^ 30 + 2 ^ 30) } })) s
  { s with
    cleared := graft s.cleared (k * 65536) 65536 i.cleared, lines := graft s.lines (k * 2 ^ 26) (2 ^ 26) i.lines
    sealed := graft s.sealed (k * 65536) 65536 i.sealed, poisoned := graft s.poisoned (k * 2 ^ 26) (2 ^ 26) i.poisoned }

/-- A frame number of a carried slice at the place that the slice has here. -/
def moveFrame (src dst : List Nat) (f : Nat) : Nat :=
  match src.findIdx? (fun k => k == f / 65536) with
  | some i => ((dst[i]?).getD 0) * 65536 + f % 65536
  | none => f

/-- A table entry or region register with its frame moved; a leaf names the frame's die. -/
def moveEntry (src dst : List Nat) (e : BitVec 128) : BitVec 128 :=
  if leafBit e 1 && leafBit e 11 then e
  else
    let f := moveFrame src dst (leafFrame e)
    let e := (e &&& ~~~(0xFFFFFFFFFFFF#128 <<< 64)) ||| (BitVec.ofNat 128 f <<< 64)
    if leafBit e 1 then (e &&& ~~~(0xF#128 <<< 32)) ||| (BitVec.ofNat 128 (homeDie (f * 65536)) <<< 32) else e

/-- Move the page tables of a VD whose slices have moved: level by level, each entry in its new place. -/
def moveTables (src dst : List Nat) : Nat → Nat → State → State
  | level, table, s =>
    (List.range 2048).foldl (fun s i =>
      let a := table * 65536 + 16 * i
      let e := s.tableEntry a
      if !leafBit e 0 then s
      else
        let e := moveEntry src dst e
        let s := (List.range 9).foldl (fun s d => s.modDie d (fun x => { x with copy := { x.copy with bytes := writeBytes x.copy.bytes a (toBytes e 16) } })) s
        if leafBit e 1 then s
        else
          match level with
          | 0 => s
          | k + 1 => moveTables src dst k (leafFrame e) s) s

/-- MIGOUT (R375, R376): the VD is PAUSED and its warps are requested; the command runs until the stream is ready to send
(`prepareStream`). -/
def execMigout (req : Req) (vd dest : Nat) (reachable : Bool) (s : State) : Out :=
  command req s (fun s =>
    let open' := (List.range 9).any (fun d => (s.die d).mailboxes.any (fun e => e.2.vd == vd && e.2.enable && e.2.bound))
    if !isVd s vd ∨ (s.vd vd).state = 3 then sbDone s 1 0 []
    else if s.episodes.any (fun e => e.vd == vd) ∨ open' then sbDone s 2 0 []
    else if !reachable then sbDone s 3 0 []
    else
      let t := Config.ticket s.security.tickets
      let s := s.modVd vd (fun d => { d with state := 3 })
      let s := requestAll (dropSlices s vd) 2 (fun _ x => x.vd == vd)
      let s := { s with security := { s.security with
        busy := true, tickets := s.security.tickets + 1, streams := s.security.streams ++ [⟨t, vd, dest, true, false, false⟩] } }
      s)

/-- A migration stream of this package. -/
def stream? (s : State) (t : BitVec 128) (source : Bool) : Option Stream :=
  s.security.streams.find? (fun x => x.ticket == t && x.source == source)

/-- Whether a paused VD has come through steps 2 and 3 of R376: its warps are saved, its commands complete, its writes applied. -/
def drained (s : State) (v : Nat) : Bool :=
  !s.warps.any (fun e => e.2.vd == v && (match e.2.life with
    | .rewound => false
    | .saved => false
    | .dead => false
    | _ => true)) &&
  !s.cmds.any (fun e => e.2.vd == v) && !s.flights.any (fun f => f.vd == v)

/-- Whether a paused VD is ready to go (R376): drained, and its reduction windows flushed. -/
def atRest (s : State) (v : Nat) : Bool := drained s v && !(s.switchLines ++ s.writeBacks).any (fun l => l.vd == v)

/-- The MIGOUT that runs comes further (R376): the windows of its drained VD are flushed; once they are, the stream is ready to send,
and the command ends with the ticket (R375). None when it has to wait, or no MIGOUT runs. -/
def prepareStream (s : State) : Option State :=
  match s.security.streams.find? (fun x => x.source && !x.ready && drained s x.vd) with
  | none => none
  | some x =>
    let held := s.switchLines.filter (fun l => l.vd == x.vd)
    if !held.isEmpty then some (sendHome s held)
    else if s.writeBacks.any (fun l => l.vd == x.vd) then none
    else
      let streams := s.security.streams.map (fun y => if y == x then { y with ready := true } else y)
      some (sbDone { s with security := { s.security with streams := streams } } 0 0 (toBytes x.ticket 16))

/-- What the stream carries (R376) (what a stream carries: DESIGN CHOICE, log entry 102). -/
def parcelOf (s : State) (t : BitVec 128) (v : Nat) : Parcel :=
  { ticket := t, vd := s.vd v, grids := s.grids.filter (fun e => e.2.vd == v)
    blocks := s.blocks.filter (fun e => (s.grid e.2.grid).vd == v), warps := s.warps.filter (fun e => e.2.vd == v)
    slices := slicesOf s v, images := (slicesOf s v).map (imageOf s) }

/-- The MIGRATED record (R372, R376). -/
def migrated (s : State) (v : Nat) (t : BitVec 128) : State := hvEvent s v (s.vd v).gen 8 (toBytes t 16)

/-- MIGRATION_COMPLETE (R376): the destination reports the stream received: the source VD is FREE, its slices unscrubbed. -/
def execMigrationComplete (ticket : BitVec 128) (s : State) : Out :=
  match stream? s ticket true with
  | none => off s
  | some x =>
    if !x.ready || !atRest s x.vd then off s
    else
      let p := parcelOf s ticket x.vd
      let s := migrated s x.vd ticket
      let s := p.slices.foldl markSlice s
      let s := { s with
        outbound := s.outbound ++ [p], warps := s.warps.filter (fun e => e.2.vd != x.vd)
        blocks := s.blocks.filter (fun e => !p.blocks.any (fun b => b.1 == e.1)), grids := s.grids.filter (fun e => e.2.vd != x.vd)
        security := { s.security with streams := s.security.streams.filter (fun y => y != x) } }
      did (freeVd s x.vd)

/-- A stream ends at its source: the VD is DESCHEDULED, intact (R375). -/
def resumeSource (s : State) (x : Stream) : State :=
  let s := { s with security := { s.security with streams := s.security.streams.filter (fun y => y != x) } }
  s.modVd x.vd (fun d => if d.state = 3 then { d with state := 2 } else d)

/-- Install a stream into a FREE VD and its slices (R375, R376). -/
def receive (s : State) (a : MigInArgs) (slices : List Nat) (p : Parcel) : State :=
  let v := a.vd
  let s := ((slices.zip p.images).foldl (fun s k => putImage s k.1 k.2) s)
  let roots := p.vd.roots.map (fun r => if r.getLsbD 0 then
    BitVec.ofNat 64 (moveFrame p.slices slices (r.toNat / 65536) * 65536 + r.toNat % 65536) else r)
  let parts := a.partitions.foldl (fun m e => setAt m e.1 (BitVec.ofNat 16 (256 + e.2 % 256))) (List.replicate 16 (0#16 : BitVec 16))
  let old := s.vd v
  let s := s.setVd v { p.vd with state := 2, roots := roots, parts := parts, requester := old.requester, window := old.window, frozen := old.frozen }
  let s := roots.foldl (fun s r => if r.getLsbD 0 then moveTables p.slices slices 3 (r.toNat / 65536) s else s) s
  let s := { s with
    grids := p.grids.foldl (fun m e => m.put e.1 { e.2 with vd := v }) s.grids
    blocks := p.blocks.foldl (fun m e => m.put e.1 { e.2 with away := true }) s.blocks
    warps := p.warps.foldl (fun m e => m.put e.1 { e.2 with vd := v }) s.warps
    inbound := s.inbound.filter (fun x => x.ticket != p.ticket)
    security := { s.security with streams := s.security.streams ++ [⟨p.ticket, v, 0, false, true, true⟩] } }
  migrated s v p.ticket

/-- MIGIN (R375): the stream that a ticket names is received into the target VD. -/
def execMigin (req : Req) (a : MigInArgs) (s : State) : Out :=
  command req s (fun s =>
    let mine := a.slices.filter (fun k => decide (k < 288) && s.ownsSlice a.vd (k * 2 ^ 32))
    match s.inbound.find? (fun p => p.ticket == a.ticket), stream? s a.ticket false with
    | some p, none =>
      if isVd s a.vd ∨ 1024 ≤ a.vd ∨ mine.length < p.images.length then sbDone s 5 0 []
      else if !a.intact then sbDone s 6 0 []
      else sbDone (receive s a mine p) 0 0 []
    | _, _ => sbDone s 4 0 [])

/-- MIGABORT (R375): the stream ends at this end; the source VD resumes. -/
def execMigabort (req : Req) (ticket : BitVec 128) (s : State) : Out :=
  command req s (fun s =>
    match stream? s ticket true with
    | some x => sbDone (resumeSource s x) 0 0 []
    | none =>
      if s.inbound.any (fun p => p.ticket == ticket) then sbDone { s with inbound := s.inbound.filter (fun p => p.ticket != ticket) } 0 0 []
      else sbDone s 4 0 [])

/-- TICKET_EXPIRY (R376): a ticket that no MIGIN has used expires after 60 s; its stream ends. -/
def execTicketExpiry (ticket : BitVec 128) (s : State) : Out :=
  match stream? s ticket true with
  | some x => if x.ready then did (resumeSource s x) else off s
  | none =>
    if s.inbound.any (fun p => p.ticket == ticket) then did { s with inbound := s.inbound.filter (fun p => p.ticket != ticket) } else off s

/-! Metering (R353, R379, R380). -/

/-- METERING_TICK (R379): a microsecond ends: %time advances, and the counters by the counts of that microsecond. -/
def execMeteringTick (counts : List (Nat × List Nat)) (s : State) : Out :=
  let s := stampHeads s
  let s := { s with package := { s.package with time := s.package.time + 1000#64 } }
  did (counts.foldl (fun s (e : Nat × List Nat) => if isVd s e.1 then s.modVd e.1 (fun d => { d with
    meters := (d.meters.zipIdx).map (fun m => m.1 + BitVec.ofNat 64 ((e.2[m.2]?).getD 0)) }) else s) s)

/-- The package identity (R380). -/
def packageId : List Byte := shake256 Config.attestKey

/-- The body of a metering snapshot (R380). -/
def snapBody (s : State) (vd : Nat) (nonce : List Byte) : List Byte :=
  let d := s.vd vd
  le 4 1 ++ le 2 vd ++ le 2 0 ++ le 4 d.gen ++ le 4 0 ++ slice packageId 0 32 ++ slice nonce 0 32 ++
    le 8 s.package.time.toNat ++ (d.meters.map (fun m => toBytes m 8)).flatten

/-- MSNAP (R380): the counters at one microsecond boundary, signed. -/
def execMsnap (req : Req) (vd : Nat) (nonce : List Byte) (s : State) : Out :=
  command req s (fun s =>
    if !isVd s vd then sbDone s 1 0 [] else sbDone s 0 0 (snapBody s vd nonce ++ Config.attestSign (snapBody s vd nonce)))

end Sys2Proof.Machine
end

