-- ==== Sys2Proof/Machine/Tables.lean ====
section
/-! DEFINITION. Hardware assignment and translation as the host controls them (R278, R366, R367, R370, R374, R377, R378, R405), and the
event buffers (R365, R372). -/

namespace Sys2Proof.Machine

open Sys2Proof

/-! QOWN and SOWN (R366). -/

/-- Whether a warp of any VD is on a quadrant, saved or not. -/
def quadTaken (s : State) (q : Nat) : Bool := s.warps.any (fun e => e.2.quad == q && e.2.life != .dead &&
  (e.2.life.inTable || !(s.block e.2.grid e.2.block).away))

/-- QOWN_WRITE (R366, R411): a quadrant is assigned, unless a warp is on it or the package is not ready. -/
def execQownWrite (req : Req) (quad : Nat) (v : BitVec 16) (s : State) : Out :=
  if 1296 ≤ quad then off s
  else hvWrite s req (fun s =>
    let old := s.package.qown.get 0#16 quad
    let x := if s.package.phase < 7 ∨ quadTaken s quad then old ||| 0x200#16 else v &&& 0x1FF#16
    { s with package := { s.package with qown := s.package.qown.set 0#16 quad x } })

/-- QOWN_READ (R366): the read clears refused. -/
def execQownRead (req : Req) (quad : Nat) (s : State) : Out :=
  if 1296 ≤ quad then off s
  else hvRead s req 2 (fun s =>
    let x := s.package.qown.get 0#16 quad
    (toBytes x 2, { s with package := { s.package with qown := s.package.qown.set 0#16 quad (x &&& 0x1FF#16) } }))

/-- Whether a page of a slice is mapped by a VD. -/
def sliceMapped (s : State) (v sl : Nat) : Bool := (mappedFrames s v).any (fun f => f / 65536 == sl)

/-- SOWN_WRITE (R366, R374, R411): a slice is assigned, its frames unscrubbed; refused while its VD maps a page of it. -/
def execSownWrite (req : Req) (sl : Nat) (v : BitVec 16) (s : State) : Out :=
  if 288 ≤ sl then off s
  else hvWrite s req (fun s =>
    let old := s.package.sown.get 0#16 sl
    let moves := old.getLsbD 10 && (!v.getLsbD 10 || field v 0 10 != field old 0 10)
    let refuse := s.package.phase < 7 || (moves && sliceMapped s (field old 0 10).toNat sl)
    let x := if refuse then old ||| 0x800#16 else v &&& 0x7FF#16
    let s := { s with package := { s.package with sown := s.package.sown.set 0#16 sl x } }
    if refuse then s else markSlice s sl)

/-- SOWN_READ (R366): the read clears refused. -/
def execSownRead (req : Req) (sl : Nat) (s : State) : Out :=
  if 288 ≤ sl then off s
  else hvRead s req 2 (fun s =>
    let x := s.package.sown.get 0#16 sl
    (toBytes x 2, { s with package := { s.package with sown := s.package.sown.set 0#16 sl (x &&& 0x7FF#16) } }))

/-! Translation syncs and parks (R370). -/

/-- MAPSYNC's base, count of 64 KiB pages, relabel. -/
def syncRange (v : BitVec 128) : Nat × Nat × Bool := ((field v 16 48).toNat * 65536, (field v 64 32).toNat, v.getLsbD 96)

/-- Set MAPSTAT's refused. -/
def refuseMap (s : State) (v : Nat) (b : Bool) : State := s.modVd v (fun d => { d with mapRefused := b })

/-- MAPSYNC (R370): every TLB entry of the range is invalidated, and the VD makes no new translation until the sync is done. -/
def execMapsync (req : Req) (vd : Nat) (whole : Bool) (v : BitVec 128) (s : State) : Out :=
  if 1024 ≤ vd then off s
  else hvWrite s req (fun s =>
    let (base, n, _) := syncRange v
    let bad := !whole || (s.vd vd).mapBusy || (n != 0 && base / 2 ^ 60 != (base + n * 65536 - 1) / 2 ^ 60)
    if bad then refuseMap s vd true
    else if n = 0 then refuseMap s vd false
    else
      let s := s.dropTlbs vd base (base + n * 65536)
      s.modVd vd (fun d => { d with mapBusy := true, mapRefused := false, mapRange := some (syncRange v), mapsync := v &&& (((1#128 <<< 81) - 1#128) <<< 16) }))

/-- The mapping event of R41 on a 64 KiB page: every granule takes the page label. Host memory holds no labels of its own (R369). -/
def relabelPage (s : State) (l : Loc) (h : Label) : State :=
  if l.host then s else (List.range 1024).foldl (fun s k => s.setLabelAll { l with pa := l.pa + 64 * k } h) s

/-- A page of a sync (R370): a valid leaf whose frame or label is new since the last sync that covered it, or any with relabel, sets its
granules' labels; the sealed bit counts only in a leaf that becomes valid. -/
def syncPage (v : Nat) (relabel : Bool) (s : State) (va : Nat) : State :=
  let key := va / 65536
  match s.walk v (BitVec.ofNat 64 va) with
  | .leaf l =>
    let p := l.loc (BitVec.ofNat 64 va)
    let old := (s.vd v).synced.get? key
    let new := match old with
      | none => true
      | some o => leafFrame o != leafFrame l.bits || leafBit o 11 != leafBit l.bits 11 || leafLabel o != leafLabel l.bits
    let s := if new || relabel then relabelPage s p (leafLabel l.bits) else s
    let s := if old.isNone then { s with sealed := s.sealed.set false (sealKey p) (leafBit l.bits 9) } else s
    s.modVd v (fun d => { d with synced := d.synced.put key l.bits })
  | _ => s.modVd v (fun d => { d with synced := d.synced.erase key })

/-- MAPSYNC_DONE (R370): granules relabel, and busy clears. -/
def execMapsyncDone (vd : Nat) (s : State) : Out :=
  match (s.vd vd).mapBusy, (s.vd vd).mapRange with
  | true, some (base, n, relabel) =>
    let s := (List.range n).foldl (fun s k => syncPage vd relabel s (base + k * 65536)) s
    did (s.modVd vd (fun d => { d with mapBusy := false, mapRange := none }))
  | _, _ => off s

/-- MAPSTAT_READ (R370): the read clears refused. -/
def execMapstatRead (req : Req) (vd : Nat) (s : State) : Out :=
  if 1024 ≤ vd then off s
  else hvRead s req 8 (fun s =>
    (le 8 ((if (s.vd vd).mapBusy then 1 else 0) + (if (s.vd vd).mapRefused then 2 else 0)), refuseMap s vd false))

/-- The sub-warps of a VD's warp that are parked in XLATE. -/
def parked (s : State) (v w : Nat) : List SubWarp :=
  if (s.warp w).vd = v ∧ (s.warps.get? w).isSome then (s.warp w).subs.filter (fun u => match u.hold with
    | .xlate _ _ => true
    | _ => false) else []

/-- PARKGO (R216, R370): the parked sub-warps of a warp issue their group again. -/
def execParkgo (req : Req) (vd serial : Nat) (s : State) : Out :=
  if 1024 ≤ vd then off s
  else hvWrite s req (fun s =>
    match parked s vd serial with
    | [] => refuseMap s vd true
    | us => us.foldl (fun s u => makeReady s serial u) (refuseMap s vd false))

/-- PARKKILL (R216, R370): the park is refused, and the warp killed with XLATE. -/
def execParkkill (req : Req) (vd serial : Nat) (s : State) : Out :=
  if 1024 ≤ vd then off s
  else hvWrite s req (fun s =>
    match parked s vd serial with
    | [] => refuseMap s vd true
    | u :: _ =>
      let addr := match u.hold with
        | .xlate va _ => va
        | _ => 0#64
      let s := (refuseMap s vd false).modWarp serial (fun x => { x with tc := tcBit x.tc 8 })
      killWarp s serial ⟨8, u.pc, addr, u.mask, lineSlot u.pc, 3, false, 0#32, 0#32, [], [], none, false⟩ 2 false true u.maskLabel)

/-! Reduction windows (R278). -/

/-- The address range of a window register. -/
def windowLo (x : BitVec 128) : Nat := (field x 16 48).toNat * 65536
def windowHi (x : BitVec 128) : Nat := windowLo x + (field x 64 16).toNat * 65536

/-- Whether a value may enable window `n` of a VD (R278). -/
def goodWindow (s : State) (v n : Nat) (x : BitVec 128) : Bool :=
  let len := (field x 64 16).toNat
  decide (1 ≤ len) && decide (len ≤ 16384) && windowLo x / 2 ^ 60 == (windowHi x - 1) / 2 ^ 60 &&
  ((s.vd v).windows.zipIdx).all (fun o => o.2 == n || !o.1.getLsbD 92 || decide (windowHi o.1 ≤ windowLo x) || decide (windowHi x ≤ windowLo o.1))

/-- The writable fields of a window register, and its enable bit. -/
def windowFields : BitVec 128 := ((1#128 <<< 77) - 1#128) <<< 16
def windowOn : BitVec 128 := 1#128 <<< 92

/-- Window `n` of a VD is being disabled: its lines go home, and the register stays as it is, enable reading 1, until the last of them is
there; then it takes the fields that were written (R278). -/
def closeWindow (s : State) (v n : Nat) (new : BitVec 128) : State :=
  let old := ((s.vd v).windows[n]?).getD 0#128
  let s := s.modVd v (fun d => { d with closing := d.closing.put n (new &&& ~~~windowOn) })
  settleWindows (sendHome s (s.switchLines.filter (fun l => l.vd == v && windowHolds old l.va))) v

/-- XWIN_WRITE (R278): a write that may not enable the window leaves enable 0; one that clears enable, or that comes while the window is
being disabled, ends with the window disabled. -/
def execXwinWrite (req : Req) (vd n : Nat) (v : BitVec 128) (s : State) : Out :=
  if 1024 ≤ vd ∨ 8 ≤ n then off s
  else hvWrite s req (fun s =>
    let old := ((s.vd vd).windows[n]?).getD 0#128
    let new := v &&& windowFields
    let put (x : BitVec 128) : State := s.modVd vd (fun d => { d with windows := setAt d.windows n x })
    let on := new.getLsbD 92 && goodWindow s vd n new
    if old.getLsbD 92 then (if on && ((s.vd vd).closing.get? n).isNone then put new else closeWindow s vd n new)
    else if on then put new
    else if new.getLsbD 92 then s
    else put new)

/-! Event buffers (R365, R372, R401). -/

/-- EVPOP (R372): one aligned 32-byte read returns and removes the oldest record of a VD that is running; another read returns zero. -/
def execEvpop (req : Req) (vd : Nat) (whole : Bool) (s : State) : Out :=
  if 1024 ≤ vd then off s
  else windowRead s req vd 32 (fun s =>
    match whole && (s.vd vd).state == 1, (s.vd vd).events with
    | true, r :: rest => (r, s.modVd vd (fun d => { d with events := rest }))
    | _, _ => (zeros 32, s))

/-- HVPOP (R372). -/
def execHvpop (req : Req) (whole : Bool) (s : State) : Out :=
  hvRead s req 32 (fun s =>
    match whole, s.package.hvEvents with
    | true, r :: rest => (r, { s with package := { s.package with hvEvents := rest } })
    | _, _ => (zeros 32, s))

/-- EVENT_RECORD_RELEASE (R372): a producer that holds a record places it, the buffer having room. -/
def execEventRecordRelease (vd : Nat) (s : State) : Out :=
  match (s.vd vd).waiting with
  | [] => off s
  | r :: rest =>
    if 64 ≤ (s.vd vd).events.length then off s
    else did (s.modVd vd (fun d => { d with events := d.events ++ [r], waiting := rest }))

/-- VDSTAT (R365). -/
def vdstat (d : VD) : List Byte :=
  le 1 d.state ++ le 1 d.events.length ++ le 2 d.stale ++ le 2 d.lost ++
  le 2 ((if d.labelSat then 1 else 0) + 2 * d.winDrops) ++ le 4 (if d.state = 0 then 0 else d.gen) ++ le 4 0

/-- VDSTAT_READ (R365): the read clears the counts. -/
def execVdstatRead (req : Req) (vd : Nat) (s : State) : Out :=
  if 1024 ≤ vd then off s
  else windowRead s req vd 16 (fun s => (vdstat (s.vd vd), s.modVd vd (fun d => { d with stale := 0, lost := 0, winDrops := 0 })))

/-- HVSTAT_READ (R401): the read clears lost. -/
def execHvstatRead (req : Req) (s : State) : Out :=
  hvRead s req 8 (fun s =>
    (le 2 s.package.hvEvents.length ++ le 2 s.package.hvLost ++ le 4 0, { s with package := { s.package with hvLost := 0 } }))

/-! Quench (R374). -/

/-- Frames of a stack that are still unscrubbed. -/
def unscrubbed (s : State) (t : Nat) : Nat := 2 ^ 20 - (s.cleared.inRange (t * 2 ^ 20) ((t + 1) * 2 ^ 20)).length

/-- QSTAT_READ (R374): the read clears the count of first touches. -/
def execQstatRead (req : Req) (stack : Nat) (s : State) : Out :=
  if 18 ≤ stack then off s
  else hvRead s req 8 (fun s =>
    (le 2 (min (unscrubbed s stack) 65535) ++ le 2 (s.stack stack).moved ++ le 4 0, s.modStack stack (fun k => { k with moved := 0 })))

/-- The frame that a controller clears next: the head of its queue, otherwise the lowest that is unscrubbed. -/
def nextFrame (s : State) (t : Nat) : Option Nat :=
  match (s.stack t).head.find? (fun f => !s.cleared.get false f) with
  | some f => some f
  | none => if unscrubbed s t = 0 then none
    else ((s.cleared.inRange (t * 2 ^ 20) ((t + 1) * 2 ^ 20)).foldl (fun (f : Nat) e => if e.1 = f then f + 1 else f) (t * 2 ^ 20) : Nat)

/-- The label of the mapping in force of a frame, 0 where none maps it. -/
def frameLabel (s : State) (f : Nat) : Label :=
  let own := s.package.sown.get 0#16 (f / 65536)
  if !own.getLsbD 10 then 0#8
  else
    let leaves := (tableEntries s (field own 0 10).toNat).filter (fun e => leafBit e.2 1 && !leafBit e.2 11 &&
      decide (leafFrame e.2 ≤ f) && decide (f < leafFrame e.2 + pageBytes (leafSize e.2) / 65536))
    ((leaves.head?).map (fun e => leafLabel e.2)).getD 0#8

/-- A frame is cleared in every copy: zeros, with the label of the mapping in force, as each line's cvo-first write; the lines that were
cleared already keep what has been written since. -/
def clearFrame (s : State) (f : Nat) : State :=
  let h := frameLabel s f
  let fresh := ((List.range 1024).map (fun k => f * 1024 + k)).filter (fun g => !s.lines.get false g)
  let wipe (c : Copy) : Copy := fresh.foldl (fun (c : Copy) g =>
    { bytes := SMap.dropRange c.bytes (g * 64) (g * 64 + 64), lbls := c.lbls.set 0#8 g h, stamps := c.stamps.dropRange (g * 16) (g * 16 + 16) }) c
  let s := (List.range 9).foldl (fun s d => s.modDie d (fun x => { x with copy := wipe x.copy })) s
  { s with
    cleared := s.cleared.set false f true, lines := s.lines.dropRange (f * 1024) (f * 1024 + 1024)
    poisoned := fresh.foldl (fun m g => m.set false g false) s.poisoned }

/-- A life-cycle change takes effect once no controller has an unscrubbed frame (R407, R408). -/
def finishChange (s : State) : State :=
  match s.security.next with
  | some l =>
    if (List.range 18).all (fun t => unscrubbed s t == 0) then
      { s with security := { s.security with life := l, next := none, busy := false, status := 0, detail := 0, outBytes := 0 } }
    else s
  | none => s

/-- QUENCH_CLEAR (R374): a controller clears its next frame. -/
def execQuenchClear (stack : Nat) (s : State) : Out :=
  if 18 ≤ stack then off s
  else
    match nextFrame s stack with
    | none => off s
    | some f => did (finishChange ((clearFrame s f).modStack stack (fun k => { k with head := k.head.filter (fun g => g != f) })))

/-! Row activations and Bellows (R377, R378, R405). -/

/-- ROW_MITIGATION (R377): the entry of a row that reached RDTHR is reset, and its VD charged 8,192 bytes. -/
def execRowMitigation (stack bank row vd : Nat) (s : State) : Out :=
  if 18 ≤ stack ∨ !(slicesOf s vd).any (fun k => k / 16 == stack) then off s
  else
    let s := s.modStack stack (fun k =>
      let es := (k.trackers.get? bank).getD []
      let es := if es.any (fun e => e.row == row) then es.map (fun e => if e.row == row then { e with count := 0, vd := vd } else e)
        else (es ++ [(⟨row, 0, vd⟩ : RowCount)]).drop (es.length + 1 - 16)
      { k with
        used := min (k.used + 8192) (2 ^ 31 - 1), trackers := k.trackers.put bank es
        mitigations := k.mitigations.set 0 vd (k.mitigations.get 0 vd + 1) })
    did (s.modVd vd (fun d => { d with meters := setAt d.meters 2 ((d.meters[2]?).getD 0#64 + 8192#64) }))

/-- ACTIVATION_WINDOW (R377): the counts of a bank start afresh. -/
def execActivationWindow (stack bank : Nat) (s : State) : Out :=
  if 18 ≤ stack then off s else did (s.modStack stack (fun k => { k with trackers := k.trackers.erase bank }))

/-- The ROWDIST records of a millisecond (R378). -/
def rowdist (s : State) (t : Nat) : State :=
  let s := (s.stack t).mitigations.foldl (fun s (e : Nat × Nat) =>
    hvEvent s e.1 (s.vd e.1).gen 7 (le 2 t ++ le 2 e.1 ++ le 4 e.2)) s
  s.modStack t (fun k => { k with mitigations := [] })

/-- What Bellows may set (R405): caps within the package cap, clocks from 200 to 800 MHz in steps of 25, budgets of 320,000,000 bytes or more (telemetry is an input: DESIGN CHOICE, log entry 109). -/
def goodPeriod (s : State) (caps clocks budgets : List Nat) : Bool :=
  caps.length == 9 && clocks.length == 9 && budgets.length == 18 && decide (caps.foldl (· + ·) 0 ≤ s.package.cap) &&
  caps.all (fun x => decide (x < 4096)) && clocks.all (fun x => decide (200 ≤ x) && decide (x ≤ 800) && x % 25 == 0) &&
  budgets.all (fun x => decide (320000000 ≤ x) && decide (x < 2 ^ 32))

/-- BELLOWS_PERIOD (R405, R378): a period of 1 ms starts with new caps, clocks and budgets; the last one's ROWDIST records are posted. -/
def execBellowsPeriod (caps clocks budgets : List Nat) (s : State) : Out :=
  if !goodPeriod s caps clocks budgets then off s
  else
    let s := (List.range 18).foldl rowdist s
    let s := (List.range 9).foldl (fun s d => s.modDie d (fun x => { x with cap := (caps[d]?).getD 0, mhz := (clocks[d]?).getD 800 })) s
    did ((List.range 18).foldl (fun s t => s.modStack t (fun k => { k with budget := (budgets[t]?).getD 0, used := 0 })) s)

end Sys2Proof.Machine
end

