-- ==== Sys2Proof/Machine/Reliability.lean ====
section
/-! DEFINITION. Understudy and containment (R87, R386 to R397): audit verdicts, errors, die fencing, the error log; and the host's
kills (R331, R359). -/

namespace Sys2Proof.Machine

open Sys2Proof

/-! Verdicts (R390 to R392). -/

/-- Poison a row without counting it as written. -/
def poisonRow (s : State) (q r : Nat) : State :=
  s.modQuad q (fun x => { x with rows := x.rows.set AccRow.zero r { x.rows.get AccRow.zero r with poison := true } })

/-- The outcome of a vote (R390, R391): none where original and first replay agree. -/
def verdictOf (original replay1 replay2 : DWord) (rowsLeft : Bool) : Option Nat :=
  if original = replay1 then none
  else if original = replay2 then some 3
  else if !rowsLeft then some 6
  else if replay1 = replay2 then some 4
  else some 5

/-- AUDIT_VERDICT (R390, R391): the signatures of a sampled joint operation vote; a loss poisons the result rows that no command has
written since. -/
def execAuditVerdict (die n : Nat) (original replay1 replay2 : DWord) (s : State) : Out :=
  match s.audits.find? (fun a => a.die == die && a.n == n) with
  | none => off s
  | some a =>
    let s := { s with audits := s.audits.filter (fun b => b != a) }
    match verdictOf original replay1 replay2 (!a.rows.isEmpty) with
    | none => did s
    | some code =>
      let s := countDie s die 19 a.vd
      let s := if code = 4 ∨ code = 5 then a.rows.foldl (fun s r => poisonRow s a.quad r) s else s
      did (logError s die 11 code a.vd 0 (BitVec.ofNat 64 ((a.rows.head?).getD 0)))

/-- CL_AUDIT_VERDICT (R392): a loss is delivered as POISON and the command ends with status FAULT; a command that was held applies no
lane. -/
def execClAuditVerdict (cmd : Nat) (agree : Bool) (s : State) : Out :=
  match s.cmds.get? cmd with
  | none => off s
  | some c =>
    match c.verdict with
    | none => off s
    | some k =>
      if agree then did (putCmd s { c with verdict := none })
      else
        let s := countDie s c.die 19 c.vd
        let ls := if k = 1 then c.op.clLanes.map (fun l => { l with decided := true }) else c.op.clLanes
        let addr := ((c.op.clLanes.head?).map (fun l => l.va)).getD 0#64
        let s := putCmd s { c with
          verdict := none, op := c.op.setLanes ls, started := true, failed := some ((c.failed).getD (18, addr, 0#8)) }
        let s := logError s c.die 11 4 c.vd c.warp addr
        did (deliver s c.warp 18 c.pc c.lanes addr c.lbl)

/-! Kills (R331, R359). -/

/-- Whether a warp has started and has not died. -/
def killable (s : State) (w : Nat) : Bool := (s.warps.get? w).isSome && (match (s.warp w).life with
  | .dead => false
  | .dying _ _ => false
  | _ => true)

/-- Kill a grid: no unit of it starts any more, and every warp of it dies with a cause (R331). -/
def killGrid (s : State) (cause g : Nat) : State :=
  let x := s.grid g
  if x.complete ∨ x.killed then s
  else
    let s := s.setGrid g { x with killed := true, shares := [] }
    let s := match x.port with
      | some p => modPort s x.vd p (fun q => { q with fifo := q.fifo.filter (fun k => k != g) })
      | none => s
    (warpsOf s g).foldl (fun s e => dieWarp s e.1 cause 0#8) s

/-- A grid and the grids launched beneath it, to a depth. -/
def beneath (s : State) : Nat → Nat → List Nat
  | 0, g => [g]
  | n + 1, g => g :: ((childrenOf s g).map (fun c => beneath s n c.serial)).flatten

/-- HOST_KILL (R331, R359): the host or the debugger kills a warp, or a grid with every grid beneath it. -/
def execHostKill (req : Req) (t : KillTarget) (s : State) : Out :=
  let go (v : Nat) (f : State → State) : Out :=
    if !mayWindow s req v then did (freezeWindow s v) else if (s.vd v).frozen && !isHv s req then did s else did (f s)
  match t with
  | .warp w =>
    if !killable s w then off s else go (s.warp w).vd (fun s => dieWarp s w 4 0#8)
  | .grid g =>
    match s.grids.get? g with
    | none => off s
    | some x => if x.complete then off s else go x.vd (fun s => (beneath s 9 g).foldl (fun s k => killGrid s 4 k) s)

/-! Die fencing (R393, R394). -/

/-- Whether a grid's context spans a die: a block of it is there, or its VD maps a page homed in the die's memory. -/
def spans (s : State) (d : Nat) (g : Grid) : Bool :=
  s.blocks.any (fun e => e.2.grid == g.serial && dieOfCore e.2.core == d && e.2.holdsCore s) ||
  (mappedFrames s g.vd).any (fun f => homeDie (f * 65536) == d)

/-- Kill the contexts of a list of grids; each one's VD receives an ERROR record of the fence with its serial, channel and location (R393,
R397). -/
def killContexts (s : State) (serial channel : Nat) (loc : DWord) (gs : List Grid) : State :=
  gs.foldl (fun s g =>
    let s := killGrid s 5 g.serial
    vdEvent s g.vd (s.vd g.vd).gen 5 (le 6 serial ++ le 1 channel ++ le 1 7 ++ toBytes loc 8)) s

/-- The grids that run and are not killed yet. -/
def running (s : State) : List Grid := (s.grids.filter (fun e => e.2.dealt && !e.2.complete && !e.2.killed)).map (fun e => e.2)

/-- The dies whose way to the host passes through die 4 or die 8 (R9). -/
def routed (d : Nat) : List Nat := if d = 4 then [0, 1, 2, 3, 4] else if d = 8 then [5, 6, 7, 8] else []

/-- Whether a VD maps host memory. -/
def mapsHost (s : State) (v : Nat) : Bool := (tableEntries s v).any (fun e => leafBit e.2 1 && leafBit e.2 11)

/-- Dies lose the host port: the contexts with blocks there that map host memory are killed (R394, R406). -/
def loseHost (s : State) (serial channel : Nat) (loc : DWord) (ds : List Nat) : State :=
  killContexts s serial channel loc ((running s).filter (fun g => mapsHost s g.vd &&
    s.blocks.any (fun e => e.2.grid == g.serial && ds.contains (dieOfCore e.2.core) && e.2.holdsCore s)))

/-- Writes bound for a fenced die's memory are dropped, and counted against their warps (R331, R393). -/
def dropWrites (s : State) (d : Nat) : State :=
  ((s.flights.filter (fun f => !f.host && !f.atHome && (flightHomes f).contains d)).foldl loseWrite s).retireFlights

/-- The commands of contexts that a fence kills end with them, since their memory may be out of reach (that these commands end: DESIGN CHOICE, log entry 107). -/
def cutCommands (s : State) (gs : List Grid) : State := { s with cmds := s.cmds.filter (fun e => !gs.any (fun g => g.serial == e.2.grid)) }

/-- Fence a die (R393). -/
def fenceDie (s : State) (d channel : Nat) (loc : DWord) : State :=
  if 9 ≤ d ∨ (s.die d).fenced then s
  else
    let s := logError s d channel 7 0x3FF 0 loc
    let serial := (s.die d).lastSerial
    let gs := (running s).filter (fun g => spans s d g)
    let s := s.modDie d (fun x => { x with fenced := true })
    let s := cutCommands (killContexts s serial channel loc gs) gs
    let s := (s.episodes.filter (fun e => e.die == d)).foldl (fun s e =>
      let (code, s) := freePair s
      endEpisode s e code) s
    let s := loseHost s serial channel loc (routed d)
    let s := (List.range 9).foldl (fun s k => if k = d then s else s.modDie k (fun x => { x with copy := { x.copy with
      bytes := SMap.dropRange x.copy.bytes (d * 2 ^ 37) ((d + 1) * 2 ^ 37), lbls := x.copy.lbls.dropRange (d * 2 ^ 31) ((d + 1) * 2 ^ 31)
      stamps := x.copy.stamps.dropRange (d * 2 ^ 35) ((d + 1) * 2 ^ 35) } })) s
    dropWrites s d

/-! Errors (R386, R395). -/

/-- Poison a lane register. -/
def poisonLane (s : State) (w : Nat) (main : Bool) (r lane : Nat) : State :=
  s.modWarp w (fun x =>
    let k := 32 * r + lane
    if main then { x with v := x.v.set Reg.zero k { x.v.get Reg.zero k with poison := true } }
    else { x with o := x.o.set Reg.zero k { x.o.get Reg.zero k with poison := true } })

/-- An error of a register poisons it; it is logged on channel 0 at a location that the spec leaves open. -/
def registerError (s : State) (w : Nat) (f : State → State) : Out :=
  if (s.warps.get? w).isNone then off s
  else
    let (loc, s) := freePair s
    did (logError (f s) (dieOfQuad (s.warp w).quad) 0 1 (s.warp w).vd w loc)

/-- UNCORRECTABLE_ERROR (R386): each structure's fate. -/
def execUncorrectableError (site : ErrSite) (s : State) : Out :=
  match site with
  | .operand w r lane => if 16 ≤ r ∨ 32 ≤ lane then off s else registerError s w (fun s => poisonLane s w false r lane)
  | .main w r lane => if (s.record w).regs ≤ r ∨ 32 ≤ lane then off s else registerError s w (fun s => poisonLane s w true r lane)
  | .latch w r lane =>
    if 4 ≤ r ∨ 32 ≤ lane then off s
    else registerError s w (fun s => s.modQuad (s.warp w).quad (fun q =>
      let l := (q.latches[r]?).getD ⟨false, []⟩
      { q with latches := setAt q.latches r ⟨l.valid, l.lanes.set Reg.zero lane { l.lanes.get Reg.zero lane with poison := true }⟩ }))
  | .uniform w r =>
    if 32 ≤ r then off s
    else registerError s w (fun s => s.modWarp w (fun x => { x with s := setPad Reg.zero x.s r { (x.s[r]?).getD Reg.zero with poison := true } }))
  | .accumulator q row =>
    if 1296 ≤ q ∨ 1024 ≤ row then off s
    else
      let w := ((s.quad q).claims.find? (fun c => decide (gangFirst c.1 ≤ row) && decide (row < gangEnd c.1))).bind (fun c => c.2.head?)
      did (logError (poisonRow s q row) (dieOfQuad q) 1 1 ((w.map (fun w => (s.warp w).vd)).getD 0x3FF) (w.getD 0) (BitVec.ofNat 64 row))
  | .scratchpad g b o =>
    match s.blocks.get? (blockKey g b) with
    | none => off s
    | some x =>
      if (s.grid g).record.spadBytes ≤ o then off s
      else
        let s := s.modBlock g b (fun y => { y with spad := { y.spad with poison := y.spad.poison.set false (o / 4) true } })
        did (logError s (dieOfCore x.core) 2 1 (s.grid g).vd 0 (BitVec.ofNat 64 o))
  | .cacheData d pa => if 9 ≤ d then off s else did (logError s d 3 0 0x3FF 0 (BitVec.ofNat 64 pa))
  | .dieUnit d channel =>
    if 9 ≤ d ∨ (s.die d).fenced ∨ !([4, 8, 13].contains channel) then off s
    else
      let (loc, s) := freePair s
      did (fenceDie s d channel loc)
  | .hbmLine pa =>
    if 288 ≤ pa / 2 ^ 32 then off s
    else
      let own := s.package.sown.get 0#16 (pa / 2 ^ 32)
      let v := if own.getLsbD 10 then (field own 0 10).toNat else 0x3FF
      let s := { s with poisoned := s.poisoned.set false (granule pa) true }
      did (logError s (homeDie pa) (5 + pa / 2 ^ 36 % 2) 1 v 0 (BitVec.ofNat 64 pa))
  | .warpState w =>
    if !killable s w then off s
    else
      let x := s.warp w
      let pc := ((x.subs.head?).map (fun u => u.pc)).getD 0#64
      let s := logError s (dieOfQuad x.quad) 9 8 x.vd w pc
      let s := s.modWarp w (fun y => { y with tc := tcBit y.tc 18 })
      did (killWarp s w ⟨18, pc, 0#64, liveLanes s w, lineSlot pc, 0, false, 0#32, 0#32, [], [], none, false⟩ 2 false false 0#8)
  | .cueBuffer w =>
    if (s.warps.get? w).isNone ∨ (s.warp w).cue.isNone then off s
    else
      let x := s.warp w
      let pc := ((x.subs.head?).map (fun u => u.pc)).getD 0#64
      let s := s.modWarp w (fun y => { y with cue := y.cue.map (fun c => { c with lost := true }) })
      did (logError s (dieOfQuad x.quad) 9 1 x.vd w pc)
  | .weld d =>
    if 9 ≤ d ∨ (s.die d).fenced then off s
    else
      let (loc, s) := freePair s
      did (fenceDie s d 10 loc)

/-- CORRECTED_ERROR (R386): logged, and nothing else. -/
def execCorrectedError (die channel vd warp : Nat) (loc : DWord) (s : State) : Out :=
  if 9 ≤ die ∨ 14 ≤ channel then off s else did (logError s die channel 0 vd warp loc)

/-- LINE_FETCH (R87): a line enters a quadrant's buffer with a parity mismatch, counted, and is fetched again from the next tier; a second
mismatch is consumed where a warp reaches the line, and a second fetch that matches ends the mark of an earlier one. -/
def execLineFetch (quad line : Nat) (again : Bool) (s : State) : Out :=
  if 1296 ≤ quad ∨ line % 64 ≠ 0 then off s
  else
    let s := countDie s (dieOfQuad quad) 24 ((((held s quad).head?).map (fun e => e.2.vd)).getD 0x3FF)
    let rest := (s.quad quad).badLines.filter (fun b => b != line)
    did (s.modQuad quad (fun x => { x with badLines := if again then rest ++ [line] else rest }))

/-! The error log (R395, R401). -/

/-- The 24 bytes of an entry, in a read of 32. -/
def entryBytes (e : LogEntry) : List Byte :=
  le 6 e.serial ++ le 1 e.channel ++ le 1 e.outcome ++ le 4 e.vd ++ le 4 e.warp ++ toBytes e.loc 8 ++ zeros 8

/-- ELPOP (R395): one aligned 32-byte read returns and removes the oldest entry. -/
def execElpop (req : Req) (die : Nat) (whole : Bool) (s : State) : Out :=
  if 9 ≤ die then off s
  else hvRead s req 32 (fun s =>
    match whole, (s.die die).log with
    | true, e :: rest => (entryBytes e, s.modDie die (fun x => { x with log := rest }))
    | _, _ => (zeros 32, s))

/-- ELSTAT_READ (R395): the read clears overflow. -/
def execElstatRead (req : Req) (die : Nat) (s : State) : Out :=
  if 9 ≤ die then off s
  else hvRead s req 16 (fun s =>
    let x := s.die die
    (le 2 x.log.length ++ le 2 x.overflow ++ le 6 x.lastSerial ++ le 6 0, s.modDie die (fun y => { y with overflow := 0 })))

end Sys2Proof.Machine
end

