-- ==== Sys2Proof/Machine/Platform.lean ====
section
/-! DEFINITION. The platform (R226 to R228, R353, R371, R400 to R412): registers of the host space, attestation and firmware, the life
cycle, violations, reset and bring-up, and the debugger's halts. -/

namespace Sys2Proof.Machine

open Sys2Proof

/-! The security block's own commands (R403, R407, R409). -/

/-- The body of an attestation (R409): the measurements, the state, the package identity and the nonce (the layout: DESIGN CHOICE, log entry 111). -/
def attestBody (s : State) (nonce : List Byte) : List Byte :=
  s.security.meas.flatten ++ le 1 s.security.life ++ slice packageId 0 32 ++ slice nonce 0 32

/-- ATTEST (R409): the body, signed; the nonce is kept. -/
def execAttest (req : Req) (nonce : List Byte) (s : State) : Out :=
  command req s (fun s =>
    sbDone { s with security := { s.security with nonce := slice nonce 0 32 } } 0 0
      (attestBody s nonce ++ Config.attestSign (attestBody s nonce)))

/-- FWLOAD (R409, R411): in phase 3 an image that verifies is installed and measured; the security firmware comes first. -/
def execFwload (req : Req) (kind : Nat) (image sig : List Byte) (s : State) : Out :=
  command req s (fun s =>
    if s.package.phase ≠ 3 ∨ (kind ≠ 0 ∧ !s.security.loaded.contains 0) then sbDone s 9 0 []
    else if 4 ≤ kind ∨ !Config.sigValid Config.imageKey image sig then sbDone s 8 0 []
    else
      let m := shake256 image
      let old := (s.security.meas[kind]?).getD (zeros 32)
      sbDone { s with security := { s.security with
        meas := setAt s.security.meas kind (shake256 (old ++ m)), loaded := s.security.loaded ++ [kind] } } 0 0 [])

/-- The states that LCSET may go to (R407). -/
def mayAdvance (now next : Nat) : Bool :=
  match now with
  | 0 => next == 1 || next == 3
  | 1 => next == 2 || next == 3
  | 2 => next == 3
  | _ => false

/-- The wipe of R408: every SRAM zero with label 0, every frame unscrubbed. -/
def wipe (s : State) : State :=
  { State.reset with
    package := { s.package with holder := [] }, security := s.security
    dies := s.dies.map (fun d => { Die.reset with harvest := d.harvest, fenced := d.fenced, ports := d.ports, cap := d.cap, mhz := d.mhz })
    hostMem := s.hostMem, inbound := s.inbound, outbound := s.outbound, cmdSerial := s.cmdSerial, flightSerial := s.flightSerial
    stamp := s.stamp, free := s.free, agenda := s.agenda }

/-- LCSET (R407, R408): a signed change of life-cycle state wipes at once; the command runs until every frame is cleared (the layout of the message: DESIGN CHOICE, log entry 111). -/
def execLcset (req : Req) (target : Nat) (nonce sig : List Byte) (s : State) : Out :=
  command req s (fun s =>
    let msg := slice packageId 0 32 ++ le 1 target ++ nonce
    if !mayAdvance s.security.life target then sbDone s 10 0 []
    else if nonce ≠ s.security.nonce ∨ nonce = [] ∨ !Config.sigValid Config.lifeKey msg sig then sbDone s 5 0 []
    else
      let s := wipe s
      { s with security := { s.security with busy := true, next := some target } })

/-- DBGATTACH (R403): in DEPLOYED every registered owner of the VD signs (the layout of the message: DESIGN CHOICE, log entry 111). -/
def execDbgattach (req : Req) (vd : Nat) (enable : Bool) (sigs : List (List Byte)) (s : State) : Out :=
  command req s (fun s =>
    let d := s.vd vd
    let msg := le 2 vd ++ le 6 d.created ++ le 1 (if enable then 1 else 0)
    let owners := d.keys.map (fun e => e.1)
    if !isVd s vd then sbDone s 1 0 []
    else if s.security.life = 3 then sbDone s 10 0 []
    else
      let bad := if s.security.life ≠ 2 then none
        else if sigs.length ≠ owners.length then some ((owners.head?).getD 0)
        else badSigner d.keys msg (owners.zip sigs)
      match bad with
      | some o => sbDone s 5 o []
      | none => sbDone (s.modVd vd (fun x => { x with debug := enable })) 0 0 [])

/-- SBSTAT_READ (R403): the read clears refused. -/
def execSbstatRead (req : Req) (s : State) : Out :=
  hvRead s req 8 (fun s =>
    let b := s.security
    (le 1 ((if b.busy then 1 else 0) + (if b.refused then 2 else 0)) ++ le 1 b.status ++ le 2 b.detail ++ le 4 b.outBytes,
      { s with security := { b with refused := false } }))

/-! Registers of the host space (R400 to R402). -/

/-- The codes of SBCMD (R403). -/
def sbCodes : List Nat := [0x01, 0x02, 0x03, 0x10, 0x11, 0x20, 0x21, 0x22, 0x30, 0x31, 0x40, 0x41, 0x50]

/-- A comparator's new value: hit is W1C, and what `keep` does not name reads as zero (R226). -/
def comparator (old v keep : BitVec 128) : BitVec 128 := (v &&& keep) ||| (old &&& ~~~v &&& (1#128 <<< 108))
/-- The fields of a PC comparator, and of a data comparator. -/
def dpcFields : BitVec 128 := (1#128 <<< 108) - 1#128
def ddaFields : BitVec 128 := dpcFields ||| (0x1FF#128 <<< 109)

/-- A write of the package block (R400, R401, R405). -/
def writePackage (s : State) (o width : Nat) (v : DWord) : State :=
  if o = 0x10 ∧ width = 8 then { s with package := { s.package with hv := field v 0 16 } }
  else if o = 0x20 ∧ width = 8 then { s with package := { s.package with cap := max 1200 (min 3600 (field v 0 13).toNat) } }
  else s

/-- A write of a core's debug registers (R226, R398). -/
def writeCore (s : State) (core o width : Nat) (v : BitVec 128) : State :=
  let x : DWord := field v 0 64
  let n := o / 16
  if o < 0x80 ∧ width = 8 ∧ o % 16 = 0 then s.modCore core (fun c => { c with cev := setAt c.cev n { (c.cev[n]?).getD ⟨0#64, 0#64⟩ with count := x } })
  else if o < 0x80 ∧ width = 8 ∧ o % 16 = 8 then
    s.modCore core (fun c => { c with cev := setAt c.cev n { (c.cev[n]?).getD ⟨0#64, 0#64⟩ with sel := x &&& 0xFFFFF#64 } })
  else if 0x100 ≤ o ∧ o < 0x180 ∧ o % 16 = 0 ∧ width = 16 then
    s.modCore core (fun c => { c with dpc := setAt c.dpc (n - 16) (comparator ((c.dpc[n - 16]?).getD 0#128) v dpcFields) })
  else if 0x200 ≤ o ∧ o < 0x240 ∧ o % 16 = 0 ∧ width = 16 then
    s.modCore core (fun c => { c with dda := setAt c.dda (n - 32) (comparator ((c.dda[n - 32]?).getD 0#128) v ddaFields) })
  else s

/-- A write of a controller's registers (R280, R377). -/
def writeStack (s : State) (t o width : Nat) (v : DWord) : State :=
  if width ≠ 8 then s
  else if o = 0 then
    let n := (field v 0 10).toNat
    (s.modStack t (fun k => { k with threshold := n })).rank t
  else if o = 0x10 then s.modStack t (fun k => { k with rdthr := max 1 (field v 0 16).toNat })
  else s

/-- Change a Kwaisk port. -/
def modPortK (s : State) (p : Nat) (f : Port → Port) : State :=
  s.modDie (p / 2) (fun d => { d with ports := setAt d.ports (p % 2) (f ((d.ports[p % 2]?).getD ⟨false, false, 0, 0, 0#32⟩)) })

/-- A write of a die's block (R401). -/
def writeDie (s : State) (d o width : Nat) (v : BitVec 128) : State :=
  let x : DWord := field v 0 64
  if 0x200 ≤ o ∧ o < 0x300 ∧ width = 8 then
    let n := (o - 0x200) / 16
    s.modDie d (fun y =>
      let c := (y.dev[n]?).getD ⟨0#64, 0#64⟩
      { y with dev := setAt y.dev n (if o % 16 = 0 then { c with count := x } else if o % 16 = 8 then { c with sel := x &&& 0xFFFFF#64 } else c) })
  else if (o = 0x400 ∨ o = 0x408) ∧ width = 8 then
    modPortK s (2 * d + (o - 0x400) / 8) (fun p => if x.getLsbD 1 then { p with frozen := false } else p)
  else if 0x1000 ≤ o ∧ o < 0x1200 then writeStack s (2 * d + (o - 0x1000) / 0x100) (o % 0x100) width x
  else if 0x20000 ≤ o ∧ o < 0x20000 + 36 * 0x1000 then writeCore s (36 * d + (o - 0x20000) / 0x1000) (o % 0x1000) width v
  else s

/-- A write of the security block (R403): SBCMD with a code that is no command is refused, as is any while a command runs. -/
def writeSecurity (s : State) (o width : Nat) (v : DWord) : State :=
  let b := s.security
  if width ≠ 8 then s
  else if o = 0 then { s with security := { b with sbin := v } }
  else if o = 8 then { s with security := { b with sbinLen := v } }
  else if o = 0x10 then { s with security := { b with sbout := v } }
  else if o = 0x18 then { s with security := { b with sboutLen := v } }
  else if o = 0x20 ∧ (b.busy ∨ !sbCodes.contains (field v 0 8).toNat) then { s with security := { b with refused := true } }
  else s

/-- A write of a VD control block (R353, R366, R368, R371, R388, R400, R402). -/
def writeControl (s : State) (v o width : Nat) (x : BitVec 128) : State :=
  let q : DWord := field x 0 64
  let at8 (k : Nat) : Bool := o == k && width == 8
  if at8 0 then s.modVd v (fun d => { d with
    requester := field q 0 16, window := q.getLsbD 16, frozen := d.frozen && !q.getLsbD 17 })
  else if o = 0x10 ∧ width = 16 then s.modVd v (fun d => { d with
    weight := max 1 (field q 0 16).toNat, slice := max 1 (field q 16 16).toNat })
  else if 0x40 ≤ o ∧ o < 0x60 ∧ o % 2 = 0 ∧ width = 2 then s.modVd v (fun d => { d with
    parts := setAt d.parts ((o - 0x40) / 2) (field q 0 16 &&& 0x1FF#16) })
  else if at8 0x60 then s.modVd v (fun d => { d with saveBase := q &&& ~~~0xFFFF#64 })
  else if at8 0x68 then s.modVd v (fun d => { d with saveLen := field q 0 32 })
  else if at8 0x70 then s.modVd v (fun d => { d with
    audcfg := (q &&& 0xE0#64) ||| (if 20 < (field q 0 5).toNat then 20#64 else q &&& 0x1F#64) })
  else if at8 0x78 then s.modVd v (fun d => { d with audkey := q })
  else if 0x200 ≤ o ∧ o < 0x280 ∧ o % 8 = 0 ∧ width = 8 then s.modVd v (fun d => { d with
    roots := setAt d.roots ((o - 0x200) / 8) (q &&& ~~~0xFFFE#64) })
  else s

/-- Whether an offset of the host space lies in a hypervisor range (R400). -/
def hvRange (o : Nat) : Bool :=
  decide (o < 0x8000 + 648) || (decide (0x100000 ≤ o) && decide (o < 0xA00000)) || (decide (0x1000000 ≤ o) && decide (o < 0x1000030)) ||
  (decide (0x8000000 ≤ o) && decide (o < 0x8000000 + 1024 * 0x1000)) || decide (2 ^ 48 ≤ o)

/-- REGISTER_WRITE (R400, R401, R402): a write of a register that has no row of its own; an access that is not of the register's width
writes nothing, nor does one that the table does not assign. -/
def execRegisterWrite (req : Req) (off' width : Nat) (v : BitVec 128) (s : State) : Out :=
  if 0x10000000 ≤ off' ∧ off' < 0x10000000 + 1024 * 0x10000 then
    let d := (off' - 0x10000000) / 0x10000
    if !mayWindow s req d then did (freezeWindow s d)
    else if (s.vd d).frozen then did s
    else if off' % 0x10000 = 0x5020 ∧ width = 16 ∧ v.getLsbD 48 then did (s.modVd d (fun x => { x with labelSat := false }))
    else did s
  else if !hvRange off' then did s
  else hvWrite s req (fun s =>
    if off' < 0x8000 then writePackage s off' width (field v 0 64)
    else if 0x100000 ≤ off' ∧ off' < 0xA00000 then writeDie s ((off' - 0x100000) / 0x100000) (off' % 0x100000) width v
    else if 0x1000000 ≤ off' ∧ off' < 0x1000030 then writeSecurity s (off' - 0x1000000) width (field v 0 64)
    else if 0x8000000 ≤ off' ∧ off' < 0x8000000 + 1024 * 0x1000 then
      writeControl s ((off' - 0x8000000) / 0x1000) (off' % 0x1000) width v
    else s)

/-- KWID_WRITE (R401): the package number is set once after each reset. -/
def execKwidWrite (req : Req) (v : DWord) (s : State) : Out :=
  hvWrite s req (fun s =>
    if s.package.kwidSet then s else { s with package := { s.package with kwid := (field v 0 12).toNat, kwidSet := true } })

/-- KWPORT_READ (R401): the read clears retries. -/
def execKwportRead (req : Req) (port : Nat) (s : State) : Out :=
  if 18 ≤ port then off s
  else hvRead s req 8 (fun s =>
    let p := ((s.die (port / 2)).ports[port % 2]?).getD ⟨false, false, 0, 0, 0#32⟩
    (le 4 ((if p.up then 1 else 0) + (if p.frozen then 2 else 0) + p.peer % 4096 * 4 + p.peerPort % 32 * 16384) ++ toBytes p.retries 4,
      modPortK s port (fun p => { p with retries := 0#32 })))

/-- Bytes cut at 64-byte lines. -/
def cutLines : Nat → Nat → List Byte → List (Nat × List Byte)
  | 0, _, _ => []
  | n + 1, a, bs =>
    if bs.isEmpty then []
    else
      let k := 64 - a % 64
      (a, bs.take k) :: cutLines n (a + k) (bs.drop k)

/-- HBM_WINDOW_WRITE (R51, R402): a host-port write, on its way to its home; addresses beyond the last slice are ignored. -/
def execHbmWindowWrite (req : Req) (pa : Nat) (bytes : List Byte) (s : State) : Out :=
  hvWrite s req (fun s =>
    (cutLines bytes.length pa bytes).foldl (fun s (e : Nat × List Byte) =>
      if 288 * 2 ^ 32 ≤ e.1 then s
      else (s.touchFrame e.1).issueFlight (State.mkFlight 0 9 0 ⟨false, e.1⟩ 0#64 (.store e.2) 0#8 0#64 0#32 1 0) id) s)

/-! Violations and the host port's modules (R394, R406, R410). -/

/-- VIOLATION_FREEZE (R410): the offending master freezes, and the hypervisor is told. -/
def execViolationFreeze (m : Master) (s : State) : Out :=
  match m with
  | .vdWindow v => if 1024 ≤ v then off s else did (freezeWindow s v)
  | .poleile d c =>
    if 9 ≤ d ∨ 16 ≤ c ∨ (s.pcore d c).stopped then off s
    else
      let v := ((episodeOn s d c).map (fun e => e.vd)).getD 0xFFFF
      let s := match episodeOn s d c with
        | some e =>
          let (code, s) := freePair s
          endEpisode s e code
        | none => s
      did (freezeRecord (s.modPcore d c (fun p => { p with stopped := true })) v)
  | .peer p => if 18 ≤ p then off s else did (freezeRecord (modPortK s p (fun x => { x with frozen := true })) 0xFFFF)
  | .migration t =>
    match stream? s t true with
    | some x => did (freezeRecord (resumeSource s x) x.vd)
    | none =>
      if s.inbound.any (fun p => p.ticket == t) then
        did (freezeRecord { s with inbound := s.inbound.filter (fun p => p.ticket != t) } 0xFFFF)
      else off s

/-- HOST_MODULE_DISABLE (R394, R406): with its whole group gone, the dies routed through it lose the host port. -/
def execHostModuleDisable (m : Nat) (s : State) : Out :=
  if 8 ≤ m then off s
  else
    let s := { s with package := { s.package with modules := setAt s.package.modules m false } }
    let group := (s.package.modules.drop (m / 4 * 4)).take 4
    if group.any id then did s
    else
      let (x, s) := freePair s
      let (loc, s) := freePair s
      did (loseHost s (x.toNat % 2 ^ 48) (x.toNat / 2 ^ 48 % 14) loc (routed (if m < 4 then 4 else 8)))

/-! Reset and bring-up (R408, R411). -/

/-- The package after a reset: only the fuses stand, and host memory, which is not the package's (R407, R408, R411). -/
def resetPackage (s : State) : State :=
  { State.reset with
    security := { Security.reset with life := s.security.life }
    dies := s.dies.map (fun d => { Die.reset with harvest := d.harvest })
    hostMem := s.hostMem, free := s.free, agenda := s.agenda }

/-- RESET (R411): power-on, or 0x5A5A in RESETCTL; any other value is ignored. -/
def execReset (cause : ResetCause) (s : State) : Out :=
  match cause with
  | .powerOn => did (resetPackage s)
  | .resetctl req v => hvWrite s req (fun s => if field v 0 16 = 0x5A5A#16 then resetPackage s else s)

/-- What a phase does when it is complete (R411) (the peers: DESIGN CHOICE, log entry 113). -/
def finishPhase (s : State) (fenced : List Nat) : State :=
  if s.package.phase = 5 then fenced.foldl (fun s d => fenceDie s d 10 0#64) s
  else if s.package.phase = 6 then (List.range 18).foldl (fun s p =>
    let (x, s) := freeValue s
    let (y, s) := freeValue s
    modPortK s p (fun q => { q with up := true, peer := x.toNat % 4096, peerPort := y.toNat % 18 })) s
  else s

/-- BRING_UP_PHASE (R411): a phase is complete, or fails and stops. Phase 3 needs its four images. -/
def execBringUpPhase (r : PhaseResult) (s : State) : Out :=
  if 7 ≤ s.package.phase ∨ s.package.error ≠ 0 then off s
  else
    match r with
    | .failed code die =>
      if code % 16 = 0 ∨ 9 ≤ die then off s
      else did { s with package := { s.package with error := code % 16, errorDie := die } }
    | .done fenced =>
      if s.package.phase = 3 ∧ !([0, 1, 2, 3].all s.security.loaded.contains) then off s
      else
        let s := finishPhase s fenced
        did { s with package := { s.package with phase := s.package.phase + 1 } }

/-! The debugger (R227, R228). -/

/-- DEBUG_RESUME (R209, R227, R228): a halted warp goes on from where it stands, WATCH is cleared, and its block is no longer frozen. -/
def execDebugResume (req : Req) (w : Nat) (s : State) : Out :=
  if (s.warps.get? w).isNone then off s
  else hvWrite s req (fun s =>
    let x := s.warp w
    let s := s.modBlock x.grid x.block (fun b => { b with frozen := false })
    let s := s.modWarp w (fun y => { y with stopped := false, tc := y.tc &&& ~~~(1#64 <<< 24) })
    (sortOn (fun u => u.stamp) (x.subs.filter (fun u => u.hold == .halted))).foldl (fun s u =>
      let (t, s) := freshStamp s
      s.modWarp w (fun y => y.setSub { u with stamp := t, hold := .ready })) s)

/-- BLOCK_FREEZE (R227, R228): every sub-warp of a block halts at its next boundary; latches are invalidated. -/
def execBlockFreeze (req : Req) (g block : Nat) (s : State) : Out :=
  match s.blocks.get? (blockKey g block) with
  | none => off s
  | some b => hvWrite s req (fun s =>
    let s := s.modBlock g block (fun b => { b with frozen := true })
    b.warps.foldl (fun s w =>
      let s := dropWarpLatches s w
      s.modWarp w (fun x => { x with subs := x.subs.map (fun u =>
        if u.hold == .ready || u.hold == .waiting then { u with hold := .halted } else u) })) s)

end Sys2Proof.Machine
end

