-- ==== Sys2Proof/Machine/Sync.lean ====
section
/-! DEFINITION. FENCE and BAR (R54 to R57, R202, R203). -/

namespace Sys2Proof.Machine

open Sys2Proof

/-- FENCE (R202): it waits until the warp's events on the predecessor paths have been performed throughout the scope: its loads have
landed, its writes are applied. Where the successor set names an engine path whose writes enter by Kwaisk, these follow what the die has
seen (R56, case 2). -/
def execFence (p : Pfx) (w : W0) (s : State) : Out :=
  issue p (WF.fence p w) s (fun c => do
    let pred := WF.fencePred w
    let s ← M.st
    M.await (!(bitN pred 0) || (s.warp c.w).ldx.isEmpty)
    M.await (settled s c.w c.die (WF.fenceScope w) (bitN pred))
    M.upd (fun s => if bitN (WF.fenceSucc w) 4 || bitN (WF.fenceSucc w) 5 then s.mergeIngress c.die else s)
    pure .next)

/-- Count the contributors or take the payload of a lane (R203). -/
def barPayload (op : Nat) (v : Word) : Word := if op = 4 then (if v = 0#32 then 0#32 else 1#32) else v

/-- What a group contributes to its barrier (R203). -/
def barContribution (s : State) (c : Ctx) (op : Nat) (a : Src) : Word :=
  if op = 0 then 0#32 else (lanesOf c.act).foldl (fun v i => barCombine op v (barPayload op (srcVal s c a i))) (barIdentity op)

/-- The writes that an arrival at the barrier of a word orders are seen on the issuing die (R55). -/
def barOrdered (s : State) (c : Ctx) (w : W0) : Bool :=
  settled s c.w c.die (if w.b.getLsbD 4 then 2 else 1) (fun q => w.b.getLsbD 5 || q == 1 || q == 2)

/-- The sub-warp stands at the barrier that its word names. -/
def parkAtBar (c : Ctx) (w : W0) (op : Nat) (val : Word) (ls : Label) (dest : Nat) (s : State) : State :=
  s.modWarp c.w (fun y => y.setSub { c.sub with
    pc := c.next, hold := .bar (field w.b 0 4).toNat (w.b.getLsbD 4) op val ls dest w.latch.toNat })

/-- BAR (R203): the sub-warp parks at the barrier with what it contributes; its writes on the ordered paths are seen on its die when
it arrives (R55), and engine writes that enter by Kwaisk follow an arrival at BAR.ENG (R56, case 3). The last arrival lets every sub-warp depart. -/
def barBody (c : Ctx) (w : W0) (op : Nat) (a : Bool × Src) (dest : Nat) : M Done := do
  checkSrcs c (if op = 0 then [] else [a.2]) c.act
  let s ← M.st
  M.await (barOrdered s c w)
  let val := barContribution s c op a.2
  let ls ← M.run' (fun s => s.joinList c.w (c.sub.maskLabel ::
    (if op = 0 then [] else ((lanesOf c.act).map (fun i => [srcLbl s c a.2 i, pathIn s c.w c.on i])).flatten)))
  lastUse c (if op = 0 then [] else [a])
  M.upd (fun s => commit s c.w)
  M.upd (fun s => if w.b.getLsbD 5 then s.mergeIngress c.die else s)
  M.upd (parkAtBar c w op val ls dest)
  M.upd (fun s => barDepart s (s.warp c.w).grid (s.warp c.w).block (field w.b 0 4).toNat (w.b.getLsbD 4))
  pure .placed

/-- BAR, 32-bit form (R203). -/
def execBar32 (p : Pfx) (w : W0) (s : State) : Out :=
  issue p (WF.bar_32 p w) s (fun c => barBody c w 0 (false, .code w.a) 20)
/-- BAR, 64-bit form (R203). -/
def execBar64 (p : Pfx) (w : W0) (x : W1) (s : State) : Out :=
  issue p (WF.bar_64 p w x) s (fun c => barBody c w (field x.hi 0 3).toNat (w.luA, .code w.a) (if w.wbs then 20 else w.d.toNat))

end Sys2Proof.Machine
end

