-- ==== Sys2Proof/Machine/Traps.lean ====
section
/-! DEFINITION. The trap instructions (R211, R213, R220, R228): RETT, TCLR, TMASK, HALT. -/

namespace Sys2Proof.Machine

open Sys2Proof

/-- The bits of %tc that TCLR clears (R209): all but 20, 24 and the reserved ones. -/
def tcClearable : DWord := 0x00EFFFFF#64

/-- The sub-warps held during the handler become ready again, in the order of their stamps (R142, R213). -/
def releaseHeld (s : State) (w : Nat) (i : SubId) : State :=
  (sortOn (fun (u : SubWarp) => u.stamp) ((s.warp w).subs.filter (fun u => u.hold == .ready && u.id != i))).foldl
    (fun s u => makeReady s w u) s

/-- The fresh record of a cause that was recorded while the handler ran (R213, R214): a delivery fault's own, else the cause with the
PC to which the handler returns. -/
def pendingInfo (x : Warp) (cause : Nat) (t : DWord) : TrapInfo :=
  match (if cause = 17 then x.deliveries.head? else none) with
  | some d => ⟨d.cause, t, d.addr, d.lanes, 0, 0, true, lo32 d.pc, hi32 d.pc, [d.lbl], [],
    if d.source = x.serial then none else some d.source, false⟩
  | none => ⟨cause, t, 0#64, 0#32, 0, 0, false, 0#32, 0#32, [], [], none, false⟩

/-- Leave the handler for `t` (R213). A released joint operation whose warp does not come back to it is past (R237). -/
def leaveHandler (s : State) (c : Ctx) (t : DWord) : State :=
  let s := dropLatches s c.quad
  let s := s.modQuad c.quad (fun q => { q with rendezvous := q.rendezvous.filter (fun m => m.warp != c.w || !m.done || m.group == t) })
  let s := s.modWarp c.w (fun x => { x with s := regsFrom x.s 0 24 ++ regsFrom x.shadow 0 8, handler := false })
  jumpSub (releaseHeld s c.w c.sub.id) c.w c.sub t

/-- A cause that the warp's own instruction raises and that no disposition routes kills the warp; in handler mode it is a double fault
(R211, R213, R214). -/
def killByCause (s : State) (c : Ctx) (t : TrapInfo) : State :=
  let double := (s.warp c.w).handler
  killWarp (s.modWarp c.w (fun y => { y with tc := tcBit y.tc t.cause })) c.w t (if double then 3 else 2) double false c.sub.maskLabel

/-- RETT (R213): from a cue sheet to the cue PC; outside a handler ILLEGAL; a pending cause enters the handler again; else the warp
returns, a return PC that starts no group killing it with TARGET. -/
def rettBody (c : Ctx) : M Done := do
  let s ← M.st
  let x := s.warp c.w
  if x.sheet then
    let pc := ((x.cue).map (fun q => q.pc)).getD 0#64
    M.upd (fun s => dropLatches s c.quad)
    M.upd (fun s => jumpSub (s.modWarp c.w (fun y => { y with sheet := false })) c.w c.sub pc)
    pure .placed
  else if !x.handler then trap c 0
  else
    checkSrcs c [.code 48#6, .code 49#6] c.on
    let t := pairVal s c (.code 48#6) 0
    let waiting := x.tc &&& x.disposition &&& tcClearable
    match (List.range 24).find? (fun k => waiting.getLsbD k) with
    | some k =>
      let info := pendingInfo x k t
      M.upd (fun s => s.modWarp c.w (fun y => if info.delivery then { y with deliveries := y.deliveries.drop 1 } else y))
      M.upd (fun s => enterHandler s c.w c.sub.id info)
      pure .placed
    | none =>
      let bad := if !legalPc t then true
        else
          match fetchLine s c.quad c.vd (lineBase t) with
          | (.ok ws, _) => !startsGroup ws (lineSlot t)
          | _ => false
      if bad then
        M.upd (fun s => killByCause s c { c.info 2 c.on with addr := t })
        pure .placed
      else
        M.upd (fun s => leaveHandler s c t)
        pure .placed

/-- RETT (R213). -/
def execRett (p : Pfx) (w : W0) (s : State) : Out :=
  issue p (WF.rett p w) s rettBody

/-- TCLR (R211): once if any lane is on. -/
def execTclr (p : Pfx) (w : W0) (s : State) : Out :=
  issue p (WF.tclr p w) s (fun c => do
    let a := Src.code w.a
    checkSrcs c [a, a.up 1] c.on
    let s ← M.st
    let m := if c.on = 0#32 then 0#64 else pairVal s c a 0 &&& tcClearable
    M.upd (fun s => s.modWarp c.w (fun x => { x with tc := x.tc &&& ~~~m }))
    lastUse c [(w.luA, a), (w.luA, a.up 1)]
    pure .next)

/-- TMASK (R211): swaps the disposition. -/
def execTmask (p : Pfx) (w : W0) (s : State) : Out :=
  issue p (WF.tmask p w) s (fun c => do
    let a := Src.code w.a
    checkSrcs c [a, a.up 1] c.on
    let s ← M.st
    let x := s.warp c.w
    let new := pairVal s c a 0
    let oldL ← M.run' (fun s => s.joinList c.w [x.dispLabel, c.sub.maskLabel])
    let newL ← M.run' (fun s => s.joinList c.w [srcLbl s c a 0, srcLbl s c (a.up 1) 0, c.sub.maskLabel])
    M.upd (fun s => s.modWarp c.w (fun y => { y with disposition := new, dispLabel := newL }))
    lastUse c [(w.luA, a), (w.luA, a.up 1)]
    writeUni c w (Dst.ofCode w.d) [lo32 x.disposition, hi32 x.disposition] oldL
    pure .next)

/-- HALT (R211, R228): with the VD's debug attachment enabled every sub-warp halts, the issuing one at the successor; else the warp
is killed with cause BKPT. -/
def execHalt (p : Pfx) (w : W0) (s : State) : Out :=
  issue p (WF.halt p w) s (fun c => do
    let s ← M.st
    if (s.vd c.vd).debug then
      M.upd (fun s => dropLatches s c.quad)
      M.upd (fun s => jumpSub (s.modWarp c.w (fun y => { y with stopped := true })) c.w c.sub c.next)
    else
      M.upd (fun s => killByCause s c (c.info 22 c.on))
    pure .placed)

end Sys2Proof.Machine
end

