-- ==== Sys2Proof/Machine/Dispatch.lean ====
section
/-! DEFINITION. The one match from instructions to meanings. -/

namespace Sys2Proof.Machine

open Sys2Proof

/-- One instruction or event: one arm per constructor. -/
def exec (i : Instr) (s : State) : Host.Outcome State Fault Refusal :=
  match i with
  | .nop => Sys2Proof.Machine.execNop s
  | .iadd_32 p w => Sys2Proof.Machine.execIadd32 p w s
  | .iadd_64 p w x => Sys2Proof.Machine.execIadd64 p w x s
  | .iadd_96 p w x lit => Sys2Proof.Machine.execIadd96 p w x lit s
  | .isub_32 p w => Sys2Proof.Machine.execIsub32 p w s
  | .isub_64 p w x => Sys2Proof.Machine.execIsub64 p w x s
  | .isub_96 p w x lit => Sys2Proof.Machine.execIsub96 p w x lit s
  | .iaddc_32 p w => Sys2Proof.Machine.execIaddc32 p w s
  | .iaddc_64 p w x => Sys2Proof.Machine.execIaddc64 p w x s
  | .iaddc_96 p w x lit => Sys2Proof.Machine.execIaddc96 p w x lit s
  | .imul_32 p w => Sys2Proof.Machine.execImul32 p w s
  | .imul_64 p w x => Sys2Proof.Machine.execImul64 p w x s
  | .imul_96 p w x lit => Sys2Proof.Machine.execImul96 p w x lit s
  | .imulh_32 p w => Sys2Proof.Machine.execImulh32 p w s
  | .imulh_64 p w x => Sys2Proof.Machine.execImulh64 p w x s
  | .imulh_96 p w x lit => Sys2Proof.Machine.execImulh96 p w x lit s
  | .imad_32 p w => Sys2Proof.Machine.execImad32 p w s
  | .imad_64 p w x => Sys2Proof.Machine.execImad64 p w x s
  | .imad_96 p w x lit => Sys2Proof.Machine.execImad96 p w x lit s
  | .imadw_32 p w => Sys2Proof.Machine.execImadw32 p w s
  | .imadw_64 p w x => Sys2Proof.Machine.execImadw64 p w x s
  | .imadw_96 p w x lit => Sys2Proof.Machine.execImadw96 p w x lit s
  | .imin_32 p w => Sys2Proof.Machine.execImin32 p w s
  | .imin_64 p w x => Sys2Proof.Machine.execImin64 p w x s
  | .imin_96 p w x lit => Sys2Proof.Machine.execImin96 p w x lit s
  | .imax_32 p w => Sys2Proof.Machine.execImax32 p w s
  | .imax_64 p w x => Sys2Proof.Machine.execImax64 p w x s
  | .imax_96 p w x lit => Sys2Proof.Machine.execImax96 p w x lit s
  | .and_32 p w => Sys2Proof.Machine.execAnd32 p w s
  | .and_64 p w x => Sys2Proof.Machine.execAnd64 p w x s
  | .and_96 p w x lit => Sys2Proof.Machine.execAnd96 p w x lit s
  | .or_32 p w => Sys2Proof.Machine.execOr32 p w s
  | .or_64 p w x => Sys2Proof.Machine.execOr64 p w x s
  | .or_96 p w x lit => Sys2Proof.Machine.execOr96 p w x lit s
  | .xor_32 p w => Sys2Proof.Machine.execXor32 p w s
  | .xor_64 p w x => Sys2Proof.Machine.execXor64 p w x s
  | .xor_96 p w x lit => Sys2Proof.Machine.execXor96 p w x lit s
  | .andn_32 p w => Sys2Proof.Machine.execAndn32 p w s
  | .andn_64 p w x => Sys2Proof.Machine.execAndn64 p w x s
  | .andn_96 p w x lit => Sys2Proof.Machine.execAndn96 p w x lit s
  | .bool3_64 p w x => Sys2Proof.Machine.execBool364 p w x s
  | .bool3_96 p w x lit => Sys2Proof.Machine.execBool396 p w x lit s
  | .shl_32 p w => Sys2Proof.Machine.execShl32 p w s
  | .shl_64 p w x => Sys2Proof.Machine.execShl64 p w x s
  | .shl_96 p w x lit => Sys2Proof.Machine.execShl96 p w x lit s
  | .shr_32 p w => Sys2Proof.Machine.execShr32 p w s
  | .shr_64 p w x => Sys2Proof.Machine.execShr64 p w x s
  | .shr_96 p w x lit => Sys2Proof.Machine.execShr96 p w x lit s
  | .sar_32 p w => Sys2Proof.Machine.execSar32 p w s
  | .sar_64 p w x => Sys2Proof.Machine.execSar64 p w x s
  | .sar_96 p w x lit => Sys2Proof.Machine.execSar96 p w x lit s
  | .rot_32 p w => Sys2Proof.Machine.execRot32 p w s
  | .rot_64 p w x => Sys2Proof.Machine.execRot64 p w x s
  | .rot_96 p w x lit => Sys2Proof.Machine.execRot96 p w x lit s
  | .shf_32 p w => Sys2Proof.Machine.execShf32 p w s
  | .shf_64 p w x => Sys2Proof.Machine.execShf64 p w x s
  | .shf_96 p w x lit => Sys2Proof.Machine.execShf96 p w x lit s
  | .bfx_32 p w => Sys2Proof.Machine.execBfx32 p w s
  | .bfx_64 p w x => Sys2Proof.Machine.execBfx64 p w x s
  | .bfx_96 p w x lit => Sys2Proof.Machine.execBfx96 p w x lit s
  | .bfi_32 p w => Sys2Proof.Machine.execBfi32 p w s
  | .bfi_64 p w x => Sys2Proof.Machine.execBfi64 p w x s
  | .bfi_96 p w x lit => Sys2Proof.Machine.execBfi96 p w x lit s
  | .prmt_32 p w => Sys2Proof.Machine.execPrmt32 p w s
  | .prmt_64 p w x => Sys2Proof.Machine.execPrmt64 p w x s
  | .prmt_96 p w x lit => Sys2Proof.Machine.execPrmt96 p w x lit s
  | .icmp_32 p w => Sys2Proof.Machine.execIcmp32 p w s
  | .icmp_64 p w x => Sys2Proof.Machine.execIcmp64 p w x s
  | .icmp_96 p w x lit => Sys2Proof.Machine.execIcmp96 p w x lit s
  | .isel_32 p w => Sys2Proof.Machine.execIsel32 p w s
  | .isel_64 p w x => Sys2Proof.Machine.execIsel64 p w x s
  | .isel_96 p w x lit => Sys2Proof.Machine.execIsel96 p w x lit s
  | .lea_32 p w => Sys2Proof.Machine.execLea32 p w s
  | .lea_64 p w x => Sys2Proof.Machine.execLea64 p w x s
  | .lea_96 p w x lit => Sys2Proof.Machine.execLea96 p w x lit s
  | .fadd_32 p w => Sys2Proof.Machine.execFadd32 p w s
  | .fadd_64 p w x => Sys2Proof.Machine.execFadd64 p w x s
  | .fadd_96 p w x lit => Sys2Proof.Machine.execFadd96 p w x lit s
  | .fmul_32 p w => Sys2Proof.Machine.execFmul32 p w s
  | .fmul_64 p w x => Sys2Proof.Machine.execFmul64 p w x s
  | .fmul_96 p w x lit => Sys2Proof.Machine.execFmul96 p w x lit s
  | .ffma_32 p w => Sys2Proof.Machine.execFfma32 p w s
  | .ffma_64 p w x => Sys2Proof.Machine.execFfma64 p w x s
  | .ffma_96 p w x lit => Sys2Proof.Machine.execFfma96 p w x lit s
  | .fmin_32 p w => Sys2Proof.Machine.execFmin32 p w s
  | .fmin_64 p w x => Sys2Proof.Machine.execFmin64 p w x s
  | .fmin_96 p w x lit => Sys2Proof.Machine.execFmin96 p w x lit s
  | .fmax_32 p w => Sys2Proof.Machine.execFmax32 p w s
  | .fmax_64 p w x => Sys2Proof.Machine.execFmax64 p w x s
  | .fmax_96 p w x lit => Sys2Proof.Machine.execFmax96 p w x lit s
  | .fcmp_32 p w => Sys2Proof.Machine.execFcmp32 p w s
  | .fcmp_64 p w x => Sys2Proof.Machine.execFcmp64 p w x s
  | .fcmp_96 p w x lit => Sys2Proof.Machine.execFcmp96 p w x lit s
  | .hadd2_32 p w => Sys2Proof.Machine.execHadd232 p w s
  | .hadd2_64 p w x => Sys2Proof.Machine.execHadd264 p w x s
  | .hadd2_96 p w x lit => Sys2Proof.Machine.execHadd296 p w x lit s
  | .hmul2_32 p w => Sys2Proof.Machine.execHmul232 p w s
  | .hmul2_64 p w x => Sys2Proof.Machine.execHmul264 p w x s
  | .hmul2_96 p w x lit => Sys2Proof.Machine.execHmul296 p w x lit s
  | .hfma2_32 p w => Sys2Proof.Machine.execHfma232 p w s
  | .hfma2_64 p w x => Sys2Proof.Machine.execHfma264 p w x s
  | .hfma2_96 p w x lit => Sys2Proof.Machine.execHfma296 p w x lit s
  | .hmin2_32 p w => Sys2Proof.Machine.execHmin232 p w s
  | .hmin2_64 p w x => Sys2Proof.Machine.execHmin264 p w x s
  | .hmin2_96 p w x lit => Sys2Proof.Machine.execHmin296 p w x lit s
  | .hmax2_32 p w => Sys2Proof.Machine.execHmax232 p w s
  | .hmax2_64 p w x => Sys2Proof.Machine.execHmax264 p w x s
  | .hmax2_96 p w x lit => Sys2Proof.Machine.execHmax296 p w x lit s
  | .hcmp2_32 p w => Sys2Proof.Machine.execHcmp232 p w s
  | .hcmp2_64 p w x => Sys2Proof.Machine.execHcmp264 p w x s
  | .hcmp2_96 p w x lit => Sys2Proof.Machine.execHcmp296 p w x lit s
  | .cvt_32 p w => Sys2Proof.Machine.execCvt32 p w s
  | .cvt_64 p w x => Sys2Proof.Machine.execCvt64 p w x s
  | .cvtp_32 p w => Sys2Proof.Machine.execCvtp32 p w s
  | .cvtp_64 p w x => Sys2Proof.Machine.execCvtp64 p w x s
  | .cvtu_32 p w => Sys2Proof.Machine.execCvtu32 p w s
  | .cvtu_64 p w x => Sys2Proof.Machine.execCvtu64 p w x s
  | .scl_32 p w => Sys2Proof.Machine.execScl32 p w s
  | .scl_64 p w x => Sys2Proof.Machine.execScl64 p w x s
  | .dot2_32 p w => Sys2Proof.Machine.execDot232 p w s
  | .dot2_64 p w x => Sys2Proof.Machine.execDot264 p w x s
  | .dot4_32 p w => Sys2Proof.Machine.execDot432 p w s
  | .dot4_64 p w x => Sys2Proof.Machine.execDot464 p w x s
  | .dot8_32 p w => Sys2Proof.Machine.execDot832 p w s
  | .dot8_64 p w x => Sys2Proof.Machine.execDot864 p w x s
  | .movo p w x => Sys2Proof.Machine.execMovo p w x s
  | .movm p w x => Sys2Proof.Machine.execMovm p w x s
  | .movu_32 p w => Sys2Proof.Machine.execMovu32 p w s
  | .movu_64 p w x => Sys2Proof.Machine.execMovu64 p w x s
  | .movk_to_mask p w => Sys2Proof.Machine.execMovkToMask p w s
  | .movk_from_mask p w => Sys2Proof.Machine.execMovkFromMask p w s
  | .ldi_64 p w x => Sys2Proof.Machine.execLdi64 p w x s
  | .ldi_96 p w x lit => Sys2Proof.Machine.execLdi96 p w x lit s
  | .bra_64 p w x => Sys2Proof.Machine.execBra64 p w x s
  | .bra_96 p w x lit => Sys2Proof.Machine.execBra96 p w x lit s
  | .brx p w x => Sys2Proof.Machine.execBrx p w x s
  | .pad p w => Sys2Proof.Machine.execPad p w s
  | .call_64 p w x => Sys2Proof.Machine.execCall64 p w x s
  | .call_96 p w x lit => Sys2Proof.Machine.execCall96 p w x lit s
  | .callx p w x => Sys2Proof.Machine.execCallx p w x s
  | .ret p w => Sys2Proof.Machine.execRet p w s
  | .exit p w => Sys2Proof.Machine.execExit p w s
  | .cue_64 p w x => Sys2Proof.Machine.execCue64 p w x s
  | .cue_96 p w x lit => Sys2Proof.Machine.execCue96 p w x lit s
  | .trap_32 p w => Sys2Proof.Machine.execTrap32 p w s
  | .trap_64 p w x => Sys2Proof.Machine.execTrap64 p w x s
  | .census_32 p w => Sys2Proof.Machine.execCensus32 p w s
  | .census_64 p w x => Sys2Proof.Machine.execCensus64 p w x s
  | .pick_32 p w => Sys2Proof.Machine.execPick32 p w s
  | .pick_64 p w x => Sys2Proof.Machine.execPick64 p w x s
  | .peers_32 p w => Sys2Proof.Machine.execPeers32 p w s
  | .peers_64 p w x => Sys2Proof.Machine.execPeers64 p w x s
  | .qx_32 p w => Sys2Proof.Machine.execQx32 p w s
  | .qx_64 p w x => Sys2Proof.Machine.execQx64 p w x s
  | .red_32 p w => Sys2Proof.Machine.execRed32 p w s
  | .red_64 p w x => Sys2Proof.Machine.execRed64 p w x s
  | .scan_32 p w => Sys2Proof.Machine.execScan32 p w s
  | .scan_64 p w x => Sys2Proof.Machine.execScan64 p w x s
  | .draw p w x => Sys2Proof.Machine.execDraw p w x s
  | .drawm p w x => Sys2Proof.Machine.execDrawm p w x s
  | .sreg_read p w => Sys2Proof.Machine.execSregRead p w s
  | .sreg_write p w => Sys2Proof.Machine.execSregWrite p w s
  | .lraise_32 p w => Sys2Proof.Machine.execLraise32 p w s
  | .lraise_64 p w x => Sys2Proof.Machine.execLraise64 p w x s
  | .lchk_32 p w => Sys2Proof.Machine.execLchk32 p w s
  | .lchk_k_32 p w => Sys2Proof.Machine.execLchkK32 p w s
  | .lchk_64 p w x => Sys2Proof.Machine.execLchk64 p w x s
  | .lchk_k_64 p w x => Sys2Proof.Machine.execLchkK64 p w x s
  | .dcl_reg p w x => Sys2Proof.Machine.execDclReg p w x s
  | .dcl_g p w x => Sys2Proof.Machine.execDclG p w x s
  | .dcl_sp p w x => Sys2Proof.Machine.execDclSp p w x s
  | .ld_32 p w => Sys2Proof.Machine.execLd32 p w s
  | .ld_64 p w x => Sys2Proof.Machine.execLd64 p w x s
  | .ld_96 p w x lit => Sys2Proof.Machine.execLd96 p w x lit s
  | .st_32 p w => Sys2Proof.Machine.execSt32 p w s
  | .st_64 p w x => Sys2Proof.Machine.execSt64 p w x s
  | .st_96 p w x lit => Sys2Proof.Machine.execSt96 p w x lit s
  | .lds_32 p w => Sys2Proof.Machine.execLds32 p w s
  | .lds_64 p w x => Sys2Proof.Machine.execLds64 p w x s
  | .lds_96 p w x lit => Sys2Proof.Machine.execLds96 p w x lit s
  | .sts_32 p w => Sys2Proof.Machine.execSts32 p w s
  | .sts_64 p w x => Sys2Proof.Machine.execSts64 p w x s
  | .sts_96 p w x lit => Sys2Proof.Machine.execSts96 p w x lit s
  | .ldf_32 p w => Sys2Proof.Machine.execLdf32 p w s
  | .ldf_64 p w x => Sys2Proof.Machine.execLdf64 p w x s
  | .ste_32 p w => Sys2Proof.Machine.execSte32 p w s
  | .ste_64 p w x => Sys2Proof.Machine.execSte64 p w x s
  | .ldx_64 p w x => Sys2Proof.Machine.execLdx64 p w x s
  | .ldx_96 p w x lit => Sys2Proof.Machine.execLdx96 p w x lit s
  | .waitc p w x => Sys2Proof.Machine.execWaitc p w x s
  | .atom p w x => Sys2Proof.Machine.execAtom p w x s
  | .atoms p w x => Sys2Proof.Machine.execAtoms p w x s
  | .rdm p w x => Sys2Proof.Machine.execRdm p w x s
  | .fence p w => Sys2Proof.Machine.execFence p w s
  | .bar_32 p w => Sys2Proof.Machine.execBar32 p w s
  | .bar_64 p w x => Sys2Proof.Machine.execBar64 p w x s
  | .barw p w => Sys2Proof.Machine.execBarw p w s
  | .prf_32 p w => Sys2Proof.Machine.execPrf32 p w s
  | .prf_64 p w x => Sys2Proof.Machine.execPrf64 p w x s
  | .graise p w => Sys2Proof.Machine.execGraise p w s
  | .glbl p w => Sys2Proof.Machine.execGlbl p w s
  | .qbind p w => Sys2Proof.Machine.execQbind p w s
  | .qpoll p w => Sys2Proof.Machine.execQpoll p w s
  | .qrd p w => Sys2Proof.Machine.execQrd p w s
  | .qwr p w => Sys2Proof.Machine.execQwr p w s
  | .mx_fmt p w x => Sys2Proof.Machine.execMxFmt p w x s
  | .mx_ldb p w x => Sys2Proof.Machine.execMxLdb p w x s
  | .mx_mma p w x => Sys2Proof.Machine.execMxMma p w x s
  | .mx_mmas p w x => Sys2Proof.Machine.execMxMmas p w x s
  | .mx_zero p w x => Sys2Proof.Machine.execMxZero p w x s
  | .mx_rd p w x => Sys2Proof.Machine.execMxRd p w x s
  | .mx_wr p w x => Sys2Proof.Machine.execMxWr p w x s
  | .mx_rdv p w x => Sys2Proof.Machine.execMxRdv p w x s
  | .mx_qnt p w x => Sys2Proof.Machine.execMxQnt p w x s
  | .xf_copy_64 p w x => Sys2Proof.Machine.execXfCopy64 p w x s
  | .xf_copy_96 p w x lit => Sys2Proof.Machine.execXfCopy96 p w x lit s
  | .xf_pref p w x => Sys2Proof.Machine.execXfPref p w x s
  | .xf_yield p w x => Sys2Proof.Machine.execXfYield p w x s
  | .bobj_init p w x => Sys2Proof.Machine.execBobjInit p w x s
  | .cl_put p w x => Sys2Proof.Machine.execClPut p w x s
  | .cl_get p w x => Sys2Proof.Machine.execClGet p w x s
  | .cl_red p w x => Sys2Proof.Machine.execClRed p w x s
  | .cl_atom p w x => Sys2Proof.Machine.execClAtom p w x s
  | .cl_draw p w x => Sys2Proof.Machine.execClDraw p w x s
  | .cl_sig p w x => Sys2Proof.Machine.execClSig p w x s
  | .mb_open p w x => Sys2Proof.Machine.execMbOpen p w x s
  | .mb_send_32 p w => Sys2Proof.Machine.execMbSend32 p w s
  | .mb_send_64 p w x => Sys2Proof.Machine.execMbSend64 p w x s
  | .mb_send_sp p w x => Sys2Proof.Machine.execMbSendSp p w x s
  | .lock_32 p w => Sys2Proof.Machine.execLock32 p w s
  | .lock_64 p w x => Sys2Proof.Machine.execLock64 p w x s
  | .trylock_32 p w => Sys2Proof.Machine.execTrylock32 p w s
  | .trylock_64 p w x => Sys2Proof.Machine.execTrylock64 p w x s
  | .unlock_32 p w => Sys2Proof.Machine.execUnlock32 p w s
  | .unlock_64 p w x => Sys2Proof.Machine.execUnlock64 p w x s
  | .promise p w => Sys2Proof.Machine.execPromise p w s
  | .heir p w x => Sys2Proof.Machine.execHeir p w x s
  | .launch p w x => Sys2Proof.Machine.execLaunch p w x s
  | .nop_h0 w => Sys2Proof.Machine.execNopH0 w s
  | .nop_h1 w => Sys2Proof.Machine.execNopH1 w s
  | .nop_h2 w => Sys2Proof.Machine.execNopH2 w s
  | .nop_h3 w => Sys2Proof.Machine.execNopH3 w s
  | .ineg p w => Sys2Proof.Machine.execIneg p w s
  | .iabs p w => Sys2Proof.Machine.execIabs p w s
  | .popc p w => Sys2Proof.Machine.execPopc p w s
  | .clz p w => Sys2Proof.Machine.execClz p w s
  | .ctz p w => Sys2Proof.Machine.execCtz p w s
  | .brev p w => Sys2Proof.Machine.execBrev p w s
  | .frcp p w => Sys2Proof.Machine.execFrcp p w s
  | .frsq p w => Sys2Proof.Machine.execFrsq p w s
  | .fsqrt p w => Sys2Proof.Machine.execFsqrt p w s
  | .fexp2 p w => Sys2Proof.Machine.execFexp2 p w s
  | .flog2 p w => Sys2Proof.Machine.execFlog2 p w s
  | .fsin p w => Sys2Proof.Machine.execFsin p w s
  | .fcos p w => Sys2Proof.Machine.execFcos p w s
  | .ftanh p w => Sys2Proof.Machine.execFtanh p w s
  | .frnd p w => Sys2Proof.Machine.execFrnd p w s
  | .ffrc p w => Sys2Proof.Machine.execFfrc p w s
  | .kill p w => Sys2Proof.Machine.execKill p w s
  | .syncw p w => Sys2Proof.Machine.execSyncw p w s
  | .yield p w => Sys2Proof.Machine.execYield p w s
  | .bkpt p w => Sys2Proof.Machine.execBkpt p w s
  | .elect p w => Sys2Proof.Machine.execElect p w s
  | .lget p w => Sys2Proof.Machine.execLget p w s
  | .seal p w => Sys2Proof.Machine.execSeal p w s
  | .unseal p w => Sys2Proof.Machine.execUnseal p w s
  | .qfree p w => Sys2Proof.Machine.execQfree p w s
  | .rett p w => Sys2Proof.Machine.execRett p w s
  | .tclr p w => Sys2Proof.Machine.execTclr p w s
  | .tmask p w => Sys2Proof.Machine.execTmask p w s
  | .halt p w => Sys2Proof.Machine.execHalt p w s
  | .mx_gang p w => Sys2Proof.Machine.execMxGang p w s
  | .mx_wait p w => Sys2Proof.Machine.execMxWait p w s
  | .mx_drop p w => Sys2Proof.Machine.execMxDrop p w s
  | .xf_wait p w => Sys2Proof.Machine.execXfWait p w s
  | .xf_cancel p w => Sys2Proof.Machine.execXfCancel p w s
  | .bobj_arv p w => Sys2Proof.Machine.execBobjArv p w s
  | .cl_flush p w => Sys2Proof.Machine.execClFlush p w s
  | .mb_ver p w => Sys2Proof.Machine.execMbVer p w s
  | .mb_mode p w => Sys2Proof.Machine.execMbMode p w s
  | .will p w => Sys2Proof.Machine.execWill p w s
  | .estq p w => Sys2Proof.Machine.execEstq p w s
  | .lwait p w => Sys2Proof.Machine.execLwait p w s
  | .delivery_fault w => Sys2Proof.Machine.execDeliveryFault w s
  | .store_apply_at_home f => Sys2Proof.Machine.execStoreApplyAtHome f s
  | .replica_apply die f => Sys2Proof.Machine.execReplicaApply die f s
  | .ldx_reply w id lane => Sys2Proof.Machine.execLdxReply w id lane s
  | .ldf_ste_lane_complete w lane => Sys2Proof.Machine.execLdfSteLaneComplete w lane s
  | .queue_held_entry_deliver w q => Sys2Proof.Machine.execQueueHeldEntryDeliver w q s
  | .preemption_request w => Sys2Proof.Machine.execPreemptionRequest w s
  | .full_save w => Sys2Proof.Machine.execFullSave w s
  | .resume w core => Sys2Proof.Machine.execResume w core s
  | .conveyance core => Sys2Proof.Machine.execConveyance core s
  | .probate_delivery g => Sys2Proof.Machine.execProbateDelivery g s
  | .lock_retry w => Sys2Proof.Machine.execLockRetry w s
  | .rendezvous_release quad => Sys2Proof.Machine.execRendezvousRelease quad s
  | .mx_consumed cmd => Sys2Proof.Machine.execMxConsumed cmd s
  | .mx_done cmd => Sys2Proof.Machine.execMxDone cmd s
  | .audit_verdict die n original replay1 replay2 => Sys2Proof.Machine.execAuditVerdict die n original replay1 replay2 s
  | .cl_audit_verdict cmd agree => Sys2Proof.Machine.execClAuditVerdict cmd agree s
  | .copy_complete cmd words => Sys2Proof.Machine.execCopyComplete cmd words s
  | .prefetch_arrival cmd => Sys2Proof.Machine.execPrefetchArrival cmd s
  | .xf_yield_resume cmd => Sys2Proof.Machine.execXfYieldResume cmd s
  | .slot_start cmd estimate => Sys2Proof.Machine.execSlotStart cmd estimate s
  | .cl_peer_apply cmd lane peer => Sys2Proof.Machine.execClPeerApply cmd lane peer s
  | .cl_complete cmd => Sys2Proof.Machine.execClComplete cmd s
  | .switch_write_back vd line => Sys2Proof.Machine.execSwitchWriteBack vd line s
  | .write_back_at_home k => Sys2Proof.Machine.execWriteBackAtHome k s
  | .await die core => Sys2Proof.Machine.execAwait die core s
  | .await_wake die core => Sys2Proof.Machine.execAwaitWake die core s
  | .end_ die core => Sys2Proof.Machine.execEnd die core s
  | .u_mode_exception die core => Sys2Proof.Machine.execUModeException die core s
  | .mbpop die core => Sys2Proof.Machine.execMbpop die core s
  | .mbpush die core => Sys2Proof.Machine.execMbpush die core s
  | .observation_delivery die mb => Sys2Proof.Machine.execObservationDelivery die mb s
  | .watchdog die core cycles => Sys2Proof.Machine.execWatchdog die core cycles s
  | .episode_create req e => Sys2Proof.Machine.execEpisodeCreate req e s
  | .episode_end req die id => Sys2Proof.Machine.execEpisodeEnd req die id s
  | .mbcfg_write req die mb v => Sys2Proof.Machine.execMbcfgWrite req die mb v s
  | .mbdrop_read req die mb => Sys2Proof.Machine.execMbdropRead req die mb s
  | .mbstat_read die core => Sys2Proof.Machine.execMbstatRead die core s
  | .launch_port_store req vd port whole bytes => Sys2Proof.Machine.execLaunchPortStore req vd port whole bytes s
  | .lpstat_read req vd port => Sys2Proof.Machine.execLpstatRead req vd port s
  | .deal => Sys2Proof.Machine.execDeal s
  | .block_start core => Sys2Proof.Machine.execBlockStart core s
  | .steal die cluster => Sys2Proof.Machine.execSteal die cluster s
  | .grid_complete g => Sys2Proof.Machine.execGridComplete g s
  | .virtual_time_charge cycles => Sys2Proof.Machine.execVirtualTimeCharge cycles s
  | .slice_end partition => Sys2Proof.Machine.execSliceEnd partition s
  | .gfpop req vd whole => Sys2Proof.Machine.execGfpop req vd whole s
  | .gfstat_read req vd => Sys2Proof.Machine.execGfstatRead req vd s
  | .vdcreate req a => Sys2Proof.Machine.execVdcreate req a s
  | .vdreset req vd => Sys2Proof.Machine.execVdreset req vd s
  | .vdfree req vd => Sys2Proof.Machine.execVdfree req vd s
  | .grant_install req body sigs => Sys2Proof.Machine.execGrantInstall req body sigs s
  | .grant_revoke req vd slot => Sys2Proof.Machine.execGrantRevoke req vd slot s
  | .migout req vd dest reachable => Sys2Proof.Machine.execMigout req vd dest reachable s
  | .migin req a => Sys2Proof.Machine.execMigin req a s
  | .migabort req ticket => Sys2Proof.Machine.execMigabort req ticket s
  | .migration_complete ticket => Sys2Proof.Machine.execMigrationComplete ticket s
  | .ticket_expiry ticket => Sys2Proof.Machine.execTicketExpiry ticket s
  | .msnap req vd nonce => Sys2Proof.Machine.execMsnap req vd nonce s
  | .attest req nonce => Sys2Proof.Machine.execAttest req nonce s
  | .fwload req kind image sig => Sys2Proof.Machine.execFwload req kind image sig s
  | .lcset req target nonce sig => Sys2Proof.Machine.execLcset req target nonce sig s
  | .dbgattach req vd enable sigs => Sys2Proof.Machine.execDbgattach req vd enable sigs s
  | .sbstat_read req => Sys2Proof.Machine.execSbstatRead req s
  | .qown_write req quad v => Sys2Proof.Machine.execQownWrite req quad v s
  | .sown_write req sl v => Sys2Proof.Machine.execSownWrite req sl v s
  | .mapsync req vd whole v => Sys2Proof.Machine.execMapsync req vd whole v s
  | .mapsync_done vd => Sys2Proof.Machine.execMapsyncDone vd s
  | .parkgo req vd serial => Sys2Proof.Machine.execParkgo req vd serial s
  | .parkkill req vd serial => Sys2Proof.Machine.execParkkill req vd serial s
  | .mapstat_read req vd => Sys2Proof.Machine.execMapstatRead req vd s
  | .xwin_write req vd n v => Sys2Proof.Machine.execXwinWrite req vd n v s
  | .evpop req vd whole => Sys2Proof.Machine.execEvpop req vd whole s
  | .hvpop req whole => Sys2Proof.Machine.execHvpop req whole s
  | .event_record_release vd => Sys2Proof.Machine.execEventRecordRelease vd s
  | .vdstat_read req vd => Sys2Proof.Machine.execVdstatRead req vd s
  | .hvstat_read req => Sys2Proof.Machine.execHvstatRead req s
  | .qstat_read req stack => Sys2Proof.Machine.execQstatRead req stack s
  | .quench_clear stack => Sys2Proof.Machine.execQuenchClear stack s
  | .row_mitigation stack bank row vd => Sys2Proof.Machine.execRowMitigation stack bank row vd s
  | .metering_tick counts => Sys2Proof.Machine.execMeteringTick counts s
  | .bellows_period caps clocks budgets => Sys2Proof.Machine.execBellowsPeriod caps clocks budgets s
  | .uncorrectable_error site => Sys2Proof.Machine.execUncorrectableError site s
  | .corrected_error die channel vd warp loc => Sys2Proof.Machine.execCorrectedError die channel vd warp loc s
  | .line_fetch quad line again => Sys2Proof.Machine.execLineFetch quad line again s
  | .elpop req die whole => Sys2Proof.Machine.execElpop req die whole s
  | .elstat_read req die => Sys2Proof.Machine.execElstatRead req die s
  | .debug_resume req w => Sys2Proof.Machine.execDebugResume req w s
  | .block_freeze req g block => Sys2Proof.Machine.execBlockFreeze req g block s
  | .host_kill req t => Sys2Proof.Machine.execHostKill req t s
  | .hbm_window_write req pa bytes => Sys2Proof.Machine.execHbmWindowWrite req pa bytes s
  | .kwid_write req v => Sys2Proof.Machine.execKwidWrite req v s
  | .violation_freeze m => Sys2Proof.Machine.execViolationFreeze m s
  | .host_module_disable m => Sys2Proof.Machine.execHostModuleDisable m s
  | .reset cause => Sys2Proof.Machine.execReset cause s
  | .bring_up_phase r => Sys2Proof.Machine.execBringUpPhase r s
  | .register_write req off width v => Sys2Proof.Machine.execRegisterWrite req off width v s
  | .unassigned_opcode p page1 len code w => Sys2Proof.Machine.execUnassignedOpcode p page1 len code w s
  | .orphaned_prefix why pc slot => Sys2Proof.Machine.execOrphanedPrefix why pc slot s
  | .episode_instruction die core => Sys2Proof.Machine.execEpisodeInstruction die core s
  | .peer_copy_access cmd word peer => Sys2Proof.Machine.execPeerCopyAccess cmd word peer s
  | .kwport_read req port => Sys2Proof.Machine.execKwportRead req port s
  | .qown_read req quad => Sys2Proof.Machine.execQownRead req quad s
  | .sown_read req sl => Sys2Proof.Machine.execSownRead req sl s
  | .activation_window stack bank => Sys2Proof.Machine.execActivationWindow stack bank s

end Sys2Proof.Machine
end

