-- ==== Sys2Proof/Machine/Agents.lean ====
section
/-! DEFINITION. The happenings that the engines bring about by themselves, in the order in which this model looks for one that is
due. A happening that depends on the outside (the host, a peer package, an error, a clock) comes only from the agenda. -/

namespace Sys2Proof.Machine

open Sys2Proof

noncomputable section

/-- Of the warps: requests, saves, replies, lanes that complete, locks, entries that producers hold (R17, R194, R195, R221, R339). -/
def warpHappenings (s : State) : List Instr :=
  (s.warps.map (fun e =>
    let w := e.1
    let x := e.2
    (if x.life = .resident then [Instr.preemption_request w] else []) ++
    (match x.life with
      | .saving => [Instr.full_save w]
      | _ => []) ++
    (x.ldx.map (fun l => (lanesOf l.left).map (fun i => Instr.ldx_reply w l.id i))).flatten ++
    (x.fe.map (fun f => (lanesOf f.left).map (fun i => Instr.ldf_ste_lane_complete w i))).flatten ++
    (if x.subs.any (fun u => match u.hold with
      | .locking _ _ => true
      | _ => false) then [Instr.lock_retry w] else []) ++
    ((List.range 16).filter (fun q => !(x.queue q).back.isEmpty)).map (fun q => Instr.queue_held_entry_deliver w q))).flatten

/-- Of the memory system: a write at its home, then at the replicas (R51, R52), then a window line that goes home (R60). -/
def memoryHappenings (s : State) : List Instr :=
  (s.flights.map (fun f => Instr.store_apply_at_home f.id)) ++
  (s.flights.map (fun f => (List.range 9).map (fun d => Instr.replica_apply d f.id))).flatten ++
  ((List.range s.writeBacks.length).map (fun k => Instr.write_back_at_home k))

/-- Of the matrix and transfer engines (R252, R257, R270, R274, R294). -/
def engineHappenings (s : State) : List Instr :=
  (s.quads.map (fun e => Instr.rendezvous_release e.1)) ++
  (s.cmds.map (fun e =>
    match e.2.op with
    | .mx _ _ _ _ _ _ _ _ => [Instr.mx_consumed e.1, Instr.mx_done e.1]
    | .copy t y => if Tile.remote s t ∧ e.2.doneWords.length < t.words then []
      else [if y.isSome then Instr.xf_yield_resume e.1 else Instr.copy_complete e.1 none]
    | .prefetch _ => [Instr.prefetch_arrival e.1]
    | .cl code _ _ _ ls _ _ _ =>
      ((ls.filter (fun l => !l.decided && clLocal s e.2 l code)).map (fun l => Instr.cl_peer_apply e.1 l.lane ⟨none, [], 0#64⟩)) ++
        [Instr.cl_complete e.1]
    | .flush _ _ => [Instr.cl_complete e.1]
    | .init _ => [Instr.copy_complete e.1 none])).flatten

/-- A list from its element `k` on and round. -/
def rotate {α : Type} (k : Nat) (xs : List α) : List α := xs.drop (k % max xs.length 1) ++ xs.take (k % max xs.length 1)

/-- Of the mailboxes and the Poleile cores (R301, R308, R313), the episodes in turn. -/
def coreHappenings (s : State) : List Instr :=
  (((List.range 9).map (fun d => ((s.die d).mailboxes.filter (fun e => !e.2.obs.isEmpty)).map (fun e =>
    Instr.observation_delivery d e.1))).flatten) ++
  ((rotate (s.wheel / 5) s.episodes).map (fun e =>
    [Instr.watchdog e.die e.core (s.pcore e.die e.core).count, Instr.await_wake e.die e.core, Instr.await e.die e.core, Instr.end_ e.die e.core, Instr.u_mode_exception e.die e.core,
      Instr.mbpop e.die e.core, Instr.mbpush e.die e.core, Instr.mbstat_read e.die e.core, Instr.episode_instruction e.die e.core])).flatten

/-- The cores in the order in which they look for a unit: first those to which an unstarted unit belongs (R356). -/
def startOrder (s : State) : List Nat :=
  let own (k : Nat) : Bool := s.grids.any (fun e => e.2.shares.any (fun h => 36 * h.die + h.core == k))
  (List.range 324).filter own ++ (List.range 324).filter (fun k => !own k)

/-- Of the estate units and the distributor tree (R222, R332, R336, R352 to R359, R370, R372, R374). -/
def treeHappenings (s : State) : List Instr :=
  ((s.deaths.map (fun w => coreOfQuad (s.warp w).quad)).dedup.map Instr.conveyance) ++
  (s.grids.map (fun e => [Instr.probate_delivery e.1, Instr.grid_complete e.1])).flatten ++
  (s.vds.map (fun e => (if e.2.mapBusy then [Instr.mapsync_done e.1] else []) ++
    (if e.2.waiting.isEmpty then [] else [Instr.event_record_release e.1]))).flatten ++
  (if s.grids.any (fun e => !e.2.dealt && !e.2.complete) then [Instr.deal] else []) ++
  (if s.grids.any (fun e => !e.2.shares.isEmpty) then
    (startOrder s).map Instr.block_start ++ ((List.range 9).map (fun d => (List.range 9).map (fun k => Instr.steal d k))).flatten
  else []) ++
  (s.warps.map (fun e => match e.2.life with
    | .rewound => (List.range 324).map (fun k => Instr.resume e.1 k)
    | .saved => (List.range 324).map (fun k => Instr.resume e.1 k)
    | _ => [])).flatten ++
  ((List.range 18).filter (fun t => !(s.stack t).head.isEmpty)).map Instr.quench_clear

/-- Every happening to look for, in order: the five groups take turns to come first. -/
def happenings (s : State) : List Instr :=
  (rotate s.wheel [warpHappenings s, memoryHappenings s, engineHappenings s, treeHappenings s, coreHappenings s]).flatten

/-- The first happening of a list that is due happens. -/
def firstDue (s : State) : List Instr → Option Out
  | [] => none
  | i :: is =>
    match exec i { s with cur := Current.none, view := none, report := .idle } with
    | .next t => if t.report = .disabled then firstDue s is else some (.next t)
    | r => some r

end

end Sys2Proof.Machine
end

