-- ==== Sys2Proof/Machine/Registers.lean ====
section
/-! DEFINITION. Reads of the host space (R6, R400 to R402): every register at its offset and width, zero elsewhere. A register that
reading changes is read by its own event. -/

namespace Sys2Proof.Machine

open Sys2Proof

/-! Registers that reading leaves as they are: the bytes of the one that starts at an offset of its block. -/

/-- The registers of the package block (R401, R405, R406, R411). -/
def packageRegister (s : State) (o : Nat) : Option (List Byte) :=
  let p := s.package
  match o with
  | 0x00 => some (le 8 (p.phase + 16 * p.error + 256 * p.errorDie))
  | 0x08 => some (zeros 8)
  | 0x10 => some (le 8 p.hv.toNat)
  | 0x18 => some (le 8 (p.kwid % 4096 + (if p.kwidSet then 4096 else 0)))
  | 0x20 => some (le 8 p.cap)
  | _ => none

/-- Entry `k` of the logical core table (R357): the good cores in ascending order, each with its die, its number there and valid. -/
def logicalCore (s : State) (k : Nat) : List Byte :=
  match (((List.range 324).filter (goodCore s))[k]?) with
  | some q => le 2 (q / 36 + 16 * (q % 36) + 2 ^ 15)
  | none => zeros 2

/-- The registers of an event counter block: a count, and its select register 8 bytes on (R398). -/
def counterRegister (cs : List Counter) (o : Nat) : Option (List Byte) :=
  (cs[o / 16]?).bind (fun n => if o % 16 = 0 then some (toBytes n.count 8) else if o % 16 = 8 then some (toBytes n.sel 8) else none)

/-- The comparators of a list, 16 bytes each (R226). -/
def comparatorRegister (xs : List (BitVec 128)) (o : Nat) : Option (List Byte) :=
  if o % 16 = 0 then (xs[o / 16]?).map (fun x => toBytes x 16) else none

/-- The registers of a core (R226, R398, R401). -/
def coreRegister (x : Core) (o : Nat) : Option (List Byte) :=
  if o < 0x100 then counterRegister x.cev o
  else if o < 0x200 then comparatorRegister x.dpc (o - 0x100)
  else comparatorRegister x.dda (o - 0x200)

/-- The registers of a controller: MCCQ, RDTHR and BLWSTK (R280, R377, R405). -/
def stackRegister (k : Stack) (o : Nat) : Option (List Byte) :=
  match o with
  | 0x00 => some (le 8 (k.threshold + 2 ^ 16 * k.depth + (if k.raised then 2 ^ 31 else 0)))
  | 0x10 => some (le 8 k.rdthr)
  | 0x18 => some (le 8 (k.budget + 2 ^ 32 * k.used + (if k.budget != 0 && decide (k.budget ≤ k.used) then 2 ^ 63 else 0)))
  | _ => none

/-- The registers of a die's block (R303, R357, R396, R398, R401, R405). -/
def dieRegister (s : State) (d o : Nat) : Option (List Byte) :=
  let x := s.die d
  if o = 0 then some (le 8 x.harvest.toNat)
  else if 0x100 ≤ o ∧ o < 0x1E0 then
    if o % 16 = 0 then (x.ecnt[(o - 0x100) / 16]?).map (fun e => le 8 e.1 ++ le 6 e.2 ++ le 2 0) else none
  else if 0x200 ≤ o ∧ o < 0x300 then counterRegister x.dev (o - 0x200)
  else if o = 0x300 then some (le 8 (x.cap + 2 ^ 12 * x.mhz))
  else if 0x1000 ≤ o ∧ o < 0x1200 then stackRegister (s.stack (2 * d + (o - 0x1000) / 0x100)) (o % 0x100)
  else if 0x10000 ≤ o ∧ o < 0x12000 ∧ o % 16 = 0 then some (toBytes (s.mailbox d ((o - 0x10000) / 16)).config 8)
  else if 0x20000 ≤ o ∧ o < 0x20000 + 36 * 0x1000 then coreRegister (s.core (36 * d + (o - 0x20000) / 0x1000)) (o % 0x1000)
  else none

/-- The registers of the security block (R401, R403). -/
def securityRegister (b : Security) (o : Nat) : Option (List Byte) :=
  match o with
  | 0x00 => some (toBytes b.sbin 8)
  | 0x08 => some (toBytes b.sbinLen 8)
  | 0x10 => some (toBytes b.sbout 8)
  | 0x18 => some (toBytes b.sboutLen 8)
  | 0x20 => some (zeros 8)
  | _ => none

/-- The registers of a VD control block (R278, R353, R366, R368, R370, R371, R388, R400, R402). -/
def controlRegister (d : VD) (o : Nat) : Option (List Byte) :=
  if o = 0 then some (le 8 (d.requester.toNat + (if d.window then 2 ^ 16 else 0) + (if d.frozen then 2 ^ 17 else 0)))
  else if o = 0x10 then some (le 2 d.weight ++ le 2 d.slice ++ le 4 0 ++ toBytes d.vtime 8)
  else if 0x40 ≤ o ∧ o < 0x60 ∧ o % 2 = 0 then (d.parts[(o - 0x40) / 2]?).map (fun x => toBytes x 2)
  else if o = 0x60 then some (toBytes d.saveBase 8)
  else if o = 0x68 then some (toBytes d.saveLen 4 ++ zeros 4)
  else if o = 0x70 then some (toBytes d.audcfg 8)
  else if o = 0x78 then some (toBytes d.audkey 8)
  else if 0x100 ≤ o ∧ o < 0x180 then comparatorRegister d.windows (o - 0x100)
  else if 0x200 ≤ o ∧ o < 0x280 ∧ o % 8 = 0 then (d.roots[(o - 0x200) / 8]?).map (fun x => toBytes x 8)
  else if o = 0x300 then some (toBytes d.mapsync 16)
  else if o = 0x318 ∨ o = 0x320 then some (zeros 8)
  else none

/-- The register of a hypervisor range that starts at an offset of the host space and that reading leaves as it is. -/
def plainRegister (s : State) (o : Nat) : Option (List Byte) :=
  if o < 0x8000 then packageRegister s o
  else if o < 0x8000 + 648 then (if o % 2 = 0 then some (logicalCore s ((o - 0x8000) / 2)) else none)
  else if 0x100000 ≤ o ∧ o < 0xA00000 then dieRegister s ((o - 0x100000) / 0x100000) (o % 0x100000)
  else if 0x1000000 ≤ o ∧ o < 0x1000030 then securityRegister s.security (o - 0x1000000)
  else if 0x8000000 ≤ o ∧ o < 0x8000000 + 1024 * 0x1000 then controlRegister (s.vd ((o - 0x8000000) / 0x1000)) (o % 0x1000)
  else none

/-! Registers that reading changes, each with the event that reads it. -/

/-- The event that reads a register of a die's block. -/
def dieRead (req : Req) (d o width : Nat) : Option (State → Out) :=
  if o = 0x40 then some (execElpop req d (width == 32))
  else if o = 0x60 ∧ width = 16 then some (execElstatRead req d)
  else if (o = 0x400 ∨ o = 0x408) ∧ width = 8 then some (execKwportRead req (2 * d + (o - 0x400) / 8))
  else if (o = 0x1008 ∨ o = 0x1108) ∧ width = 8 then some (execQstatRead req (2 * d + (o - 0x1000) / 0x100))
  else if 0x10000 ≤ o ∧ o < 0x12000 ∧ o % 16 = 8 ∧ width = 8 then some (execMbdropRead req d ((o - 0x10000) / 16))
  else none

/-- The event that reads a register of a hypervisor range, where the read changes it. -/
def changingRead (req : Req) (o width : Nat) : Option (State → Out) :=
  if o = 0x40 then some (execHvpop req (width == 32))
  else if o = 0x60 ∧ width = 8 then some (execHvstatRead req)
  else if 0x1000 ≤ o ∧ o < 0x1000 + 2592 ∧ o % 2 = 0 ∧ width = 2 then some (execQownRead req ((o - 0x1000) / 2))
  else if 0x2000 ≤ o ∧ o < 0x2000 + 576 ∧ o % 2 = 0 ∧ width = 2 then some (execSownRead req ((o - 0x2000) / 2))
  else if 0x100000 ≤ o ∧ o < 0xA00000 then dieRead req ((o - 0x100000) / 0x100000) (o % 0x100000) width
  else if o = 0x1000028 ∧ width = 8 then some (execSbstatRead req)
  else if 0x8000000 ≤ o ∧ o < 0x8000000 + 1024 * 0x1000 ∧ o % 0x1000 = 0x310 ∧ width = 8 then
    some (execMapstatRead req ((o - 0x8000000) / 0x1000))
  else none

/-- The event that reads a register of a VD window. -/
def windowEvent (req : Req) (v o width : Nat) : Option (State → Out) :=
  if 0x4000 ≤ o ∧ o < 0x4020 ∧ o % 8 = 0 ∧ width = 8 then some (execLpstatRead req v ((o - 0x4000) / 8))
  else if o = 0x5000 then some (execEvpop req v (width == 32))
  else if o = 0x5020 ∧ width = 16 then some (execVdstatRead req v)
  else if o = 0x5040 then some (execGfpop req v (width == 64))
  else if o = 0x5080 ∧ width = 8 then some (execGfstatRead req v)
  else none

/-! The read. -/

/-- A reply has the length of the access. -/
def cutReply (width : Nat) : Out → Out
  | .next s => .next { s with reply := slice s.reply 0 width }
  | x => x

/-- Bits 9 and 10 of a valid leaf as they stand (R369): the L9 writes sealed, and the controllers keep unscrubbed in step with the bits of
the page's frames. -/
def leafShown (s : State) (e : BitVec 128) : BitVec 128 :=
  let frames := (List.range (pageBytes (leafSize e) / 65536)).map (fun k => leafFrame e + k)
  let here (b : Bool) (i : Nat) : BitVec 128 := if b then 1#128 <<< i else 0#128
  (e &&& ~~~(3#128 <<< 9)) ||| here (s.sealed.get false (sealKey ⟨leafBit e 11, leafFrame e * 65536⟩)) 9 |||
    here (!leafBit e 11 && frames.any (fun f => !s.cleared.get false f)) 10

/-- A byte of HBM as the host reads it: from its home, but for the two bits of a leaf in the tables of the VD that owns the slice. -/
def hbmByte (s : State) (pa : Nat) : Byte :=
  let raw := s.readMem (homeDie pa) ⟨false, pa⟩
  let own := s.package.sown.get 0#16 (sliceOf pa)
  if pa % 16 ≠ 1 ∨ !own.getLsbD 10 then raw
  else match (tableEntries s (field own 0 10).toNat).find? (fun e => e.1 == pa / 16 * 16 && leafBit e.2 1) with
    | some e => byteOf (leafShown s e.2) 1
    | none => raw

/-- A read of the HBM window (R402): the bytes, zero beyond the last slice; the clear of an unscrubbed frame moves to the head (R374). What a
read of a fenced die's memory returns is open: the spec says only that it is unreachable (R393). -/
def hbmRead (s : State) (pa n : Nat) : List Byte × State :=
  let inside := (List.range n).filter (fun k => decide (pa + k < 288 * 2 ^ 32))
  let byte (k : Nat) : Byte :=
    if 288 * 2 ^ 32 ≤ pa + k then 0#8
    else if (s.die (homeDie (pa + k))).fenced then field (Config.freeWord (s.free + k)) 0 8
    else hbmByte s (pa + k)
  ((List.range n).map byte, inside.foldl (fun s k => s.touchFrame (pa + k)) { s with free := s.free + n })

/-- A read of the host space by a requester, at an offset, of so many bytes (R6, R400 to R402): one aligned access of a register's own width
answers the register; any other answers zero and changes nothing. -/
def hostRead (req : Req) (o width : Nat) (s : State) : Out :=
  if 2 ^ 48 ≤ o then hvRead s req width (fun s => hbmRead s (o - 2 ^ 48) width)
  else if 0x10000000 ≤ o ∧ o < 0x10000000 + 1024 * 0x10000 then
    let v := (o - 0x10000000) / 0x10000
    cutReply width (((windowEvent req v (o % 0x10000) width).getD (fun s => windowRead s req v width (fun s => (zeros width, s)))) s)
  else if !hvRange o then did (answer s (zeros width))
  else
    match changingRead req o width with
    | some f => cutReply width (f s)
    | none => hvRead s req width (fun s =>
        match plainRegister s o with
        | some bs => (if bs.length = width then bs else zeros width, s)
        | none => (zeros width, s))

end Sys2Proof.Machine
end

