-- ==== Sys2Proof/Machine/Peers.lean ====
section
/-! DEFINITION. Packets of other packages (R29, R268, R276, R277, R279, R294, R410): what arrives over a Kwaisk port is translated, checked
and performed here, and answered. -/

namespace Sys2Proof.Machine

open Sys2Proof

/-- What a packet's answer holds: a cause, 0 for none, and for a read the value with its poison, the owner mask of its granule, and the page's
floating state and ceiling (R29, R279). -/
structure Answer where
  cause : Nat
  poison : Bool
  owners : OwnerSet
  floating : Bool
  ceiling : OwnerSet
  value : List Byte
  deriving DecidableEq, Repr

/-- The access was applied. -/
def Answer.ok : Answer := ⟨0, false, 0#64, false, 0#64, []⟩
/-- The access was refused with a cause (R277). -/
def Answer.refused (cause : Nat) : Answer := { Answer.ok with cause := cause }

/-- The bytes of an answer: cause, flags, owner mask, ceiling, value. -/
def Answer.bytes (a : Answer) : List Byte :=
  le 1 a.cause ++ le 1 ((if a.poison then 1 else 0) + (if a.floating then 2 else 0)) ++ zeros 6 ++ toBytes a.owners 8 ++ toBytes a.ceiling 8 ++ a.value

/-- The packet is answered. -/
def reply (s : State) (a : Answer) : State := answer s a.bytes

/-- The answer with which an access ends that a translation refuses. -/
def unmapped (s : State) (e : AccessFault) : Option State := some (reply s (.refused e.cause))

/-- A write (R36, R51): it enters by the ingress, and its home checks its label and applies it; none while it has to wait. -/
def takePut (p : Packet) (lbl : Label) (bs : List Byte) (s : State) : Option State :=
  match s.translate (.die 0) p.vd p.va .write true true with
  | (.error e, s) => unmapped s e
  | (.ok g, s) =>
    let t := s.issueFlight (State.mkFlight 0 10 p.vd g.loc p.va (.store bs) lbl 0#64 0#32 5 0) id
    if !t.dominates p.vd (t.pageLabel (homeDie g.loc.pa) g) lbl then some (reply s (.refused 6))
    else
      match execStoreApplyAtHome s.flightSerial t with
      | .next u => if u.report = .done then some (reply u .ok) else none
      | _ => none

/-- A read (R294), or the fetch of a window's line (R279): the home's bytes with their label, once the home has applied what they follow. -/
def takeGet (p : Packet) (n : Nat) (s : State) : Option State :=
  match s.translate (.die 0) p.vd p.va .read false true with
  | (.error e, s) => unmapped s e
  | (.ok g, s) =>
    let h := homeDie g.loc.pa
    if !g.loc.host && !s.caughtUp h (clockMax (s.clockOf h) (s.clockOf 10)) then none
    else some (reply s ⟨0, !g.loc.host && s.poisoned.get false (granule g.loc.pa), s.ownersOf p.vd (s.pageLabel h g), g.floating,
      s.ownersOf p.vd g.ceiling, s.readLoc h g.loc n⟩)

/-- An arrival on a barrier object (R271), for which a floating granule is raised by R42. -/
def takeSignal (p : Packet) (lbl : Label) (n : Nat) (s : State) : Option State :=
  let d : Doer := ⟨0, p.vd, 0, 10, 0, 0, 0#64, 0#32, 5, 0⟩
  if !objReady s d false p.va then none
  else
    match objArrive s d true false p.va n lbl with
    | (.ok _, s) => some (reply s .ok)
    | (.error (e, _), s) => some (reply s (.refused e))

/-- An atomic at its target; the old value is answered with the label that its granule has then (R42, R294). -/
def performFor (p : Packet) (lbl : Label) (op ty lane : Nat) (b cmp key base : DWord) (tgt : Target) (s : State) : State :=
  let a : AtomLane := { lane := lane, tgt := tgt, va := p.va, b := b, cmp := cmp, ctr := base + BitVec.ofNat 64 lane, lbls := [lbl], clk := s.clockOf 10 }
  match performAtoms ⟨0, p.vd, 5, 0⟩ op ty key [a] s with
  | (.error (_, _, e), s) => reply s (.refused e.cause)
  | (.ok (old, after), s) =>
    reply s { Answer.ok with owners := s.ownersOf p.vd (after.get 0#8 lane), value := toBytes ((SMap.get? old lane).getD 0#64) (atomBytes ty) }

/-- CL.RED, CL.ATOM, CL.DRAW, or an atomic inside a window (R279, R294); none while causal order, a clear or a line on its way home holds it
back. -/
def takeAtomic (p : Packet) (lbl : Label) (op ty lane : Nat) (b cmp key base : DWord) (s : State) : Option State :=
  match s.window p.vd p.va with
  | some x =>
    if winBusy s p.vd p.va.toNat then none
    else if (field x 80 12).toNat ≠ s.package.kwid then some (performFor p lbl op ty lane b cmp key base (.win p.va.toNat) s)
    else
      match s.translate (.die 0) p.vd p.va .atomic true false with
      | (.error e, s) => unmapped s e
      | (.ok _, s) => some (performFor p lbl op ty lane b cmp key base (.win p.va.toNat) s)
  | none =>
    match s.translate (.die 0) p.vd p.va .atomic true true with
    | (.error e, s) => unmapped s e
    | (.ok g, s) =>
      let h := homeDie g.loc.pa
      if s.blocked g.loc ∨ (s.die h).fenced ∨ !s.caughtUp h (clockMax (s.clockOf h) (s.clockOf 10)) then none
      else some (performFor p lbl op ty lane b cmp key base (.mem g.loc) (s.tick 10 1))

/-- A window's line that a switch writes back, homed here (R279). -/
def takeLine (p : Packet) (gen : Nat) (bytes : List Byte) (s : State) : Option State :=
  (homeLine s ⟨0, p.vd, p.va.toNat / 64 * 64, s.package.kwid, slice bytes 0 64, p.owners, false, 0#64, gen⟩).map (fun t => reply t .ok)

/-- Whether a packet's access has a size and an alignment that some access has (R186, R268, R294): within a line, and aligned where an
atomic is. -/
def Packet.fits (p : Packet) : Bool :=
  let inLine (n : Nat) : Bool := n != 0 && decide (p.va.toNat % 64 + n ≤ 64)
  match p.op with
  | .put bs => inLine bs.length
  | .get n => inLine n
  | .signal _ => p.va.toNat % 32 == 0
  | .atomic op ty lane _ _ _ _ => decide (op < 10) && decide (ty < 6) && decide (lane < 32) && p.va.toNat % atomBytes ty == 0
  | .writeBack _ _ => p.va.toNat % 64 == 0

/-- A packet is taken at its port (R29, R277, R410): a port that is down or frozen drops it; one that names no live VD freezes its port; any
other has its owner mask mapped to a handle and is performed. None while it has to wait, as it does while the VD's translations are being
synced (R370) (what a packet holds: DESIGN CHOICE, log entry 84). -/
def takePacket (p : Packet) (s : State) : Option State :=
  let port := ((s.die (p.port / 2)).ports[p.port % 2]?).getD ⟨false, false, 0, 0, 0#32⟩
  if !port.up ∨ port.frozen then some (answer s [])
  else if 1024 ≤ p.vd ∨ (s.vd p.vd).state = 0 then
    some (answer (freezeRecord (modPortK s p.port (fun x => { x with frozen := true })) 0xFFFF) [])
  else if !p.fits then some (reply s (.refused AccessFault.align.cause))
  else if (s.vd p.vd).mapBusy then none
  else
    let (lbl, t) := internPacket s p.vd p.owners
    match p.op with
    | .put bs => takePut p lbl bs t
    | .get n => takeGet p n s
    | .signal n => takeSignal p lbl n t
    | .atomic op ty lane b cmp key base => takeAtomic p lbl op ty lane b cmp key base t
    | .writeBack gen bytes => takeLine p gen bytes s

end Sys2Proof.Machine
end

