-- ==== Sys2Proof/Machine/Group.lean ====
section
/-! DEFINITION. Issue opportunities: fetching a line (R84, R87), issuing a group or a pair (R102, R103, R108), delivery faults (R189),
PC comparators (R227), and the choice of a sub-warp (R137, R142). -/

namespace Sys2Proof.Machine

open Sys2Proof

noncomputable section

/-! Issuing. -/

/-- A trap of a group that is not well-formed. -/
def groupTrap (u : SubWarp) (cause : Nat) (pc : DWord) (slot : Nat) : TrapInfo :=
  ⟨cause, pc, 0#64, u.mask, slot, 0, false, 0#32, 0#32, [], [], none, false⟩

/-- A group stops before its instruction acts. -/
def stopGroup (s : State) (u : SubWarp) (x : Stop) : Out := .next { takeStop s u x with cur := s.cur }

/-- The instructions that a cue sheet may hold (R220): ALU and move instructions, LD, LDS, LDX, WAITC, STS, RETT, and NOP with the
hints, which have no effect (R106, R107) (NOP and hints: DEDUCED, log entry 59). -/
def sheetAllows (i : Instr) : Bool :=
  match i.parts with
  | none => false
  | some p =>
    let c := p.code.toNat
    if p.page1 then (decide (1 ≤ c) && decide (c ≤ 0x10)) || c == 0x1A
    else decide (c ≤ 0x31) || [0x47, 0x49, 0x4A, 0x4D, 0x4E, 0x77, 0x78, 0x79, 0x7A].contains c

/-- Whether an instruction names a main register that its warp does not have (R90). -/
def pastRegs (s : State) (i : Instr) : Bool :=
  match i.mainReg with
  | some n => decide ((s.record s.cur.warp).regs ≤ n)
  | none => false

/-- Run one instruction of the group at `s.cur`; one that names a main register past the warp's registers traps ILLEGAL at its second word
(R90, R108 step 6), as does, in a cue sheet, another than R220 lists. -/
def runInstr (i : Instr) (s : State) : Out :=
  match (s.warp s.cur.warp).sub s.cur.sub with
  | some u =>
    if pastRegs s i then stopGroup s u (.trap (groupTrap u 0 s.cur.pc (s.cur.slot + 1)))
    else if (s.warp s.cur.warp).sheet && !sheetAllows i then stopGroup s u (.trap (groupTrap u 0 s.cur.pc s.cur.slot))
    else exec i s
  | none => exec i s

/-- Try an instruction: the state that it would leave and the reason it would stop, or why the machine stops. -/
def tryInstr (i : Instr) (s : State) : Except Out (State × Option Stop) :=
  match runInstr i { s with cur := { s.cur with probe := true }, stopped := none } with
  | .next t => .ok ({ t with cur := s.cur, stopped := none }, t.stopped)
  | r => .error r

/-- The trap of a stop, where it is one: a park is one where the launch parks nothing (R216). -/
def Stop.trap? (park : Bool) : Stop → Option TrapInfo
  | .trap t => some t
  | .label t _ _ => some t
  | .park t _ => if park then none else some t
  | _ => none

/-- Whether a stop holds the group until its sub-warp is tried again (R103). -/
def Stop.holds : Stop → Bool
  | .wait => true
  | .lock _ _ => true
  | _ => false

/-- A trap stop with further causes for %tc (R103). -/
def Stop.withAlso (cs : List Nat) : Stop → Stop
  | .trap t => .trap { t with also := cs ++ t.also }
  | .label t m b => .label { t with also := cs ++ t.also } m b
  | .park t a => .park { t with also := cs ++ t.also } a
  | x => x

/-- The stop of a pair both of whose members stop, the first in slot order first (R103): while one of them has to wait the pair waits;
comparators that either meets halt it; of traps the first is taken with the causes of both; a trap comes before a park (the order of the stops: DEDUCED, log entry 42). -/
def pairStop (park : Bool) (x y : Stop) : Stop :=
  if x.holds then x
  else if y.holds then y
  else
    match x, y with
    | .halt p d, .halt q e => .halt (p ++ q) (d ++ e)
    | .halt p d, _ => .halt p d
    | _, .halt q e => .halt q e
    | _, _ =>
      match x.trap? park, y.trap? park with
      | some _, some t => x.withAlso (t.cause :: t.also)
      | none, some _ => y
      | _, _ => x

/-- The state on which the second member of a pair is tried whose first one stops: the label table as the first one's checks leave it
(R25). -/
def afterStop (s : State) : Stop → State
  | .label _ table sat => keepTable s s.cur.warp table sat
  | _ => s

/-- The second member of a pair: it reads registers and latches as they stood before the pair (R103). -/
def atSecond (s t : State) (pc2 : DWord) (slot2 : Nat) : State :=
  { t with cur := { s.cur with pair := 2, pc := pc2, slot := slot2 }, view := some (s.warp s.cur.warp, s.quad s.cur.quad) }

/-- Issue a legal pair (R103): both members are tried first, and a stop of either stops both. -/
def runPair (a b : Instr) (s : State) (u : SubWarp) (pc2 : DWord) (slot2 : Nat) : Out :=
  let park := (s.record s.cur.warp).park
  match tryInstr a { s with cur := { s.cur with pair := 1 } } with
  | .error r => r
  | .ok (t1, stop1) =>
    match tryInstr b (atSecond s ((stop1.map (afterStop s)).getD t1) pc2 slot2) with
    | .error r => r
    | .ok (t2, stop2) =>
      match stop1, stop2 with
      | none, none => .next { t2 with view := none }
      | some x, some y => stopGroup s u (pairStop park x y)
      | some x, none => stopGroup s u x
      | none, some y => stopGroup s u y

/-- A pair whose second member is refused (R102, R103): the trap of the first member, with ILLEGAL beside it; otherwise ILLEGAL at the second
member. -/
def runBadPair (a : Instr) (s : State) (u : SubWarp) (t : TrapInfo) : Out :=
  match tryInstr a { s with cur := { s.cur with pair := 1 } } with
  | .error r => r
  | .ok (_, stop) =>
    match stop.bind (fun x => (x.trap? (s.record s.cur.warp).park).map (fun _ => x)) with
    | some x => stopGroup s u (x.withAlso [t.cause])
    | none => stopGroup s u (.trap t)

/-- The enabled PC comparators of a core that match (R226, R227). -/
def dpcMatch (s : State) (core : Nat) (pc : DWord) (v : Nat) (on : LaneMask) : List Nat :=
  (List.range 8).filter (fun n =>
    let r := (((s.core core).dpc)[n]?).getD 0#128
    r.getLsbD 107 && (s.vd v).debug && (field r 2 62) == field pc 2 62 && (field r 64 32 &&& on) != 0#32 &&
    (if r.getLsbD 106 then field r 96 10 == BitVec.ofNat 10 v else s.security.life == 0))

/-- A group that reads a latch goes on with a run (R137). -/
def groupReads (s : State) (q v : Nat) (pc : DWord) : Bool :=
  match (fetchLine s q v (lineBase pc)).1 with
  | .ok ws =>
    match decodeGroup ws (lineBase pc) (lineSlot pc) with
    | .ok i n =>
      i.readsLatch || (pairBit ws (lineSlot pc) &&
        (match decodeGroup ws (lineBase pc) (lineSlot pc + n) with
        | .ok j _ => j.readsLatch
        | .bad _ => false))
    | .bad _ => false
  | _ => false

/-- Step 6 of R108 refuses a group, or an earlier step does: the cause is ILLEGAL. -/
def badSlot : Bad → Nat
  | .straddle k => k
  | .badPair k => k
  | .fields k => k

/-- The PC that a refused group's rule names (R86, R102, R84). -/
def badPc (base pc : DWord) : Bad → DWord
  | .straddle k => slotPc base k
  | _ => pc

/-- Issue the group of a decoded line. -/
def runDecoded (s : State) (u : SubWarp) (ws : List Word) : Out :=
  let pc := s.cur.pc
  let base := lineBase pc
  let k := lineSlot pc
  match decodeGroup ws base k with
  | .bad b => stopGroup s u (.trap (groupTrap u 0 (badPc base pc b) (badSlot b)))
  | .ok i n =>
    let on := u.mask &&& (predicate s s.cur.warp i.pfx).1
    match (if u.matched then [] else dpcMatch s (coreOfQuad s.cur.quad) pc (s.warp s.cur.warp).vd on) with
    | m :: ms => stopGroup s u (.halt (m :: ms) [])
    | [] =>
      if pairBit ws k then
        match decodeGroup ws base (k + n) with
        | .ok j m => runPair i j { s with cur := { s.cur with next := nextPc pc (n + m) } } u (slotPc base (k + n)) (k + n)
        | .bad b => runBadPair i s u (groupTrap u 0 (slotPc base (k + n)) (badSlot b))
      else runInstr i { s with cur := { s.cur with next := nextPc pc n, slot := k + runLength ws 15 k } }

/-- The group at a sub-warp's PC issues: its line is fetched first; a second parity mismatch is consumed on the channel of fetch (R387,
R395). -/
def fetchIssue (s : State) (w : Nat) (u : SubWarp) : Out :=
  let x := s.warp w
  match fetchLine s x.quad x.vd (lineBase u.pc) with
  | (.ok ws, s) => runDecoded s u ws
  | (.bad, s) =>
    if s.cur.probe then .next { s with stopped := some (.trap (groupTrap u 18 u.pc (lineSlot u.pc))) }
    else .next (takeTrapOn 7 (takeLatches s u) w u.id (groupTrap u 18 u.pc (lineSlot u.pc)))
  | (.fault e, s) =>
    let t := { groupTrap u e.cause u.pc (lineSlot u.pc) with addr := lineBase u.pc, step := e.step }
    stopGroup s u (if e = .xlate then .park t 0 else .trap t)

/-- What an issue opportunity does with a sub-warp (R108): a failed joint operation that waits for it is raised; otherwise its group
issues. -/
def issueNext (s : State) (w : Nat) (u : SubWarp) : Out :=
  match (s.warp w).pending.find? (fun t => t.1 == u.pc) with
  | some t =>
    if s.cur.probe then .next { s with stopped := some (.trap t.2) }
    else .next (takeTrap ((takeLatches s u).modWarp w (fun y => { y with pending := y.pending.filter (fun r => r != t) })) w u.id t.2)
  | none => fetchIssue s w u

/-- An issue opportunity of a sub-warp: a delivery fault that waits for it comes first (R189); in handler mode the fault is recorded, and the
handler's group issues (R214). -/
def issueSub (s : State) (w : Nat) (u : SubWarp) : Out :=
  let x := s.warp w
  let s := { s with cur := ⟨w, u.id, u.pc, u.pc, x.quad, lineSlot u.pc, 0, s.cur.probe⟩, view := none, report := .idle }
  match deliveryFor x u with
  | some d =>
    if s.cur.probe then (if x.handler then issueNext s w u else .next s)
    else if x.handler then issueNext (raiseDelivery s w u d) w u
    else .next (raiseDelivery s w u d)
  | none => issueNext s w u

/-- Whether a waiting sub-warp's group could now go on (R132, R142). -/
def couldGo (s : State) (w : Nat) (u : SubWarp) : Bool :=
  match issueSub { s with cur := { Current.none with probe := true }, stopped := none } w u with
  | .next t => (match t.stopped with
    | some .wait => false
    | some (.lock _ _) => false
    | _ => true)
  | _ => true

/-! The choice of a sub-warp (R142). -/

/-- Whether a warp may issue: its block not frozen, its die not fenced, its VD not paused (R364) nor syncing its translations (R370), and no
pre-emption request waiting (R221). -/
def mayIssue (s : State) (w : Nat) : Bool :=
  let x := s.warp w
  x.evict == 0 && !x.stopped && !(s.block x.grid x.block).frozen && !(s.die (dieOfQuad x.quad)).fenced && (s.vd x.vd).state != 3 &&
  !(s.vd x.vd).mapBusy

/-- Whether a sub-warp is the one that entered the handler, or comes from it by splits (R212): `n` bounds the entries followed. -/
def inHandler (x : Warp) : Nat → SubId → Bool
  | 0, i => i == x.handlerSub
  | n + 1, i => i == x.handlerSub || (match i with
    | some (e, _) => (match x.splits.get? e with
      | some z => inHandler x n z.parent
      | none => false)
    | none => false)

/-- Whether a sub-warp of a warp may issue: in handler mode one that the handler runs (R212); of a warp that is being saved, one whose joint
operation has been released and has still to be passed (R237). -/
def subMay (s : State) (x : Warp) (u : SubWarp) : Bool :=
  match x.life with
  | .resident => !x.handler || inHandler x 16 u.id
  | .saving => (s.quad x.quad).rendezvous.any (fun m => m.warp == x.serial && m.done && m.group == u.pc)
  | _ => false

/-- The sub-warps of a quadrant that are ready or wait. -/
def candidates (s : State) (q : Nat) : List (Nat × SubWarp) :=
  ((s.warps.filter (fun e => e.2.quad == q && mayIssue s e.1)).map (fun e =>
    (e.2.subs.filter (fun u => subMay s e.2 u)).map (fun u => (e.1, u)))).flatten

/-- Ready (R142). -/
def SubWarp.ready (u : SubWarp) : Bool := u.hold == .ready

/-- Waiting at issue (R132). -/
def SubWarp.waits (u : SubWarp) : Bool :=
  match u.hold with
  | .waiting => true
  | .locking _ _ => true
  | _ => false

/-- Wake the waiting sub-warps of a quadrant whose wait has ended, in the order of their stamps. -/
def wakeWaiting (s : State) (q : Nat) : State :=
  (sortOn (fun p => p.2.stamp) ((candidates s q).filter (fun p => p.2.hold == .waiting))).foldl
    (fun s p => if couldGo s p.1 p.2 then makeReady s p.1 p.2 else s) s

/-- The sub-warp that rules 1 to 3 of R142 choose. -/
def choose (s : State) (q : Nat) : Option (Nat × SubWarp) :=
  let c := (candidates s q).filter (fun p => p.2.ready)
  let keep : Option (Nat × SubWarp) := match (s.quad q).run with
    | some (w, i, n) => c.find? (fun p => p.1 == w && p.2.id == i && decide (n < 32) && groupReads s q (s.warp w).vd p.2.pc)
    | none => none
  match keep with
  | some p => some p
  | none =>
    let top := c.foldl (fun m p => max m (s.record p.1).priority) 0
    (c.filter (fun p => (s.record p.1).priority == top)).foldl (fun b p =>
      match b with
      | none => some p
      | some r => if p.2.stamp < r.2.stamp then some p else some r) none

/-- The run of a quadrant after an opportunity at which a sub-warp's group issued (R137): it goes on, or begins; one that leaves its
sub-warp not ready is at its end. -/
def noteRun (s : State) (q w : Nat) (i : SubId) (reads : Bool) : State :=
  let stays := s.report == .done && (((s.warp w).sub i).map SubWarp.ready).getD false
  s.modQuad q (fun x => { x with run :=
    if !stays then none
    else
      match x.run with
      | some (w', i', n) => if reads && w' == w && i' == i then some (w, i, n + 1) else some (w, i, 1)
      | none => some (w, i, 1) })

/-- Offer the opportunity to the chosen sub-warp; one whose group waits is passed over for the next (R142). None when no sub-warp of
the quadrant can issue; the state then still notes who waits. -/
def offer (q : Nat) : Nat → State → Option Out × State
  | 0, s => (none, s)
  | n + 1, s =>
    match choose s q with
    | none => (none, s)
    | some (w, u) =>
      let reads := groupReads s q (s.warp w).vd u.pc
      match issueSub s w u with
      | .next t =>
        if t.report = .wait then offer q n { t with cur := Current.none }
        else
          let t := noteRun t q w u.id reads
          let t := if t.report = .done then countCore t (coreOfQuad q) 1 (s.warp w).vd else t
          (some (.next { t with cur := Current.none, view := none }), s)
      | r => (some r, s)

/-- An issue opportunity of a quadrant; one at which nothing issues ends the run (R137). -/
def opportunity (s : State) (q : Nat) : Option Out × State :=
  let s := wakeWaiting { s with opportunity := s.opportunity + 1, cur := Current.none } q
  match offer q ((candidates s q).length + 1) s with
  | (some r, s) => (some r, s)
  | (none, s) => (none, s.modQuad q (fun x => { x with run := none }))

/-- The quadrants that hold warps, from quadrant `r` on and round. -/
def busyQuads (s : State) (r : Nat) : List Nat :=
  let qs := sortOn id ((s.warps.map (fun e => e.2.quad)).dedup)
  qs.filter (fun q => decide (r ≤ q)) ++ qs.filter (fun q => decide (q < r))

/-- The first of the quadrants that can issue does. -/
def issueSome : List Nat → State → Option Out × State
  | [], s => (none, s)
  | q :: qs, s =>
    match opportunity s q with
    | (some r, _) => (some (match r with
      | .next t => .next { t with rotor := q + 1 }
      | r => r), s)
    | (none, s) => issueSome qs s

/-- The happening that is due next: a running MIGOUT comes further (R376), else the first of the engines' own. -/
def nextHappening (s : State) : Option Out :=
  match prepareStream s with
  | some t => some (.next { t with report := .done })
  | none => firstDue s (happenings s)

/-- A happening, then the turn of the quadrants; the next group of engines comes first the next time. -/
def happen (s : State) : Option Out :=
  (nextHappening s).map (fun r => match r with
    | .next t => .next { t with turn := false, wheel := s.wheel + 1 }
    | r => r)

/-- An issue opportunity of some quadrant, then the turn of the engines. -/
def issueTurn (s : State) : Option Out × State :=
  match issueSome (busyQuads s s.rotor) { s with report := .idle } with
  | (some (.next t), s) => (some (.next { t with turn := true }), s)
  | r => r

/-- The engines and the quadrants take turns: a happening that is due, or an issue opportunity of the next quadrant that can issue; either
goes on when the other has nothing to do. -/
def runOn (s : State) : Out :=
  match (if s.turn then happen s else none) with
  | some r => r
  | none =>
    match issueTurn s with
    | (some r, _) => r
    | (none, s) => (happen s).getD (.next { s with report := .idle })

/-- One step: the first act of the agenda, a packet that has to wait keeping its place; with none, the machine runs on by itself. -/
def stepOnce (s : State) : Out :=
  match s.agenda with
  | .event i :: rest => exec i { s with agenda := rest, cur := Current.none, view := none, report := .idle }
  | .read req o width :: rest => hostRead req o width { s with agenda := rest, cur := Current.none, view := none, report := .idle }
  | .packet p :: rest =>
    match takePacket p { s with agenda := rest, cur := Current.none, view := none, report := .idle } with
    | some t => .next { t with report := .done }
    | none => runOn s
  | .issue q :: rest =>
    match opportunity { s with agenda := rest, report := .idle } q with
    | (some r, _) => r
    | (none, s) => .next { s with report := .idle }
  | [] => runOn s

end

end Sys2Proof.Machine
end

