-- ==== Sys2Proof/Machine/Load.lean ====
section
/-! DEFINITION. Placing instruction words where the next step fetches them: a line with its parity (R85), and for a package that
runs no warp yet the tenant, page, grid, block and warp that run it (R12, R20, R23, R364, R369). -/

namespace Sys2Proof.Machine

open Sys2Proof

noncomputable section

/-- The line word of fifteen slots: no target, no pair, and the three parity bits (R85). -/
def lineWordOf (ws : List Word) : Word :=
  (if parityOf (ws.take 5) then 0x20000000#32 else 0#32) ||| (if parityOf ((ws.drop 5).take 5) then 0x40000000#32 else 0#32) |||
  (if parityOf ((ws.drop 10).take 5) then 0x80000000#32 else 0#32)

/-- A line with the words `ws` from slot `k` on; the other slots as in `old`. -/
def placeLine (old ws : List Word) (k : Nat) : List Word :=
  let slots := (List.range 15).map (fun j => if k ≤ j ∧ j < k + ws.length then (ws[j - k]?).getD 0#32 else (old[j]?).getD 0#32)
  slots ++ [lineWordOf slots]

/-- The bytes of a line. -/
def lineBytes (ws : List Word) : List Byte := (ws.map (fun w => toBytes w 4)).flatten

/-- Put bytes into the copy of a die at a physical address, its frame cleared. -/
def pokeDie (s : State) (d pa : Nat) (bs : List Byte) : State :=
  { s.modDie d (fun x => { x with copy := { x.copy with bytes := writeBytes x.copy.bytes pa bs } }) with
    cleared := s.cleared.set false (frameOf pa) true, poisoned := s.poisoned.set false (granule pa) false }

/-- The record of the one-warp grid: code at virtual address 0x10000, 32 lanes, no handler. -/
def loaderRecord : LaunchRec := { LaunchRec.none with code := 0x10000#64, blocks := 1, lanes := 32 }

/-- The leaf of the code page: 64 KiB at virtual address 0x10000 in frame 1 of slice 0, read and execute. -/
def loaderLeaf : Leaf := ⟨1, 0x10000, 0, (1#128 <<< 64) ||| 0x93#128⟩

/-- A package in which VD 1 runs the one-warp grid 1 on quadrant 0, its code page in the quadrant's TLB. -/
def loaderState (s : State) : State :=
  let s := { s with
    package := { s.package with
      phase := 7, sown := s.package.sown.set 0#16 0 1025#16, qown := s.package.qown.set 0#16 0 256#16
      holder := s.package.holder.put 0 1, gridSerial := 2, warpSerial := 2, vdSerial := 2 } }
  let s := s.modQuad 0 (fun q => { q with tlb := [loaderLeaf] })
  let s := s.setVd 1 { VD.free with state := 1, gen := 1, created := 1, parts := 256#16 :: List.replicate 15 0#16 }
  let s := s.setGrid 1 { Grid.none with serial := 1, vd := 1, gen := 1, record := loaderRecord, dealt := true, complete := false }
  let s := s.setBlock 1 0 { Block.none with grid := 1, warps := [1] }
  s.setWarp 1 (Warp.start 1 1 0 0 1 0 loaderRecord)

/-- The sub-warp that would issue next. -/
def nextSub (s : State) : Option (Nat × SubWarp) := (busyQuads s s.rotor).findSome? (fun q => choose s q)

/-- Place words at the PC of a ready sub-warp: in its die's copy and in the home's. -/
def placeAt (s : State) (w : Nat) (u : SubWarp) (ws : List Word) : State :=
  let x := s.warp w
  let d := dieOfQuad x.quad
  let base := lineBase u.pc
  match s.translate (.quad x.quad) x.vd base .exec false true with
  | (.ok p, s) =>
    let old := lineWords (s.readLoc d p.loc 64)
    let bs := lineBytes (placeLine old ws (lineSlot u.pc))
    let s := s.modQuad x.quad (fun q => { q with badLines := q.badLines.filter (fun b => b != base.toNat) })
    if p.loc.host then { s with hostMem := { s.hostMem with bytes := writeBytes s.hostMem.bytes p.loc.pa bs } }
    else pokeDie (pokeDie s (homeDie p.loc.pa) p.loc.pa bs) d p.loc.pa bs
  | (.error _, s) => s

/-- Place words where the next step fetches; with no ready sub-warp, in the loader's grid. -/
def placeWords (s : State) (ws : List Word) : State :=
  match nextSub s with
  | some (w, u) => placeAt { s with agenda := [.issue (s.warp w).quad] } w u ws
  | none => placeAt { loaderState s with agenda := [.issue 0] } 1 ⟨none, BitVec.allOnes 32, 0#8, 0x10000#64, 0, .ready, false⟩ ws

end

end Sys2Proof.Machine
end

