-- ==== Sys2Proof/Machine/Step.lean ====
section
/-! DEFINITION. The step of the machine, and the machine with one instruction placed where the step fetches next. -/

namespace Sys2Proof.Machine

open Sys2Proof

noncomputable section

/-- One step: the next act of the agenda, an issue opportunity, or an engine's own happening. -/
def step (s : State) : Host.Outcome State Fault Refusal := stepOnce s

/-- `s` with the instruction whose bits are `w` (bits above `nbits` zero) where the next step fetches: it stands for the host's
bring-up, VDCREATE, mapping and launch of a one-warp grid where no warp is ready in `s`. -/
def State.withFetchWord (s : State) (nbits w : Nat) : State := placeWords s (wordsOfNat 3 (w % 2 ^ nbits))

end

end Sys2Proof.Machine
end

