-- ==== Sys2Proof/Safety.lean ====
section
/-! DEFINITION. The terms in which claims about the machine are stated: an instruction that takes its effect, operands that can be
read, the named registers of a warp, and what a step leaves as it was. -/

namespace Sys2Proof.Machine

open Sys2Proof

/-- The sub-warp whose group stands at `s.cur`. -/
def State.issuer (s : State) : Option SubWarp := (s.warp s.cur.warp).sub s.cur.sub

/-- The group of a sub-warp with prefixes `p` may act: the sub-warp exists, PFX.K's label passes its check (R96), and no register of PFX.RS's
key is poisoned (R224). -/
structure Issues (s : State) (p : Pfx) (u : SubWarp) : Prop where
  sub : s.issuer = some u
  predicate : ∃ t, checkPfx (mkCtx s u p) p (takeLatches s u) = .ok ((), t)

/-- The step answers a next state, in which the group has taken its effect: it has neither trapped, nor waited, nor been refused. -/
def Completes (i : Instr) (s t : State) : Prop := exec i s = .next t ∧ t.report = .done

/-- The step takes the trap with that cause (R209): a next state too. -/
def Traps (i : Instr) (s t : State) (cause : Nat) : Prop := exec i s = .next t ∧ t.report = .trap cause

/-- An instruction can read its sources: main-file registers exist (R90), latches are valid and the sub-warp's own (R135), and no
lane of `lanes` reads poison (R224). -/
structure Readable (s : State) (c : Ctx) (xs : List Src) (lanes : LaneMask) : Prop where
  main : ∀ n, Src.main n ∈ xs → n < (s.record c.w).regs
  latch : ∀ x ∈ xs, badLatch s c x = false
  clean : ∀ i x, hasLane lanes i = true → x ∈ xs → (srcReg s c x i).poison = false

/-- A main-file destination exists (R90). -/
def Writable (s : State) (c : Ctx) (d : Dst) : Prop := ∀ n, d = .v n → n < (s.record c.w).regs

/-- The name of a register of a warp: operand or main file in a lane, or uniform. -/
inductive RegName where
  | o (n lane : Nat)
  | v (n lane : Nat)
  | s (n : Nat)
  deriving DecidableEq, Repr

/-- Register `n` of a lane file in a lane; there are 32 lanes. -/
def laneReg (f : SMap Reg) (n i : Nat) : Reg := if i < 32 then f.get Reg.zero (32 * n + i) else Reg.zero

/-- A register's value and poison mark. -/
def Warp.reg (x : Warp) : RegName → Word × Bool
  | .o n i => ((laneReg x.o n i).val, (laneReg x.o n i).poison)
  | .v n i => ((laneReg x.v n i).val, (laneReg x.v n i).poison)
  | .s n => (((x.s[n]?).getD Reg.zero).val, ((x.s[n]?).getD Reg.zero).poison)

/-- The bits of a lane-mask register. -/
def Warp.mask (x : Warp) (n : Nat) : Word := ((x.k[n]?).getD MaskReg.zero).bits

/-- The name of register `j` of a destination in a lane. -/
def Dst.name (d : Dst) (j i : Nat) : Option RegName :=
  match d with
  | .o n => some (.o (n + j) i)
  | .v n => some (.v (n + j) i)
  | .u n => some (.s (n + j))
  | .none => Option.none

/-- The registers that a destination of `n` registers names in the lanes of `lanes`. -/
def Dst.names (d : Dst) (n : Nat) (lanes : LaneMask) (r : RegName) : Prop :=
  ∃ j i, j < n ∧ hasLane lanes i = true ∧ d.name j i = some r

/-- Register `j` of a destination holds a value in a lane; a destination that discards its result holds none. -/
def Dst.has (d : Dst) (x : Warp) (j lane : Nat) (v : Word) : Prop :=
  ∀ r, d.name j lane = some r → x.reg r = (v, false)

/-! What an instruction leaves as it was. -/

/-- A warp without what results, labels, flags and the advance and fusion of its sub-warps change. -/
def Warp.rest (x : Warp) : Warp :=
  { x with
    o := [], v := [], s := [], k := [], path := [], subs := [], splits := [], flags := 0#8, flagLabel := 0#8, dispLabel := 0#8
    policyLabel := 0#8, handlerSub := Option.none }

/-- A virtual device without its label table. -/
def VD.rest (x : VD) : VD := { x with table := [] }

/-- A quadrant without its latches and the translations that it has cached (R10). -/
def Quad.rest (x : Quad) : Quad := { x with latches := [], owner := none, tlb := [] }

/-- A core without its event counters and the translations that it has cached (R10). -/
def Core.rest (x : Core) : Core := { x with cev := [], tlb := [] }

/-- A die without the translations that it has cached (R370) and the order in which it clears unscrubbed frames (R374). -/
def Die.rest (x : Die) : Die := { x with tlb := [], hbm := x.hbm.map (fun k => { k with head := [], moved := 0 }) }

/-- The package without its warps, tables, latches, cached translations, clear queues, counters and the model's own counters: memory, grids, blocks with
their scratchpads, writes and commands in flight, and all else. -/
def State.rest (s : State) : State :=
  { s with warps := [], vds := [], quads := [], cores := [], dies := s.dies.map Die.rest, stamp := 0, free := 0, report := .idle }

/-- Flags are sticky (R119): between `a` and `b` they may rise, and only those of `f` and LSAT, which any join of labels may set (R25). -/
def FlagsRise (f a b : BitVec 8) : Prop := a &&& ~~~b = 0#8 ∧ b &&& ~~~(a ||| f ||| fLSAT) = 0#8

/-- The lane-mask registers that may change, and the flags beside LSAT that may rise. -/
structure Marks where
  masks : Nat → Prop
  flags : BitVec 8

/-- `t` differs from `s` at most in the registers `P` and the lane-mask registers of `K` of warp `w`, in labels and dead bits, in the
flags of `K` and LSAT, which may rise, in where the sub-warps of `w` stand, in latches, cached translations, clear queues and event counters. -/
structure Kept (w : Nat) (P : RegName → Prop) (K : Marks) (s t : State) : Prop where
  state : t.rest = s.rest
  vds : ∀ v, (t.vd v).rest = (s.vd v).rest
  quads : ∀ q, (t.quad q).rest = (s.quad q).rest
  cores : ∀ c, (t.core c).rest = (s.core c).rest
  others : ∀ x, x ≠ w → t.warp x = s.warp x
  warp : (t.warp w).rest = (s.warp w).rest
  regs : ∀ r, ¬ P r → (t.warp w).reg r = (s.warp w).reg r
  masks : ∀ n, ¬ K.masks n → (t.warp w).mask n = (s.warp w).mask n
  flags : FlagsRise K.flags (s.warp w).flags (t.warp w).flags

/-- The package after the count of a group that carries SR: `%astat.srseq` rises by one (R116). -/
def State.counted (s : State) (p : Pfx) : State :=
  if (p.rs.map (fun r => r.rnd)) = some .sr then s.modWarp s.cur.warp (fun x => { x with srseq := x.srseq + 1 }) else s

/-- `t` is `s` but for label tables, flags and latches: what a group sees after the check of its predicate. -/
structure Near (s t : State) : Prop where
  state : { t with vds := [], warps := [], quads := [] } = { s with vds := [], warps := [], quads := [] }
  vds : ∀ v, (t.vd v).rest = (s.vd v).rest
  warps : ∀ x, { t.warp x with flags := 0#8, flagLabel := 0#8 } = { s.warp x with flags := 0#8, flagLabel := 0#8 }

/-- Nothing at all. -/
def noReg (_ : RegName) : Prop := False
def noMask : Marks := ⟨fun _ => False, 0#8⟩
/-- Flags alone. -/
def onlyFlags (f : BitVec 8) : Marks := ⟨fun _ => False, f⟩

/-- A comparison into lane-mask register `n` (R148): that register unless write-back is suppressed, and flags. -/
def maskMarks (w : W0) (n : Nat) (f : BitVec 8) : Marks := ⟨fun k => w.wbs = false ∧ k = n, f⟩

/-- The registers that a result of `n` registers reaches (R89, R96): the destination's in the lanes that run, or the uniform ones; none
with write-back suppressed. -/
def aluNames (c : Ctx) (w : W0) (d : Dst) (n : Nat) (g : RegName) : Prop :=
  w.wbs = false ∧ d.names n (if d.uniform then 1#32 else c.run) g

/-- The flags that the results of the lanes that are on raise; a uniform instruction runs once (R119, R146). -/
def raised (c : Ctx) (uniform : Bool) (f : Nat → BitVec 8) : BitVec 8 :=
  if uniform then f 0 else (lanesOf c.on).foldl (fun a i => a ||| f i) 0#8

/-! Shapes of claims. Each says that an instruction completes, what it then has done, and that all else is as it was. -/

/-- The function of one result register. -/
def one (f : State → Nat → List Word → Word × BitVec 8) : LaneFn := fun s i v => ([(f s i v).1], (f s i v).2)

/-- An instruction that computes in each lane (R146): where its group may act, its sources can be read and its destination exists, it
completes; the `n` registers of the destination hold `f` of the values read, in every lane that runs, unless write-back is suppressed;
the flags of `f` are set; and nothing else has changed. -/
def Computes (i : Instr) (p : Pfx) (w : W0) (d : Dst) (n : Nat) (xs : Srcs) (f : Ctx → LaneFn) : Prop :=
  ∀ s u, Issues s p u → Readable s (mkCtx s u p) (xs.map (fun x => x.2)) (mkCtx s u p).on → Writable s (mkCtx s u p) d →
    ∃ t, Completes i s t ∧
      Kept s.cur.warp (aluNames (mkCtx s u p) w d n)
        (onlyFlags (raised (mkCtx s u p) d.uniform (fun i => (f (mkCtx s u p) s i (laneVals s (mkCtx s u p) xs i)).2))) (s.counted p) t ∧
      raised (mkCtx s u p) d.uniform (fun i => (f (mkCtx s u p) s i (laneVals s (mkCtx s u p) xs i)).2) &&& ~~~(t.warp s.cur.warp).flags = 0#8 ∧
      (w.wbs = false → ∀ j i, j < n → hasLane (if d.uniform then 1#32 else (mkCtx s u p).run) i = true →
        d.has (t.warp s.cur.warp) j i (((f (mkCtx s u p) s i (laneVals s (mkCtx s u p) xs i)).1[j]?).getD 0#32))

/-- A comparison into lane-mask register `n` (R148, R151): it completes; bit `i` is the condition on the values read in lane `i`, in every
lane that is on, and stays in every other lane; its flags are set; and nothing else has changed. -/
def Compares (i : Instr) (p : Pfx) (w : W0) (n : Nat) (xs : Srcs) (f : List Word → Bool × BitVec 8) : Prop :=
  ∀ s u, Issues s p u → Readable s (mkCtx s u p) (xs.map (fun x => x.2)) (mkCtx s u p).on →
    ∃ t, Completes i s t ∧
      Kept s.cur.warp noReg (maskMarks w n (raised (mkCtx s u p) false (fun i => (f (laneVals s (mkCtx s u p) xs i)).2))) (s.counted p) t ∧
      raised (mkCtx s u p) false (fun i => (f (laneVals s (mkCtx s u p) xs i)).2) &&& ~~~(t.warp s.cur.warp).flags = 0#8 ∧
      (w.wbs = false → ∀ i, i < 32 → ((t.warp s.cur.warp).mask n).getLsbD i =
        if hasLane (mkCtx s u p).on i then (f (laneVals s (mkCtx s u p) xs i)).1 else ((s.warp s.cur.warp).mask n).getLsbD i)

/-- The sum that IADDC forms in a lane, 33 bits wide (R150). -/
def carrySum (s : State) (c : Ctx) (xs : Srcs) (kc : Nat) (first : Bool) (i : Nat) : Nat :=
  (at' (laneVals s c xs i) 0).toNat + (at' (laneVals s c xs i) 1).toNat + (if first = false ∧ hasLane (maskReg s c kc).bits i = true then 1 else 0)

/-- An addition with carry through lane-mask register `kc` (R150): the destination holds the sum modulo 2^32 in every lane that runs, and,
with write-back suppressed too, bit `i` of the register the carry out of every lane that is on; every other bit stays; and nothing else has changed. -/
def AddsWithCarry (i : Instr) (p : Pfx) (w : W0) (d : Dst) (xs : Srcs) (kc : Nat) (first : Bool) : Prop :=
  ∀ s u, Issues s p u → Readable s (mkCtx s u p) (xs.map (fun x => x.2)) (mkCtx s u p).on → Writable s (mkCtx s u p) d →
    ∃ t, Completes i s t ∧ Kept s.cur.warp (aluNames (mkCtx s u p) w d 1) ⟨fun k => k = kc, 0#8⟩ (s.counted p) t ∧
      (w.wbs = false →
        ∀ i, hasLane (mkCtx s u p).run i = true → d.has (t.warp s.cur.warp) 0 i (BitVec.ofNat 32 (carrySum s (mkCtx s u p) xs kc first i))) ∧
      (∀ i, i < 32 → ((t.warp s.cur.warp).mask kc).getLsbD i =
        if hasLane (mkCtx s u p).on i then decide (2 ^ 32 ≤ carrySum s (mkCtx s u p) xs kc first i)
        else ((s.warp s.cur.warp).mask kc).getLsbD i)

/-- ISEL's function: a or b by the lane's bit of the register, or by the whole register for a uniform destination (R150). -/
def select (c : Ctx) (d : Dst) (ks : Nat) (inv : Bool) : LaneFn := fun s i v =>
  let k := (maskReg s c ks).bits
  ([if xor (if d.uniform then decide (k ≠ 0#32) else hasLane k i) inv then at' v 0 else at' v 1], 0#8)

/-- IMADW's function: the pair of ext(a) * ext(b) + c, modulo 2^64 (R150). -/
def madwide (b32 : Bool) : LaneFn := fun _ _ v =>
  let r := BitVec.ofInt 64 (ext b32 (at' v 0) * ext b32 (at' v 1) + (pair (at' v 3) (at' v 2)).toNat)
  ([lo32 r, hi32 r], 0#8)

/-- LEA's function: the pair of a + (ext(b) << sh), modulo 2^64 (R150). -/
def leaPair (b32 : Bool) (sh : Nat) : LaneFn := fun _ _ v =>
  let r := BitVec.ofInt 64 ((pair (at' v 1) (at' v 0)).toNat + ext b32 (at' v 2) * 2 ^ sh)
  ([lo32 r, hi32 r], 0#8)

/-- A cross-lane instruction (R166): where no member lies outside the sub-warp, or Z is set, the sources `xs` can be read in the contributors and
`ys` in every lane that is on, it completes; the destination holds `val` in every lane that runs; the flags `fl` are set; and nothing
else has changed. -/
def Crosses (i : Instr) (p : Pfx) (w : W0) (d : Dst) (n : Nat) (xs ys : List Src) (val : State → Ctx → Members → Nat → List Word)
    (fl : State → Ctx → Members → BitVec 8) : Prop :=
  ∀ s u, Issues s p u → ((membersOf s (mkCtx s u p) p).zeros = 0#32 ∨ zeroMembers p = true) →
    Readable s (mkCtx s u p) xs (membersOf s (mkCtx s u p) p).cs → Readable s (mkCtx s u p) ys (mkCtx s u p).on → Writable s (mkCtx s u p) d →
    ∃ t, Completes i s t ∧
      Kept s.cur.warp (aluNames (mkCtx s u p) w d n) (onlyFlags (fl s (mkCtx s u p) (membersOf s (mkCtx s u p) p))) (s.counted p) t ∧
      fl s (mkCtx s u p) (membersOf s (mkCtx s u p) p) &&& ~~~(t.warp s.cur.warp).flags = 0#8 ∧
      (w.wbs = false → ∀ j i, j < n → hasLane (mkCtx s u p).run i = true →
        d.has (t.warp s.cur.warp) j i (((val s (mkCtx s u p) (membersOf s (mkCtx s u p) p) i)[j]?).getD 0#32))

/-- A cross-lane instruction that writes a whole lane-mask register (R175). -/
def CrossesMask (i : Instr) (p : Pfx) (w : W0) (n : Nat) (xs : List Src) (bits : State → Ctx → Members → Word) : Prop :=
  ∀ s u, Issues s p u → ((membersOf s (mkCtx s u p) p).zeros = 0#32 ∨ zeroMembers p = true) →
    Readable s (mkCtx s u p) xs (membersOf s (mkCtx s u p) p).cs →
    ∃ t, Completes i s t ∧ Kept s.cur.warp noReg (maskMarks w n 0#8) (s.counted p) t ∧
      (w.wbs = false → (t.warp s.cur.warp).mask n = bits s (mkCtx s u p) (membersOf s (mkCtx s u p) p))

/-- The sub-warp exists, what its prefixes check passes (R96, R224), and then the checks `chk` that the spec gives the instruction all pass: they
answer `a` and leave `s1`. -/
def Passes {α : Type} (s : State) (p : Pfx) (u : SubWarp) (chk : Ctx → M α) (a : α) (s1 : State) : Prop :=
  s.issuer = some u ∧ (do checkPfx (mkCtx s u p) p; chk (mkCtx s u p) : M α) (takeLatches s u) = .ok (a, s1)

/-- An instruction with checks: they change nothing but what `Kept` always allows; and wherever they pass, the instruction completes, `E`
is what it does, its results stand in the registers `P` and the lane-mask registers of `K`, `R` holds, and nothing else has changed. -/
def Does {α : Type} (i : Instr) (p : Pfx) (chk : Ctx → M α) (E : Ctx → α → State → State) (P : Ctx → α → RegName → Prop)
    (K : Ctx → α → Marks) (R : Ctx → α → State → State → Prop) : Prop :=
  ∀ s u a s1, Passes s p u chk a s1 → Kept s.cur.warp noReg noMask s s1 ∧
    ∃ t, Completes i s t ∧ Kept s.cur.warp (P (mkCtx s u p) a) (K (mkCtx s u p) a) ((E (mkCtx s u p) a s1).counted p) t ∧
      R (mkCtx s u p) a s1 t

/-- An instruction whose conditions are plain: wherever its group may act and `C` holds, it completes, and `E` is what it does. -/
def DoesIf (i : Instr) (p : Pfx) (C : State → Ctx → Prop) (E : Ctx → State → State) (P : State → Ctx → RegName → Prop)
    (K : State → Ctx → Marks) (R : Ctx → State → State → Prop) : Prop :=
  ∀ s u, Issues s p u → C s (mkCtx s u p) →
    ∃ t, Completes i s t ∧ Kept s.cur.warp (P s (mkCtx s u p)) (K s (mkCtx s u p)) ((E (mkCtx s u p) s).counted p) t ∧ R (mkCtx s u p) s t

/-- A warp's sub-warp of an identity stands ready at a PC with the lanes `m`. -/
def Stands (t : State) (w : Nat) (i : SubId) (m : LaneMask) (pc : DWord) : Prop :=
  ∃ v, (t.warp w).sub i = some v ∧ v.mask = m ∧ v.pc = pc ∧ v.hold = .ready

/-- No sub-warp of the warp waits in SYNCW (R172). -/
def NoSync (s : State) (w : Nat) : Prop := ∀ u, u ∈ (s.warp w).subs → u.hold ≠ .syncw

/-- The sub-warp that is no child of a split goes on at the sequential successor, unless the group is the first of a pair. -/
def GoesOn (c : Ctx) (s t : State) : Prop := s.cur.pair = 0 → c.sub.id = none → NoSync s c.w → Stands t c.w none c.sub.mask c.next

/-- Where a transfer has brought the lanes (R37, R139, R141): one group without an entry stands at its PC. A group that takes an entry alone has taken
the lowest free one, one-sided. Two groups have taken the lowest free entry, which records join, masks and parent, the first as side 0; a side
whose PC is the join has arrived there, and one whose PC is another stands at it. -/
def Transferred (c : Ctx) (x : Transfer) (need : Nat) (s t : State) : Prop :=
  (∀ pc m, x.groups = [(pc, m)] → need = 0 → c.sub.id = none → NoSync s c.w → Stands t c.w none c.sub.mask pc) ∧
  (∀ pc m, x.groups = [(pc, m)] → need ≠ 0 → pc ≠ x.join → NoSync s c.w →
    ∃ e z, freeEntry (s.warp c.w) = some e ∧ ((∀ side, (s.warp c.w).sub (some (e, side)) = none) →
      (t.warp c.w).splits.get? e = some z ∧ z.parent = c.sub.id ∧ z.join = x.join ∧ z.mask0 = m ∧ z.mask1 = 0#32 ∧ z.oneSided = true ∧
      Stands t c.w (some (e, 0)) m pc)) ∧
  (∀ p0 m0 p1 m1, x.groups = [(p0, m0), (p1, m1)] → m1 ≠ 0#32 → ¬ (p0 = x.join ∧ p1 = x.join) → NoSync s c.w →
    ∃ e z, freeEntry (s.warp c.w) = some e ∧ ((∀ side, (s.warp c.w).sub (some (e, side)) = none) →
      (t.warp c.w).splits.get? e = some z ∧ z.parent = c.sub.id ∧ z.join = x.join ∧ z.mask0 = m0 ∧ z.mask1 = c.sub.mask &&& ~~~m0 ∧
      z.arrived0 = decide (p0 = x.join) ∧ z.arrived1 = decide (p1 = x.join) ∧
      (p0 ≠ x.join → Stands t c.w (some (e, 0)) m0 p0) ∧ (p1 ≠ x.join → Stands t c.w (some (e, 1)) (c.sub.mask &&& ~~~m0) p1)))

/-- A trap has entered the handler (R209, R212): the cause is set in %tc; s24 to s31 hold the record, and stood in the shadow bank; every other
register stays; the sub-warp that trapped stands ready at the handler's address; no byte of memory has changed. -/
structure Entered (w : Nat) (u : SubWarp) (r : TrapInfo) (s t : State) : Prop where
  report : t.report = .trap r.cause
  handler : (t.warp w).handler = true
  taker : (t.warp w).handlerSub = u.id
  tc : (t.warp w).tc = (r.bit :: r.also).foldl tcBit (s.warp w).tc
  record : ∀ k, k < 8 → (t.warp w).reg (.s (24 + k)) = ((((trapRecord r 0#8)[k]?).getD Reg.zero).val, false)
  shadow : (t.warp w).shadow = regsFrom (s.warp w).s 24 8
  regs : ∀ g, (∀ k, k < 8 → g ≠ .s (24 + k)) → (∀ n, 32 ≤ n → g ≠ .s n) → (t.warp w).reg g = (s.warp w).reg g
  masks : ∀ n, (t.warp w).mask n = (s.warp w).mask n
  stands : Stands t w u.id u.mask (s.record w).handler
  memory : ∀ d l, t.readMem d l = s.readMem d l

/-- A warp that has a handler for the cause of a trap, and is neither in it nor in a cue sheet (R209, R210, R220). -/
structure Handles (s : State) (w : Nat) (r : TrapInfo) : Prop where
  bit : (s.warp w).disposition.getLsbD r.bit = true
  address : (s.record w).handler ≠ 0#64
  outside : (s.warp w).handler = false
  sheet : (s.warp w).sheet = false
  trapping : rollsBack (s.warp w) r = false

/-- The label table of a VD in its form (R23, R24): sorted handles below 256, handle 0 the empty owner set and 255 every owner. -/
structure TableOk (t : SMap OwnerSet) : Prop where
  sorted : t.Pairwise (fun a b => a.1 < b.1)
  bound : ∀ e, e ∈ t → e.1 < 256
  bottom : t.get? 0 = some 0#64
  top : t.get? 255 = some (BitVec.allOnes 64)

/-- The label of a register. -/
def Warp.labelOf (x : Warp) : RegName → Label
  | .o n i => (laneReg x.o n i).lbl
  | .v n i => (laneReg x.v n i).lbl
  | .s n => ((x.s[n]?).getD Reg.zero).lbl

/-- What LRAISE leaves (R181): the source's value, and in the lanes that are on a label that dominates the handle given. -/
def Raises (c : Ctx) (w : W0) (d : Dst) (a b : Src) (s t : State) : Prop :=
  w.wbs = false → ∀ i, hasLane (if d.uniform then 1#32 else c.run) i = true →
    d.has (t.warp c.w) 0 i (srcVal s c a i) ∧
    (TableOk (s.vd c.vd).table → (s.warp c.w).splits = [] → (d.uniform = true ∨ hasLane c.on i = true) → ∀ g, d.name 0 i = some g →
      t.dominates c.vd ((t.warp c.w).labelOf g) (handleIn s c b i) = true)

/-- DCL of granules (R183): with some lane on, its checks passed and the writes that it releases seen, exactly the labels of the lanes' granules are set, the region commits, and
nothing else has changed; with no lane on it does nothing. -/
def Lowers (i : Instr) (p : Pfx) (w : W0) (x : W1) (spad : Bool) : Prop :=
  (∀ s u r s1, Passes s p u (fun c => do
      checkSrcs c (addrSrcs spad (.code w.a)) c.on
      let r ← dclPlaces c spad (.code w.a) (field x.hi 0 6).toNat
      awaitLowering c r.1
      pure r) r s1 →
    let c := mkCtx s u p
    c.on ≠ 0#32 → Kept c.w noReg noMask { s with vds := s1.vds } s1 ∧
    ∃ t, Completes i s t ∧ Kept c.w noReg noMask ((setGranules c r.1 r.2 (commit s1 c.w)).counted p) t ∧
      (∀ d l, t.readMem d l = s.readMem d l)) ∧
  DoesIf i p (fun s c => c.on = 0#32 ∧ Readable s c (addrSrcs spad (.code w.a)) c.on) (fun _ s => s) (fun _ _ => noReg) (fun _ _ => noMask)
    (fun _ _ _ => True)

/-- A label dominates each of a list, in the VD of `c` (R25). -/
def Above (t : State) (c : Ctx) (l : Label) (ls : List Label) : Prop := ∀ x, x ∈ ls → t.dominates c.vd l x = true

/-- A load (R31, R192): wherever its checks pass it completes; in every lane that is on, each destination register holds its word of what the
place held, as the issuing die reads it, with its poison, and, with no split live and the label table in its form, a label that dominates
the granule's and those of the address; helper lanes hold zero; a uniform load reads once; and nothing else has changed. -/
def Loads (i : Instr) (p : Pfx) (w : W0) (d : Dst) (spad : Bool) (sz : Nat) (a : Src) (off : Int) : Prop :=
  Does i p (fun c => loadChecks c d spad (sizeBytes sz) a off) (fun _ _ s => s) (fun c _ => aluNames c w d (sizeRegs sz)) (fun _ _ => noMask)
    (fun c ps s t => GoesOn c s t ∧ (w.wbs = false →
      (∀ j i, j < sizeRegs sz → d.uniform = false → hasLane c.run i = true → hasLane c.on i = false → d.has (t.warp c.w) j i 0#32) ∧
      (∀ j i g, j < sizeRegs sz → d.uniform = false → hasLane c.on i = true → d.name j i = some g →
        (t.warp c.w).reg g =
          (((loadWords sz (placeRead s c (sizeBytes sz) (placeOf ps i)))[j]?).getD 0#32, placePoison s c (sizeBytes sz) (placeOf ps i)) ∧
        ((s.warp c.w).splits = [] → TableOk (s.vd c.vd).table →
          Above t c ((t.warp c.w).labelOf g) (placeLabel s c (placeOf ps i) :: addrLbls s c spad a i))) ∧
      (∀ j i g, j < sizeRegs sz → d.uniform = true → lowestLane c.on = some i → d.name j 0 = some g →
        ((t.warp c.w).reg g).1 = ((loadWords sz (placeRead s c (sizeBytes sz) (placeOf ps i)))[j]?).getD 0#32)))

/-- A byte of memory lies in what a lane of `c.on` accesses at its place. -/
def Places.byte (ps : Places) (c : Ctx) (n : Nat) (l : Loc) : Prop :=
  ∃ i p, hasLane c.on i = true ∧ placeOf ps i = .mem p ∧ l.host = p.loc.host ∧ p.loc.pa ≤ l.pa ∧ l.pa < p.loc.pa + n

/-- A byte of a block's scratchpad lies in what lane `i` accesses at its place. -/
def Places.spadByte (ps : Places) (n i b o : Nat) : Prop := ∃ off, placeOf ps i = .spad b off ∧ off ≤ o ∧ o < off + n

/-- A store (R34, R192): wherever its checks pass it completes, having stored in each lane that is on, in ascending order. A scratchpad byte
holds what the highest lane that stores to it gave; every other keeps its value. For each global place a store of the lane's bytes is
in flight, and no byte outside the places has changed on any die. No register has changed. -/
def StoresTo (i : Instr) (p : Pfx) (spad : Bool) (sz : Nat) (a b : Src) (off : Int) : Prop :=
  Does i p (fun c => storeChecks c spad sz a b off) (fun c r s => storeLanes c r.1 (effAddr s c spad a off) (laneBytes s c sz b) r.2 s)
    (fun _ _ => noReg) (fun _ _ => noMask)
    (fun c r s t => GoesOn c s t ∧
      (∀ d l, ¬ r.1.byte c (sizeBytes sz) l → t.readMem d l = s.readMem d l) ∧
      (∀ k o, (∀ i, hasLane c.on i = true → ¬ r.1.spadByte (sizeBytes sz) i k o) →
        readByte (t.spadOf c.w k).bytes o = readByte (s.spadOf c.w k).bytes o) ∧
      (∀ i k o m, hasLane c.on i = true → placeOf r.1 i = .spad k o → m < sizeBytes sz →
        (∀ j, i < j → hasLane c.on j = true → ¬ r.1.spadByte (sizeBytes sz) j k (o + m)) →
        some (readByte (t.spadOf c.w k).bytes (o + m)) = (laneBytes s c sz b i)[m]?) ∧
      (∀ i q, hasLane c.on i = true → placeOf r.1 i = .mem q →
        ∃ f, f ∈ t.flights ∧ f.warp = c.w ∧ f.host = q.loc.host ∧ f.pa = q.loc.pa ∧ f.op = .store (laneBytes s c sz b i) ∧ f.lanes = laneBit i))

/-- The special registers of a warp beside flags: causes, disposition, arrival counters, shadow bank, mode, clearance, policy, gang, heir. -/
def Warp.specials (x : Warp) := (x.tc, x.disposition, x.ac, x.shadow, x.handler, x.clearance, x.policy, x.gang, x.will)

/-- What a step of the machine leaves as it was: the registers outside `P` and masks outside `K` of each warp, the special registers of the
warps outside `S`, and the bytes outside `M`, as each die reads them. -/
structure Frame (P : Nat → RegName → Prop) (K : Nat → Nat → Prop) (S : Nat → Prop) (M : Nat → Loc → Prop) (s t : State) : Prop where
  regs : ∀ w g, ¬ P w g → (t.warp w).reg g = (s.warp w).reg g
  masks : ∀ w n, ¬ K w n → (t.warp w).mask n = (s.warp w).mask n
  special : ∀ w, ¬ S w → (t.warp w).specials = (s.warp w).specials
  memory : ∀ d l, ¬ M d l → t.readMem d l = s.readMem d l

/-- A step that changes no register, no mask, no special register of a warp, and no byte of memory. -/
def Quiet : State → State → Prop := Frame (fun _ _ => False) (fun _ _ => False) (fun _ => False) (fun _ _ => False)

/-- The word of a lane of a full/empty access: block and offset. -/
def Places.word (ps : Places) (i b o : Nat) : Prop := placeOf ps i = .spad b o

/-- Every lane of a full/empty access finds its word with the tag `g`, alone: no two lanes name one word, and no other access waits. -/
def AloneAt (ps : Places) (c : Ctx) (s : State) (g : Tag) : Prop :=
  (∀ i, hasLane c.on i = true → ∃ b o, ps.word i b o ∧ (s.spadOf c.w b).tag (o / 4) = g) ∧
  (∀ i j b o, hasLane c.on i = true → hasLane c.on j = true → ps.word i b o → ps.word j b o → i = j) ∧
  (∀ e, e ∈ s.warps → e.2.fe = [])

/-- A full/empty access (R194): wherever its checks pass it is issued; it changes only the lanes' words, the outcome register and, for LDF, the
destination; no byte of memory. Where every lane finds its word ready and alone, it is over at once. -/
def FullEmpties (i : Instr) (p : Pfx) (w : W0) (load : Bool) (a : Src) (bs : List Src) (d : Dst) (kb : Nat) (off : Int) : Prop :=
  ∀ s u r s1, Passes s p u (fun c => feChecks c load a bs d off) r s1 →
    let c := mkCtx s u p
    Kept c.w noReg noMask s s1 ∧ ∃ t, Completes i s t ∧
      Frame (fun x g => x = c.w ∧ load = true ∧ w.wbs = false ∧ d.names 1 c.run g) (fun x n => x = c.w ∧ n = kb) (fun _ => False) (fun _ _ => False) s t ∧
      (∀ k o, (∀ i, hasLane c.on i = true → load = true ∨ ¬ r.1.spadByte 4 i k o) →
        readByte (t.spadOf c.w k).bytes o = readByte (s.spadOf c.w k).bytes o) ∧
      (∀ i, i < 32 → hasLane c.on i = false → ((t.warp c.w).mask kb).getLsbD i = ((s.warp c.w).mask kb).getLsbD i) ∧
      (AloneAt r.1 c s1 (if load then .full else .empty) → GoesOn c s t ∧
        ∀ i b o, hasLane c.on i = true → r.1.word i b o →
          ((t.warp c.w).mask kb).getLsbD i = false ∧ (t.spadOf c.w b).tag (o / 4) = (if load then .empty else .full) ∧
          (load = true → w.wbs = false → ∀ g, d.name 0 i = some g →
            (t.warp c.w).reg g = (ofBytes 32 ((s1.spadOf c.w b).read o 4), (s1.spadOf c.w b).poisoned o 4)) ∧
          (∀ y, load = false → bs = [y] → (t.spadOf c.w b).read o 4 = toBytes (srcVal s1 c y i) 4))

/-- The registers that parked sub-warps depart with at a barrier: their destinations. -/
def barDests (s : State) (ws : List Nat) (x : Nat) (g : RegName) : Prop :=
  ∃ v n cl o val l d latch, (x, v) ∈ subsOf s ws ∧ v.hold = .bar n cl o val l d latch ∧ 24 ≤ d ∧ d < 56 ∧ g = .s (d - 24)

/-- BAR (R203): where the payload can be read and the writes that it orders are seen, the region commits and the sub-warp stands at the barrier
with its contribution, `t0`. While an expected warp is missing, that is all. With the last one every parked sub-warp departs: the
destinations hold the combined payload, and nothing else has changed. -/
def Arrives (i : Instr) (p : Pfx) (w : W0) (op : Nat) (a : Src) (dest : Nat) : Prop :=
  ∀ s u, Issues s p u → Readable s (mkCtx s u p) (if op = 0 then [] else [a]) (mkCtx s u p).act → barOrdered s (mkCtx s u p) w = true →
    let c := mkCtx s u p
    ∃ t ls, Completes i s t ∧
      let t0 := parkAtBar c w op (barContribution s c op a) ls dest (commit s c.w)
      let g := (s.warp c.w).grid
      let b := (s.warp c.w).block
      let n := (field w.b 0 4).toNat
      let cl := w.b.getLsbD 4
      let ws := expectedWarps t0 g b cl
      Frame (fun x r => barFull t0 g b n cl = true ∧ barDests t0 ws x r) (fun _ _ => False) (fun _ => False) (fun _ _ => False) s t ∧
      (barFull t0 g b n cl = false → (t.warp c.w).sub u.id = (t0.warp c.w).sub u.id) ∧
      (barFull t0 g b n cl = true → ∀ x r, barDests t0 ws x r → (t.warp x).reg r = (barValue (subsOf t0 ws), false))

/-- An action push (R304, R317): one action, of the payload's first 64 bytes, stands last in its mailbox, which counts the step; nothing is sent where
the payload read met poison; memory stays. -/
def Sent (c : Ctx) (r : Option Sending) (s t : State) : Prop :=
  (∀ d l, t.readMem d l = s.readMem d l) ∧
  ∀ x, r = some x → x.poisoned = false → x.mailbox / 512 < 9 →
    let b := s.mailbox (x.mailbox / 512) (x.mailbox % 512)
    let b' := t.mailbox (x.mailbox / 512) (x.mailbox % 512)
    b.ended = false → b.frozen = false →
      b'.waiting = b.waiting ++ [actionOf s c x] ∧ b'.step = b.step + 1 ∧ b'.obs = b.obs

/-- LOCK and TRYLOCK (R339): wherever the checks pass it completes; the uniform pair holds the word that stood there; a word that could be taken is
the warp's, with its count one up, and held; TRYLOCK's mask says whether it was; and no other byte has changed. -/
def Locks (i : Instr) (p : Pfx) (w : W0) (tag : BitVec 16) (try' : Option Nat) : Prop :=
  Does i p (fun c => lockChecks c w try'.isNone) (fun c pl s => takeLock c w tag pl s) (fun c _ => aluNames c w (Dst.ofCode w.d) 2)
    (fun _ _ => ⟨fun n => w.wbs = false ∧ try' = some n, 0#8⟩)
    (fun c pl s t =>
      let m := lockAt s c.w pl
      GoesOn c s t ∧
      (w.wbs = false → (Dst.ofCode w.d).has (t.warp c.w) 0 0 (lo32 m) ∧ (Dst.ofCode w.d).has (t.warp c.w) 1 0 (hi32 m) ∧
        ∀ k, try' = some k → (t.warp c.w).mask k = if mayTake m c.w then BitVec.allOnes 32 else 0#32) ∧
      (∀ d l, (∀ q, pl = .mem q → ¬ (l.host = q.loc.host ∧ q.loc.pa ≤ l.pa ∧ l.pa < q.loc.pa + 8)) → t.readMem d l = s.readMem d l) ∧
      (∀ b o, pl = .spad b o → mayTake m c.w = true → lockAt t c.w pl = lockWord c.w false false false (lockCount m + 1)))

/-- UNLOCK (R340): wherever the checks pass it completes; the word is left without an owner, with the mark and its count; and no other byte has changed. -/
def Unlocks (i : Instr) (p : Pfx) (w : W0) (mark : Bool) : Prop :=
  Does i p (fun c => unlockChecks c w) (fun c pl s => leaveWord c w mark pl s) (fun _ _ => noReg) (fun _ _ => noMask)
    (fun c pl s t => GoesOn c s t ∧
      (∀ d l, (∀ q, pl = some (.mem q) → ¬ (l.host = q.loc.host ∧ q.loc.pa ≤ l.pa ∧ l.pa < q.loc.pa + 8)) → t.readMem d l = s.readMem d l) ∧
      (∀ b o, pl = some (.spad b o) → lockAt t c.w (.spad b o) = lockWord 0 mark false false (lockCount (lockAt s c.w (.spad b o)))))

/-- No byte of memory and no byte of the block's scratchpads has changed. -/
def Unwritten (c : Ctx) (s t : State) : Prop :=
  (∀ d l, t.readMem d l = s.readMem d l) ∧ ∀ b o, readByte (t.spadOf c.w b).bytes o = readByte (s.spadOf c.w b).bytes o

/-- A command has ended (R270, R271): no register, mask or special register has changed, and no byte of memory where it makes no arrival on a
global object. -/
def Ended (c : Cmd) (s t : State) : Prop :=
  Frame (fun _ _ => False) (fun _ _ => False) (fun _ => False) (fun _ _ => ∃ o, c.object = some o ∧ o.spad = false) s t

/-- A CL.* command (R285, R294): wherever its checks pass it completes; with a lane on it is in flight with one undecided lane for each lane
that is on. -/
def Collects (i : Instr) (p : Pfx) (code : Nat) (w : W0) (x : W1) : Prop :=
  Does i p (fun c => clChecks c code w x) (fun c r s => clStart c code x (clOpOf s c code w x r.2) r.1 s) (fun _ _ => noReg) (fun _ _ => noMask)
    (fun c r s t => GoesOn c s t ∧ Unwritten c s t ∧ (c.on ≠ 0#32 →
      (t.block (s.warp c.w).grid (s.warp c.w).block).comm = some c.w ∧
      ∃ d, t.cmds.get? s.cmdSerial = some d ∧ d.op = clOpOf s c code w x r.2 ∧ d.warp = c.w ∧
        d.op.clLanes.map (fun l => (l.lane, l.decided)) = (lanesOf c.on).map (fun i => (i, false))))

/-- An episode has ended (R302, R311): it is no longer live; no register, mask or special register of a warp has changed, and no byte of memory outside
the frames of its pages, which are unscrubbed. -/
structure EpisodeOver (e : Episode) (s t : State) : Prop where
  gone : ∀ x, x ∈ t.episodes → ¬ (x.die = e.die ∧ x.id = e.id)
  others : ∀ x, x ∈ s.episodes → ¬ (x.die = e.die ∧ x.id = e.id) → x ∈ t.episodes
  frame : Frame (fun _ _ => False) (fun _ _ => False) (fun _ => False) (fun _ l => l.host = false ∧ ∃ p, p ∈ e.pages ∧ frameOf l.pa = p.2 / 16) s t

/-- The next instruction of a Poleile core (R300, R301): its episode `e` runs, and at its PC stands instruction `i` of `n` bytes. -/
structure RvAt (s : State) (die core : Nat) (e : Episode) (n : Nat) (i : Rv) : Prop where
  on : episodeOn s die core = some e
  runs : coreRuns s e = true
  fetch : rvFetch s e (s.pcore die core).pc = some (n, some i)

/-- The register that an instruction of RV64I's arithmetic writes, and its value. -/
def Rv.result (p : PCore) : Rv → Option (Nat × DWord)
  | .const rd v => some (rd, v)
  | .pcrel rd v => some (rd, p.pc + v)
  | .alui op w rd a v => some (rd, rvAlu op w (p.reg a) v)
  | .alu op w rd a b => some (rd, rvAlu op w (p.reg a) (p.reg b))
  | _ => none

/-- A read of the host port (R400): it completes with those bytes as its answer, and `R` holds; no register, mask or special register of a warp
and no byte of memory has changed. -/
def Answers (i : Instr) (s : State) (bs : List Byte) (R : State → Prop) : Prop := ∃ t, Completes i s t ∧ Quiet s t ∧ t.reply = bs ∧ R t

/-- A requester that a hypervisor range refuses reads zeros (R400, R410). -/
def Denied (i : Instr) (s : State) (n : Nat) : Prop := Answers i s (zeros n) (fun _ => True)

/-- A command of the security block can run (R403, R411): the hypervisor asks, no command runs, and the security ROM is ready. -/
def Commanded (s : State) (req : Req) : Prop := isHv s req = true ∧ s.security.busy = false ∧ 2 ≤ s.package.phase

/-- A command of the security block has run (R403): it is over, with a status and a detail; the bytes that it answers stand in host memory at SBOUT,
and no other byte of host memory has changed. -/
structure Commands (i : Instr) (s t : State) (status detail : Nat) : Prop where
  completes : Completes i s t
  status : t.security.status = status
  detail : t.security.detail = detail
  busy : t.security.busy = false
  host : ∀ d a, (a < s.security.sbout.toNat ∨ s.security.sbout.toNat + s.security.sboutLen.toNat ≤ a) → t.readMem d ⟨true, a⟩ = s.readMem d ⟨true, a⟩

/-! The machine as a whole. -/

/-- Every memory of the package in its canonical form: each die's copy, host memory, each block's scratchpad, and what an arriving migration
stream carries, whose images lie within a slice. -/
structure State.MemoryWf (s : State) : Prop where
  dies : ∀ d, d ∈ s.dies → Memory.wf d.copy.bytes
  host : Memory.wf s.hostMem.bytes
  pads : ∀ e, e ∈ s.blocks → Memory.wf e.2.spad.bytes
  images : ∀ p i, p ∈ s.inbound → i ∈ p.images → Memory.wf i.bytes ∧ ∀ e, e ∈ i.bytes → e.1 < 2 ^ 32
  carried : ∀ p e, p ∈ s.inbound → e ∈ p.blocks → Memory.wf e.2.spad.bytes

/-- The package in which a quadrant makes its choice: those of its waiting sub-warps that can go on are ready again (R132, R142). -/
noncomputable def State.offered (s : State) (q : Nat) : State := wakeWaiting { s with opportunity := s.opportunity + 1, cur := Current.none } q

/-- The package with sub-warp `u` of warp `w` standing at its group. -/
def State.standing (s : State) (w : Nat) (u : SubWarp) : State :=
  { s with cur := ⟨w, u.id, u.pc, u.pc, (s.warp w).quad, lineSlot u.pc, 0, false⟩, view := none, report := .idle }

/-- An issue opportunity of quadrant `q` falls to sub-warp `u` of warp `w` (R142): nothing is to be raised before its group (R189), the line at its PC is
fetched, which leaves `s1`, the group there decodes to `i` over `n` slots, no PC comparator matches (R227), and the warp has the main register
that the group names (R90). -/
structure Decoded (s : State) (q w : Nat) (u : SubWarp) (ws : List Word) (s1 : State) (i : Instr) (n : Nat) : Prop where
  chosen : choose (s.offered q) q = some (w, u)
  deliveries : deliveryFor ((s.offered q).warp w) u = none
  pending : ((s.offered q).warp w).pending.find? (fun t => t.1 == u.pc) = none
  fetched : fetchLine ((s.offered q).standing w u) ((s.offered q).warp w).quad ((s.offered q).warp w).vd (lineBase u.pc) = (.ok ws, s1)
  group : decodeGroup ws (lineBase u.pc) (lineSlot u.pc) = .ok i n
  comparators : u.matched = true ∨ dpcMatch s1 (coreOfQuad ((s.offered q).warp w).quad) u.pc ((s.offered q).warp w).vd
    (u.mask &&& (predicate s1 w i.pfx).1) = []
  registers : ∀ m, i.mainReg = some m → m < (s1.record w).regs

/-- The package in which a group of `n` slots acts: the sequential successor and the slot of its first word are known. -/
def State.acting (s1 : State) (u : SubWarp) (ws : List Word) (n : Nat) : State :=
  { s1 with cur := { s1.cur with next := nextPc u.pc n, slot := lineSlot u.pc + runLength ws 15 (lineSlot u.pc) } }

/-- The package `t` that a group's effect leaves, and `t'` after its step: the issue is counted, the quadrant's run is noted (R137), and no group stands. -/
structure AfterIssue (t t' : State) : Prop where
  state : { t' with quads := [], cores := [] } = { t with quads := [], cores := [], cur := Current.none, view := none }
  quads : ∀ q, { t'.quad q with run := none } = { t.quad q with run := none }
  cores : ∀ c, (t'.core c).rest = (t.core c).rest

end Sys2Proof.Machine
end

