-- ==== Sys2Proof/Certificates/Slice0/Obligations.lean ====
section
/-! DEFINITION. The statements for the provers. Each follows the rules of spec/ that its docstring names. -/

open Sys2Proof Sys2Proof.Machine

/-- One word or more of each family: fields, main-file roles, immediates and literals, PFX words, page 1, and the operand registers by their
codes. -/
def Obligations.DecodeWords : Prop :=
  decodeWords [0x00000000#32] = some .nop ∧
  decodeWords [0x00610204#32] = some (.iadd_32 Pfx.none ⟨0#2, false, false, false, 3#6, 2#6, 1#6⟩) ∧
  decodeWords [0x02808805#32, 0x00050000#32] = some (.iadd_64 Pfx.none ⟨0#2, false, false, false, 20#6, 1#6, 4#6⟩ ⟨5#16, 0#2, 0#8, 0#6⟩) ∧
  decodeWords [0x02820C09#32, 0xFFFE0000#32] = some (.isub_64 Pfx.none ⟨0#2, false, false, false, 20#6, 4#6, 6#6⟩ ⟨0xFFFE#16, 0#2, 0#8, 0#6⟩) ∧
  decodeWords [0x00000087#32, 0x00610204#32] =
    some (.iadd_32 ⟨none, some ⟨4#3, false⟩, none⟩ ⟨0#2, false, false, false, 3#6, 2#6, 1#6⟩) ∧
  decodeWords [0x00000023#32, 0x00C28A68#32] =
    some (.fadd_32 ⟨some ⟨.rtz, false, .none, 0#4⟩, none, none⟩ ⟨0#2, false, false, false, 6#6, 5#6, 5#6⟩) ∧
  decodeWords [0x0000000F#32, 0x0001061C#32] = some (.frcp Pfx.none ⟨0#2, false, false, false, 0#6, 2#6, 3#6⟩) ∧
  decodeWords [0x00040F1C#32] = some (.ld_32 Pfx.none ⟨0#2, false, false, false, 0#6, 8#6, 7#6⟩) ∧
  decodeWords [0x00840F1C#32] = some (.ld_32 Pfx.none ⟨0#2, false, false, false, 4#6, 8#6, 7#6⟩) ∧
  decodeWords [0x00C28128#32] = some (.sts_32 Pfx.none ⟨0#2, false, false, false, 6#6, 5#6, 0#6⟩) ∧
  decodeWords [0x000106FC#32] = some (.red_32 Pfx.none ⟨0#2, false, false, false, 0#6, 2#6, 3#6⟩) ∧
  decodeWords [0x002108F8#32] = some (.qx_32 Pfx.none ⟨0#2, false, false, false, 1#6, 2#6, 4#6⟩) ∧
  decodeWords [0x00049701#32, 0x00020000#32] =
    some (.scan_64 Pfx.none ⟨0#2, false, false, false, 0#6, 9#6, 11#6⟩ ⟨2#16, 0#2, 0#8, 0#6⟩) ∧
  decodeWords [0x0000000F#32, 0x00000068#32] = some (.rett Pfx.none W0.zero) ∧
  decodeWords [0x0000000F#32, 0x00000074#32] = some (.halt Pfx.none W0.zero) ∧
  decodeWords [0x06170150#32] = some (.barw Pfx.none ⟨0#2, false, false, false, 48#6, 46#6, 0#6⟩) ∧
  decodeWords [0x00265B4D#32, 0x00030000#32] =
    some (.bar_64 Pfx.none ⟨0#2, false, false, false, 1#6, 12#6, 45#6⟩ ⟨3#16, 0#2, 0#8, 0#6⟩) ∧
  decodeWords [0x0000000F#32, 0x000084A0#32] = some (.estq Pfx.none ⟨0#2, false, false, false, 0#6, 1#6, 2#6⟩) ∧
  decodeWords [0x010E3DC4#32] = some (.lock_32 Pfx.none ⟨0#2, false, false, false, 8#6, 28#6, 30#6⟩) ∧
  decodeWords [0x0000000F#32, 0x00120078#32] = some (.mx_gang Pfx.none ⟨0#2, false, false, false, 0#6, 36#6, 0#6⟩) ∧
  decodeWords [0x04422779#32, 0x00050024#32] =
    some (.mx_mma Pfx.none ⟨0#2, false, false, false, 34#6, 4#6, 19#6⟩ ⟨5#16, 0#2, 0#8, 36#6⟩) ∧
  decodeWords [0x02902595#32, 0x00060001#32] =
    some (.xf_copy_64 Pfx.none ⟨0#2, false, false, false, 20#6, 32#6, 18#6⟩ ⟨6#16, 0#2, 0#8, 1#6⟩) ∧
  decodeWords [0x000F09C0#32] = some (.mb_send_32 Pfx.none ⟨0#2, false, false, false, 0#6, 30#6, 4#6⟩) ∧
  decodeWords [0x02902BD9#32, 0x00000000#32] =
    some (.launch Pfx.none ⟨0#2, false, false, false, 20#6, 32#6, 21#6⟩ W1.zero) ∧
  decodeWords [0x000000A7#32, 0xE0D901B5#32, 0x0092001F#32] =
    some (.cl_draw ⟨none, some ⟨5#3, false⟩, none⟩ ⟨3#2, true, false, false, 6#6, 50#6, 0#6⟩ ⟨0x92#16, 0#2, 0#8, 31#6⟩)

/-- Every warp instruction, every field at every value that its checks admit, with every run of PFX words that it accepts and that fits a run.
Events have no words. -/
def Obligations.DecodeEncode : Prop :=
  ∀ i : Instr, i.parts.isSome = true → i.wf = true → i.runFits = true → decodeWords (encode i) = some i

/-- An event of the agenda is run as it is. An issue opportunity of a quadrant, asked for by the agenda or falling to the next busy quadrant when
no engine has anything to do, runs the group of the sub-warp that R142 chooses, its sequential successor known; around it the step counts the
issue, notes the run of R137 and clears the model's own note of the group. A legal pair whose members can both issue runs both, the second reading
the registers and latches as they stood. -/
def Obligations.StepRunsDecoded : Prop :=
  (∀ s i rest, s.agenda = .event i :: rest →
    step s = exec i { s with agenda := rest, cur := Current.none, view := none, report := .idle }) ∧
  (∀ s q rest w u ws s1 i n t, s.agenda = .issue q :: rest → Decoded { s with agenda := rest, report := .idle } q w u ws s1 i n →
    pairBit ws (lineSlot u.pc) = false → ((s1.warp w).sheet = false ∨ sheetAllows i = true) →
    exec i (s1.acting u ws n) = .next t → t.report ≠ .wait → ∃ t', step s = .next t' ∧ AfterIssue t t') ∧
  (∀ s q qs w u ws s1 i n t, s.agenda = [] → (s.turn = false ∨ happen s = none) → busyQuads s s.rotor = q :: qs →
    Decoded { s with report := .idle } q w u ws s1 i n →
    pairBit ws (lineSlot u.pc) = false → ((s1.warp w).sheet = false ∨ sheetAllows i = true) →
    exec i (s1.acting u ws n) = .next t → t.report ≠ .wait →
    ∃ t', step s = .next t' ∧ AfterIssue { t with rotor := q + 1, turn := true } t') ∧
  (∀ s q rest w u ws s1 i n j m t1 t2, s.agenda = .issue q :: rest → Decoded { s with agenda := rest, report := .idle } q w u ws s1 i n →
    pairBit ws (lineSlot u.pc) = true → decodeGroup ws (lineBase u.pc) (lineSlot u.pc + n) = .ok j m → (s1.warp w).sheet = false →
    let r := { s1 with cur := { s1.cur with next := nextPc u.pc (n + m), pair := 1 } }
    exec i { r with cur := { r.cur with probe := true }, stopped := none } = .next t1 → t1.stopped = none → (t1.warp w).sheet = false →
    (∀ k, j.mainReg = some k → k < (t1.record w).regs) →
    exec j { t1 with
      cur := { r.cur with pair := 2, pc := slotPc (lineBase u.pc) (lineSlot u.pc + n), slot := lineSlot u.pc + n, probe := true }
      view := some (s1.warp w, s1.quad s1.cur.quad), stopped := none } = .next t2 → t2.stopped = none → t2.report ≠ .wait →
    ∃ t', step s = .next t' ∧ AfterIssue { t2 with stopped := none } t')

/-- No step of this machine faults or is refused, whatever the state. Addresses stay strictly rising and no byte is listed that an unlisted
address reads as, in each die's copy, in host memory and in each scratchpad, whatever instruction, engine, command, flight or migration acts: so
equal memories are equal data. The form is the model's (log entry 1); reset has it (ResetState). -/
def Obligations.StepKeepsMemoryCanonical : Prop :=
  ∀ s, s.MemoryWf → ∃ t, step s = .next t ∧ t.MemoryWf

/-- That every register of a warp and every accumulator row reads zero is R408's wipe of every SRAM; a warp's own start values are R20's. The
canonical form of memory is the model's (log entry 1). -/
def Obligations.ResetState : Prop :=
  State.reset.MemoryWf ∧
  State.reset.package.phase = 0 ∧ State.reset.package.error = 0 ∧
  State.reset.dies.length = 9 ∧ (∀ d, d ∈ State.reset.dies → d.clock.all (fun n => n == 0) = true ∧ d.log = [] ∧ d.tlb = [] ∧ d.mailboxes = []) ∧
  (∀ d l, State.reset.readMem d l = 0#8 ∧ State.reset.labelLoc d l = 0#8) ∧
  (∀ pa, State.reset.scrubbed pa = false) ∧ (∀ k, unscrubbed State.reset k = 2 ^ 20) ∧
  (∀ w g, (State.reset.warp w).reg g = (0#32, false)) ∧ (∀ w n, (State.reset.warp w).mask n = 0#32) ∧
  (∀ q n, (State.reset.quad q).rows.get AccRow.zero n = AccRow.zero) ∧
  (∀ v, (State.reset.vd v).state = 0 ∧ vdstat (State.reset.vd v) = zeros 16) ∧
  (∀ q, State.reset.package.qown.get 0#16 q = 0#16) ∧ (∀ k, State.reset.package.sown.get 0#16 k = 0#16) ∧
  State.reset.warps = [] ∧ State.reset.blocks = [] ∧ State.reset.grids = [] ∧ State.reset.cmds = [] ∧ State.reset.flights = [] ∧
  State.reset.episodes = [] ∧ State.reset.security.loaded = [] ∧ State.reset.agenda = []

/-- Every form of IADD, ISUB, IMUL, IMULH, IMIN, IMAX, IMAD, INEG and IABS that is well-formed completes wherever its group may act, its sources
can be read and its destination exists: the destination holds the function of the values read in every lane that runs (a uniform one that of lane
0), SAT is set where range saturation clamped, and every other register, mask bit, flag, special register and byte of memory is as it was (R146,
R149, R150). -/
def Obligations.IntegerArithmetic : Prop :=
  (∀ p w, WF.iadd_32 p w = true → Computes (.iadd_32 p w) p w (Dst.ofCode w.d) 1 (ab32 w) (fun _ => one (int2 p false (· + ·)))) ∧
  (∀ p w x, WF.iadd_64 p w x = true → Computes (.iadd_64 p w x) p w (dstD w x) 1 (abImm (immT (typeC x)) w x) (fun _ => one (int2 p (typeC x) (· + ·)))) ∧
  (∀ p w x lit, WF.iadd_96 p w x lit = true → Computes (.iadd_96 p w x lit) p w (dstD w x) 1 (abLit w x lit) (fun _ => one (int2 p (typeC x) (· + ·)))) ∧
  (∀ p w, WF.isub_32 p w = true → Computes (.isub_32 p w) p w (Dst.ofCode w.d) 1 (ab32 w) (fun _ => one (int2 p false (· - ·)))) ∧
  (∀ p w x, WF.isub_64 p w x = true → Computes (.isub_64 p w x) p w (dstD w x) 1 (abImm (immT (typeC x)) w x) (fun _ => one (int2 p (typeC x) (· - ·)))) ∧
  (∀ p w x lit, WF.isub_96 p w x lit = true → Computes (.isub_96 p w x lit) p w (dstD w x) 1 (abLit w x lit) (fun _ => one (int2 p (typeC x) (· - ·)))) ∧
  (∀ p w, WF.imul_32 p w = true → Computes (.imul_32 p w) p w (Dst.ofCode w.d) 1 (ab32 w) (fun _ => one (int2 p false (· * ·)))) ∧
  (∀ p w x, WF.imul_64 p w x = true → Computes (.imul_64 p w x) p w (dstD w x) 1 (abImm (immT (typeC x)) w x) (fun _ => one (int2 p (typeC x) (· * ·)))) ∧
  (∀ p w x lit, WF.imul_96 p w x lit = true → Computes (.imul_96 p w x lit) p w (dstD w x) 1 (abLit w x lit) (fun _ => one (int2 p (typeC x) (· * ·)))) ∧
  (∀ p w, WF.imulh_32 p w = true → Computes (.imulh_32 p w) p w (Dst.ofCode w.d) 1 (ab32 w) (fun _ => one (int2 p false mulHigh))) ∧
  (∀ p w x, WF.imulh_64 p w x = true → Computes (.imulh_64 p w x) p w (dstD w x) 1 (abImm (immT (typeC x)) w x) (fun _ => one (int2 p (typeC x) mulHigh))) ∧
  (∀ p w x lit, WF.imulh_96 p w x lit = true → Computes (.imulh_96 p w x lit) p w (dstD w x) 1 (abLit w x lit) (fun _ => one (int2 p (typeC x) mulHigh))) ∧
  (∀ p w, WF.imin_32 p w = true → Computes (.imin_32 p w) p w (Dst.ofCode w.d) 1 (ab32 w) (fun _ => one (int2 p false min))) ∧
  (∀ p w x, WF.imin_64 p w x = true → Computes (.imin_64 p w x) p w (dstD w x) 1 (abImm (immT (typeC x)) w x) (fun _ => one (int2 p (typeC x) min))) ∧
  (∀ p w x lit, WF.imin_96 p w x lit = true → Computes (.imin_96 p w x lit) p w (dstD w x) 1 (abLit w x lit) (fun _ => one (int2 p (typeC x) min))) ∧
  (∀ p w, WF.imax_32 p w = true → Computes (.imax_32 p w) p w (Dst.ofCode w.d) 1 (ab32 w) (fun _ => one (int2 p false max))) ∧
  (∀ p w x, WF.imax_64 p w x = true → Computes (.imax_64 p w x) p w (dstD w x) 1 (abImm (immT (typeC x)) w x) (fun _ => one (int2 p (typeC x) max))) ∧
  (∀ p w x lit, WF.imax_96 p w x lit = true → Computes (.imax_96 p w x lit) p w (dstD w x) 1 (abLit w x lit) (fun _ => one (int2 p (typeC x) max))) ∧
  (∀ p w, WF.imad_32 p w = true → Computes (.imad_32 p w) p w (Dst.ofCode w.d) 1 (abc32 w) (fun c => one (word3 (fun a b c => a * b + c)))) ∧
  (∀ p w x, WF.imad_64 p w x = true → Computes (.imad_64 p w x) p w (dstD w x) 1 (abcImm immS w x) (fun c => one (word3 (fun a b c => a * b + c)))) ∧
  (∀ p w x lit, WF.imad_96 p w x lit = true → Computes (.imad_96 p w x lit) p w (dstD w x) 1 (abcLit w x lit) (fun c => one (word3 (fun a b c => a * b + c)))) ∧
  (∀ p w, WF.ineg p w = true → Computes (.ineg p w) p w (Dst.ofCode w.d) 1 [(w.luA, .code w.a)] (fun _ => one (fun _ _ v => intResult p false (-(at' v 0).toInt)))) ∧
  (∀ p w, WF.iabs p w = true → Computes (.iabs p w) p w (Dst.ofCode w.d) 1 [(w.luA, .code w.a)] (fun _ => one (fun _ _ v => intResult p false ((at' v 0).toInt.natAbs))))

/-- Every well-formed form of AND, OR, XOR, ANDN, BOOL3, SHL, SHR, SAR, ROT, SHF, BFX, BFI, PRMT, POPC, CLZ, CTZ and BREV completes wherever its
group may act, its sources can be read and its destination exists: the destination holds the function of the values read in every lane that runs,
and nothing else has changed (R146, R149, R150). -/
def Obligations.BitOperations : Prop :=
  (∀ p w, WF.and_32 p w = true → Computes (.and_32 p w) p w (Dst.ofCode w.d) 1 (ab32 w) (fun _ => one (word2 (· &&& ·)))) ∧
  (∀ p w x, WF.and_64 p w x = true → Computes (.and_64 p w x) p w (dstD w x) 1 (abImm immZ w x) (fun _ => one (word2 (· &&& ·)))) ∧
  (∀ p w x lit, WF.and_96 p w x lit = true → Computes (.and_96 p w x lit) p w (dstD w x) 1 (abLit w x lit) (fun _ => one (word2 (· &&& ·)))) ∧
  (∀ p w, WF.or_32 p w = true → Computes (.or_32 p w) p w (Dst.ofCode w.d) 1 (ab32 w) (fun _ => one (word2 (· ||| ·)))) ∧
  (∀ p w x, WF.or_64 p w x = true → Computes (.or_64 p w x) p w (dstD w x) 1 (abImm immZ w x) (fun _ => one (word2 (· ||| ·)))) ∧
  (∀ p w x lit, WF.or_96 p w x lit = true → Computes (.or_96 p w x lit) p w (dstD w x) 1 (abLit w x lit) (fun _ => one (word2 (· ||| ·)))) ∧
  (∀ p w, WF.xor_32 p w = true → Computes (.xor_32 p w) p w (Dst.ofCode w.d) 1 (ab32 w) (fun _ => one (word2 (· ^^^ ·)))) ∧
  (∀ p w x, WF.xor_64 p w x = true → Computes (.xor_64 p w x) p w (dstD w x) 1 (abImm immZ w x) (fun _ => one (word2 (· ^^^ ·)))) ∧
  (∀ p w x lit, WF.xor_96 p w x lit = true → Computes (.xor_96 p w x lit) p w (dstD w x) 1 (abLit w x lit) (fun _ => one (word2 (· ^^^ ·)))) ∧
  (∀ p w, WF.andn_32 p w = true → Computes (.andn_32 p w) p w (Dst.ofCode w.d) 1 (ab32 w) (fun _ => one (word2 (fun a b => a &&& ~~~b)))) ∧
  (∀ p w x, WF.andn_64 p w x = true → Computes (.andn_64 p w x) p w (dstD w x) 1 (abImm immZ w x) (fun _ => one (word2 (fun a b => a &&& ~~~b)))) ∧
  (∀ p w x lit, WF.andn_96 p w x lit = true → Computes (.andn_96 p w x lit) p w (dstD w x) 1 (abLit w x lit) (fun _ => one (word2 (fun a b => a &&& ~~~b)))) ∧
  (∀ p w x, WF.bool3_64 p w x = true → Computes (.bool3_64 p w x) p w (dstD w x) 1 (abc64 w x) (fun _ => one (word3 (bool3W (field x.hi 0 8))))) ∧
  (∀ p w x lit, WF.bool3_96 p w x lit = true → Computes (.bool3_96 p w x lit) p w (dstD w x) 1 (abcLit w x lit) (fun _ => one (word3 (bool3W (field x.hi 0 8))))) ∧
  (∀ p w, WF.shl_32 p w = true → Computes (.shl_32 p w) p w (Dst.ofCode w.d) 1 (ab32 w) (fun _ => one (word2 shlW))) ∧
  (∀ p w x, WF.shl_64 p w x = true → Computes (.shl_64 p w x) p w (dstD w x) 1 (abImm immZ w x) (fun _ => one (word2 shlW))) ∧
  (∀ p w x lit, WF.shl_96 p w x lit = true → Computes (.shl_96 p w x lit) p w (dstD w x) 1 (abLit w x lit) (fun _ => one (word2 shlW))) ∧
  (∀ p w, WF.shr_32 p w = true → Computes (.shr_32 p w) p w (Dst.ofCode w.d) 1 (ab32 w) (fun _ => one (word2 shrW))) ∧
  (∀ p w x, WF.shr_64 p w x = true → Computes (.shr_64 p w x) p w (dstD w x) 1 (abImm immZ w x) (fun _ => one (word2 shrW))) ∧
  (∀ p w x lit, WF.shr_96 p w x lit = true → Computes (.shr_96 p w x lit) p w (dstD w x) 1 (abLit w x lit) (fun _ => one (word2 shrW))) ∧
  (∀ p w, WF.sar_32 p w = true → Computes (.sar_32 p w) p w (Dst.ofCode w.d) 1 (ab32 w) (fun _ => one (word2 sarW))) ∧
  (∀ p w x, WF.sar_64 p w x = true → Computes (.sar_64 p w x) p w (dstD w x) 1 (abImm immZ w x) (fun _ => one (word2 sarW))) ∧
  (∀ p w x lit, WF.sar_96 p w x lit = true → Computes (.sar_96 p w x lit) p w (dstD w x) 1 (abLit w x lit) (fun _ => one (word2 sarW))) ∧
  (∀ p w, WF.rot_32 p w = true → Computes (.rot_32 p w) p w (Dst.ofCode w.d) 1 (ab32 w) (fun _ => one (word2 rotW))) ∧
  (∀ p w x, WF.rot_64 p w x = true → Computes (.rot_64 p w x) p w (dstD w x) 1 (abImm immZ w x) (fun _ => one (word2 rotW))) ∧
  (∀ p w x lit, WF.rot_96 p w x lit = true → Computes (.rot_96 p w x lit) p w (dstD w x) 1 (abLit w x lit) (fun _ => one (word2 rotW))) ∧
  (∀ p w, WF.shf_32 p w = true → Computes (.shf_32 p w) p w (Dst.ofCode w.d) 1 (abc32 w) (fun _ => one (word3 (shfW false)))) ∧
  (∀ p w x, WF.shf_64 p w x = true → Computes (.shf_64 p w x) p w (dstD w x) 1 (abc64 w x) (fun _ => one (word3 (shfW (x.hi.getLsbD 0))))) ∧
  (∀ p w x lit, WF.shf_96 p w x lit = true → Computes (.shf_96 p w x lit) p w (dstD w x) 1 (abcLit w x lit) (fun _ => one (word3 (shfW (x.hi.getLsbD 0))))) ∧
  (∀ p w, WF.bfx_32 p w = true → Computes (.bfx_32 p w) p w (Dst.ofCode w.d) 1 (ab32 w) (fun _ => one (word2 (bfxW false)))) ∧
  (∀ p w x, WF.bfx_64 p w x = true → Computes (.bfx_64 p w x) p w (dstD w x) 1 (abImm immZ w x) (fun _ => one (word2 (bfxW (typeC x))))) ∧
  (∀ p w x lit, WF.bfx_96 p w x lit = true → Computes (.bfx_96 p w x lit) p w (dstD w x) 1 (abLit w x lit) (fun _ => one (word2 (bfxW (typeC x))))) ∧
  (∀ p w, WF.bfi_32 p w = true → Computes (.bfi_32 p w) p w (Dst.ofCode w.d) 1 (abc32 w) (fun _ => one (word3 bfiW))) ∧
  (∀ p w x, WF.bfi_64 p w x = true → Computes (.bfi_64 p w x) p w (dstD w x) 1 (abcImm immZ w x) (fun _ => one (word3 bfiW))) ∧
  (∀ p w x lit, WF.bfi_96 p w x lit = true → Computes (.bfi_96 p w x lit) p w (dstD w x) 1 (abcLit w x lit) (fun _ => one (word3 bfiW))) ∧
  (∀ p w, WF.prmt_32 p w = true → Computes (.prmt_32 p w) p w (Dst.ofCode w.d) 1 (abc32 w) (fun _ => one (word3 prmtW))) ∧
  (∀ p w x, WF.prmt_64 p w x = true → Computes (.prmt_64 p w x) p w (dstD w x) 1 (abcImm immZ w x) (fun _ => one (word3 prmtW))) ∧
  (∀ p w x lit, WF.prmt_96 p w x lit = true → Computes (.prmt_96 p w x lit) p w (dstD w x) 1 (abcLit w x lit) (fun _ => one (word3 prmtW))) ∧
  (∀ p w, WF.popc p w = true → Computes (.popc p w) p w (Dst.ofCode w.d) 1 [(w.luA, .code w.a)] (fun _ => one (word1 popcW))) ∧
  (∀ p w, WF.clz p w = true → Computes (.clz p w) p w (Dst.ofCode w.d) 1 [(w.luA, .code w.a)] (fun _ => one (word1 clzW))) ∧
  (∀ p w, WF.ctz p w = true → Computes (.ctz p w) p w (Dst.ofCode w.d) 1 [(w.luA, .code w.a)] (fun _ => one (word1 ctzW))) ∧
  (∀ p w, WF.brev p w = true → Computes (.brev p w) p w (Dst.ofCode w.d) 1 [(w.luA, .code w.a)] (fun _ => one (word1 brevW)))

/-- Every well-formed form of ISEL, IMADW, LEA and IADDC completes wherever its group may act, its sources can be read and its destination exists:
ISEL gives a or b by the lane's bit of its mask register (a uniform one by the whole register), IMADW and LEA give the pair of the exact value
modulo 2^64, in every lane that runs; IADDC, with the carry in of the lane's bit of k[kc] unless first is set, gives the sum modulo 2^32 in every
lane that runs and in bit i of k[kc] the carry of every lane that is on, every other bit staying; nothing else has changed (R148, R150). -/
def Obligations.SelectsPairsAndCarry : Prop :=
  (∀ p w, WF.isel_32 p w = true → Computes (.isel_32 p w) p w (Dst.ofCode w.d) 1 (ab32 w) (fun c => select c (Dst.ofCode w.d) 0 false)) ∧
  (∀ p w x, WF.isel_64 p w x = true → Computes (.isel_64 p w x) p w (dstD w x) 1 (abImm immS w x) (fun c => select c (dstD w x) (field x.c 0 3).toNat (x.c.getLsbD 3))) ∧
  (∀ p w x lit, WF.isel_96 p w x lit = true → Computes (.isel_96 p w x lit) p w (dstD w x) 1 (abLit w x lit) (fun c => select c (dstD w x) (field x.c 0 3).toNat (x.c.getLsbD 3))) ∧
  (∀ p w, WF.imadw_32 p w = true → Computes (.imadw_32 p w) p w (Dst.ofCode w.d) 2 (abc32 w ++ [(false, (Src.code w.d).up 1)]) (fun _ => madwide false)) ∧
  (∀ p w x, WF.imadw_64 p w x = true → Computes (.imadw_64 p w x) p w (Dst.ofCode w.d) 2 (abc64 w x ++ [(false, (Src.code x.c).up 1)]) (fun _ => madwide (x.hi.getLsbD 0))) ∧
  (∀ p w x lit, WF.imadw_96 p w x lit = true → Computes (.imadw_96 p w x lit) p w (Dst.ofCode w.d) 2 (abcLit w x lit ++ [(false, (Src.code x.c).up 1)]) (fun _ => madwide (x.hi.getLsbD 0))) ∧
  (∀ p w, WF.lea_32 p w = true → Computes (.lea_32 p w) p w (Dst.ofCode w.d) 2 ([(w.luA, .code w.a), (w.luA, (Src.code w.a).up 1)] ++ [(w.luB, .code w.b)]) (fun _ => leaPair false 0)) ∧
  (∀ p w x, WF.lea_64 p w x = true → Computes (.lea_64 p w x) p w (Dst.ofCode w.d) 2 ([(w.luA, .code w.a), (w.luA, (Src.code w.a).up 1)] ++ [immB (immT (x.c.getLsbD 3)) w x]) (fun _ => leaPair (x.c.getLsbD 3) (field x.c 0 3).toNat)) ∧
  (∀ p w x lit, WF.lea_96 p w x lit = true → Computes (.lea_96 p w x lit) p w (Dst.ofCode w.d) 2 ([(w.luA, .code w.a), (w.luA, (Src.code w.a).up 1)] ++ [(false, .const lit)]) (fun _ => leaPair (x.c.getLsbD 3) (field x.c 0 3).toNat)) ∧
  (∀ p w, WF.iaddc_32 p w = true → AddsWithCarry (.iaddc_32 p w) p w (Dst.ofCode w.d) (ab32 w) 0 false) ∧
  (∀ p w x, WF.iaddc_64 p w x = true → AddsWithCarry (.iaddc_64 p w x) p w (dstD w x) (abImm immS w x) (field x.c 0 3).toNat (x.c.getLsbD 3)) ∧
  (∀ p w x lit, WF.iaddc_96 p w x lit = true → AddsWithCarry (.iaddc_96 p w x lit) p w (dstD w x) (abLit w x lit) (field x.c 0 3).toNat (x.c.getLsbD 3))

/-- Every well-formed form of ICMP and FCMP, and MOVK to a mask, completes wherever its group may act and its sources can be read: bit i of k[n]
is the condition on the values of lane i in every lane that is on, every other bit of it and every other register stays; FCMP sets NV as R154 says
(R148, R151, R154, R164). -/
def Obligations.Comparisons : Prop :=
  (∀ p w, WF.icmp_32 p w = true → Compares (.icmp_32 p w) p w (field w.d 0 3).toNat (ab32 w) (icmpTrue (field w.d 3 3).toNat)) ∧
  (∀ p w x, WF.icmp_64 p w x = true → Compares (.icmp_64 p w x) p w (field w.d 0 3).toNat (abImm (if 6 ≤ ccOf w x then immZ else immS) w x) (icmpTrue (ccOf w x))) ∧
  (∀ p w x lit, WF.icmp_96 p w x lit = true → Compares (.icmp_96 p w x lit) p w (field w.d 0 3).toNat (abLit w x lit) (icmpTrue (ccOf w x))) ∧
  (∀ p w, WF.fcmp_32 p w = true → Compares (.fcmp_32 p w) p w (field w.d 0 3).toNat (ab32 w) (fcmpTrue p (field w.d 3 3).toNat)) ∧
  (∀ p w x, WF.fcmp_64 p w x = true → Compares (.fcmp_64 p w x) p w (field w.d 0 3).toNat (abImm immF w x) (fcmpTrue p (field w.d 3 3).toNat)) ∧
  (∀ p w x lit, WF.fcmp_96 p w x lit = true → Compares (.fcmp_96 p w x lit) p w (field w.d 0 3).toNat (abLit w x lit) (fcmpTrue p (field w.d 3 3).toNat)) ∧
  (∀ p w, WF.movk_to_mask p w = true → Compares (.movk_to_mask p w) p w (field w.d 0 3).toNat [(w.luA, .code w.a)] movkTrue)

/-- Every well-formed form of FADD, FMUL, FFMA, FMIN and FMAX completes wherever its group may act, its sources can be read and its destination
exists: the destination holds the rounded and saturated value of R153 in every lane that runs, its flags are set, an SR instruction counts one in
srseq, and nothing else has changed (R116, R146, R152, R153). -/
def Obligations.FloatArithmetic : Prop :=
  (∀ p w, WF.fadd_32 p w = true → Computes (.fadd_32 p w) p w (Dst.ofCode w.d) 1 (ab32 w) (fun c => one (f32Fn c p .add))) ∧
  (∀ p w x, WF.fadd_64 p w x = true → Computes (.fadd_64 p w x) p w (dstD w x) 1 (abImm immF w x) (fun c => one (f32Fn c p .add))) ∧
  (∀ p w x lit, WF.fadd_96 p w x lit = true → Computes (.fadd_96 p w x lit) p w (dstD w x) 1 (abLit w x lit) (fun c => one (f32Fn c p .add))) ∧
  (∀ p w, WF.fmul_32 p w = true → Computes (.fmul_32 p w) p w (Dst.ofCode w.d) 1 (ab32 w) (fun c => one (f32Fn c p .mul))) ∧
  (∀ p w x, WF.fmul_64 p w x = true → Computes (.fmul_64 p w x) p w (dstD w x) 1 (abImm immF w x) (fun c => one (f32Fn c p .mul))) ∧
  (∀ p w x lit, WF.fmul_96 p w x lit = true → Computes (.fmul_96 p w x lit) p w (dstD w x) 1 (abLit w x lit) (fun c => one (f32Fn c p .mul))) ∧
  (∀ p w, WF.ffma_32 p w = true → Computes (.ffma_32 p w) p w (Dst.ofCode w.d) 1 (abc32 w) (fun c => one (f32Fn c p .fma))) ∧
  (∀ p w x, WF.ffma_64 p w x = true → Computes (.ffma_64 p w x) p w (dstD w x) 1 (abcImm immF w x) (fun c => one (f32Fn c p .fma))) ∧
  (∀ p w x lit, WF.ffma_96 p w x lit = true → Computes (.ffma_96 p w x lit) p w (dstD w x) 1 (abcLit w x lit) (fun c => one (f32Fn c p .fma))) ∧
  (∀ p w, WF.fmin_32 p w = true → Computes (.fmin_32 p w) p w (Dst.ofCode w.d) 1 (ab32 w) (fun _ => one (fmmFn p false))) ∧
  (∀ p w x, WF.fmin_64 p w x = true → Computes (.fmin_64 p w x) p w (dstD w x) 1 (abImm immF w x) (fun _ => one (fmmFn p false))) ∧
  (∀ p w x lit, WF.fmin_96 p w x lit = true → Computes (.fmin_96 p w x lit) p w (dstD w x) 1 (abLit w x lit) (fun _ => one (fmmFn p false))) ∧
  (∀ p w, WF.fmax_32 p w = true → Computes (.fmax_32 p w) p w (Dst.ofCode w.d) 1 (ab32 w) (fun _ => one (fmmFn p true))) ∧
  (∀ p w x, WF.fmax_64 p w x = true → Computes (.fmax_64 p w x) p w (dstD w x) 1 (abImm immF w x) (fun _ => one (fmmFn p true))) ∧
  (∀ p w x lit, WF.fmax_96 p w x lit = true → Computes (.fmax_96 p w x lit) p w (dstD w x) 1 (abLit w x lit) (fun _ => one (fmmFn p true)))

/-- FRCP, FRSQ, FSQRT, FEXP2, FLOG2, FSIN, FCOS, FTANH, FRND and FFRC, where well-formed, complete wherever their group may act, the source can be
read and the destination exists: the destination holds the function of R155 in every lane that runs, its flags are set, and nothing else has
changed. -/
def Obligations.SpecialFunctions : Prop :=
  (∀ p w, WF.frcp p w = true → Computes (.frcp p w) p w (Dst.ofCode w.d) 1 [(w.luA, .code w.a)] (fun c => one (sfnFn c p .rcp))) ∧
  (∀ p w, WF.frsq p w = true → Computes (.frsq p w) p w (Dst.ofCode w.d) 1 [(w.luA, .code w.a)] (fun c => one (sfnFn c p .rsq))) ∧
  (∀ p w, WF.fsqrt p w = true → Computes (.fsqrt p w) p w (Dst.ofCode w.d) 1 [(w.luA, .code w.a)] (fun c => one (sfnFn c p .sqrt))) ∧
  (∀ p w, WF.fexp2 p w = true → Computes (.fexp2 p w) p w (Dst.ofCode w.d) 1 [(w.luA, .code w.a)] (fun c => one (sfnFn c p .exp2))) ∧
  (∀ p w, WF.flog2 p w = true → Computes (.flog2 p w) p w (Dst.ofCode w.d) 1 [(w.luA, .code w.a)] (fun c => one (sfnFn c p .log2))) ∧
  (∀ p w, WF.fsin p w = true → Computes (.fsin p w) p w (Dst.ofCode w.d) 1 [(w.luA, .code w.a)] (fun c => one (sfnFn c p .sin))) ∧
  (∀ p w, WF.fcos p w = true → Computes (.fcos p w) p w (Dst.ofCode w.d) 1 [(w.luA, .code w.a)] (fun c => one (sfnFn c p .cos))) ∧
  (∀ p w, WF.ftanh p w = true → Computes (.ftanh p w) p w (Dst.ofCode w.d) 1 [(w.luA, .code w.a)] (fun c => one (sfnFn c p .tanh))) ∧
  (∀ p w, WF.frnd p w = true → Computes (.frnd p w) p w (Dst.ofCode w.d) 1 [(w.luA, .code w.a)] (fun c => one (fun s i v => let r := frnd (laneRM s c p i 0) (at' v 0).toNat; (BitVec.ofNat 32 r.1, r.2)))) ∧
  (∀ p w, WF.ffrc p w = true → Computes (.ffrc p w) p w (Dst.ofCode w.d) 1 [(w.luA, .code w.a)] (fun c => one (fun s i v => let r := ffrc (laneRM s c p i 0) (at' v 0).toNat; (BitVec.ofNat 32 r.1, r.2))))

/-- Every well-formed form of HADD2, HMUL2, HFMA2, HMIN2, HMAX2 and HCMP2 completes wherever its group may act, its sources can be read and its
destination exists: each half of the destination holds the FP32 counterpart's function of that half in the type's precision, the flags of both
halves are set, and nothing else has changed (R156). -/
def Obligations.PackedHalves : Prop :=
  (∀ p w, WF.hadd2_32 p w = true → Computes (.hadd2_32 p w) p w (Dst.ofCode w.d) 1 (ab32 w) (fun c => one (halfFn c p .add false))) ∧
  (∀ p w x, WF.hadd2_64 p w x = true → Computes (.hadd2_64 p w x) p w (dstD w x) 1 (abImm immH w x) (fun c => one (halfFn c p .add (x.c.getLsbD 0)))) ∧
  (∀ p w x lit, WF.hadd2_96 p w x lit = true → Computes (.hadd2_96 p w x lit) p w (dstD w x) 1 (abLit w x lit) (fun c => one (halfFn c p .add (x.c.getLsbD 0)))) ∧
  (∀ p w, WF.hmul2_32 p w = true → Computes (.hmul2_32 p w) p w (Dst.ofCode w.d) 1 (ab32 w) (fun c => one (halfFn c p .mul false))) ∧
  (∀ p w x, WF.hmul2_64 p w x = true → Computes (.hmul2_64 p w x) p w (dstD w x) 1 (abImm immH w x) (fun c => one (halfFn c p .mul (x.c.getLsbD 0)))) ∧
  (∀ p w x lit, WF.hmul2_96 p w x lit = true → Computes (.hmul2_96 p w x lit) p w (dstD w x) 1 (abLit w x lit) (fun c => one (halfFn c p .mul (x.c.getLsbD 0)))) ∧
  (∀ p w, WF.hfma2_32 p w = true → Computes (.hfma2_32 p w) p w (Dst.ofCode w.d) 1 (abc32 w) (fun c => one (halfFn c p .fma false))) ∧
  (∀ p w x, WF.hfma2_64 p w x = true → Computes (.hfma2_64 p w x) p w (dstD w x) 1 (abc64 w x) (fun c => one (halfFn c p .fma (x.hi.getLsbD 0)))) ∧
  (∀ p w x lit, WF.hfma2_96 p w x lit = true → Computes (.hfma2_96 p w x lit) p w (dstD w x) 1 (abcLit w x lit) (fun c => one (halfFn c p .fma (x.hi.getLsbD 0)))) ∧
  (∀ p w, WF.hmin2_32 p w = true → Computes (.hmin2_32 p w) p w (Dst.ofCode w.d) 1 (ab32 w) (fun _ => one (halfMm p false false))) ∧
  (∀ p w x, WF.hmin2_64 p w x = true → Computes (.hmin2_64 p w x) p w (dstD w x) 1 (abImm immH w x) (fun _ => one (halfMm p false (x.c.getLsbD 0)))) ∧
  (∀ p w x lit, WF.hmin2_96 p w x lit = true → Computes (.hmin2_96 p w x lit) p w (dstD w x) 1 (abLit w x lit) (fun _ => one (halfMm p false (x.c.getLsbD 0)))) ∧
  (∀ p w, WF.hmax2_32 p w = true → Computes (.hmax2_32 p w) p w (Dst.ofCode w.d) 1 (ab32 w) (fun _ => one (halfMm p true false))) ∧
  (∀ p w x, WF.hmax2_64 p w x = true → Computes (.hmax2_64 p w x) p w (dstD w x) 1 (abImm immH w x) (fun _ => one (halfMm p true (x.c.getLsbD 0)))) ∧
  (∀ p w x lit, WF.hmax2_96 p w x lit = true → Computes (.hmax2_96 p w x lit) p w (dstD w x) 1 (abLit w x lit) (fun _ => one (halfMm p true (x.c.getLsbD 0)))) ∧
  (∀ p w, WF.hcmp2_32 p w = true → Computes (.hcmp2_32 p w) p w (Dst.ofCode w.d) 1 (ab32 w) (fun _ => one (halfCmp p 0 false))) ∧
  (∀ p w x, WF.hcmp2_64 p w x = true → Computes (.hcmp2_64 p w x) p w (dstD w x) 1 (abImm immH w x) (fun _ => one (halfCmp p (field x.c 1 3).toNat (x.c.getLsbD 0)))) ∧
  (∀ p w x lit, WF.hcmp2_96 p w x lit = true → Computes (.hcmp2_96 p w x lit) p w (dstD w x) 1 (abLit w x lit) (fun _ => one (halfCmp p (field x.c 1 3).toNat (x.c.getLsbD 0))))

/-- Every well-formed form of CVT, CVTP, CVTU, SCL, DOT2, DOT4 and DOT8 completes wherever its group may act, its sources can be read and its
destination exists: the destination holds the conversion of R159 to R162, or C plus the products as R163 forms them, in every lane that runs, its
flags are set, and nothing else has changed. -/
def Obligations.ConversionsAndDotProducts : Prop :=
  (∀ p w, WF.cvt_32 p w = true → Computes (.cvt_32 p w) p w (Dst.ofCode w.d) 1 [(w.luA, .code w.a)] (fun c => one (cvtFn c p (field w.b 0 3).toNat (field w.b 3 3).toNat))) ∧
  (∀ p w x, WF.cvt_64 p w x = true → Computes (.cvt_64 p w x) p w (dstD w x) 1 [(w.luA, srcA w x)] (fun c => one (cvtFn c p (field x.hi 0 4).toNat (field x.hi 4 4).toNat))) ∧
  (∀ p w, WF.cvtp_32 p w = true → Computes (.cvtp_32 p w) p w (Dst.ofCode w.d) 1 ([(w.luA, .code w.a), (w.luB, .code w.b)] ++ (if narrowWidth 0 = 16 then [] else [(false, .code w.d)])) (fun c => one (cvtpFn c p 0 0))) ∧
  (∀ p w x, WF.cvtp_64 p w x = true → Computes (.cvtp_64 p w x) p w (dstD w x) 1 ([(w.luA, srcA w x), (w.luB, srcB w x)] ++ (if narrowWidth (field x.hi 0 3).toNat = 16 then [] else [(false, (dstD w x).src)])) (fun c => one (cvtpFn c p (field x.hi 0 3).toNat (field x.hi 3 2).toNat))) ∧
  (∀ p w, WF.cvtu_32 p w = true → Computes (.cvtu_32 p w) p w (Dst.ofCode w.d) 1 [(w.luA, .code w.a)] (fun _ => one (cvtuFn p (field w.b 3 3).toNat (field w.b 0 3).toNat))) ∧
  (∀ p w x, WF.cvtu_64 p w x = true → Computes (.cvtu_64 p w x) p w (dstD w x) 1 [(w.luA, srcA w x)] (fun _ => one (cvtuFn p (field w.b 3 3).toNat (field w.b 0 3).toNat))) ∧
  (∀ p w, WF.scl_32 p w = true → Computes (.scl_32 p w) p w (Dst.ofCode w.d) 1 (ab32 w) (fun c => one (sclFn c p 0 0))) ∧
  (∀ p w x, WF.scl_64 p w x = true → Computes (.scl_64 p w x) p w (dstD w x) 1 [(w.luA, srcA w x), (w.luB, srcB w x)] (fun c => one (sclFn c p (field x.hi 2 2).toNat (field x.hi 0 2).toNat))) ∧
  (∀ p w, WF.dot2_32 p w = true → Computes (.dot2_32 p w) p w (Dst.ofCode w.d) 1 (abc32 w) (fun c => one (dotFn c p 2 0 0))) ∧
  (∀ p w x, WF.dot2_64 p w x = true → Computes (.dot2_64 p w x) p w (dstD w x) 1 (abc64 w x) (fun c => one (dotFn c p 2 (field x.hi 0 3).toNat (field x.hi 3 3).toNat))) ∧
  (∀ p w, WF.dot4_32 p w = true → Computes (.dot4_32 p w) p w (Dst.ofCode w.d) 1 (abc32 w) (fun c => one (dotFn c p 4 0 0))) ∧
  (∀ p w x, WF.dot4_64 p w x = true → Computes (.dot4_64 p w x) p w (dstD w x) 1 (abc64 w x) (fun c => one (dotFn c p 4 (field x.hi 0 3).toNat (field x.hi 3 3).toNat))) ∧
  (∀ p w, WF.dot8_32 p w = true → Computes (.dot8_32 p w) p w (Dst.ofCode w.d) 1 (abc32 w) (fun c => one (dotFn c p 8 0 0))) ∧
  (∀ p w x, WF.dot8_64 p w x = true → Computes (.dot8_64 p w x) p w (dstD w x) 1 (abc64 w x) (fun c => one (dotFn c p 8 (field x.hi 0 3).toNat (field x.hi 3 3).toNat)))

/-- MOVO, MOVM, MOVU, MOVK from a mask and LDI, in every well-formed form, complete wherever their group may act, the source can be read and the
destination exists: the destination holds the source's value, or the whole mask register, in every lane that runs, and nothing else has changed
(R164). -/
def Obligations.Moves : Prop :=
  (∀ p w x, WF.movo p w x = true → Computes (.movo p w x) p w (dstD w x) 1 [(w.luA, srcA w x)] (fun _ => one moveFn)) ∧
  (∀ p w x, WF.movm p w x = true → Computes (.movm p w x) p w (dstD w x) 1 [(w.luA, srcA w x)] (fun _ => one moveFn)) ∧
  (∀ p w, WF.movu_32 p w = true → Computes (.movu_32 p w) p w (Dst.ofCode w.d) 1 [(w.luA, .code w.a)] (fun _ => one moveFn)) ∧
  (∀ p w x, WF.movu_64 p w x = true → Computes (.movu_64 p w x) p w (dstD w x) 1 [(w.luA, srcA w x)] (fun _ => one moveFn)) ∧
  (∀ p w, WF.movk_from_mask p w = true → Computes (.movk_from_mask p w) p w (Dst.ofCode w.d) 1 [] (fun c s _ _ => ([(maskReg s c w.a.toNat).bits], 0#8))) ∧
  (∀ p w x, WF.ldi_64 p w x = true → Computes (.ldi_64 p w x) p w (dstD w x) 1 [(false, .const (immT (x.c.getLsbD 0) x.hi))] (fun _ => one moveFn)) ∧
  (∀ p w x lit, WF.ldi_96 p w x lit = true → Computes (.ldi_96 p w x lit) p w (dstD w x) 1 [(false, .const lit)] (fun _ => one moveFn))

/-- CENSUS, ELECT, PICK, QX and PEERS, in every well-formed form, complete wherever their group may act, no member lies outside the sub-warp (or Z
is set) and their sources can be read: CENSUS and ELECT write the whole of their mask register, PICK and QX give each lane the value of its source
lane by the table of R176, PEERS the peers of R177; a mask or register that is no destination, every flag and every byte of memory stays. -/
def Obligations.LaneExchanges : Prop :=
  (∀ p w, WF.census_32 p w = true → CrossesMask (.census_32 p w) p w (field w.d 0 3).toNat [.code w.a]
    (fun s c m => censusResult s c m (.code w.a) (field w.d 3 3).toNat false)) ∧
  (∀ p w x, WF.census_64 p w x = true → CrossesMask (.census_64 p w x) p w (field w.d 0 3).toNat [srcA w x]
    (fun s c m => censusResult s c m (srcA w x) (field w.d 3 3).toNat (x.hi.getLsbD 0))) ∧
  (∀ p w, WF.elect p w = true → CrossesMask (.elect p w) p w w.d.toNat [] (fun _ _ m => electBits m)) ∧
  (∀ p w, WF.pick_32 p w = true → Crosses (.pick_32 p w) p w (Dst.ofCode w.d) 1 [.code w.a] [.code w.a, .code w.b]
    (fun s c m i => [(exchange s c m (.code w.a) [] i (pickLane 0 32 i (srcVal s c (.code w.b) i))).1]) (fun _ _ _ => 0#8)) ∧
  (∀ p w x, WF.pick_64 p w x = true →
    let mode := (field x.c 0 2).toNat
    let b := (immB (immT (mode == 0 || mode == 3)) w x).2
    Crosses (.pick_64 p w x) p w (dstD w x) 1 [srcA w x] [srcA w x, b]
      (fun s c m i => [(exchange s c m (srcA w x) [] i (pickLane mode (32 / 2 ^ (field x.c 2 3).toNat) i (srcVal s c b i))).1])
      (fun _ _ _ => 0#8)) ∧
  (∀ p w, WF.qx_32 p w = true → Crosses (.qx_32 p w) p w (Dst.ofCode w.d) 1 [.code w.a] [.code w.a]
    (fun s c m i => [(exchange s c m (.code w.a) [] i (qxLane w.b.toNat i)).1]) (fun _ _ _ => 0#8)) ∧
  (∀ p w x, WF.qx_64 p w x = true → Crosses (.qx_64 p w x) p w (dstD w x) 1 [srcA w x] [srcA w x]
    (fun s c m i => [(exchange s c m (srcA w x) [] i (qxLane w.b.toNat i)).1]) (fun _ _ _ => 0#8)) ∧
  (∀ p w, WF.peers_32 p w = true → Crosses (.peers_32 p w) p w (Dst.ofCode w.d) 1 [.code w.a] [.code w.a]
    (fun s c m i => [peersResult s c m (.code w.a) w.b.toNat false i]) (fun _ _ _ => 0#8)) ∧
  (∀ p w x, WF.peers_64 p w x = true →
    let two := x.hi.getLsbD 0
    let xs := if two then [srcA w x, (srcA w x).up 1] else [srcA w x]
    Crosses (.peers_64 p w x) p w (dstD w x) (if two then 2 else 1) xs xs
      (fun s c m i => [peersResult s c m (srcA w x) w.b.toNat two i, 0#32]) (fun _ _ _ => 0#8))

/-- RED, SCAN, DRAW and DRAWM, in every well-formed form, complete wherever their group may act, no member lies outside the sub-warp (or Z is set)
and their sources can be read: the destination holds in every lane that runs the combination of the lane's span (R178), or the pair that the draw
of its group chose (R179), their flags are set, and nothing else has changed. -/
def Obligations.ReductionsAndDraws : Prop :=
  (∀ p w, WF.red_32 p w = true → Crosses (.red_32 p w) p w (Dst.ofCode w.d) 1 [.code w.a] []
    (fun s c m i => [(redResult s c p m (.code w.a) (field w.b 0 3).toNat (field w.b 3 3).toNat false false false i).1])
    (fun s c m => raised c false (fun i => (redResult s c p m (.code w.a) (field w.b 0 3).toNat (field w.b 3 3).toNat false false false i).2))) ∧
  (∀ p w x, WF.red_64 p w x = true → Crosses (.red_64 p w x) p w (dstD w x) 1 [srcA w x] []
    (fun s c m i => [(redResult s c p m (srcA w x) (field w.b 0 3).toNat (field w.b 3 3).toNat (x.hi.getLsbD 0) false false i).1])
    (fun s c m => raised c false (fun i => (redResult s c p m (srcA w x) (field w.b 0 3).toNat (field w.b 3 3).toNat (x.hi.getLsbD 0) false false i).2))) ∧
  (∀ p w, WF.scan_32 p w = true → Crosses (.scan_32 p w) p w (Dst.ofCode w.d) 1 [.code w.a] []
    (fun s c m i => [(redResult s c p m (.code w.a) (field w.b 0 3).toNat (field w.b 3 3).toNat false true false i).1])
    (fun s c m => raised c false (fun i => (redResult s c p m (.code w.a) (field w.b 0 3).toNat (field w.b 3 3).toNat false true false i).2))) ∧
  (∀ p w x, WF.scan_64 p w x = true → Crosses (.scan_64 p w x) p w (dstD w x) 1 [srcA w x] []
    (fun s c m i => [(redResult s c p m (srcA w x) (field w.b 0 3).toNat (field w.b 3 3).toNat (x.hi.getLsbD 0) true (x.hi.getLsbD 1) i).1])
    (fun s c m => raised c false (fun i =>
      (redResult s c p m (srcA w x) (field w.b 0 3).toNat (field w.b 3 3).toNat (x.hi.getLsbD 0) true (x.hi.getLsbD 1) i).2))) ∧
  (∀ p w x, WF.draw p w x = true →
    let leaves := fun (c : Ctx) (s : State) (j : Nat) =>
      leaf (srcVal s c (drawTSrc x) 0).toNat (srcVal s c (.code w.a) j).toNat (srcVal s c (.code w.b) j).toNat
    let roots := fun s c m => drawRoots s c m x.c (x.hi.getLsbD 0) ((srcVal s c (drawTSrc x) 0 &&& 0x7FFFFFFF#32) == 0#32) (leaves c)
    Crosses (.draw p w x) p w (Dst.ofCode w.d) 2 [.code w.a, .code w.b] (drawTSrc x :: keySrcs x.c)
      (fun s c m i => [BitVec.ofNat 32 (drawPair c (x.hi.getLsbD 0) (roots s c m) i).l, BitVec.ofNat 32 (drawPair c (x.hi.getLsbD 0) (roots s c m) i).i])
      (fun s c m => drawFlags s m (leaves c) (roots s c m))) ∧
  (∀ p w x, WF.drawm p w x = true →
    let leaves := fun (c : Ctx) (s : State) (j : Nat) =>
      ((⟨(srcVal s c (.code w.a) j).toNat, (srcVal s c ((Src.code w.a).up 1) j).toNat⟩ : Pair), 0#8)
    let roots := fun s c m => drawRoots s c m x.c (x.hi.getLsbD 0) (x.hi.getLsbD 1) (leaves c)
    Crosses (.drawm p w x) p w (Dst.ofCode w.d) 2 [.code w.a, (Src.code w.a).up 1] (keySrcs x.c)
      (fun s c m i => [BitVec.ofNat 32 (drawPair c (x.hi.getLsbD 0) (roots s c m) i).l, BitVec.ofNat 32 (drawPair c (x.hi.getLsbD 0) (roots s c m) i).i])
      (fun s c m => drawFlags s m (leaves c) (roots s c m)))

/-- Says of each of these constructors that it COMPLETES (exec answers a next state that holds its effect) under conditions on state and operands:
nop_h0, nop_h1, nop_h2, nop_h3, pad, prf_32, prf_64, yield. NOP, the four hints, PAD and PRF complete wherever their group may act and change no
register, flag, mask or byte of memory; the sub-warp goes on at the sequential successor (R84). YIELD does the same, makes the latches of the
quadrant invalid, and ends the run of the quadrant (R172). -/
def Obligations.NoEffect : Prop :=
  (DoesIf .nop Pfx.none (fun _ _ => True) (fun _ s => s) (fun _ _ => noReg) (fun _ _ => noMask) GoesOn) ∧
  (∀ w, DoesIf (.nop_h0 w) Pfx.none (fun _ _ => True) (fun _ s => s) (fun _ _ => noReg) (fun _ _ => noMask) GoesOn) ∧
  (∀ w, DoesIf (.nop_h1 w) Pfx.none (fun _ _ => True) (fun _ s => s) (fun _ _ => noReg) (fun _ _ => noMask) GoesOn) ∧
  (∀ w, DoesIf (.nop_h2 w) Pfx.none (fun _ _ => True) (fun _ s => s) (fun _ _ => noReg) (fun _ _ => noMask) GoesOn) ∧
  (∀ w, DoesIf (.nop_h3 w) Pfx.none (fun _ _ => True) (fun _ s => s) (fun _ _ => noReg) (fun _ _ => noMask) GoesOn) ∧
  (∀ p w, WF.pad p w = true → DoesIf (.pad p w) p (fun _ _ => True) (fun _ s => s) (fun _ _ => noReg) (fun _ _ => noMask) GoesOn) ∧
  (∀ p w, WF.prf_32 p w = true → DoesIf (.prf_32 p w) p (fun _ _ => True) (fun _ s => s) (fun _ _ => noReg) (fun _ _ => noMask) GoesOn) ∧
  (∀ p w x, WF.prf_64 p w x = true →
    DoesIf (.prf_64 p w x) p (fun _ _ => True) (fun _ s => s) (fun _ _ => noReg) (fun _ _ => noMask) GoesOn) ∧
  (∀ p w, WF.yield p w = true →
    DoesIf (.yield p w) p (fun _ _ => True) (fun c s => s.modQuad c.quad (fun q => { q with run := none })) (fun _ _ => noReg) (fun _ _ => noMask)
      (fun c s t => GoesOn c s t ∧ (t.quad c.quad).owner = none ∧ (t.quad c.quad).latches = Quad.reset.latches))

/-- Says of each of these constructors that it COMPLETES (exec answers a next state that holds its effect) under conditions on state and operands:
bra_64, bra_96. BRA completes wherever its group may act and its checks pass (the condition labels under the clearance, the target, and for a
split the join and a free entry): lanes that agree go to one PC, else the lowest free entry records the join, the two masks and the parent, and
the two children stand at target and successor; every register, mask, flag and byte of memory stays. -/
def Obligations.Branches : Prop :=
  (∀ p w x, WF.bra_64 p w x = true →
    let j := (w.b ++ w.a : BitVec 12).toInt
    Does (.bra_64 p w x) p (fun c => braChecks c w.d j x.hi.toInt) (fun _ _ s => s) (fun _ _ => noReg) (fun _ _ => noMask)
      (fun c r s t => Transferred c (braTransfer s c w.d j x.hi.toInt) r.2 s t)) ∧
  (∀ p w x lit, WF.bra_96 p w x lit = true →
    Does (.bra_96 p w x lit) p (fun c => braChecks c w.d x.hi.toInt lit.toInt) (fun _ _ s => s) (fun _ _ => noReg) (fun _ _ => noMask)
      (fun c r s t => Transferred c (braTransfer s c w.d x.hi.toInt lit.toInt) r.2 s t))

/-- Says of each of these constructors that it COMPLETES (exec answers a next state that holds its effect) under conditions on state and operands:
call_64, call_96, brx, callx, ret. CALL, CALLX, BRX and RET complete wherever their group may act and their checks pass: CALL and CALLX push the
successor with the path label in every lane of on, RET pops one entry in each of them; the lanes of on go to the target, to the return PC, or to
the PCs that the table holds, and the lanes that are off fall through; with no lane on nothing happens; every register, mask, flag and byte of
memory stays. -/
def Obligations.CallsAndTables : Prop :=
  (∀ p w x, WF.call_64 p w x = true →
    Does (.call_64 p w x) p (fun c => callChecks c x.hi.toInt) (fun c _ s => s.modWarp c.w (pushReturns c)) (fun _ _ => noReg) (fun _ _ => noMask)
      (fun c r s t => c.on ≠ 0#32 → (c.on = c.act → c.sub.id = none → NoSync s c.w → Stands t c.w none c.sub.mask (slotsFrom c.pc x.hi.toInt)) ∧
        (c.on ≠ c.act → Transferred c (partOf c (slotsFrom c.pc x.hi.toInt) c.next) r.2 s t))) ∧
  (∀ p w x lit, WF.call_96 p w x lit = true →
    Does (.call_96 p w x lit) p (fun c => callChecks c lit.toInt) (fun c _ s => s.modWarp c.w (pushReturns c)) (fun _ _ => noReg) (fun _ _ => noMask)
      (fun c r s t => c.on ≠ 0#32 → (c.on = c.act → c.sub.id = none → NoSync s c.w → Stands t c.w none c.sub.mask (slotsFrom c.pc lit.toInt)) ∧
        (c.on ≠ c.act → Transferred c (partOf c (slotsFrom c.pc lit.toInt) c.next) r.2 s t))) ∧
  (∀ p w x, WF.brx p w x = true →
    Does (.brx p w x) p (fun c => indirectChecks c w x false) (fun _ _ s => s) (fun _ _ => noReg) (fun _ _ => noMask)
      (fun c r s t => c.on ≠ 0#32 → Transferred c (indirectTransfer c x false r.1) r.2.2 s t)) ∧
  (∀ p w x, WF.callx p w x = true →
    Does (.callx p w x) p (fun c => indirectChecks c w x true) (fun c _ s => if c.on = 0#32 then s else s.modWarp c.w (pushReturns c))
      (fun _ _ => noReg) (fun _ _ => noMask)
      (fun c r s t => c.on ≠ 0#32 → Transferred c (indirectTransfer c x true r.1) r.2.2 s t)) ∧
  (∀ p w, WF.ret p w = true →
    Does (.ret p w) p retChecks (fun c r s => if r.isNone then s else popped c s) (fun _ _ => noReg) (fun _ _ => noMask)
      (fun c r s t => ∀ pc cl n, r = some (pc, cl, n) → c.on ≠ 0#32 →
        (c.on = c.act → c.sub.id = none → NoSync s c.w → Stands t c.w none c.sub.mask pc) ∧
        (c.on ≠ c.act → Transferred c (partOf c pc pc) n s t)))

/-- Says of each of these constructors that it COMPLETES (exec answers a next state that holds its effect) under conditions on state and operands:
exit, kill, syncw. EXIT and KILL complete wherever their group may act: after EXIT exactly the lanes that are on have exited too where others
remain, and the warp is dying with cause EXIT where none does; after KILL with a lane on it is dying with cause KILL, and its death stands in the
queue of the estate unit; with no lane on they do nothing; no register of a lane and no byte of memory changes. SYNCW outside a split does
nothing; in a split the sub-warp parks at the successor. -/
def Obligations.EndsOfLanes : Prop :=
  (∀ p w, WF.exit p w = true →
    ∀ s u, Issues s p u → ∃ t, Completes (.exit p w) s t ∧ (∀ d l, t.readMem d l = s.readMem d l) ∧
      (∀ n i, (t.warp s.cur.warp).reg (.o n i) = (s.warp s.cur.warp).reg (.o n i) ∧ (t.warp s.cur.warp).reg (.v n i) = (s.warp s.cur.warp).reg (.v n i)) ∧
      ((mkCtx s u p).on = 0#32 → Kept s.cur.warp noReg noMask (s.counted p) t) ∧
      ((mkCtx s u p).on ≠ 0#32 → (s.warp s.cur.warp).life = .resident →
        let left := liveLanes s s.cur.warp &&& ~~~(mkCtx s u p).on
        (left ≠ 0#32 → (t.warp s.cur.warp).life = .resident ∧ (t.warp s.cur.warp).exited = (s.warp s.cur.warp).exited ||| (mkCtx s u p).on) ∧
        (left = 0#32 → (t.warp s.cur.warp).life = .dying 0 u.maskLabel ∧ s.cur.warp ∈ t.deaths))) ∧
  (∀ p w, WF.kill p w = true →
    ∀ s u, Issues s p u → ∃ t, Completes (.kill p w) s t ∧ (∀ d l, t.readMem d l = s.readMem d l) ∧
      (∀ n i, (t.warp s.cur.warp).reg (.o n i) = (s.warp s.cur.warp).reg (.o n i) ∧ (t.warp s.cur.warp).reg (.v n i) = (s.warp s.cur.warp).reg (.v n i)) ∧
      ((mkCtx s u p).on = 0#32 → Kept s.cur.warp noReg noMask (s.counted p) t) ∧
      ((mkCtx s u p).on ≠ 0#32 → (s.warp s.cur.warp).life = .resident →
        (t.warp s.cur.warp).life = .dying 1 u.maskLabel ∧ (t.warp s.cur.warp).exited = BitVec.allOnes 32 ∧ (t.warp s.cur.warp).subs = [] ∧
          s.cur.warp ∈ t.deaths)) ∧
  (∀ p w, WF.syncw p w = true →
    DoesIf (.syncw p w) p (fun _ _ => True) (fun _ s => s) (fun _ _ => noReg) (fun _ _ => noMask)
      (fun c s t => GoesOn c s t ∧ (∀ e side, c.sub.id = some (e, side) →
        (∀ v, v ∈ (s.warp c.w).subs → v.id ≠ c.sub.id → v.hold ≠ .syncw) →
        (∀ z, z ∈ (s.warp c.w).splits → z.1 = e → z.2.arrived0 = false ∧ z.2.arrived1 = false) →
        ∃ v, (t.warp c.w).sub c.sub.id = some v ∧ v.pc = c.next ∧ v.mask = c.sub.mask ∧ v.hold = .syncw)))

/-- A cause that is raised at a sub-warp of a warp which has a handler for it, and is neither in its handler nor in a cue sheet, enters the
handler: the cause is set in %tc, s24 to s31 hold the trap record and stood before in the shadow bank, the sub-warp stands ready at the handler's
address, every other register and mask is as it was, and no byte of memory has changed (R209, R212). -/
def Obligations.TrapEntry : Prop :=
  ∀ s w u r, (s.warp w).sub u.id = some u → Handles s w r → Entered w u r s (takeTrap s w u.id r)

/-- With a lane on, TRAP raises SWTRAP in the lanes that are on with the successor as the return PC and its code in the record, and BKPT raises
BKPT; a code that its class and page do not assign raises ILLEGAL in every active lane, an orphaned run of prefix words ORPHAN and a malformed one
ILLEGAL at the PC that R99 names; each takes that trap at the issuing sub-warp, which has taken its issue opportunity (the latches of another
sub-warp are gone, R135), and does nothing else. With no lane on TRAP and BKPT do nothing. -/
def Obligations.TrapInstructions : Prop :=
  (∀ p w s u, WF.trap_32 p w = true → Issues s p u → s.cur.probe = false →
    let c := mkCtx s u p
    (c.on ≠ 0#32 → exec (.trap_32 p w) s =
      .next (takeTrap (takeLatches s u) c.w u.id { c.info 23 c.on with pc := c.next, high := zext (w.b ++ w.a : BitVec 12) 32 })) ∧
    (c.on = 0#32 → ∃ t, Completes (.trap_32 p w) s t ∧ Kept c.w noReg noMask (s.counted p) t)) ∧
  (∀ p w x s u, WF.trap_64 p w x = true → Issues s p u → s.cur.probe = false →
    let c := mkCtx s u p
    (c.on ≠ 0#32 → exec (.trap_64 p w x) s = .next (takeTrap (takeLatches s u) c.w u.id { c.info 23 c.on with pc := c.next, high := zext x.hi 32 })) ∧
    (c.on = 0#32 → ∃ t, Completes (.trap_64 p w x) s t ∧ Kept c.w noReg noMask (s.counted p) t)) ∧
  (∀ p w s u, WF.bkpt p w = true → Issues s p u → s.cur.probe = false →
    let c := mkCtx s u p
    (c.on ≠ 0#32 → exec (.bkpt p w) s = .next (takeTrap (takeLatches s u) c.w u.id (c.info 22 c.on))) ∧
    (c.on = 0#32 → ∃ t, Completes (.bkpt p w) s t ∧ Kept c.w noReg noMask (s.counted p) t)) ∧
  (∀ p page1 len code w s u, s.issuer = some u → s.cur.probe = false →
    exec (.unassigned_opcode p page1 len code w) s = .next (takeTrap (takeLatches s u) s.cur.warp u.id ((mkCtx s u Pfx.none).info 0 u.mask))) ∧
  (∀ why pc slot s u, s.issuer = some u → s.cur.probe = false →
    exec (.orphaned_prefix why pc slot) s = .next (takeTrap (takeLatches s u) s.cur.warp u.id
      { (mkCtx s u Pfx.none).info (if why = .orphan then 1 else 0) u.mask with pc := pc, slot := slot }))

/-- Says of each of these constructors that it COMPLETES (exec answers a next state that holds its effect) under conditions on state and operands:
rett, tclr, tmask, halt. In a handler, with s24 and s25 readable, no enabled cause pending and a return PC that starts a group, RETT leaves the
handler: s24 to s31 come back from the shadow bank and the sub-warp stands at the return PC; in a cue sheet it stands at the cue PC; outside both
it traps ILLEGAL. TCLR clears in %tc the clearable bits of its pair, TMASK writes the disposition and gives its old value. HALT stops the warp
with the issuing sub-warp at the successor where debug is attached, and else kills it with BKPT, in its handler as a double fault. -/
def Obligations.HandlerInstructions : Prop :=
  (∀ p w, WF.rett p w = true → ∀ s u s1, Passes s p u (fun c => checkSrcs c [.code 48#6, .code 49#6] c.on) () s1 → NoSync s s.cur.warp →
    let c := mkCtx s u p
    let x := s.warp c.w
    let pc := pairVal s c (.code 48#6) 0
    (x.sheet = false → x.handler = true → x.tc &&& x.disposition &&& tcClearable &&& 0xFFFFFF#64 = 0#64 → legalPc pc = true →
      (∀ ws s2, fetchLine s1 c.quad c.vd (lineBase pc) = (.ok ws, s2) → startsGroup ws (lineSlot pc) = true) →
      ∃ t, Completes (.rett p w) s t ∧ (t.warp c.w).handler = false ∧
        (∀ k, k < 8 → (t.warp c.w).reg (.s (24 + k)) = (((x.shadow[k]?).getD Reg.zero).val, ((x.shadow[k]?).getD Reg.zero).poison)) ∧
        (∀ g, (∀ k, k < 8 → g ≠ .s (24 + k)) → (∀ n, 32 ≤ n → g ≠ .s n) → (t.warp c.w).reg g = x.reg g) ∧
        (∀ d l, t.readMem d l = s.readMem d l) ∧ (u.id = none → Stands t c.w none u.mask pc)) ∧
    (x.sheet = true → ∃ t, Completes (.rett p w) s t ∧ (t.warp c.w).sheet = false ∧ (∀ g, (t.warp c.w).reg g = x.reg g) ∧
      (∀ d l, t.readMem d l = s.readMem d l) ∧ (u.id = none → Stands t c.w none u.mask ((x.cue.map (fun q => q.pc)).getD 0#64)))) ∧
  (∀ p w s u, WF.rett p w = true → Issues s p u → s.cur.probe = false → (s.warp s.cur.warp).sheet = false → (s.warp s.cur.warp).handler = false →
    exec (.rett p w) s = .next (takeTrap (takeLatches s u) s.cur.warp u.id ((mkCtx s u p).info 0 (mkCtx s u p).on))) ∧
  (∀ p w, WF.tclr p w = true →
    DoesIf (.tclr p w) p (fun s c => Readable s c [.code w.a, (Src.code w.a).up 1] c.on)
      (fun c s => if c.on = 0#32 then s else s.modWarp c.w (fun x => { x with tc := x.tc &&& ~~~(pairVal s c (.code w.a) 0 &&& tcClearable) }))
      (fun _ _ => noReg) (fun _ _ => noMask) (fun _ _ _ => True)) ∧
  (∀ p w, WF.tmask p w = true →
    DoesIf (.tmask p w) p (fun s c => Readable s c [.code w.a, (Src.code w.a).up 1] c.on)
      (fun c s => s.modWarp c.w (fun x => { x with disposition := pairVal s c (.code w.a) 0 }))
      (fun _ _ g => w.wbs = false ∧ (Dst.ofCode w.d).names 2 1#32 g) (fun _ _ => noMask)
      (fun c s t => w.wbs = false →
        (Dst.ofCode w.d).has (t.warp c.w) 0 0 (lo32 (s.warp c.w).disposition) ∧ (Dst.ofCode w.d).has (t.warp c.w) 1 0 (hi32 (s.warp c.w).disposition))) ∧
  (∀ p w, WF.halt p w = true →
    DoesIf (.halt p w) p (fun s c => (s.vd c.vd).debug = true) (fun c s => s.modWarp c.w (fun x => { x with stopped := true }))
      (fun _ _ => noReg) (fun _ _ => noMask) (fun c s t => c.sub.id = none → NoSync s c.w → Stands t c.w none c.sub.mask c.next)) ∧
  (∀ p w s u, WF.halt p w = true → Issues s p u → (s.vd (s.warp s.cur.warp).vd).debug = false → (s.warp s.cur.warp).life = .resident →
    ∃ t, Completes (.halt p w) s t ∧ (t.warp s.cur.warp).life = .dying (if (s.warp s.cur.warp).handler then 3 else 2) u.maskLabel ∧ (t.warp s.cur.warp).tc = tcBit (s.warp s.cur.warp).tc 22 ∧
      (∀ d l, t.readMem d l = s.readMem d l))

/-- Says of each of these constructors that it COMPLETES (exec answers a next state that holds its effect) under conditions on state and operands:
cue_64, cue_96. CUE completes wherever its group may act and its checks pass (no split, at most 16 registers, the launch's cue bytes hold them):
the warp's cue point stands at the successor with the registers of the bitmaps, counters, return stacks and live lanes, uncommitted, and every
register, mask, flag and byte of memory stays. -/
def Obligations.CuePoints : Prop :=
  (∀ p w x, WF.cue_64 p w x = true →
    Does (.cue_64 p w x) p (fun c => cueChecks c x.hi 0#16 0#8 0)
      (fun c _ s => startRegion s c.w (cueAt s c (w.b ++ w.a : BitVec 12).toInt x.hi 0#16 0#8 0)) (fun _ _ => noReg) (fun _ _ => noMask)
      (fun c _ s t => GoesOn c s t ∧ ∃ q, (t.warp c.w).cue = some q ∧ q.pc = c.next ∧ q.committed = false ∧ q.rollbacks = 0 ∧ q.lanes = liveLanes s c.w ∧
        (∀ n i, n < 16 → i < 32 → x.hi.getLsbD n = true → q.o.get Reg.zero (32 * n + i) = (s.warp c.w).o.get Reg.zero (32 * n + i)))) ∧
  (∀ p w x lit, WF.cue_96 p w x lit = true →
    Does (.cue_96 p w x lit) p (fun c => cueChecks c x.hi (field lit 0 16) (field lit 16 8) (field lit 24 8).toNat)
      (fun c _ s => startRegion s c.w (cueAt s c (w.b ++ w.a : BitVec 12).toInt x.hi (field lit 0 16) (field lit 16 8) (field lit 24 8).toNat))
      (fun _ _ => noReg) (fun _ _ => noMask)
      (fun c _ s t => GoesOn c s t ∧ ∃ q, (t.warp c.w).cue = some q ∧ q.pc = c.next ∧ q.committed = false ∧
        (∀ n, n < 16 → (field lit 0 16).getLsbD n = true → ((q.s[n]?).getD Reg.zero) = (((s.warp c.w).s[n]?).getD Reg.zero))))

/-- Says of each of these constructors that it COMPLETES (exec answers a next state that holds its effect) under conditions on state and operands:
sreg_read, sreg_write, lget. SREG read completes wherever its group may act and its destination exists, and gives in every lane that runs the
special register of its selector, 64-bit ones as a pair; SREG write, with a lane on and its source readable, sets the flags of %astat to the low
byte of the source and changes no other register; LGET gives the handle of its source's label. -/
def Obligations.SpecialRegisters : Prop :=
  (∀ p w, WF.sreg_read p w = true →
    let n := if WF.sel64 w.a.toNat then 2 else 1
    Does (.sreg_read p w) p (fun c => checkDst c (Dst.ofCode w.d)) (fun _ _ s => s) (fun c _ => aluNames c w (Dst.ofCode w.d) n) (fun _ _ => noMask)
      (fun c _ s t => w.wbs = false → ∀ i, hasLane (if (Dst.ofCode w.d).uniform then 1#32 else c.run) i = true →
        (Dst.ofCode w.d).has (t.warp c.w) 0 i (lo32 (sregValue s c w.a.toNat i)) ∧
        (n = 2 → (Dst.ofCode w.d).has (t.warp c.w) 1 i (hi32 (sregValue s c w.a.toNat i))))) ∧
  (∀ p w, WF.sreg_write p w = true →
    DoesIf (.sreg_write p w) p (fun s c => c.on ≠ 0#32 ∧ Readable s c [.code w.b] c.on)
      (fun c s => s.modWarp c.w (fun x => { x with flags := field (srcVal s c (.code w.b) 0) 0 8 })) (fun _ _ => noReg) (fun _ _ => noMask)
      (fun _ _ _ => True)) ∧
  (∀ p w, WF.sreg_write p w = true →
    DoesIf (.sreg_write p w) p (fun s c => c.on = 0#32 ∧ Readable s c [.code w.b] c.on) (fun _ s => s) (fun _ _ => noReg) (fun _ _ => noMask) (fun _ _ _ => True)) ∧
  (∀ p w, WF.lget p w = true →
    Computes (.lget p w) p w (Dst.ofCode w.d) 1 [(w.luA, .code w.a)] (fun c s i _ => ([zext (srcLbl s c (.code w.a) i) 32], 0#8)))

/-- Says of each of these constructors that it COMPLETES (exec answers a next state that holds its effect) under conditions on state and operands:
lraise_32, lraise_64, lchk_32, lchk_64, lchk_k_32, lchk_k_64. LRAISE completes wherever its group may act and its checks pass: the destination
holds the source's value in every lane that runs, and in every lane that is on, while no split is live and the VD's label table is in its form, a
label that dominates the handle given. LCHK, where its handles dominate, changes nothing. LCHK.k writes bit i of its mask register as the outcome
in every lane that is on, and keeps every other bit. -/
def Obligations.LabelRaisesAndChecks : Prop :=
  (∀ p w, WF.lraise_32 p w = true →
    Does (.lraise_32 p w) p (fun c => lraiseChecks c (Dst.ofCode w.d) (.code w.a) (.code w.b)) (fun _ _ s => s)
      (fun c _ => aluNames c w (Dst.ofCode w.d) 1) (fun _ _ => noMask) (fun c _ s t => Raises c w (Dst.ofCode w.d) (.code w.a) (.code w.b) s t)) ∧
  (∀ p w x, WF.lraise_64 p w x = true →
    Does (.lraise_64 p w x) p (fun c => lraiseChecks c (dstD w x) (srcA w x) (immB immZ w x).2) (fun _ _ s => s)
      (fun c _ => aluNames c w (dstD w x) 1) (fun _ _ => noMask) (fun c _ s t => Raises c w (dstD w x) (srcA w x) (immB immZ w x).2 s t)) ∧
  (∀ p w, WF.lchk_32 p w = true →
    Does (.lchk_32 p w) p (fun c => lchkChecks c (.code w.a) (.code w.b)) (fun _ _ s => s) (fun _ _ => noReg) (fun _ _ => noMask)
      (fun c _ s t => GoesOn c s t)) ∧
  (∀ p w x, WF.lchk_64 p w x = true →
    Does (.lchk_64 p w x) p (fun c => lchkChecks c (srcA w x) (immB immZ w x).2) (fun _ _ s => s) (fun _ _ => noReg) (fun _ _ => noMask)
      (fun c _ s t => GoesOn c s t)) ∧
  (∀ p w, WF.lchk_k_32 p w = true →
    Does (.lchk_k_32 p w) p (fun c => lchkBits c (.code w.a) (.code w.b)) (fun _ _ s => s) (fun _ _ => noReg)
      (fun _ _ => maskMarks w (field w.d 0 3).toNat 0#8)
      (fun c bits s t => w.wbs = false → (t.warp c.w).mask (field w.d 0 3).toNat =
        ((s.warp c.w).mask (field w.d 0 3).toNat &&& ~~~c.on) ||| (bits &&& c.on))) ∧
  (∀ p w x, WF.lchk_k_64 p w x = true →
    Does (.lchk_k_64 p w x) p (fun c => lchkBits c (srcA w x) (immB immZ w x).2) (fun _ _ s => s) (fun _ _ => noReg)
      (fun _ _ => maskMarks w (field w.d 0 3).toNat 0#8)
      (fun c bits s t => w.wbs = false → (t.warp c.w).mask (field w.d 0 3).toNat =
        ((s.warp c.w).mask (field w.d 0 3).toNat &&& ~~~c.on) ||| (bits &&& c.on)))

/-- Says of each of these constructors that it COMPLETES (exec answers a next state that holds its effect) under conditions on state and operands:
dcl_reg, dcl_g, dcl_sp. DCL of a register completes wherever its group may act and the checks of R45 pass, with the source's value in the
destination in every lane that runs; with no PFX.K, no split live and the VD's label table in its form, the label of each lane that is on is 255
or holds exactly the checked label's owners less those that the grant removes. DCL of a granule, where its checks pass, sets the granules' labels
in every copy, and changes no register and no byte of memory. With no lane on, DCL changes no register. -/
def Obligations.Declassification : Prop :=
  (∀ p w x, WF.dcl_reg p w x = true →
    let d := dstD w x
    let a := srcA w x
    (∀ s u r s1, Passes s p u (fun c => do checkDst c d; checkSrcs c [a] c.on; dclChecks c d a (field x.hi 0 6).toNat) r s1 →
      let c := mkCtx s u p
      c.on ≠ 0#32 → Kept c.w noReg noMask { s with vds := s1.vds } s1 ∧
      ∃ t, Completes (.dcl_reg p w x) s t ∧ Kept c.w (aluNames c w d 1) noMask (s1.counted p) t ∧
        (w.wbs = false → ∀ i, hasLane (if d.uniform then 1#32 else c.run) i = true → d.has (t.warp c.w) 0 i (srcVal s c a i)) ∧
        (w.wbs = false → c.kl = [] → (s1.warp c.w).splits = [] → TableOk (s1.vd c.vd).table → ∀ i g, d.uniform = false → hasLane c.on i = true → d.name 0 i = some g →
          (s1.vd c.vd).table.get? (r.2.get 0#8 i).toNat ≠ none →
          (t.warp c.w).labelOf g = 255#8 ∨
            t.ownersOf c.vd ((t.warp c.w).labelOf g) = s1.ownersOf c.vd (r.2.get 0#8 i) &&& ~~~r.1.removed)) ∧
    DoesIf (.dcl_reg p w x) p (fun s c => c.on = 0#32 ∧ Readable s c [a] c.on ∧ Writable s c d) (fun _ s => s)
      (fun _ c g => w.wbs = false ∧ d.names 1 c.run g) (fun _ _ => noMask) (fun _ _ _ => True)) ∧
  (∀ p w x, WF.dcl_g p w x = true → Lowers (.dcl_g p w x) p w x false) ∧
  (∀ p w x, WF.dcl_sp p w x = true → Lowers (.dcl_sp p w x) p w x true)

/-- Says of each of these constructors that it COMPLETES (exec answers a next state that holds its effect) under conditions on state and operands:
ld_32, ld_64, ld_96, lds_32, lds_64, lds_96. LD and LDS, in every form, complete wherever the checks of R188 pass: in each lane that is on, the
destination registers hold the words of the bytes at the lane's address as its die reads them, zero- or sign-extended, with their poison and, with
no split live and the VD's label table in its form, a label that dominates the granule's and the address's; helper lanes hold zero; every other
register, mask and byte stays. -/
def Obligations.GlobalAndScratchpadLoads : Prop :=
  (∀ p w, WF.ld_32 p w = true → Loads (.ld_32 p w) p w (Dst.ofCode w.d) false 4 (.code w.a) (wordOff w.b)) ∧
  (∀ p w x, WF.ld_64 p w x = true → Loads (.ld_64 p w x) p w (dstD w x) false (sizeOf' x) (.code w.a) (byteOff x)) ∧
  (∀ p w x lit, WF.ld_96 p w x lit = true → Loads (.ld_96 p w x lit) p w (dstD w x) false (sizeOf' x) (.code w.a) lit.toInt) ∧
  (∀ p w, WF.lds_32 p w = true → Loads (.lds_32 p w) p w (Dst.ofCode w.d) true 4 (.code w.a) (wordOff w.b)) ∧
  (∀ p w x, WF.lds_64 p w x = true → Loads (.lds_64 p w x) p w (dstD w x) true (sizeOf' x) (srcA w x) (byteOff x)) ∧
  (∀ p w x lit, WF.lds_96 p w x lit = true → Loads (.lds_96 p w x lit) p w (dstD w x) true (sizeOf' x) (srcA w x) lit.toInt)

/-- Says of each of these constructors that it COMPLETES (exec answers a next state that holds its effect) under conditions on state and operands:
st_32, st_64, st_96, sts_32, sts_64, sts_96. ST and STS, in every form, complete wherever the checks of R34 and R188 pass. Each scratchpad byte
holds what the highest lane that stores to it gave, and every other keeps its value; for each global place a store of the lane's bytes is in
flight, and no byte outside the lanes' places has changed on any die. No register and no mask has changed. -/
def Obligations.GlobalAndScratchpadStores : Prop :=
  (∀ p w, WF.st_32 p w = true → StoresTo (.st_32 p w) p false 4 (.code w.a) (.code w.b) (wordOff w.d)) ∧
  (∀ p w x, WF.st_64 p w x = true → StoresTo (.st_64 p w x) p false (sizeOf' x) (.code w.a) (srcB w x) (byteOff x)) ∧
  (∀ p w x lit, WF.st_96 p w x lit = true → StoresTo (.st_96 p w x lit) p false (sizeOf' x) (.code w.a) (srcB w x) lit.toInt) ∧
  (∀ p w, WF.sts_32 p w = true → StoresTo (.sts_32 p w) p true 4 (.code w.a) (.code w.b) (wordOff w.d)) ∧
  (∀ p w x, WF.sts_64 p w x = true → StoresTo (.sts_64 p w x) p true (sizeOf' x) (srcA w x) (srcB w x) (byteOff x)) ∧
  (∀ p w x lit, WF.sts_96 p w x lit = true → StoresTo (.sts_96 p w x lit) p true (sizeOf' x) (srcA w x) (srcB w x) lit.toInt)

/-- Says of each of these constructors that it COMPLETES (exec answers a next state that holds its effect) under conditions on state and operands:
ldf_32, ldf_64, ste_32, ste_64, ldf_ste_lane_complete. LDF and STE are issued wherever their checks pass, and change only the lanes' words and
tags, the outcome register and LDF's destination. Where each lane finds its word alone and FULL (LDF) or EMPTY (STE), they are over at once: LDF
gives the word and leaves it EMPTY, STE writes it and leaves it FULL, and the lane's outcome bit is 0. A waiting lane whose word is ready
completes by LDF_STE_LANE_COMPLETE; it writes no register but its own. -/
def Obligations.FullEmptyAccesses : Prop :=
  (∀ p w, WF.ldf_32 p w = true → FullEmpties (.ldf_32 p w) p w true (.code w.a) [] (Dst.ofCode w.d) w.b.toNat 0) ∧
  (∀ p w x, WF.ldf_64 p w x = true → FullEmpties (.ldf_64 p w x) p w true (srcA w x) [] (dstD w x) w.b.toNat (byteOff x)) ∧
  (∀ p w, WF.ste_32 p w = true → FullEmpties (.ste_32 p w) p w false (.code w.a) [.code w.b] .none w.d.toNat 0) ∧
  (∀ p w x, WF.ste_64 p w x = true → FullEmpties (.ste_64 p w x) p w false (srcA w x) [srcB w x] .none w.d.toNat (byteOff x)) ∧
  (∀ s w lane f, (s.warp w).life = .resident → (s.warp w).fe.find? (fun f => feReady s w f lane) = some f →
    ∃ t, Completes (.ldf_ste_lane_complete w lane) s t ∧
      Frame (fun x g => x = w ∧ f.load = true ∧ f.wbs = false ∧ ∃ r, f.dest = some r ∧ g = (if r < 16 then .o r lane else .v (r - 64) lane))
        (fun x n => x = w ∧ n = f.kb) (fun _ => False) (fun _ _ => False) s t ∧
      (∀ k o, (f.load = true ∨ k ≠ wordBlock (f.addr.get 0 lane) ∨ o / 4 ≠ wordOffset (f.addr.get 0 lane)) →
        readByte (t.spadOf w k).bytes o = readByte (s.spadOf w k).bytes o))

/-- Says of each of these constructors that it COMPLETES (exec answers a next state that holds its effect) under conditions on state and operands:
ldx_64, ldx_96, ldx_reply, waitc. LDX completes wherever its checks pass: with a lane on the values at the addresses are in flight for the
destination, and helper lanes hold zero; with none on the counter rises at once. LDX_REPLY writes a lane's destination registers and nothing else;
with the last lane the counter rises by one. WAITC completes with no lane on, and with one on once the counter has reached its operand. -/
def Obligations.SplitPhaseLoads : Prop :=
  (∀ p w x, WF.ldx_64 p w x = true →
    Does (.ldx_64 p w x) p (fun c => ldxChecks c (dstD w x) (w.b.getLsbD 4) (sizeBytes (sizeOf' x)) (srcA w x) (byteOff x))
      (fun c ps s => s.modWarp c.w (fun y => if c.on = 0#32 then bumpAc y (field w.b 0 4).toNat else { y with ldx := y.ldx ++ [ldxOf s c w x ps y] }))
      (fun c _ g => w.wbs = false ∧ c.on ≠ 0#32 ∧ (dstD w x).names (sizeRegs (sizeOf' x)) c.helpers g) (fun _ _ => noMask)
      (fun c _ s t => GoesOn c s t ∧ (w.wbs = false → c.on ≠ 0#32 → ∀ j i, j < sizeRegs (sizeOf' x) → hasLane c.helpers i = true →
        (dstD w x).has (t.warp c.w) j i 0#32))) ∧
  (∀ p w x lit, WF.ldx_96 p w x lit = true →
    Does (.ldx_96 p w x lit) p (fun c => ldxChecks c (dstD w x) (w.b.getLsbD 4) (sizeBytes (sizeOf' x)) (srcA w x) lit.toInt)
      (fun c ps s => s.modWarp c.w (fun y => if c.on = 0#32 then bumpAc y (field w.b 0 4).toNat else { y with ldx := y.ldx ++ [ldxOf s c w x ps y] }))
      (fun c _ g => w.wbs = false ∧ c.on ≠ 0#32 ∧ (dstD w x).names (sizeRegs (sizeOf' x)) c.helpers g) (fun _ _ => noMask)
      (fun c _ s t => GoesOn c s t ∧ (w.wbs = false → c.on ≠ 0#32 → ∀ j i, j < sizeRegs (sizeOf' x) → hasLane c.helpers i = true →
        (dstD w x).has (t.warp c.w) j i 0#32))) ∧
  (∀ s w id lane l, (s.warp w).ldx.find? (fun l => l.id == id && hasLane l.left lane) = some l →
    ∃ t, Completes (.ldx_reply w id lane) s t ∧
      Frame (fun x g => x = w ∧ ∃ j, j < (SMap.get [] l.val lane).length ∧ g = (if l.main then .v (l.reg + j) lane else .o (l.reg + j) lane))
        (fun _ _ => False) (fun x => x = w ∧ l.left = laneBit lane) (fun _ _ => False) s t ∧
      (∀ j v, (SMap.get [] l.val lane)[j]? = some v → (l.main = true ∨ l.reg < 16) →
        (t.warp w).reg (if l.main then .v (l.reg + j) lane else .o (l.reg + j) lane) = (v, hasLane l.bad lane)) ∧
      (l.left = laneBit lane → l.ac < 16 → (t.warp w).ac[l.ac]? = some (((s.warp w).ac[l.ac]?).getD 0#16 + 1) ∧
        ∀ m, m ∈ (t.warp w).ldx → m.id ≠ id)) ∧
  (∀ p w x, WF.waitc p w x = true →
    DoesIf (.waitc p w x) p (fun s c => c.on = 0#32 ∨ ((((s.warp c.w).ac[w.a.toNat]?).getD 0#16) - x.hi).toNat < 2 ^ 15)
      (fun _ s => s) (fun _ _ => noReg) (fun _ _ => noMask) (fun c s t => GoesOn c s t))

/-- Says of each of these constructors that it COMPLETES (exec answers a next state that holds its effect) under conditions on state and operands:
graise, glbl, seal, unseal. GRAISE, where its checks pass, gives the granules of its lanes the labels that the checks computed, below their
ceilings, and changes no register and no byte of memory. GLBL gives in each lane that is on the handle of the granule's label. SEAL and UNSEAL,
with a lane on and their checks passed, set or clear the sealed state of exactly the frames of the range and commit the region; with no lane on
they do nothing. -/
def Obligations.GranuleLabelInstructions : Prop :=
  (∀ p w, WF.graise p w = true →
    Does (.graise p w) p (fun c => graiseChecks c (w.d.getLsbD 0) (.code w.a) (.code w.b))
      (fun c r s => raiseGranules c r.1 (effAddr s c (w.d.getLsbD 0) (.code w.a) 0) r.2 s) (fun _ _ => noReg) (fun _ _ => noMask)
      (fun c _ s t => GoesOn c s t ∧ (∀ d l, t.readMem d l = s.readMem d l) ∧
        ∀ k o, readByte (t.spadOf c.w k).bytes o = readByte (s.spadOf c.w k).bytes o)) ∧
  (∀ p w, WF.glbl p w = true →
    Does (.glbl p w) p (fun c => glblChecks c (w.b.getLsbD 0) (.code w.a)) (fun _ _ s => s) (fun c _ => aluNames c w (Dst.ofCode w.d) 1)
      (fun _ _ => noMask)
      (fun c ps s t => GoesOn c s t ∧ (w.wbs = false → (Dst.ofCode w.d).uniform = false → ∀ i, hasLane c.run i = true →
        (Dst.ofCode w.d).has (t.warp c.w) 0 i (if hasLane c.on i then zext (placeLabel s c (placeOf ps i)) 32 else 0#32)))) ∧
  (∀ (on : Bool) p w, (if on then WF.seal p w else WF.unseal p w) = true →
    let i : Instr := if on then .seal p w else .unseal p w
    (∀ s u locs s1, Passes s p u (fun c => sealChecks c (.code w.a) (.code w.b)) locs s1 →
      let c := mkCtx s u p
      c.on ≠ 0#32 → Kept c.w noReg noMask s s1 ∧ ∃ t, Completes i s t ∧ GoesOn c s t ∧
        Frame (fun _ _ => False) (fun _ _ => False) (fun _ => False) (fun _ _ => False) s t ∧
        (∀ k, t.sealed.get false k = if k ∈ locs.map sealKey then on else s.sealed.get false k) ∧
        (∀ q, (t.warp c.w).cue = some q → q.committed = true)) ∧
    DoesIf i p (fun _ c => c.on = 0#32) (fun _ s => s) (fun _ _ => noReg) (fun _ _ => noMask) (fun c s t => GoesOn c s t))

/-- Says of each of these constructors that it COMPLETES (exec answers a next state that holds its effect) under conditions on state and operands:
atoms, atom, rdm. ATOM and ATOMS complete wherever their checks pass and no lane fails where it is performed: the lanes' operations act one after
another in ascending order at the homes and banks, and each lane that is on holds the old value; helper lanes hold zero, no other register
changes, and no byte outside the lanes' words. A lane alone in scratchpad leaves the result of its operation on what stood there. RDM completes
wherever its checks pass, the region committed and its lanes in flight as one operation, which a later event performs; with no lane on nothing
leaves. -/
def Obligations.Atomics : Prop :=
  (∀ (spad : Bool) p w x, (if spad then WF.atoms p w x else WF.atom p w x) = true →
    let i : Instr := if spad then .atoms p w x else .atom p w x
    let g := atomArgs spad w x
    ∀ s u ps s1 old after t1, Passes s p u (fun c => atomChecks c (dstD w x) g) ps s1 →
      let c := mkCtx s u p
      atomPerform s1 c g ps = (.ok (old, after), t1) → Kept c.w noReg noMask s s1 ∧ ∃ t, Completes i s t ∧ GoesOn c s t ∧
        (∀ y, (t.warp y).reg = (t1.warp y).reg ∨ y = c.w) ∧
        (∀ q, ¬ aluNames c w (dstD w x) (atomBytes g.ty / 4) q → (t.warp c.w).reg q = (s.warp c.w).reg q) ∧
        (∀ n, (t.warp c.w).mask n = (s.warp c.w).mask n) ∧
        (∀ d l, t.readMem d l = t1.readMem d l) ∧
        (∀ d l, (∀ q x, q ∈ ps → q.2.tgt = .mem x → ¬ (l.host = x.host ∧ x.pa ≤ l.pa ∧ l.pa < x.pa + atomBytes g.ty)) → t.readMem d l = s.readMem d l) ∧
        (∀ k b o, spad = true → c.on = laneBit k → (SMap.get? ps k).map (fun q => q.tgt) = some (.spad b o) →
          let v := targetRead s1 c.w c.vd (atomBytes g.ty) (.spad b o)
          SMap.get? old k = some v ∧ targetRead t c.w c.vd (atomBytes g.ty) (.spad b o) =
            atomResult g.op g.ty v (wideVal s1 c g.bSrcs k) (wideVal s1 c g.cSrcs k) (keyBase s1 c g.cc).1 ((keyBase s1 c g.cc).2 + BitVec.ofNat 64 k)) ∧
        (w.wbs = false → (dstD w x).uniform = false → ∀ j k, j < atomBytes g.ty / 4 → hasLane c.run k = true →
          (dstD w x).has (t.warp c.w) j k (if hasLane c.on k then ((atomWords g ((SMap.get? old k).getD 0#64))[j]?).getD 0#32 else 0#32))) ∧
  (∀ p w x, WF.rdm p w x = true →
    Does (.rdm p w x) p (fun c => rdmChecks c (atomArgs false w x)) (fun c r s => rdmIssue s c (atomArgs false w x) r.1 r.2 (if c.on = 0#32 then s else commit s c.w))
      (fun _ _ => noReg) (fun _ _ => noMask)
      (fun c _ s t => GoesOn c s t ∧ (∀ d l, t.readMem d l = s.readMem d l) ∧ t.flights.length = s.flights.length + (if c.on = 0#32 then 0 else 1)))

/-- Says of each of these constructors that it COMPLETES (exec answers a next state that holds its effect) under conditions on state and operands:
fence, bar_32, bar_64. FENCE completes, changing nothing but where its sub-warp stands, once the warp's loads and writes on the predecessor paths
have been performed throughout its scope; where its successors are engine paths whose writes enter by Kwaisk, these follow what the die has seen.
BAR completes where its payload can be read and the writes that it orders are performed: the region commits, and the sub-warp has arrived at the
barrier that its word names, with its contribution; once every expected warp has, all depart with the combined payload in their destinations.
Neither changes a byte of memory or any other register. -/
def Obligations.FencesAndBarriers : Prop :=
  (∀ p w, WF.fence p w = true →
    DoesIf (.fence p w) p (fun s c => (bitN (WF.fencePred w) 0 = false ∨ (s.warp c.w).ldx = []) ∧ settled s c.w c.die (WF.fenceScope w) (bitN (WF.fencePred w)) = true)
      (fun c s => if bitN (WF.fenceSucc w) 4 || bitN (WF.fenceSucc w) 5 then s.mergeIngress c.die else s)
      (fun _ _ => noReg) (fun _ _ => noMask) (fun c s t => GoesOn c s t)) ∧
  (∀ p w, WF.bar_32 p w = true → Arrives (.bar_32 p w) p w 0 (.code w.a) 20) ∧
  (∀ p w x, WF.bar_64 p w x = true → Arrives (.bar_64 p w x) p w (field x.hi 0 3).toNat (.code w.a) (if w.wbs then 20 else w.d.toNat))

/-- Says of each of these constructors that it COMPLETES (exec answers a next state that holds its effect) under conditions on state and operands:
qbind, qrd, qpoll, qfree, queue_held_entry_deliver. QBIND completes where the register may be bound and the estate table has room: the register is
bound and held. QRD, where an entry waits, pops the oldest one into its uniform pair. QPOLL does the same and sets its mask register to ones,
write-back suppressed or not; with none waiting it sets the mask to zero and keeps the pair. QFREE unbinds a bound register.
QUEUE_HELD_ENTRY_DELIVER moves the oldest held entry in once there is room. None of them changes another register or a byte of memory. -/
def Obligations.QueueInstructions : Prop :=
  (∀ p w, WF.qbind p w = true →
    DoesIf (.qbind p w) p (fun s c => mayBind (s.warp c.w) w.d.toNat w.a.toNat = true ∧ canRegister s c.w = true)
      (fun c s => bindQueue c.w w.d.toNat w.a.toNat (commit s c.w)) (fun _ _ => noReg) (fun _ _ => noMask)
      (fun c s t => GoesOn c s t ∧ (t.warp c.w).queue w.d.toNat = { Queue.free with kind := some w.a.toNat })) ∧
  (∀ p w, WF.qrd p w = true →
    DoesIf (.qrd p w) p (fun s c => ((s.warp c.w).queue w.a.toNat).kind.isSome = true ∧ ((s.warp c.w).queue w.a.toNat).entries ≠ [])
      (fun c s => popQ c.w w.a.toNat s) (fun _ c => aluNames c w (Dst.ofCode w.d) 2) (fun _ _ => noMask)
      (fun c s t => GoesOn c s t ∧ ∀ e, ((s.warp c.w).queue w.a.toNat).entries.head? = some e → w.wbs = false →
        (Dst.ofCode w.d).has (t.warp c.w) 0 0 (lo32 e.data) ∧ (Dst.ofCode w.d).has (t.warp c.w) 1 0 (hi32 e.data))) ∧
  (∀ p w, WF.qpoll p w = true →
    DoesIf (.qpoll p w) p (fun s c => ((s.warp c.w).queue w.a.toNat).kind.isSome = true) (fun c s => popQ c.w w.a.toNat s)
      (fun s c g => ((s.warp c.w).queue w.a.toNat).entries ≠ [] ∧ aluNames c w (Dst.ofCode w.d) 2 g) (fun _ _ => ⟨fun k => k = w.b.toNat, 0#8⟩)
      (fun c s t => GoesOn c s t ∧
        (t.warp c.w).mask w.b.toNat = (if ((s.warp c.w).queue w.a.toNat).entries = [] then 0#32 else BitVec.allOnes 32) ∧
        (w.wbs = false → ∀ e, ((s.warp c.w).queue w.a.toNat).entries.head? = some e →
          (Dst.ofCode w.d).has (t.warp c.w) 0 0 (lo32 e.data) ∧ (Dst.ofCode w.d).has (t.warp c.w) 1 0 (hi32 e.data)))) ∧
  (∀ p w, WF.qfree p w = true →
    DoesIf (.qfree p w) p (fun s c => ((s.warp c.w).queue w.d.toNat).kind.isSome = true)
      (fun c s => discharge (unbindQueue (commit s c.w) c.w w.d.toNat) c.w 5 0 w.d.toNat) (fun _ _ => noReg) (fun _ _ => noMask)
      (fun c s t => GoesOn c s t ∧ (t.warp c.w).queue w.d.toNat = Queue.free)) ∧
  (∀ s w q e rest, ((s.warp w).queue q).back = e :: rest → ((s.warp w).queue q).used < 8 → ((s.warp w).queue q).kind.isSome = true →
    ((s.warp w).life = .resident ∨ (s.warp w).life = .saving) →
    ∃ t, Completes (.queue_held_entry_deliver w q) s t ∧ Quiet s t ∧ ((t.warp w).queue q).back = rest ∧
      ((t.warp w).queue q).entries = ((s.warp w).queue q).entries ++ [e])

/-- Says of each of these constructors that it COMPLETES (exec answers a next state that holds its effect) under conditions on state and operands:
mb_open, mb_send_32, mb_send_64, mb_send_sp, qwr, mb_ver, mb_mode. MB.OPEN completes where its checks pass: the queue register is bound to the
mailbox with its ring, and the mailbox to the warp. MB.SEND in its three forms and QWR complete where their checks pass: with no lane on nothing
happens; else the region commits and one action of the payload stands last in the mailbox with the next step number, or POISON is delivered where
the payload read met poison. MB.VER sets the policy version, MB.MODE the stale mode. None changes a register, a mask or a byte of memory. -/
def Obligations.MailboxInstructions : Prop :=
  (∀ p w x, WF.mb_open p w x = true →
    Does (.mb_open p w x) p (fun c => openChecks c w x) (fun c r s => openBox c w.d.toNat r.1 r.2 (commit s c.w)) (fun _ _ => noReg) (fun _ _ => noMask)
      (fun c r s t => GoesOn c s t ∧
        (t.warp c.w).queue w.d.toNat = { Queue.free with kind := some 2, mailbox := boxKey c.die r.1, ring := r.2 } ∧
        (c.die < 9 → (t.mailbox c.die r.1).bound = true ∧ (t.mailbox c.die r.1).binder = (c.w, w.d.toNat)))) ∧
  (∀ p w, WF.mb_send_32 p w = true →
    Does (.mb_send_32 p w) p (fun c => pairChecks c w) (fun c r s => pushed c r s) (fun _ _ => noReg) (fun _ _ => noMask)
      (fun c r s t => GoesOn c s t ∧ Sent c r s t)) ∧
  (∀ p w x, WF.mb_send_64 p w x = true →
    Does (.mb_send_64 p w x) p (fun c => laneChecks c w x) (fun c r s => pushed c r s) (fun _ _ => noReg) (fun _ _ => noMask)
      (fun c r s t => GoesOn c s t ∧ Sent c r s t)) ∧
  (∀ p w x, WF.mb_send_sp p w x = true →
    Does (.mb_send_sp p w x) p (fun c => granuleChecks c w x) (fun c r s => pushed c r s) (fun _ _ => noReg) (fun _ _ => noMask)
      (fun c r s t => GoesOn c s t ∧ Sent c r s t)) ∧
  (∀ p w, WF.qwr p w = true →
    Does (.qwr p w) p (fun c => pairChecks c w) (fun c r s => pushed c r s) (fun _ _ => noReg) (fun _ _ => noMask)
      (fun c r s t => GoesOn c s t ∧ Sent c r s t)) ∧
  (∀ p w, WF.mb_ver p w = true →
    DoesIf (.mb_ver p w) p (fun s c => Readable s c [.code w.a] c.act)
      (fun c s => (commit s c.w).modWarp c.w (fun y => { y with policy := field (srcVal s c (.code w.a) 0) 0 16 })) (fun _ _ => noReg) (fun _ _ => noMask)
      (fun c s t => GoesOn c s t ∧ (t.warp c.w).policy = field (srcVal s c (.code w.a) 0) 0 16)) ∧
  (∀ p w, WF.mb_mode p w = true →
    Does (.mb_mode p w) p (fun c => checkBox c w.d.toNat)
      (fun c u s => (commit s c.w).modWarp c.w (fun y => y.setQueue w.d.toNat { u with stale := (field w.a 0 2).toNat })) (fun _ _ => noReg) (fun _ _ => noMask)
      (fun c _ s t => GoesOn c s t ∧ ((t.warp c.w).queue w.d.toNat).stale = (field w.a 0 2).toNat))

/-- Says of each of these constructors that it COMPLETES (exec answers a next state that holds its effect) under conditions on state and operands:
observation_delivery, mbcfg_write, mbdrop_read. OBSERVATION_DELIVERY takes the oldest observation of an enabled mailbox in service: unbound, it
leaves with its tag recorded; bound, with room in the queue of a resident warp, a stale one is dropped and counted in mode 1, and any other is
delivered as the queue's youngest entry. MBCFG_WRITE by the hypervisor sets a disabled mailbox's configuration, and may only clear enable of an
enabled one; MBDROP_READ returns the count and clears it. A requester that is not the hypervisor changes no mailbox. No register and no byte of
memory changes. -/
def Obligations.MailboxEvents : Prop :=
  (∀ s die mb x rest, die < 9 → (s.mailbox die mb).obs = x :: rest → (s.die die).fenced = false → (s.mailbox die mb).enable = true →
    (s.mailbox die mb).ended = false → (s.mailbox die mb).frozen = false →
    let b := s.mailbox die mb
    let y := s.warp b.binder.1
    let u := y.queue b.binder.2
    (b.bound = false → ∃ t, Completes (.observation_delivery die mb) s t ∧ Quiet s t ∧ (t.mailbox die mb).obs = rest) ∧
    (b.bound = true → u.used < 8 → (y.life = .resident ∨ y.life = .saving) →
      ∃ t, Completes (.observation_delivery die mb) s t ∧ Quiet s t ∧ (t.mailbox die mb).obs = rest ∧
        (isStale y.policy x.version = true ∧ u.stale = 1 →
          (t.mailbox die mb).dropped = min (b.dropped + 1) (2 ^ 32 - 1) ∧ ((t.warp b.binder.1).queue b.binder.2).entries = u.entries) ∧
        (¬ (isStale y.policy x.version = true ∧ u.stale = 1) →
          ∃ e, ((t.warp b.binder.1).queue b.binder.2).entries = u.entries ++ [e] ∧ e.lbl = b.lbl ∧ field e.data 0 16 = x.episode))) ∧
  (∀ s req die mb v, die < 9 → mb < 512 →
    ∃ t, Completes (.mbcfg_write req die mb v) s t ∧ Quiet s t ∧
      (isHv s req = true → (s.mailbox die mb).enable = true → v.getLsbD 38 = false → (t.mailbox die mb).enable = false) ∧
      (isHv s req = true → (s.mailbox die mb).enable = false →
        (v.getLsbD 38 = false ∨ (s.vd (field v 0 10).toNat).table.get? (field v 10 8).toNat ≠ none) →
        (t.mailbox die mb).enable = v.getLsbD 38 ∧ (t.mailbox die mb).vd = (field v 0 10).toNat ∧ (t.mailbox die mb).lbl = field v 10 8 ∧
          (t.mailbox die mb).episode = (field v 18 16).toNat ∧ (t.mailbox die mb).core = (field v 34 4).toNat) ∧
      (isHv s req = false → ∀ d m, t.mailbox d m = s.mailbox d m)) ∧
  (∀ s req die mb, die < 9 → mb < 512 →
    ∃ t, Completes (.mbdrop_read req die mb) s t ∧ Quiet s t ∧
      (isHv s req = true → t.reply = le 8 (s.mailbox die mb).dropped ∧ (t.mailbox die mb).dropped = 0) ∧
      (isHv s req = false → t.reply = zeros 8 ∧ ∀ d m, t.mailbox d m = s.mailbox d m))

/-- Says of each of these constructors that it COMPLETES (exec answers a next state that holds its effect) under conditions on state and operands:
lock_32, lock_64, trylock_32, trylock_64, unlock_32, unlock_64. LOCK and TRYLOCK, in every form, complete wherever their checks pass: the uniform
pair holds the word that stood there; a word without an owner, or the warp's own bereaved one, is then the warp's with its count one up and
registered; TRYLOCK's mask register is all ones where it was taken and zero where not. UNLOCK leaves the word without an owner, with its mark, and
discharges the holding. No other register and no other byte changes. -/
def Obligations.LockInstructions : Prop :=
  (∀ p w, WF.lock_32 p w = true → Locks (.lock_32 p w) p w 0#16 none) ∧
  (∀ p w x, WF.lock_64 p w x = true → Locks (.lock_64 p w x) p w x.hi none) ∧
  (∀ p w, WF.trylock_32 p w = true → Locks (.trylock_32 p w) p w 0#16 (some 0)) ∧
  (∀ p w x, WF.trylock_64 p w x = true → Locks (.trylock_64 p w x) p w x.hi (some x.c.toNat)) ∧
  (∀ p w, WF.unlock_32 p w = true → Unlocks (.unlock_32 p w) p w false) ∧
  (∀ p w x, WF.unlock_64 p w x = true → Unlocks (.unlock_64 p w x) p w (x.hi.getLsbD 0))

/-- Says of each of these constructors that it COMPLETES (exec answers a next state that holds its effect) under conditions on state and operands:
promise, heir, will, estq. PROMISE, with a lane on and its checks passed, registers a promise on its word as the warp's newest holding. HEIR,
where its checks pass, sets the heir of the store debt, ends a seat, sets the heir and tag of a holding, or registers a seat. WILL sets the
default heir and its tag, ESTQ the claimant bit of a warp with an ES queue. Each commits the region, and changes no register, no mask and no byte
of memory. -/
def Obligations.EstateInstructions : Prop :=
  (∀ p w, WF.promise p w = true →
    Does (.promise p w) p (fun c => promiseChecks c (.code w.a)) (fun c r s => promised c r s) (fun _ _ => noReg) (fun _ _ => noMask)
      (fun c r s t => GoesOn c s t ∧ (∀ d l, t.readMem d l = s.readMem d l) ∧ ∀ a, r = some a →
        (t.warp c.w).estate = (s.warp c.w).estate ++ [{ Holding.fresh 2 2 0 0 a.toNat with block := (s.warp c.w).block }])) ∧
  (∀ p w x, WF.heir p w x = true →
    Does (.heir p w x) p (fun c => heirChecks c w x) (fun c r s => setHeir c r s) (fun _ _ => noReg) (fun _ _ => noMask)
      (fun c r s t => GoesOn c s t ∧ (∀ d l, t.readMem d l = s.readMem d l) ∧ ∀ h, r = some h →
        (h.kind = 7 → (t.warp c.w).debtHeir = h.spec ∧ (t.warp c.w).estate = (s.warp c.w).estate) ∧
        (∀ k e, h.kind ≠ 7 → field h.spec 0 3 ≠ 7#3 → h.at' = some k → (s.warp c.w).estate[k]? = some e →
          (t.warp c.w).estate[k]? = some { e with heir := h.spec, tag := h.tag }))) ∧
  (∀ p w, WF.will p w = true →
    Does (.will p w) p (fun c => willChecks c (.code w.a))
      (fun c _ s => (commit s c.w).modWarp c.w (fun y =>
        { y with will := field (srcVal s c (.code w.a) 0) 0 16, willTag := field (srcVal s c (.code w.a) 0) 16 16 }))
      (fun _ _ => noReg) (fun _ _ => noMask) (fun c _ s t => GoesOn c s t)) ∧
  (∀ p w, WF.estq p w = true →
    DoesIf (.estq p w) p (fun s c => ((s.warp c.w).queue w.d.toNat).kind = some 3)
      (fun c s => (commit s c.w).modWarp c.w (fun y => { y with claimant := w.a.getLsbD 0 })) (fun _ _ => noReg) (fun _ _ => noMask)
      (fun c s t => GoesOn c s t))

/-- Says of each of these constructors that it COMPLETES (exec answers a next state that holds its effect) under conditions on state and operands:
conveyance, probate_delivery, lock_retry. CONVEYANCE on a core with a dying warp first settles its store debt, then takes its holdings from the
oldest on once each row's write may be made, and at last the warp is dead; it changes no register, and no byte but those of the holding's word or
object. PROBATE_DELIVERY moves the oldest waiting notice into the ES queue of the first claimant that can take it. LOCK_RETRY makes a waiting
sub-warp ready whose word can be taken. -/
def Obligations.EstateEvents : Prop :=
  (∀ s core w cause l, dyingOn s core = some w → (s.warp w).life = .dying cause l →
    ((s.warp w).debtDone = false → ∃ t, Completes (.conveyance core) s t ∧ Quiet s t ∧ (t.warp w).debtDone = true) ∧
    ((s.warp w).debtDone = true → (s.warp w).estate = [] →
      ∃ t, Completes (.conveyance core) s t ∧ Quiet s t ∧ (t.warp w).life = .dead ∧ w ∉ t.deaths) ∧
    (∀ h rest, (s.warp w).debtDone = true → (s.warp w).estate = h :: rest → rowReady s w h = true →
      ∃ t, Completes (.conveyance core) s t ∧ (t.warp w).estate = rest ∧
        Frame (fun _ _ => False) (fun _ _ => False) (fun _ => h.kind = 6)
          (fun _ m => ∃ q, holdingPlace ((holdingLabel s w h).2.join w (holdingLabel s w h).1 l).2 w h 8 = some (.mem q) ∧ m.host = q.loc.host ∧ q.loc.pa ≤ m.pa ∧ m.pa < q.loc.pa + 32) s t)) ∧
  (∀ s g p rest w q more, (s.grid g).probate = p :: rest → claimants s g (p.holding.kind == 2) = (w, q) :: more →
    ∃ t, Completes (.probate_delivery g) s t ∧ Quiet s t ∧ (t.grid g).probate = rest ∧
      ((t.warp w).queue q).entries = ((s.warp w).queue q).entries ++ [⟨p.notice, p.lbl, 0, 0⟩]) ∧
  (∀ s w u, (s.warp w).subs.find? (lockDue s w) = some u →
    ∃ t v, Completes (.lock_retry w) s t ∧ Quiet s t ∧ (t.warp w).sub u.id = some v ∧ v.pc = u.pc ∧ v.mask = u.mask ∧ v.hold = .ready)

/-- Says of each of these constructors that it COMPLETES (exec answers a next state that holds its effect) under conditions on state and operands:
launch, lwait. LAUNCH completes wherever its checks pass: with no lane on nothing happens; else the region commits, and the child is accepted with
the next grid serial, one level deeper, or its rejection goes to the LNCH queue or the grid fault record. LWAIT completes once no child of the
warp is incomplete. Neither changes a register, a mask or a byte of memory. -/
def Obligations.LaunchInstructions : Prop :=
  (∀ p w x, WF.launch p w x = true →
    Does (.launch p w x) p (fun c => launchChecks c w) (fun c r s => launched c (tokOf w) r s) (fun _ _ => noReg) (fun _ _ => noMask)
      (fun c r s t => GoesOn c s t ∧ (∀ d l, t.readMem d l = s.readMem d l) ∧ ∀ y, r = some y → childRejection s c.w y.bytes = 0 →
        let g := s.package.gridSerial
        (t.grid g).vd = (s.warp c.w).vd ∧ (t.grid g).depth = (s.grid (s.warp c.w).grid).depth + 1 ∧
          (t.grid g).record = { launchRecOf y.bytes with tag := y.tag.getD (launchRecOf y.bytes).tag } ∧ t.package.gridSerial = nextSerial g)) ∧
  (∀ p w, WF.lwait p w = true →
    DoesIf (.lwait p w) p (fun s c => ∀ g, g ∈ childrenOf s (s.warp c.w).grid → ∀ q, g.parent = some q → q.warp ≠ c.w)
      (fun _ s => s) (fun _ _ => noReg) (fun _ _ => noMask) (fun c s t => GoesOn c s t))

/-- Says of each of these constructors that it COMPLETES (exec answers a next state that holds its effect) under conditions on state and operands:
launch_port_store, lpstat_read, gfpop, gfstat_read. A whole 64-byte store of a requester of the window, which is not frozen, to a port with room,
whose record breaks no rule, is accepted: the grid with the next serial stands last in the port, undealt; any other store to the port is rejected
with the cause of the first rule that it breaks, and counted. LPSTAT_READ returns depth, cause, count and last serial and clears cause and count.
GFPOP returns and removes the oldest record of the grid fault buffer, and GFSTAT_READ returns its depth and the dropped count, which it clears.
None changes a register or a byte of memory. -/
def Obligations.LaunchPorts : Prop :=
  (∀ s req v k whole bs, v < 1024 → k < 4 → mayWindow s req v = true →
    let q := ((s.vd v).ports[k]?).getD ⟨[], 0, 0, 0⟩
    let cause := if (s.vd v).frozen = true ∨ (s.vd v).state = 0 ∨ whole = false ∨ bs.length ≠ 64 then 2 else if 64 ≤ q.fifo.length then 1 else rejection s v bs
    ∃ t, Completes (.launch_port_store req v k whole bs) s t ∧ Quiet s t ∧
      (cause = 0 →
        let g := s.package.gridSerial
        (t.vd v).ports[k]? = some { q with fifo := q.fifo ++ [g], last := g } ∧ (t.grid g).record = launchRecOf bs ∧ (t.grid g).vd = v ∧
          (t.grid g).dealt = false ∧ t.package.gridSerial = nextSerial g) ∧
      (cause ≠ 0 → (t.vd v).ports[k]? = some { q with cause := cause, rejected := min (q.rejected + 1) 0xFFFF } ∧ t.grids = s.grids)) ∧
  (∀ s req v k, v < 1024 → k < 4 → mayWindow s req v = true → (s.vd v).frozen = false →
    let q := ((s.vd v).ports[k]?).getD ⟨[], 0, 0, 0⟩
    ∃ t, Completes (.lpstat_read req v k) s t ∧ Quiet s t ∧ t.reply = le 2 (q.fifo.length + 2 ^ 8 * q.cause) ++ le 2 q.rejected ++ le 4 q.last ∧
      (t.vd v).ports[k]? = some { q with cause := 0, rejected := 0 }) ∧
  (∀ s req v whole, v < 1024 → mayWindow s req v = true → (s.vd v).frozen = false →
    ∃ t, Completes (.gfpop req v whole) s t ∧ Quiet s t ∧
      (∀ r rest, whole = true → (s.vd v).gf = r :: rest → t.reply = r ∧ (t.vd v).gf = rest) ∧
      (whole = false ∨ (s.vd v).gf = [] → t.reply = zeros 64 ∧ (t.vd v).gf = (s.vd v).gf)) ∧
  (∀ s req v, v < 1024 → mayWindow s req v = true → (s.vd v).frozen = false →
    ∃ t, Completes (.gfstat_read req v) s t ∧ Quiet s t ∧ t.reply = le 2 (s.vd v).gf.length ++ le 2 (s.vd v).gfDropped ++ le 4 0 ∧
      (t.vd v).gfDropped = 0 ∧ (t.vd v).gf = (s.vd v).gf)

/-- Says of each of these constructors that it COMPLETES (exec answers a next state that holds its effect) under conditions on state and operands:
deal, block_start, steal, grid_complete, virtual_time_charge, slice_end. DEAL deals the whole range of the first eligible launch and takes it from
its port. BLOCK_START takes a unit of the first grid that the core can hold: its blocks stand on their cores with fresh scratchpads, and each warp
of them is resident with the launch's clearance, its argument in s0 and s1 and zero operand registers. STEAL leaves the thief's shares.
GRID_COMPLETE completes a finished grid. VIRTUAL_TIME_CHARGE charges a VD by its weight. SLICE_END passes a partition whose warps all run
uncommitted regions to the first VD that waits. -/
def Obligations.Scheduling : Prop :=
  (∀ s g more p, ranked s ((eligible s).filter (canDeal s)) = g :: more → partitionOf s g.vd g.record = some p →
    ∃ t, Completes .deal s t ∧ Quiet s t ∧ t.grid g.serial = { g with dealt := true, shares := dealAll s p g.record } ∧
      ∀ k q, g.port = some k → (t.vd g.vd).ports[k]? = some q → g.serial ∉ q.fifo) ∧
  (∀ s core g p u cs more, starts s core = (g, p, u, cs) :: more →
    ∃ t, Completes (.block_start core) s t ∧ (∀ d l, t.readMem d l = s.readMem d l) ∧ u ∉ (t.grid g.serial).shares ∧
      ∀ k n, cs[k]? = some n →
        let b := t.block g.serial (u.unit * g.record.perCluster + k)
        b.core = n ∧ b.rank = k ∧ b.warps.length = g.record.warps ∧ b.spad = Spad.fresh ∧
          ∀ w, w ∈ b.warps → let x := t.warp w
            x.life = .resident ∧ x.grid = g.serial ∧ x.vd = g.vd ∧ x.clearance = g.record.clearance ∧
            x.reg (.s 0) = (lo32 g.record.arg, false) ∧ x.reg (.s 1) = (hi32 g.record.arg, false) ∧ (∀ i j, x.reg (.o i j) = (0#32, false)) ∧
            ∀ v, v ∈ x.subs → v.pc = g.record.code ∧ v.hold = .ready) ∧
  (∀ s die cl g us more, steals s die cl = (g, us) :: more →
    ∃ t, Completes (.steal die cl) s t ∧ Quiet s t ∧ (t.grid g.serial).shares = us) ∧
  (∀ s g x, s.grids.get? g = some x → finished s x = true →
    ∃ t, Completes (.grid_complete g) s t ∧ Quiet s t ∧ (t.grid g).complete = true ∧ (t.grid g).probate = []) ∧
  (∀ s v n, (s.vd v).state ≠ 0 →
    ∃ t, Completes (.virtual_time_charge [(v, n)]) s t ∧ Quiet s t ∧
      (t.vd v).vtime = (s.vd v).vtime + BitVec.ofNat 64 ((n * 2 ^ 16 + (s.vd v).carry) / (s.vd v).weight) ∧
      (t.vd v).carry = (n * 2 ^ 16 + (s.vd v).carry) % (s.vd v).weight) ∧
  (∀ s q v, s.package.holder.get? q = some v → (∀ e, e ∈ s.warps → inPartition s q e.2 = true → e.2.uncommitted = true ∧ e.2.handler = false) →
    let run := (s.warps.filter (fun e => inPartition s q e.2)).map (fun e => (s.record e.1).priority)
    let mine := ((waitingOn s q).filter (fun g => g.vd == v)).map (fun g => g.record.priority)
    let next := ranked s ((waitingOn s q).filter (fun g => g.vd != v && decide ((run ++ mine).foldl max 0 ≤ g.record.priority)))
    ∃ t, Completes (.slice_end q) s t ∧ Quiet s t ∧ (next = [] → t.package.holder = s.package.holder) ∧
      ∀ g more, next = g :: more → t.package.holder.get? q = some g.vd ∧ ∀ e, e ∈ t.warps → inPartition s q e.2 = true → e.2.evict = 2)

/-- Says of each of these constructors that it COMPLETES (exec answers a next state that holds its effect) under conditions on state and operands:
mx_gang, mx_wait, mx_drop, mx_rdv. MX.GANG completes where its checks pass, and the gang register holds the value given. MX.WAIT completes once no
matrix command of the warp is left. MX.DROP marks exactly the rows of its range dead. MX.RDV gives in each lane on below the count the column of
the lane's row, zero in helper lanes, and keeps every other lane. None of them changes another register or a byte of memory. -/
def Obligations.MatrixRegisters : Prop :=
  (∀ p w, WF.mx_gang p w = true →
    Does (.mx_gang p w) p (fun c => gangChecks c (.code w.a)) (fun c g s => setGang c g s) (fun _ _ => noReg) (fun _ _ => noMask)
      (fun c g s t => GoesOn c s t ∧ (t.warp c.w).gang = g ∧ ∀ d l, t.readMem d l = s.readMem d l)) ∧
  (∀ p w, WF.mx_wait p w = true →
    DoesIf (.mx_wait p w) p (fun s c => mxBusy s c.w = false) (fun _ s => s) (fun _ _ => noReg) (fun _ _ => noMask) (fun c s t => GoesOn c s t)) ∧
  (∀ p w, WF.mx_drop p w = true →
    Does (.mx_drop p w) p (fun c => dropChecks c w) (fun c r s => dropRows c.quad r.1 r.2 s) (fun _ _ => noReg) (fun _ _ => noMask)
      (fun c r s t => GoesOn c s t ∧ ∀ k, accRow t c.quad k =
        if r.1 ≤ k ∧ k < r.2 then { accRow s c.quad k with dead := true } else accRow s c.quad k)) ∧
  (∀ p w x, WF.mx_rdv p w x = true →
    Does (.mx_rdv p w x) p (fun c => rdvChecks c w x) (fun _ _ s => s)
      (fun c k g => w.wbs = false ∧ (dstD w x).names 1 ((c.on &&& lanesBelow k.count) ||| c.helpers) g) (fun _ _ => noMask)
      (fun c k s t => GoesOn c s t ∧ (w.wbs = false → ∀ i,
        (hasLane (c.on &&& lanesBelow k.count) i = true → (dstD w x).has (t.warp c.w) 0 i (rdvVal s c x k i)) ∧
        (hasLane (c.on &&& lanesBelow k.count) i = false → hasLane c.helpers i = true → (dstD w x).has (t.warp c.w) 0 i 0#32))))

/-- Says of each of these constructors that it COMPLETES (exec answers a next state that holds its effect) under conditions on state and operands:
mx_fmt, mx_ldb, mx_zero, mx_wr, mx_rd, mx_qnt. Each of MX.FMT, MX.LDB, MX.ZERO, MX.WR, MX.RD and MX.QNT completes wherever its checks pass, with
its command in flight. MX.FMT has written its 32 bytes and nothing else in scratchpad. MX.ZERO's rows are zero, MX.WR writes rows of its range
alone, and MX.LDB, MX.RD and MX.QNT change no row and no byte of scratchpad at issue. None changes a register, a mask or a byte of memory. -/
def Obligations.MatrixCommands : Prop :=
  (∀ p w x, WF.mx_fmt p w x = true →
    Does (.mx_fmt p w x) p (fun c => fmtChecks c w x) (fun c r s => fmtStart c w x r s) (fun _ _ => noReg) (fun _ _ => noMask)
      (fun c r s t => GoesOn c s t ∧ (t.spadOf c.w r.2.1.1).read r.2.1.2 32 = r.2.2 ∧
        (∀ b o, (b ≠ r.2.1.1 ∨ o < r.2.1.2 ∨ r.2.1.2 + 32 ≤ o) → readByte (t.spadOf c.w b).bytes o = readByte (s.spadOf c.w b).bytes o) ∧
        ∀ d l, t.readMem d l = s.readMem d l)) ∧
  (∀ p w x, WF.mx_ldb p w x = true →
    Does (.mx_ldb p w x) p (fun c => ldbChecks c w x) (fun c r s => ldbStart c w x r s) (fun _ _ => noReg) (fun _ _ => noMask)
      (fun c _ s t => GoesOn c s t ∧ Unwritten c s t ∧ ∀ k, accRow t c.quad k = accRow s c.quad k)) ∧
  (∀ p w x, WF.mx_zero p w x = true →
    Does (.mx_zero p w x) p (fun c => zeroChecks c w x) (fun c k s => zeroStart c w x k s) (fun _ _ => noReg) (fun _ _ => noMask)
      (fun c k s t => GoesOn c s t ∧ Unwritten c s t ∧
        ∀ r, accRow t c.quad r = if k.first ≤ r ∧ r < k.first + k.count then AccRow.zero else accRow s c.quad r)) ∧
  (∀ p w x, WF.mx_wr p w x = true →
    Does (.mx_wr p w x) p (fun c => wrChecks c w x) (fun c r s => wrStart c p w x r.1 r.2 s) (fun _ _ => noReg) (fun _ _ => noMask)
      (fun c k s t => GoesOn c s t ∧ Unwritten c s t ∧
        ∀ r, (r < k.1.first ∨ k.1.first + k.1.count ≤ r) → accRow t c.quad r = accRow s c.quad r)) ∧
  (∀ p w x, WF.mx_rd p w x = true →
    Does (.mx_rd p w x) p (fun c => readChecks c false w x) (fun c r s => readStart c p false w x r s) (fun _ _ => noReg) (fun _ _ => noMask)
      (fun c _ s t => GoesOn c s t ∧ Unwritten c s t ∧ ∀ k, accRow t c.quad k = accRow s c.quad k)) ∧
  (∀ p w x, WF.mx_qnt p w x = true →
    Does (.mx_qnt p w x) p (fun c => readChecks c true w x) (fun c r s => readStart c p true w x r s) (fun _ _ => noReg) (fun _ _ => noMask)
      (fun c _ s t => GoesOn c s t ∧ Unwritten c s t ∧ ∀ k, accRow t c.quad k = accRow s c.quad k))

/-- Says of each of these constructors that it COMPLETES (exec answers a next state that holds its effect) under conditions on state and operands:
mx_mmas, mx_mma, rendezvous_release, mx_consumed, mx_done. MX.MMA and MX.MMAS, whose checks pass and whose warp is not in the latch, enter it and
wait; issued again at their group once released, they complete and leave it, changing nothing else. RENDEZVOUS_RELEASE takes the first operation
whose members have all entered; where its gather succeeds without poison, each row that the lanes name holds the product added to what it held,
every other row stays, and every member is released. MX_CONSUMED marks a matrix command consumed. MX_DONE of a consumed command that no verdict
holds ends it: only bytes that the command writes change in scratchpad, all of them where their labels allow it. No register, mask or byte of
memory changes. -/
def Obligations.JointOperations : Prop :=
  (∀ (sparse : Bool) p w x, (if sparse then WF.mx_mmas p w x else WF.mx_mma p w x) = true →
    let i : Instr := if sparse then .mx_mmas p w x else .mx_mma p w x
    DoesIf i p (fun s c => ∃ m,
        (s.quad c.quad).rendezvous.find? (fun m => m.warp == c.w && (!m.done || m.group == c.sub.pc)) = some m ∧ m.done = true)
      (fun c s => leaveLatch s c.w) (fun _ _ => noReg) (fun _ _ => noMask) (fun c s t => GoesOn c s t) ∧
    (∀ s u m s1, Passes s p u (fun c => enterChecks c sparse w x) (some m) s1 → s.cur.probe = false →
      (s.quad (mkCtx s u p).quad).rendezvous.find? (fun m => m.warp == s.cur.warp && (!m.done || m.group == u.pc)) = none →
      ∃ t, exec i s = .next t ∧ t.report = .wait ∧ Quiet s t ∧ (t.quad s.cur.quad).rendezvous = (s.quad s.cur.quad).rendezvous ++ [m])) ∧
  (∀ s q m ms, (s.quad q).rendezvous.findSome? (fun m => if m.done then none else (fullGang s q m).map (fun ms => (m, ms))) = some (m, ms) →
    ∃ t, Completes (.rendezvous_release q) s t ∧ Quiet s t ∧
      ∀ ga, gather s q ms m = .ok ga → ga.fmtBad = false → ga.scaleBad = false →
        (∀ a, a ∈ ga.rows → a.bad = false ∧ (accRow s q a.row).poison = false) →
        (∀ a, a ∈ ga.rows → (accRow t q a.row).cols =
          (mxRow ga.fmt a (((s.quad q).halves[ga.half]?).getD BHalf.empty) ga.scalesB (accRow s q a.row)).1) ∧
        (∀ r, (∀ a, a ∈ ga.rows → a.row ≠ r) → accRow t q r = accRow s q r) ∧
        (∀ x y, x ∈ ms → y ∈ (t.quad q).rendezvous → y.warp = x.warp → y.done = true)) ∧
  (∀ s k c a b f g h u l r, s.cmds.get? k = some c → c.op = .mx a b f g h u l r → c.id = k → c.consumed = false →
    ∃ t, Completes (.mx_consumed k) s t ∧ Quiet s t ∧ (t.cmds.get? k).map (fun x => x.consumed) = some true ∧
      ∀ r, accRow t c.quad r = accRow s c.quad r) ∧
  (∀ s k c a b f g h u l r, s.cmds.get? k = some c → c.op = .mx a b f g h u l r → c.id = k → c.consumed = true → heldForVerdict s k = false →
    ∃ t, Completes (.mx_done k) s t ∧ Quiet s t ∧ t.cmds.get? k = none ∧ (∀ r, accRow t c.quad r = accRow s c.quad r) ∧
      ((checkWrites s c h (writeGranules h)).1 = none → ∀ n, (t.block c.grid n).spad = ((applyWrites s c h).block c.grid n).spad) ∧
      ∀ n o, o < 2 ^ 22 → (∀ x, x ∈ h → ¬ (x.off ≤ n * 2 ^ 22 + o ∧ n * 2 ^ 22 + o < x.off + x.bytes.length)) →
        readByte (t.block c.grid n).spad.bytes o = readByte (s.block c.grid n).spad.bytes o)

/-- Says of each of these constructors that it COMPLETES (exec answers a next state that holds its effect) under conditions on state and operands:
barw, bobj_arv, bobj_init. BARW completes, changing nothing but where its sub-warp stands, once the object's phase has been reached and its checks
pass. BOBJ.ARV, with a lane on and its checks passed, commits the region and makes its arrivals in one access: a valid object in scratchpad whose
label dominates holds the pending count and phase that R271 gives; no byte outside the object changes. BOBJ.INIT completes where its checks pass,
with its command in flight, or with no lane on with its entry delivered. None changes a register or a mask. -/
def Obligations.BarrierObjects : Prop :=
  (∀ p w, WF.barw p w = true →
    Does (.barw p w) p (fun c => barwChecks c (w.d.getLsbD 0) (.code w.a) (.code w.b)) (fun _ _ s => s) (fun _ _ => noReg) (fun _ _ => noMask)
      (fun c _ s t => GoesOn c s t)) ∧
  (∀ p w, WF.bobj_arv p w = true →
    Does (.bobj_arv p w) p (fun c => arvChecks c w) (fun c r s => arrived c r s) (fun _ _ => noReg) (fun _ _ => noMask)
      (fun c r s t => GoesOn c s t ∧ ∀ x, r = some x →
        (∀ d l, (∀ q, (objPlace s (c.doer s) x.spad x.addr).1 = .ok (.mem q) → ¬ (l.host = q.loc.host ∧ q.loc.pa ≤ l.pa ∧ l.pa < q.loc.pa + 32)) →
          t.readMem d l = s.readMem d l) ∧
        (∀ b o, (objPlace s (c.doer s) x.spad x.addr).1 = .ok (.spad b o) → x.count ≠ 0 → (s.spadOf c.w b).poisoned o 32 = false →
          objValid ((s.spadOf c.w b).read o 32) = true → s.dominates c.vd ((s.spadOf c.w b).label o) x.lbl = true →
          (t.spadOf c.w b).read (o + 4) 8 = objBytes ((s.spadOf c.w b).read o 32) x.count))) ∧
  (∀ p w x, WF.bobj_init p w x = true →
    Does (.bobj_init p w x) p (fun c => initChecks c w x) (fun c r s => initStart c w x r s) (fun _ _ => noReg) (fun _ _ => noMask)
      (fun c _ s t => GoesOn c s t ∧ Unwritten c s t))

/-- Says of each of these constructors that it COMPLETES (exec answers a next state that holds its effect) under conditions on state and operands:
xf_copy_64, xf_copy_96, xf_pref, xf_yield, xf_wait, xf_cancel. XF.COPY, XF.PREF and XF.YIELD complete wherever their checks pass: with a lane on
the command is in flight, and XF.YIELD's sub-warp is parked at its continuation; with none on the entry is delivered at once. XF.WAIT completes
once the warp has no transfer command and no producer holds an entry of one. XF.CANCEL abandons the unstarted commands of the warp that have the
tag. None changes a register, a mask, a byte of memory or of scratchpad at issue. -/
def Obligations.TransferInstructions : Prop :=
  (∀ p w x, WF.xf_copy_64 p w x = true →
    Does (.xf_copy_64 p w x) p (fun c => xfChecks c 0 w x) (fun c r s => xfStart c 0 1 w x r s) (fun _ _ => noReg) (fun _ _ => noMask)
      (fun c r s t => GoesOn c s t ∧ Unwritten c s t ∧ (c.on ≠ 0#32 → t.cmds.get? s.cmdSerial = some (xfCmd s c 0 1 w x r)))) ∧
  (∀ p w x lit, WF.xf_copy_96 p w x lit = true →
    Does (.xf_copy_96 p w x lit) p (fun c => xfChecks c 0 w x) (fun c r s => xfStart c 0 lit.toNat w x r s) (fun _ _ => noReg) (fun _ _ => noMask)
      (fun c r s t => GoesOn c s t ∧ Unwritten c s t ∧ (c.on ≠ 0#32 → t.cmds.get? s.cmdSerial = some (xfCmd s c 0 lit.toNat w x r)))) ∧
  (∀ p w x, WF.xf_pref p w x = true →
    Does (.xf_pref p w x) p (fun c => xfChecks c 1 w x) (fun c r s => xfStart c 1 1 w x r s) (fun _ _ => noReg) (fun _ _ => noMask)
      (fun c r s t => GoesOn c s t ∧ Unwritten c s t ∧ (c.on ≠ 0#32 → t.cmds.get? s.cmdSerial = some (xfCmd s c 1 1 w x r)))) ∧
  (∀ p w x, WF.xf_yield p w x = true →
    Does (.xf_yield p w x) p (fun c => xfChecks c 2 w x) (fun c r s => xfStart c 2 1 w x r s) (fun _ _ => noReg) (fun _ _ => noMask)
      (fun c r s t => Unwritten c s t ∧ (c.on = 0#32 → GoesOn c s t) ∧ (c.on ≠ 0#32 →
        t.cmds.get? s.cmdSerial = some (xfCmd s c 2 1 w x r) ∧
        ∃ v, (t.warp c.w).sub c.sub.id = some v ∧ v.pc = r.cont ∧ v.hold = .yielded s.cmdSerial))) ∧
  (∀ p w, WF.xf_wait p w = true →
    DoesIf (.xf_wait p w) p
      (fun s c => (∀ e, e ∈ s.cmds → e.2.warp = c.w → e.2.op.isTransfer = false) ∧ entriesHeld s c.w = false) (fun c s => commit s c.w)
      (fun _ _ => noReg) (fun _ _ => noMask) (fun c s t => GoesOn c s t)) ∧
  (∀ p w, WF.xf_cancel p w = true →
    DoesIf (.xf_cancel p w) p (fun s c => Readable s c [.code w.a] c.on)
      (fun c s => cancelTagged c.w (field (srcVal s c (.code w.a) 0) 0 16) (commit s c.w)) (fun _ _ => noReg) (fun _ _ => noMask)
      (fun c s t => GoesOn c s t))

/-- Says of each of these constructors that it COMPLETES (exec answers a next state that holds its effect) under conditions on state and operands:
copy_complete, prefetch_arrival, xf_yield_resume, peer_copy_access. COPY_COMPLETE, PREFETCH_ARRIVAL and XF_YIELD_RESUME, when every word of the
command is done and settled and its arrival can be made, end the command; the sub-warp of XF.YIELD then stands ready at its continuation.
COPY_COMPLETE for one word of a copy within the package performs it, and PEER_COPY_ACCESS, of a copy with another package, the words of one
destination granule. A word from scratchpad to scratchpad whose labels allow it is copied. No register and no mask changes, and memory only where
the destination or an object lies there. -/
def Obligations.TransferEvents : Prop :=
  (∀ s k c tl, s.cmds.get? k = some c → c.id = k → c.started = true → mayRun s c = true → (∀ n, n < tl.words → n ∈ c.doneWords) →
    tl.words ≤ c.doneWords.length → cmdSettled s c = true → arrivalReady s c = true →
    (c.op = .copy tl none → ∃ t, Completes (.copy_complete k none) s t ∧ t.cmds.get? k = none ∧ Ended c s t) ∧
    (c.op = .prefetch tl → ∃ t, Completes (.prefetch_arrival k) s t ∧ t.cmds.get? k = none ∧ Ended c s t) ∧
    (∀ i cont u, c.op = .copy tl (some (i, cont)) → (s.warp c.warp).sub i = some u → u.hold = .yielded k →
      ∃ t, Completes (.xf_yield_resume k) s t ∧ t.cmds.get? k = none ∧ Ended c s t ∧
        (i = none → NoSync s c.warp → Stands t c.warp none u.mask cont))) ∧
  (∀ s k c tl n, s.cmds.get? k = some c → c.id = k → c.op = .copy tl none → mayRun s c = true → tl.remote s = false → n < tl.words →
    c.doneWords.contains n = false →
    ∃ t, Completes (.copy_complete k (some [n])) s t ∧ (t.cmds.get? k).map (fun x => x.doneWords) = some (c.doneWords ++ [n]) ∧
      Frame (fun _ _ => False) (fun _ _ => False) (fun _ => False) (fun _ _ => tl.dstTier ≠ 0) s t ∧
      (∀ b o b' o', tl.srcTier = 0 → tl.dstTier = 0 → (s.warp c.warp).grid = c.grid →
        spadLoc s c.grid c.block (lo32 tl.src) 16 = some (b, o) → spadLoc s c.grid c.block (lo32 tl.dst) 16 = some (b', o') →
        (feeds s c tl (tl.mates n)).2.1 = false →
        let l := (s.joinList c.warp ((feeds s c tl (tl.mates n)).1 ++ c.lbl :: c.path)).1
        let a := o + (tl.srcAt n - tl.src).toNat
        let a' := o' + (tl.dstAt n - tl.dst).toNat
        (s.joinList c.warp ((feeds s c tl (tl.mates n)).1 ++ c.lbl :: c.path)).2.dominates c.vd ((s.block c.grid b').spad.label a') l = true →
        (t.block c.grid b').spad.read a' 16 = (s.block c.grid b).spad.read a 16)) ∧
  (∀ s k c tl n peer, s.cmds.get? k = some c → c.id = k → c.op.tile? = some tl → tl.remote s = true → (tl.srcTier ≠ 3 ∨ tl.dstTier ≠ 3) →
    mayRun s c = true → n < tl.words →
    c.doneWords.contains n = false →
    ∃ t, Completes (.peer_copy_access k n peer) s t ∧
      (t.cmds.get? k).map (fun x => x.doneWords) = some (c.doneWords ++ (tl.mates n).filter (fun j => !c.doneWords.contains j)) ∧
      Frame (fun _ _ => False) (fun _ _ => False) (fun _ => False) (fun _ _ => tl.dstTier ≠ 0 ∧ tl.dstTier ≠ 3) s t)

/-- Says of each of these constructors that it COMPLETES (exec answers a next state that holds its effect) under conditions on state and operands:
cl_put, cl_get, cl_red, cl_atom, cl_draw, cl_sig, cl_flush. Each CL.* command completes wherever its checks pass: with a lane on the region
commits, the warp is its block's communication warp, and the command is in flight with one undecided lane for each lane that is on; with none on
its entry is delivered at once. CL.FLUSH sends home the lines of its range that the switches hold. None changes a register's value, a mask, a byte
of memory or of scratchpad at issue. -/
def Obligations.CollectiveCommands : Prop :=
  (∀ p w x, WF.cl_put p w x = true → Collects (.cl_put p w x) p 4 w x) ∧
  (∀ p w x, WF.cl_get p w x = true → Collects (.cl_get p w x) p 5 w x) ∧
  (∀ p w x, WF.cl_red p w x = true → Collects (.cl_red p w x) p 6 w x) ∧
  (∀ p w x, WF.cl_atom p w x = true → Collects (.cl_atom p w x) p 7 w x) ∧
  (∀ p w x, WF.cl_draw p w x = true → Collects (.cl_draw p w x) p 8 w x) ∧
  (∀ p w x, WF.cl_sig p w x = true → Collects (.cl_sig p w x) p 9 w x) ∧
  (∀ p w, WF.cl_flush p w = true →
    Does (.cl_flush p w) p (fun c => flushChecks c w) (fun c r s => flushStart c w r s) (fun _ _ => noReg) (fun _ _ => noMask)
      (fun c r s t => GoesOn c s t ∧ Unwritten c s t ∧ ∀ l, l ∈ t.switchLines ↔ l ∈ s.switchLines ∧
        ¬ (l.vd = c.vd ∧ r.1.toNat ≤ l.va ∧ l.va < r.1.toNat + r.2.1.toNat)))

/-- Says of each of these constructors that it COMPLETES (exec answers a next state that holds its effect) under conditions on state and operands:
slot_start, cl_peer_apply, cl_complete, switch_write_back, write_back_at_home. SLOT_START sends a held command with the status that R281 decides.
CL_PEER_APPLY decides one lane that may be sent: a reply of another package lands in that lane's registers of CL.GET or CL.ATOM, and no other
register changes. CL_COMPLETE ends a command whose lanes are decided. SWITCH_WRITE_BACK takes a line out of the switches; WRITE_BACK_AT_HOME takes
it off the way, having written at most its own 64 bytes. -/
def Obligations.CollectiveEvents : Prop :=
  (∀ s k c est a b d e ls st wd key base r, s.cmds.get? k = some c → c.id = k → c.op = .cl a b d e ls (some (st, wd)) key base → c.started = false →
    behindHeld s c = false → slotDecision (max est s.package.skew) (c.reached.getD s.package.time).toNat s.package.time.toNat st.toNat wd.toNat = some r →
    ∃ t, Completes (.slot_start k est) s t ∧ Quiet s t ∧ t.cmds.get? k = some { c with started := true, status := r }) ∧
  (∀ s k c lane peer code op ty dest ls sl key base l, s.cmds.get? k = some c → c.id = k → c.op = .cl code op ty dest ls sl key base →
    ls.find? (fun l => l.lane == lane && !l.decided) = some l → clSent s c = true → clTurn s c l = true →
    (clLocal s c l code = false → lane < 32 → ∃ t, Completes (.cl_peer_apply k lane peer) s t ∧
      Frame (fun x g => x = c.warp ∧ (code = 5 ∨ code = 7) ∧ ∃ n, g = .o n lane ∨ 64 ≤ dest + peer.value.length ∧ g = .v n lane) (fun _ _ => False) (fun _ => False) (fun _ _ => False) s t ∧
      (∀ m, m ∈ ((t.cmds.get? k).map (fun x => x.op.clLanes)).getD [] → m.lane = lane → m.decided = true) ∧
      (∀ j v, peer.fail = none → (code = 5 ∨ code = 7) → (s.warp c.warp).life = .resident → peer.value[j]? = some v → dest + j < 16 →
        peer.value.length ≤ 16 → dest + peer.value.length ≤ 64 → (t.warp c.warp).reg (.o (dest + j) lane) = (v, false))) ∧
    (∀ t', clLocal s c l code = true → clHere s c l code op ty dest key base peer = some t' →
      ∃ t, Completes (.cl_peer_apply k lane peer) s t ∧ t = { t' with report := .done })) ∧
  (∀ s k c a b d e ls sl key base, s.cmds.get? k = some c → c.id = k → c.op = .cl a b d e ls sl key base → c.object = none →
    (∀ l, l ∈ ls → l.decided = true) → cmdSettled s c = true → c.verdict = none → behindHeld s c = false →
    ∃ t, Completes (.cl_complete k) s t ∧ Quiet s t ∧ t.cmds.get? k = none) ∧
  (∀ s v a l, winLine? s v a = some l →
    ∃ t, Completes (.switch_write_back v a) s t ∧ Quiet s t ∧ l ∉ t.switchLines ∧ t.writeBacks = s.writeBacks ++ [{ l with id := s.cmdSerial }]) ∧
  (∀ s k l, s.writeBacks[k]? = some l →
    ((l.home ≠ s.package.kwid ∨ (s.vd l.vd).gen ≠ l.gen ∨ (s.vd l.vd).state = 0) →
      ∃ t, Completes (.write_back_at_home k) s t ∧ Quiet s t ∧ t.writeBacks = s.writeBacks.eraseIdx k) ∧
    (∀ f, l.home = s.package.kwid → (s.vd l.vd).gen = l.gen → (s.vd l.vd).state ≠ 0 → s.walk l.vd (BitVec.ofNat 64 l.va) = .leaf f →
      let q := f.loc (BitVec.ofNat 64 l.va)
      (leafBad s f = true ∨ leafBit f.bits 5 = false ∨ q.host = true ∨ (s.blocked q = false ∧ (s.die (homeDie q.pa)).fenced = false ∧
        s.caughtUp (homeDie q.pa) (clockMax (s.clockOf (homeDie q.pa)) (s.clockOf 10)) = true)) →
      ∃ t, Completes (.write_back_at_home k) s t ∧ t.writeBacks = s.writeBacks.eraseIdx k ∧
        Frame (fun _ _ => False) (fun _ _ => False) (fun _ => False)
          (fun d m => d = homeDie q.pa ∧ m.host = false ∧ q.pa ≤ m.pa ∧ m.pa < q.pa + l.bytes.length) s t))

/-- Says of each of these constructors that it COMPLETES (exec answers a next state that holds its effect) under conditions on state and operands:
store_apply_at_home, replica_apply, hbm_window_write, delivery_fault, preemption_request, full_save, resume. STORE_APPLY_AT_HOME of a flight that
may go home completes: a store whose label the granule's label dominates is applied at its home, and one that it does not dominate writes nothing;
a store to host memory, checked against its page's label before it was put in flight, is applied there; no byte outside the flight's own bytes
changes. REPLICA_APPLY of a write that its home has applied, and that the die may apply, the line waiting for no clear, applies it at that die
alone. HBM_WINDOW_WRITE of the hypervisor puts a write that lies in one line in flight from the host port, and changes no byte yet. None of these
changes a register, a mask or a special register of a warp. DELIVERY_FAULT raises the oldest waiting delivery fault of a resident warp outside its
handler at the sub-warp that its copy resumed, or else at the one that would issue next, which enters the handler, and the fault is no longer
waiting. PREEMPTION_REQUEST takes a requested warp: an uncommitted one outside its handler that waits for no recorded prefetch is flashed back to
its snapshot, another waits for its full save. FULL_SAVE of a warp whose replies have landed and in which no live register is poisoned saves it,
dead registers left out. RESUME makes a saved warp that may go on resident on its quadrant number of the core. A full save and a resume change no
byte of memory. -/
def Obligations.MemoryAndWarpEvents : Prop :=
  (∀ s f x, flight? s f = some x → mayGoHome s x = true →
    ∃ t, Completes (.store_apply_at_home f) s t ∧
      Frame (fun _ _ => False) (fun _ _ => False) (fun _ => False) (fun d l => match x.op with
        | .store bs => l.host = x.host ∧ x.pa ≤ l.pa ∧ l.pa < x.pa + bs.length ∧ (x.host = true ∨ d = homeDie x.pa)
        | .label => False
        | .rdm _ ty lanes _ _ => ∃ y, y ∈ lanes ∧ l.host = false ∧ d = homeDie y.pa ∧ y.pa ≤ l.pa ∧ l.pa < y.pa + atomBytes ty) s t ∧
      ∀ bs, x.op = .store bs →
        ((x.host = true ∨ s.dominates x.vd (s.labelLoc (homeDie x.pa) ⟨false, x.pa⟩) x.lbl = true) →
          (x.host = true → t.hostMem.bytes = writeBytes s.hostMem.bytes x.pa bs) ∧
          (x.host = false → (t.die (homeDie x.pa)).copy = ((s.applyAt (homeDie x.pa) x.pa bs x.clock x.src).die (homeDie x.pa)).copy)) ∧
        (x.host = false → s.dominates x.vd (s.labelLoc (homeDie x.pa) ⟨false, x.pa⟩) x.lbl = false → ∀ d l, t.readMem d l = s.readMem d l)) ∧
  (∀ s d f x, flight? s f = some x → x.atHome = true → x.host = false → x.applied.contains d = false → s.liveDies.contains d = true →
    s.mayApply d x = true → s.blocked ⟨false, x.pa⟩ = false →
    ∃ t, Completes (.replica_apply d f) s t ∧
      Frame (fun _ _ => False) (fun _ _ => False) (fun _ => False) (fun d' l =>
        ∃ bs, x.op = .store bs ∧ d' = d ∧ l.host = false ∧ x.pa ≤ l.pa ∧ l.pa < x.pa + bs.length) s t ∧
      ∀ bs, x.op = .store bs → (t.die d).copy.bytes = ((s.applyAt d x.pa bs x.clock x.src).die d).copy.bytes) ∧
  (∀ s req pa bytes, isHv s req = true →
    ∃ t, Completes (.hbm_window_write req pa bytes) s t ∧ Quiet s t ∧
      (bytes ≠ [] → pa % 64 + bytes.length ≤ 64 → pa < 288 * 2 ^ 32 →
        ∃ f, f ∈ t.flights ∧ f.src = 9 ∧ f.host = false ∧ f.pa = pa ∧ f.op = .store bytes ∧ f.atHome = false)) ∧
  (∀ s w u d ds, (s.warp w).life = .resident → deliverySub (s.warp w) d = some u → (s.warp w).sub u.id = some u → (s.warp w).deliveries = d :: ds →
    let r : TrapInfo :=
      ⟨d.cause, u.pc, d.addr, d.lanes, 0, 0, true, lo32 d.pc, hi32 d.pc, [d.lbl], [], if d.source = w then none else some d.source, false⟩
    Handles s w r → ∃ t, exec (.delivery_fault w) s = .next t ∧ Entered w u r s t ∧ (t.warp w).deliveries = ds) ∧
  (∀ s w, (s.warp w).life = .resident → debugHalted s (s.warp w) = false → (s.warp w).evict ≠ 0 →
    ((s.warp w).uncommitted = true → (s.warp w).handler = false → flashbackWaits s w = false → ∃ t, Completes (.preemption_request w) s t ∧ (t.warp w).life = .rewound ∧
      ∀ c, (s.warp w).cue = some c → (t.warp w).o = restoreFile c.keepsO c.o (s.warp w).o ∧
        (t.warp w).v = restoreFile c.keepsV c.v (s.warp w).v ∧ (t.warp w).s = restoreUniform c.keepsS c.s (s.warp w).s) ∧
    (((s.warp w).uncommitted = false ∨ (s.warp w).handler = true) → ∃ t, Completes (.preemption_request w) s t ∧ Quiet s t ∧
      (t.warp w).life = .saving)) ∧
  (∀ s w, (s.warp w).life = .saving → (s.warp w).ldx = [] → (∀ m, m ∈ (s.quad (s.warp w).quad).rendezvous → m.warp = w → m.done = false) →
    poisonedLanes s w = 0#32 →
    ∃ t, Completes (.full_save w) s t ∧ Frame (fun x _ => x = w) (fun _ _ => False) (fun x => x = w) (fun _ _ => False) s t ∧
      (t.warp w).life = .saved ∧ (t.warp w).o = (s.warp w).o.filter (fun e => !e.2.dead) ∧ (t.warp w).v = (s.warp w).v.filter (fun e => !e.2.dead)) ∧
  (∀ s w core, mayResume s w core = true →
    ∃ t, Completes (.resume w core) s t ∧ Quiet s t ∧ (t.warp w).life = .resident ∧ (t.warp w).quad = 4 * core + (s.warp w).quad % 4 ∧
      (t.block (s.warp w).grid (s.warp w).block).core = core)

/-- Says of each of these constructors that it COMPLETES (exec answers a next state that holds its effect) under conditions on state and operands:
await, await_wake, end_, u_mode_exception, mbpop, mbpush, mbstat_read, episode_instruction, watchdog, episode_create, episode_end. Where WFI or
service 0 stands at the PC of a core that runs, AWAIT completes: it returns the lowest page with an action waiting, or blocks; AWAIT_WAKE returns
when one has come. Service 1 makes END complete, and an address or an instruction that user mode cannot execute U_MODE_EXCEPTION: the episode is
over. An aligned store of 4 or 8 bytes to MBPOP or MBPUSH of a mailbox page makes MBPOP or MBPUSH complete: the oldest waiting action opens, or
the oldest open one is answered. An aligned load of MBSTAT makes MBSTAT_READ complete. Arithmetic, and a load of the episode's memory, make
EPISODE_INSTRUCTION complete with their result. Each changes no byte of memory outside the episode's own pages. WATCHDOG freezes a core whose
count is over its budget with an action open. EPISODE_CREATE by the hypervisor starts an episode at its entry, EPISODE_END ends one. No register,
mask or special register of a warp changes. -/
def Obligations.EpisodeEvents : Prop :=
  (∀ s die core e n i, die < 9 → RvAt s die core e n i → (i = .wfi ∨ (i = .ecall ∧ (s.pcore die core).reg 17 = 0#64)) →
    (∀ m, lowestWaiting s e = some m → ∃ t, Completes (.await die core) s t ∧ Quiet s t ∧ (t.pcore die core).awaiting = false ∧
      (t.pcore die core).pc = (s.pcore die core).pc + 4#64 ∧ (10 < (s.pcore die core).x.length → (t.pcore die core).reg 10 = BitVec.ofNat 64 m)) ∧
    (lowestWaiting s e = none → ∃ t, Completes (.await die core) s t ∧ Quiet s t ∧ (t.pcore die core).awaiting = true ∧
      (t.pcore die core).pc = (s.pcore die core).pc)) ∧
  (∀ s die core e m, die < 9 → episodeOn s die core = some e → (s.pcore die core).awaiting = true → (s.pcore die core).frozen = false →
    (s.pcore die core).stopped = false → (s.die die).fenced = false → lowestWaiting s e = some m →
    ∃ t, Completes (.await_wake die core) s t ∧ Quiet s t ∧ (t.pcore die core).awaiting = false ∧
      (t.pcore die core).pc = (s.pcore die core).pc + 4#64 ∧ (10 < (s.pcore die core).x.length → (t.pcore die core).reg 10 = BitVec.ofNat 64 m)) ∧
  (∀ s die core e n, RvAt s die core e n .ecall → (s.pcore die core).reg 17 = 1#64 → ∃ t, Completes (.end_ die core) s t ∧ EpisodeOver e s t) ∧
  (∀ s die core e, episodeOn s die core = some e → coreRuns s e = true →
    (rvFetch s e (s.pcore die core).pc = none ∨ ∃ n, rvFetch s e (s.pcore die core).pc = some (n, none)) →
    ∃ t, Completes (.u_mode_exception die core) s t ∧ EpisodeOver e s t) ∧
  (∀ s die core e, rvStep s die core = some (e, .exn) → ∃ t, Completes (.u_mode_exception die core) s t ∧ EpisodeOver e s t) ∧
  (∀ s die core e n f3 a b o m off, die < 9 → RvAt s die core e n (.store f3 a b o) → (f3 = 2 ∨ f3 = 3) →
    e.bytes ((s.pcore die core).reg a + o) (2 ^ f3) = none → boxAt s e ((s.pcore die core).reg a + o) = some (m, off) → off % 2 ^ f3 = 0 →
    (136 ≤ off → off < 144 → ∃ t, Completes (.mbpop die core) s t ∧ Quiet s t ∧ (t.pcore die core).pc = (s.pcore die core).pc + BitVec.ofNat 64 n ∧
      ((s.mailbox die m).waiting = [] → (t.mailbox die m).refused = true) ∧
      ∀ x rest, (s.mailbox die m).waiting = x :: rest → (t.mailbox die m).waiting = rest ∧
        (t.mailbox die m).opened = (s.mailbox die m).opened ++ [x] ∧ (t.mailbox die m).refused = false) ∧
    (328 ≤ off → off < 336 → ∃ t, Completes (.mbpush die core) s t ∧ Quiet s t ∧ (t.pcore die core).pc = (s.pcore die core).pc + BitVec.ofNat 64 n ∧
      ((s.mailbox die m).opened = [] → (t.mailbox die m).refused = true) ∧
      ∀ x rest, (s.mailbox die m).opened = x :: rest → (s.mailbox die m).obs.length < 8 → (s.mailbox die m).obsstat = 0#8 →
        (t.mailbox die m).opened = rest ∧ (t.mailbox die m).obspay = zeros 64 ∧
        (t.mailbox die m).obs = (s.mailbox die m).obs ++
          [answerTo x 0#8 (s.ownersOf (s.mailbox die m).vd (s.mailbox die m).lbl) (s.mailbox die m).obspay])) ∧
  (∀ s die core e n f3 rd a o m off, die < 9 → RvAt s die core e n (.load f3 rd a o) → (f3 % 4 = 2 ∨ f3 % 4 = 3) →
    e.bytes ((s.pcore die core).reg a + o) (2 ^ (f3 % 4)) = none → boxAt s e ((s.pcore die core).reg a + o) = some (m, off) →
    off % 2 ^ (f3 % 4) = 0 → 128 ≤ off → off < 136 →
    ∃ t, Completes (.mbstat_read die core) s t ∧ Quiet s t ∧ (off = 128 → (t.mailbox die m).refused = false) ∧
      (0 < rd → rd < (s.pcore die core).x.length → (t.pcore die core).reg rd =
        rvExtend f3 ((List.range (2 ^ (f3 % 4))).map (fun k => byteOf (mbstat (s.mailbox die m)) (off + k - 128))))) ∧
  (∀ s die core e n i rd v, die < 9 → RvAt s die core e n i → i.result (s.pcore die core) = some (rd, v) →
    ∃ t, Completes (.episode_instruction die core) s t ∧ Quiet s t ∧ (t.pcore die core).pc = (s.pcore die core).pc + BitVec.ofNat 64 n ∧
      (0 < rd → rd < (s.pcore die core).x.length → (t.pcore die core).reg rd = v) ∧
      ∀ r, r ≠ rd → (t.pcore die core).reg r = (s.pcore die core).reg r) ∧
  (∀ s die core e n f3 rd a o ps, die < 9 → RvAt s die core e n (.load f3 rd a o) → e.bytes ((s.pcore die core).reg a + o) (2 ^ (f3 % 4)) = some ps →
    ∃ t, Completes (.episode_instruction die core) s t ∧ Quiet s t ∧
      (0 < rd → rd < (s.pcore die core).x.length → (t.pcore die core).reg rd = rvExtend f3 (epRead s ps))) ∧
  (∀ s die core e k t', rvStep s die core = some (e, .go k t') →
    Frame (fun _ _ => False) (fun _ _ => False) (fun _ => False)
      (fun _ l => l.host = false ∧ ∃ p, p ∈ e.pages ∧ l.pa / 4096 = p.2) s { t' with report := .done } ∧
    (k = .pop → Completes (.mbpop die core) s { t' with report := .done }) ∧
    (k = .push → Completes (.mbpush die core) s { t' with report := .done }) ∧
    (k = .stat → Completes (.mbstat_read die core) s { t' with report := .done }) ∧
    (k = .plain → Completes (.episode_instruction die core) s { t' with report := .done })) ∧
  (∀ s die core cycles e, die < 9 → episodeOn s die core = some e → e.budget ≠ 0 → e.budget < cycles → (s.pcore die core).count ≤ cycles →
    anyOpen s e = true → (s.pcore die core).frozen = false → (s.pcore die core).stopped = false → (s.die die).fenced = false →
    ∃ t, Completes (.watchdog die core cycles) s t ∧ Quiet s t ∧ (t.pcore die core).frozen = true) ∧
  (∀ s req a, isHv s req = true → mayCreate s a = true →
    ∃ t, Completes (.episode_create req a) s t ∧ Quiet s t ∧ (t.pcore a.die a.core).pc = a.entry ∧ t.episodes.length = s.episodes.length + 1 ∧
      ∃ e, e ∈ t.episodes ∧ e.die = a.die ∧ e.id = a.id ∧ e.core = a.core ∧ e.vd = a.vd ∧ e.budget = a.budget) ∧
  (∀ s req die id e, isHv s req = true → s.episodes.find? (fun e => e.die == die && e.id == id) = some e →
    ∃ t, Completes (.episode_end req die id) s t ∧ EpisodeOver e s t)

/-- Says of each of these constructors that it COMPLETES (exec answers a next state that holds its effect) under conditions on state and operands:
qown_read, sown_read, mapstat_read, hvstat_read, sbstat_read, hvpop, qstat_read, kwport_read, elstat_read, elpop, vdstat_read, evpop. QOWN, SOWN,
MAPSTAT, HVSTAT, QSTAT, ELSTAT, SBSTAT and KWPORT, read by the hypervisor, answer their bytes and clear refused, lost, the count of first touches,
overflow or retries. HVPOP and ELPOP, as one whole read, answer and remove the oldest record, and answer zeros when there is none. EVPOP and
VDSTAT do the same through a window that the requester may use and that is not frozen. A requester that may not reads zeros. Nothing else in
memory or in a warp changes. -/
def Obligations.HostReads : Prop :=
  (∀ s req q, q < 1296 →
    (isHv s req = true → Answers (.qown_read req q) s (toBytes (s.package.qown.get 0#16 q) 2) (fun t =>
      t.package.qown.get 0#16 q = s.package.qown.get 0#16 q &&& 0x1FF#16)) ∧
    (isHv s req = false → Denied (.qown_read req q) s 2)) ∧
  (∀ s req k, k < 288 →
    (isHv s req = true → Answers (.sown_read req k) s (toBytes (s.package.sown.get 0#16 k) 2) (fun t =>
      t.package.sown.get 0#16 k = s.package.sown.get 0#16 k &&& 0x7FF#16)) ∧
    (isHv s req = false → Denied (.sown_read req k) s 2)) ∧
  (∀ s req v, v < 1024 →
    (isHv s req = true → Answers (.mapstat_read req v) s
      (le 8 ((if (s.vd v).mapBusy then 1 else 0) + (if (s.vd v).mapRefused then 2 else 0))) (fun t => (t.vd v).mapRefused = false)) ∧
    (isHv s req = false → Denied (.mapstat_read req v) s 8)) ∧
  (∀ s req,
    (isHv s req = true → Answers (.hvstat_read req) s (le 2 s.package.hvEvents.length ++ le 2 s.package.hvLost ++ le 4 0) (fun t =>
      t.package.hvLost = 0)) ∧
    (isHv s req = false → Denied (.hvstat_read req) s 8) ∧
    (isHv s req = true → Answers (.sbstat_read req) s (le 1 ((if s.security.busy then 1 else 0) + (if s.security.refused then 2 else 0)) ++
      le 1 s.security.status ++ le 2 s.security.detail ++ le 4 s.security.outBytes) (fun t => t.security.refused = false)) ∧
    (isHv s req = false → Denied (.sbstat_read req) s 8) ∧
    (∀ r rest, isHv s req = true → s.package.hvEvents = r :: rest → Answers (.hvpop req true) s r (fun t => t.package.hvEvents = rest)) ∧
    (∀ whole, isHv s req = true → (whole = false ∨ s.package.hvEvents = []) →
      Answers (.hvpop req whole) s (zeros 32) (fun t => t.package.hvEvents = s.package.hvEvents)) ∧
    (∀ whole, isHv s req = false → Denied (.hvpop req whole) s 32)) ∧
  (∀ s req k, k < 18 →
    (isHv s req = true → Answers (.qstat_read req k) s (le 2 (min (unscrubbed s k) 65535) ++ le 2 (s.stack k).moved ++ le 4 0) (fun t =>
      (s.die (k / 2)).hbm.length = 2 → (t.stack k).moved = 0)) ∧
    (isHv s req = false → Denied (.qstat_read req k) s 8) ∧
    (isHv s req = true → Answers (.kwport_read req k) s
      (let p := ((s.die (k / 2)).ports[k % 2]?).getD ⟨false, false, 0, 0, 0#32⟩
       le 4 ((if p.up then 1 else 0) + (if p.frozen then 2 else 0) + p.peer % 4096 * 4 + p.peerPort % 32 * 16384) ++ toBytes p.retries 4)
      (fun t => (s.die (k / 2)).ports.length = 2 → ((t.die (k / 2)).ports[k % 2]?).map (fun p => p.retries) = some 0#32)) ∧
    (isHv s req = false → Denied (.kwport_read req k) s 8)) ∧
  (∀ s req d, d < 9 →
    (isHv s req = true → Answers (.elstat_read req d) s
      (le 2 (s.die d).log.length ++ le 2 (s.die d).overflow ++ le 6 (s.die d).lastSerial ++ le 6 0) (fun t => (t.die d).overflow = 0)) ∧
    (isHv s req = false → Denied (.elstat_read req d) s 16) ∧
    (∀ e rest, isHv s req = true → (s.die d).log = e :: rest → Answers (.elpop req d true) s (entryBytes e) (fun t => (t.die d).log = rest)) ∧
    (∀ whole, isHv s req = true → (whole = false ∨ (s.die d).log = []) →
      Answers (.elpop req d whole) s (zeros 32) (fun t => (t.die d).log = (s.die d).log)) ∧
    (∀ whole, isHv s req = false → Denied (.elpop req d whole) s 32)) ∧
  (∀ s req v, v < 1024 →
    (mayWindow s req v = true → (s.vd v).frozen = false →
      Answers (.vdstat_read req v) s (vdstat (s.vd v)) (fun t => (t.vd v).stale = 0 ∧ (t.vd v).lost = 0 ∧ (t.vd v).winDrops = 0) ∧
      (∀ r rest, (s.vd v).state = 1 → (s.vd v).events = r :: rest → Answers (.evpop req v true) s r (fun t => (t.vd v).events = rest)) ∧
      ∀ whole, (whole = false ∨ (s.vd v).state ≠ 1 ∨ (s.vd v).events = []) →
        Answers (.evpop req v whole) s (zeros 32) (fun t => (t.vd v).events = (s.vd v).events)) ∧
    ((mayWindow s req v = false ∨ (s.vd v).frozen = true) →
      Denied (.vdstat_read req v) s 16 ∧ ∀ whole, Denied (.evpop req v whole) s 32))

/-- Says of each of these constructors that it COMPLETES (exec answers a next state that holds its effect) under conditions on state and operands:
vdcreate, vdreset, vdfree, grant_install, grant_revoke, migout, migin, migabort, ticket_expiry, migration_complete, msnap, attest, fwload, lcset,
dbgattach. Each command that the hypervisor gives while none runs completes with its status. VDCREATE makes a DESCHEDULED VD of generation 1 with
its handles; VDRESET ends the VD's work and raises its generation; VDFREE leaves it FREE with its meters. GRANT_INSTALL fills its slot where R44
finds no fault, GRANT_REVOKE empties it. MIGOUT pauses a VD and runs until the stream is ready: the windows of the drained VD are flushed, and
once their lines are home the command ends with the ticket; MIGIN installs a stream, MIGABORT and TICKET_EXPIRY end one, MIGRATION_COMPLETE frees
the source. MSNAP and ATTEST answer their signed bodies. FWLOAD in phase 3 installs an image whose signature is good, LCSET with a good signature
wipes and waits, DBGATTACH sets debug. No byte of host memory outside SBOUT changes. -/
def Obligations.SecurityCommands : Prop :=
  (∀ s req a, Commanded s req →
    (a.vd < 1024 → isVd s a.vd = false → goodHandles a.handles = true → (∀ k, k ∈ a.keys → k.1 < 64) → s.security.life = 2 → 7 ≤ s.package.phase →
      ∃ t, Commands (.vdcreate req a) s t 0 0 ∧ (t.vd a.vd).state = 2 ∧ (t.vd a.vd).gen = 1 ∧ (t.vd a.vd).created = s.package.vdSerial ∧
        t.package.vdSerial = s.package.vdSerial + 1 ∧ (t.vd a.vd).table.get? 0 = some 0#64 ∧
        (t.vd a.vd).table.get? 255 = some (BitVec.allOnes 64) ∧ ∀ h, h ∈ a.handles → (t.vd a.vd).table.get? h.1 = some h.2) ∧
    (isVd s a.vd = true → ∃ t, Commands (.vdcreate req a) s t 1 0 ∧ t.vd a.vd = s.vd a.vd)) ∧
  (∀ s req v, Commanded s req →
    (isVd s v = true →
      (∃ t, Commands (.vdreset req v) s t 0 0 ∧ (t.vd v).state = 2 ∧ (t.vd v).gen = ((s.vd v).gen + 1) % 2 ^ 32 ∧ (t.vd v).events = [] ∧
        (t.vd v).grants = [] ∧ (∀ e, e ∈ t.warps → e.2.vd = v → e.2.life = .dead) ∧ ∀ e, e ∈ t.cmds → e.2.vd ≠ v) ∧
      ∃ t, Commands (.vdfree req v) s t 0 0 ∧ t.vd v = { VD.free with meters := (s.vd v).meters }) ∧
    (isVd s v = false → (∃ t, Commands (.vdreset req v) s t 1 0) ∧ ∃ t, Commands (.vdfree req v) s t 1 0)) ∧
  (∀ s req body sigs, Commanded s req →
    ∃ t, Commands (.grant_install req body sigs) s t (grantStatus s body sigs).1 (grantStatus s body sigs).2 ∧
      let v := (field (ofBytes 64 (slice body 0 8)) 0 10).toNat
      let slot := (field (ofBytes 64 (slice body 0 8)) 10 6).toNat
      (t.vd v).grants.get? slot = if (grantStatus s body sigs).1 = 0 then some (grantOf body) else (s.vd v).grants.get? slot) ∧
  (∀ s req v slot, Commanded s req → isVd s v = true → slot < 64 →
    ∃ t, Commands (.grant_revoke req v slot) s t 0 0 ∧ (t.vd v).grants.get? slot = none ∧
      ∀ k, k ≠ slot → (t.vd v).grants.get? k = (s.vd v).grants.get? k) ∧
  (∀ s req v dest, Commanded s req → isVd s v = true → (s.vd v).state ≠ 3 → (∀ e, e ∈ s.episodes → e.vd ≠ v) →
    (List.range 9).any (fun d => (s.die d).mailboxes.any (fun e => e.2.vd == v && e.2.enable && e.2.bound)) = false →
    (∃ t, Completes (.migout req v dest true) s t ∧ t.security.busy = true ∧ (t.vd v).state = 3 ∧
      ∃ x, x ∈ t.security.streams ∧ x.vd = v ∧ x.peer = dest ∧ x.source = true ∧ x.ready = false) ∧
    ∃ t, Commands (.migout req v dest false) s t 3 0 ∧ (t.vd v).state = (s.vd v).state) ∧
  (∀ s x, s.security.streams.find? (fun x => x.source && !x.ready && drained s x.vd) = some x →
    ((∃ l, l ∈ s.switchLines ∧ l.vd = x.vd) → ∃ t, prepareStream s = some t ∧ (∀ l, l ∈ t.switchLines → l.vd ≠ x.vd) ∧
      ∀ l, l ∈ s.switchLines → l.vd = x.vd → ∃ b, b ∈ t.writeBacks ∧ b.vd = l.vd ∧ b.va = l.va) ∧
    (atRest s x.vd = true → ∃ t, prepareStream s = some t ∧ t.security.busy = false ∧ t.security.status = 0 ∧
      t.security.out = (toBytes x.ticket 16).take s.security.sboutLen.toNat ∧ ∃ y, y ∈ t.security.streams ∧ y.ticket = x.ticket ∧ y.ready = true)) ∧
  (∀ s req a p, Commanded s req → s.inbound.find? (fun p => p.ticket == a.ticket) = some p → stream? s a.ticket false = none →
    isVd s a.vd = false → a.vd < 1024 → p.images.length ≤ (a.slices.filter (fun k => decide (k < 288) && s.ownsSlice a.vd (k * 2 ^ 32))).length →
    (a.intact = true → ∃ t, Commands (.migin req a) s t 0 0 ∧ (t.vd a.vd).state = 2 ∧ ∀ x, x ∈ t.inbound → x.ticket ≠ p.ticket) ∧
    (a.intact = false → ∃ t, Commands (.migin req a) s t 6 0)) ∧
  (∀ s req ticket x, stream? s ticket true = some x →
    (Commanded s req → ∃ t, Commands (.migabort req ticket) s t 0 0 ∧ x ∉ t.security.streams ∧ ((s.vd x.vd).state = 3 → (t.vd x.vd).state = 2)) ∧
    (x.ready = true → ∃ t, Completes (.ticket_expiry ticket) s t ∧ Quiet s t ∧ x ∉ t.security.streams ∧ ((s.vd x.vd).state = 3 → (t.vd x.vd).state = 2)) ∧
    (x.ready = true → atRest s x.vd = true → ∃ t, Completes (.migration_complete ticket) s t ∧ t.vd x.vd = { VD.free with meters := (s.vd x.vd).meters } ∧
      t.outbound = s.outbound ++ [parcelOf s ticket x.vd] ∧ (∀ e, e ∈ t.warps → e.2.vd ≠ x.vd) ∧
      ∀ d l, sliceOf l.pa ∉ slicesOf s x.vd → t.readMem d l = s.readMem d l)) ∧
  (∀ s req v nonce, Commanded s req → isVd s v = true →
    ∃ t, Commands (.msnap req v nonce) s t 0 0 ∧
      t.security.out = (snapBody s v nonce ++ Config.attestSign (snapBody s v nonce)).take s.security.sboutLen.toNat) ∧
  (∀ s req nonce, Commanded s req →
    ∃ t, Commands (.attest req nonce) s t 0 0 ∧ t.security.nonce = slice nonce 0 32 ∧
      t.security.out = (attestBody s nonce ++ Config.attestSign (attestBody s nonce)).take s.security.sboutLen.toNat) ∧
  (∀ s req kind image sig, Commanded s req →
    (s.package.phase = 3 → (kind = 0 ∨ s.security.loaded.contains 0 = true) → kind < 4 →
      let good := Config.sigValid Config.imageKey image sig
      ∃ t, Commands (.fwload req kind image sig) s t (if good then 0 else 8) 0 ∧
        t.security.loaded = if good then s.security.loaded ++ [kind] else s.security.loaded) ∧
    (s.package.phase ≠ 3 → ∃ t, Commands (.fwload req kind image sig) s t 9 0 ∧ t.security.loaded = s.security.loaded)) ∧
  (∀ s req target nonce sig, Commanded s req →
    (mayAdvance s.security.life target = true → nonce = s.security.nonce → nonce ≠ [] →
      if Config.sigValid Config.lifeKey (slice packageId 0 32 ++ le 1 target ++ nonce) sig = true then
        ∃ t, Completes (.lcset req target nonce sig) s t ∧ t.security.busy = true ∧ t.security.next = some target ∧
          t.security.life = s.security.life ∧ t.warps = [] ∧ t.blocks = [] ∧ t.quads = [] ∧ t.vds = [] ∧
          ∀ d l, l.host = false → t.readMem d l = 0#8
      else ∃ t, Commands (.lcset req target nonce sig) s t 5 0 ∧ t.security.life = s.security.life) ∧
    (mayAdvance s.security.life target = false → ∃ t, Commands (.lcset req target nonce sig) s t 10 0 ∧ t.security.life = s.security.life)) ∧
  (∀ s req v enable sigs, Commanded s req → isVd s v = true →
    (s.security.life = 3 → ∃ t, Commands (.dbgattach req v enable sigs) s t 10 0 ∧ (t.vd v).debug = (s.vd v).debug) ∧
    (s.security.life < 2 → ∃ t, Commands (.dbgattach req v enable sigs) s t 0 0 ∧ (t.vd v).debug = enable) ∧
    (s.security.life = 2 → sigs.length = (s.vd v).keys.length →
      badSigner (s.vd v).keys (le 2 v ++ le 6 (s.vd v).created ++ le 1 (if enable then 1 else 0)) (((s.vd v).keys.map (fun e => e.1)).zip sigs) = none →
      ∃ t, Commands (.dbgattach req v enable sigs) s t 0 0 ∧ (t.vd v).debug = enable))

/-- Says of each of these constructors that it COMPLETES (exec answers a next state that holds its effect) under conditions on state and operands:
qown_write, sown_write, mapsync, mapsync_done, parkgo, parkkill, xwin_write, kwid_write, register_write, event_record_release. Written by the
hypervisor, QOWN assigns a quadrant with no warp on it and SOWN a slice whose VD maps no page of it, whose bytes then read as zero; else the write
is refused. MAPSYNC drops the cached translations of its range and is busy until MAPSYNC_DONE. PARKGO makes the parked sub-warps of a warp ready,
PARKKILL kills the warp. XWIN_WRITE enables a good window, and a window that it disables holds no line in the switches and reads enabled until the
last of its lines is at home. KWID is set once. REGISTER_WRITE completes for every offset, and writes each register that it names.
EVENT_RECORD_RELEASE places a held record. Memory stays but for a slice that SOWN assigns. -/
def Obligations.AssignmentAndTranslation : Prop :=
  (∀ s req q v, q < 1296 → isHv s req = true →
    ∃ t, Completes (.qown_write req q v) s t ∧ Quiet s t ∧ t.package.qown.get 0#16 q =
      (if s.package.phase < 7 ∨ quadTaken s q = true then s.package.qown.get 0#16 q ||| 0x200#16 else v &&& 0x1FF#16)) ∧
  (∀ s req k v, k < 288 → isHv s req = true →
    let old := s.package.sown.get 0#16 k
    let refuse := s.package.phase < 7 ∨ (old.getLsbD 10 = true ∧ (v.getLsbD 10 = false ∨ field v 0 10 ≠ field old 0 10) ∧
      sliceMapped s (field old 0 10).toNat k = true)
    ∃ t, Completes (.sown_write req k v) s t ∧
      (refuse → t.package.sown.get 0#16 k = old ||| 0x800#16 ∧ ∀ d l, t.readMem d l = s.readMem d l) ∧
      (¬ refuse → t.package.sown.get 0#16 k = v &&& 0x7FF#16 ∧
        ∀ d l, t.readMem d l = if l.host = false ∧ sliceOf l.pa = k then 0#8 else s.readMem d l)) ∧
  (∀ s req vd v, vd < 1024 → isHv s req = true →
    let base := (syncRange v).1
    let n := (syncRange v).2.1
    ((s.vd vd).mapBusy = false → n ≠ 0 → base / 2 ^ 60 = (base + n * 65536 - 1) / 2 ^ 60 →
      ∃ t, Completes (.mapsync req vd true v) s t ∧ Quiet s t ∧ (t.vd vd).mapBusy = true ∧ (t.vd vd).mapRange = some (syncRange v) ∧
        ∀ l, ((∃ d, d < 9 ∧ l ∈ (t.die d).tlb) ∨ (∃ k, l ∈ (t.core k).tlb) ∨ ∃ q, l ∈ (t.quad q).tlb) → l.vd = vd →
          base + n * 65536 ≤ l.va ∨ l.va + pageBytes l.size ≤ base) ∧
    ((s.vd vd).mapBusy = true → ∃ t, Completes (.mapsync req vd true v) s t ∧ Quiet s t ∧ (t.vd vd).mapRefused = true)) ∧
  (∀ s vd r, (s.vd vd).mapBusy = true → (s.vd vd).mapRange = some r →
    ∃ t, Completes (.mapsync_done vd) s t ∧ Quiet s t ∧ (t.vd vd).mapBusy = false ∧ (t.vd vd).mapRange = none) ∧
  (∀ s req vd w, vd < 1024 → isHv s req = true →
    (parked s vd w = [] →
      (∃ t, Completes (.parkgo req vd w) s t ∧ Quiet s t ∧ (t.vd vd).mapRefused = true) ∧
      ∃ t, Completes (.parkkill req vd w) s t ∧ Quiet s t ∧ (t.vd vd).mapRefused = true) ∧
    (parked s vd w ≠ [] → ∃ t, Completes (.parkgo req vd w) s t ∧ Quiet s t ∧
      ∀ u, u ∈ parked s vd w → ((t.warp w).sub u.id).map (fun v => v.hold) = some .ready) ∧
    (∀ u us, parked s vd w = u :: us → killable s w = true → ∃ t, Completes (.parkkill req vd w) s t ∧ (t.warp w).life = .dying 2 u.maskLabel ∧
      ∀ d l, t.readMem d l = s.readMem d l)) ∧
  (∀ s req vd n v, vd < 1024 → n < 8 → (s.vd vd).windows.length = 8 → isHv s req = true →
    let old := ((s.vd vd).windows[n]?).getD 0#128
    let new := v &&& (((1#128 <<< 77) - 1#128) <<< 16)
    (old.getLsbD 92 = false → (new.getLsbD 92 = false ∨ goodWindow s vd n new = true) →
      ∃ t, Completes (.xwin_write req vd n v) s t ∧ Quiet s t ∧ (t.vd vd).windows[n]? = some new) ∧
    (old.getLsbD 92 = false → new.getLsbD 92 = true → goodWindow s vd n new = false →
      ∃ t, Completes (.xwin_write req vd n v) s t ∧ Quiet s t ∧ (t.vd vd).windows = (s.vd vd).windows) ∧
    (old.getLsbD 92 = true → new.getLsbD 92 = false →
      ∃ t, Completes (.xwin_write req vd n v) s t ∧ Quiet s t ∧
        (∀ l, l ∈ t.switchLines ↔ l ∈ s.switchLines ∧ ¬ (l.vd = vd ∧ windowLo old ≤ l.va ∧ l.va < windowHi old)) ∧
        ((s.vd vd).closing = [] → (t.vd vd).windows[n]? =
          some (if (s.writeBacks ++ s.switchLines).any (fun l => l.vd == vd && windowHolds old l.va) then old else new)))) ∧
  (∀ s req v, isHv s req = true →
    ∃ t, Completes (.kwid_write req v) s t ∧ Quiet s t ∧ t.package.kwidSet = true ∧
      t.package.kwid = if s.package.kwidSet then s.package.kwid else (field v 0 12).toNat) ∧
  (∀ s req o width v, ∃ t, Completes (.register_write req o width v) s t ∧ Quiet s t) ∧
  (∀ s req v d, isHv s req = true → d < 1024 →
    (∃ t, Completes (.register_write req 0x10 8 v) s t ∧ t.package.hv = field v 0 16) ∧
    (∃ t, Completes (.register_write req (0x8000000 + 0x1000 * d) 8 v) s t ∧ (t.vd d).requester = field v 0 16 ∧ (t.vd d).window = v.getLsbD 16) ∧
    (∃ t, Completes (.register_write req (0x8000000 + 0x1000 * d + 0x10) 16 v) s t ∧
      (t.vd d).weight = max 1 (field v 0 16).toNat ∧ (t.vd d).slice = max 1 (field v 16 16).toNat)) ∧
  (∀ s vd r rest, (s.vd vd).waiting = r :: rest → (s.vd vd).events.length < 64 →
    ∃ t, Completes (.event_record_release vd) s t ∧ Quiet s t ∧ (t.vd vd).events = (s.vd vd).events ++ [r] ∧ (t.vd vd).waiting = rest)

/-- Says of each of these constructors that it COMPLETES (exec answers a next state that holds its effect) under conditions on state and operands:
uncorrectable_error, corrected_error, line_fetch, audit_verdict, cl_audit_verdict, quench_clear, row_mitigation, activation_window, metering_tick,
bellows_period. UNCORRECTABLE_ERROR poisons the register lane, row, scratchpad word or line it strikes, fences the die of a die unit or a weld
link, kills the warp whose state is lost, and loses a cue buffer. CORRECTED_ERROR is logged alone. LINE_FETCH notes a line that failed its parity
twice. AUDIT_VERDICT and CL_AUDIT_VERDICT take their unit out of the audit, and a loss poisons the rows or fails the command. QUENCH_CLEAR clears
its frame and changes no byte as any die reads it. ROW_MITIGATION, ACTIVATION_WINDOW, METERING_TICK and BELLOWS_PERIOD change the meters and
controllers that their rules name. -/
def Obligations.ErrorsAndContainment : Prop :=
  (∀ s w r i, r < 16 → i < 32 → (s.warps.get? w).isSome = true →
    ∃ t, Completes (.uncorrectable_error (.operand w r i)) s t ∧
      Frame (fun x g => x = w ∧ g = .o r i) (fun _ _ => False) (fun _ => False) (fun _ _ => False) s t ∧
      (t.warp w).reg (.o r i) = (((s.warp w).reg (.o r i)).1, true)) ∧
  (∀ s w r i, r < (s.record w).regs → i < 32 → (s.warps.get? w).isSome = true →
    ∃ t, Completes (.uncorrectable_error (.main w r i)) s t ∧
      Frame (fun x g => x = w ∧ g = .v r i) (fun _ _ => False) (fun _ => False) (fun _ _ => False) s t ∧
      (t.warp w).reg (.v r i) = (((s.warp w).reg (.v r i)).1, true)) ∧
  (∀ s w r, r < 32 → (s.warps.get? w).isSome = true →
    ∃ t, Completes (.uncorrectable_error (.uniform w r)) s t ∧
      Frame (fun x g => x = w ∧ g = .s r) (fun _ _ => False) (fun _ => False) (fun _ _ => False) s t ∧
      (t.warp w).reg (.s r) = (((s.warp w).reg (.s r)).1, true)) ∧
  (∀ s q row, q < 1296 → row < 1024 →
    ∃ t, Completes (.uncorrectable_error (.accumulator q row)) s t ∧ Quiet s t ∧ accRow t q row = { accRow s q row with poison := true }) ∧
  (∀ s g b o, (s.blocks.get? (blockKey g b)).isSome = true → o < (s.grid g).record.spadBytes →
    ∃ t, Completes (.uncorrectable_error (.scratchpad g b o)) s t ∧ Quiet s t ∧ (t.block g b).spad.poison.get false (o / 4) = true) ∧
  (∀ s d, d < 9 → (s.die d).fenced = false →
    (∃ t, Completes (.uncorrectable_error (.weld d)) s t ∧ (t.die d).fenced = true) ∧
    ∀ k, k = 4 ∨ k = 8 ∨ k = 13 → ∃ t, Completes (.uncorrectable_error (.dieUnit d k)) s t ∧ (t.die d).fenced = true) ∧
  (∀ s pa, pa / 2 ^ 32 < 288 → ∃ t, Completes (.uncorrectable_error (.hbmLine pa)) s t ∧ Quiet s t ∧ t.poisoned.get false (granule pa) = true) ∧
  (∀ s w, killable s w = true → ∃ t, Completes (.uncorrectable_error (.warpState w)) s t ∧ (t.warp w).life = .dying 2 0#8 ∧
    ∀ d l, t.readMem d l = s.readMem d l) ∧
  (∀ s d k v w loc, d < 9 → k < 14 → k < (s.die d).ecnt.length →
    ∃ t, Completes (.corrected_error d k v w loc) s t ∧ Quiet s t ∧ (t.die d).lastSerial = (s.die d).lastSerial + 1 ∧
      (t.die d).ecnt[k]? = some (((((s.die d).ecnt[k]?).getD (0, 0)).1 + 1), (s.die d).lastSerial + 1)) ∧
  (∀ s q a, q < 1296 → a % 64 = 0 → ∃ t, Completes (.line_fetch q a true) s t ∧ Quiet s t ∧ (t.quad q).badLines.contains a = true) ∧
  (∀ s d n x y z a, s.audits.find? (fun a => a.die == d && a.n == n) = some a →
    ∃ t, Completes (.audit_verdict d n x y z) s t ∧ Quiet s t ∧ a ∉ t.audits ∧
      ((x ≠ y ∧ x ≠ z ∧ a.rows ≠ []) → ∀ r, r ∈ a.rows → (accRow t a.quad r).poison = true) ∧
      ((x = y ∨ x = z) → ∀ r, accRow t a.quad r = accRow s a.quad r)) ∧
  (∀ s k c v, s.cmds.get? k = some c → c.id = k → c.verdict = some v →
    (∃ t, Completes (.cl_audit_verdict k true) s t ∧ Quiet s t ∧ t.cmds.get? k = some { c with verdict := none }) ∧
    ∃ t, Completes (.cl_audit_verdict k false) s t ∧ Quiet s t ∧ (t.cmds.get? k).map (fun x => (x.verdict, x.failed.isSome)) = some (none, true) ∧
      (v = 1 → ∀ l, l ∈ ((t.cmds.get? k).map (fun x => x.op.clLanes)).getD [] → l.decided = true)) ∧
  (∀ s k f, s.dies.length = 9 → k < 18 → nextFrame s k = some f → s.cleared.get false f = false →
    ∃ t, Completes (.quench_clear k) s t ∧ Quiet s t ∧ t.cleared.get false f = true) ∧
  (∀ s k b r v, k < 18 → (slicesOf s v).any (fun x => x / 16 == k) = true → 2 < (s.vd v).meters.length →
    ∃ t, Completes (.row_mitigation k b r v) s t ∧ Quiet s t ∧ (t.vd v).meters[2]? = some (((s.vd v).meters[2]?).getD 0#64 + 8192#64)) ∧
  (∀ s k b, k < 18 → (s.die (k / 2)).hbm.length = 2 →
    ∃ t, Completes (.activation_window k b) s t ∧ Quiet s t ∧ (t.stack k).trackers.get? b = none) ∧
  (∀ s cs, ∃ t, Completes (.metering_tick cs) s t ∧ Quiet s t ∧ t.package.time = s.package.time + 1000#64) ∧
  (∀ s caps clocks budgets, goodPeriod s caps clocks budgets = true →
    ∃ t, Completes (.bellows_period caps clocks budgets) s t ∧ Quiet s t ∧
      ∀ d, d < 9 → caps[d]? = some (t.die d).cap ∧ clocks[d]? = some (t.die d).mhz)

/-- Says of each of these constructors that it COMPLETES (exec answers a next state that holds its effect) under conditions on state and operands:
violation_freeze, host_module_disable, debug_resume, block_freeze, host_kill, bring_up_phase, reset. VIOLATION_FREEZE freezes the window, stops
the Poleile core, freezes the Kwaisk port or ends the stream that offends. HOST_MODULE_DISABLE disables its module. DEBUG_RESUME clears WATCH and
makes the halted sub-warps ready; BLOCK_FREEZE freezes a block. HOST_KILL of a requester that may kills a warp or a grid with cause 4.
BRING_UP_PHASE goes on to the next phase, or stops with its error code. RESET, at power-on or by 0x5A5A in RESETCTL, leaves no work, every byte of
the package's memory zero, phase 0 and the fuses; another value changes nothing. None of the others but a fence writes a byte of memory. -/
def Obligations.PlatformEvents : Prop :=
  (∀ s v, v < 1024 → ∃ t, Completes (.violation_freeze (.vdWindow v)) s t ∧ Quiet s t ∧ (t.vd v).frozen = true) ∧
  (∀ s d c, d < 9 → c < 16 → (s.pcore d c).stopped = false → ∃ t, Completes (.violation_freeze (.poleile d c)) s t ∧ (t.pcore d c).stopped = true ∧
    episodeOn t d c = (s.episodes.filter (fun x => !(episodeOn s d c).any (fun e => x.die == e.die && x.id == e.id))).find? (fun e => e.die == d && e.core == c)) ∧
  (∀ s p, p < 18 → (s.die (p / 2)).ports.length = 2 → ∃ t, Completes (.violation_freeze (.peer p)) s t ∧ Quiet s t ∧
    ((t.die (p / 2)).ports[p % 2]?).map (fun x => x.frozen) = some true) ∧
  (∀ s k x, stream? s k true = some x → ∃ t, Completes (.violation_freeze (.migration k)) s t ∧ Quiet s t ∧ x ∉ t.security.streams) ∧
  (∀ s m, m < 8 → s.package.modules.length = 8 → ∃ t, Completes (.host_module_disable m) s t ∧ t.package.modules[m]? = some false ∧
    ∀ d l, t.readMem d l = s.readMem d l) ∧
  (∀ s req w, (s.warps.get? w).isSome = true → isHv s req = true →
    ∃ t, Completes (.debug_resume req w) s t ∧ Frame (fun _ _ => False) (fun _ _ => False) (fun x => x = w) (fun _ _ => False) s t ∧
      (t.warp w).stopped = false ∧ (t.warp w).tc = (s.warp w).tc &&& ~~~(1#64 <<< 24) ∧
      ∀ u, (s.warp w).sub u.id = some u → u.hold = .halted → ((t.warp w).sub u.id).map (fun v => v.hold) = some .ready) ∧
  (∀ s req g b x, s.blocks.get? (blockKey g b) = some x → isHv s req = true →
    ∃ t, Completes (.block_freeze req g b) s t ∧ Quiet s t ∧ (t.block g b).frozen = true) ∧
  (∀ s req w, killable s w = true → mayWindow s req (s.warp w).vd = true → ((s.vd (s.warp w).vd).frozen = false ∨ isHv s req = true) →
    ∃ t, Completes (.host_kill req (.warp w)) s t ∧ (t.warp w).life = .dying 4 0#8 ∧ ∀ d l, t.readMem d l = s.readMem d l) ∧
  (∀ s req g x, s.grids.get? g = some x → x.serial = g → x.complete = false → mayWindow s req x.vd = true →
    ((s.vd x.vd).frozen = false ∨ isHv s req = true) →
    ∃ t, Completes (.host_kill req (.grid g)) s t ∧ (t.grid g).killed = true ∧ ∀ d l, t.readMem d l = s.readMem d l) ∧
  (∀ s, s.package.phase < 7 → s.package.error = 0 →
    (∀ code die, code % 16 ≠ 0 → die < 9 → ∃ t, Completes (.bring_up_phase (.failed code die)) s t ∧ Quiet s t ∧
      t.package.error = code % 16 ∧ t.package.errorDie = die ∧ t.package.phase = s.package.phase) ∧
    ∀ fenced, (s.package.phase ≠ 3 ∨ ∀ k, k < 4 → s.security.loaded.contains k = true) →
      ∃ t, Completes (.bring_up_phase (.done fenced)) s t ∧ t.package.phase = s.package.phase + 1) ∧
  (∀ s c, (c = .powerOn ∨ ∃ req v, c = .resetctl req v ∧ isHv s req = true ∧ field v 0 16 = 0x5A5A#16) →
    ∃ t, Completes (.reset c) s t ∧ t.warps = [] ∧ t.blocks = [] ∧ t.grids = [] ∧ t.vds = [] ∧ t.cmds = [] ∧ t.flights = [] ∧ t.episodes = [] ∧
      t.package.phase = 0 ∧ t.security.life = s.security.life ∧ t.dies.map (fun d => d.harvest) = s.dies.map (fun d => d.harvest) ∧
      ∀ d l, t.readMem d l = if l.host then s.readMem d l else 0#8) ∧
  (∀ s req v, isHv s req = true → field v 0 16 ≠ 0x5A5A#16 → ∃ t, Completes (.reset (.resetctl req v)) s t ∧ Quiet s t)

/-- An event that strikes the work of a VD whose event buffer has room raises, for every outcome except 0 and 3, one ERROR record to that VD and
to no other: kind 5, the serial in bytes 16 to 21, the channel in byte 22, the outcome in byte 23 and the location in bytes 24 to 31; for outcomes
0 and 3 it raises none (R397). -/
def Obligations.ErrorRecords : Prop :=
  ∀ s d channel outcome v w loc, d < 9 → channel < 256 → outcome < 256 → v < 1023 → (s.vd v).events.length < 64 → (s.vd v).waiting = [] →
    let t := logError s d channel outcome v w loc
    (∀ k, k ≠ v → (t.vd k).events = (s.vd k).events) ∧
    ((outcome = 0 ∨ outcome = 3) → (t.vd v).events = (s.vd v).events) ∧
    (outcome ≠ 0 → outcome ≠ 3 → ∃ r, (t.vd v).events = (s.vd v).events ++ [r] ∧ r.length = 32 ∧ slice r 0 2 = le 2 5 ∧
      slice r 16 6 = le 6 ((s.die d).lastSerial + 1) ∧ (t.die d).lastSerial = (s.die d).lastSerial + 1 ∧
      slice r 22 1 = [BitVec.ofNat 8 channel] ∧ slice r 23 1 = [BitVec.ofNat 8 outcome] ∧ slice r 24 8 = toBytes loc 8)

/-- The all-zero word decodes to NOP. NOP completes wherever there is a sub-warp to issue it, whatever the state: it neither traps nor waits;
every register, mask, special register and byte of memory, the cue point and the queues are as they were, and outside a split no label has
changed. One or two PFX words of different kinds before the zero word, none of which is PFX.X and so takes the word to page 1, make an orphaned
run at the first of them (R106). -/
def Obligations.NoOperation : Prop :=
  decodeTableWord 32 0 = some .nop ∧
  (∀ s u, s.issuer = some u → ∃ t, Completes .nop s t ∧ Kept s.cur.warp noReg noMask s t ∧
    (u.id = none → NoSync s s.cur.warp → t.vds = s.vds ∧ { t.warp s.cur.warp with subs := [] } = { s.warp s.cur.warp with subs := [] })) ∧
  (∀ v p, pfxOf v = some p → p ≠ .x → decodeWords [v, 0#32] = some (.orphaned_prefix .orphan 0#64 0)) ∧
  (∀ v v' p p', pfxOf v = some p → pfxOf v' = some p' → p ≠ .x → p' ≠ .x → p.kind ≠ p'.kind →
    decodeWords [v, v', 0#32] = some (.orphaned_prefix .orphan 0#64 0))
end

