-- ==== Sys2Proof/Laws/Maps.lean ====
section
/-! SUPPORT. Lemmas of sparse maps and of lists by position. -/

namespace Sys2Proof.Machine

open Sys2Proof

section
variable {α : Type}

@[simp] theorem SMap.get?_put_self (m : SMap α) (k : Nat) (v : α) : (m.put k v).get? k = some v := by
  induction m with
  | nil => simp [SMap.put, SMap.get?]
  | cons e m ih =>
    obtain ⟨j, u⟩ := e
    simp only [SMap.put]
    split
    · simp [SMap.get?]
    · split
      · simp [SMap.get?]
      · rename_i h1 h2
        simp [SMap.get?, ih, Ne.symm h2]

@[simp] theorem SMap.get?_put_ne (m : SMap α) {k l : Nat} (v : α) (h : l ≠ k) : (m.put k v).get? l = m.get? l := by
  induction m with
  | nil => simp [SMap.put, SMap.get?, Ne.symm h]
  | cons e m ih =>
    obtain ⟨j, u⟩ := e
    simp only [SMap.put]
    split
    · simp [SMap.get?, Ne.symm h]
    · split
      · rename_i h2
        subst h2
        simp [SMap.get?, Ne.symm h]
      · simp [SMap.get?, ih]

theorem SMap.get_eq_get? (d : α) (m : SMap α) (k : Nat) : m.get d k = (m.get? k).getD d := by
  induction m with
  | nil => rfl
  | cons e m ih =>
    obtain ⟨j, u⟩ := e
    simp only [SMap.get, SMap.get?]
    split <;> simp_all

@[simp] theorem SMap.get?_erase_self (m : SMap α) (k : Nat) : (m.erase k).get? k = none := by
  induction m with
  | nil => rfl
  | cons e m ih =>
    obtain ⟨j, u⟩ := e
    simp only [SMap.erase]
    split <;> simp_all [SMap.get?]

@[simp] theorem SMap.get?_erase_ne (m : SMap α) {k l : Nat} (h : l ≠ k) : (m.erase k).get? l = m.get? l := by
  induction m with
  | nil => rfl
  | cons e m ih =>
    obtain ⟨j, u⟩ := e
    simp only [SMap.erase]
    split
    · rename_i h1
      subst h1
      simp [SMap.get?, ih, Ne.symm h]
    · simp [SMap.get?, ih]

variable [DecidableEq α]

@[simp] theorem SMap.get_set_self (d : α) (m : SMap α) (k : Nat) (v : α) : (m.set d k v).get d k = v := by
  unfold SMap.set
  split <;> simp_all [SMap.get_eq_get?]

@[simp] theorem SMap.get_set_ne (d : α) (m : SMap α) {k l : Nat} (v : α) (h : l ≠ k) : (m.set d k v).get d l = m.get d l := by
  unfold SMap.set
  split <;> simp_all [SMap.get_eq_get?]

theorem SMap.get_set (d : α) (m : SMap α) (k l : Nat) (v : α) : (m.set d k v).get d l = if l = k then v else m.get d l := by
  split
  · subst_vars; simp
  · simp [*]

/-! Canonical form. -/

theorem SMap.wfAbove_mono {d : α} {m : SMap α} {lo hi : Nat} (h : lo ≤ hi) : m.wfAbove d hi = true → m.wfAbove d lo = true := by
  cases m with
  | nil => simp [SMap.wfAbove]
  | cons e m =>
    obtain ⟨j, u⟩ := e
    simp only [SMap.wfAbove, Bool.and_eq_true, decide_eq_true_eq]
    rintro ⟨⟨h1, h2⟩, h3⟩
    exact ⟨⟨by omega, h2⟩, h3⟩

theorem SMap.wfAbove_erase {d : α} (m : SMap α) (k lo : Nat) : m.wfAbove d lo = true → (m.erase k).wfAbove d lo = true := by
  induction m generalizing lo with
  | nil => simp [SMap.erase]
  | cons e m ih =>
    obtain ⟨j, u⟩ := e
    simp only [SMap.wfAbove, SMap.erase, Bool.and_eq_true, decide_eq_true_eq]
    rintro ⟨⟨h1, h2⟩, h3⟩
    split
    · exact SMap.wfAbove_mono (by omega) (ih _ h3)
    · simp only [SMap.wfAbove, Bool.and_eq_true, decide_eq_true_eq]
      exact ⟨⟨h1, h2⟩, ih _ h3⟩

theorem SMap.wfAbove_put {d : α} (m : SMap α) (k : Nat) (v : α) (hv : v ≠ d) (lo : Nat) (hk : lo ≤ k) :
    m.wfAbove d lo = true → (m.put k v).wfAbove d lo = true := by
  induction m generalizing lo with
  | nil => simp [SMap.put, SMap.wfAbove, hv, hk]
  | cons e m ih =>
    obtain ⟨j, u⟩ := e
    simp only [SMap.wfAbove, SMap.put, Bool.and_eq_true, decide_eq_true_eq]
    rintro ⟨⟨h1, h2⟩, h3⟩
    split
    · simp only [SMap.wfAbove, Bool.and_eq_true, decide_eq_true_eq]
      exact ⟨⟨hk, hv⟩, ⟨by omega, h2⟩, h3⟩
    · split
      · simp only [SMap.wfAbove, Bool.and_eq_true, decide_eq_true_eq]
        subst_vars
        exact ⟨⟨hk, hv⟩, h3⟩
      · simp only [SMap.wfAbove, Bool.and_eq_true, decide_eq_true_eq]
        exact ⟨⟨h1, h2⟩, ih _ (by omega) h3⟩

/-- Setting a key keeps the canonical form. -/
theorem SMap.wf_set {d : α} {m : SMap α} (h : m.wf d = true) (k : Nat) (v : α) : (m.set d k v).wf d = true := by
  unfold SMap.set
  split
  · exact SMap.wfAbove_erase _ _ _ h
  · exact SMap.wfAbove_put _ _ _ ‹_› _ (Nat.zero_le _) h

/-- Dropping keys keeps the canonical form. -/
theorem SMap.wfAbove_filter {d : α} (f : Nat × α → Bool) (m : SMap α) (lo : Nat) :
    m.wfAbove d lo = true → SMap.wfAbove d lo (m.filter f) = true := by
  induction m generalizing lo with
  | nil => simp [SMap.wfAbove]
  | cons e m ih =>
    obtain ⟨j, u⟩ := e
    simp only [SMap.wfAbove, List.filter_cons, Bool.and_eq_true, decide_eq_true_eq]
    rintro ⟨⟨h1, h2⟩, h3⟩
    split
    · simp only [SMap.wfAbove, Bool.and_eq_true, decide_eq_true_eq]
      exact ⟨⟨h1, h2⟩, ih _ h3⟩
    · exact SMap.wfAbove_mono (by omega) (ih _ h3)

end

/-! Lists by position. -/

section
variable {α : Type}

@[simp] theorem setPad_self (d : α) (l : List α) (i : Nat) (v : α) : (setPad d l i v)[i]? = some v := by
  induction l generalizing i with
  | nil =>
    induction i with
    | zero => rfl
    | succ n ih => simpa [setPad] using ih
  | cons x xs ih =>
    cases i with
    | zero => rfl
    | succ n => simpa [setPad] using ih n

theorem setPad_nil_ne (d : α) (i j : Nat) (v : α) (h : j ≠ i) : ((setPad d [] i v)[j]?).getD d = d := by
  induction i generalizing j with
  | zero =>
    cases j with
    | zero => exact absurd rfl h
    | succ m => rfl
  | succ n ih =>
    cases j with
    | zero => rfl
    | succ m => simpa [setPad] using ih m (by omega)

@[simp] theorem setPad_ne (d : α) (l : List α) (i j : Nat) (v : α) (h : j ≠ i) : ((setPad d l i v)[j]?).getD d = (l[j]?).getD d := by
  induction l generalizing i j with
  | nil => simpa using setPad_nil_ne d i j v h
  | cons x xs ih =>
    cases i with
    | zero =>
      cases j with
      | zero => exact absurd rfl h
      | succ m => rfl
    | succ n =>
      cases j with
      | zero => rfl
      | succ m => simpa [setPad] using ih n m (by omega)

theorem setPad_get (d : α) (l : List α) (i j : Nat) (v : α) : ((setPad d l i v)[j]?).getD d = if j = i then v else (l[j]?).getD d := by
  split
  · subst_vars; simp
  · exact setPad_ne d l i j v ‹_›

end

end Sys2Proof.Machine
end

