-- ==== Sys2Proof/Laws/State.lean ====
section
/-! SUPPORT. The state's fields and parts after each update: one lemma per field per update. -/

namespace Sys2Proof.Machine

open Sys2Proof

namespace State

/-! A change of a part is the part set to its changed value. -/

@[simp] theorem modWarp_eq (s : State) (w : Nat) (f : Warp → Warp) : s.modWarp w f = s.setWarp w (f (s.warp w)) := rfl
@[simp] theorem modVd_eq (s : State) (v : Nat) (f : VD → VD) : s.modVd v f = s.setVd v (f (s.vd v)) := rfl
@[simp] theorem modGrid_eq (s : State) (g : Nat) (f : Grid → Grid) : s.modGrid g f = s.setGrid g (f (s.grid g)) := rfl
@[simp] theorem modBlock_eq (s : State) (g b : Nat) (f : Block → Block) : s.modBlock g b f = s.setBlock g b (f (s.block g b)) := rfl
@[simp] theorem modDie_eq (s : State) (d : Nat) (f : Die → Die) : s.modDie d f = s.setDie d (f (s.die d)) := rfl
@[simp] theorem modCore_eq (s : State) (n : Nat) (f : Core → Core) : s.modCore n f = s.setCore n (f (s.core n)) := rfl
@[simp] theorem modQuad_eq (s : State) (q : Nat) (f : Quad → Quad) : s.modQuad q f = s.setQuad q (f (s.quad q)) := rfl

/-! Fields. -/

@[simp] theorem setWarp_package (s : State) (w : Nat) (x : Warp) : (s.setWarp w x).package = s.package := rfl
@[simp] theorem setWarp_security (s : State) (w : Nat) (x : Warp) : (s.setWarp w x).security = s.security := rfl
@[simp] theorem setWarp_dies (s : State) (w : Nat) (x : Warp) : (s.setWarp w x).dies = s.dies := rfl
@[simp] theorem setWarp_cores (s : State) (w : Nat) (x : Warp) : (s.setWarp w x).cores = s.cores := rfl
@[simp] theorem setWarp_quads (s : State) (w : Nat) (x : Warp) : (s.setWarp w x).quads = s.quads := rfl
@[simp] theorem setWarp_vds (s : State) (w : Nat) (x : Warp) : (s.setWarp w x).vds = s.vds := rfl
@[simp] theorem setWarp_grids (s : State) (w : Nat) (x : Warp) : (s.setWarp w x).grids = s.grids := rfl
@[simp] theorem setWarp_blocks (s : State) (w : Nat) (x : Warp) : (s.setWarp w x).blocks = s.blocks := rfl
@[simp] theorem setWarp_hostMem (s : State) (w : Nat) (x : Warp) : (s.setWarp w x).hostMem = s.hostMem := rfl
@[simp] theorem setWarp_cleared (s : State) (w : Nat) (x : Warp) : (s.setWarp w x).cleared = s.cleared := rfl
@[simp] theorem setWarp_lines (s : State) (w : Nat) (x : Warp) : (s.setWarp w x).lines = s.lines := rfl
@[simp] theorem setWarp_sealed (s : State) (w : Nat) (x : Warp) : (s.setWarp w x).sealed = s.sealed := rfl
@[simp] theorem setWarp_poisoned (s : State) (w : Nat) (x : Warp) : (s.setWarp w x).poisoned = s.poisoned := rfl
@[simp] theorem setWarp_flights (s : State) (w : Nat) (x : Warp) : (s.setWarp w x).flights = s.flights := rfl
@[simp] theorem setWarp_cmds (s : State) (w : Nat) (x : Warp) : (s.setWarp w x).cmds = s.cmds := rfl
@[simp] theorem setWarp_switchLines (s : State) (w : Nat) (x : Warp) : (s.setWarp w x).switchLines = s.switchLines := rfl
@[simp] theorem setWarp_writeBacks (s : State) (w : Nat) (x : Warp) : (s.setWarp w x).writeBacks = s.writeBacks := rfl
@[simp] theorem setWarp_audits (s : State) (w : Nat) (x : Warp) : (s.setWarp w x).audits = s.audits := rfl
@[simp] theorem setWarp_episodes (s : State) (w : Nat) (x : Warp) : (s.setWarp w x).episodes = s.episodes := rfl
@[simp] theorem setWarp_inbound (s : State) (w : Nat) (x : Warp) : (s.setWarp w x).inbound = s.inbound := rfl
@[simp] theorem setWarp_outbound (s : State) (w : Nat) (x : Warp) : (s.setWarp w x).outbound = s.outbound := rfl
@[simp] theorem setWarp_deaths (s : State) (w : Nat) (x : Warp) : (s.setWarp w x).deaths = s.deaths := rfl
@[simp] theorem setWarp_cmdSerial (s : State) (w : Nat) (x : Warp) : (s.setWarp w x).cmdSerial = s.cmdSerial := rfl
@[simp] theorem setWarp_flightSerial (s : State) (w : Nat) (x : Warp) : (s.setWarp w x).flightSerial = s.flightSerial := rfl
@[simp] theorem setWarp_stamp (s : State) (w : Nat) (x : Warp) : (s.setWarp w x).stamp = s.stamp := rfl
@[simp] theorem setWarp_opportunity (s : State) (w : Nat) (x : Warp) : (s.setWarp w x).opportunity = s.opportunity := rfl
@[simp] theorem setWarp_rotor (s : State) (w : Nat) (x : Warp) : (s.setWarp w x).rotor = s.rotor := rfl
@[simp] theorem setWarp_turn (s : State) (w : Nat) (x : Warp) : (s.setWarp w x).turn = s.turn := rfl
@[simp] theorem setWarp_wheel (s : State) (w : Nat) (x : Warp) : (s.setWarp w x).wheel = s.wheel := rfl
@[simp] theorem setWarp_reply (s : State) (w : Nat) (x : Warp) : (s.setWarp w x).reply = s.reply := rfl
@[simp] theorem setWarp_free (s : State) (w : Nat) (x : Warp) : (s.setWarp w x).free = s.free := rfl
@[simp] theorem setWarp_cur (s : State) (w : Nat) (x : Warp) : (s.setWarp w x).cur = s.cur := rfl
@[simp] theorem setWarp_view (s : State) (w : Nat) (x : Warp) : (s.setWarp w x).view = s.view := rfl
@[simp] theorem setWarp_stopped (s : State) (w : Nat) (x : Warp) : (s.setWarp w x).stopped = s.stopped := rfl
@[simp] theorem setWarp_report (s : State) (w : Nat) (x : Warp) : (s.setWarp w x).report = s.report := rfl
@[simp] theorem setWarp_agenda (s : State) (w : Nat) (x : Warp) : (s.setWarp w x).agenda = s.agenda := rfl
@[simp] theorem setVd_package (s : State) (v : Nat) (x : VD) : (s.setVd v x).package = s.package := rfl
@[simp] theorem setVd_security (s : State) (v : Nat) (x : VD) : (s.setVd v x).security = s.security := rfl
@[simp] theorem setVd_dies (s : State) (v : Nat) (x : VD) : (s.setVd v x).dies = s.dies := rfl
@[simp] theorem setVd_cores (s : State) (v : Nat) (x : VD) : (s.setVd v x).cores = s.cores := rfl
@[simp] theorem setVd_quads (s : State) (v : Nat) (x : VD) : (s.setVd v x).quads = s.quads := rfl
@[simp] theorem setVd_grids (s : State) (v : Nat) (x : VD) : (s.setVd v x).grids = s.grids := rfl
@[simp] theorem setVd_blocks (s : State) (v : Nat) (x : VD) : (s.setVd v x).blocks = s.blocks := rfl
@[simp] theorem setVd_warps (s : State) (v : Nat) (x : VD) : (s.setVd v x).warps = s.warps := rfl
@[simp] theorem setVd_hostMem (s : State) (v : Nat) (x : VD) : (s.setVd v x).hostMem = s.hostMem := rfl
@[simp] theorem setVd_cleared (s : State) (v : Nat) (x : VD) : (s.setVd v x).cleared = s.cleared := rfl
@[simp] theorem setVd_lines (s : State) (v : Nat) (x : VD) : (s.setVd v x).lines = s.lines := rfl
@[simp] theorem setVd_sealed (s : State) (v : Nat) (x : VD) : (s.setVd v x).sealed = s.sealed := rfl
@[simp] theorem setVd_poisoned (s : State) (v : Nat) (x : VD) : (s.setVd v x).poisoned = s.poisoned := rfl
@[simp] theorem setVd_flights (s : State) (v : Nat) (x : VD) : (s.setVd v x).flights = s.flights := rfl
@[simp] theorem setVd_cmds (s : State) (v : Nat) (x : VD) : (s.setVd v x).cmds = s.cmds := rfl
@[simp] theorem setVd_switchLines (s : State) (v : Nat) (x : VD) : (s.setVd v x).switchLines = s.switchLines := rfl
@[simp] theorem setVd_writeBacks (s : State) (v : Nat) (x : VD) : (s.setVd v x).writeBacks = s.writeBacks := rfl
@[simp] theorem setVd_audits (s : State) (v : Nat) (x : VD) : (s.setVd v x).audits = s.audits := rfl
@[simp] theorem setVd_episodes (s : State) (v : Nat) (x : VD) : (s.setVd v x).episodes = s.episodes := rfl
@[simp] theorem setVd_inbound (s : State) (v : Nat) (x : VD) : (s.setVd v x).inbound = s.inbound := rfl
@[simp] theorem setVd_outbound (s : State) (v : Nat) (x : VD) : (s.setVd v x).outbound = s.outbound := rfl
@[simp] theorem setVd_deaths (s : State) (v : Nat) (x : VD) : (s.setVd v x).deaths = s.deaths := rfl
@[simp] theorem setVd_cmdSerial (s : State) (v : Nat) (x : VD) : (s.setVd v x).cmdSerial = s.cmdSerial := rfl
@[simp] theorem setVd_flightSerial (s : State) (v : Nat) (x : VD) : (s.setVd v x).flightSerial = s.flightSerial := rfl
@[simp] theorem setVd_stamp (s : State) (v : Nat) (x : VD) : (s.setVd v x).stamp = s.stamp := rfl
@[simp] theorem setVd_opportunity (s : State) (v : Nat) (x : VD) : (s.setVd v x).opportunity = s.opportunity := rfl
@[simp] theorem setVd_rotor (s : State) (v : Nat) (x : VD) : (s.setVd v x).rotor = s.rotor := rfl
@[simp] theorem setVd_turn (s : State) (v : Nat) (x : VD) : (s.setVd v x).turn = s.turn := rfl
@[simp] theorem setVd_wheel (s : State) (v : Nat) (x : VD) : (s.setVd v x).wheel = s.wheel := rfl
@[simp] theorem setVd_reply (s : State) (v : Nat) (x : VD) : (s.setVd v x).reply = s.reply := rfl
@[simp] theorem setVd_free (s : State) (v : Nat) (x : VD) : (s.setVd v x).free = s.free := rfl
@[simp] theorem setVd_cur (s : State) (v : Nat) (x : VD) : (s.setVd v x).cur = s.cur := rfl
@[simp] theorem setVd_view (s : State) (v : Nat) (x : VD) : (s.setVd v x).view = s.view := rfl
@[simp] theorem setVd_stopped (s : State) (v : Nat) (x : VD) : (s.setVd v x).stopped = s.stopped := rfl
@[simp] theorem setVd_report (s : State) (v : Nat) (x : VD) : (s.setVd v x).report = s.report := rfl
@[simp] theorem setVd_agenda (s : State) (v : Nat) (x : VD) : (s.setVd v x).agenda = s.agenda := rfl
@[simp] theorem setGrid_package (s : State) (g : Nat) (x : Grid) : (s.setGrid g x).package = s.package := rfl
@[simp] theorem setGrid_security (s : State) (g : Nat) (x : Grid) : (s.setGrid g x).security = s.security := rfl
@[simp] theorem setGrid_dies (s : State) (g : Nat) (x : Grid) : (s.setGrid g x).dies = s.dies := rfl
@[simp] theorem setGrid_cores (s : State) (g : Nat) (x : Grid) : (s.setGrid g x).cores = s.cores := rfl
@[simp] theorem setGrid_quads (s : State) (g : Nat) (x : Grid) : (s.setGrid g x).quads = s.quads := rfl
@[simp] theorem setGrid_vds (s : State) (g : Nat) (x : Grid) : (s.setGrid g x).vds = s.vds := rfl
@[simp] theorem setGrid_blocks (s : State) (g : Nat) (x : Grid) : (s.setGrid g x).blocks = s.blocks := rfl
@[simp] theorem setGrid_warps (s : State) (g : Nat) (x : Grid) : (s.setGrid g x).warps = s.warps := rfl
@[simp] theorem setGrid_hostMem (s : State) (g : Nat) (x : Grid) : (s.setGrid g x).hostMem = s.hostMem := rfl
@[simp] theorem setGrid_cleared (s : State) (g : Nat) (x : Grid) : (s.setGrid g x).cleared = s.cleared := rfl
@[simp] theorem setGrid_lines (s : State) (g : Nat) (x : Grid) : (s.setGrid g x).lines = s.lines := rfl
@[simp] theorem setGrid_sealed (s : State) (g : Nat) (x : Grid) : (s.setGrid g x).sealed = s.sealed := rfl
@[simp] theorem setGrid_poisoned (s : State) (g : Nat) (x : Grid) : (s.setGrid g x).poisoned = s.poisoned := rfl
@[simp] theorem setGrid_flights (s : State) (g : Nat) (x : Grid) : (s.setGrid g x).flights = s.flights := rfl
@[simp] theorem setGrid_cmds (s : State) (g : Nat) (x : Grid) : (s.setGrid g x).cmds = s.cmds := rfl
@[simp] theorem setGrid_switchLines (s : State) (g : Nat) (x : Grid) : (s.setGrid g x).switchLines = s.switchLines := rfl
@[simp] theorem setGrid_writeBacks (s : State) (g : Nat) (x : Grid) : (s.setGrid g x).writeBacks = s.writeBacks := rfl
@[simp] theorem setGrid_audits (s : State) (g : Nat) (x : Grid) : (s.setGrid g x).audits = s.audits := rfl
@[simp] theorem setGrid_episodes (s : State) (g : Nat) (x : Grid) : (s.setGrid g x).episodes = s.episodes := rfl
@[simp] theorem setGrid_inbound (s : State) (g : Nat) (x : Grid) : (s.setGrid g x).inbound = s.inbound := rfl
@[simp] theorem setGrid_outbound (s : State) (g : Nat) (x : Grid) : (s.setGrid g x).outbound = s.outbound := rfl
@[simp] theorem setGrid_deaths (s : State) (g : Nat) (x : Grid) : (s.setGrid g x).deaths = s.deaths := rfl
@[simp] theorem setGrid_cmdSerial (s : State) (g : Nat) (x : Grid) : (s.setGrid g x).cmdSerial = s.cmdSerial := rfl
@[simp] theorem setGrid_flightSerial (s : State) (g : Nat) (x : Grid) : (s.setGrid g x).flightSerial = s.flightSerial := rfl
@[simp] theorem setGrid_stamp (s : State) (g : Nat) (x : Grid) : (s.setGrid g x).stamp = s.stamp := rfl
@[simp] theorem setGrid_opportunity (s : State) (g : Nat) (x : Grid) : (s.setGrid g x).opportunity = s.opportunity := rfl
@[simp] theorem setGrid_rotor (s : State) (g : Nat) (x : Grid) : (s.setGrid g x).rotor = s.rotor := rfl
@[simp] theorem setGrid_turn (s : State) (g : Nat) (x : Grid) : (s.setGrid g x).turn = s.turn := rfl
@[simp] theorem setGrid_wheel (s : State) (g : Nat) (x : Grid) : (s.setGrid g x).wheel = s.wheel := rfl
@[simp] theorem setGrid_reply (s : State) (g : Nat) (x : Grid) : (s.setGrid g x).reply = s.reply := rfl
@[simp] theorem setGrid_free (s : State) (g : Nat) (x : Grid) : (s.setGrid g x).free = s.free := rfl
@[simp] theorem setGrid_cur (s : State) (g : Nat) (x : Grid) : (s.setGrid g x).cur = s.cur := rfl
@[simp] theorem setGrid_view (s : State) (g : Nat) (x : Grid) : (s.setGrid g x).view = s.view := rfl
@[simp] theorem setGrid_stopped (s : State) (g : Nat) (x : Grid) : (s.setGrid g x).stopped = s.stopped := rfl
@[simp] theorem setGrid_report (s : State) (g : Nat) (x : Grid) : (s.setGrid g x).report = s.report := rfl
@[simp] theorem setGrid_agenda (s : State) (g : Nat) (x : Grid) : (s.setGrid g x).agenda = s.agenda := rfl
@[simp] theorem setBlock_package (s : State) (g b : Nat) (x : Block) : (s.setBlock g b x).package = s.package := rfl
@[simp] theorem setBlock_security (s : State) (g b : Nat) (x : Block) : (s.setBlock g b x).security = s.security := rfl
@[simp] theorem setBlock_dies (s : State) (g b : Nat) (x : Block) : (s.setBlock g b x).dies = s.dies := rfl
@[simp] theorem setBlock_cores (s : State) (g b : Nat) (x : Block) : (s.setBlock g b x).cores = s.cores := rfl
@[simp] theorem setBlock_quads (s : State) (g b : Nat) (x : Block) : (s.setBlock g b x).quads = s.quads := rfl
@[simp] theorem setBlock_vds (s : State) (g b : Nat) (x : Block) : (s.setBlock g b x).vds = s.vds := rfl
@[simp] theorem setBlock_grids (s : State) (g b : Nat) (x : Block) : (s.setBlock g b x).grids = s.grids := rfl
@[simp] theorem setBlock_warps (s : State) (g b : Nat) (x : Block) : (s.setBlock g b x).warps = s.warps := rfl
@[simp] theorem setBlock_hostMem (s : State) (g b : Nat) (x : Block) : (s.setBlock g b x).hostMem = s.hostMem := rfl
@[simp] theorem setBlock_cleared (s : State) (g b : Nat) (x : Block) : (s.setBlock g b x).cleared = s.cleared := rfl
@[simp] theorem setBlock_lines (s : State) (g b : Nat) (x : Block) : (s.setBlock g b x).lines = s.lines := rfl
@[simp] theorem setBlock_sealed (s : State) (g b : Nat) (x : Block) : (s.setBlock g b x).sealed = s.sealed := rfl
@[simp] theorem setBlock_poisoned (s : State) (g b : Nat) (x : Block) : (s.setBlock g b x).poisoned = s.poisoned := rfl
@[simp] theorem setBlock_flights (s : State) (g b : Nat) (x : Block) : (s.setBlock g b x).flights = s.flights := rfl
@[simp] theorem setBlock_cmds (s : State) (g b : Nat) (x : Block) : (s.setBlock g b x).cmds = s.cmds := rfl
@[simp] theorem setBlock_switchLines (s : State) (g b : Nat) (x : Block) : (s.setBlock g b x).switchLines = s.switchLines := rfl
@[simp] theorem setBlock_writeBacks (s : State) (g b : Nat) (x : Block) : (s.setBlock g b x).writeBacks = s.writeBacks := rfl
@[simp] theorem setBlock_audits (s : State) (g b : Nat) (x : Block) : (s.setBlock g b x).audits = s.audits := rfl
@[simp] theorem setBlock_episodes (s : State) (g b : Nat) (x : Block) : (s.setBlock g b x).episodes = s.episodes := rfl
@[simp] theorem setBlock_inbound (s : State) (g b : Nat) (x : Block) : (s.setBlock g b x).inbound = s.inbound := rfl
@[simp] theorem setBlock_outbound (s : State) (g b : Nat) (x : Block) : (s.setBlock g b x).outbound = s.outbound := rfl
@[simp] theorem setBlock_deaths (s : State) (g b : Nat) (x : Block) : (s.setBlock g b x).deaths = s.deaths := rfl
@[simp] theorem setBlock_cmdSerial (s : State) (g b : Nat) (x : Block) : (s.setBlock g b x).cmdSerial = s.cmdSerial := rfl
@[simp] theorem setBlock_flightSerial (s : State) (g b : Nat) (x : Block) : (s.setBlock g b x).flightSerial = s.flightSerial := rfl
@[simp] theorem setBlock_stamp (s : State) (g b : Nat) (x : Block) : (s.setBlock g b x).stamp = s.stamp := rfl
@[simp] theorem setBlock_opportunity (s : State) (g b : Nat) (x : Block) : (s.setBlock g b x).opportunity = s.opportunity := rfl
@[simp] theorem setBlock_rotor (s : State) (g b : Nat) (x : Block) : (s.setBlock g b x).rotor = s.rotor := rfl
@[simp] theorem setBlock_turn (s : State) (g b : Nat) (x : Block) : (s.setBlock g b x).turn = s.turn := rfl
@[simp] theorem setBlock_wheel (s : State) (g b : Nat) (x : Block) : (s.setBlock g b x).wheel = s.wheel := rfl
@[simp] theorem setBlock_reply (s : State) (g b : Nat) (x : Block) : (s.setBlock g b x).reply = s.reply := rfl
@[simp] theorem setBlock_free (s : State) (g b : Nat) (x : Block) : (s.setBlock g b x).free = s.free := rfl
@[simp] theorem setBlock_cur (s : State) (g b : Nat) (x : Block) : (s.setBlock g b x).cur = s.cur := rfl
@[simp] theorem setBlock_view (s : State) (g b : Nat) (x : Block) : (s.setBlock g b x).view = s.view := rfl
@[simp] theorem setBlock_stopped (s : State) (g b : Nat) (x : Block) : (s.setBlock g b x).stopped = s.stopped := rfl
@[simp] theorem setBlock_report (s : State) (g b : Nat) (x : Block) : (s.setBlock g b x).report = s.report := rfl
@[simp] theorem setBlock_agenda (s : State) (g b : Nat) (x : Block) : (s.setBlock g b x).agenda = s.agenda := rfl
@[simp] theorem setDie_package (s : State) (d : Nat) (x : Die) : (s.setDie d x).package = s.package := by unfold setDie; split <;> rfl
@[simp] theorem setDie_security (s : State) (d : Nat) (x : Die) : (s.setDie d x).security = s.security := by unfold setDie; split <;> rfl
@[simp] theorem setDie_cores (s : State) (d : Nat) (x : Die) : (s.setDie d x).cores = s.cores := by unfold setDie; split <;> rfl
@[simp] theorem setDie_quads (s : State) (d : Nat) (x : Die) : (s.setDie d x).quads = s.quads := by unfold setDie; split <;> rfl
@[simp] theorem setDie_vds (s : State) (d : Nat) (x : Die) : (s.setDie d x).vds = s.vds := by unfold setDie; split <;> rfl
@[simp] theorem setDie_grids (s : State) (d : Nat) (x : Die) : (s.setDie d x).grids = s.grids := by unfold setDie; split <;> rfl
@[simp] theorem setDie_blocks (s : State) (d : Nat) (x : Die) : (s.setDie d x).blocks = s.blocks := by unfold setDie; split <;> rfl
@[simp] theorem setDie_warps (s : State) (d : Nat) (x : Die) : (s.setDie d x).warps = s.warps := by unfold setDie; split <;> rfl
@[simp] theorem setDie_hostMem (s : State) (d : Nat) (x : Die) : (s.setDie d x).hostMem = s.hostMem := by unfold setDie; split <;> rfl
@[simp] theorem setDie_cleared (s : State) (d : Nat) (x : Die) : (s.setDie d x).cleared = s.cleared := by unfold setDie; split <;> rfl
@[simp] theorem setDie_lines (s : State) (d : Nat) (x : Die) : (s.setDie d x).lines = s.lines := by unfold setDie; split <;> rfl
@[simp] theorem setDie_sealed (s : State) (d : Nat) (x : Die) : (s.setDie d x).sealed = s.sealed := by unfold setDie; split <;> rfl
@[simp] theorem setDie_poisoned (s : State) (d : Nat) (x : Die) : (s.setDie d x).poisoned = s.poisoned := by unfold setDie; split <;> rfl
@[simp] theorem setDie_flights (s : State) (d : Nat) (x : Die) : (s.setDie d x).flights = s.flights := by unfold setDie; split <;> rfl
@[simp] theorem setDie_cmds (s : State) (d : Nat) (x : Die) : (s.setDie d x).cmds = s.cmds := by unfold setDie; split <;> rfl
@[simp] theorem setDie_switchLines (s : State) (d : Nat) (x : Die) : (s.setDie d x).switchLines = s.switchLines := by unfold setDie; split <;> rfl
@[simp] theorem setDie_writeBacks (s : State) (d : Nat) (x : Die) : (s.setDie d x).writeBacks = s.writeBacks := by unfold setDie; split <;> rfl
@[simp] theorem setDie_audits (s : State) (d : Nat) (x : Die) : (s.setDie d x).audits = s.audits := by unfold setDie; split <;> rfl
@[simp] theorem setDie_episodes (s : State) (d : Nat) (x : Die) : (s.setDie d x).episodes = s.episodes := by unfold setDie; split <;> rfl
@[simp] theorem setDie_inbound (s : State) (d : Nat) (x : Die) : (s.setDie d x).inbound = s.inbound := by unfold setDie; split <;> rfl
@[simp] theorem setDie_outbound (s : State) (d : Nat) (x : Die) : (s.setDie d x).outbound = s.outbound := by unfold setDie; split <;> rfl
@[simp] theorem setDie_deaths (s : State) (d : Nat) (x : Die) : (s.setDie d x).deaths = s.deaths := by unfold setDie; split <;> rfl
@[simp] theorem setDie_cmdSerial (s : State) (d : Nat) (x : Die) : (s.setDie d x).cmdSerial = s.cmdSerial := by unfold setDie; split <;> rfl
@[simp] theorem setDie_flightSerial (s : State) (d : Nat) (x : Die) : (s.setDie d x).flightSerial = s.flightSerial := by unfold setDie; split <;> rfl
@[simp] theorem setDie_stamp (s : State) (d : Nat) (x : Die) : (s.setDie d x).stamp = s.stamp := by unfold setDie; split <;> rfl
@[simp] theorem setDie_opportunity (s : State) (d : Nat) (x : Die) : (s.setDie d x).opportunity = s.opportunity := by unfold setDie; split <;> rfl
@[simp] theorem setDie_rotor (s : State) (d : Nat) (x : Die) : (s.setDie d x).rotor = s.rotor := by unfold setDie; split <;> rfl
@[simp] theorem setDie_turn (s : State) (d : Nat) (x : Die) : (s.setDie d x).turn = s.turn := by unfold setDie; split <;> rfl
@[simp] theorem setDie_wheel (s : State) (d : Nat) (x : Die) : (s.setDie d x).wheel = s.wheel := by unfold setDie; split <;> rfl
@[simp] theorem setDie_reply (s : State) (d : Nat) (x : Die) : (s.setDie d x).reply = s.reply := by unfold setDie; split <;> rfl
@[simp] theorem setDie_free (s : State) (d : Nat) (x : Die) : (s.setDie d x).free = s.free := by unfold setDie; split <;> rfl
@[simp] theorem setDie_cur (s : State) (d : Nat) (x : Die) : (s.setDie d x).cur = s.cur := by unfold setDie; split <;> rfl
@[simp] theorem setDie_view (s : State) (d : Nat) (x : Die) : (s.setDie d x).view = s.view := by unfold setDie; split <;> rfl
@[simp] theorem setDie_stopped (s : State) (d : Nat) (x : Die) : (s.setDie d x).stopped = s.stopped := by unfold setDie; split <;> rfl
@[simp] theorem setDie_report (s : State) (d : Nat) (x : Die) : (s.setDie d x).report = s.report := by unfold setDie; split <;> rfl
@[simp] theorem setDie_agenda (s : State) (d : Nat) (x : Die) : (s.setDie d x).agenda = s.agenda := by unfold setDie; split <;> rfl
@[simp] theorem setCore_package (s : State) (n : Nat) (x : Core) : (s.setCore n x).package = s.package := rfl
@[simp] theorem setCore_security (s : State) (n : Nat) (x : Core) : (s.setCore n x).security = s.security := rfl
@[simp] theorem setCore_dies (s : State) (n : Nat) (x : Core) : (s.setCore n x).dies = s.dies := rfl
@[simp] theorem setCore_quads (s : State) (n : Nat) (x : Core) : (s.setCore n x).quads = s.quads := rfl
@[simp] theorem setCore_vds (s : State) (n : Nat) (x : Core) : (s.setCore n x).vds = s.vds := rfl
@[simp] theorem setCore_grids (s : State) (n : Nat) (x : Core) : (s.setCore n x).grids = s.grids := rfl
@[simp] theorem setCore_blocks (s : State) (n : Nat) (x : Core) : (s.setCore n x).blocks = s.blocks := rfl
@[simp] theorem setCore_warps (s : State) (n : Nat) (x : Core) : (s.setCore n x).warps = s.warps := rfl
@[simp] theorem setCore_hostMem (s : State) (n : Nat) (x : Core) : (s.setCore n x).hostMem = s.hostMem := rfl
@[simp] theorem setCore_cleared (s : State) (n : Nat) (x : Core) : (s.setCore n x).cleared = s.cleared := rfl
@[simp] theorem setCore_lines (s : State) (n : Nat) (x : Core) : (s.setCore n x).lines = s.lines := rfl
@[simp] theorem setCore_sealed (s : State) (n : Nat) (x : Core) : (s.setCore n x).sealed = s.sealed := rfl
@[simp] theorem setCore_poisoned (s : State) (n : Nat) (x : Core) : (s.setCore n x).poisoned = s.poisoned := rfl
@[simp] theorem setCore_flights (s : State) (n : Nat) (x : Core) : (s.setCore n x).flights = s.flights := rfl
@[simp] theorem setCore_cmds (s : State) (n : Nat) (x : Core) : (s.setCore n x).cmds = s.cmds := rfl
@[simp] theorem setCore_switchLines (s : State) (n : Nat) (x : Core) : (s.setCore n x).switchLines = s.switchLines := rfl
@[simp] theorem setCore_writeBacks (s : State) (n : Nat) (x : Core) : (s.setCore n x).writeBacks = s.writeBacks := rfl
@[simp] theorem setCore_audits (s : State) (n : Nat) (x : Core) : (s.setCore n x).audits = s.audits := rfl
@[simp] theorem setCore_episodes (s : State) (n : Nat) (x : Core) : (s.setCore n x).episodes = s.episodes := rfl
@[simp] theorem setCore_inbound (s : State) (n : Nat) (x : Core) : (s.setCore n x).inbound = s.inbound := rfl
@[simp] theorem setCore_outbound (s : State) (n : Nat) (x : Core) : (s.setCore n x).outbound = s.outbound := rfl
@[simp] theorem setCore_deaths (s : State) (n : Nat) (x : Core) : (s.setCore n x).deaths = s.deaths := rfl
@[simp] theorem setCore_cmdSerial (s : State) (n : Nat) (x : Core) : (s.setCore n x).cmdSerial = s.cmdSerial := rfl
@[simp] theorem setCore_flightSerial (s : State) (n : Nat) (x : Core) : (s.setCore n x).flightSerial = s.flightSerial := rfl
@[simp] theorem setCore_stamp (s : State) (n : Nat) (x : Core) : (s.setCore n x).stamp = s.stamp := rfl
@[simp] theorem setCore_opportunity (s : State) (n : Nat) (x : Core) : (s.setCore n x).opportunity = s.opportunity := rfl
@[simp] theorem setCore_rotor (s : State) (n : Nat) (x : Core) : (s.setCore n x).rotor = s.rotor := rfl
@[simp] theorem setCore_turn (s : State) (n : Nat) (x : Core) : (s.setCore n x).turn = s.turn := rfl
@[simp] theorem setCore_wheel (s : State) (n : Nat) (x : Core) : (s.setCore n x).wheel = s.wheel := rfl
@[simp] theorem setCore_reply (s : State) (n : Nat) (x : Core) : (s.setCore n x).reply = s.reply := rfl
@[simp] theorem setCore_free (s : State) (n : Nat) (x : Core) : (s.setCore n x).free = s.free := rfl
@[simp] theorem setCore_cur (s : State) (n : Nat) (x : Core) : (s.setCore n x).cur = s.cur := rfl
@[simp] theorem setCore_view (s : State) (n : Nat) (x : Core) : (s.setCore n x).view = s.view := rfl
@[simp] theorem setCore_stopped (s : State) (n : Nat) (x : Core) : (s.setCore n x).stopped = s.stopped := rfl
@[simp] theorem setCore_report (s : State) (n : Nat) (x : Core) : (s.setCore n x).report = s.report := rfl
@[simp] theorem setCore_agenda (s : State) (n : Nat) (x : Core) : (s.setCore n x).agenda = s.agenda := rfl
@[simp] theorem setQuad_package (s : State) (q : Nat) (x : Quad) : (s.setQuad q x).package = s.package := rfl
@[simp] theorem setQuad_security (s : State) (q : Nat) (x : Quad) : (s.setQuad q x).security = s.security := rfl
@[simp] theorem setQuad_dies (s : State) (q : Nat) (x : Quad) : (s.setQuad q x).dies = s.dies := rfl
@[simp] theorem setQuad_cores (s : State) (q : Nat) (x : Quad) : (s.setQuad q x).cores = s.cores := rfl
@[simp] theorem setQuad_vds (s : State) (q : Nat) (x : Quad) : (s.setQuad q x).vds = s.vds := rfl
@[simp] theorem setQuad_grids (s : State) (q : Nat) (x : Quad) : (s.setQuad q x).grids = s.grids := rfl
@[simp] theorem setQuad_blocks (s : State) (q : Nat) (x : Quad) : (s.setQuad q x).blocks = s.blocks := rfl
@[simp] theorem setQuad_warps (s : State) (q : Nat) (x : Quad) : (s.setQuad q x).warps = s.warps := rfl
@[simp] theorem setQuad_hostMem (s : State) (q : Nat) (x : Quad) : (s.setQuad q x).hostMem = s.hostMem := rfl
@[simp] theorem setQuad_cleared (s : State) (q : Nat) (x : Quad) : (s.setQuad q x).cleared = s.cleared := rfl
@[simp] theorem setQuad_lines (s : State) (q : Nat) (x : Quad) : (s.setQuad q x).lines = s.lines := rfl
@[simp] theorem setQuad_sealed (s : State) (q : Nat) (x : Quad) : (s.setQuad q x).sealed = s.sealed := rfl
@[simp] theorem setQuad_poisoned (s : State) (q : Nat) (x : Quad) : (s.setQuad q x).poisoned = s.poisoned := rfl
@[simp] theorem setQuad_flights (s : State) (q : Nat) (x : Quad) : (s.setQuad q x).flights = s.flights := rfl
@[simp] theorem setQuad_cmds (s : State) (q : Nat) (x : Quad) : (s.setQuad q x).cmds = s.cmds := rfl
@[simp] theorem setQuad_switchLines (s : State) (q : Nat) (x : Quad) : (s.setQuad q x).switchLines = s.switchLines := rfl
@[simp] theorem setQuad_writeBacks (s : State) (q : Nat) (x : Quad) : (s.setQuad q x).writeBacks = s.writeBacks := rfl
@[simp] theorem setQuad_audits (s : State) (q : Nat) (x : Quad) : (s.setQuad q x).audits = s.audits := rfl
@[simp] theorem setQuad_episodes (s : State) (q : Nat) (x : Quad) : (s.setQuad q x).episodes = s.episodes := rfl
@[simp] theorem setQuad_inbound (s : State) (q : Nat) (x : Quad) : (s.setQuad q x).inbound = s.inbound := rfl
@[simp] theorem setQuad_outbound (s : State) (q : Nat) (x : Quad) : (s.setQuad q x).outbound = s.outbound := rfl
@[simp] theorem setQuad_deaths (s : State) (q : Nat) (x : Quad) : (s.setQuad q x).deaths = s.deaths := rfl
@[simp] theorem setQuad_cmdSerial (s : State) (q : Nat) (x : Quad) : (s.setQuad q x).cmdSerial = s.cmdSerial := rfl
@[simp] theorem setQuad_flightSerial (s : State) (q : Nat) (x : Quad) : (s.setQuad q x).flightSerial = s.flightSerial := rfl
@[simp] theorem setQuad_stamp (s : State) (q : Nat) (x : Quad) : (s.setQuad q x).stamp = s.stamp := rfl
@[simp] theorem setQuad_opportunity (s : State) (q : Nat) (x : Quad) : (s.setQuad q x).opportunity = s.opportunity := rfl
@[simp] theorem setQuad_rotor (s : State) (q : Nat) (x : Quad) : (s.setQuad q x).rotor = s.rotor := rfl
@[simp] theorem setQuad_turn (s : State) (q : Nat) (x : Quad) : (s.setQuad q x).turn = s.turn := rfl
@[simp] theorem setQuad_wheel (s : State) (q : Nat) (x : Quad) : (s.setQuad q x).wheel = s.wheel := rfl
@[simp] theorem setQuad_reply (s : State) (q : Nat) (x : Quad) : (s.setQuad q x).reply = s.reply := rfl
@[simp] theorem setQuad_free (s : State) (q : Nat) (x : Quad) : (s.setQuad q x).free = s.free := rfl
@[simp] theorem setQuad_cur (s : State) (q : Nat) (x : Quad) : (s.setQuad q x).cur = s.cur := rfl
@[simp] theorem setQuad_view (s : State) (q : Nat) (x : Quad) : (s.setQuad q x).view = s.view := rfl
@[simp] theorem setQuad_stopped (s : State) (q : Nat) (x : Quad) : (s.setQuad q x).stopped = s.stopped := rfl
@[simp] theorem setQuad_report (s : State) (q : Nat) (x : Quad) : (s.setQuad q x).report = s.report := rfl
@[simp] theorem setQuad_agenda (s : State) (q : Nat) (x : Quad) : (s.setQuad q x).agenda = s.agenda := rfl

/-! Parts by number. -/

@[simp] theorem setWarp_get_vd (s : State) (w : Nat) (x : Warp) (k : Nat) : (s.setWarp w x).vd k = s.vd k := rfl
@[simp] theorem setWarp_get_grid (s : State) (w : Nat) (x : Warp) (k : Nat) : (s.setWarp w x).grid k = s.grid k := rfl
@[simp] theorem setWarp_get_block (s : State) (w : Nat) (x : Warp) (k j : Nat) : (s.setWarp w x).block k j = s.block k j := rfl
@[simp] theorem setWarp_get_die (s : State) (w : Nat) (x : Warp) (k : Nat) : (s.setWarp w x).die k = s.die k := rfl
@[simp] theorem setWarp_get_core (s : State) (w : Nat) (x : Warp) (k : Nat) : (s.setWarp w x).core k = s.core k := rfl
@[simp] theorem setWarp_get_quad (s : State) (w : Nat) (x : Warp) (k : Nat) : (s.setWarp w x).quad k = s.quad k := rfl
@[simp] theorem setVd_get_warp (s : State) (v : Nat) (x : VD) (k : Nat) : (s.setVd v x).warp k = s.warp k := rfl
@[simp] theorem setVd_get_grid (s : State) (v : Nat) (x : VD) (k : Nat) : (s.setVd v x).grid k = s.grid k := rfl
@[simp] theorem setVd_get_block (s : State) (v : Nat) (x : VD) (k j : Nat) : (s.setVd v x).block k j = s.block k j := rfl
@[simp] theorem setVd_get_die (s : State) (v : Nat) (x : VD) (k : Nat) : (s.setVd v x).die k = s.die k := rfl
@[simp] theorem setVd_get_core (s : State) (v : Nat) (x : VD) (k : Nat) : (s.setVd v x).core k = s.core k := rfl
@[simp] theorem setVd_get_quad (s : State) (v : Nat) (x : VD) (k : Nat) : (s.setVd v x).quad k = s.quad k := rfl
@[simp] theorem setGrid_get_warp (s : State) (g : Nat) (x : Grid) (k : Nat) : (s.setGrid g x).warp k = s.warp k := rfl
@[simp] theorem setGrid_get_vd (s : State) (g : Nat) (x : Grid) (k : Nat) : (s.setGrid g x).vd k = s.vd k := rfl
@[simp] theorem setGrid_get_block (s : State) (g : Nat) (x : Grid) (k j : Nat) : (s.setGrid g x).block k j = s.block k j := rfl
@[simp] theorem setGrid_get_die (s : State) (g : Nat) (x : Grid) (k : Nat) : (s.setGrid g x).die k = s.die k := rfl
@[simp] theorem setGrid_get_core (s : State) (g : Nat) (x : Grid) (k : Nat) : (s.setGrid g x).core k = s.core k := rfl
@[simp] theorem setGrid_get_quad (s : State) (g : Nat) (x : Grid) (k : Nat) : (s.setGrid g x).quad k = s.quad k := rfl
@[simp] theorem setBlock_get_warp (s : State) (g b : Nat) (x : Block) (k : Nat) : (s.setBlock g b x).warp k = s.warp k := rfl
@[simp] theorem setBlock_get_vd (s : State) (g b : Nat) (x : Block) (k : Nat) : (s.setBlock g b x).vd k = s.vd k := rfl
@[simp] theorem setBlock_get_grid (s : State) (g b : Nat) (x : Block) (k : Nat) : (s.setBlock g b x).grid k = s.grid k := rfl
@[simp] theorem setBlock_get_die (s : State) (g b : Nat) (x : Block) (k : Nat) : (s.setBlock g b x).die k = s.die k := rfl
@[simp] theorem setBlock_get_core (s : State) (g b : Nat) (x : Block) (k : Nat) : (s.setBlock g b x).core k = s.core k := rfl
@[simp] theorem setBlock_get_quad (s : State) (g b : Nat) (x : Block) (k : Nat) : (s.setBlock g b x).quad k = s.quad k := rfl
@[simp] theorem setDie_get_warp (s : State) (d : Nat) (x : Die) (k : Nat) : (s.setDie d x).warp k = s.warp k := by unfold setDie; split <;> rfl
@[simp] theorem setDie_get_vd (s : State) (d : Nat) (x : Die) (k : Nat) : (s.setDie d x).vd k = s.vd k := by unfold setDie; split <;> rfl
@[simp] theorem setDie_get_grid (s : State) (d : Nat) (x : Die) (k : Nat) : (s.setDie d x).grid k = s.grid k := by unfold setDie; split <;> rfl
@[simp] theorem setDie_get_block (s : State) (d : Nat) (x : Die) (k j : Nat) : (s.setDie d x).block k j = s.block k j := by unfold setDie; split <;> rfl
@[simp] theorem setDie_get_core (s : State) (d : Nat) (x : Die) (k : Nat) : (s.setDie d x).core k = s.core k := by unfold setDie; split <;> rfl
@[simp] theorem setDie_get_quad (s : State) (d : Nat) (x : Die) (k : Nat) : (s.setDie d x).quad k = s.quad k := by unfold setDie; split <;> rfl
@[simp] theorem setCore_get_warp (s : State) (n : Nat) (x : Core) (k : Nat) : (s.setCore n x).warp k = s.warp k := rfl
@[simp] theorem setCore_get_vd (s : State) (n : Nat) (x : Core) (k : Nat) : (s.setCore n x).vd k = s.vd k := rfl
@[simp] theorem setCore_get_grid (s : State) (n : Nat) (x : Core) (k : Nat) : (s.setCore n x).grid k = s.grid k := rfl
@[simp] theorem setCore_get_block (s : State) (n : Nat) (x : Core) (k j : Nat) : (s.setCore n x).block k j = s.block k j := rfl
@[simp] theorem setCore_get_die (s : State) (n : Nat) (x : Core) (k : Nat) : (s.setCore n x).die k = s.die k := rfl
@[simp] theorem setCore_get_quad (s : State) (n : Nat) (x : Core) (k : Nat) : (s.setCore n x).quad k = s.quad k := rfl
@[simp] theorem setQuad_get_warp (s : State) (q : Nat) (x : Quad) (k : Nat) : (s.setQuad q x).warp k = s.warp k := rfl
@[simp] theorem setQuad_get_vd (s : State) (q : Nat) (x : Quad) (k : Nat) : (s.setQuad q x).vd k = s.vd k := rfl
@[simp] theorem setQuad_get_grid (s : State) (q : Nat) (x : Quad) (k : Nat) : (s.setQuad q x).grid k = s.grid k := rfl
@[simp] theorem setQuad_get_block (s : State) (q : Nat) (x : Quad) (k j : Nat) : (s.setQuad q x).block k j = s.block k j := rfl
@[simp] theorem setQuad_get_die (s : State) (q : Nat) (x : Quad) (k : Nat) : (s.setQuad q x).die k = s.die k := rfl
@[simp] theorem setQuad_get_core (s : State) (q : Nat) (x : Quad) (k : Nat) : (s.setQuad q x).core k = s.core k := rfl

@[simp] theorem warp_setWarp (s : State) (w : Nat) (x : Warp) : (s.setWarp w x).warp w = x := by simp [setWarp, warp]
@[simp] theorem warp_setWarp_ne (s : State) {w k : Nat} (x : Warp) (h : k ≠ w) : (s.setWarp w x).warp k = s.warp k := by
  simp [setWarp, warp, h]
@[simp] theorem vd_setVd (s : State) (v : Nat) (x : VD) : (s.setVd v x).vd v = x := by simp [setVd, vd]
@[simp] theorem vd_setVd_ne (s : State) {v k : Nat} (x : VD) (h : k ≠ v) : (s.setVd v x).vd k = s.vd k := by simp [setVd, vd, h]
@[simp] theorem grid_setGrid (s : State) (g : Nat) (x : Grid) : (s.setGrid g x).grid g = x := by simp [setGrid, grid]
@[simp] theorem grid_setGrid_ne (s : State) {g k : Nat} (x : Grid) (h : k ≠ g) : (s.setGrid g x).grid k = s.grid k := by
  simp [setGrid, grid, h]
@[simp] theorem block_setBlock (s : State) (g b : Nat) (x : Block) : (s.setBlock g b x).block g b = x := by simp [setBlock, block]
@[simp] theorem block_setBlock_ne (s : State) {g b k j : Nat} (x : Block) (h : blockKey k j ≠ blockKey g b) :
    (s.setBlock g b x).block k j = s.block k j := by simp [setBlock, block, h]
@[simp] theorem core_setCore (s : State) (n : Nat) (x : Core) : (s.setCore n x).core n = x := by simp [setCore, core]
@[simp] theorem core_setCore_ne (s : State) {n k : Nat} (x : Core) (h : k ≠ n) : (s.setCore n x).core k = s.core k := by
  simp [setCore, core, h]
@[simp] theorem quad_setQuad (s : State) (q : Nat) (x : Quad) : (s.setQuad q x).quad q = x := by simp [setQuad, quad]
@[simp] theorem quad_setQuad_ne (s : State) {q k : Nat} (x : Quad) (h : k ≠ q) : (s.setQuad q x).quad k = s.quad k := by
  simp [setQuad, quad, h]
@[simp] theorem die_setDie (s : State) {d : Nat} (x : Die) (h : d < 9) : (s.setDie d x).die d = x := by simp [setDie, die, h]
@[simp] theorem die_setDie_ne (s : State) {d k : Nat} (x : Die) (h : k ≠ d) : (s.setDie d x).die k = s.die k := by
  unfold setDie
  split
  · simp [die, h]
  · rfl

theorem warp_setWarp_eq (s : State) (w k : Nat) (x : Warp) : (s.setWarp w x).warp k = if k = w then x else s.warp k := by
  split
  · subst_vars; simp
  · simp [*]
theorem quad_setQuad_eq (s : State) (q k : Nat) (x : Quad) : (s.setQuad q x).quad k = if k = q then x else s.quad k := by
  split
  · subst_vars; simp
  · simp [*]
theorem core_setCore_eq (s : State) (n k : Nat) (x : Core) : (s.setCore n x).core k = if k = n then x else s.core k := by
  split
  · subst_vars; simp
  · simp [*]
theorem vd_setVd_eq (s : State) (v k : Nat) (x : VD) : (s.setVd v x).vd k = if k = v then x else s.vd k := by
  split
  · subst_vars; simp
  · simp [*]

end State

end Sys2Proof.Machine
end

