-- ==== Sys2Proof/Laws/Kept.lean ====
section
/-! SUPPORT. What the shared operations of issue leave as it was (`Kept`): one lemma per operation. -/

namespace Sys2Proof.Machine

open Sys2Proof

section
variable {w : Nat} {P Q : RegName → Prop} {K L : Marks} {s t r : State}

/-- Every flag of `a` is one of `b`. -/
theorem below_iff {a b : BitVec 8} : a &&& ~~~b = 0#8 ↔ ∀ i, i < 8 → a.getLsbD i = true → b.getLsbD i = true := by
  constructor
  · intro h i hi ha
    have := congrArg (fun x => x.getLsbD i) h
    simpa [hi, ha] using this
  · intro h
    apply BitVec.eq_of_getLsbD_eq
    intro i hi
    have := h i hi
    cases ha : a.getLsbD i <;> simp_all

theorem flags_trans {f a b c : BitVec 8} (h : FlagsRise f a b) (h' : FlagsRise f b c) : FlagsRise f a c := by
  simp only [FlagsRise, below_iff, BitVec.getLsbD_or, Bool.or_eq_true] at *
  refine ⟨fun i hi ha => h'.1 i hi (h.1 i hi ha), fun i hi hc => ?_⟩
  rcases h'.2 i hi hc with (hb | hf) | hl
  · exact h.2 i hi hb
  · exact .inl (.inr hf)
  · exact .inr hl

theorem flags_rise {f : BitVec 8} (a b : BitVec 8) (h : b &&& ~~~(f ||| fLSAT) = 0#8) : FlagsRise f a (a ||| b) := by
  simp only [FlagsRise, below_iff, BitVec.getLsbD_or, Bool.or_eq_true] at *
  refine ⟨fun i hi ha => .inl ha, fun i hi hc => ?_⟩
  rcases hc with ha | hb
  · exact .inl (.inl ha)
  · rcases h i hi hb with hf | hl
    · exact .inl (.inr hf)
    · exact .inr hl

theorem flags_mono {f g a b : BitVec 8} (hf : f &&& ~~~g = 0#8) (h : FlagsRise f a b) : FlagsRise g a b := by
  simp only [FlagsRise, below_iff, BitVec.getLsbD_or, Bool.or_eq_true] at *
  refine ⟨h.1, fun i hi hb => ?_⟩
  rcases h.2 i hi hb with (ha | hf') | hl
  · exact .inl (.inl ha)
  · exact .inl (.inr (hf i hi hf'))
  · exact .inr hl

theorem flags_same {f : BitVec 8} (a : BitVec 8) : FlagsRise f a a := by
  simp only [FlagsRise, below_iff, BitVec.getLsbD_or, Bool.or_eq_true]
  exact ⟨fun _ _ h => h, fun _ _ h => .inl (.inl h)⟩

theorem Kept.refl (w : Nat) (P : RegName → Prop) (K : Marks) (s : State) : Kept w P K s s :=
  ⟨rfl, fun _ => rfl, fun _ => rfl, fun _ => rfl, fun _ _ => rfl, rfl, fun _ _ => rfl, fun _ _ => rfl, flags_same _⟩

theorem Kept.trans (h : Kept w P K s t) (h' : Kept w P K t r) : Kept w P K s r :=
  ⟨h'.state.trans h.state, fun v => (h'.vds v).trans (h.vds v), fun q => (h'.quads q).trans (h.quads q),
   fun c => (h'.cores c).trans (h.cores c), fun x hx => (h'.others x hx).trans (h.others x hx), h'.warp.trans h.warp,
   fun g hg => (h'.regs g hg).trans (h.regs g hg), fun n hn => (h'.masks n hn).trans (h.masks n hn),
   flags_trans h.flags h'.flags⟩

theorem Kept.mono (h : Kept w P K s t) (hp : ∀ g, P g → Q g) (hk : ∀ n, K.masks n → L.masks n) (hf : K.flags &&& ~~~L.flags = 0#8 := by simp [noMask]) : Kept w Q L s t :=
  { h with
    regs := fun g hg => h.regs g (fun x => hg (hp g x)), masks := fun n hn => h.masks n (fun x => hn (hk n x)),
    flags := flags_mono hf h.flags }

/-- A change of the issuing warp alone. -/
theorem Kept.ofWarp (s : State) (x : Warp) (h : x.rest = (s.warp w).rest) (hr : ∀ g, ¬ P g → x.reg g = (s.warp w).reg g)
    (hm : ∀ n, ¬ K.masks n → x.mask n = (s.warp w).mask n) (hf : FlagsRise K.flags (s.warp w).flags x.flags) : Kept w P K s (s.setWarp w x) :=
  ⟨by simp [State.rest, State.setWarp], by simp, by simp, by simp, fun y hy => by simp [hy], by simpa using h, fun g hg => by simpa using hr g hg,
   fun n hn => by simpa using hm n hn, by simpa using hf⟩

/-- A change of a VD's label table alone. -/
theorem Kept.ofVd (w : Nat) (P : RegName → Prop) (K : Marks) (s : State) (v : Nat) (x : VD) (h : x.rest = (s.vd v).rest) :
    Kept w P K s (s.setVd v x) :=
  ⟨by simp [State.rest, State.setVd], fun k => by
      rw [State.vd_setVd_eq]
      split <;> simp_all, by simp, by simp, by simp, by simp, by simp, by simp, by simpa using flags_same _⟩

/-- A change of a quadrant's latches alone. -/
theorem Kept.ofQuad (w : Nat) (P : RegName → Prop) (K : Marks) (s : State) (q : Nat) (x : Quad) (h : x.rest = (s.quad q).rest) :
    Kept w P K s (s.setQuad q x) :=
  ⟨by simp [State.rest, State.setQuad], by simp, fun k => by
      rw [State.quad_setQuad_eq]
      split <;> simp_all, by simp, by simp, by simp, by simp, by simp, by simpa using flags_same _⟩

/-- A change of a core's event counters alone. -/
theorem Kept.ofCore (w : Nat) (P : RegName → Prop) (K : Marks) (s : State) (c : Nat) (x : Core) (h : x.rest = (s.core c).rest) :
    Kept w P K s (s.setCore c x) :=
  ⟨by simp [State.rest, State.setCore], by simp, by simp, fun k => by
      rw [State.core_setCore_eq]
      split <;> simp_all, by simp, by simp, by simp, by simp, by simpa using flags_same _⟩

theorem Kept.ofStamp (w : Nat) (P : RegName → Prop) (K : Marks) (s : State) (n : Nat) : Kept w P K s { s with stamp := n } := by
  refine ⟨rfl, fun _ => rfl, fun _ => rfl, fun _ => rfl, fun _ _ => rfl, rfl, fun _ _ => rfl, fun _ _ => rfl, by simpa [State.warp] using flags_same _⟩

theorem Kept.ofFree (w : Nat) (P : RegName → Prop) (K : Marks) (s : State) (n : Nat) : Kept w P K s { s with free := n } := by
  refine ⟨rfl, fun _ => rfl, fun _ => rfl, fun _ => rfl, fun _ _ => rfl, rfl, fun _ _ => rfl, fun _ _ => rfl, by simpa [State.warp] using flags_same _⟩

theorem Kept.ofReport (w : Nat) (P : RegName → Prop) (K : Marks) (s : State) (x : Report) : Kept w P K s { s with report := x } := by
  refine ⟨rfl, fun _ => rfl, fun _ => rfl, fun _ => rfl, fun _ _ => rfl, rfl, fun _ _ => rfl, fun _ _ => rfl, by simpa [State.warp] using flags_same _⟩

/-- A fold of operations that each keep. -/
theorem Kept.foldl {α : Type} (f : State → α → State) (h : ∀ s a, Kept w P K s (f s a)) (xs : List α) (s : State) :
    Kept w P K s (xs.foldl f s) := by
  induction xs generalizing s with
  | nil => exact Kept.refl ..
  | cons a xs ih => exact (h s a).trans (ih _)

/-- A fold that carries a value beside the state, of operations that each keep. -/
theorem Kept.foldPair {α β : Type} {g : β → State → α → β × State} (h : ∀ b s a, Kept w P K s (g b s a).2) (xs : List α) (b : β) (s : State) :
    Kept w P K s (xs.foldl (fun (r : β × State) a => g r.1 r.2 a) (b, s)).2 := by
  induction xs generalizing b s with
  | nil => exact Kept.refl ..
  | cons a xs ih => exact (h b s a).trans (ih _ _)

/-! Consequences. -/

theorem State.rest_eq_dies (h : t.rest = s.rest) (d : Nat) : (t.die d).rest = (s.die d).rest := by
  have h1 : t.dies.map Die.rest = s.dies.map Die.rest := by simpa [State.rest] using congrArg State.dies h
  have h2 := congrArg (fun x => (x[d]?).getD Die.reset.rest) h1
  simpa [State.die, Option.getD_map] using h2
theorem State.rest_eq_copy (h : t.rest = s.rest) (d : Nat) : (t.die d).copy = (s.die d).copy := by
  simpa [Die.rest] using congrArg Die.copy (State.rest_eq_dies h d)
theorem State.rest_eq_hostMem (h : t.rest = s.rest) : t.hostMem = s.hostMem := by simpa [State.rest] using congrArg State.hostMem h
theorem State.rest_eq_cleared (h : t.rest = s.rest) : t.cleared = s.cleared := by simpa [State.rest] using congrArg State.cleared h
theorem State.rest_eq_lines (h : t.rest = s.rest) : t.lines = s.lines := by simpa [State.rest] using congrArg State.lines h
theorem State.rest_eq_blocks (h : t.rest = s.rest) : t.blocks = s.blocks := by simpa [State.rest] using congrArg State.blocks h
theorem State.rest_eq_grids (h : t.rest = s.rest) : t.grids = s.grids := by simpa [State.rest] using congrArg State.grids h
theorem State.rest_eq_cur (h : t.rest = s.rest) : t.cur = s.cur := by simpa [State.rest] using congrArg State.cur h
theorem State.rest_eq_view (h : t.rest = s.rest) : t.view = s.view := by simpa [State.rest] using congrArg State.view h

/-- Every byte of memory, host memory included, reads as before on every die. -/
theorem Kept.readMem (h : Kept w P K s t) (d : Nat) (l : Loc) : t.readMem d l = s.readMem d l := by
  have h1 := State.rest_eq_copy h.state
  have h2 := State.rest_eq_hostMem h.state
  have h3 := State.rest_eq_cleared h.state
  have h4 := State.rest_eq_lines h.state
  simp [State.readMem, State.scrubbed, State.copyAt, h1, h2, h3, h4]

/-- Every scratchpad is unchanged. -/
theorem Kept.block (h : Kept w P K s t) (g b : Nat) : t.block g b = s.block g b := by
  simp [State.block, State.rest_eq_blocks h.state]

theorem Kept.grid (h : Kept w P K s t) (g : Nat) : t.grid g = s.grid g := by
  simp [State.grid, State.rest_eq_grids h.state]

theorem Warp.rest_eq_grid {x y : Warp} (h : x.rest = y.rest) : x.grid = y.grid := by simpa [Warp.rest] using congrArg Warp.grid h
theorem Warp.rest_eq_vd {x y : Warp} (h : x.rest = y.rest) : x.vd = y.vd := by simpa [Warp.rest] using congrArg Warp.vd h

theorem Kept.record (h : Kept w P K s t) (x : Nat) : t.record x = s.record x := by
  unfold State.record
  rw [h.grid]
  by_cases hx : x = w
  · subst hx; rw [Warp.rest_eq_grid h.warp]
  · rw [h.others x hx]

end

/-! Labels (R25). -/

section
variable (w : Nat) (P : RegName → Prop) (K : Marks)

theorem setLsat_kept (s : State) : Kept w P K s (State.setLsat w s) := by
  refine Kept.ofWarp s _ rfl (fun g _ => by cases g <;> rfl) (fun _ _ => rfl) (flags_rise _ _ ?_)
  simp only [below_iff, BitVec.getLsbD_or, Bool.or_eq_true]
  exact fun _ _ h => .inr h

theorem intern_kept (s : State) (v : Nat) (x : OwnerSet) (sat : State → State) (h : Kept w P K s (sat s)) : Kept w P K s (s.intern v x sat).2 := by
  unfold State.intern
  split
  · split
    · exact Kept.refl ..
    · exact Kept.ofVd _ _ _ _ _ _ rfl
  · exact h

theorem join_kept (s : State) (a b : Label) : Kept w P K s (s.join w a b).2 := by
  unfold State.join
  split
  · exact Kept.refl ..
  · split
    · exact Kept.refl ..
    · exact intern_kept _ _ _ _ _ _ _ (setLsat_kept ..)

theorem joinVd_kept (s : State) (v : Nat) (a b : Label) : Kept w P K s (s.joinVd v a b).2 := by
  unfold State.joinVd
  split
  · exact Kept.refl ..
  · split
    · exact Kept.refl ..
    · exact intern_kept _ _ _ _ _ _ _ (Kept.refl ..)

theorem joinQuiet_kept (s : State) (a b : Label) : Kept w P K s (s.joinQuiet w a b).2 := joinVd_kept w P K s _ a b

theorem joinListQuiet_kept (s : State) (ls : List Label) : Kept w P K s (s.joinListQuiet w ls).2 := by
  unfold State.joinListQuiet
  suffices h : ∀ a : Label × State, Kept w P K a.2 (ls.foldl (fun (acc : Label × State) l => acc.2.joinQuiet w acc.1 l) a).2 from h (0#8, s)
  induction ls with
  | nil => exact fun _ => Kept.refl ..
  | cons l ls ih => exact fun a => (joinQuiet_kept w P K a.2 a.1 l).trans (ih _)

theorem joinFold_kept (ls : List Label) (a : Label × State) :
    Kept w P K a.2 (ls.foldl (fun (acc : Label × State) l => acc.2.join w acc.1 l) a).2 := by
  induction ls generalizing a with
  | nil => exact Kept.refl ..
  | cons l ls ih => exact (join_kept w P K a.2 a.1 l).trans (ih _)

theorem joinList_kept (s : State) (ls : List Label) : Kept w P K s (s.joinList w ls).2 := joinFold_kept w P K ls (0#8, s)

theorem joinLanes_kept (s : State) (m : LaneMask) (f : Nat → List Label) : Kept w P K s (s.joinLanes w m f).2 := by
  unfold State.joinLanes
  generalize lanesOf m = xs
  refine Kept.foldPair (g := fun (a : SMap Label) t i =>
    let (l, t') := if hasLane (helperLanes s w) i then t.joinListQuiet w (f i) else t.joinList w (f i)
    (a.set 0#8 i l, t')) (fun a t i => ?_) xs [] s
  by_cases h : hasLane (helperLanes s w) i = true
  · rw [if_pos h]; exact joinListQuiet_kept ..
  · rw [if_neg h]; exact joinList_kept ..

theorem setFlags_kept (s : State) (f : BitVec 8) (l : Label) (h : f &&& ~~~K.flags = 0#8) : Kept w P K s (setFlags s w f l) := by
  unfold setFlags
  split
  · exact Kept.refl ..
  · refine (join_kept w P K s _ l).trans (Kept.ofWarp _ _ rfl (fun g _ => by cases g <;> rfl) (fun _ _ => rfl) (flags_rise _ _ ?_))
    simp only [below_iff, BitVec.getLsbD_or, Bool.or_eq_true] at *
    exact fun i hi hb => .inl (h i hi hb)

end

end Sys2Proof.Machine
end

