-- ==== Sys2Proof/Laws/Arrive.lean ====
section
/-! SUPPORT. What the advance of a sub-warp, its arrival at a join and the fusion of splits leave as it was: every value of every
register, and all that is no label, path, split or sub-warp of the warp (R38 to R41, R140 to R142). -/

namespace Sys2Proof.Machine

open Sys2Proof

/-- The register of the name after an operand register of one lane is set. -/
theorem reg_set_o (x : Warp) (k : Nat) (r : Reg) (g : RegName) : Warp.reg { x with o := x.o.set Reg.zero k r } g =
    match g with
    | .o n i => if i < 32 ∧ 32 * n + i = k then (r.val, r.poison) else x.reg (.o n i)
    | g => x.reg g := by
  cases g with
  | o n i =>
    simp only [Warp.reg, laneReg, SMap.get_set]
    by_cases h1 : i < 32 <;> by_cases h2 : 32 * n + i = k <;> simp [h1, h2]
  | v n i => rfl
  | s n => rfl

theorem reg_set_v (x : Warp) (k : Nat) (r : Reg) (g : RegName) : Warp.reg { x with v := x.v.set Reg.zero k r } g =
    match g with
    | .v n i => if i < 32 ∧ 32 * n + i = k then (r.val, r.poison) else x.reg (.v n i)
    | g => x.reg g := by
  cases g with
  | o n i => rfl
  | v n i =>
    simp only [Warp.reg, laneReg, SMap.get_set]
    by_cases h1 : i < 32 <;> by_cases h2 : 32 * n + i = k <;> simp [h1, h2]
  | s n => rfl

theorem reg_set_s (x : Warp) (k : Nat) (r : Reg) (g : RegName) : Warp.reg { x with s := setPad Reg.zero x.s k r } g =
    match g with
    | .s n => if n = k then (r.val, r.poison) else x.reg (.s n)
    | g => x.reg g := by
  cases g with
  | o n i => rfl
  | v n i => rfl
  | s n =>
    simp only [Warp.reg, setPad_get]
    split <;> rfl


section
variable (w : Nat) (P : RegName → Prop) (K : Marks)

/-- A change of the issuing warp that touches sub-warps, splits and paths alone. -/
theorem Kept.place (s : State) (f : Warp → Warp) (h : ∀ x, (f x).rest = x.rest) (ho : ∀ x, (f x).o = x.o) (hv : ∀ x, (f x).v = x.v)
    (hs : ∀ x, (f x).s = x.s) (hk : ∀ x, (f x).k = x.k) (hf : ∀ x, (f x).flags = x.flags) : Kept w P K s (s.modWarp w f) := by
  refine Kept.ofWarp s _ (h _) (fun g _ => ?_) (fun n _ => ?_) ?_
  · cases g <;> simp [Warp.reg, ho, hv, hs]
  · simp [Warp.mask, hk]
  · rw [hf]; exact flags_same _

theorem makeReady_kept (s : State) (u : SubWarp) : Kept w P K s (makeReady s w u) := by
  refine (Kept.ofStamp w P K s (s.stamp + 1)).trans (Kept.place w P K { s with stamp := s.stamp + 1 }
    (fun x => x.setSub { u with stamp := s.stamp, hold := .ready }) ?_ ?_ ?_ ?_ ?_ ?_) <;> exact fun _ => rfl

theorem addSub_kept (s : State) (u : SubWarp) : Kept w P K s (addSub s w u) := by
  refine (Kept.ofStamp w P K s (s.stamp + 1)).trans (Kept.place w P K { s with stamp := s.stamp + 1 }
    (fun x => { x with subs := x.subs ++ [{ u with stamp := s.stamp }] }) ?_ ?_ ?_ ?_ ?_ ?_) <;> exact fun _ => rfl

theorem dropLatches_kept (s : State) (q : Nat) : Kept w P K s (dropLatches s q) := Kept.ofQuad _ _ _ _ _ _ rfl

theorem dropLatchesOf_kept (s : State) (i : SubId) : Kept w P K s (dropLatchesOf s w i) := by
  unfold dropLatchesOf
  dsimp only
  split
  · exact dropLatches_kept ..
  · exact Kept.refl ..

theorem countCore_kept (s : State) (c src v : Nat) : Kept w P K s (countCore s c src v) := Kept.ofCore _ _ _ _ _ _ rfl

/-- The join of a lane's label, quiet in a helper lane (R130). -/
theorem joinLane_kept (s : State) (i : Nat) (a b : Label) :
    Kept w P K s (if hasLane (helperLanes s w) i then s.joinQuiet w a b else s.join w a b).2 := by
  split
  · exact joinQuiet_kept ..
  · exact join_kept ..

theorem raiseReg_kept (s : State) (main : Bool) (r i : Nat) (l : Label) : Kept w P K s (raiseReg s w main r i l) := by
  cases main with
  | true =>
    have hj := fun P K => joinLane_kept w P K s i ((s.warp w).v.get Reg.zero (32 * r + i)).lbl l
    simp only [raiseReg, if_true]
    generalize (if hasLane (helperLanes s w) i = true then _ else _ : Label × State) = j at hj ⊢
    obtain ⟨h, t⟩ := j
    dsimp only
    split
    · exact hj P K
    · refine (hj P K).trans (Kept.ofWarp _ _ rfl (fun g _ => ?_) (fun _ _ => rfl) (by simpa using flags_same _))
      have hg := (hj noReg noMask).regs g (by simp [noReg])
      rw [reg_set_v]
      cases g with
      | v n k =>
        dsimp only
        split
        · rename_i h; rw [hg, ← h.2]; simp [Warp.reg, laneReg, h.1]
        · rfl
      | o n k => rfl
      | s n => rfl
  | false =>
    have hj := fun P K => joinLane_kept w P K s i ((s.warp w).o.get Reg.zero (32 * r + i)).lbl l
    simp only [raiseReg, Bool.false_eq_true, if_false]
    generalize (if hasLane (helperLanes s w) i = true then _ else _ : Label × State) = j at hj ⊢
    obtain ⟨h, t⟩ := j
    dsimp only
    split
    · exact hj P K
    · refine (hj P K).trans (Kept.ofWarp _ _ rfl (fun g _ => ?_) (fun _ _ => rfl) (by simpa using flags_same _))
      have hg := (hj noReg noMask).regs g (by simp [noReg])
      rw [reg_set_o]
      cases g with
      | o n k =>
        dsimp only
        split
        · rename_i h; rw [hg, ← h.2]; simp [Warp.reg, laneReg, h.1]
        · rfl
      | v n k => rfl
      | s n => rfl

theorem raiseUniform_kept (s : State) (r : Nat) (l : Label) : Kept w P K s (raiseUniform s w r l) := by
  unfold raiseUniform
  refine (join_kept w P K s _ l).trans (Kept.ofWarp _ _ rfl (fun g _ => ?_) (fun _ _ => rfl) (flags_same _))
  have hg := (join_kept w noReg noMask s (((s.warp w).s[r]?).getD Reg.zero).lbl l).regs g (by simp [noReg])
  rw [reg_set_s, hg]
  cases g with
  | s n =>
    simp only
    split
    · rename_i h; rw [h]; rfl
    · exact hg
  | o n k => exact hg
  | v n k => exact hg

theorem fuseLabels_kept (s : State) (e : Split) (m : LaneMask) : Kept w P K s (fuseLabels s w e m) := by
  unfold fuseLabels
  refine (Kept.foldl _ (fun s r => Kept.foldl _ (fun s i => ?_) _ s) _ s).trans
    ((Kept.foldl _ (fun s r => Kept.foldl _ (fun s i => ?_) _ s) _ _).trans (Kept.foldl _ (fun s r => ?_) _ _))
  · exact raiseReg_kept ..
  · exact raiseReg_kept ..
  · exact raiseUniform_kept ..

theorem closeSplit_kept (s : State) (e : Nat) (x : Split) : Kept w P K s (s.modWarp w (closeSplit e x)) := by
  refine Kept.place w P K s _ ?_ ?_ ?_ ?_ ?_ ?_ <;> intro y <;> unfold closeSplit <;> (split; rfl; dsimp only; split <;> rfl)

theorem fuseEntry_kept (s : State) (e : Nat) (x : Split) (m : LaneMask) : Kept w P K s (fuseEntry s w e x m) :=
  (fuseLabels_kept w P K s x m).trans ((dropLatchesOf_kept w P K _ _).trans ((dropLatchesOf_kept w P K _ _).trans
    ((closeSplit_kept w P K _ e x).trans (countCore_kept ..))))

theorem markArrived_kept (s : State) (p side : Nat) : Kept w P K s (markArrived s w p side) := by
  refine Kept.place w P K s _ ?_ ?_ ?_ ?_ ?_ ?_ <;> intro y <;> split <;> rfl

theorem tryFuse_kept (n e : Nat) (s : State) : Kept w P K s (tryFuse s w n e) := by
  induction n generalizing s e with
  | zero => exact Kept.refl ..
  | succ n ih =>
    unfold tryFuse
    split
    · exact Kept.refl ..
    · rename_i x hx
      dsimp only
      split
      · exact Kept.refl ..
      · have h := fuseEntry_kept w P K s e x ((x.mask0 ||| x.mask1) &&& ~~~(s.warp w).exited)
        generalize fuseEntry s w e x ((x.mask0 ||| x.mask1) &&& ~~~(s.warp w).exited) = r at h ⊢
        have h' : Kept w P K s (if (x.mask0 ||| x.mask1) &&& ~~~(s.warp w).exited = 0#32 then r else
            addSub r w ⟨x.parent, (x.mask0 ||| x.mask1) &&& ~~~(s.warp w).exited, x.parentLabel, x.join, 0,
              if atJoin r w x then .joined else .ready, false⟩) := by
          split
          · exact h
          · exact h.trans (addSub_kept ..)
        generalize (if (x.mask0 ||| x.mask1) &&& ~~~(s.warp w).exited = 0#32 then r else _ : State) = q at h' ⊢
        split
        · split
          · exact h'.trans ((markArrived_kept ..).trans (ih _ _))
          · exact h'
        · exact h'

theorem arriveOne_kept (s : State) (i : SubId) : Kept w P K s (arriveOne s w i) := by
  unfold arriveOne
  split
  · split
    · split
      · refine Kept.trans ?_ (tryFuse_kept w P K 17 _ _)
        refine Kept.place w P K s _ ?_ ?_ ?_ ?_ ?_ ?_ <;> exact fun _ => rfl
      · exact Kept.refl ..
    · exact Kept.refl ..
  · exact Kept.refl ..

theorem wakeSyncs_kept (n : Nat) (s : State) : Kept w P K s (wakeSyncs s w n) := by
  induction n generalizing s with
  | zero => exact Kept.refl ..
  | succ n ih =>
    unfold wakeSyncs
    split
    · exact Kept.refl ..
    · exact (Kept.foldl _ (fun s u => makeReady_kept w P K s u) _ s).trans
        ((Kept.foldl _ (fun s u => arriveOne_kept w P K s _) _ _).trans (ih _))

/-- An arrival changes no value: labels alone (R39). -/
theorem arriveCheck_kept (s : State) (i : SubId) : Kept w P K s (arriveCheck s w i) :=
  (arriveOne_kept w P K s i).trans (wakeSyncs_kept w P K _ _)

theorem advance_kept (s : State) (u : SubWarp) (d : Done) (h : s.cur.warp = w) : Kept w P K s (advance s u d) := by
  subst h
  unfold advance
  cases d with
  | placed => exact Kept.refl ..
  | next =>
    dsimp only
    split
    · exact Kept.refl ..
    · split
      · exact Kept.refl ..
      · exact (makeReady_kept ..).trans (arriveCheck_kept ..)

theorem takeLatches_kept (s : State) (u : SubWarp) : Kept w P K s (takeLatches s u) := by
  unfold takeLatches
  dsimp only
  split
  · exact Kept.refl ..
  · exact Kept.ofQuad _ _ _ _ _ _ rfl

end

/-- The count of an SR group. -/
theorem Kept.counted {w : Nat} {P : RegName → Prop} {K : Marks} {s t : State} (h : Kept w P K s t) (hw : s.cur.warp = w) (p : Pfx) :
    Kept w P K (s.counted p) (t.counted p) := by
  have hc := State.rest_eq_cur h.state
  unfold State.counted
  split
  · rw [hc, hw]
    have hs : (t.warp w).srseq = (s.warp w).srseq := by simpa [Warp.rest] using congrArg Warp.srseq h.warp
    refine ⟨?_, ?_, ?_, ?_, ?_, ?_, ?_, ?_, ?_⟩
    · simpa [State.rest, State.setWarp] using h.state
    · simpa using h.vds
    · simpa using h.quads
    · simpa using h.cores
    · intro x hx
      simpa [hx] using h.others x hx
    · have := h.warp
      simp only [State.modWarp_eq, State.warp_setWarp]
      have e := congrArg (fun y => ({ y with srseq := y.srseq + 1 } : Warp)) this
      exact e
    · intro g hg
      have := h.regs g hg
      cases g <;> simpa [Warp.reg] using this
    · intro n hn
      simpa [Warp.mask] using h.masks n hn
    · simpa using h.flags
  · exact h

end Sys2Proof.Machine
end

