-- ==== Sys2Proof/Laws/Write.lean ====
section
/-! SUPPORT. What reading and writing operands does (R30, R89, R90, R96, R134, R135, R148): the values that a result leaves in its
destination, and what it leaves as it was. -/

namespace Sys2Proof.Machine

open Sys2Proof

/-! The monad of meanings. -/

theorem M.bind_apply {α β : Type} (m : M α) (f : α → M β) (s : State) :
    (m >>= f) s = match m s with
      | .ok (a, t) => f a t
      | .error e => .error e := by
  cases h : m s <;> simp [bind, StateT.bind, Except.bind, h]

/-- A sequence goes on from a part that succeeds. -/
theorem M.bind_ok {α β : Type} {m : M α} {f : α → M β} {s t : State} {a : α} (h : m s = .ok (a, t)) : (m >>= f) s = f a t := by
  rw [M.bind_apply, h]

@[simp] theorem M.pure_apply {α : Type} (a : α) (s : State) : (pure a : M α) s = .ok (a, s) := rfl
@[simp] theorem M.upd_apply (f : State → State) (s : State) : M.upd f s = .ok ((), f s) := rfl
@[simp] theorem M.run'_apply {α : Type} (f : State → α × State) (s : State) : M.run' f s = .ok (f s) := rfl
@[simp] theorem M.st_apply (s : State) : M.st s = .ok (s, s) := rfl

theorem M.run_bind {α β : Type} (f : State → α × State) (g : α → M β) (s : State) : (M.run' f >>= g) s = g (f s).1 (f s).2 := by
  rw [M.bind_apply]; rfl
theorem M.st_bind {β : Type} (g : State → M β) (s : State) : (M.st >>= g) s = g s s := by rw [M.bind_apply]; rfl
theorem M.upd_bind {β : Type} (f : State → State) (g : Unit → M β) (s : State) : (M.upd f >>= g) s = g () (f s) := by
  rw [M.bind_apply]; rfl

theorem trapIf_false {c : Ctx} {b : Bool} {k : Nat} {m : LaneMask} (h : b = false) (s : State) : trapIf c b k m s = .ok ((), s) := by
  simp [trapIf, h]

theorem await_true {b : Bool} (h : b = true) (s : State) : M.await b s = .ok ((), s) := by simp [M.await, h]

/-! Lanes. -/

theorem mem_lanesOf {m : LaneMask} {i : Nat} : i ∈ lanesOf m ↔ hasLane m i = true := by
  simp only [lanesOf, List.mem_filter, List.mem_range]
  constructor
  · exact fun h => h.2
  · intro h
    refine ⟨?_, h⟩
    by_contra hn
    have : hasLane m i = false := BitVec.getLsbD_of_ge _ _ (by omega)
    simp [this] at h

theorem lanesOf_lt {m : LaneMask} {i : Nat} (h : i ∈ lanesOf m) : i < 32 := by
  simp only [lanesOf, List.mem_filter, List.mem_range] at h
  exact h.1

/-! Reading. -/

/-- The checks of the sources pass where they can be read. -/
theorem checkSrcs_ok {s : State} {c : Ctx} {xs : List Src} {m : LaneMask} (h : Readable s c xs m) : checkSrcs c xs m s = .ok ((), s) := by
  have h1 : xs.any (badMainSrc s c) = false := by
    rw [List.any_eq_false]
    intro x hx
    cases x with
    | main n => simpa [badMainSrc, badMain] using h.main n hx
    | code _ => simp [badMainSrc]
    | const _ => simp [badMainSrc]
  have h2 : xs.any (badLatch s c) = false := by
    rw [List.any_eq_false]
    intro x hx
    simp [h.latch x hx]
  have h3 : maskOf (fun i => hasLane m i && xs.any (fun x => (srcReg s c x i).poison)) = 0#32 := by
    unfold maskOf
    have : ∀ is : List Nat, is.foldl (fun (b : LaneMask) i =>
        if (hasLane m i && xs.any (fun x => (srcReg s c x i).poison)) = true then b ||| laneBit i else b) 0#32 = 0#32 := by
      intro is
      induction is with
      | nil => rfl
      | cons i is ih =>
        rw [List.foldl_cons, if_neg, ih]
        intro hb
        rw [Bool.and_eq_true, List.any_eq_true] at hb
        obtain ⟨hl, x, hx, hp⟩ := hb
        rw [h.clean i x hl hx] at hp
        exact absurd hp (by simp)
    exact this _
  unfold checkSrcs
  rw [M.bind_ok (M.st_apply s), M.bind_ok (trapIf_false h1 s), M.bind_ok (trapIf_false h2 s)]
  exact trapIf_false (by rw [h3]; rfl) s

theorem checkDst_ok {s : State} {c : Ctx} {d : Dst} (h : Writable s c d) : checkDst c d s = .ok ((), s) := by
  unfold checkDst
  rw [M.bind_ok (M.st_apply s)]
  refine trapIf_false ?_ s
  cases d with
  | v n => simpa [badMainDst, badMain] using h n rfl
  | _ => rfl

/-! Last-use bits. -/

section
variable (c : Ctx) (P : RegName → Prop) (K : Marks)

theorem deadLanes_get (m : LaneMask) (k : Nat) (f : SMap Reg) (l : Nat) :
    ((deadLanes m k f).get Reg.zero l).val = (f.get Reg.zero l).val ∧ ((deadLanes m k f).get Reg.zero l).poison = (f.get Reg.zero l).poison := by
  unfold deadLanes
  generalize lanesOf m = is
  induction is generalizing f with
  | nil => simp
  | cons i is ih =>
    rw [List.foldl_cons, (ih _).1, (ih _).2, SMap.get_set]
    split <;> simp_all

theorem deadLanes_lane (m : LaneMask) (k : Nat) (f : SMap Reg) (n i : Nat) :
    (laneReg (deadLanes m k f) n i).val = (laneReg f n i).val ∧ (laneReg (deadLanes m k f) n i).poison = (laneReg f n i).poison := by
  unfold laneReg
  split
  · exact deadLanes_get ..
  · exact ⟨rfl, rfl⟩

theorem killSrc_kept (x : Src) (s : State) : Kept c.w P K s (killSrc c x s) := by
  cases x with
  | main n =>
    exact Kept.ofWarp _ _ rfl (fun g _ => by cases g <;> simp [Warp.reg, (deadLanes_lane ..).1, (deadLanes_lane ..).2]) (fun _ _ => rfl)
      (flags_same _)
  | const v => exact Kept.refl ..
  | code k =>
    unfold killSrc
    dsimp only
    split
    · exact Kept.ofWarp _ _ rfl (fun g _ => by cases g <;> simp [Warp.reg, (deadLanes_lane ..).1, (deadLanes_lane ..).2]) (fun _ _ => rfl)
        (flags_same _)
    · split
      · by_cases hs : (s.warp c.w).splits = []
        · rw [State.modWarp_eq, if_pos hs]
          refine Kept.ofWarp _ _ rfl (fun g _ => ?_) (fun _ _ => rfl) (flags_same _)
          rw [reg_set_s]
          cases g with
          | s n =>
            dsimp only
            split
            · rename_i h; rw [h]; rfl
            · rfl
          | _ => rfl
        · rw [State.modWarp_eq, if_neg hs]
          exact Kept.ofWarp _ _ rfl (fun _ _ => rfl) (fun _ _ => rfl) (flags_same _)
      · exact Kept.refl ..

theorem lastUse_kept (xs : List (Bool × Src)) (s : State) : ∃ t, lastUse c xs s = .ok ((), t) ∧ Kept c.w P K s t := by
  refine ⟨_, rfl, Kept.foldl _ (fun s p => ?_) xs s⟩
  split
  · exact killSrc_kept ..
  · exact Kept.refl ..

/-! Results. -/

theorem noteWrite_kept (s : State) (d : Dst) (n : Nat) : Kept c.w P K s (noteWrite s c d n) := by
  unfold noteWrite
  split
  · exact Kept.refl ..
  · refine Kept.place c.w P K s _ ?_ ?_ ?_ ?_ ?_ ?_ <;> intro y <;> dsimp only <;> split <;> rfl

theorem capture_kept (latch : Nat) (lanes : SMap Reg) (s : State) : Kept c.w P K s (capture c latch lanes s) :=
  Kept.ofQuad _ _ _ _ _ _ rfl

theorem putLane_rest (x : Warp) (d : Dst) (j i : Nat) (r : Reg) : (putLane x d j i r).rest = x.rest := by cases d <;> rfl
theorem putLane_mask (x : Warp) (d : Dst) (j i : Nat) (r : Reg) (n : Nat) : (putLane x d j i r).mask n = x.mask n := by cases d <;> rfl
theorem putLane_flags (x : Warp) (d : Dst) (j i : Nat) (r : Reg) : (putLane x d j i r).flags = x.flags := by cases d <;> rfl

theorem putLane_reg (x : Warp) (d : Dst) (j i : Nat) (r : Reg) (hi : i < 32) (g : RegName) :
    (putLane x d j i r).reg g = if d.name j i = some g then (r.val, r.poison) else x.reg g := by
  cases d with
  | none => simp [putLane, Dst.name]
  | o m =>
    simp only [putLane, Dst.name, reg_set_o]
    cases g with
    | o n k =>
      have : (k < 32 ∧ 32 * n + k = 32 * (m + j) + i) ↔ (m + j = n ∧ i = k) := by omega
      simp [this]
    | v n k => simp
    | s n => simp
  | v m =>
    simp only [putLane, Dst.name, reg_set_v]
    cases g with
    | v n k =>
      have : (k < 32 ∧ 32 * n + k = 32 * (m + j) + i) ↔ (m + j = n ∧ i = k) := by omega
      simp [this]
    | o n k => simp
    | s n => simp
  | u m =>
    simp only [putLane, Dst.name, reg_set_s]
    cases g with
    | s n =>
      have : (n = m + j) ↔ (m + j = n) := eq_comm
      simp [this]
    | o n k => simp
    | v n k => simp

/-! A lane's registers, then every lane's. -/

theorem putLane_fold_rest (n : Nat) (d : Dst) (i : Nat) (r : Nat → Reg) (x : Warp) :
    ((List.range n).foldl (fun x j => putLane x d j i (r j)) x).rest = x.rest ∧
    (∀ k, ((List.range n).foldl (fun x j => putLane x d j i (r j)) x).mask k = x.mask k) ∧
    ((List.range n).foldl (fun x j => putLane x d j i (r j)) x).flags = x.flags := by
  induction n with
  | zero => exact ⟨rfl, fun _ => rfl, rfl⟩
  | succ n ih =>
    simp only [List.range_succ, List.foldl_append, List.foldl_cons, List.foldl_nil, putLane_rest, putLane_mask, putLane_flags]
    exact ih

theorem Dst.name_inj {d : Dst} {j i k l : Nat} {g : RegName} (h : d.name j i = some g) (h' : d.name k l = some g) : j = k := by
  cases d <;> simp_all [Dst.name] <;> subst h' <;> simp_all

theorem putLane_fold_reg (n : Nat) (d : Dst) (i : Nat) (r : Nat → Reg) (x : Warp) (hi : i < 32) (g : RegName) :
    (∀ j, j < n → d.name j i = some g →
      ((List.range n).foldl (fun x j => putLane x d j i (r j)) x).reg g = ((r j).val, (r j).poison)) ∧
    ((∀ j, j < n → d.name j i ≠ some g) → ((List.range n).foldl (fun x j => putLane x d j i (r j)) x).reg g = x.reg g) := by
  induction n with
  | zero => exact ⟨fun j hj => absurd hj (by omega), fun _ => rfl⟩
  | succ n ih =>
    simp only [List.range_succ, List.foldl_append, List.foldl_cons, List.foldl_nil, putLane_reg _ d n i _ hi g]
    constructor
    · intro j hj hg
      by_cases hn : d.name n i = some g
      · rw [if_pos hn, Dst.name_inj hn hg]
      · rw [if_neg hn]
        refine ih.1 j ?_ hg
        rcases Nat.lt_succ_iff_lt_or_eq.mp hj with h | h
        · exact h
        · exact absurd (h ▸ hg) hn
    · intro h
      rw [if_neg (h n (by omega))]
      exact ih.2 (fun j hj => h j (by omega))

theorem putLanes_rest (x : Warp) (d : Dst) (n : Nat) (m : LaneMask) (val : Nat → List Word) (lbl : Nat → Label) :
    (putLanes x d n m val lbl).rest = x.rest ∧ (∀ k, (putLanes x d n m val lbl).mask k = x.mask k) ∧
    (putLanes x d n m val lbl).flags = x.flags := by
  unfold putLanes
  generalize lanesOf m = is
  induction is generalizing x with
  | nil => exact ⟨rfl, fun _ => rfl, rfl⟩
  | cons i is ih =>
    rw [List.foldl_cons]
    have h := putLane_fold_rest n d i (fun j => ⟨((val i)[j]?).getD 0#32, lbl i, false, false⟩) x
    exact ⟨(ih _).1.trans h.1, fun k => ((ih _).2.1 k).trans (h.2.1 k), (ih _).2.2.trans h.2.2⟩

/-- A register that the destination does not name keeps its value. -/
theorem putLanes_other (x : Warp) (d : Dst) (n : Nat) (m : LaneMask) (val : Nat → List Word) (lbl : Nat → Label) (g : RegName)
    (hg : ¬ d.names n m g) : (putLanes x d n m val lbl).reg g = x.reg g := by
  have h : ∀ is : List Nat, (∀ i ∈ is, i < 32 ∧ hasLane m i = true) → ∀ x : Warp,
      (is.foldl (fun x i => (List.range n).foldl (fun x j => putLane x d j i ⟨((val i)[j]?).getD 0#32, lbl i, false, false⟩) x) x).reg g =
        x.reg g := by
    intro is
    induction is with
    | nil => exact fun _ _ => rfl
    | cons i is ih =>
      intro hi x
      rw [List.foldl_cons, ih (fun k hk => hi k (List.mem_cons_of_mem _ hk))]
      refine (putLane_fold_reg n d i _ x (hi i List.mem_cons_self).1 g).2 (fun j hj hn => hg ⟨j, i, hj, (hi i List.mem_cons_self).2, hn⟩)
  exact h _ (fun i hi => ⟨lanesOf_lt hi, mem_lanesOf.mp hi⟩) x

/-- The destination of a lane holds the lane's values: one register file has one register of a name, or one lane alone is written. -/
theorem putLanes_has (x : Warp) (d : Dst) (n : Nat) (m : LaneMask) (val : Nat → List Word) (lbl : Nat → Label) {i j : Nat} (hj : j < n)
    (hi : hasLane m i = true) (hd : d.uniform = false ∨ m = 1#32) : d.has (putLanes x d n m val lbl) j i (((val i)[j]?).getD 0#32) := by
  intro g hg
  have one : ∀ k, hasLane m k = true → d.name j k = some g → k = i := by
    intro k hk h
    rcases hd with hd | hd
    · cases d <;> simp_all [Dst.name, Dst.uniform] <;> subst hg <;> simp_all
    · have : ∀ k, hasLane 1#32 k = true → k = 0 := by
        intro k h
        by_contra hn
        simp only [hasLane] at h
        have : (1#32).getLsbD k = false := by simp [BitVec.getLsbD_one]; omega
        simp [this] at h
      subst hd
      rw [this k hk, this i hi]
  have h : ∀ is : List Nat, (∀ k ∈ is, k < 32 ∧ hasLane m k = true) → ∀ x : Warp,
      (i ∈ is ∨ x.reg g = (((val i)[j]?).getD 0#32, false)) →
      (is.foldl (fun x i => (List.range n).foldl (fun x j => putLane x d j i ⟨((val i)[j]?).getD 0#32, lbl i, false, false⟩) x) x).reg g =
        (((val i)[j]?).getD 0#32, false) := by
    intro is
    induction is with
    | nil => exact fun _ x h => h.resolve_left (by simp)
    | cons k is ih =>
      intro hk x h
      rw [List.foldl_cons]
      refine ih (fun l hl => hk l (List.mem_cons_of_mem _ hl)) _ ?_
      have hf := putLane_fold_reg n d k (fun j => ⟨((val k)[j]?).getD 0#32, lbl k, false, false⟩) x (hk k List.mem_cons_self).1 g
      by_cases hki : k = i
      · subst hki
        exact Or.inr (hf.1 j hj hg)
      · rcases h with h | h
        · rcases List.mem_cons.mp h with h | h
          · exact absurd h.symm hki
          · exact Or.inl h
        · refine Or.inr ((hf.2 ?_).trans h)
          intro l hl hn
          have hjl := Dst.name_inj hn hg
          subst hjl
          exact hki (one k (hk k List.mem_cons_self).2 hn)
  exact h _ (fun k hk => ⟨lanesOf_lt hk, mem_lanesOf.mp hk⟩) x (Or.inl (mem_lanesOf.mpr hi))

end

section
variable (c : Ctx) (P : RegName → Prop) (K : Marks)

theorem getLane_name (x : Warp) (d : Dst) (j i : Nat) (hi : i < 32) (g : RegName) (hg : d.name j i = some g) :
    x.reg g = ((getLane x d j i).val, (getLane x d j i).poison) := by
  cases d <;> simp_all [Dst.name] <;> subst hg <;> simp [Warp.reg, laneReg, getLane, hi]

theorem joinOff_kept (d : Dst) (n : Nat) (s : State) : Kept c.w P K s (joinOff c d n s) := by
  unfold joinOff
  split
  · exact Kept.refl ..
  · rename_i k _ _
    have h : ∀ is : List Nat, (∀ i ∈ is, i < 32) → ∀ s : State, Kept c.w P K s (is.foldl (fun s i =>
        (List.range n).foldl (fun s j =>
          let r := getLane (s.warp c.w) d j i
          let (h, s) := s.join c.w r.lbl k
          s.modWarp c.w (fun x => putLane x d j i { r with lbl := h })) s) s) := by
      intro is
      induction is with
      | nil => exact fun _ s => Kept.refl ..
      | cons i is ih =>
        intro hi s
        refine Kept.trans (Kept.foldl _ (fun s j => ?_) _ s) (ih (fun k hk => hi k (List.mem_cons_of_mem _ hk)) _)
        have hi32 := hi i List.mem_cons_self
        refine (join_kept c.w P K s _ k).trans (Kept.ofWarp _ _ (putLane_rest ..) (fun g _ => ?_) (fun n _ => putLane_mask ..) ?_)
        · rw [putLane_reg _ _ _ _ _ hi32]
          split
          · rename_i hg
            have h0 := (join_kept c.w noReg noMask s (getLane (s.warp c.w) d j i).lbl k).regs g (by simp [noReg])
            rw [h0, getLane_name _ _ _ _ hi32 _ hg]
          · rfl
        · rw [putLane_flags]; exact flags_same _
    exact h _ (fun i hi => lanesOf_lt hi) s

theorem keptLanes_kept (w : W0) (off : LaneMask) (s : State) : Kept c.w P K s (keptLanes c w off s).2 := by
  unfold keptLanes
  dsimp only
  split
  · exact joinLanes_kept ..
  · exact (joinLanes_kept ..).trans (Kept.ofFree ..)

theorem putResult_kept (d : Dst) (n : Nat) (m : LaneMask) (val : Nat → List Word) (lbl : Nat → Label) (s : State) :
    Kept c.w (d.names n m) K s (putResult c d n m val lbl s) := by
  unfold putResult
  have h0 : Kept c.w (d.names n m) K s (if m = 0#32 then s else noteWrite s c d n) := by
    split
    · exact Kept.refl ..
    · exact noteWrite_kept ..
  generalize (if m = 0#32 then s else noteWrite s c d n) = r at h0 ⊢
  have h := putLanes_rest (r.warp c.w) d n m val lbl
  have h1 : Kept c.w (d.names n m) K s (r.modWarp c.w (fun x => putLanes x d n m val lbl)) :=
    h0.trans (Kept.ofWarp _ _ h.1 (fun g hg => putLanes_other _ d n m val lbl g hg) (fun k _ => h.2.1 k) (by rw [h.2.2]; exact flags_same _))
  dsimp only
  split
  · exact h1
  · exact h1.trans (joinOff_kept ..)

theorem putResult_has (d : Dst) (n : Nat) (m : LaneMask) (val : Nat → List Word) (lbl : Nat → Label) (s : State) {i j : Nat} (hj : j < n)
    (hi : hasLane m i = true) (hd : d.uniform = false ∨ m = 1#32) :
    d.has ((putResult c d n m val lbl s).warp c.w) j i (((val i)[j]?).getD 0#32) := by
  unfold putResult
  generalize (if m = 0#32 then s else noteWrite s c d n) = r
  intro g hg
  have hp := putLanes_has (r.warp c.w) d n m val lbl hj hi hd g hg
  dsimp only
  split
  · simpa using hp
  · refine ((joinOff_kept c noReg noMask d n _).regs g (by simp [noReg])).trans ?_
    simpa using hp

/-- Writing a lane result never stops; it changes no register beside its destination, and leaves the lanes' values there. -/
theorem writeLanes_ok (w : W0) (d : Dst) (n : Nat) (m : LaneMask) (val : Nat → List Word) (lbl : Nat → Label) (s : State) :
    ∃ t, writeLanes c w d n m val lbl s = .ok ((), t) ∧
      Kept c.w (fun g => w.wbs = false ∧ d.names n m g) K s t ∧
      (w.wbs = false → (d.uniform = false ∨ m = 1#32) → ∀ j i, j < n → hasLane m i = true →
        d.has (t.warp c.w) j i (((val i)[j]?).getD 0#32)) := by
  have hk : ∀ (P : RegName → Prop) (K : Marks) (s : State), Kept c.w P K s (capture c w.latch.toNat
      (laneRegs m val lbl (keptLanes c w (c.act &&& ~~~c.on &&& ~~~m) s).1) (keptLanes c w (c.act &&& ~~~c.on &&& ~~~m) s).2) :=
    fun P K s => (keptLanes_kept c P K w _ _).trans (capture_kept c _ _ _ _ _)
  refine ⟨_, rfl, Kept.trans ?_ (hk _ _ _), ?_⟩
  · cases hw : w.wbs with
    | true => exact Kept.refl ..
    | false => exact (putResult_kept c K d n m val lbl s).mono (fun g hg => ⟨rfl, hg⟩) (fun _ h => h)
  · intro hw hd j i hj hi g hg
    refine ((hk noReg noMask _).regs g (by simp [noReg])).trans ?_
    simp only [hw, Bool.false_eq_true, if_false]
    exact putResult_has c d n m val lbl s hj hi hd g hg

/-- Writing a uniform result never stops; it changes no register beside its destination, and leaves the values there. -/
theorem writeUni_ok (w : W0) (d : Dst) (vals : List Word) (l : Label) (s : State) :
    ∃ t, writeUni c w d vals l s = .ok ((), t) ∧
      Kept c.w (fun g => w.wbs = false ∧ d.names vals.length 1#32 g) K s t ∧
      (w.wbs = false → ∀ j, j < vals.length → d.has (t.warp c.w) j 0 ((vals[j]?).getD 0#32)) := by
  have h := putLanes_rest ((noteWrite s c d vals.length).warp c.w) d vals.length 1#32 (fun _ => vals) (fun _ => l)
  refine ⟨_, rfl, Kept.trans ?_ (capture_kept c _ _ _ _ _), ?_⟩
  · cases hw : w.wbs with
    | true => exact Kept.refl ..
    | false =>
      refine (noteWrite_kept c _ _ s d vals.length).trans (Kept.ofWarp _ _ h.1
        (fun g hg => putLanes_other _ d _ _ _ _ g (fun x => hg ⟨rfl, x⟩)) (fun k _ => h.2.1 k) ?_)
      rw [h.2.2]; exact flags_same _
  · intro hw j hj g hg
    refine ((capture_kept c noReg noMask w.latch.toNat _ _).regs g (by simp [noReg])).trans ?_
    simp only [hw, Bool.false_eq_true, if_false]
    have hp := putLanes_has ((noteWrite s c d vals.length).warp c.w) d vals.length 1#32 (fun _ => vals) (fun _ => l) (i := 0) hj
      (by decide) (Or.inr rfl) g hg
    simpa [putUniform] using hp

end

end Sys2Proof.Machine
end

