-- ==== Sys2Proof/Laws/Near.lean ====
section
/-! SUPPORT. Joining labels and checking a predicate change only label tables and flags (`Near`), so that a group reads its operands
as they stood. -/

namespace Sys2Proof.Machine

open Sys2Proof

section
variable {s t r : State}

theorem Near.refl (s : State) : Near s s := ⟨rfl, fun _ => rfl, fun _ => rfl⟩

theorem Near.trans (h : Near s t) (h' : Near t r) : Near s r :=
  ⟨h'.state.trans h.state, fun v => (h'.vds v).trans (h.vds v), fun x => (h'.warps x).trans (h.warps x)⟩

theorem Near.cur (h : Near s t) : t.cur = s.cur := by simpa using congrArg State.cur h.state
theorem Near.view (h : Near s t) : t.view = s.view := by simpa using congrArg State.view h.state
theorem Near.grids (h : Near s t) : t.grids = s.grids := by simpa using congrArg State.grids h.state
theorem Near.package (h : Near s t) : t.package = s.package := by simpa using congrArg State.package h.state
theorem Near.dies (h : Near s t) : t.dies = s.dies := by simpa using congrArg State.dies h.state
theorem Near.blocks (h : Near s t) : t.blocks = s.blocks := by simpa using congrArg State.blocks h.state
theorem Near.free (h : Near s t) : t.free = s.free := by simpa using congrArg State.free h.state

/-- A field of a warp that is neither its flags nor their label. -/
theorem Near.field {α : Type} (h : Near s t) (f : Warp → α)
    (hf : ∀ x : Warp, f { x with flags := 0#8, flagLabel := 0#8 } = f x) (x : Nat) : f (t.warp x) = f (s.warp x) := by
  rw [← hf, h.warps x, hf]

theorem Near.seen {α : Type} (h : Near s t) (f : Warp → α)
    (hf : ∀ x : Warp, f { x with flags := 0#8, flagLabel := 0#8 } = f x) (x : Nat) : f (t.seen x) = f (s.seen x) := by
  unfold State.seen
  rw [h.view]
  split
  · rfl
  · exact h.field f hf x

theorem Near.record (h : Near s t) (x : Nat) : t.record x = s.record x := by
  unfold State.record State.grid
  rw [h.grids, h.field Warp.grid (fun _ => rfl) x]

/-- Near states agree in what `Kept` allows. -/
theorem Near.maskReg (h : Near s t) (c : Ctx) (n : Nat) : maskReg t c n = maskReg s c n := by
  unfold Machine.maskReg
  rw [h.seen Warp.k (fun _ => rfl)]

/-- A group's rounding is the same. -/
theorem Near.laneRM (h : Near s t) (c : Ctx) (p : Pfx) (i k : Nat) : laneRM t c p i k = laneRM s c p i k := by
  unfold Machine.laneRM
  cases p.rs with
  | none => rfl
  | some r => simp only [h.seen Warp.s (fun _ => rfl), h.seen Warp.srseq (fun _ => rfl)]

/-! Joins. -/

theorem setLsat_near (s : State) (w : Nat) : Near s (State.setLsat w s) ∧ (State.setLsat w s).quads = s.quads := by
  refine ⟨⟨by simp [State.setLsat, State.setWarp], by simp [State.setLsat], fun x => ?_⟩, by simp [State.setLsat]⟩
  simp only [State.setLsat, State.modWarp_eq, State.warp_setWarp_eq]
  split
  · subst_vars; rfl
  · rfl

theorem setVd_near (s : State) (v : Nat) (x : VD) (h : x.rest = (s.vd v).rest) : Near s (s.setVd v x) ∧ (s.setVd v x).quads = s.quads := by
  refine ⟨⟨by simp [State.setVd], fun k => ?_, by simp⟩, by simp⟩
  rw [State.vd_setVd_eq]
  split
  · subst_vars; exact h
  · rfl

theorem intern_near (s : State) (v : Nat) (x : OwnerSet) (sat : State → State) (h : Near s (sat s) ∧ (sat s).quads = s.quads) :
    Near s (s.intern v x sat).2 ∧ (s.intern v x sat).2.quads = s.quads := by
  unfold State.intern
  split
  · dsimp only
    split
    · exact ⟨Near.refl s, rfl⟩
    · exact setVd_near _ _ _ rfl
  · exact h

theorem join_near (s : State) (w : Nat) (a b : Label) : Near s (s.join w a b).2 ∧ (s.join w a b).2.quads = s.quads := by
  unfold State.join
  split
  · exact ⟨Near.refl s, rfl⟩
  · split
    · exact ⟨Near.refl s, rfl⟩
    · exact intern_near _ _ _ _ (setLsat_near ..)

theorem joinVd_near (s : State) (v : Nat) (a b : Label) : Near s (s.joinVd v a b).2 ∧ (s.joinVd v a b).2.quads = s.quads := by
  unfold State.joinVd
  split
  · exact ⟨Near.refl s, rfl⟩
  · split
    · exact ⟨Near.refl s, rfl⟩
    · exact intern_near _ _ _ _ ⟨Near.refl s, rfl⟩

/-- A fold that carries a value beside the state, of operations that each stay near. -/
theorem Near.foldPair {α β : Type} {g : β → State → α → β × State} (h : ∀ b s a, Near s (g b s a).2 ∧ (g b s a).2.quads = s.quads) (xs : List α)
    (b : β) (s : State) : Near s (xs.foldl (fun (r : β × State) a => g r.1 r.2 a) (b, s)).2 ∧
      (xs.foldl (fun (r : β × State) a => g r.1 r.2 a) (b, s)).2.quads = s.quads := by
  induction xs generalizing b s with
  | nil => exact ⟨Near.refl s, rfl⟩
  | cons a xs ih => exact ⟨(h b s a).1.trans (ih _ _).1, (ih _ _).2.trans (h b s a).2⟩

theorem joinListQuiet_near (s : State) (w : Nat) (ls : List Label) :
    Near s (s.joinListQuiet w ls).2 ∧ (s.joinListQuiet w ls).2.quads = s.quads :=
  Near.foldPair (g := fun (b : Label) t l => t.joinQuiet w b l) (fun b t l => joinVd_near t _ b l) ls 0#8 s

theorem joinList_near (s : State) (w : Nat) (ls : List Label) : Near s (s.joinList w ls).2 ∧ (s.joinList w ls).2.quads = s.quads := by
  unfold State.joinList
  have h : ∀ a : Label × State, Near a.2 (ls.foldl (fun (acc : Label × State) l => acc.2.join w acc.1 l) a).2 ∧
      (ls.foldl (fun (acc : Label × State) l => acc.2.join w acc.1 l) a).2.quads = a.2.quads := by
    induction ls with
    | nil => exact fun a => ⟨Near.refl _, rfl⟩
    | cons l ls ih =>
      intro a
      have h1 := join_near a.2 w a.1 l
      have h2 := ih (a.2.join w a.1 l)
      exact ⟨h1.1.trans h2.1, h2.2.trans h1.2⟩
  exact h (0#8, s)

theorem joinLanes_near (s : State) (w : Nat) (m : LaneMask) (f : Nat → List Label) :
    Near s (s.joinLanes w m f).2 ∧ (s.joinLanes w m f).2.quads = s.quads := by
  unfold State.joinLanes
  refine Near.foldPair (g := fun (a : SMap Label) t i =>
    let (l, t') := if hasLane (helperLanes s w) i then t.joinListQuiet w (f i) else t.joinList w (f i)
    (a.set 0#8 i l, t')) (fun a t i => ?_) (lanesOf m) [] s
  by_cases h : hasLane (helperLanes s w) i = true
  · rw [if_pos h]; exact joinListQuiet_near ..
  · rw [if_neg h]; exact joinList_near ..

/-- A check of labels changes nothing. -/
theorem requireDomAt_state {c : Ctx} {k : Nat} {m : LaneMask} {ls : SMap Label} {dom : Nat → Label} {addr : Nat → DWord} {a : Unit}
    (h : requireDomAt c k m ls dom addr s = .ok (a, t)) : t = s := by
  unfold requireDomAt at h
  dsimp only at h
  split at h
  · simpa using h.symm
  · exact absurd h (by simp [trapLabel, stopLabel])

theorem takeLatches_near (s : State) (u : SubWarp) : Near s (takeLatches s u) := by
  unfold takeLatches
  dsimp only
  split
  · exact Near.refl s
  · exact ⟨by simp [State.setQuad], by simp, by simp⟩

/-- After the check of its predicate a group sees the state that stood, but for label tables and flags. -/
theorem checkPredicate_near {c : Ctx} (h : checkPredicate c s = .ok ((), t)) : Near s t ∧ t.quads = s.quads ∧ Kept c.w noReg noMask s t := by
  unfold checkPredicate at h
  cases hk : c.kl with
  | nil =>
    simp only [hk, M.pure_apply, Except.ok.injEq, Prod.mk.injEq, true_and] at h
    subst h
    exact ⟨Near.refl s, rfl, Kept.refl ..⟩
  | cons k l =>
    simp only [hk] at h
    rw [M.run_bind, M.st_bind] at h
    have := requireDomAt_state h
    subst this
    exact ⟨(joinLanes_near ..).1, (joinLanes_near ..).2, joinLanes_kept ..⟩

theorem trapIf_state {c : Ctx} {b : Bool} {k : Nat} {m : LaneMask} {a : Unit} (h : trapIf c b k m s = .ok (a, t)) : t = s := by
  unfold trapIf at h
  split at h
  · exact absurd h (by simp [trap, M.stop])
  · simpa using h.symm

/-- A check that precedes another of a body has passed, where both have. -/
theorem M.bind_split {α β : Type} {m : M α} {f : α → M β} {r : β × State} (h : (m >>= f) s = .ok r) : ∃ a u, m s = .ok (a, u) ∧ f a u = .ok r := by
  rw [M.bind_apply] at h
  split at h
  · exact ⟨_, _, by assumption, h⟩
  · exact absurd h (by simp)

/-- A check of operands changes nothing. -/
theorem checkSrcs_state {c : Ctx} {xs : List Src} {m : LaneMask} {a : Unit} (h : checkSrcs c xs m s = .ok (a, t)) : t = s := by
  unfold checkSrcs at h
  rw [M.st_bind] at h
  obtain ⟨_, u, h1, h⟩ := M.bind_split h
  obtain ⟨_, v, h2, h⟩ := M.bind_split h
  rw [trapIf_state h, trapIf_state h2, trapIf_state h1]

theorem checkKey_state {c : Ctx} {p : Pfx} {a : Unit} (h : checkKey c p s = .ok (a, t)) : t = s := by
  cases hp : p.rs with
  | none => simp only [checkKey, hp] at h; simpa using h.symm
  | some r =>
    simp only [checkKey, hp] at h
    by_cases hr : r.rnd = .sr
    · rw [if_pos hr] at h; exact checkSrcs_state h
    · rw [if_neg hr] at h; simpa using h.symm

/-- After the checks of its prefixes a group sees the state that stood, but for label tables and flags. -/
theorem checkPfx_near {c : Ctx} {p : Pfx} (h : checkPfx c p s = .ok ((), t)) : Near s t ∧ t.quads = s.quads ∧ Kept c.w noReg noMask s t := by
  unfold checkPfx at h
  obtain ⟨_, u, h1, h⟩ := M.bind_split h
  rw [checkKey_state h]
  exact checkPredicate_near h1

/-! Operands. -/

theorem takeLatches_owned {u : SubWarp} (h : (s.quad (s.warp s.cur.warp).quad).owner = some (s.cur.warp, u.id)) : takeLatches s u = s := by
  unfold takeLatches
  simp [h]

/-- The latches that a group sees as its own are the same after the checks of its prefixes. -/
theorem seenQuad_before {p : Pfx} {u : SubWarp} (hn : Near (takeLatches s u) t) (hq : t.quads = (takeLatches s u).quads)
    (h : (s.seenQuad (mkCtx s u p).quad).owner = some (s.cur.warp, u.id)) : t.seenQuad (mkCtx s u p).quad = s.seenQuad (mkCtx s u p).quad := by
  have hs := (takeLatches_near s u).trans hn
  unfold State.seenQuad at h ⊢
  rw [hs.view]
  cases hv : s.view with
  | some x => rfl
  | none =>
    rw [hv] at h
    have he : takeLatches s u = s := takeLatches_owned h
    simp [State.quad, hq, he]

/-- A source that can be read reads the same after the check of the predicate. -/
theorem srcReg_before {p : Pfx} {u : SubWarp} (hn : Near (takeLatches s u) t) (hq : t.quads = (takeLatches s u).quads) {x : Src}
    (hx : badLatch s (mkCtx s u p) x = false) (i : Nat) : srcReg t (mkCtx s u p) x i = srcReg s (mkCtx s u p) x i := by
  have hs := (takeLatches_near s u).trans hn
  cases x with
  | const v => rfl
  | main n =>
    unfold srcReg
    dsimp only
    rw [hs.seen Warp.v (fun _ => rfl)]
  | code k =>
    unfold srcReg
    dsimp only
    rw [hs.seen Warp.o (fun _ => rfl), hs.seen Warp.s (fun _ => rfl)]
    by_cases h1 : k.toNat < 16
    · simp [h1]
    · by_cases h2 : k.toNat < 20
      · have hown : (s.seenQuad (mkCtx s u p).quad).owner = some (s.cur.warp, u.id) := by
          have hl : (Src.code k).latch = some (k.toNat - 16) := by simp [Src.latch, h2]; omega
          unfold badLatch at hx
          rw [hl] at hx
          simp only [Bool.or_eq_false_iff, bne_eq_false_iff_eq] at hx
          exact hx.1
        simp [h1, h2, seenQuad_before hn hq hown]
      · simp [h1, h2]

/-- What can be read stays so after the check of the predicate. -/
theorem Readable.before {p : Pfx} {u : SubWarp} {xs : List Src} {m : LaneMask} (h : Readable s (mkCtx s u p) xs m)
    (hn : Near (takeLatches s u) t) (hq : t.quads = (takeLatches s u).quads) : Readable t (mkCtx s u p) xs m := by
  have hs := (takeLatches_near s u).trans hn
  refine ⟨fun n hx => ?_, fun x hx => ?_, fun i x hl hx => ?_⟩
  · rw [hs.record]; exact h.main n hx
  · have hb := h.latch x hx
    unfold badLatch at hb ⊢
    split
    · rfl
    · rename_i n hl
      rw [hl] at hb
      simp only [Bool.or_eq_false_iff, bne_eq_false_iff_eq] at hb
      simpa [seenQuad_before hn hq hb.1] using hb
  · rw [srcReg_before hn hq (h.latch x hx)]; exact h.clean i x hl hx

theorem Writable.before {p : Pfx} {u : SubWarp} {d : Dst} (h : Writable s (mkCtx s u p) d) (hn : Near (takeLatches s u) t) :
    Writable t (mkCtx s u p) d := by
  intro n hd
  rw [((takeLatches_near s u).trans hn).record]
  exact h n hd

theorem laneVals_before {p : Pfx} {u : SubWarp} (hn : Near (takeLatches s u) t) (hq : t.quads = (takeLatches s u).quads) {xs : Srcs}
    {m : LaneMask} (h : Readable s (mkCtx s u p) (xs.map (fun x => x.2)) m) (i : Nat) :
    laneVals t (mkCtx s u p) xs i = laneVals s (mkCtx s u p) xs i := by
  unfold laneVals
  refine List.map_congr_left (fun x hx => ?_)
  unfold srcVal
  rw [srcReg_before hn hq (h.latch x.2 (List.mem_map_of_mem hx))]

end

/-! Issue. -/

/-- A group whose body succeeds takes its effect. -/
theorem issue_ok {p : Pfx} {s s1 t : State} {u : SubWarp} {body : Ctx → M Done} {d : Done} (hs : s.issuer = some u)
    (hp : checkPfx (mkCtx s u p) p (takeLatches s u) = .ok ((), s1)) (hb : body (mkCtx s u p) s1 = .ok (d, t)) :
    issue p true s body = .next (complete p t u d) := by
  unfold State.issuer at hs
  unfold issue
  simp only [hs]
  have : (do checkPfx (mkCtx s u p) p; body (mkCtx s u p) : M Done) (takeLatches s u) = .ok (d, t) := by
    rw [M.bind_ok hp, hb]
  simp [this]

theorem complete_report (p : Pfx) (t : State) (u : SubWarp) (d : Done) : (complete p t u d).report = .done := rfl

/-- What completion changes beside where the sub-warp stands. -/
theorem complete_kept (p : Pfx) (t : State) (u : SubWarp) (d : Done) {w : Nat} (h : t.cur.warp = w) :
    Kept w noReg noMask (t.counted p) (complete p t u d) := by
  unfold complete
  have hc : (t.counted p).cur.warp = w := by
    unfold State.counted
    split <;> simpa using h
  change Kept w noReg noMask (t.counted p) { (if (t.counted p).cur.pair = 1 then t.counted p else advance (t.counted p) u d) with report := .done }
  refine Kept.trans ?_ (Kept.ofReport ..)
  split
  · exact Kept.refl ..
  · exact advance_kept _ _ _ _ _ _ hc

end Sys2Proof.Machine
end

