-- ==== Sys2Proof/Laws/Alu.lean ====
section
/-! SUPPORT. What the wrapper of arithmetic instructions does (R144 to R148): it completes where its operands can be read, and leaves
the function's values in the destination and everything else as it was. -/

namespace Sys2Proof.Machine

open Sys2Proof

section
variable (c : Ctx) (P : RegName → Prop) (K : Marks)

/-- Every flag of a lane is one of the union. -/
theorem raised_below (u : Bool) (f : Nat → BitVec 8) (i : Nat) (h : if u then i = 0 else hasLane c.on i = true) : f i &&& ~~~(raised c u f) = 0#8 := by
  have hfold : ∀ (is : List Nat) (a : BitVec 8), (∀ k ∈ is, f k &&& ~~~(is.foldl (fun a i => a ||| f i) a) = 0#8) ∧ a &&& ~~~(is.foldl (fun a i => a ||| f i) a) = 0#8 := by
    intro is
    induction is with
    | nil => exact fun a => ⟨fun _ h => absurd h (by simp), below_iff.mpr (fun _ _ h => h)⟩
    | cons k is ih =>
      intro a
      obtain ⟨h1, h2⟩ := ih (a ||| f k)
      simp only [below_iff, BitVec.getLsbD_or, Bool.or_eq_true] at h1 h2
      refine ⟨fun n hn => below_iff.mpr (fun i hi hb => ?_), below_iff.mpr (fun i hi hb => h2 i hi (.inl hb))⟩
      rcases List.mem_cons.mp hn with rfl | hn
      · exact h2 i hi (.inr hb)
      · exact h1 n hn i hi hb
  cases u with
  | true => simp only [if_true] at h; subst h; exact below_iff.mpr (fun _ _ h => h)
  | false =>
    simp only [Bool.false_eq_true, if_false] at h
    exact (hfold _ _).1 i (mem_lanesOf.mpr h)

/-- A union below `b` of what each lane raises. -/
theorem raised_rose (u : Bool) (f : Nat → BitVec 8) (b : BitVec 8) (h : ∀ i, (if u then i = 0 else hasLane c.on i = true) → f i &&& ~~~b = 0#8) :
    raised c u f &&& ~~~b = 0#8 := by
  have hfold : ∀ (is : List Nat) (a : BitVec 8), (∀ k ∈ is, f k &&& ~~~b = 0#8) → a &&& ~~~b = 0#8 → is.foldl (fun a i => a ||| f i) a &&& ~~~b = 0#8 := by
    intro is
    induction is with
    | nil => exact fun _ _ h => h
    | cons k is ih =>
      intro a hk ha
      refine ih _ (fun n hn => hk n (List.mem_cons_of_mem _ hn)) (below_iff.mpr (fun i hi hb => ?_))
      rw [BitVec.getLsbD_or, Bool.or_eq_true] at hb
      rcases hb with hb | hb
      · exact below_iff.mp ha i hi hb
      · exact below_iff.mp (hk k (List.mem_cons_self ..)) i hi hb
  cases u with
  | true => exact h 0 rfl
  | false => exact hfold _ _ (fun k hk => h k (mem_lanesOf.mp hk)) (by simp)

/-- Setting flags raises them. -/
theorem setFlags_rose (s : State) (w : Nat) (f : BitVec 8) (l : Label) : f &&& ~~~((setFlags s w f l).warp w).flags = 0#8 := by
  unfold setFlags
  split
  · rename_i h; simp [h]
  · simp only [below_iff]
    intro i _ h
    simp [h]

/-- Flags once raised stay (R119). -/
theorem rose_kept {w : Nat} {P : RegName → Prop} {K : Marks} {s t : State} {f : BitVec 8} (h : Kept w P K s t) (hf : f &&& ~~~(s.warp w).flags = 0#8) :
    f &&& ~~~(t.warp w).flags = 0#8 :=
  below_iff.mpr (fun i hi hb => below_iff.mp h.flags.1 i hi (below_iff.mp hf i hi hb))

theorem laneFlags_kept (rs : List (Nat × List Word × BitVec 8)) (ls : SMap Label) (s : State)
    (h : ∀ r ∈ rs, hasLane c.on r.1 = true → r.2.2 &&& ~~~K.flags = 0#8) : Kept c.w P K s (laneFlags c rs ls s) := by
  unfold laneFlags
  induction rs generalizing s with
  | nil => exact Kept.refl ..
  | cons r rs ih =>
    rw [List.foldl_cons]
    refine Kept.trans ?_ (ih _ (fun x hx => h x (List.mem_cons_of_mem _ hx)))
    split
    · rename_i ho; exact setFlags_kept _ _ _ _ _ _ (h r (List.mem_cons_self ..) ho)
    · exact Kept.refl ..

theorem laneFlags_rose (rs : List (Nat × List Word × BitVec 8)) (ls : SMap Label) (s : State) (r : Nat × List Word × BitVec 8) (hr : r ∈ rs)
    (ho : hasLane c.on r.1 = true) : r.2.2 &&& ~~~((laneFlags c rs ls s).warp c.w).flags = 0#8 := by
  have hk : ∀ rs s, Kept c.w (fun _ => False) ⟨fun _ => False, BitVec.allOnes 8⟩ s (laneFlags c rs ls s) :=
    fun rs s => laneFlags_kept c _ _ rs ls s (fun _ _ _ => by simp)
  unfold laneFlags at *
  induction rs generalizing s with
  | nil => exact absurd hr (by simp)
  | cons x rs ih =>
    rw [List.foldl_cons]
    rcases List.mem_cons.mp hr with rfl | hr
    · rw [if_pos ho]
      exact rose_kept (hk rs _) (setFlags_rose ..)
    · exact ih _ hr

theorem SMap.get_map_lanes {α : Type} (d : α) (m : LaneMask) (f : Nat → α) {i : Nat} (hi : hasLane m i = true) :
    SMap.get d ((lanesOf m).map (fun i => (i, f i))) i = f i := by
  have h : ∀ is : List Nat, i ∈ is → SMap.get d (is.map (fun i => (i, f i))) i = f i := by
    intro is
    induction is with
    | nil => exact fun h => absurd h (by simp)
    | cons k is ih =>
      intro h
      simp only [List.map_cons, SMap.get]
      split
      · rename_i hk; rw [hk]
      · rename_i hk
        rcases List.mem_cons.mp h with h | h
        · exact absurd h.symm hk
        · exact ih h
  exact h _ (mem_lanesOf.mpr hi)

/-- The wrapper completes, and the destination holds the values of the function; a uniform one that of lane 0. -/
theorem aluBody_ok (w : W0) (d : Dst) (n : Nat) (xs : Srcs) (extra : State → Nat → List Label) (f : LaneFn) (s : State)
    (hr : Readable s c (xs.map (fun x => x.2)) c.on) (hd : Writable s c d) :
    ∃ t, aluBody c w d n xs extra f s = .ok (.next, t) ∧
      Kept c.w (aluNames c w d n) (onlyFlags (raised c d.uniform (fun i => (f s i (laneVals s c xs i)).2))) s t ∧
      raised c d.uniform (fun i => (f s i (laneVals s c xs i)).2) &&& ~~~(t.warp c.w).flags = 0#8 ∧
      (w.wbs = false → ∀ j i, j < n → hasLane (if d.uniform then 1#32 else c.run) i = true →
        d.has (t.warp c.w) j i (((f s i (laneVals s c xs i)).1[j]?).getD 0#32)) := by
  have hrb := fun i h => raised_below c d.uniform (fun i => (f s i (laneVals s c xs i)).2) i h
  have hrr := fun b h => raised_rose c d.uniform (fun i => (f s i (laneVals s c xs i)).2) b h
  generalize hK : onlyFlags (raised c d.uniform (fun i => (f s i (laneVals s c xs i)).2)) = K
  have hKf : K.flags = raised c d.uniform (fun i => (f s i (laneVals s c xs i)).2) := by rw [← hK]; rfl
  unfold aluBody
  simp only [M.bind_ok (checkDst_ok hd), M.bind_ok (checkSrcs_ok hr), M.st_bind]
  cases hu : d.uniform with
  | true =>
    simp only [if_true, M.run_bind, M.upd_bind]
    generalize hl : s.joinList c.w (xs.map (fun x => srcLbl s c x.2 0) ++ extra s 0 ++ [c.sub.maskLabel]) = jl
    have k1 : Kept c.w (aluNames c w d n) K s jl.2 := hl ▸ joinList_kept ..
    have k2 := k1.trans (setFlags_kept c.w (aluNames c w d n) K jl.2 (f s 0 (laneVals s c xs 0)).2 jl.1
      (by rw [hKf]; exact hrb 0 (by simp [hu])))
    obtain ⟨s3, e3, k3⟩ := lastUse_kept c (aluNames c w d n) K xs (setFlags jl.2 c.w (f s 0 (laneVals s c xs 0)).2 jl.1)
    obtain ⟨s4, e4, k4, h4⟩ := writeUni_ok c K w d ((List.range n).map (fun j => ((f s 0 (laneVals s c xs 0)).1[j]?).getD 0#32)) jl.1 s3
    have k4' := k4.mono (Q := aluNames c w d n) (L := K) (fun g hg => ⟨hg.1, by simpa [hu] using hg.2⟩) (fun _ h => h) (below_iff.mpr (fun _ _ h => h))
    refine ⟨s4, ?_, (k2.trans k3).trans k4', ?_, ?_⟩
    · rw [M.bind_ok e3, M.bind_ok e4]; rfl
    · rw [← hu]
      refine hrr _ (fun i hi => ?_)
      have : i = 0 := by simpa [hu] using hi
      subst this
      exact rose_kept (k3.trans k4') (setFlags_rose ..)
    · intro hw j i hj hi
      have h0 : i = 0 := by
        by_contra hn
        simp only [hasLane] at hi
        have : (1#32).getLsbD i = false := by simp [BitVec.getLsbD_one]; omega
        simp [this] at hi
      subst h0
      have := h4 hw j (by simpa using hj)
      simpa [hj] using this
  | false =>
    simp only [Bool.false_eq_true, if_false]
    rw [M.bind_ok (t := (s.joinLanes c.w c.run (fun i => xs.map (fun x => srcLbl s c x.2 i) ++ extra s i ++ [pathIn s c.w c.on i] ++ c.kl)).2)
      (a := (s.joinLanes c.w c.run (fun i => xs.map (fun x => srcLbl s c x.2 i) ++ extra s i ++ [pathIn s c.w c.on i] ++ c.kl)).1) rfl]
    generalize hl : s.joinLanes c.w c.run (fun i => xs.map (fun x => srcLbl s c x.2 i) ++ extra s i ++ [pathIn s c.w c.on i] ++ c.kl) = jl
    have k1 : Kept c.w (aluNames c w d n) K s jl.2 := hl ▸ joinLanes_kept ..
    simp only [M.upd_bind]
    have k2 := k1.trans (laneFlags_kept c (aluNames c w d n) K ((lanesOf c.run).map (fun i => (i, f s i (laneVals s c xs i)))) jl.1 jl.2
      (fun r hr ho => by
        obtain ⟨i, _, rfl⟩ := List.mem_map.mp hr
        rw [hKf]; exact hrb i (by simpa [hu] using ho)))
    obtain ⟨s3, e3, k3⟩ := lastUse_kept c (aluNames c w d n) K xs (laneFlags c ((lanesOf c.run).map (fun i => (i, f s i (laneVals s c xs i)))) jl.1 jl.2)
    obtain ⟨s4, e4, k4, h4⟩ := writeLanes_ok c K w d n c.run
      (fun i => SMap.get [] (((lanesOf c.run).map (fun i => (i, f s i (laneVals s c xs i)))).map (fun r => (r.1, r.2.1))) i)
      (fun i => jl.1.get 0#8 i) s3
    have k4' := k4.mono (Q := aluNames c w d n) (L := K) (fun g hg => ⟨hg.1, by simpa [hu] using hg.2⟩) (fun _ h => h) (below_iff.mpr (fun _ _ h => h))
    refine ⟨s4, ?_, (k2.trans k3).trans k4', ?_, ?_⟩
    · rw [M.bind_ok e3, M.bind_ok e4]; rfl
    · rw [← hu]
      refine hrr _ (fun i hi => ?_)
      have ho : hasLane c.on i = true := by simpa [hu] using hi
      exact rose_kept (k3.trans k4') (laneFlags_rose c _ _ _ (i, f s i (laneVals s c xs i))
        (List.mem_map.mpr ⟨i, mem_lanesOf.mpr (by simp [Ctx.run, hasLane] at ho ⊢; simp [ho]), rfl⟩) ho)
    · intro hw j i hj hi
      have := h4 hw (Or.inl hu) j i hj hi
      rw [List.map_map] at this
      have hg := SMap.get_map_lanes ([] : List Word) c.run (fun i => (f s i (laneVals s c xs i)).1) hi
      simp only [Function.comp_def] at this
      rw [hg] at this
      exact this

end

/-- An instruction of the arithmetic shape completes where its group may act and its operands can be read; its destination then holds
the function's values, and everything else is kept. -/
theorem issue_alu {p : Pfx} {w : W0} {d : Dst} {n : Nat} {xs : Srcs} {extra : Ctx → State → Nat → List Label} {f : Ctx → LaneFn} {s : State}
    {u : SubWarp} (hi : Issues s p u) (hr : Readable s (mkCtx s u p) (xs.map (fun x => x.2)) (mkCtx s u p).on)
    (hd : Writable s (mkCtx s u p) d) (hf : ∀ t, Near s t → ∀ i v, f (mkCtx s u p) t i v = f (mkCtx s u p) s i v) :
    ∃ t, issue p true s (fun c => aluBody c w d n xs (extra c) (f c)) = .next t ∧ t.report = .done ∧
      Kept s.cur.warp (aluNames (mkCtx s u p) w d n)
        (onlyFlags (raised (mkCtx s u p) d.uniform (fun i => (f (mkCtx s u p) s i (laneVals s (mkCtx s u p) xs i)).2))) (s.counted p) t ∧
      raised (mkCtx s u p) d.uniform (fun i => (f (mkCtx s u p) s i (laneVals s (mkCtx s u p) xs i)).2) &&& ~~~(t.warp s.cur.warp).flags = 0#8 ∧
      (w.wbs = false → ∀ j i, j < n → hasLane (if d.uniform then 1#32 else (mkCtx s u p).run) i = true →
        d.has (t.warp s.cur.warp) j i (((f (mkCtx s u p) s i (laneVals s (mkCtx s u p) xs i)).1[j]?).getD 0#32)) := by
  obtain ⟨s1, h1⟩ := hi.predicate
  obtain ⟨n1, q1, k1⟩ := checkPfx_near h1
  have hs := (takeLatches_near s u).trans n1
  have hv : ∀ i, f (mkCtx s u p) s1 i (laneVals s1 (mkCtx s u p) xs i) = f (mkCtx s u p) s i (laneVals s (mkCtx s u p) xs i) := by
    intro i
    rw [hf _ hs, laneVals_before n1 q1 hr]
  obtain ⟨s2, e2, k2, r2, v2⟩ := aluBody_ok (mkCtx s u p) w d n xs (extra (mkCtx s u p)) (f (mkCtx s u p)) s1 (hr.before n1 q1) (hd.before n1)
  simp only [hv] at k2 r2 v2
  have k0 := ((takeLatches_kept _ _ _ s u).trans (k1.mono (fun _ h => h.elim) (fun _ h => h.elim))).trans k2
  have hc : s2.cur.warp = s.cur.warp := by rw [State.rest_eq_cur k0.state]
  have ke := complete_kept p s2 u .next hc
  have hco : ∀ g, ((s2.counted p).warp s.cur.warp).reg g = (s2.warp s.cur.warp).reg g := by
    intro g
    unfold State.counted
    split
    · rw [hc]
      cases g <;> simp [Warp.reg]
    · rfl
  have hfl : ((s2.counted p).warp s.cur.warp).flags = (s2.warp s.cur.warp).flags := by
    unfold State.counted
    split
    · rw [hc]; simp
    · rfl
  refine ⟨_, issue_ok hi.sub h1 e2, rfl, ?_, ?_, ?_⟩
  · exact (k0.counted rfl p).trans (ke.mono (fun _ h => h.elim) (fun _ h => h.elim))
  · exact rose_kept ke (by rw [hfl]; exact r2)
  · intro hw j i hj hl g hg
    rw [ke.regs g (by simp [noReg]), hco]
    exact v2 hw j i hj hl g hg

end Sys2Proof.Machine
end

