-- ==== Sys2Proof/Laws/Compare.lean ====
section
/-! SUPPORT. What the wrapper of comparisons does (R148, R151): it completes where its operands can be read, and writes the bits of the
lanes that are on, and no other bit of a lane-mask register. -/

namespace Sys2Proof.Machine

open Sys2Proof

section
variable (c : Ctx) (P : RegName → Prop) (K : Marks)

theorem mask_set (x : Warp) (n m : Nat) (r : MaskReg) : Warp.mask { x with k := setPad MaskReg.zero x.k n r } m = if m = n then r.bits else x.mask m := by
  simp only [Warp.mask, setPad_get]
  split <;> rfl

/-- Lane-mask register `n` may change. -/
def oneMask (n : Nat) : Marks := ⟨fun k => k = n, 0#8⟩

theorem setMask_kept (s : State) (n : Nat) (bits : Word) (ls : SMap Label) : Kept c.w P (oneMask n) s (setMask s c.w n bits ls) := by
  unfold setMask
  refine (joinList_kept c.w P (oneMask n) s _).trans (Kept.ofWarp _ _ rfl (fun g _ => by cases g <;> rfl) (fun k hk => ?_) (flags_same _))
  exact (mask_set ..).trans (if_neg (show ¬ k = n from hk))

theorem setMask_mask (s : State) (n : Nat) (bits : Word) (ls : SMap Label) : ((setMask s c.w n bits ls).warp c.w).mask n = bits := by
  simp [setMask, mask_set]

theorem bitLabels_kept (lanes : LaneMask) (live : Bool) (lbl : Nat → Label) (is : List Nat) (a : SMap Label × State) :
    Kept c.w P K a.2 (is.foldl (bitLabels c lanes live lbl) a).2 := by
  induction is generalizing a with
  | nil => exact Kept.refl ..
  | cons i is ih =>
    rw [List.foldl_cons]
    refine Kept.trans ?_ (ih _)
    unfold bitLabels
    split
    · exact Kept.refl ..
    · exact joinList_kept ..

/-- Writing bits of a lane-mask register changes those bits alone. -/
theorem writeBits_kept (n : Nat) (m : LaneMask) (bits : Word) (lbl : Nat → Label) (s : State) :
    Kept c.w P (oneMask n) s (writeBits c n m bits lbl s) ∧
    ((writeBits c n m bits lbl s).warp c.w).mask n = ((s.warp c.w).mask n &&& ~~~m) ||| (bits &&& m) := by
  unfold writeBits
  refine ⟨Kept.trans ?_ (setMask_kept ..), ?_⟩
  · exact bitLabels_kept c P (oneMask n) m _ lbl (List.range 32) (((((s.warp c.w).k[n]?).getD MaskReg.zero).lbls), s)
  · simp only [setMask_mask]
    rfl

/-- Writing a comparison's result never stops. -/
theorem writeCompare_ok (w : W0) (n : Nat) (m : LaneMask) (bits : Word) (lbl : Nat → Label) (s : State) :
    ∃ t, writeCompare c w n m bits lbl s = .ok ((), t) ∧ Kept c.w P (maskMarks w n 0#8) s t ∧
      (w.wbs = false → (t.warp c.w).mask n = ((s.warp c.w).mask n &&& ~~~m) ||| (bits &&& m)) := by
  unfold writeCompare
  cases hw : w.wbs with
  | true =>
    refine ⟨_, rfl, (keptLanes_kept c _ _ w _ _).trans (capture_kept ..), fun h => absurd h (by simp)⟩
  | false =>
    have hb := writeBits_kept c P n m bits lbl s
    refine ⟨_, rfl, (hb.1.mono (L := maskMarks w n 0#8) (fun _ h => h) (fun k h => ⟨hw, h⟩) (by simp [oneMask])).trans (capture_kept ..), fun _ => ?_⟩
    rw [← hb.2]
    exact (capture_kept c noReg noMask _ _ _).masks n (by simp [noMask])

theorem foldl_lanes {α : Type} (xs : List Nat) (f g : α → Nat → α) (a : α) (h : ∀ t i, i ∈ xs → f t i = g t i) : xs.foldl f a = xs.foldl g a := by
  induction xs generalizing a with
  | nil => rfl
  | cons x xs ih =>
    rw [List.foldl_cons, List.foldl_cons, h _ _ (List.mem_cons_self ..)]
    exact ih _ (fun t i hi => h t i (List.mem_cons_of_mem _ hi))

/-- The wrapper of comparisons completes, and writes in the lanes that are on what the condition says. -/
theorem cmpBody_ok (w : W0) (n : Nat) (xs : Srcs) (f : List Word → Bool × BitVec 8) (s : State)
    (hr : Readable s c (xs.map (fun x => x.2)) c.on) :
    ∃ t, cmpBody c w n xs f s = .ok (.next, t) ∧ Kept c.w P (maskMarks w n (raised c false (fun i => (f (laneVals s c xs i)).2))) s t ∧
      raised c false (fun i => (f (laneVals s c xs i)).2) &&& ~~~(t.warp c.w).flags = 0#8 ∧
      (w.wbs = false → ∀ i, i < 32 → ((t.warp c.w).mask n).getLsbD i =
        if hasLane c.on i then (f (laneVals s c xs i)).1 else ((s.warp c.w).mask n).getLsbD i) := by
  have hrb := fun i h => raised_below c false (fun i => (f (laneVals s c xs i)).2) i h
  generalize hF : maskMarks w n (raised c false (fun i => (f (laneVals s c xs i)).2)) = K
  have hKf : K.flags = raised c false (fun i => (f (laneVals s c xs i)).2) := by rw [← hF]; rfl
  unfold cmpBody
  simp only [M.bind_ok (checkSrcs_ok hr), M.st_bind]
  rw [M.bind_ok (t := (s.joinLanes c.w c.run (fun i => xs.map (fun x => srcLbl s c x.2 i) ++ [] ++ [pathIn s c.w c.on i] ++ c.kl)).2)
    (a := (s.joinLanes c.w c.run (fun i => xs.map (fun x => srcLbl s c x.2 i) ++ [] ++ [pathIn s c.w c.on i] ++ c.kl)).1) rfl]
  generalize hl : s.joinLanes c.w c.run (fun i => xs.map (fun x => srcLbl s c x.2 i) ++ [] ++ [pathIn s c.w c.on i] ++ c.kl) = jl
  have k1 : Kept c.w P K s jl.2 := hl ▸ joinLanes_kept ..
  simp only [M.upd_bind]
  generalize hrs : (lanesOf c.on).map (fun i => (i, f (laneVals s c xs i))) = rs
  generalize hfl : rs.foldl (fun t r => setFlags t c.w r.2.2 (jl.1.get 0#8 r.1)) jl.2 = s2
  have hlf : s2 = laneFlags c ((lanesOf c.on).map (fun i => (i, [], (f (laneVals s c xs i)).2))) jl.1 jl.2 := by
    rw [← hfl, ← hrs, laneFlags, List.foldl_map, List.foldl_map]
    refine foldl_lanes _ _ _ _ (fun t i hi => ?_)
    rw [if_pos (mem_lanesOf.mp hi)]
  have k2 : Kept c.w P K s s2 := k1.trans (by
    rw [hlf]
    refine laneFlags_kept _ _ _ _ _ _ (fun r hr ho => ?_)
    obtain ⟨i, _, rfl⟩ := List.mem_map.mp hr
    rw [hKf]; exact hrb i (by simpa using ho))
  have k2m : ∀ k, (s2.warp c.w).mask k = (s.warp c.w).mask k := by
    intro k
    have : Kept c.w P (onlyFlags (BitVec.allOnes 8)) s s2 := Kept.trans (t := jl.2) (hl ▸ joinLanes_kept ..) (by
      rw [hlf]; exact laneFlags_kept _ _ _ _ _ _ (fun _ _ _ => by simp [onlyFlags]))
    exact this.masks k (by simp [onlyFlags])
  obtain ⟨s3, e3, k3⟩ := lastUse_kept c noReg noMask xs s2
  generalize hb : rs.foldl (fun m r => if r.2.1 = true then m ||| laneBit r.1 else m) 0#32 = bits
  obtain ⟨s4, e4, k4, v4⟩ := writeCompare_ok c P w n c.on bits (fun i => jl.1.get 0#8 i) s3
  have k34 : Kept c.w P K s2 s4 := (k3.mono (fun _ h => h.elim) (fun _ h => h.elim)).trans
    (k4.mono (fun _ h => h) (fun k h => by rw [← hF]; exact h) (by simp [maskMarks]))
  refine ⟨s4, ?_, k2.trans k34, raised_rose _ _ _ _ (fun i hi => ?_), fun hw i hi => ?_⟩
  · rw [M.bind_ok e3, M.bind_ok e4]; rfl
  · have ho : hasLane c.on i = true := by simpa using hi
    refine rose_kept k34 ?_
    rw [hlf]
    exact laneFlags_rose c _ _ _ (i, [], (f (laneVals s c xs i)).2) (List.mem_map.mpr ⟨i, mem_lanesOf.mpr ho, rfl⟩) ho
  · rw [v4 hw, k3.masks n (by simp [noMask]), k2m]
    have hbit : bits.getLsbD i = (hasLane c.on i && (f (laneVals s c xs i)).1) := by
      subst hb hrs
      rw [List.foldl_map]
      have h : ∀ is : List Nat, ∀ m : Word, (is.foldl (fun m k => if (f (laneVals s c xs k)).1 = true then m ||| laneBit k else m) m).getLsbD i =
          (m.getLsbD i || (decide (i ∈ is) && (f (laneVals s c xs i)).1)) := by
        intro is
        induction is with
        | nil => simp
        | cons k is ih =>
          intro m
          rw [List.foldl_cons, ih]
          by_cases hk : i = k
          · subst hk
            cases hf : (f (laneVals s c xs i)).1 <;> simp [laneBit, hi]
          · have : (laneBit k).getLsbD i = false := by
              simp [laneBit, BitVec.getLsbD_shiftLeft, BitVec.getLsbD_one]; omega
            have hm : (i ∈ k :: is) ↔ i ∈ is := by simp [hk]
            simp only [hm]
            split <;> simp [this]
      have := h (lanesOf c.on) 0#32
      simp only [BitVec.getLsbD_zero, Bool.false_or] at this
      rw [this]
      simp [mem_lanesOf]
    have hon : hasLane c.on i = c.on.getLsbD i := rfl
    simp only [BitVec.getLsbD_or, BitVec.getLsbD_and, BitVec.getLsbD_not, hi, decide_true, Bool.true_and, hbit, hon]
    cases c.on.getLsbD i <;> simp

end

/-- A comparison completes where its group may act and its operands can be read. -/
theorem issue_cmp {p : Pfx} {w : W0} {n : Ctx → Nat} {xs : Srcs} {f : List Word → Bool × BitVec 8} {s : State}
    {u : SubWarp} (hi : Issues s p u) (hr : Readable s (mkCtx s u p) (xs.map (fun x => x.2)) (mkCtx s u p).on) :
    ∃ t, issue p true s (fun c => cmpBody c w (n c) xs f) = .next t ∧ t.report = .done ∧
      Kept s.cur.warp noReg (maskMarks w (n (mkCtx s u p)) (raised (mkCtx s u p) false (fun i => (f (laneVals s (mkCtx s u p) xs i)).2)))
        (s.counted p) t ∧
      raised (mkCtx s u p) false (fun i => (f (laneVals s (mkCtx s u p) xs i)).2) &&& ~~~(t.warp s.cur.warp).flags = 0#8 ∧
      (w.wbs = false → ∀ i, i < 32 → ((t.warp s.cur.warp).mask (n (mkCtx s u p))).getLsbD i =
        if hasLane (mkCtx s u p).on i then (f (laneVals s (mkCtx s u p) xs i)).1
        else ((s.warp s.cur.warp).mask (n (mkCtx s u p))).getLsbD i) := by
  obtain ⟨s1, h1⟩ := hi.predicate
  obtain ⟨n1, q1, k1⟩ := checkPfx_near h1
  have hs := (takeLatches_near s u).trans n1
  obtain ⟨s2, e2, k2, r2, v2⟩ := cmpBody_ok (mkCtx s u p) noReg w (n (mkCtx s u p)) xs f s1 (hr.before n1 q1)
  simp only [laneVals_before n1 q1 hr] at k2 r2 v2
  have k0 := ((takeLatches_kept _ _ _ s u).trans (k1.mono (fun _ h => h.elim) (fun _ h => h.elim))).trans k2
  have hc : s2.cur.warp = s.cur.warp := by rw [State.rest_eq_cur k0.state]
  have ke := complete_kept p s2 u .next hc
  have hco : ((s2.counted p).warp s.cur.warp).mask (n (mkCtx s u p)) = (s2.warp s.cur.warp).mask (n (mkCtx s u p)) := by
    unfold State.counted
    split
    · rw [hc]; simp [Warp.mask]
    · rfl
  have hfl : ((s2.counted p).warp s.cur.warp).flags = (s2.warp s.cur.warp).flags := by
    unfold State.counted
    split
    · rw [hc]; simp
    · rfl
  have hm : (s1.warp s.cur.warp).mask (n (mkCtx s u p)) = (s.warp s.cur.warp).mask (n (mkCtx s u p)) := by
    unfold Warp.mask
    rw [hs.field Warp.k (fun _ => rfl)]
  refine ⟨_, issue_ok hi.sub h1 e2, rfl, (k0.counted rfl p).trans (ke.mono (fun _ h => h) (fun _ h => h.elim)), ?_, ?_⟩
  · exact rose_kept ke (by rw [hfl]; exact r2)
  · intro hw i hil
    rw [ke.masks _ (by simp [noMask]), hco, ← hm]
    exact v2 hw i hil

end Sys2Proof.Machine
end

