-- ==== Sys2Proof/Machine/Images.lean ====
section
/-! DEFINITION. The images in which system software reads a saved context: a split-table entry (R138) and the cue buffer (R219). -/

namespace Sys2Proof.Machine

open Sys2Proof

/-- A number of bits from least significant up, as a number. -/
def bitsNat (bs : List Bool) : Nat := bs.foldr (fun b n => 2 * n + (if b then 1 else 0)) 0

/-- Numbers of 4 bits each, the first in the low half of the first byte. -/
def nibbles (xs : List Nat) : List Byte :=
  (List.range ((xs.length + 1) / 2)).map (fun k => BitVec.ofNat 8 ((xs[2 * k]?).getD 0 % 16 + 16 * ((xs[2 * k + 1]?).getD 0 % 16)))

/-- The first two bytes of a live split entry: valid, the parent's identity, the arrivals, one-sided (R138). -/
def splitHead (z : Split) : Nat :=
  let (entry, side, root) := match z.parent with
    | some (e, k) => (e % 16, k % 2, false)
    | none => (0, 0, true)
  1 + 2 * entry + 32 * side + 64 * bitsNat [root, z.arrived0, z.arrived1, z.oneSided]

/-- The 96 bytes of a live split entry (R138). -/
def Split.image (z : Split) : List Byte :=
  le 2 (splitHead z) ++ [z.parentLabel, z.childLabel] ++ toBytes z.mask0 4 ++ toBytes z.mask1 4 ++ toBytes z.join 8 ++
    (List.range 32).map (fun i => z.parentPath.get 0#8 i) ++ toBytes z.writtenO 2 ++ toBytes z.writtenV 32 ++ toBytes z.writtenS 4 ++ le 6 0

/-- The split table of a warp as a saved context holds it: 16 entries of 96 bytes, zero where an entry is not live (R138). -/
def Warp.splitImage (x : Warp) : List Byte :=
  ((List.range 16).map (fun e => ((x.splits.get? e).map Split.image).getD (List.replicate 96 0#8))).flatten

/-- A per-lane register of the snapshot: 32 values of 4 bytes, then 32 label bytes (R219). -/
def laneImage (m : SMap Reg) (r : Nat) : List Byte :=
  let regs := (List.range 32).map (fun i => m.get Reg.zero (32 * r + i))
  (regs.map (fun x => toBytes x.val 4)).flatten ++ regs.map (fun x => x.lbl)

/-- A uniform register of the snapshot: value, label, three zero bytes (R219). -/
def uniformImage (x : Reg) : List Byte := toBytes x.val 4 ++ [x.lbl] ++ le 3 0

/-- Bytes 0 to 255 of a warp's cue buffer (R219). -/
def Cue.head (c : Cue) (x : Warp) : List Byte :=
  toBytes c.pc 8 ++ toBytes c.sheet 8 ++ ((List.range 16).map (fun k => toBytes ((c.counters[k]?).getD 0#16) 2)).flatten ++
    toBytes c.srseq 4 ++ toBytes c.oMap 2 ++ toBytes c.sMap 2 ++ le 1 c.vBase ++ toBytes c.vMap 1 ++
    le 1 (if c.committed then 1 else 0) ++ le 1 c.rollbacks ++ toBytes c.lanes 4 ++
    nibbles ((List.range 32).map (fun i => ((c.rets.get? i).getD []).length)) ++
    nibbles ((List.range 16).map (fun q => (((x.queues[q]?).getD Queue.free).popped).length)) ++
    ((List.range 4).map (fun k => slice (((c.images[k]?).map (fun i => i.bytes)).getD []) 0 32)).flatten ++
    le 1 (2 ^ min c.images.length 4 - 1) ++ le 39 0

/-- The cue buffer of a warp: its head, then the snapshot's registers, o, v, uniform, each file ascending (R219). -/
def Cue.image (c : Cue) (x : Warp) : List Byte :=
  c.head x ++ (((List.range 16).filter c.oMap.getLsbD).map (laneImage c.o)).flatten ++
    (((List.range 8).filter c.vMap.getLsbD).map (fun k => laneImage c.v (c.vBase + k))).flatten ++
    (((List.range 16).filter c.sMap.getLsbD).map (fun k => uniformImage ((c.s[k]?).getD Reg.zero))).flatten

end Sys2Proof.Machine
end

