-- ==== Sys2Proof/Laws/Images.lean ====
section
/-! SUPPORT. The sizes of the images of a saved context. -/

namespace Sys2Proof.Laws

open Sys2Proof Sys2Proof.Machine

/-- A live split entry takes 768 bits (R138). -/
theorem split_image_length (z : Split) : z.image.length = 96 := by
  simp [Split.image, le, toBytes]

/-- The head of a cue buffer takes 256 bytes (R219). -/
theorem cue_head_length (c : Cue) (x : Warp) : (c.head x).length = 256 := by
  simp [Cue.head, le, toBytes, nibbles, slice, Function.comp_def]

end Sys2Proof.Laws
end

