-- ==== Sys2Proof/Laws/Memory.lean ====
section
/-! SUPPORT. Memory: what a write leaves to be read, and that every operation on a memory keeps its canonical form (R5, R53, R187, R374,
R376). -/

namespace Sys2Proof.Machine

open Sys2Proof

/-! Reading and writing. -/

@[simp] theorem readByte_writeByte_self (m : List Host.Cell) (a : Nat) (b : Byte) : readByte (writeByte m a b) a = b :=
  SMap.get_set_self _ _ _ _

@[simp] theorem readByte_writeByte_ne (m : List Host.Cell) {a x : Nat} (b : Byte) (h : x ≠ a) :
    readByte (writeByte m a b) x = readByte m x :=
  SMap.get_set_ne _ _ _ h

/-- A byte after a write: one of those written, or as before. -/
theorem readByte_writeBytes (m : List Host.Cell) (a : Nat) (bs : List Byte) (x : Nat) :
    readByte (writeBytes m a bs) x = if a ≤ x ∧ x < a + bs.length then (bs[x - a]?).getD 0#8 else readByte m x := by
  induction bs generalizing m a with
  | nil => simp [writeBytes]
  | cons b bs ih =>
    rw [writeBytes, ih, List.length_cons]
    by_cases h : x = a
    · subst h
      rw [if_neg (by omega), if_pos (by omega)]
      simp
    · rw [readByte_writeByte_ne m b h]
      by_cases h' : a + 1 ≤ x ∧ x < a + 1 + bs.length
      · rw [if_pos h', if_pos (by omega), show x - a = (x - (a + 1)) + 1 by omega, List.getElem?_cons_succ]
      · rw [if_neg h', if_neg (by omega)]

/-! The canonical form. -/

theorem writeByte_wf {m : List Host.Cell} (h : Memory.wf m) (a : Nat) (b : Byte) : Memory.wf (writeByte m a b) := SMap.wf_set h a b

theorem writeBytes_wf {m : List Host.Cell} (h : Memory.wf m) (a : Nat) (bs : List Byte) : Memory.wf (writeBytes m a bs) := by
  induction bs generalizing m a with
  | nil => exact h
  | cons b bs ih => exact ih (writeByte_wf h a b) (a + 1)

theorem filter_wf {m : List Host.Cell} (h : Memory.wf m) (f : Host.Cell → Bool) : Memory.wf (m.filter f) := SMap.wfAbove_filter f m 0 h

theorem dropRange_wf {m : List Host.Cell} (h : Memory.wf m) (lo hi : Nat) : Memory.wf (SMap.dropRange m lo hi) := filter_wf h _

theorem Copy.apply_wf {c : Copy} (h : Memory.wf c.bytes) (pa : Nat) (bs : List Byte) (t : Stamp) : Memory.wf (c.apply pa bs t).bytes := by
  unfold Copy.apply
  generalize (List.range bs.length).filter _ = l
  simp only
  generalize hm : c.bytes = m at h
  clear hm
  induction l generalizing m with
  | nil => exact h
  | cons k l ih => exact ih _ (writeByte_wf h _ _)

theorem Spad.use_wf {p : Spad} (h : Memory.wf p.bytes) (a : Nat) : Memory.wf (p.use a).bytes := h
theorem Spad.useAll_bytes (p : Spad) (a n : Nat) : (p.useAll a n).bytes = p.bytes := by
  unfold Spad.useAll
  generalize List.range _ = l
  induction l generalizing p with
  | nil => rfl
  | cons k l ih => exact ih (p.use (a + 64 * k))
theorem Spad.write_wf {p : Spad} (h : Memory.wf p.bytes) (a : Nat) (bs : List Byte) : Memory.wf (p.write a bs).bytes :=
  writeBytes_wf ((Spad.useAll_bytes p a bs.length).symm ▸ h) a bs
theorem Spad.setLabel_wf {p : Spad} (h : Memory.wf p.bytes) (a : Nat) (l : Label) : Memory.wf (p.setLabel a l).bytes := h
theorem Spad.setTag_wf {p : Spad} (h : Memory.wf p.bytes) (k : Nat) (t : Tag) : Memory.wf (p.setTag k t).bytes := h
theorem Spad.fresh_wf : Memory.wf Spad.fresh.bytes := rfl

/-- Canonical above `lo`, with every key below `hi`. -/
theorem SMap.wfAbove_append {α : Type} [DecidableEq α] {d : α} {m n : SMap α} {lo hi : Nat} (hm : m.wfAbove d lo = true)
    (hb : ∀ e, e ∈ m → e.1 < hi) (hl : lo ≤ hi) (hn : n.wfAbove d hi = true) : SMap.wfAbove d lo (m ++ n) = true := by
  induction m generalizing lo with
  | nil => exact SMap.wfAbove_mono hl hn
  | cons e m ih =>
    obtain ⟨k, v⟩ := e
    simp only [SMap.wfAbove, List.cons_append, Bool.and_eq_true, decide_eq_true_eq] at hm ⊢
    have hk := hb (k, v) (by simp)
    exact ⟨hm.1, ih hm.2 (fun e he => hb e (by simp [he])) (by simpa using hk)⟩

theorem SMap.wfAbove_of_filter {α : Type} [DecidableEq α] {d : α} (m : SMap α) (lo k : Nat) (h : m.wfAbove d lo = true) :
    SMap.wfAbove d k (m.filter (fun e => decide (k ≤ e.1))) = true := by
  induction m generalizing lo with
  | nil => rfl
  | cons e m ih =>
    obtain ⟨j, u⟩ := e
    simp only [SMap.wfAbove, Bool.and_eq_true, decide_eq_true_eq] at h
    simp only [List.filter_cons, decide_eq_true_eq]
    split
    · simp only [SMap.wfAbove, Bool.and_eq_true, decide_eq_true_eq]
      exact ⟨⟨‹_›, h.1.2⟩, SMap.wfAbove_filter _ _ _ h.2⟩
    · exact ih _ h.2

theorem SMap.wfAbove_shift {α : Type} [DecidableEq α] {d : α} (m : SMap α) (lo a : Nat) (h : m.wfAbove d lo = true) :
    SMap.wfAbove d (lo + a) (m.map (fun e => (e.1 + a, e.2))) = true := by
  induction m generalizing lo with
  | nil => rfl
  | cons e m ih =>
    obtain ⟨j, u⟩ := e
    simp only [SMap.wfAbove, List.map_cons, Bool.and_eq_true, decide_eq_true_eq] at h ⊢
    have := ih _ h.2
    rw [show j + 1 + a = j + a + 1 by omega] at this
    exact ⟨⟨by omega, h.1.2⟩, this⟩

/-- Putting a slice's image in place of a range keeps the form. -/
theorem graft_wf {m x : List Host.Cell} (hm : Memory.wf m) (hx : Memory.wf x) (a n : Nat) (hb : ∀ e, e ∈ x → e.1 < n) :
    Memory.wf (graft m a n x) := by
  have h0 : SMap.wfAbove unwritten 0 (m.filter (fun e => decide (e.1 < a))) = true := SMap.wfAbove_filter _ _ _ hm
  have h1 : SMap.wfAbove unwritten (0 + a) (x.map (fun e => (e.1 + a, e.2))) = true := SMap.wfAbove_shift _ _ _ hx
  have h2 := SMap.wfAbove_of_filter m 0 (a + n) hm
  rw [Nat.zero_add] at h1
  have h3 := SMap.wfAbove_append (hi := a) h0 (fun e he => by simpa using (List.mem_filter.mp he).2) (Nat.zero_le _) h1
  refine SMap.wfAbove_append (hi := a + n) h3 (fun e he => ?_) (Nat.zero_le _) h2
  rcases List.mem_append.mp he with h | h
  · have : e.1 < a := by simpa using (List.mem_filter.mp h).2
    omega
  · obtain ⟨y, hy, rfl⟩ := List.mem_map.mp h
    have := hb y hy
    simp only
    omega

/-- The keys of a range, counted from its start, stay in the form. -/
theorem rebase_wf {m : List Host.Cell} (h : Memory.wf m) (a n : Nat) : Memory.wf (rebase m a 0 n) := by
  have hf : SMap.wfAbove unwritten a (SMap.inRange m a (a + n)) = true := by
    have := SMap.wfAbove_filter (fun e => decide (e.1 < a + n)) _ a (SMap.wfAbove_of_filter m 0 a h)
    rwa [List.filter_filter, show (fun e : Nat × Byte => decide (e.1 < a + n) && decide (a ≤ e.1)) =
      (fun e => decide (a ≤ e.1) && decide (e.1 < a + n)) from funext (fun e => Bool.and_comm _ _)] at this
  revert hf
  unfold rebase Memory.wf SMap.wf
  generalize SMap.inRange m a (a + n) = l
  suffices ∀ k, SMap.wfAbove unwritten (a + k) l = true → SMap.wfAbove unwritten k (l.map (fun e => (e.1 - a + 0, e.2))) = true from this 0
  induction l with
  | nil => intro k _; rfl
  | cons e l ih =>
    intro k hk
    obtain ⟨j, u⟩ := e
    simp only [SMap.wfAbove, List.map_cons, Bool.and_eq_true, decide_eq_true_eq] at hk ⊢
    refine ⟨⟨by omega, hk.1.2⟩, ?_⟩
    have := ih (j - a + 1) (by rw [show a + (j - a + 1) = j + 1 by omega]; exact hk.2)
    simpa using this

/-- Memory at reset is in canonical form. -/
theorem reset_memoryWf : State.reset.MemoryWf :=
  ⟨by decide +kernel, rfl, by simp [State.reset], by simp [State.reset], by simp [State.reset]⟩

end Sys2Proof.Machine
end

