-- ==== Sys2Proof/Laws/PerInstr.lean ====
section
/-! SUPPORT. What the decoder makes of the parts of a well-formed instruction, instruction by instruction: from the parts of its words it
reads the instruction back, and it accepts the PFX words that it carries (R94 to R97, R104, R105). -/

namespace Sys2Proof.Laws.Words

open Sys2Proof Machine WF

/-- From the parts of a well-formed instruction the decoder reads the instruction, whose PFX words it accepts. -/
def Statement (i : Instr) : Prop :=
  i.wf = true → ∀ q, i.parts = some q →
    q.instr = some i ∧ i.acc.ok q.pfx = true ∧ ∀ r, q.pfx.rs = some r → r.rnd = .sr ∨ r.key = 0#4

/-- The key of a PFX.RS that an instruction accepts (R95). -/
theorem rsOk_key {a : RSA} {p : Pfx} {r : PfxRS} (h : rsOk a p = true) (hr : p.rs = some r) : r.rnd = .sr ∨ r.key = 0#4 := by
  simp only [rsOk, hr, Bool.and_eq_true, Bool.or_eq_true, beq_iff_eq] at h
  exact h.2

/-- An instruction whose check reads so, and whose fields choose it among those of its opcode. -/
theorem chosen {i : Instr} {q : Parts} {r : RSA} {x : Bool} (hp : i.parts = some q) (hw : i.wf = (i.acc.ok q.pfx && rsOk r q.pfx && x))
    (hi : x = true → q.instr = some i) : Statement i := by
  intro h q' hq'
  rw [hp] at hq'
  cases hq'
  rw [hw, Bool.and_eq_true, Bool.and_eq_true] at h
  exact ⟨hi h.2, h.1.1, fun _ hr => rsOk_key h.1.2 hr⟩

/-- An instruction that its opcode alone names. -/
theorem words {i : Instr} {q : Parts} {r : RSA} {x : Bool} (hp : i.parts = some q) (hw : i.wf = (i.acc.ok q.pfx && rsOk r q.pfx && x))
    (hi : q.instr = some i) : Statement i := chosen hp hw (fun _ => hi)

/-- A hint, whose PFX words are none. -/
theorem hints {i : Instr} {q : Parts} (hp : i.parts = some q) (hx : q.pfx = Pfx.none) (ha : i.acc.ok Pfx.none = true) (hi : q.instr = some i) :
    Statement i := by
  intro _ q' hq'
  rw [hp] at hq'
  cases hq'
  rw [hx]
  exact ⟨hi, ha, fun _ hr => by cases hr⟩

/-- An event has no words. -/
theorem events {i : Instr} (hp : i.parts = none) : Statement i := fun _ _ h => by rw [hp] at h; cases h

/-! Fields read as bits or as numbers. -/

theorem tag_one {d : BitVec 6} (h : (bitsN d.toNat 3 3 == 1) = true) : (field d 3 3 == 1#3) = true := by
  revert d; decide

theorem sel_eq {v : BitVec 16} {k : Nat} (h : (bitsN v.toNat 6 10 == k) = true) : (field v 6 10 == BitVec.ofNat 10 k) = true := by
  simp only [beq_iff_eq, bitsN] at h ⊢
  rw [← h]
  apply BitVec.eq_of_toNat_eq
  simp [field, Nat.shiftRight_eq_div_pow]

theorem sel_zero {x : W1} (h : hiBelow x 64 = true) : field x.hi 6 10 = 0#10 := by
  simp only [hiBelow, decide_eq_true_eq] at h
  apply BitVec.eq_of_toNat_eq
  simp [field, Nat.shiftRight_eq_div_pow]
  omega

theorem bit_one (v : BitVec 16) : bitN v.toNat 1 = v.getLsbD 1 := by
  simp [bitN, BitVec.getLsbD, Nat.testBit, Nat.shiftRight_eq_div_pow]

theorem nop : Statement .nop := hints rfl rfl rfl rfl
theorem iadd_32 p w : Statement (.iadd_32 p w) := words rfl rfl rfl
theorem iadd_64 p w x : Statement (.iadd_64 p w x) := words rfl rfl rfl
theorem iadd_96 p w x lit : Statement (.iadd_96 p w x lit) := words rfl rfl rfl
theorem isub_32 p w : Statement (.isub_32 p w) := words rfl rfl rfl
theorem isub_64 p w x : Statement (.isub_64 p w x) := words rfl rfl rfl
theorem isub_96 p w x lit : Statement (.isub_96 p w x lit) := words rfl rfl rfl
theorem iaddc_32 p w : Statement (.iaddc_32 p w) := words rfl rfl rfl
theorem iaddc_64 p w x : Statement (.iaddc_64 p w x) := words rfl rfl rfl
theorem iaddc_96 p w x lit : Statement (.iaddc_96 p w x lit) := words rfl rfl rfl
theorem imul_32 p w : Statement (.imul_32 p w) := words rfl rfl rfl
theorem imul_64 p w x : Statement (.imul_64 p w x) := words rfl rfl rfl
theorem imul_96 p w x lit : Statement (.imul_96 p w x lit) := words rfl rfl rfl
theorem imulh_32 p w : Statement (.imulh_32 p w) := words rfl rfl rfl
theorem imulh_64 p w x : Statement (.imulh_64 p w x) := words rfl rfl rfl
theorem imulh_96 p w x lit : Statement (.imulh_96 p w x lit) := words rfl rfl rfl
theorem imad_32 p w : Statement (.imad_32 p w) := words rfl rfl rfl
theorem imad_64 p w x : Statement (.imad_64 p w x) := words rfl rfl rfl
theorem imad_96 p w x lit : Statement (.imad_96 p w x lit) := words rfl rfl rfl
theorem imadw_32 p w : Statement (.imadw_32 p w) := words rfl rfl rfl
theorem imadw_64 p w x : Statement (.imadw_64 p w x) := words rfl rfl rfl
theorem imadw_96 p w x lit : Statement (.imadw_96 p w x lit) := words rfl rfl rfl
theorem imin_32 p w : Statement (.imin_32 p w) := words rfl rfl rfl
theorem imin_64 p w x : Statement (.imin_64 p w x) := words rfl rfl rfl
theorem imin_96 p w x lit : Statement (.imin_96 p w x lit) := words rfl rfl rfl
theorem imax_32 p w : Statement (.imax_32 p w) := words rfl rfl rfl
theorem imax_64 p w x : Statement (.imax_64 p w x) := words rfl rfl rfl
theorem imax_96 p w x lit : Statement (.imax_96 p w x lit) := words rfl rfl rfl
theorem and_32 p w : Statement (.and_32 p w) := words rfl rfl rfl
theorem and_64 p w x : Statement (.and_64 p w x) := words rfl rfl rfl
theorem and_96 p w x lit : Statement (.and_96 p w x lit) := words rfl rfl rfl
theorem or_32 p w : Statement (.or_32 p w) := words rfl rfl rfl
theorem or_64 p w x : Statement (.or_64 p w x) := words rfl rfl rfl
theorem or_96 p w x lit : Statement (.or_96 p w x lit) := words rfl rfl rfl
theorem xor_32 p w : Statement (.xor_32 p w) := words rfl rfl rfl
theorem xor_64 p w x : Statement (.xor_64 p w x) := words rfl rfl rfl
theorem xor_96 p w x lit : Statement (.xor_96 p w x lit) := words rfl rfl rfl
theorem andn_32 p w : Statement (.andn_32 p w) := words rfl rfl rfl
theorem andn_64 p w x : Statement (.andn_64 p w x) := words rfl rfl rfl
theorem andn_96 p w x lit : Statement (.andn_96 p w x lit) := words rfl rfl rfl
theorem bool3_64 p w x : Statement (.bool3_64 p w x) := words rfl rfl rfl
theorem bool3_96 p w x lit : Statement (.bool3_96 p w x lit) := words rfl rfl rfl
theorem shl_32 p w : Statement (.shl_32 p w) := words rfl rfl rfl
theorem shl_64 p w x : Statement (.shl_64 p w x) := words rfl rfl rfl
theorem shl_96 p w x lit : Statement (.shl_96 p w x lit) := words rfl rfl rfl
theorem shr_32 p w : Statement (.shr_32 p w) := words rfl rfl rfl
theorem shr_64 p w x : Statement (.shr_64 p w x) := words rfl rfl rfl
theorem shr_96 p w x lit : Statement (.shr_96 p w x lit) := words rfl rfl rfl
theorem sar_32 p w : Statement (.sar_32 p w) := words rfl rfl rfl
theorem sar_64 p w x : Statement (.sar_64 p w x) := words rfl rfl rfl
theorem sar_96 p w x lit : Statement (.sar_96 p w x lit) := words rfl rfl rfl
theorem rot_32 p w : Statement (.rot_32 p w) := words rfl rfl rfl
theorem rot_64 p w x : Statement (.rot_64 p w x) := words rfl rfl rfl
theorem rot_96 p w x lit : Statement (.rot_96 p w x lit) := words rfl rfl rfl
theorem shf_32 p w : Statement (.shf_32 p w) := words rfl rfl rfl
theorem shf_64 p w x : Statement (.shf_64 p w x) := words rfl rfl rfl
theorem shf_96 p w x lit : Statement (.shf_96 p w x lit) := words rfl rfl rfl
theorem bfx_32 p w : Statement (.bfx_32 p w) := words rfl rfl rfl
theorem bfx_64 p w x : Statement (.bfx_64 p w x) := words rfl rfl rfl
theorem bfx_96 p w x lit : Statement (.bfx_96 p w x lit) := words rfl rfl rfl
theorem bfi_32 p w : Statement (.bfi_32 p w) := words rfl rfl rfl
theorem bfi_64 p w x : Statement (.bfi_64 p w x) := words rfl rfl rfl
theorem bfi_96 p w x lit : Statement (.bfi_96 p w x lit) := words rfl rfl rfl
theorem prmt_32 p w : Statement (.prmt_32 p w) := words rfl rfl rfl
theorem prmt_64 p w x : Statement (.prmt_64 p w x) := words rfl rfl rfl
theorem prmt_96 p w x lit : Statement (.prmt_96 p w x lit) := words rfl rfl rfl
theorem icmp_32 p w : Statement (.icmp_32 p w) := words rfl rfl rfl
theorem icmp_64 p w x : Statement (.icmp_64 p w x) := words rfl rfl rfl
theorem icmp_96 p w x lit : Statement (.icmp_96 p w x lit) := words rfl rfl rfl
theorem isel_32 p w : Statement (.isel_32 p w) := words rfl rfl rfl
theorem isel_64 p w x : Statement (.isel_64 p w x) := words rfl rfl rfl
theorem isel_96 p w x lit : Statement (.isel_96 p w x lit) := words rfl rfl rfl
theorem lea_32 p w : Statement (.lea_32 p w) := words rfl rfl rfl
theorem lea_64 p w x : Statement (.lea_64 p w x) := words rfl rfl rfl
theorem lea_96 p w x lit : Statement (.lea_96 p w x lit) := words rfl rfl rfl
theorem fadd_32 p w : Statement (.fadd_32 p w) := words rfl rfl rfl
theorem fadd_64 p w x : Statement (.fadd_64 p w x) := words rfl rfl rfl
theorem fadd_96 p w x lit : Statement (.fadd_96 p w x lit) := words rfl rfl rfl
theorem fmul_32 p w : Statement (.fmul_32 p w) := words rfl rfl rfl
theorem fmul_64 p w x : Statement (.fmul_64 p w x) := words rfl rfl rfl
theorem fmul_96 p w x lit : Statement (.fmul_96 p w x lit) := words rfl rfl rfl
theorem ffma_32 p w : Statement (.ffma_32 p w) := words rfl rfl rfl
theorem ffma_64 p w x : Statement (.ffma_64 p w x) := words rfl rfl rfl
theorem ffma_96 p w x lit : Statement (.ffma_96 p w x lit) := words rfl rfl rfl
theorem fmin_32 p w : Statement (.fmin_32 p w) := words rfl rfl rfl
theorem fmin_64 p w x : Statement (.fmin_64 p w x) := words rfl rfl rfl
theorem fmin_96 p w x lit : Statement (.fmin_96 p w x lit) := words rfl rfl rfl
theorem fmax_32 p w : Statement (.fmax_32 p w) := words rfl rfl rfl
theorem fmax_64 p w x : Statement (.fmax_64 p w x) := words rfl rfl rfl
theorem fmax_96 p w x lit : Statement (.fmax_96 p w x lit) := words rfl rfl rfl
theorem fcmp_32 p w : Statement (.fcmp_32 p w) := words rfl rfl rfl
theorem fcmp_64 p w x : Statement (.fcmp_64 p w x) := words rfl rfl rfl
theorem fcmp_96 p w x lit : Statement (.fcmp_96 p w x lit) := words rfl rfl rfl
theorem hadd2_32 p w : Statement (.hadd2_32 p w) := words rfl rfl rfl
theorem hadd2_64 p w x : Statement (.hadd2_64 p w x) := words rfl rfl rfl
theorem hadd2_96 p w x lit : Statement (.hadd2_96 p w x lit) := words rfl rfl rfl
theorem hmul2_32 p w : Statement (.hmul2_32 p w) := words rfl rfl rfl
theorem hmul2_64 p w x : Statement (.hmul2_64 p w x) := words rfl rfl rfl
theorem hmul2_96 p w x lit : Statement (.hmul2_96 p w x lit) := words rfl rfl rfl
theorem hfma2_32 p w : Statement (.hfma2_32 p w) := words rfl rfl rfl
theorem hfma2_64 p w x : Statement (.hfma2_64 p w x) := words rfl rfl rfl
theorem hfma2_96 p w x lit : Statement (.hfma2_96 p w x lit) := words rfl rfl rfl
theorem hmin2_32 p w : Statement (.hmin2_32 p w) := words rfl rfl rfl
theorem hmin2_64 p w x : Statement (.hmin2_64 p w x) := words rfl rfl rfl
theorem hmin2_96 p w x lit : Statement (.hmin2_96 p w x lit) := words rfl rfl rfl
theorem hmax2_32 p w : Statement (.hmax2_32 p w) := words rfl rfl rfl
theorem hmax2_64 p w x : Statement (.hmax2_64 p w x) := words rfl rfl rfl
theorem hmax2_96 p w x lit : Statement (.hmax2_96 p w x lit) := words rfl rfl rfl
theorem hcmp2_32 p w : Statement (.hcmp2_32 p w) := words rfl rfl rfl
theorem hcmp2_64 p w x : Statement (.hcmp2_64 p w x) := words rfl rfl rfl
theorem hcmp2_96 p w x lit : Statement (.hcmp2_96 p w x lit) := words rfl rfl rfl
theorem cvt_32 p w : Statement (.cvt_32 p w) := words rfl rfl rfl
theorem cvt_64 p w x : Statement (.cvt_64 p w x) := words rfl rfl rfl
theorem cvtp_32 p w : Statement (.cvtp_32 p w) := words rfl rfl rfl
theorem cvtp_64 p w x : Statement (.cvtp_64 p w x) := words rfl rfl rfl
theorem cvtu_32 p w : Statement (.cvtu_32 p w) := words rfl rfl rfl
theorem cvtu_64 p w x : Statement (.cvtu_64 p w x) := words rfl rfl rfl
theorem scl_32 p w : Statement (.scl_32 p w) := words rfl rfl rfl
theorem scl_64 p w x : Statement (.scl_64 p w x) := words rfl rfl rfl
theorem dot2_32 p w : Statement (.dot2_32 p w) := words rfl rfl rfl
theorem dot2_64 p w x : Statement (.dot2_64 p w x) := words rfl rfl rfl
theorem dot4_32 p w : Statement (.dot4_32 p w) := words rfl rfl rfl
theorem dot4_64 p w x : Statement (.dot4_64 p w x) := words rfl rfl rfl
theorem dot8_32 p w : Statement (.dot8_32 p w) := words rfl rfl rfl
theorem dot8_64 p w x : Statement (.dot8_64 p w x) := words rfl rfl rfl
theorem movo p w x : Statement (.movo p w x) := words rfl rfl rfl
theorem movm p w x : Statement (.movm p w x) := words rfl rfl rfl
theorem movu_32 p w : Statement (.movu_32 p w) := words rfl rfl rfl
theorem movu_64 p w x : Statement (.movu_64 p w x) := words rfl rfl rfl
theorem ldi_64 p w x : Statement (.ldi_64 p w x) := words rfl rfl rfl
theorem ldi_96 p w x lit : Statement (.ldi_96 p w x lit) := words rfl rfl rfl
theorem bra_64 p w x : Statement (.bra_64 p w x) := words rfl rfl rfl
theorem bra_96 p w x lit : Statement (.bra_96 p w x lit) := words rfl rfl rfl
theorem brx p w x : Statement (.brx p w x) := words rfl rfl rfl
theorem pad p w : Statement (.pad p w) := words rfl rfl rfl
theorem call_64 p w x : Statement (.call_64 p w x) := words rfl rfl rfl
theorem call_96 p w x lit : Statement (.call_96 p w x lit) := words rfl rfl rfl
theorem callx p w x : Statement (.callx p w x) := words rfl rfl rfl
theorem ret p w : Statement (.ret p w) := words rfl rfl rfl
theorem exit p w : Statement (.exit p w) := words rfl rfl rfl
theorem cue_64 p w x : Statement (.cue_64 p w x) := words rfl rfl rfl
theorem cue_96 p w x lit : Statement (.cue_96 p w x lit) := words rfl rfl rfl
theorem trap_32 p w : Statement (.trap_32 p w) := words rfl rfl rfl
theorem trap_64 p w x : Statement (.trap_64 p w x) := words rfl rfl rfl
theorem census_32 p w : Statement (.census_32 p w) := words rfl rfl rfl
theorem census_64 p w x : Statement (.census_64 p w x) := words rfl rfl rfl
theorem pick_32 p w : Statement (.pick_32 p w) := words rfl rfl rfl
theorem pick_64 p w x : Statement (.pick_64 p w x) := words rfl rfl rfl
theorem peers_32 p w : Statement (.peers_32 p w) := words rfl rfl rfl
theorem peers_64 p w x : Statement (.peers_64 p w x) := words rfl rfl rfl
theorem qx_32 p w : Statement (.qx_32 p w) := words rfl rfl rfl
theorem qx_64 p w x : Statement (.qx_64 p w x) := words rfl rfl rfl
theorem red_32 p w : Statement (.red_32 p w) := words rfl rfl rfl
theorem red_64 p w x : Statement (.red_64 p w x) := words rfl rfl rfl
theorem scan_32 p w : Statement (.scan_32 p w) := words rfl rfl rfl
theorem scan_64 p w x : Statement (.scan_64 p w x) := words rfl rfl rfl
theorem draw p w x : Statement (.draw p w x) := words rfl rfl rfl
theorem drawm p w x : Statement (.drawm p w x) := words rfl rfl rfl
theorem lraise_32 p w : Statement (.lraise_32 p w) := words rfl rfl rfl
theorem lraise_64 p w x : Statement (.lraise_64 p w x) := words rfl rfl rfl
theorem ld_32 p w : Statement (.ld_32 p w) := words rfl rfl rfl
theorem ld_64 p w x : Statement (.ld_64 p w x) := words rfl rfl rfl
theorem ld_96 p w x lit : Statement (.ld_96 p w x lit) := words rfl rfl rfl
theorem st_32 p w : Statement (.st_32 p w) := words rfl rfl rfl
theorem st_64 p w x : Statement (.st_64 p w x) := words rfl rfl rfl
theorem st_96 p w x lit : Statement (.st_96 p w x lit) := words rfl rfl rfl
theorem lds_32 p w : Statement (.lds_32 p w) := words rfl rfl rfl
theorem lds_64 p w x : Statement (.lds_64 p w x) := words rfl rfl rfl
theorem lds_96 p w x lit : Statement (.lds_96 p w x lit) := words rfl rfl rfl
theorem sts_32 p w : Statement (.sts_32 p w) := words rfl rfl rfl
theorem sts_64 p w x : Statement (.sts_64 p w x) := words rfl rfl rfl
theorem sts_96 p w x lit : Statement (.sts_96 p w x lit) := words rfl rfl rfl
theorem ldf_32 p w : Statement (.ldf_32 p w) := words rfl rfl rfl
theorem ldf_64 p w x : Statement (.ldf_64 p w x) := words rfl rfl rfl
theorem ste_32 p w : Statement (.ste_32 p w) := words rfl rfl rfl
theorem ste_64 p w x : Statement (.ste_64 p w x) := words rfl rfl rfl
theorem ldx_64 p w x : Statement (.ldx_64 p w x) := words rfl rfl rfl
theorem ldx_96 p w x lit : Statement (.ldx_96 p w x lit) := words rfl rfl rfl
theorem waitc p w x : Statement (.waitc p w x) := words rfl rfl rfl
theorem atom p w x : Statement (.atom p w x) := words rfl rfl rfl
theorem atoms p w x : Statement (.atoms p w x) := words rfl rfl rfl
theorem rdm p w x : Statement (.rdm p w x) := words rfl rfl rfl
theorem fence p w : Statement (.fence p w) := words rfl rfl rfl
theorem bar_32 p w : Statement (.bar_32 p w) := words rfl rfl rfl
theorem bar_64 p w x : Statement (.bar_64 p w x) := words rfl rfl rfl
theorem barw p w : Statement (.barw p w) := words rfl rfl rfl
theorem prf_32 p w : Statement (.prf_32 p w) := words rfl rfl rfl
theorem prf_64 p w x : Statement (.prf_64 p w x) := words rfl rfl rfl
theorem graise p w : Statement (.graise p w) := words rfl rfl rfl
theorem glbl p w : Statement (.glbl p w) := words rfl rfl rfl
theorem qbind p w : Statement (.qbind p w) := words rfl rfl rfl
theorem qpoll p w : Statement (.qpoll p w) := words rfl rfl rfl
theorem qrd p w : Statement (.qrd p w) := words rfl rfl rfl
theorem qwr p w : Statement (.qwr p w) := words rfl rfl rfl
theorem mx_fmt p w x : Statement (.mx_fmt p w x) := words rfl rfl rfl
theorem mx_ldb p w x : Statement (.mx_ldb p w x) := words rfl rfl rfl
theorem mx_mma p w x : Statement (.mx_mma p w x) := words rfl rfl rfl
theorem mx_mmas p w x : Statement (.mx_mmas p w x) := words rfl rfl rfl
theorem mx_zero p w x : Statement (.mx_zero p w x) := words rfl rfl rfl
theorem mx_rd p w x : Statement (.mx_rd p w x) := words rfl rfl rfl
theorem mx_wr p w x : Statement (.mx_wr p w x) := words rfl rfl rfl
theorem mx_rdv p w x : Statement (.mx_rdv p w x) := words rfl rfl rfl
theorem mx_qnt p w x : Statement (.mx_qnt p w x) := words rfl rfl rfl
theorem xf_copy_64 p w x : Statement (.xf_copy_64 p w x) := words rfl rfl rfl
theorem xf_copy_96 p w x lit : Statement (.xf_copy_96 p w x lit) := words rfl rfl rfl
theorem xf_pref p w x : Statement (.xf_pref p w x) := words rfl rfl rfl
theorem xf_yield p w x : Statement (.xf_yield p w x) := words rfl rfl rfl
theorem bobj_init p w x : Statement (.bobj_init p w x) := words rfl rfl rfl
theorem cl_put p w x : Statement (.cl_put p w x) := words rfl rfl rfl
theorem cl_get p w x : Statement (.cl_get p w x) := words rfl rfl rfl
theorem cl_red p w x : Statement (.cl_red p w x) := words rfl rfl rfl
theorem cl_atom p w x : Statement (.cl_atom p w x) := words rfl rfl rfl
theorem cl_draw p w x : Statement (.cl_draw p w x) := words rfl rfl rfl
theorem cl_sig p w x : Statement (.cl_sig p w x) := words rfl rfl rfl
theorem mb_open p w x : Statement (.mb_open p w x) := words rfl rfl rfl
theorem mb_send_32 p w : Statement (.mb_send_32 p w) := words rfl rfl rfl
theorem lock_32 p w : Statement (.lock_32 p w) := words rfl rfl rfl
theorem lock_64 p w x : Statement (.lock_64 p w x) := words rfl rfl rfl
theorem trylock_32 p w : Statement (.trylock_32 p w) := words rfl rfl rfl
theorem trylock_64 p w x : Statement (.trylock_64 p w x) := words rfl rfl rfl
theorem unlock_32 p w : Statement (.unlock_32 p w) := words rfl rfl rfl
theorem unlock_64 p w x : Statement (.unlock_64 p w x) := words rfl rfl rfl
theorem promise p w : Statement (.promise p w) := words rfl rfl rfl
theorem heir p w x : Statement (.heir p w x) := words rfl rfl rfl
theorem launch p w x : Statement (.launch p w x) := words rfl rfl rfl
theorem nop_h0 w : Statement (.nop_h0 w) := hints rfl rfl rfl rfl
theorem nop_h1 w : Statement (.nop_h1 w) := hints rfl rfl rfl rfl
theorem nop_h2 w : Statement (.nop_h2 w) := hints rfl rfl rfl rfl
theorem nop_h3 w : Statement (.nop_h3 w) := hints rfl rfl rfl rfl
theorem ineg p w : Statement (.ineg p w) := words rfl rfl rfl
theorem iabs p w : Statement (.iabs p w) := words rfl rfl rfl
theorem popc p w : Statement (.popc p w) := words rfl rfl rfl
theorem clz p w : Statement (.clz p w) := words rfl rfl rfl
theorem ctz p w : Statement (.ctz p w) := words rfl rfl rfl
theorem brev p w : Statement (.brev p w) := words rfl rfl rfl
theorem frcp p w : Statement (.frcp p w) := words rfl rfl rfl
theorem frsq p w : Statement (.frsq p w) := words rfl rfl rfl
theorem fsqrt p w : Statement (.fsqrt p w) := words rfl rfl rfl
theorem fexp2 p w : Statement (.fexp2 p w) := words rfl rfl rfl
theorem flog2 p w : Statement (.flog2 p w) := words rfl rfl rfl
theorem fsin p w : Statement (.fsin p w) := words rfl rfl rfl
theorem fcos p w : Statement (.fcos p w) := words rfl rfl rfl
theorem ftanh p w : Statement (.ftanh p w) := words rfl rfl rfl
theorem frnd p w : Statement (.frnd p w) := words rfl rfl rfl
theorem ffrc p w : Statement (.ffrc p w) := words rfl rfl rfl
theorem kill p w : Statement (.kill p w) := words rfl rfl rfl
theorem syncw p w : Statement (.syncw p w) := words rfl rfl rfl
theorem yield p w : Statement (.yield p w) := words rfl rfl rfl
theorem bkpt p w : Statement (.bkpt p w) := words rfl rfl rfl
theorem elect p w : Statement (.elect p w) := words rfl rfl rfl
theorem lget p w : Statement (.lget p w) := words rfl rfl rfl
theorem qfree p w : Statement (.qfree p w) := words rfl rfl rfl
theorem rett p w : Statement (.rett p w) := words rfl rfl rfl
theorem tclr p w : Statement (.tclr p w) := words rfl rfl rfl
theorem tmask p w : Statement (.tmask p w) := words rfl rfl rfl
theorem halt p w : Statement (.halt p w) := words rfl rfl rfl
theorem mx_gang p w : Statement (.mx_gang p w) := words rfl rfl rfl
theorem mx_wait p w : Statement (.mx_wait p w) := words rfl rfl rfl
theorem mx_drop p w : Statement (.mx_drop p w) := words rfl rfl rfl
theorem xf_wait p w : Statement (.xf_wait p w) := words rfl rfl rfl
theorem xf_cancel p w : Statement (.xf_cancel p w) := words rfl rfl rfl
theorem bobj_arv p w : Statement (.bobj_arv p w) := words rfl rfl rfl
theorem cl_flush p w : Statement (.cl_flush p w) := words rfl rfl rfl
theorem mb_ver p w : Statement (.mb_ver p w) := words rfl rfl rfl
theorem mb_mode p w : Statement (.mb_mode p w) := words rfl rfl rfl
theorem will p w : Statement (.will p w) := words rfl rfl rfl
theorem estq p w : Statement (.estq p w) := words rfl rfl rfl
theorem lwait p w : Statement (.lwait p w) := words rfl rfl rfl
theorem delivery_fault w : Statement (.delivery_fault w) := events rfl
theorem store_apply_at_home f : Statement (.store_apply_at_home f) := events rfl
theorem replica_apply die f : Statement (.replica_apply die f) := events rfl
theorem ldx_reply w id lane : Statement (.ldx_reply w id lane) := events rfl
theorem ldf_ste_lane_complete w lane : Statement (.ldf_ste_lane_complete w lane) := events rfl
theorem queue_held_entry_deliver w q : Statement (.queue_held_entry_deliver w q) := events rfl
theorem preemption_request w : Statement (.preemption_request w) := events rfl
theorem full_save w : Statement (.full_save w) := events rfl
theorem resume w core : Statement (.resume w core) := events rfl
theorem conveyance core : Statement (.conveyance core) := events rfl
theorem probate_delivery g : Statement (.probate_delivery g) := events rfl
theorem lock_retry w : Statement (.lock_retry w) := events rfl
theorem rendezvous_release quad : Statement (.rendezvous_release quad) := events rfl
theorem mx_consumed cmd : Statement (.mx_consumed cmd) := events rfl
theorem mx_done cmd : Statement (.mx_done cmd) := events rfl
theorem audit_verdict die n original replay1 replay2 : Statement (.audit_verdict die n original replay1 replay2) := events rfl
theorem cl_audit_verdict cmd agree : Statement (.cl_audit_verdict cmd agree) := events rfl
theorem copy_complete cmd words : Statement (.copy_complete cmd words) := events rfl
theorem prefetch_arrival cmd : Statement (.prefetch_arrival cmd) := events rfl
theorem xf_yield_resume cmd : Statement (.xf_yield_resume cmd) := events rfl
theorem slot_start cmd estimate : Statement (.slot_start cmd estimate) := events rfl
theorem cl_peer_apply cmd lane peer : Statement (.cl_peer_apply cmd lane peer) := events rfl
theorem cl_complete cmd : Statement (.cl_complete cmd) := events rfl
theorem switch_write_back vd line : Statement (.switch_write_back vd line) := events rfl
theorem write_back_at_home k : Statement (.write_back_at_home k) := events rfl
theorem await die core : Statement (.await die core) := events rfl
theorem await_wake die core : Statement (.await_wake die core) := events rfl
theorem end_ die core : Statement (.end_ die core) := events rfl
theorem u_mode_exception die core : Statement (.u_mode_exception die core) := events rfl
theorem mbpop die core : Statement (.mbpop die core) := events rfl
theorem mbpush die core : Statement (.mbpush die core) := events rfl
theorem observation_delivery die mb : Statement (.observation_delivery die mb) := events rfl
theorem watchdog die core cycles : Statement (.watchdog die core cycles) := events rfl
theorem episode_create req e : Statement (.episode_create req e) := events rfl
theorem episode_end req die id : Statement (.episode_end req die id) := events rfl
theorem mbcfg_write req die mb v : Statement (.mbcfg_write req die mb v) := events rfl
theorem mbdrop_read req die mb : Statement (.mbdrop_read req die mb) := events rfl
theorem mbstat_read die core : Statement (.mbstat_read die core) := events rfl
theorem launch_port_store req vd port whole bytes : Statement (.launch_port_store req vd port whole bytes) := events rfl
theorem lpstat_read req vd port : Statement (.lpstat_read req vd port) := events rfl
theorem deal : Statement (.deal) := events rfl
theorem block_start core : Statement (.block_start core) := events rfl
theorem steal die cluster : Statement (.steal die cluster) := events rfl
theorem grid_complete g : Statement (.grid_complete g) := events rfl
theorem virtual_time_charge cycles : Statement (.virtual_time_charge cycles) := events rfl
theorem slice_end partition : Statement (.slice_end partition) := events rfl
theorem gfpop req vd whole : Statement (.gfpop req vd whole) := events rfl
theorem gfstat_read req vd : Statement (.gfstat_read req vd) := events rfl
theorem vdcreate req a : Statement (.vdcreate req a) := events rfl
theorem vdreset req vd : Statement (.vdreset req vd) := events rfl
theorem vdfree req vd : Statement (.vdfree req vd) := events rfl
theorem grant_install req body sigs : Statement (.grant_install req body sigs) := events rfl
theorem grant_revoke req vd slot : Statement (.grant_revoke req vd slot) := events rfl
theorem migout req vd dest reachable : Statement (.migout req vd dest reachable) := events rfl
theorem migin req a : Statement (.migin req a) := events rfl
theorem migabort req ticket : Statement (.migabort req ticket) := events rfl
theorem migration_complete ticket : Statement (.migration_complete ticket) := events rfl
theorem ticket_expiry ticket : Statement (.ticket_expiry ticket) := events rfl
theorem msnap req vd nonce : Statement (.msnap req vd nonce) := events rfl
theorem attest req nonce : Statement (.attest req nonce) := events rfl
theorem fwload req kind image sig : Statement (.fwload req kind image sig) := events rfl
theorem lcset req target nonce sig : Statement (.lcset req target nonce sig) := events rfl
theorem dbgattach req vd enable sigs : Statement (.dbgattach req vd enable sigs) := events rfl
theorem sbstat_read req : Statement (.sbstat_read req) := events rfl
theorem qown_write req quad v : Statement (.qown_write req quad v) := events rfl
theorem sown_write req sl v : Statement (.sown_write req sl v) := events rfl
theorem mapsync req vd whole v : Statement (.mapsync req vd whole v) := events rfl
theorem mapsync_done vd : Statement (.mapsync_done vd) := events rfl
theorem parkgo req vd serial : Statement (.parkgo req vd serial) := events rfl
theorem parkkill req vd serial : Statement (.parkkill req vd serial) := events rfl
theorem mapstat_read req vd : Statement (.mapstat_read req vd) := events rfl
theorem xwin_write req vd n v : Statement (.xwin_write req vd n v) := events rfl
theorem evpop req vd whole : Statement (.evpop req vd whole) := events rfl
theorem hvpop req whole : Statement (.hvpop req whole) := events rfl
theorem event_record_release vd : Statement (.event_record_release vd) := events rfl
theorem vdstat_read req vd : Statement (.vdstat_read req vd) := events rfl
theorem hvstat_read req : Statement (.hvstat_read req) := events rfl
theorem qstat_read req stack : Statement (.qstat_read req stack) := events rfl
theorem quench_clear stack : Statement (.quench_clear stack) := events rfl
theorem row_mitigation stack bank row vd : Statement (.row_mitigation stack bank row vd) := events rfl
theorem metering_tick counts : Statement (.metering_tick counts) := events rfl
theorem bellows_period caps clocks budgets : Statement (.bellows_period caps clocks budgets) := events rfl
theorem uncorrectable_error site : Statement (.uncorrectable_error site) := events rfl
theorem corrected_error die channel vd warp loc : Statement (.corrected_error die channel vd warp loc) := events rfl
theorem line_fetch quad line again : Statement (.line_fetch quad line again) := events rfl
theorem elpop req die whole : Statement (.elpop req die whole) := events rfl
theorem elstat_read req die : Statement (.elstat_read req die) := events rfl
theorem debug_resume req w : Statement (.debug_resume req w) := events rfl
theorem block_freeze req g block : Statement (.block_freeze req g block) := events rfl
theorem host_kill req t : Statement (.host_kill req t) := events rfl
theorem hbm_window_write req pa bytes : Statement (.hbm_window_write req pa bytes) := events rfl
theorem kwid_write req v : Statement (.kwid_write req v) := events rfl
theorem violation_freeze m : Statement (.violation_freeze m) := events rfl
theorem host_module_disable m : Statement (.host_module_disable m) := events rfl
theorem reset cause : Statement (.reset cause) := events rfl
theorem bring_up_phase r : Statement (.bring_up_phase r) := events rfl
theorem register_write req off width v : Statement (.register_write req off width v) := events rfl
theorem unassigned_opcode p page1 len code w : Statement (.unassigned_opcode p page1 len code w) := events rfl
theorem orphaned_prefix why pc slot : Statement (.orphaned_prefix why pc slot) := events rfl
theorem episode_instruction die core : Statement (.episode_instruction die core) := events rfl
theorem peer_copy_access cmd word peer : Statement (.peer_copy_access cmd word peer) := events rfl
theorem kwport_read req port : Statement (.kwport_read req port) := events rfl
theorem qown_read req quad : Statement (.qown_read req quad) := events rfl
theorem sown_read req sl : Statement (.sown_read req sl) := events rfl
theorem activation_window stack bank : Statement (.activation_window stack bank) := events rfl
/-! Instructions that share an opcode: their checks tell them apart. -/

theorem movk_from_mask p w : Statement (.movk_from_mask p w) := chosen rfl rfl (fun h => by
  simp only [Bool.and_eq_true] at h; exact if_pos h.1.1.2)
theorem movk_to_mask p w : Statement (.movk_to_mask p w) := chosen rfl rfl (fun h => by
  simp only [Bool.and_eq_true, beq_iff_eq] at h; exact if_neg (by rw [h.1.1.2]; decide))
theorem sreg_read p w : Statement (.sreg_read p w) := chosen rfl rfl (fun h => by
  simp only [Bool.and_eq_true] at h; exact if_pos h.1.1.1.1.2)
theorem sreg_write p w : Statement (.sreg_write p w) := chosen rfl rfl (fun h => by
  simp only [Bool.and_eq_true, beq_iff_eq] at h; exact if_neg (fun e => by simp only [beq_iff_eq] at e; rw [e] at h; exact absurd h.2 (by decide)))
theorem lchk_k_32 p w : Statement (.lchk_k_32 p w) := chosen rfl rfl (fun h => by
  simp only [Bool.and_eq_true] at h; exact if_pos (tag_one h.2))
theorem lchk_32 p w : Statement (.lchk_32 p w) := chosen rfl rfl (fun h => by
  simp only [Bool.and_eq_true, beq_iff_eq] at h; exact if_neg (by rw [h.2]; decide))
theorem lchk_k_64 p w x : Statement (.lchk_k_64 p w x) := chosen rfl rfl (fun h => by
  simp only [Bool.and_eq_true] at h; exact if_pos (tag_one h.2))
theorem lchk_64 p w x : Statement (.lchk_64 p w x) := chosen rfl rfl (fun h => by
  simp only [Bool.and_eq_true, beq_iff_eq] at h; exact if_neg (by rw [h.2]; decide))
theorem dcl_g p w x : Statement (.dcl_g p w x) := chosen rfl rfl (fun h => by
  simp only [Bool.and_eq_true] at h; exact if_pos (sel_eq h.2))
theorem dcl_sp p w x : Statement (.dcl_sp p w x) := chosen rfl rfl (fun h => by
  simp only [Bool.and_eq_true] at h; exact (if_neg (by rw [beq_iff_eq.mp (sel_eq (k := 2) h.2)]; decide)).trans (if_pos (sel_eq h.2)))
theorem dcl_reg p w x : Statement (.dcl_reg p w x) := chosen rfl rfl (fun h => by
  simp only [Bool.and_eq_true] at h; have e := sel_zero h.2; exact (if_neg (by rw [e]; decide)).trans (if_neg (by rw [e]; decide)))
theorem mb_send_sp p w x : Statement (.mb_send_sp p w x) := chosen rfl rfl (fun h => by
  simp only [Bool.and_eq_true] at h; exact if_pos (by rw [← bit_one]; exact h.2))
theorem mb_send_64 p w x : Statement (.mb_send_64 p w x) := chosen rfl rfl (fun h => by
  simp only [Bool.and_eq_true, Bool.not_eq_true'] at h; exact if_neg (by rw [← bit_one, h.2]; decide))

end Sys2Proof.Laws.Words

theorem Sys2Proof.Laws.Words.seal p w : Sys2Proof.Laws.Words.Statement (.seal p w) := Sys2Proof.Laws.Words.words rfl rfl rfl
theorem Sys2Proof.Laws.Words.unseal p w : Sys2Proof.Laws.Words.Statement (.unseal p w) := Sys2Proof.Laws.Words.words rfl rfl rfl
end

