-- ==== Sys2Proof/Laws/Shapes.lean ====
section
/-! SUPPORT. The shapes of claims from the wrappers: what an instruction does whose meaning is the arithmetic wrapper or the wrapper of
comparisons. -/

namespace Sys2Proof.Machine

open Sys2Proof

/-- An instruction whose meaning is the arithmetic wrapper computes, where its function reads nothing that a predicate's check changes. -/
theorem computes_of {i : Instr} {p : Pfx} {w : W0} {d : Dst} {n : Nat} {xs : Srcs} {extra : Ctx → State → Nat → List Label} {f : Ctx → LaneFn}
    (he : ∀ s, exec i s = issue p true s (fun c => aluBody c w d n xs (extra c) (f c)))
    (hf : ∀ c s t, Near s t → ∀ i v, f c t i v = f c s i v) : Computes i p w d n xs f := by
  intro s u hi hr hd
  obtain ⟨t, h1, h2, h3⟩ := issue_alu (extra := extra) (f := f) hi hr hd (fun t ht i v => hf _ s t ht i v)
  exact ⟨t, ⟨(he s).trans h1, h2⟩, h3⟩

/-- An instruction whose meaning is the wrapper of comparisons compares. -/
theorem compares_of {i : Instr} {p : Pfx} {w : W0} {n : Nat} {xs : Srcs} {f : List Word → Bool × BitVec 8}
    (he : ∀ s, exec i s = issue p true s (fun c => cmpBody c w n xs f)) : Compares i p w n xs f := by
  intro s u hi hr
  obtain ⟨t, h1, h2, h3⟩ := issue_cmp (n := fun _ => n) (f := f) hi hr
  exact ⟨t, ⟨(he s).trans h1, h2⟩, h3⟩

end Sys2Proof.Machine
end

