-- ==== Sys2Proof/Tests/Slice0.lean ====
section
/-! SUPPORT. Tests: ill-formed terms that the checks refuse, words of the spec's encodings, results of the spec's examples, and for every
statement a state and operands that meet its hypotheses. -/

namespace Sys2Proof.Machine

open Sys2Proof

set_option maxRecDepth 100000
set_option Elab.async false

/-! A package with one warp of 32 lanes on quadrant 0, a code page at 0x10000, a data page at 0x20000 with every permission, both cached by the quadrant and by the die's walker, 64 KiB of
scratchpad and a queue register of each kind. -/

/-- A first word. -/
def w0 (d a b : BitVec 6) : W0 := ⟨0#2, false, false, false, b, a, d⟩
/-- A second word without a main-file role. -/
def w1 (hi : BitVec 16) (c : BitVec 6) : W1 := ⟨hi, 0#2, 0#8, c⟩
/-- A group under PFX.K. -/
def pk (n : BitVec 3) : Pfx := ⟨none, some ⟨n, false⟩, none⟩

def demoRecord : LaunchRec :=
  { loaderRecord with handler := 0x10040#64, regs := 128, spadBytes := 65536, cueBytes := 8192, clearance := 255#8 }

/-- The values of s0 to s31. -/
def demoS : List Reg := ([0, 0, 0x20000, 0, 256, 1, 0x10008, 0, 0x300, 0, 0x400, 0, 0, 1, 1, 0, 0x00800003, 0, 4096, 7, 0x20040, 0, 2, 64, 0x10004, 0,
  5, 0x10000, 0, 0, 0x30000, 0] : List Nat).map (fun n => ⟨BitVec.ofNat 32 n, 0#8, false, false⟩)

/-- A data leaf: 64 KiB at 0x20000 in frame 2, read, write and atomic. -/
def demoLeaf : Leaf := ⟨1, 0x20000, 0, (2#128 <<< 64) ||| 0x73#128⟩

def demoQueue (k : Nat) : Queue := { Queue.free with kind := some k }

def demoWarp : Warp :=
  { Warp.start 1 1 0 0 1 0 demoRecord with
    s := demoS
    queues := [demoQueue 0, demoQueue 1, { demoQueue 2 with mailbox := 5 }, demoQueue 3, demoQueue 4, demoQueue 5] ++ List.replicate 10 Queue.free }

def demoBox : Mailbox := { Mailbox.reset with vd := 1, enable := true, bound := true, binder := (1, 2) }

/-- The package, the warp's group at slot 0 of the code page. -/
def demo : State :=
  let s := loaderState State.reset
  let s := s.modDie 0 (fun d => { d with tlb := [loaderLeaf, demoLeaf], mailboxes := [(5, demoBox)] })
  let s := s.modQuad 0 (fun q => { q with tlb := [loaderLeaf, demoLeaf] })
  let s := s.modGrid 1 (fun g => { g with record := demoRecord })
  let s := s.setWarp 1 demoWarp
  { s with cur := ⟨1, none, 0x10000#64, 0x10004#64, 0, 0, 0, false⟩ }

/-- The demo package with another warp. -/
def demoWith (f : Warp → Warp) : State := demo.modWarp 1 f

/-- The group may act and its sources and destination are there. -/
def mayActB (s : State) (p : Pfx) : Bool :=
  match s.issuer with
  | none => false
  | some u =>
    match checkPfx (mkCtx s u p) p (takeLatches s u) with
    | .ok _ => true
    | .error _ => false

def canReadB (s : State) (c : Ctx) (xs : List Src) (lanes : LaneMask) : Bool :=
  xs.all (fun x => match x with
    | .main n => decide (n < (s.record c.w).regs)
    | _ => true) &&
  xs.all (fun x => !badLatch s c x) && (List.range 32).all (fun i => !hasLane lanes i || xs.all (fun x => !(srcReg s c x i).poison))

def canWriteB (s : State) (c : Ctx) (d : Dst) : Bool :=
  match d with
  | .v n => decide (n < (s.record c.w).regs)
  | _ => true

/-- The checks of an instruction pass. -/
def passesB {α : Type} (s : State) (p : Pfx) (chk : Ctx → M α) : Bool :=
  match s.issuer with
  | none => false
  | some u =>
    match (do checkPfx (mkCtx s u p) p; chk (mkCtx s u p) : M α) (takeLatches s u) with
    | .ok _ => true
    | .error _ => false

theorem mayActB_issues {s : State} {p : Pfx} (h : mayActB s p = true) : ∃ u, Issues s p u := by
  unfold mayActB at h
  split at h
  · cases h
  · rename_i u hu
    split at h
    · rename_i a ha
      exact ⟨u, hu, a.2, ha⟩
    · cases h

theorem canReadB_readable {s : State} {c : Ctx} {xs : List Src} {m : LaneMask} (h : canReadB s c xs m = true) : Readable s c xs m := by
  simp only [canReadB, Bool.and_eq_true, List.all_eq_true, Bool.or_eq_true, Bool.not_eq_true', List.mem_range] at h
  refine ⟨fun n hn => by simpa using h.1.1 _ hn, fun x hx => h.1.2 x hx, fun i x hi hx => ?_⟩
  rcases h.2 i (by by_contra hc; simp only [hasLane] at hi; rw [BitVec.getLsbD_of_ge _ _ (by omega)] at hi; cases hi) with h' | h'
  · rw [h'] at hi; cases hi
  · exact h' x hx

theorem canWriteB_writable {s : State} {c : Ctx} {d : Dst} (h : canWriteB s c d = true) : Writable s c d := by
  rintro n rfl
  simpa [canWriteB] using h

theorem passesB_passes {α : Type} {s : State} {p : Pfx} {chk : Ctx → M α} (h : passesB s p chk = true) : ∃ u a s1, Passes s p u chk a s1 := by
  unfold passesB at h
  split at h
  · cases h
  · rename_i u hu
    split at h
    · rename_i a ha
      exact ⟨u, a.1, a.2, hu, ha⟩
    · cases h


/-- A group that computes may act, its sources can be read and its destination exists. -/
def computesB (s : State) (p : Pfx) (d : Dst) (xs : Srcs) : Bool :=
  match s.issuer with
  | none => false
  | some u => mayActB s p && canReadB s (mkCtx s u p) (xs.map (fun x => x.2)) (mkCtx s u p).on && canWriteB s (mkCtx s u p) d

/-- The same of a cross-lane instruction, whose members lie within the sub-warp. -/
def crossesB (s : State) (p : Pfx) (d : Dst) (xs ys : List Src) : Bool :=
  match s.issuer with
  | none => false
  | some u => mayActB s p && decide ((membersOf s (mkCtx s u p) p).zeros = 0#32) &&
      canReadB s (mkCtx s u p) xs (membersOf s (mkCtx s u p) p).cs && canReadB s (mkCtx s u p) ys (mkCtx s u p).on && canWriteB s (mkCtx s u p) d

theorem computesB_meets {s : State} {p : Pfx} {d : Dst} {xs : Srcs} (h : computesB s p d xs = true) :
    ∃ u, Issues s p u ∧ Readable s (mkCtx s u p) (xs.map (fun x => x.2)) (mkCtx s u p).on ∧ Writable s (mkCtx s u p) d := by
  unfold computesB at h
  split at h
  · cases h
  · rename_i u hu
    simp only [Bool.and_eq_true] at h
    obtain ⟨v, hv⟩ := mayActB_issues h.1.1
    obtain rfl : v = u := by simpa [hu] using hv.sub.symm
    exact ⟨v, hv, canReadB_readable h.1.2, canWriteB_writable h.2⟩

theorem crossesB_meets {s : State} {p : Pfx} {d : Dst} {xs ys : List Src} (h : crossesB s p d xs ys = true) :
    ∃ u, Issues s p u ∧ (membersOf s (mkCtx s u p) p).zeros = 0#32 ∧ Readable s (mkCtx s u p) xs (membersOf s (mkCtx s u p) p).cs ∧
      Readable s (mkCtx s u p) ys (mkCtx s u p).on ∧ Writable s (mkCtx s u p) d := by
  unfold crossesB at h
  split at h
  · cases h
  · rename_i u hu
    simp only [Bool.and_eq_true, decide_eq_true_eq] at h
    obtain ⟨v, hv⟩ := mayActB_issues h.1.1.1.1
    obtain rfl : v = u := by simpa [hu] using hv.sub.symm
    exact ⟨v, hv, h.1.1.1.2, canReadB_readable h.1.1.2, canReadB_readable h.1.2, canWriteB_writable h.2⟩

/-- The checks of an instruction pass, with an answer and a state of which `f` holds. -/
def passB {α : Type} (s : State) (p : Pfx) (chk : Ctx → M α) (f : Ctx → α → State → Bool) : Bool :=
  match s.issuer with
  | none => false
  | some u =>
    match (do checkPfx (mkCtx s u p) p; chk (mkCtx s u p) : M α) (takeLatches s u) with
    | .ok r => f (mkCtx s u p) r.1 r.2
    | .error _ => false

theorem passB_passes {α : Type} {s : State} {p : Pfx} {chk : Ctx → M α} {f : Ctx → α → State → Bool} (h : passB s p chk f = true) :
    ∃ u a s1, Passes s p u chk a s1 ∧ f (mkCtx s u p) a s1 = true := by
  unfold passB at h
  split at h
  · cases h
  · rename_i u hu
    split at h
    · rename_i r hr
      exact ⟨u, r.1, r.2, ⟨hu, hr⟩, h⟩
    · cases h

/-- The group may act, and `f` holds of its context. -/
def meetsB (s : State) (p : Pfx) (f : Ctx → Bool) : Bool :=
  match s.issuer with
  | none => false
  | some u => mayActB s p && f (mkCtx s u p)

theorem meetsB_issues {s : State} {p : Pfx} {f : Ctx → Bool} (h : meetsB s p f = true) : ∃ u, Issues s p u ∧ f (mkCtx s u p) = true := by
  unfold meetsB at h
  split at h
  · cases h
  · rename_i u hu
    simp only [Bool.and_eq_true] at h
    obtain ⟨v, hv⟩ := mayActB_issues h.1
    obtain rfl : v = u := by simpa [hu] using hv.sub.symm
    exact ⟨v, hv, h.2⟩

/-- Registers of consecutive numbers with those values. -/
def vals (xs : List Nat) : List Reg := xs.map (fun n => ⟨BitVec.ofNat 32 n, 0#8, false, false⟩)
/-- A line of fifteen NOPs, each of which is a target. -/
def demoLine : List Word := List.replicate 15 0#32 ++ [0x80007FFF#32]

/-- The demo package with that line at the warp's PC, and a jump table at 0x20000: its entry is slot 2 of the line, a PAD of tag 0. -/
def demoCode : State :=
  let pad := (List.replicate 2 0#32) ++ [0x000000D0#32] ++ List.replicate 12 0#32 ++ [0xA0007FFF#32]
  let s := pokeDie demo 0 0x10000 (lineBytes pad)
  pokeDie s 0 0x20000 (toBytes 0x10008#64 8)

/-- The same with lane 0 alone. -/
def demoCodeK : State := demoCode.modWarp 1 (fun x => { x with exited := 0xFFFFFFFE#32, subs := x.subs.map (fun u => { u with mask := 1#32 }) })

/-- Each lane has called: its return stack holds slot 1. -/
def demoCalled : State := demoCode.modWarp 1 (fun x => pushReturns (mkCtx demoCode ⟨none, BitVec.allOnes 32, 0#8, 0x10000#64, 0, .ready, false⟩ Pfx.none) x)

/-- Grant 3 of the VD over the code page, sealed and measured. -/
def demoGrant : State :=
  let s := demo.modVd 1 (fun d => { d with
    grants := [(3, ⟨0x10000#64, 0x20000#64, BitVec.allOnes 64, 1#64, [7#8]⟩)], measured := [(0x10000, 0x20000, [7#8])] })
  { s with sealed := [(1, true)] }

/-- An action of 64 zero bytes, and an observation. -/
def demoMsg : Message := ⟨1#16, 1#16, 0#16, 0#8, 0#8, 0#64, List.replicate 64 0#8⟩

/-- Warp 1 holds a lock at scratchpad offset 256, a promise and a queue. -/
def demoHolder : State :=
  (demoWith (fun x => { x with estate := [Holding.fresh 1 0 0 0 256, Holding.fresh 2 2 0 0 0x300] })).modBlock 1 0
    (fun b => { b with spad := b.spad.write 256 (toBytes (lockWord 1 false false false 1) 8) })

/-- A gang of warps 0 and 1 of the block on quadrant 0. -/
def demoGang : State :=
  let s := demoWith (fun x => { x with gang := 0x00800003#32 })
  let s := s.setWarp 2 { (s.warp 1) with serial := 2, index := 1 }
  (s.modBlock 1 0 (fun b => { b with warps := [1, 2] })).modQuad 0 (fun q => { q with claims := [(0x00800003#32, [1, 2])] })

/-- A barrier object at scratchpad offset 256: two arrivals expected, both still to come. -/
def demoObject : State :=
  demo.modBlock 1 0 (fun b => { b with spad := b.spad.write 256 (toBytes 2#32 4 ++ toBytes 2#32 4 ++ toBytes 0x100000000#64 8 ++ List.replicate 16 0#8) })

/-- The data page scrubbed. -/
def demoClear : State := { demo with cleared := [(2, true)] }

/-- s0 to s7 hold a format block: code 0 for A and B, blocks of 32. -/
def demoFmt : State := demoGang.modWarp 1 (fun x => { x with s := ⟨0x00200000#32, 0#8, false, false⟩ :: (List.replicate 7 Reg.zero) ++ demoS.drop 8 })
/-- s8 to s15 describe a copy of one row of 16 bytes from 0x20000 to scratchpad 0x300. -/
def demoXf : State := demoWith (fun x => { x with s := demoS.take 8 ++
  ([0x20000, 0, 0x300, 0, 0, 1, 1, 7] : List Nat).map (fun n => ⟨BitVec.ofNat 32 n, 0#8, false, false⟩) ++ demoS.drop 16 })

/-- Bits 0 to 7 of k0 are set. -/
def demoK : State := demoWith (fun x => { x with k := setPad MaskReg.zero x.k 0 ⟨0xFF#32, [], 0#8⟩ })

/-- The warp is split: lanes 0 to 7 issue, the others stand at slot 2. -/
def demoSplit : State :=
  let s := demoWith (fun x => { x with
    subs := [⟨some (0, 0), 0xFF#32, 0#8, 0x10000#64, 0, .ready, false⟩, ⟨some (0, 1), 0xFFFFFF00#32, 0#8, 0x10008#64, 1, .ready, false⟩]
    splits := [(0, ⟨none, false, false, false, 0#8, 0#8, 0xFF#32, 0xFFFFFF00#32, 0x10010#64, [], 0#16, 0#256, 0#32⟩)] })
  { s with cur := { s.cur with sub := some (0, 0) } }

/-- In the handler, with the address of slot 2 in s24 and s25. -/
def demoHandler : State :=
  (pokeDie demo 0 0x10000 (lineBytes demoLine)).modWarp 1 (fun x =>
    { x with handler := true, s := x.s.take 24 ++ vals [0x10008, 0] ++ x.s.drop 26, shadow := vals [10, 11, 12, 13, 14, 15, 16, 17] })

/-- In a cue sheet, with a cue point at slot 3. -/
def demoSheet : State := demoWith (fun x => { x with
  sheet := true, cue := some ⟨0x1000C#64, 0x10020#64, [], 0#32, 0#16, 0#16, 0, 0#8, false, 0, BitVec.allOnes 32, [], [], [], [], [], 0, false⟩ })

/-- Debug is attached. -/
def demoDebug : State := demo.modVd 1 (fun v => { v with debug := true })

/-- o5 of lane i names the scratchpad word 256 + 4i, each full, and o6 the word 512 + 4i, each empty. -/
def demoWords : State :=
  let s := demoWith (fun x => { x with
    o := (List.range 32).map (fun i => (32 * 5 + i, ⟨BitVec.ofNat 32 (256 + 4 * i), 0#8, false, false⟩)) ++
      (List.range 32).map (fun i => (32 * 6 + i, ⟨BitVec.ofNat 32 (512 + 4 * i), 0#8, false, false⟩)) })
  s.modBlock 1 0 (fun b => { b with spad := { b.spad with tags := (List.range 32).map (fun i => (64 + i, Tag.full)) } })

/-- An LDX of warp 1 in flight into o2 of lane 31. -/
def demoLdx : State := demoWith (fun x => { x with ldx := [⟨7, 15, false, 2, laneBit 31, [(31, [5#32])], [(31, 0#8)], 0#32⟩] })

/-- An STE of warp 1 whose lane 31 waits for scratchpad byte 512. -/
def demoFe : State := demoWith (fun x => { x with
  subs := x.subs.map (fun u => { u with hold := .fullEmpty false (laneBit 31) })
  fe := [⟨none, false, laneBit 31, [(31, 128)], [(31, ⟨9#32, 0#8, false, false⟩)], [(31, 0#8)], none, 7, 0, false, 0⟩] })

/-- An LDF of warp 1 whose lane 0 waits for scratchpad byte 512, which is full. -/
def demoFeLoad : State := (demoWith (fun x => { x with
  subs := x.subs.map (fun u => { u with hold := .fullEmpty true 1#32 })
  fe := [⟨none, true, 1#32, [(0, 128)], [], [(0, 0#8)], some 66, 0, 0, false, 0⟩] })).modBlock 1 0
    (fun b => { b with spad := { b.spad with tags := [(128, .full)] } })

/-- An entry waits in queue 0; queue 1 is full with another held. -/
def demoQueued : State := demoWith (fun x =>
  { x with queues := { demoQueue 0 with entries := [⟨0x0001010000030012#64, 0#8, 0, 0⟩] } ::
    { demoQueue 1 with entries := List.replicate 7 ⟨1#64, 0#8, 0, 0⟩, back := [⟨2#64, 0#8, 0, 0⟩] } :: x.queues.drop 2 })

/-- Only lane 3 is on under PFX.K of k0, in any state. -/
def demoLaneOf (s : State) : State := s.modWarp 1 (fun x => { x with k := setPad MaskReg.zero x.k 0 ⟨8#32, [], 0#8⟩ })

/-- Only lane 3 is on under PFX.K of k0. -/
def demoLane : State := demoWith (fun x => { x with k := setPad MaskReg.zero x.k 0 ⟨8#32, [], 0#8⟩ })

/-- Mailbox 5 of die 0 with an observation of that version; `f` changes the mailbox. -/
def demoObs (version : BitVec 16) (f : Mailbox → Mailbox) : State :=
  demo.modDie 0 (fun d => { d with mailboxes := [(5, f { demoBox with obs := [{ demoMsg with version := version }] })] })

/-- The same with queue 2 of the warp in stale mode 1. -/
def demoStale : State := (demoObs 1 id).modWarp 1 (fun x =>
  { x with policy := 2#16, queues := x.queues.take 2 ++ [{ demoQueue 2 with mailbox := 5, stale := 1 }] ++ x.queues.drop 3 })

/-- Warp 1 is dying on core 0 with those holdings. -/
def demoDying (done : Bool) (hs : List Holding) : State :=
  { demoWith (fun x => { x with life := .dying 0 0#8, debtDone := done, estate := hs }) with deaths := [1] }

/-- A notice waits in probate, and warp 1 is a claimant. -/
def demoProbate : State :=
  (demoWith (fun x => { x with claimant := true })).modGrid 1 (fun g => { g with probate := [⟨5#64, 0#8, Holding.fresh 1 0 0 0 256⟩] })

/-- A LOCK of warp 1 waits for the scratchpad word 256, which has no owner. -/
def demoLocking : State := demoWith (fun x => { x with subs := x.subs.map (fun u => { u with hold := .locking true 256#64 }) })

/-- A launch record (R349): one block of 32 lanes at 0x10000 with 32 registers, 64 bytes of scratchpad and clearance 255. -/
def demoLaunch : List Byte :=
  toBytes 0x10000#64 8 ++ toBytes 0#64 8 ++ toBytes 0#64 8 ++ toBytes 0#64 8 ++ toBytes 1#32 4 ++ toBytes 32#16 2 ++ [0#8, 3#8] ++
    toBytes 64#32 4 ++ toBytes 0#16 2 ++ [0xFF#8, 0#8] ++ List.replicate 16 0#8

/-- The record lies at 0x20000. -/
def demoParent : State := pokeDie demo 0 0x20000 demoLaunch

/-- VD 1's window is open to requester 3. -/
def demoWindow : State := demo.modVd 1 (fun v => { v with
  requester := 3#16, window := true, gf := [List.replicate 64 7#8], events := [List.replicate 32 9#8] })

/-- Grid 2 with that record, accepted at port 0. -/
def demoUndealt : State :=
  let s := { demo with package := { demo.package with gridSerial := 3 } }
  (s.modVd 1 (fun v => { v with ports := ⟨[2], 0, 0, 2⟩ :: v.ports.drop 1 })).setGrid 2
    { Grid.none with serial := 2, vd := 1, gen := 1, record := launchRecOf demoLaunch, port := some 0, complete := false }

/-- The same grid dealt, with those shares. -/
def demoDealt (us : List Share) : State := demoUndealt.modGrid 2 (fun g => { g with dealt := true, shares := us })

/-- VD 2 exists with partition 0, and waits with a launch. -/
def demoRival : State :=
  let s := (demoWith (fun x => { x with cue := (demoSheet.warp 1).cue })).setVd 2
    { VD.free with state := 2, gen := 1, created := 2, parts := 256#16 :: List.replicate 15 0#16 }
  s.setGrid 2 { Grid.none with serial := 2, vd := 2, gen := 1, record := launchRecOf demoLaunch, complete := false }

/-- Warp 2 owns the lock word at scratchpad offset 256. -/
def demoOwned : State := demo.modBlock 1 0 (fun b => { b with spad := b.spad.write 256 (toBytes (lockWord 2 false false false 1) 8) })

/-- Warps 1 and 2 of the gang have entered the rendezvous latch with one lane each, for a dense operation on a format block at scratchpad
0x400; a half of the B latch is loaded. -/
def demoJoint (done : Bool) : State :=
  let m (w : Nat) : Member := ⟨w, false, 0x400, 0, 0x00800003#32, [(0, Reg.zero)], 1#32, 0x10000#64, 0x10000#64, none, 0#16, false, false, 0, done⟩
  (demoGang.modQuad 0 (fun q => { q with
    rendezvous := [m 1, m 2], halves := [⟨List.replicate 512 [], 128, 0#8, 0x00800003#32, true, 1, 0, none⟩, BHalf.empty] })).modBlock 1 0
      (fun b => { b with spad := b.spad.write 0x400 ([0#8, 0#8, 32#8] ++ List.replicate 29 0#8) })

/-- A command of warp 1, number 9, that has started. -/
def demoCmd (op : CmdOp) : Cmd :=
  { id := 9, warp := 1, vd := 1, die := 0, quad := 0, grid := 1, block := 0, op := op, queue := none, tag := 0#16, acq := false, rel := false
    scope := 0, lbl := 0#8, path := [], pc := 0x10000#64, lanes := BitVec.allOnes 32, object := none, reached := none, started := true, consumed := false
    moved := 0, doneWords := [], failed := none, status := 0, verdict := none }

def demoCmds (d : Cmd) : State := { demo with cmds := [(9, d)], cmdSerial := 10 }

/-- A matrix command with one write to make at scratchpad 0x800. -/
def demoMx : CmdOp := .mx 0 0 0#8 0#8 [⟨0x800, List.replicate 16 5#8, 0#8⟩] none none []

/-- A copy of 16 bytes within scratchpad, and one to package 5. -/
def demoTile : Tile := ⟨0, 0, 0x100#64, 0x200#64, 1, 16, 0, 0, 0⟩
def demoFar : Tile := ⟨0, 3, 0x100#64, 0x200#64, 1, 16, 0, 0, 5⟩

/-- The sub-warp of warp 1 is yielded to command 9. -/
def demoYield : State :=
  (demoCmds { demoCmd (.copy demoTile (some (none, 0x10008#64))) with doneWords := [0] }).modWarp 1
    (fun x => { x with subs := x.subs.map (fun u => { u with hold := .yielded 9 }) })

/-- A lane of a CL.* command to a package. -/
def demoCl (code package : Nat) (decided : Bool) (slot : Option (DWord × Word)) : CmdOp :=
  .cl code 0 4 2 [⟨3, package, 0x20000#64, [7#32], 0#64, 0#8, 0#64, decided⟩] slot 0#64 0#64

/-- A line of a reduction window of VD 1. -/
def demoWinLine (home : Nat) : WinLine := ⟨7, 1, 0x20000, home, List.replicate 64 1#8, 0#64, false, 0#64, 1⟩

/-- Page tables of VD 1 in frames 3 to 6, with the data page's leaf; the data page is scrubbed. -/
def demoWalk : State :=
  let node (k : Nat) : List Byte := toBytes ((BitVec.ofNat 128 k <<< 64) ||| 1#128) 16
  let s := demoClear.modVd 1 (fun v => { v with roots := 0x30001#64 :: v.roots.drop 1 })
  let s := pokeDie (pokeDie (pokeDie s 0 0x30000 (node 4)) 0 0x40000 (node 5)) 0 0x50000 (node 6)
  pokeDie s 0 0x60020 (toBytes demoLeaf.bits 16)

/-- A store of warp 1 in flight to physical address 0x20000, and one to host memory. -/
def demoFlight (atHome host : Bool) : Flight :=
  ⟨3, 1, 1, 0, host, 0x20000, 0x20000#64, .store [1#8, 2#8, 3#8, 4#8], 0#8, 0x10000#64, 1#32, 1, 0, List.replicate 11 0, atHome,
    if atHome then [0] else [], false⟩
def demoFlying (atHome host : Bool) : State := { demoClear with flights := [demoFlight atHome host] }

/-- A delivery fault waits at warp 1. -/
def demoFaulted : State := demoWith (fun x => { x with deliveries := [⟨13, 0x10000#64, 1#32, 0x20000#64, 1, 0#8, none⟩] })

/-- A pre-emption request stands at warp 1. -/
def demoEvict (cue : Bool) : State := demoWith (fun x => { x with evict := 1, cue := if cue then (demoSheet.warp 1).cue else none })

/-- Warp 1 is in that state of its life. -/
def demoLife (l : Life) : State := demoWith (fun x => { x with life := l })

/-- An episode on core 2 of die 0 at an instruction, with a7 and x5, and mailbox 5 with those actions. -/
def demoEpisode (i a7 x5 : Nat) (ms : List Message) (f : PCore → PCore) : State :=
  let s := pokeDie demo 0 0x30000 (toBytes (BitVec.ofNat 32 i) 4)
  let s := s.modDie 0 (fun d => { d with mailboxes := [(5, { demoBox with waiting := ms, episode := 4, core := 2 })] })
  let s := { s with episodes := [⟨0, 4, 2, 1, 100, [(1, 0x30)], [(2, 5)]⟩] }
  s.modPcore 0 2 (fun p => f { p with
    pc := 0x1000#64, x := (List.range 32).map (fun k => if k = 17 then BitVec.ofNat 64 a7 else if k = 5 then BitVec.ofNat 64 x5 else 0#64) })

/-- What a running core of die 0 would execute. -/
def demoRv (s : State) (f : State → Episode → Rv → Bool) : Bool :=
  match episodeOn s 0 2 with
  | some e => coreRuns s e && (match rvFetch s e (s.pcore 0 2).pc with | some (_, some i) => f s e i | _ => false)
  | none => false

/-- Mailbox 511 of die 8 serves core 15 and episode 65535. -/
def demoServed : State := demo.modDie 8 (fun d => { d with mailboxes := [(511, { demoBox with episode := 65535, core := 15 })] })

/-- The package's life-cycle state is DEPLOYED, with a stream leaving and one arriving; VD 5 is the stream's source. -/
def demoSec : State :=
  let s := { demo with security := { demo.security with
    life := 2, nonce := [1#8], streams := [⟨11#128, 5, 2, true, false, true⟩] }, inbound := [⟨12#128, VD.free, [], [], [], [], []⟩] }
  s.setVd 5 { VD.free with state := 3, gen := 1, created := 5 }

/-- A MIGOUT of VD 5 runs. -/
def demoLeaving : State :=
  { demoSec with security := { demoSec.security with busy := true, streams := [⟨11#128, 5, 2, true, false, false⟩] } }

/-- That phase of bring-up and life-cycle state. -/
def demoPhase (phase life : Nat) (loaded : List Nat) : State :=
  { demo with package := { demo.package with phase := phase }, security := { demo.security with life := life, loaded := loaded } }

/-- VD 1 has a record in each buffer, and the package an event; die 8 has logged an error. -/
def demoRecords : State :=
  let s := demoWindow.modDie 8 (fun d => { d with log := [⟨1, 4, 5, 1, 1, 0#64⟩], lastSerial := 1 })
  { s with package := { s.package with hvEvents := [List.replicate 32 3#8] } }

/-- A translation sync of VD 1 runs. -/
def demoSync : State := demo.modVd 1 (fun v => { v with mapBusy := true, mapRange := some (0x20000, 1, false) })

/-- The sub-warp of warp 1 is parked at an address without a translation. -/
def demoParked : State := demoWith (fun x => { x with subs := x.subs.map (fun u => { u with hold := .xlate 0x90000#64 0 }) })

/-- Window 7 of VD 1: 64 KiB at 0x20000, enabled. -/
def demoXwin : BitVec 128 := 0x20000#128 ||| (1#128 <<< 64) ||| (1#128 <<< 92)
def demoWindowOn : State := demo.modVd 1 (fun v => { v with windows := v.windows.take 7 ++ [demoXwin] })

/-- An event record of VD 1 is held. -/
def demoHeldRecord : State := demo.modVd 1 (fun v => { v with waiting := [List.replicate 32 1#8] })

/-- A sampled operation of die 0 on row 3, and the verdict of a collective command, are out. -/
def demoAudit : State :=
  { demoCmds { demoCmd (demoCl 4 5 false none) with verdict := some 1 } with audits := [⟨0, 0, 1, 4, 0, 1, [3], false⟩] }

/-- Warp 1 has halted. -/
def demoHalted : State := demoDebug.modWarp 1 (fun x =>
  { x with stopped := true, tc := tcBit x.tc 24, subs := x.subs.map (fun u => { u with hold := .halted }) })

/-! Operands for which the hypotheses hold, one for each form: the form is well-formed, and in `demo` its group may act, its sources can be read
and its destination exists (`computesB_meets`, `crossesB_meets`). -/

theorem meets_IntegerArithmetic : [
  (let p := Pfx.none; let w : W0 := (w0 2 4 3); WF.iadd_32 p w && computesB demo p ((Dst.ofCode w.d)) ((ab32 w)) : Bool),
  (let p := Pfx.none; let w : W0 := (w0 2 4 20); let x : W1 := (w1 5 0); WF.iadd_64 p w x && computesB demo p ((dstD w x)) ((abImm (immT (typeC x)) w x)) : Bool),
  (let p := Pfx.none; let w : W0 := (w0 2 4 20); let x : W1 := (w1 0 0); let lit := 0x3F800001#32; WF.iadd_96 p w x lit && computesB demo p ((dstD w x)) ((abLit w x lit)) : Bool),
  (let p := Pfx.none; let w : W0 := (w0 2 4 3); WF.isub_32 p w && computesB demo p ((Dst.ofCode w.d)) ((ab32 w)) : Bool),
  (let p := Pfx.none; let w : W0 := (w0 2 4 20); let x : W1 := (w1 5 0); WF.isub_64 p w x && computesB demo p ((dstD w x)) ((abImm (immT (typeC x)) w x)) : Bool),
  (let p := Pfx.none; let w : W0 := (w0 2 4 20); let x : W1 := (w1 0 0); let lit := 0x3F800001#32; WF.isub_96 p w x lit && computesB demo p ((dstD w x)) ((abLit w x lit)) : Bool),
  (let p := Pfx.none; let w : W0 := (w0 2 4 3); WF.imul_32 p w && computesB demo p ((Dst.ofCode w.d)) ((ab32 w)) : Bool),
  (let p := Pfx.none; let w : W0 := (w0 2 4 20); let x : W1 := (w1 5 0); WF.imul_64 p w x && computesB demo p ((dstD w x)) ((abImm (immT (typeC x)) w x)) : Bool),
  (let p := Pfx.none; let w : W0 := (w0 2 4 20); let x : W1 := (w1 0 0); let lit := 0x3F800001#32; WF.imul_96 p w x lit && computesB demo p ((dstD w x)) ((abLit w x lit)) : Bool),
  (let p := Pfx.none; let w : W0 := (w0 2 4 3); WF.imulh_32 p w && computesB demo p ((Dst.ofCode w.d)) ((ab32 w)) : Bool),
  (let p := Pfx.none; let w : W0 := (w0 2 4 20); let x : W1 := (w1 5 0); WF.imulh_64 p w x && computesB demo p ((dstD w x)) ((abImm (immT (typeC x)) w x)) : Bool),
  (let p := Pfx.none; let w : W0 := (w0 2 4 20); let x : W1 := (w1 0 0); let lit := 0x3F800001#32; WF.imulh_96 p w x lit && computesB demo p ((dstD w x)) ((abLit w x lit)) : Bool),
  (let p := Pfx.none; let w : W0 := (w0 2 4 3); WF.imin_32 p w && computesB demo p ((Dst.ofCode w.d)) ((ab32 w)) : Bool),
  (let p := Pfx.none; let w : W0 := (w0 2 4 20); let x : W1 := (w1 5 0); WF.imin_64 p w x && computesB demo p ((dstD w x)) ((abImm (immT (typeC x)) w x)) : Bool),
  (let p := Pfx.none; let w : W0 := (w0 2 4 20); let x : W1 := (w1 0 0); let lit := 0x3F800001#32; WF.imin_96 p w x lit && computesB demo p ((dstD w x)) ((abLit w x lit)) : Bool),
  (let p := Pfx.none; let w : W0 := (w0 2 4 3); WF.imax_32 p w && computesB demo p ((Dst.ofCode w.d)) ((ab32 w)) : Bool),
  (let p := Pfx.none; let w : W0 := (w0 2 4 20); let x : W1 := (w1 5 0); WF.imax_64 p w x && computesB demo p ((dstD w x)) ((abImm (immT (typeC x)) w x)) : Bool),
  (let p := Pfx.none; let w : W0 := (w0 2 4 20); let x : W1 := (w1 0 0); let lit := 0x3F800001#32; WF.imax_96 p w x lit && computesB demo p ((dstD w x)) ((abLit w x lit)) : Bool),
  (let p := Pfx.none; let w : W0 := (w0 2 4 3); WF.imad_32 p w && computesB demo p ((Dst.ofCode w.d)) ((abc32 w)) : Bool),
  (let p := Pfx.none; let w : W0 := (w0 2 4 20); let x : W1 := (w1 5 6); WF.imad_64 p w x && computesB demo p ((dstD w x)) ((abcImm immS w x)) : Bool),
  (let p := Pfx.none; let w : W0 := (w0 2 4 20); let x : W1 := (w1 0 6); let lit := 0x3F800001#32; WF.imad_96 p w x lit && computesB demo p ((dstD w x)) ((abcLit w x lit)) : Bool),
  (let p := Pfx.none; let w : W0 := (w0 2 4 0); WF.ineg p w && computesB demo p ((Dst.ofCode w.d)) ([(w.luA, .code w.a)]) : Bool),
  (let p := Pfx.none; let w : W0 := (w0 2 4 0); WF.iabs p w && computesB demo p ((Dst.ofCode w.d)) ([(w.luA, .code w.a)]) : Bool),
  (let p := pk 1; let w := w0 2 3 4; WF.iadd_32 p w && computesB demo p (Dst.ofCode w.d) (ab32 w) : Bool),
  (let p := pk 0; let w := w0 0 4 3; let x : W1 := ⟨0, 3, 127, 0⟩; WF.isub_64 p w x && computesB demo p (dstD w x) (abImm (immT (typeC x)) w x) : Bool),
  (let p := Pfx.none; let w := w0 55 24 55; WF.imul_32 p w && computesB demo p (Dst.ofCode w.d) (ab32 w) : Bool)].all id = true := by decide +kernel

theorem meets_BitOperations : [
  (let p := Pfx.none; let w : W0 := (w0 2 4 3); WF.and_32 p w && computesB demo p ((Dst.ofCode w.d)) ((ab32 w)) : Bool),
  (let p := Pfx.none; let w : W0 := (w0 2 4 20); let x : W1 := (w1 5 0); WF.and_64 p w x && computesB demo p ((dstD w x)) ((abImm immZ w x)) : Bool),
  (let p := Pfx.none; let w : W0 := (w0 2 4 20); let x : W1 := (w1 0 0); let lit := 0x3F800001#32; WF.and_96 p w x lit && computesB demo p ((dstD w x)) ((abLit w x lit)) : Bool),
  (let p := Pfx.none; let w : W0 := (w0 2 4 3); WF.or_32 p w && computesB demo p ((Dst.ofCode w.d)) ((ab32 w)) : Bool),
  (let p := Pfx.none; let w : W0 := (w0 2 4 20); let x : W1 := (w1 5 0); WF.or_64 p w x && computesB demo p ((dstD w x)) ((abImm immZ w x)) : Bool),
  (let p := Pfx.none; let w : W0 := (w0 2 4 20); let x : W1 := (w1 0 0); let lit := 0x3F800001#32; WF.or_96 p w x lit && computesB demo p ((dstD w x)) ((abLit w x lit)) : Bool),
  (let p := Pfx.none; let w : W0 := (w0 2 4 3); WF.xor_32 p w && computesB demo p ((Dst.ofCode w.d)) ((ab32 w)) : Bool),
  (let p := Pfx.none; let w : W0 := (w0 2 4 20); let x : W1 := (w1 5 0); WF.xor_64 p w x && computesB demo p ((dstD w x)) ((abImm immZ w x)) : Bool),
  (let p := Pfx.none; let w : W0 := (w0 2 4 20); let x : W1 := (w1 0 0); let lit := 0x3F800001#32; WF.xor_96 p w x lit && computesB demo p ((dstD w x)) ((abLit w x lit)) : Bool),
  (let p := Pfx.none; let w : W0 := (w0 2 4 3); WF.andn_32 p w && computesB demo p ((Dst.ofCode w.d)) ((ab32 w)) : Bool),
  (let p := Pfx.none; let w : W0 := (w0 2 4 20); let x : W1 := (w1 5 0); WF.andn_64 p w x && computesB demo p ((dstD w x)) ((abImm immZ w x)) : Bool),
  (let p := Pfx.none; let w : W0 := (w0 2 4 20); let x : W1 := (w1 0 0); let lit := 0x3F800001#32; WF.andn_96 p w x lit && computesB demo p ((dstD w x)) ((abLit w x lit)) : Bool),
  (let p := Pfx.none; let w : W0 := (w0 2 4 3); let x : W1 := (w1 5 6); WF.bool3_64 p w x && computesB demo p ((dstD w x)) ((abc64 w x)) : Bool),
  (let p := Pfx.none; let w : W0 := (w0 2 4 20); let x : W1 := (w1 5 6); let lit := 0x3F800001#32; WF.bool3_96 p w x lit && computesB demo p ((dstD w x)) ((abcLit w x lit)) : Bool),
  (let p := Pfx.none; let w : W0 := (w0 2 4 3); WF.shl_32 p w && computesB demo p ((Dst.ofCode w.d)) ((ab32 w)) : Bool),
  (let p := Pfx.none; let w : W0 := (w0 2 4 20); let x : W1 := (w1 5 0); WF.shl_64 p w x && computesB demo p ((dstD w x)) ((abImm immZ w x)) : Bool),
  (let p := Pfx.none; let w : W0 := (w0 2 4 20); let x : W1 := (w1 0 0); let lit := 0x3F800001#32; WF.shl_96 p w x lit && computesB demo p ((dstD w x)) ((abLit w x lit)) : Bool),
  (let p := Pfx.none; let w : W0 := (w0 2 4 3); WF.shr_32 p w && computesB demo p ((Dst.ofCode w.d)) ((ab32 w)) : Bool),
  (let p := Pfx.none; let w : W0 := (w0 2 4 20); let x : W1 := (w1 5 0); WF.shr_64 p w x && computesB demo p ((dstD w x)) ((abImm immZ w x)) : Bool),
  (let p := Pfx.none; let w : W0 := (w0 2 4 20); let x : W1 := (w1 0 0); let lit := 0x3F800001#32; WF.shr_96 p w x lit && computesB demo p ((dstD w x)) ((abLit w x lit)) : Bool),
  (let p := Pfx.none; let w : W0 := (w0 2 4 3); WF.sar_32 p w && computesB demo p ((Dst.ofCode w.d)) ((ab32 w)) : Bool),
  (let p := Pfx.none; let w : W0 := (w0 2 4 20); let x : W1 := (w1 5 0); WF.sar_64 p w x && computesB demo p ((dstD w x)) ((abImm immZ w x)) : Bool),
  (let p := Pfx.none; let w : W0 := (w0 2 4 20); let x : W1 := (w1 0 0); let lit := 0x3F800001#32; WF.sar_96 p w x lit && computesB demo p ((dstD w x)) ((abLit w x lit)) : Bool),
  (let p := Pfx.none; let w : W0 := (w0 2 4 3); WF.rot_32 p w && computesB demo p ((Dst.ofCode w.d)) ((ab32 w)) : Bool),
  (let p := Pfx.none; let w : W0 := (w0 2 4 20); let x : W1 := (w1 5 0); WF.rot_64 p w x && computesB demo p ((dstD w x)) ((abImm immZ w x)) : Bool),
  (let p := Pfx.none; let w : W0 := (w0 2 4 20); let x : W1 := (w1 0 0); let lit := 0x3F800001#32; WF.rot_96 p w x lit && computesB demo p ((dstD w x)) ((abLit w x lit)) : Bool),
  (let p := Pfx.none; let w : W0 := (w0 2 4 3); WF.shf_32 p w && computesB demo p ((Dst.ofCode w.d)) ((abc32 w)) : Bool),
  (let p := Pfx.none; let w : W0 := (w0 2 4 3); let x : W1 := (w1 1 6); WF.shf_64 p w x && computesB demo p ((dstD w x)) ((abc64 w x)) : Bool),
  (let p := Pfx.none; let w : W0 := (w0 2 4 20); let x : W1 := (w1 1 6); let lit := 0x3F800001#32; WF.shf_96 p w x lit && computesB demo p ((dstD w x)) ((abcLit w x lit)) : Bool),
  (let p := Pfx.none; let w : W0 := (w0 2 4 3); WF.bfx_32 p w && computesB demo p ((Dst.ofCode w.d)) ((ab32 w)) : Bool),
  (let p := Pfx.none; let w : W0 := (w0 2 4 20); let x : W1 := (w1 5 0); WF.bfx_64 p w x && computesB demo p ((dstD w x)) ((abImm immZ w x)) : Bool),
  (let p := Pfx.none; let w : W0 := (w0 2 4 20); let x : W1 := (w1 0 0); let lit := 0x3F800001#32; WF.bfx_96 p w x lit && computesB demo p ((dstD w x)) ((abLit w x lit)) : Bool),
  (let p := Pfx.none; let w : W0 := (w0 2 4 3); WF.bfi_32 p w && computesB demo p ((Dst.ofCode w.d)) ((abc32 w)) : Bool),
  (let p := Pfx.none; let w : W0 := (w0 2 4 20); let x : W1 := (w1 5 6); WF.bfi_64 p w x && computesB demo p ((dstD w x)) ((abcImm immZ w x)) : Bool),
  (let p := Pfx.none; let w : W0 := (w0 2 4 20); let x : W1 := (w1 0 6); let lit := 0x3F800001#32; WF.bfi_96 p w x lit && computesB demo p ((dstD w x)) ((abcLit w x lit)) : Bool),
  (let p := Pfx.none; let w : W0 := (w0 2 4 3); WF.prmt_32 p w && computesB demo p ((Dst.ofCode w.d)) ((abc32 w)) : Bool),
  (let p := Pfx.none; let w : W0 := (w0 2 4 20); let x : W1 := (w1 5 6); WF.prmt_64 p w x && computesB demo p ((dstD w x)) ((abcImm immZ w x)) : Bool),
  (let p := Pfx.none; let w : W0 := (w0 2 4 20); let x : W1 := (w1 0 6); let lit := 0x3F800001#32; WF.prmt_96 p w x lit && computesB demo p ((dstD w x)) ((abcLit w x lit)) : Bool),
  (let p := Pfx.none; let w : W0 := (w0 2 4 0); WF.popc p w && computesB demo p ((Dst.ofCode w.d)) ([(w.luA, .code w.a)]) : Bool),
  (let p := Pfx.none; let w : W0 := (w0 2 4 0); WF.clz p w && computesB demo p ((Dst.ofCode w.d)) ([(w.luA, .code w.a)]) : Bool),
  (let p := Pfx.none; let w : W0 := (w0 2 4 0); WF.ctz p w && computesB demo p ((Dst.ofCode w.d)) ([(w.luA, .code w.a)]) : Bool),
  (let p := Pfx.none; let w : W0 := (w0 2 4 0); WF.brev p w && computesB demo p ((Dst.ofCode w.d)) ([(w.luA, .code w.a)]) : Bool),
  (let p := pk 7; let w := w0 15 15 0; WF.and_32 p w && computesB demo p (Dst.ofCode w.d) (ab32 w) : Bool),
  (let p := Pfx.none; let w := w0 24 55 24; WF.xor_32 p w && computesB demo p (Dst.ofCode w.d) (ab32 w) : Bool)].all id = true := by decide +kernel

theorem meets_SelectsPairsAndCarry : [
  (let p := Pfx.none; let w : W0 := (w0 2 4 3); WF.isel_32 p w && computesB demo p ((Dst.ofCode w.d)) ((ab32 w)) : Bool),
  (let p := Pfx.none; let w : W0 := (w0 2 4 20); let x : W1 := (w1 5 6); WF.isel_64 p w x && computesB demo p ((dstD w x)) ((abImm immS w x)) : Bool),
  (let p := Pfx.none; let w : W0 := (w0 2 4 20); let x : W1 := (w1 0 6); let lit := 0x3F800001#32; WF.isel_96 p w x lit && computesB demo p ((dstD w x)) ((abLit w x lit)) : Bool),
  (let p := Pfx.none; let w : W0 := (w0 2 4 3); WF.imadw_32 p w && computesB demo p ((Dst.ofCode w.d)) ((abc32 w ++ [(false, (Src.code w.d).up 1)])) : Bool),
  (let p := Pfx.none; let w : W0 := (w0 2 4 3); let x : W1 := (w1 1 6); WF.imadw_64 p w x && computesB demo p ((Dst.ofCode w.d)) ((abc64 w x ++ [(false, (Src.code x.c).up 1)])) : Bool),
  (let p := Pfx.none; let w : W0 := (w0 2 4 20); let x : W1 := (w1 1 6); let lit := 0x3F800001#32; WF.imadw_96 p w x lit && computesB demo p ((Dst.ofCode w.d)) ((abcLit w x lit ++ [(false, (Src.code x.c).up 1)])) : Bool),
  (let p := Pfx.none; let w : W0 := (w0 2 4 3); WF.lea_32 p w && computesB demo p ((Dst.ofCode w.d)) (([(w.luA, .code w.a), (w.luA, (Src.code w.a).up 1)] ++ [(w.luB, .code w.b)])) : Bool),
  (let p := Pfx.none; let w : W0 := (w0 2 4 20); let x : W1 := (w1 5 6); WF.lea_64 p w x && computesB demo p ((Dst.ofCode w.d)) (([(w.luA, .code w.a), (w.luA, (Src.code w.a).up 1)] ++ [immB (immT (x.c.getLsbD 3)) w x])) : Bool),
  (let p := Pfx.none; let w : W0 := (w0 2 4 20); let x : W1 := (w1 0 6); let lit := 0x3F800001#32; WF.lea_96 p w x lit && computesB demo p ((Dst.ofCode w.d)) (([(w.luA, .code w.a), (w.luA, (Src.code w.a).up 1)] ++ [(false, .const lit)])) : Bool),
  (let p := Pfx.none; let w : W0 := (w0 2 4 3); WF.iaddc_32 p w && computesB demo p ((Dst.ofCode w.d)) ((ab32 w)) : Bool),
  (let p := Pfx.none; let w : W0 := (w0 2 4 20); let x : W1 := (w1 5 6); WF.iaddc_64 p w x && computesB demo p ((dstD w x)) ((abImm immS w x)) : Bool),
  (let p := Pfx.none; let w : W0 := (w0 2 4 20); let x : W1 := (w1 0 6); let lit := 0x3F800001#32; WF.iaddc_96 p w x lit && computesB demo p ((dstD w x)) ((abLit w x lit)) : Bool)].all id = true := by decide +kernel

theorem meets_Comparisons : [
  (let p := Pfx.none; let w : W0 := (w0 2 4 3); WF.icmp_32 p w && computesB demo p Dst.none ((ab32 w)) : Bool),
  (let p := Pfx.none; let w : W0 := (w0 2 4 20); let x : W1 := (w1 5 0); WF.icmp_64 p w x && computesB demo p Dst.none ((abImm (if 6 ≤ ccOf w x then immZ else immS) w x)) : Bool),
  (let p := Pfx.none; let w : W0 := (w0 2 4 20); let x : W1 := (w1 0 0); let lit := 0x3F800001#32; WF.icmp_96 p w x lit && computesB demo p Dst.none ((abLit w x lit)) : Bool),
  (let p := Pfx.none; let w : W0 := (w0 2 4 3); WF.fcmp_32 p w && computesB demo p Dst.none ((ab32 w)) : Bool),
  (let p := Pfx.none; let w : W0 := (w0 2 4 20); let x : W1 := (w1 5 0); WF.fcmp_64 p w x && computesB demo p Dst.none ((abImm immF w x)) : Bool),
  (let p := Pfx.none; let w : W0 := (w0 2 4 20); let x : W1 := (w1 0 0); let lit := 0x3F800001#32; WF.fcmp_96 p w x lit && computesB demo p Dst.none ((abLit w x lit)) : Bool),
  (let p := Pfx.none; let w : W0 := (w0 2 4 0); WF.movk_to_mask p w && computesB demo p Dst.none ([(w.luA, .code w.a)]) : Bool)].all id = true := by decide +kernel

theorem meets_FloatArithmetic : [
  (let p := Pfx.none; let w : W0 := (w0 2 4 3); WF.fadd_32 p w && computesB demo p ((Dst.ofCode w.d)) ((ab32 w)) : Bool),
  (let p := Pfx.none; let w : W0 := (w0 2 4 20); let x : W1 := (w1 5 0); WF.fadd_64 p w x && computesB demo p ((dstD w x)) ((abImm immF w x)) : Bool),
  (let p := Pfx.none; let w : W0 := (w0 2 4 20); let x : W1 := (w1 0 0); let lit := 0x3F800001#32; WF.fadd_96 p w x lit && computesB demo p ((dstD w x)) ((abLit w x lit)) : Bool),
  (let p := Pfx.none; let w : W0 := (w0 2 4 3); WF.fmul_32 p w && computesB demo p ((Dst.ofCode w.d)) ((ab32 w)) : Bool),
  (let p := Pfx.none; let w : W0 := (w0 2 4 20); let x : W1 := (w1 5 0); WF.fmul_64 p w x && computesB demo p ((dstD w x)) ((abImm immF w x)) : Bool),
  (let p := Pfx.none; let w : W0 := (w0 2 4 20); let x : W1 := (w1 0 0); let lit := 0x3F800001#32; WF.fmul_96 p w x lit && computesB demo p ((dstD w x)) ((abLit w x lit)) : Bool),
  (let p := Pfx.none; let w : W0 := (w0 2 4 3); WF.ffma_32 p w && computesB demo p ((Dst.ofCode w.d)) ((abc32 w)) : Bool),
  (let p := Pfx.none; let w : W0 := (w0 2 4 20); let x : W1 := (w1 5 6); WF.ffma_64 p w x && computesB demo p ((dstD w x)) ((abcImm immF w x)) : Bool),
  (let p := Pfx.none; let w : W0 := (w0 2 4 20); let x : W1 := (w1 0 6); let lit := 0x3F800001#32; WF.ffma_96 p w x lit && computesB demo p ((dstD w x)) ((abcLit w x lit)) : Bool),
  (let p := Pfx.none; let w : W0 := (w0 2 4 3); WF.fmin_32 p w && computesB demo p ((Dst.ofCode w.d)) ((ab32 w)) : Bool),
  (let p := Pfx.none; let w : W0 := (w0 2 4 20); let x : W1 := (w1 5 0); WF.fmin_64 p w x && computesB demo p ((dstD w x)) ((abImm immF w x)) : Bool),
  (let p := Pfx.none; let w : W0 := (w0 2 4 20); let x : W1 := (w1 0 0); let lit := 0x3F800001#32; WF.fmin_96 p w x lit && computesB demo p ((dstD w x)) ((abLit w x lit)) : Bool),
  (let p := Pfx.none; let w : W0 := (w0 2 4 3); WF.fmax_32 p w && computesB demo p ((Dst.ofCode w.d)) ((ab32 w)) : Bool),
  (let p := Pfx.none; let w : W0 := (w0 2 4 20); let x : W1 := (w1 5 0); WF.fmax_64 p w x && computesB demo p ((dstD w x)) ((abImm immF w x)) : Bool),
  (let p := Pfx.none; let w : W0 := (w0 2 4 20); let x : W1 := (w1 0 0); let lit := 0x3F800001#32; WF.fmax_96 p w x lit && computesB demo p ((dstD w x)) ((abLit w x lit)) : Bool),
  (let p : Pfx := ⟨some ⟨.sr, true, .none, 0⟩, none, none⟩; let w := w0 2 3 4; WF.fadd_32 p w && computesB demo p (Dst.ofCode w.d) (ab32 w) : Bool),
  (let p : Pfx := ⟨some ⟨.rtz, false, .none, 0⟩, some ⟨1, true⟩, none⟩; let w := w0 2 3 4; WF.fmul_32 p w && computesB demo p (Dst.ofCode w.d) (ab32 w) : Bool)].all id = true := by decide +kernel

theorem meets_SpecialFunctions : [
  (let p := Pfx.none; let w : W0 := (w0 2 4 0); WF.frcp p w && computesB demo p ((Dst.ofCode w.d)) ([(w.luA, .code w.a)]) : Bool),
  (let p := Pfx.none; let w : W0 := (w0 2 4 0); WF.frsq p w && computesB demo p ((Dst.ofCode w.d)) ([(w.luA, .code w.a)]) : Bool),
  (let p := Pfx.none; let w : W0 := (w0 2 4 0); WF.fsqrt p w && computesB demo p ((Dst.ofCode w.d)) ([(w.luA, .code w.a)]) : Bool),
  (let p := Pfx.none; let w : W0 := (w0 2 4 0); WF.fexp2 p w && computesB demo p ((Dst.ofCode w.d)) ([(w.luA, .code w.a)]) : Bool),
  (let p := Pfx.none; let w : W0 := (w0 2 4 0); WF.flog2 p w && computesB demo p ((Dst.ofCode w.d)) ([(w.luA, .code w.a)]) : Bool),
  (let p := Pfx.none; let w : W0 := (w0 2 4 0); WF.fsin p w && computesB demo p ((Dst.ofCode w.d)) ([(w.luA, .code w.a)]) : Bool),
  (let p := Pfx.none; let w : W0 := (w0 2 4 0); WF.fcos p w && computesB demo p ((Dst.ofCode w.d)) ([(w.luA, .code w.a)]) : Bool),
  (let p := Pfx.none; let w : W0 := (w0 2 4 0); WF.ftanh p w && computesB demo p ((Dst.ofCode w.d)) ([(w.luA, .code w.a)]) : Bool),
  (let p := Pfx.none; let w : W0 := (w0 2 4 0); WF.frnd p w && computesB demo p ((Dst.ofCode w.d)) ([(w.luA, .code w.a)]) : Bool),
  (let p := Pfx.none; let w : W0 := (w0 2 4 0); WF.ffrc p w && computesB demo p ((Dst.ofCode w.d)) ([(w.luA, .code w.a)]) : Bool)].all id = true := by decide +kernel

theorem meets_PackedHalves : [
  (let p := Pfx.none; let w : W0 := (w0 2 4 3); WF.hadd2_32 p w && computesB demo p ((Dst.ofCode w.d)) ((ab32 w)) : Bool),
  (let p := Pfx.none; let w : W0 := (w0 2 4 20); let x : W1 := (w1 5 0); WF.hadd2_64 p w x && computesB demo p ((dstD w x)) ((abImm immH w x)) : Bool),
  (let p := Pfx.none; let w : W0 := (w0 2 4 20); let x : W1 := (w1 0 0); let lit := 0x3F800001#32; WF.hadd2_96 p w x lit && computesB demo p ((dstD w x)) ((abLit w x lit)) : Bool),
  (let p := Pfx.none; let w : W0 := (w0 2 4 3); WF.hmul2_32 p w && computesB demo p ((Dst.ofCode w.d)) ((ab32 w)) : Bool),
  (let p := Pfx.none; let w : W0 := (w0 2 4 20); let x : W1 := (w1 5 0); WF.hmul2_64 p w x && computesB demo p ((dstD w x)) ((abImm immH w x)) : Bool),
  (let p := Pfx.none; let w : W0 := (w0 2 4 20); let x : W1 := (w1 0 0); let lit := 0x3F800001#32; WF.hmul2_96 p w x lit && computesB demo p ((dstD w x)) ((abLit w x lit)) : Bool),
  (let p := Pfx.none; let w : W0 := (w0 2 4 3); WF.hfma2_32 p w && computesB demo p ((Dst.ofCode w.d)) ((abc32 w)) : Bool),
  (let p := Pfx.none; let w : W0 := (w0 2 4 3); let x : W1 := (w1 1 6); WF.hfma2_64 p w x && computesB demo p ((dstD w x)) ((abc64 w x)) : Bool),
  (let p := Pfx.none; let w : W0 := (w0 2 4 20); let x : W1 := (w1 1 6); let lit := 0x3F800001#32; WF.hfma2_96 p w x lit && computesB demo p ((dstD w x)) ((abcLit w x lit)) : Bool),
  (let p := Pfx.none; let w : W0 := (w0 2 4 3); WF.hmin2_32 p w && computesB demo p ((Dst.ofCode w.d)) ((ab32 w)) : Bool),
  (let p := Pfx.none; let w : W0 := (w0 2 4 20); let x : W1 := (w1 5 0); WF.hmin2_64 p w x && computesB demo p ((dstD w x)) ((abImm immH w x)) : Bool),
  (let p := Pfx.none; let w : W0 := (w0 2 4 20); let x : W1 := (w1 0 0); let lit := 0x3F800001#32; WF.hmin2_96 p w x lit && computesB demo p ((dstD w x)) ((abLit w x lit)) : Bool),
  (let p := Pfx.none; let w : W0 := (w0 2 4 3); WF.hmax2_32 p w && computesB demo p ((Dst.ofCode w.d)) ((ab32 w)) : Bool),
  (let p := Pfx.none; let w : W0 := (w0 2 4 20); let x : W1 := (w1 5 0); WF.hmax2_64 p w x && computesB demo p ((dstD w x)) ((abImm immH w x)) : Bool),
  (let p := Pfx.none; let w : W0 := (w0 2 4 20); let x : W1 := (w1 0 0); let lit := 0x3F800001#32; WF.hmax2_96 p w x lit && computesB demo p ((dstD w x)) ((abLit w x lit)) : Bool),
  (let p := Pfx.none; let w : W0 := (w0 2 4 3); WF.hcmp2_32 p w && computesB demo p ((Dst.ofCode w.d)) ((ab32 w)) : Bool),
  (let p := Pfx.none; let w : W0 := (w0 2 4 20); let x : W1 := (w1 5 6); WF.hcmp2_64 p w x && computesB demo p ((dstD w x)) ((abImm immH w x)) : Bool),
  (let p := Pfx.none; let w : W0 := (w0 2 4 20); let x : W1 := (w1 0 6); let lit := 0x3F800001#32; WF.hcmp2_96 p w x lit && computesB demo p ((dstD w x)) ((abLit w x lit)) : Bool)].all id = true := by decide +kernel

theorem meets_ConversionsAndDotProducts : [
  (let p := Pfx.none; let w : W0 := (w0 2 4 3); WF.cvt_32 p w && computesB demo p ((Dst.ofCode w.d)) ([(w.luA, .code w.a)]) : Bool),
  (let p := Pfx.none; let w : W0 := (w0 2 4 0); let x : W1 := (w1 5 0); WF.cvt_64 p w x && computesB demo p ((dstD w x)) ([(w.luA, srcA w x)]) : Bool),
  (let p := Pfx.none; let w : W0 := (w0 2 4 3); WF.cvtp_32 p w && computesB demo p ((Dst.ofCode w.d)) (([(w.luA, .code w.a), (w.luB, .code w.b)] ++ (if narrowWidth 0 = 16 then [] else [(false, .code w.d)]))) : Bool),
  (let p := Pfx.none; let w : W0 := (w0 2 4 3); let x : W1 := (w1 5 2); WF.cvtp_64 p w x && computesB demo p ((dstD w x)) (([(w.luA, srcA w x), (w.luB, srcB w x)] ++ (if narrowWidth (field x.hi 0 3).toNat = 16 then [] else [(false, .code x.c)]))) : Bool),
  (let p := Pfx.none; let w : W0 := (w0 2 4 0); WF.cvtu_32 p w && computesB demo p ((Dst.ofCode w.d)) ([(w.luA, .code w.a)]) : Bool),
  (let p := Pfx.none; let w : W0 := (w0 2 4 0); let x : W1 := (w1 0 0); WF.cvtu_64 p w x && computesB demo p ((dstD w x)) ([(w.luA, srcA w x)]) : Bool),
  (let p := Pfx.none; let w : W0 := (w0 2 4 3); WF.scl_32 p w && computesB demo p ((Dst.ofCode w.d)) ((ab32 w)) : Bool),
  (let p := Pfx.none; let w : W0 := (w0 2 4 3); let x : W1 := (w1 5 0); WF.scl_64 p w x && computesB demo p ((dstD w x)) ([(w.luA, srcA w x), (w.luB, srcB w x)]) : Bool),
  (let p := Pfx.none; let w : W0 := (w0 2 4 3); WF.dot2_32 p w && computesB demo p ((Dst.ofCode w.d)) ((abc32 w)) : Bool),
  (let p := Pfx.none; let w : W0 := (w0 2 4 3); let x : W1 := (w1 1 6); WF.dot2_64 p w x && computesB demo p ((dstD w x)) ((abc64 w x)) : Bool),
  (let p := Pfx.none; let w : W0 := (w0 2 4 3); WF.dot4_32 p w && computesB demo p ((Dst.ofCode w.d)) ((abc32 w)) : Bool),
  (let p := Pfx.none; let w : W0 := (w0 2 4 3); let x : W1 := (w1 1 6); WF.dot4_64 p w x && computesB demo p ((dstD w x)) ((abc64 w x)) : Bool),
  (let p := Pfx.none; let w : W0 := (w0 2 4 3); WF.dot8_32 p w && computesB demo p ((Dst.ofCode w.d)) ((abc32 w)) : Bool),
  (let p := Pfx.none; let w : W0 := (w0 2 4 3); let x : W1 := (w1 0 6); WF.dot8_64 p w x && computesB demo p ((dstD w x)) ((abc64 w x)) : Bool)].all id = true := by decide +kernel

theorem meets_Moves : [
  (let p := Pfx.none; let w : W0 := (w0 2 0 0); let x : W1 := ⟨0, 1, 5, 0⟩; WF.movo p w x && computesB demo p ((dstD w x)) ([(w.luA, srcA w x)]) : Bool),
  (let p := Pfx.none; let w : W0 := (w0 0 4 0); let x : W1 := ⟨0, 3, 5, 0⟩; WF.movm p w x && computesB demo p ((dstD w x)) ([(w.luA, srcA w x)]) : Bool),
  (let p := Pfx.none; let w : W0 := (w0 2 26 0); WF.movu_32 p w && computesB demo p ((Dst.ofCode w.d)) ([(w.luA, .code w.a)]) : Bool),
  (let p := Pfx.none; let w : W0 := (w0 0 40 0); let x : W1 := ⟨0, 3, 5, 0⟩; WF.movu_64 p w x && computesB demo p ((dstD w x)) ([(w.luA, srcA w x)]) : Bool),
  (let p := Pfx.none; let w : W0 := (w0 2 7 1); WF.movk_from_mask p w && computesB demo p ((Dst.ofCode w.d)) ([]) : Bool),
  (let p := Pfx.none; let w : W0 := (w0 2 0 20); let x : W1 := (w1 5 0); WF.ldi_64 p w x && computesB demo p ((dstD w x)) ([(false, .const (immT (x.c.getLsbD 0) x.hi))]) : Bool),
  (let p := Pfx.none; let w : W0 := (w0 2 0 20); let x : W1 := (w1 0 0); let lit := 0x3F800001#32; WF.ldi_96 p w x lit && computesB demo p ((dstD w x)) ([(false, .const lit)]) : Bool)].all id = true := by decide +kernel

theorem meets_LaneExchanges : [
  (let p := Pfx.none; let w : W0 := (w0 2 4 0); WF.census_32 p w && crossesB demo p Dst.none ([.code w.a]) [] : Bool),
  (let p := Pfx.none; let w : W0 := (w0 2 4 0); let x : W1 := (w1 1 0); WF.census_64 p w x && crossesB demo p Dst.none ([srcA w x]) [] : Bool),
  (let p := Pfx.none; let w : W0 := (w0 2 0 0); WF.elect p w && crossesB demo p Dst.none ([]) [] : Bool),
  (let p := Pfx.none; let w : W0 := (w0 2 4 3); WF.pick_32 p w && crossesB demo p ((Dst.ofCode w.d)) ([.code w.a]) ([.code w.a, .code w.b]) : Bool),
  (let p := Pfx.none; let w : W0 := (w0 2 4 20); let x : W1 := (w1 5 6); let mode := (field x.c 0 2).toNat; let b := (immB (immT (mode == 0 || mode == 3)) w x).2; WF.pick_64 p w x && crossesB demo p ((dstD w x)) ([srcA w x]) ([srcA w x, b]) : Bool),
  (let p := Pfx.none; let w : W0 := (w0 2 4 0); WF.qx_32 p w && crossesB demo p ((Dst.ofCode w.d)) ([.code w.a]) ([.code w.a]) : Bool),
  (let p := Pfx.none; let w : W0 := (w0 2 4 0); let x : W1 := (w1 0 0); WF.qx_64 p w x && crossesB demo p ((dstD w x)) ([srcA w x]) ([srcA w x]) : Bool),
  (let p := Pfx.none; let w : W0 := (w0 2 4 0); WF.peers_32 p w && crossesB demo p ((Dst.ofCode w.d)) ([.code w.a]) ([.code w.a]) : Bool),
  (let p := Pfx.none; let w : W0 := (w0 2 4 0); let x : W1 := (w1 1 0); let two := x.hi.getLsbD 0; let xs := if two then [srcA w x, (srcA w x).up 1] else [srcA w x]; WF.peers_64 p w x && crossesB demo p ((dstD w x)) (xs) (xs) : Bool)].all id = true := by decide +kernel

theorem meets_ReductionsAndDraws : [
  (let p := Pfx.none; let w : W0 := (w0 2 4 3); WF.red_32 p w && crossesB demo p ((Dst.ofCode w.d)) ([.code w.a]) ([]) : Bool),
  (let p := Pfx.none; let w : W0 := (w0 2 4 3); let x : W1 := (w1 1 0); WF.red_64 p w x && crossesB demo p ((dstD w x)) ([srcA w x]) ([]) : Bool),
  (let p := Pfx.none; let w : W0 := (w0 2 4 3); WF.scan_32 p w && crossesB demo p ((Dst.ofCode w.d)) ([.code w.a]) ([]) : Bool),
  (let p := Pfx.none; let w : W0 := (w0 2 4 3); let x : W1 := (w1 1 0); WF.scan_64 p w x && crossesB demo p ((dstD w x)) ([srcA w x]) ([]) : Bool),
  (let p := Pfx.none; let w : W0 := (w0 8 5 3); let x : W1 := ⟨0x38, 0, 0, 32⟩; WF.draw p w x && crossesB demo p ((Dst.ofCode w.d)) ([.code w.a, .code w.b]) ((drawTSrc x :: keySrcs x.c)) : Bool),
  (let p := Pfx.none; let w : W0 := (w0 2 4 0); let x : W1 := (w1 1 24); WF.drawm p w x && crossesB demo p ((Dst.ofCode w.d)) ([.code w.a, (Src.code w.a).up 1]) ((keySrcs x.c)) : Bool)].all id = true := by decide +kernel

theorem meets_SpecialRegisters_lget : [
  (let p := Pfx.none; let w : W0 := (w0 2 4 0); WF.lget p w && computesB demo p ((Dst.ofCode w.d)) ([(w.luA, .code w.a)]) : Bool)].all id = true := by decide +kernel

/-! For each statement, operands and a state for each of its clauses. `passesB` and `passB` say that the checks of an instruction pass
(`passesB_passes`, `passB_passes`), `mayActB` and `meetsB` that its group may act (`mayActB_issues`, `meetsB_issues`). -/

theorem meets_Branches : [
  ((WF.bra_64 Pfx.none (w0 0 0 0) (w1 2 0) && passesB demoCode Pfx.none (fun c => braChecks c 0#6 0 2)) : Bool),
  ((WF.bra_64 Pfx.none (w0 0x10 5 0) (w1 2 0) &&
    passesB (demoCode.modWarp 1 (fun x => {x with k := setPad MaskReg.zero x.k 0 ⟨0xFF#32,[],0#8⟩})) Pfx.none (fun c => braChecks c 0x10#6 5 2)) : Bool),
  ((WF.bra_96 Pfx.none (w0 0 0 0) (w1 0 0) 3 && passesB demoCode Pfx.none (fun c => braChecks c 0#6 0 3)) : Bool)].all id = true := by decide +kernel

theorem meets_CallsAndTables : [
  ((WF.call_64 Pfx.none (w0 0 0 0) (w1 3 0) && passesB demoCode Pfx.none (fun c => callChecks c 3)) : Bool),
  ((WF.call_96 Pfx.none (w0 0 0 0) (w1 0 0) 3 && passesB demoCode Pfx.none (fun c => callChecks c 3)) : Bool),
  ((WF.brx Pfx.none (w0 0 20 26) (w1 0 29) && passesB demoCodeK Pfx.none (fun c => indirectChecks c (w0 0 20 26) (w1 0 29) false)) : Bool),
  ((WF.callx Pfx.none (w0 0 20 26) (w1 0 29) && passesB demoCodeK Pfx.none (fun c => indirectChecks c (w0 0 20 26) (w1 0 29) true)) : Bool),
  ((passB (demoLaneOf demoCode) (pk 0) (fun c => callChecks c 3) (fun c _ _ => c.on != 0 && c.on != c.act)) : Bool),
  ((passB (demoLaneOf demoCalled) (pk 0) retChecks (fun c r _ => r.isSome && c.on != 0 && c.on != c.act)) : Bool),
  ((WF.ret Pfx.none (w0 0 0 0) && passesB demoCalled Pfx.none retChecks) : Bool)].all id = true := by decide +kernel

theorem meets_CuePoints : [
  ((WF.cue_64 Pfx.none (w0 0 0 0) (w1 3 0) && passesB demo Pfx.none (fun c => cueChecks c 3#16 0#16 0#8 0)) : Bool),
  ((WF.cue_96 Pfx.none (w0 0 0 0) (w1 3 0) 0x00010001 && passesB demo Pfx.none (fun c => cueChecks c 3#16 1#16 1#8 0)) : Bool)].all id = true := by decide +kernel

theorem meets_HandlerInstructions : [
  ((WF.rett Pfx.none (w0 0 0 0) && passesB demo Pfx.none (fun c => checkSrcs c [.code 48#6, .code 49#6] c.on)) : Bool),
  ((WF.rett Pfx.none (w0 0 0 0) && passB demoHandler Pfx.none (fun c => checkSrcs c [.code 48#6, .code 49#6] c.on) (fun c _ s1 => (demoHandler.warp 1).subs.all (fun u => u.hold != .syncw) && !(demoHandler.warp 1).sheet && (demoHandler.warp 1).handler && (demoHandler.warp 1).tc &&& (demoHandler.warp 1).disposition &&& tcClearable &&& 0xFFFFFF#64 == 0 && pairVal demoHandler c (.code 48#6) 0 == 0x10008#64 && legalPc 0x10008#64 && (match fetchLine s1 c.quad c.vd (lineBase 0x10008#64) with | (.ok ws, _) => startsGroup ws (lineSlot 0x10008#64) | _ => false))) : Bool),
  ((WF.rett Pfx.none (w0 0 0 0) &&
    passB demoSheet Pfx.none (fun c => checkSrcs c [.code 48#6, .code 49#6] c.on) (fun _ _ _ => (demoSheet.warp 1).subs.all (fun u => u.hold != .syncw) &&
    (demoSheet.warp 1).sheet)) : Bool),
  ((WF.rett Pfx.none (w0 0 0 0) && meetsB demo Pfx.none (fun _ => !demo.cur.probe && !(demo.warp 1).sheet && !(demo.warp 1).handler)) : Bool),
  ((WF.tclr Pfx.none (w0 0 26 0) && meetsB demo Pfx.none (fun c => c.on != 0 && canReadB demo c [.code 26, (Src.code 26).up 1] c.on)) : Bool),
  ((WF.tclr (pk 1) (w0 0 26 0) && meetsB demo (pk 1) (fun c => c.on == 0)) : Bool),
  ((WF.tmask Pfx.none (w0 38 26 0) && meetsB demo Pfx.none (fun c => canReadB demo c [.code 26, (Src.code 26).up 1] c.on)) : Bool),
  ((WF.halt Pfx.none (w0 0 0 0) && meetsB demoDebug Pfx.none (fun c => (demoDebug.vd c.vd).debug && c.sub.id == none)) : Bool),
  ((WF.halt Pfx.none (w0 0 0 0) && meetsB demo Pfx.none (fun _ => !(demo.vd (demo.warp 1).vd).debug && (demo.warp 1).life == .resident)) : Bool)].all id = true := by decide +kernel

theorem meets_SpecialRegisters : [
  ((WF.sreg_read Pfx.none (w0 2 16 20) && passesB demo Pfx.none (fun c => checkDst c (Dst.ofCode 2))) : Bool),
  ((WF.sreg_read Pfx.none (w0 2 9 20) && passB demo Pfx.none (fun c => checkDst c (Dst.ofCode 2)) (fun _ _ _ => true)) : Bool),
  ((WF.sreg_write Pfx.none (w0 20 18 40) && meetsB demo Pfx.none (fun c => c.on != 0 && canReadB demo c [.code 40] c.on)) : Bool),
  ((WF.sreg_write (pk 1) (w0 20 18 40) && meetsB demo (pk 1) (fun c => c.on == 0)) : Bool)].all id = true := by decide +kernel

theorem meets_LabelRaisesAndChecks : [
  ((WF.lraise_32 Pfx.none (w0 2 3 26) && passesB demo Pfx.none (fun c => lraiseChecks c (Dst.ofCode 2) (.code 3) (.code 25))) : Bool),
  ((WF.lraise_64 Pfx.none (w0 2 3 20) (w1 255 0) &&
    passesB demo Pfx.none (fun c => lraiseChecks c (dstD (w0 2 3 20) (w1 255 0)) (srcA (w0 2 3 20) (w1 255 0)) (immB immZ (w0 2 3 20) (w1 255 0)).2)) : Bool),
  ((WF.lchk_32 Pfx.none (w0 0 3 25) && passesB demo Pfx.none (fun c => lchkChecks c (.code 3) (.code 25))) : Bool),
  ((WF.lchk_64 Pfx.none (w0 0 3 20) (w1 255 0) &&
    passesB demo Pfx.none (fun c => lchkChecks c (srcA (w0 0 3 20) (w1 255 0)) (immB immZ (w0 0 3 20) (w1 255 0)).2)) : Bool),
  ((WF.lchk_k_32 Pfx.none (w0 10 3 25) && passesB demo Pfx.none (fun c => lchkBits c (.code 3) (.code 25))) : Bool),
  ((WF.lchk_k_64 Pfx.none (w0 10 3 20) (w1 255 0) &&
    passesB demo Pfx.none (fun c => lchkBits c (srcA (w0 10 3 20) (w1 255 0)) (immB immZ (w0 10 3 20) (w1 255 0)).2)) : Bool)].all id = true := by decide +kernel

theorem meets_Declassification : [
  ((WF.dcl_reg Pfx.none (w0 2 3 0) (w1 3 0) &&
    passesB demoGrant Pfx.none (fun c => do checkDst c (.o 2); checkSrcs c [.code 3] c.on; dclChecks c (.o 2) (.code 3) 3)) : Bool),
  ((WF.dcl_g Pfx.none (w0 20 26 0) (w1 0x43 0) &&
    passesB demoGrant Pfx.none (fun c => do checkSrcs c (addrSrcs false (.code 26)) c.on; dclPlaces c false (.code 26) 3)) : Bool),
  ((WF.dcl_sp Pfx.none (w0 20 28 0) (w1 0x83 0) &&
    passesB demoGrant Pfx.none (fun c => do checkSrcs c (addrSrcs true (.code 28)) c.on; dclPlaces c true (.code 28) 3)) : Bool),
  ((WF.dcl_reg Pfx.none (w0 2 3 0) (w1 3 0) &&
    passB demoGrant Pfx.none (fun c => do checkDst c (.o 2); checkSrcs c [.code 3] c.on; dclChecks c (.o 2) (.code 3) 3) (fun c r s1 => c.on != 0 &&
    c.kl == [] && (s1.warp 1).splits == [] && ((s1.vd 1).table.get? (r.2.get 0#8 31).toNat).isSome)) : Bool),
  ((WF.dcl_reg (pk 1) (w0 2 3 0) (w1 63 0) && meetsB demo (pk 1) (fun c => c.on == 0 && canReadB demo c [.code 3] c.on &&
    canWriteB demo c (.o 2))) : Bool),
  ((WF.dcl_g Pfx.none (w0 20 26 0) (w1 0x43 0) &&
    passB demoGrant Pfx.none (fun c => do checkSrcs c (addrSrcs false (.code 26)) c.on; dclPlaces c false (.code 26) 3) (fun c _ _ => c.on != 0)) : Bool),
  ((WF.dcl_g (pk 1) (w0 20 26 0) (w1 0x43 0) && meetsB demo (pk 1) (fun c => c.on == 0 && canReadB demo c (addrSrcs false (.code 26)) c.on)) : Bool),
  ((WF.dcl_sp (pk 1) (w0 20 28 0) (w1 0x83 0) && meetsB demo (pk 1) (fun c => c.on == 0 && canReadB demo c (addrSrcs true (.code 28)) c.on)) : Bool)].all id = true := by decide +kernel

theorem meets_GlobalAndScratchpadLoads : [
  ((WF.ld_32 Pfx.none (w0 2 26 1) && passesB demo Pfx.none (fun c => loadChecks c (.o 2) false 4 (.code 26) (wordOff 1))) : Bool),
  ((WF.lds_64 Pfx.none (w0 4 28 20) (w1 6 0) && passesB demo Pfx.none (fun c => loadChecks c (.o 4) true 16 (.code 28) 0)) : Bool),
  ((WF.ld_32 Pfx.none (w0 40 26 0) && passesB demo Pfx.none (fun c => loadChecks c (.u 16) false 4 (.code 26) 0)) : Bool),
  ((WF.ld_64 Pfx.none (w0 4 26 20) (w1 6 0) &&
    passesB demo Pfx.none (fun c => loadChecks c (.o 4) false (sizeBytes (sizeOf' (w1 6 0))) (.code 26) (byteOff (w1 6 0)))) : Bool),
  ((WF.ld_96 Pfx.none (w0 2 26 20) (w1 0 0) 0xFFFC &&
    passesB demo Pfx.none (fun c => loadChecks c (dstD (w0 2 26 20) (w1 0 0)) false (sizeBytes (sizeOf' (w1 0 0))) (.code 26) 0xFFFF)) : Bool),
  ((WF.lds_32 Pfx.none (w0 2 28 63) && passesB demo Pfx.none (fun c => loadChecks c (.o 2) true 4 (.code 28) (wordOff 63))) : Bool),
  ((WF.lds_96 Pfx.none (w0 2 28 20) (w1 0 0) 0xFEFF &&
    passesB demo Pfx.none (fun c => loadChecks c (dstD (w0 2 28 20) (w1 0 0)) true (sizeBytes (sizeOf' (w1 0 0))) (.code 28) 0xFEFF)) : Bool),
  ((WF.ld_32 (pk 0) (w0 2 26 0) && passB demoK (pk 0) (fun c => loadChecks c (.o 2) false 4 (.code 26) 0) (fun c _ _ => hasLane c.on 7 &&
    !hasLane c.on 8)) : Bool)].all id = true := by decide +kernel

theorem meets_GlobalAndScratchpadStores : [
  ((WF.st_32 Pfx.none (w0 0 26 2) && passesB demo Pfx.none (fun c => storeChecks c false 4 (.code 26) (.code 2) 0)) : Bool),
  ((WF.sts_32 Pfx.none (w0 0 28 2) && passesB demo Pfx.none (fun c => storeChecks c true 4 (.code 28) (.code 2) 0)) : Bool),
  ((WF.st_64 Pfx.none (w0 0 26 2) (w1 0x44 0) &&
    passesB demo Pfx.none (fun c => storeChecks c false (sizeOf' (w1 0x44 0)) (.code 26) (srcB (w0 0 26 2) (w1 0x44 0)) (byteOff (w1 0x44 0)))) : Bool),
  ((WF.st_96 Pfx.none (w0 0 26 2) (w1 0 0) 0xFFFF &&
    passesB demo Pfx.none (fun c => storeChecks c false (sizeOf' (w1 0 0)) (.code 26) (srcB (w0 0 26 2) (w1 0 0)) 0xFFFF)) : Bool),
  ((WF.sts_64 Pfx.none (w0 0 28 2) (w1 0x44 0) &&
    passesB demo Pfx.none (fun c => storeChecks c true (sizeOf' (w1 0x44 0)) (.code 28) (srcB (w0 0 28 2) (w1 0x44 0)) (byteOff (w1 0x44 0)))) : Bool),
  ((WF.sts_96 Pfx.none (w0 0 28 2) (w1 0 0) 0xFEFF &&
    passesB demo Pfx.none (fun c => storeChecks c true (sizeOf' (w1 0 0)) (.code 28) (srcB (w0 0 28 2) (w1 0 0)) 0xFEFF)) : Bool)].all id = true := by decide +kernel

theorem meets_FullEmptyAccesses : [
  ((WF.ldf_32 Pfx.none (w0 2 5 1) && passesB demo Pfx.none (fun c => feChecks c true (.code 5) [] (.o 2) 0)) : Bool),
  ((WF.ste_32 Pfx.none (w0 1 5 3) && passesB demo Pfx.none (fun c => feChecks c false (.code 5) [.code 3] .none 0)) : Bool),
  ((WF.ldf_32 Pfx.none (w0 2 5 7) &&
    passB demoWords Pfx.none (fun c => feChecks c true (.code 5) [] (.o 2) 0) (fun _ r s1 => (List.range 32).all (fun i => placeOf r.1 i == .spad 0 (256 + 4 * i) &&
    (s1.spadOf 1 0).tag (64 + i) == .full) && s1.warps.all (fun e => e.2.fe == []))) : Bool),
  ((WF.ste_32 Pfx.none (w0 0 6 3) &&
    passB demoWords Pfx.none (fun c => feChecks c false (.code 6) [.code 3] .none 0) (fun _ r s1 => (List.range 32).all (fun i => placeOf r.1 i == .spad 0 (512 + 4 * i) &&
    (s1.spadOf 1 0).tag (128 + i) == .empty) && s1.warps.all (fun e => e.2.fe == []))) : Bool),
  ((WF.ldf_64 Pfx.none (w0 2 5 7) (w1 0x40 0) &&
    passesB demo Pfx.none (fun c => feChecks c true (srcA (w0 2 5 7) (w1 0x40 0)) [] (dstD (w0 2 5 7) (w1 0x40 0)) (byteOff (w1 0x40 0)))) : Bool),
  ((WF.ste_64 Pfx.none (w0 7 5 3) (w1 0x40 0) &&
    passesB demo Pfx.none (fun c => feChecks c false (srcA (w0 7 5 3) (w1 0x40 0)) [srcB (w0 7 5 3) (w1 0x40 0)] .none (byteOff (w1 0x40 0)))) : Bool),
  (((demoFe.warp 1).life == .resident && ((demoFe.warp 1).fe.find? (fun f => feReady demoFe 1 f 31)).isSome) : Bool),
  (((demoFeLoad.warp 1).life == .resident && ((demoFeLoad.warp 1).fe.find? (fun f => feReady demoFeLoad 1 f 0)).isSome) : Bool)].all id = true := by decide +kernel

theorem meets_SplitPhaseLoads : [
  ((WF.ldx_64 Pfx.none (w0 2 26 3) (w1 4 0) && passesB demo Pfx.none (fun c => ldxChecks c (.o 2) false 4 (.code 26) 0)) : Bool),
  ((WF.ldx_64 Pfx.none (w0 2 26 3) (w1 4 0) && passB demo Pfx.none (fun c => ldxChecks c (.o 2) false 4 (.code 26) 0) (fun c _ _ => c.on != 0)) : Bool),
  ((WF.ldx_64 (pk 1) (w0 2 26 15) (w1 4 0) && passB demo (pk 1) (fun c => ldxChecks c (.o 2) false 4 (.code 26) 0) (fun c _ _ => c.on == 0)) : Bool),
  ((WF.ldx_96 Pfx.none (w0 2 28 19) (w1 4 0) 0x40 &&
    passesB demo Pfx.none (fun c => ldxChecks c (dstD (w0 2 28 19) (w1 4 0)) true (sizeBytes (sizeOf' (w1 4 0))) (srcA (w0 2 28 19) (w1 4 0)) 0x40)) : Bool),
  ((((demoLdx.warp 1).ldx.find? (fun l => l.id == 7 && hasLane l.left 31)).isSome) : Bool),
  ((WF.waitc (pk 1) (w0 0 15 0) (w1 9 0) && meetsB demo (pk 1) (fun c => c.on == 0)) : Bool),
  ((WF.waitc Pfx.none (w0 0 0 0) (w1 0x8001 0) &&
    meetsB demo Pfx.none (fun _ => ((((demo.warp 1).ac[0]?).getD 0#16) - 0x8001#16).toNat < 2 ^ 15)) : Bool)].all id = true := by decide +kernel

theorem meets_GranuleLabelInstructions : [
  ((WF.graise Pfx.none (w0 1 28 25) && passesB demo Pfx.none (fun c => graiseChecks c true (.code 28) (.code 25))) : Bool),
  ((WF.glbl Pfx.none (w0 2 26 0) && passesB demo Pfx.none (fun c => glblChecks c false (.code 26))) : Bool),
  ((WF.seal Pfx.none (w0 0 26 51) && passesB demo Pfx.none (fun c => sealChecks c (.code 26) (.code 51))) : Bool),
  ((WF.graise Pfx.none (w0 0 26 25) && passesB demo Pfx.none (fun c => graiseChecks c false (.code 26) (.code 25))) : Bool),
  ((WF.glbl Pfx.none (w0 2 28 1) && passesB demo Pfx.none (fun c => glblChecks c true (.code 28))) : Bool),
  ((WF.seal Pfx.none (w0 0 26 51) && passB demo Pfx.none (fun c => sealChecks c (.code 26) (.code 51)) (fun c ls _ => c.on != 0 &&
    ls.length == 1)) : Bool),
  ((WF.unseal Pfx.none (w0 0 26 51) && passesB demo Pfx.none (fun c => sealChecks c (.code 26) (.code 51))) : Bool),
  ((WF.seal (pk 1) (w0 0 26 24) && WF.unseal (pk 1) (w0 0 26 24) && meetsB demo (pk 1) (fun c => c.on == 0)) : Bool)].all id = true := by decide +kernel

theorem meets_Atomics : [
  ((WF.atoms Pfx.none (w0 2 28 3) (w1 0 0) && passesB demo Pfx.none (fun c => atomChecks c (.o 2) (atomArgs true (w0 2 28 3) (w1 0 0)))) : Bool),
  ((WF.atom Pfx.none (w0 2 26 3) (w1 0 0) && passesB demoClear Pfx.none (fun c => atomChecks c (.o 2) (atomArgs false (w0 2 26 3) (w1 0 0)))) : Bool),
  ((WF.rdm Pfx.none (w0 0 26 3) (w1 0 0) && passesB demo Pfx.none (fun c => rdmChecks c (atomArgs false (w0 0 26 3) (w1 0 0)))) : Bool),
  ((WF.atoms (pk 0) (w0 2 28 3) (w1 0 0) && passB demoLane (pk 0) (fun c => atomChecks c (.o 2) (atomArgs true (w0 2 28 3) (w1 0 0))) (fun c ps s1 => c.on == laneBit 3 && (SMap.get? ps 3).map (fun q => q.tgt) == some (.spad 0 256) && (match atomPerform s1 c (atomArgs true (w0 2 28 3) (w1 0 0)) ps with | (.ok _, _) => true | _ => false))) : Bool),
  ((WF.atom Pfx.none (w0 2 26 3) (w1 0 0) && passB demoClear Pfx.none (fun c => atomChecks c (.o 2) (atomArgs false (w0 2 26 3) (w1 0 0))) (fun c ps s1 => ps.length == 32 && (match atomPerform s1 c (atomArgs false (w0 2 26 3) (w1 0 0)) ps with | (.ok _, _) => true | _ => false))) : Bool),
  ((WF.atom (pk 1) (w0 2 26 3) (w1 0 0) && passB demoClear (pk 1) (fun c => atomChecks c (.o 2) (atomArgs false (w0 2 26 3) (w1 0 0))) (fun c ps s1 => ps == [] && (match atomPerform s1 c (atomArgs false (w0 2 26 3) (w1 0 0)) ps with | (.ok _, _) => true | _ => false))) : Bool),
  ((WF.rdm (pk 1) (w0 0 26 3) (w1 0 0) &&
    passB demo (pk 1) (fun c => rdmChecks c (atomArgs false (w0 0 26 3) (w1 0 0))) (fun c _ _ => c.on == 0)) : Bool)].all id = true := by decide +kernel

theorem meets_MailboxInstructions : [
  ((WF.mb_open Pfx.none (w0 6 20 34) (w1 6 0) &&
    passesB (demo.modDie 0 (fun d => {d with mailboxes := d.mailboxes.put 6 {demoBox with bound := false}})) Pfx.none (fun c => openChecks c (w0 6 20 34) (w1 6 0))) : Bool),
  ((WF.mb_send_32 Pfx.none (w0 2 26 0) && passesB demo Pfx.none (fun c => pairChecks c (w0 2 26 0))) : Bool),
  ((WF.mb_send_64 Pfx.none (w0 2 3 0) (w1 4 0) && passesB demo Pfx.none (fun c => laneChecks c (w0 2 3 0) (w1 4 0))) : Bool),
  ((WF.mb_send_sp Pfx.none (w0 2 28 0) (w1 2 0) && passesB demo Pfx.none (fun c => granuleChecks c (w0 2 28 0) (w1 2 0))) : Bool),
  ((WF.qwr Pfx.none (w0 2 26 0) && passesB demo Pfx.none (fun c => pairChecks c (w0 2 26 0))) : Bool),
  ((WF.mb_mode Pfx.none (w0 2 1 0) && passesB demo Pfx.none (fun c => checkBox c 2)) : Bool),
  ((WF.mb_send_32 (pk 1) (w0 2 26 0) && passB demo (pk 1) (fun c => pairChecks c (w0 2 26 0)) (fun _ r _ => r.isNone)) : Bool),
  ((WF.mb_send_64 Pfx.none (w0 2 3 0) (w1 4 0) && passB demo Pfx.none (fun c => laneChecks c (w0 2 3 0) (w1 4 0)) (fun _ r s1 => match r with | some x => !x.poisoned && x.mailbox / 512 < 9 && !(s1.mailbox (x.mailbox / 512) (x.mailbox % 512)).ended && !(s1.mailbox (x.mailbox / 512) (x.mailbox % 512)).frozen | none => false)) : Bool),
  ((WF.mb_ver Pfx.none (w0 0 40 0) && meetsB demo Pfx.none (fun c => canReadB demo c [.code 40] c.act)) : Bool)].all id = true := by decide +kernel

theorem meets_LockInstructions : [
  ((WF.lock_32 Pfx.none (w0 30 28 1) && passesB demo Pfx.none (fun c => lockChecks c (w0 30 28 1) true)) : Bool),
  ((WF.lock_32 Pfx.none (w0 30 26 0) && passesB demoClear Pfx.none (fun c => lockChecks c (w0 30 26 0) true)) : Bool),
  ((WF.trylock_64 Pfx.none (w0 30 28 1) (w1 5 3) && passesB demo Pfx.none (fun c => lockChecks c (w0 30 28 1) false)) : Bool),
  ((WF.unlock_32 Pfx.none (w0 0 28 1) && passesB demoHolder Pfx.none (fun c => unlockChecks c (w0 0 28 1))) : Bool),
  ((WF.lock_64 Pfx.none (w0 30 28 1) (w1 5 0) && passesB demo Pfx.none (fun c => lockChecks c (w0 30 28 1) true)) : Bool),
  ((WF.trylock_32 Pfx.none (w0 30 28 1) && passesB demo Pfx.none (fun c => lockChecks c (w0 30 28 1) false)) : Bool),
  ((passB demo Pfx.none (fun c => lockChecks c (w0 30 28 1) false) (fun c pl s1 => pl == .spad 0 256 && mayTake (lockAt s1 c.w pl) c.w)) : Bool),
  ((passB demoOwned Pfx.none (fun c => lockChecks c (w0 30 28 1) false) (fun c pl s1 => pl == .spad 0 256 && !mayTake (lockAt s1 c.w pl) c.w)) : Bool),
  ((WF.unlock_64 Pfx.none (w0 0 28 1) (w1 1 0) && passesB demoHolder Pfx.none (fun c => unlockChecks c (w0 0 28 1))) : Bool)].all id = true := by decide +kernel

theorem meets_EstateInstructions : [
  ((WF.promise Pfx.none (w0 0 32 0) && passesB demo Pfx.none (fun c => promiseChecks c (.code 32))) : Bool),
  ((WF.heir Pfx.none (w0 7 20 20) (w1 0 0) && passesB demo Pfx.none (fun c => heirChecks c (w0 7 20 20) (w1 0 0))) : Bool),
  ((WF.heir Pfx.none (w0 1 28 20) (w1 2 0) && passesB demoHolder Pfx.none (fun c => heirChecks c (w0 1 28 20) (w1 2 0))) : Bool),
  ((WF.will Pfx.none (w0 0 46 0) && passesB demo Pfx.none (fun c => willChecks c (.code 46))) : Bool),
  ((WF.promise Pfx.none (w0 0 32 0) && passB demo Pfx.none (fun c => promiseChecks c (.code 32)) (fun _ r _ => r.isSome)) : Bool),
  ((WF.promise (pk 1) (w0 0 32 0) && passB demo (pk 1) (fun c => promiseChecks c (.code 32)) (fun _ r _ => r.isNone)) : Bool),
  ((passB demo Pfx.none (fun c => heirChecks c (w0 7 20 20) (w1 0 0)) (fun _ r _ => (r.map (fun h => h.kind)) == some 7)) : Bool),
  ((passB demoHolder Pfx.none (fun c => heirChecks c (w0 1 28 20) (w1 2 0)) (fun c r s1 => match r with | some h => h.kind != 7 && field h.spec 0 3 != 7#3 && h.at' == some 0 && ((s1.warp c.w).estate[0]?).isSome | none => false)) : Bool),
  ((WF.estq Pfx.none (w0 3 1 0) && meetsB demo Pfx.none (fun _ => ((demo.warp 1).queue 3).kind == some 3)) : Bool)].all id = true := by decide +kernel

theorem meets_LaunchInstructions : [
  ((WF.launch Pfx.none (w0 21 26 20) (w1 0 0) && passesB demo Pfx.none (fun c => launchChecks c (w0 21 26 20))) : Bool),
  ((WF.launch Pfx.none (w0 21 26 20) (w1 0 0) && passB demoParent Pfx.none (fun c => launchChecks c (w0 21 26 20)) (fun c r s1 => match r with | some y => childRejection s1 c.w y.bytes == 0 | none => false)) : Bool),
  ((passB demo Pfx.none (fun c => launchChecks c (w0 21 26 20)) (fun c r s1 => match r with | some y => childRejection s1 c.w y.bytes != 0 | none => false)) : Bool),
  ((WF.launch (pk 1) (w0 21 26 20) (w1 0 0) && passB demo (pk 1) (fun c => launchChecks c (w0 21 26 20)) (fun _ r _ => r.isNone)) : Bool),
  ((WF.lwait Pfx.none (w0 0 0 0) && meetsB demo Pfx.none (fun _ => (childrenOf demo (demo.warp 1).grid) == [])) : Bool)].all id = true := by decide +kernel

theorem meets_MatrixRegisters : [
  ((WF.mx_gang Pfx.none (w0 0 25 0) && passesB demo Pfx.none (fun c => gangChecks c (.code 25))) : Bool),
  ((WF.mx_gang Pfx.none (w0 0 40 0) && passesB (demoGang.modWarp 1 (fun x => {x with gang := 0})) Pfx.none (fun c => gangChecks c (.code 40))) : Bool),
  ((WF.mx_drop Pfx.none (w0 0 25 1) && passesB demoGang Pfx.none (fun c => dropChecks c (w0 0 25 1))) : Bool),
  ((WF.mx_rdv Pfx.none (w0 2 0 0) (w1 0 42) && passesB demoGang Pfx.none (fun c => rdvChecks c (w0 2 0 0) (w1 0 42))) : Bool),
  ((WF.mx_wait Pfx.none (w0 0 0 0) && meetsB demo Pfx.none (fun _ => !mxBusy demo 1)) : Bool)].all id = true := by decide +kernel

theorem meets_MatrixCommands : [
  ((WF.mx_fmt Pfx.none (w0 16 20 32) (w1 0 24) && passesB demoFmt Pfx.none (fun c => fmtChecks c (w0 16 20 32) (w1 0 24))) : Bool),
  ((WF.mx_ldb Pfx.none (w0 16 0 28) (w1 0 42) && passesB demoGang Pfx.none (fun c => ldbChecks c (w0 16 0 28) (w1 0 42))) : Bool),
  ((WF.mx_zero Pfx.none (w0 16 0 0) (w1 0 42) && passesB demoGang Pfx.none (fun c => zeroChecks c (w0 16 0 0) (w1 0 42))) : Bool),
  ((WF.mx_wr Pfx.none (w0 16 0 28) (w1 0 42) && passesB demoGang Pfx.none (fun c => wrChecks c (w0 16 0 28) (w1 0 42))) : Bool),
  ((WF.mx_rd Pfx.none (w0 16 20 28) (w1 0 42) && passesB demoGang Pfx.none (fun c => readChecks c false (w0 16 20 28) (w1 0 42))) : Bool),
  ((WF.mx_qnt Pfx.none (w0 16 32 28) (w1 288 42) && passesB demoGang Pfx.none (fun c => readChecks c true (w0 16 32 28) (w1 288 42))) : Bool)].all id = true := by decide +kernel

theorem meets_JointOperations : [
  ((WF.mx_mma Pfx.none (w0 16 4 28) (w1 0 36) && passesB demoGang Pfx.none (fun c => enterChecks c false (w0 16 4 28) (w1 0 36))) : Bool),
  ((WF.mx_mmas Pfx.none (w0 16 4 28) (w1 0 36) && passesB demoGang Pfx.none (fun c => enterChecks c true (w0 16 4 28) (w1 0 36))) : Bool),
  ((WF.mx_mma Pfx.none (w0 16 4 28) (w1 0 36) && WF.mx_mmas Pfx.none (w0 16 4 28) (w1 0 36) &&
    meetsB (demoJoint true) Pfx.none (fun c => ((demoJoint true).quad c.quad).rendezvous.any (fun m => m.warp == c.w && m.done))) : Bool),
  ((passB demoGang Pfx.none (fun c => enterChecks c false (w0 16 4 28) (w1 0 36)) (fun c r _ => r.isSome && !demoGang.cur.probe &&
    ((demoGang.quad c.quad).rendezvous.find? (fun m => m.warp == 1)).isNone)) : Bool),
  ((passB demoGang Pfx.none (fun c => enterChecks c true (w0 16 4 28) (w1 0 36)) (fun _ r _ => r.isSome)) : Bool),
  ((match ((demoJoint false).quad 0).rendezvous.findSome? (fun m => if m.done then none else (fullGang (demoJoint false) 0 m).map (fun ms => (m, ms))) with | some (m, ms) => (match gather (demoJoint false) 0 ms m with | .ok ga => !ga.fmtBad && !ga.scaleBad && ga.rows.all (fun a => !a.bad && !(accRow (demoJoint false) 0 a.row).poison) && ga.rows.length == 2 | .error _ => false) | none => false) : Bool),
  (((demoCmds (demoCmd demoMx)).cmds.get? 9 == some (demoCmd demoMx) && !(demoCmd demoMx).consumed) : Bool),
  ((!heldForVerdict (demoCmds { demoCmd demoMx with consumed := true }) 9 &&
    (checkWrites (demoCmds { demoCmd demoMx with consumed := true }) { demoCmd demoMx with consumed := true } [⟨0x800, List.replicate 16 5#8, 0#8⟩] (writeGranules [⟨0x800, List.replicate 16 5#8, 0#8⟩])).1 == none) : Bool)].all id = true := by decide +kernel

theorem meets_BarrierObjects : [
  ((WF.barw Pfx.none (w0 1 28 25) && passesB demoObject Pfx.none (fun c => barwChecks c true (.code 28) (.code 25))) : Bool),
  ((WF.bobj_arv Pfx.none (w0 1 28 29) && passesB demoObject Pfx.none (fun c => arvChecks c (w0 1 28 29))) : Bool),
  ((WF.bobj_init Pfx.none (w0 17 28 29) (w1 32 0) && passesB demo Pfx.none (fun c => initChecks c (w0 17 28 29) (w1 32 0))) : Bool),
  ((passB demoObject Pfx.none (fun c => arvChecks c (w0 1 28 29)) (fun c r s1 => match r with | some x => (match (objPlace s1 (c.doer s1) x.spad x.addr).1 with | .ok (.spad b o) => x.count != 0 && !(s1.spadOf c.w b).poisoned o 32 && objValid ((s1.spadOf c.w b).read o 32) && s1.dominates c.vd ((s1.spadOf c.w b).label o) x.lbl | _ => false) | none => false)) : Bool),
  ((WF.bobj_arv (pk 1) (w0 1 28 29) && passB demo (pk 1) (fun c => arvChecks c (w0 1 28 29)) (fun _ r _ => r.isNone)) : Bool)].all id = true := by decide +kernel

theorem meets_TransferInstructions : [
  ((WF.xf_copy_64 Pfx.none (w0 17 32 20) (w1 0 1) && passesB demoXf Pfx.none (fun c => xfChecks c 0 (w0 17 32 20) (w1 0 1))) : Bool),
  ((WF.xf_copy_96 Pfx.none (w0 17 32 28) (w1 32 1) 1 && passesB demoXf Pfx.none (fun c => xfChecks c 0 (w0 17 32 28) (w1 32 1))) : Bool),
  ((WF.xf_pref Pfx.none (w0 0 32 28) (w1 32 1) && passesB demoXf Pfx.none (fun c => xfChecks c 1 (w0 0 32 28) (w1 32 1))) : Bool),
  ((WF.xf_yield Pfx.none (w0 0 32 20) (w1 64 1) &&
    passesB (pokeDie demoXf 0 0x10000 (lineBytes demoLine)) Pfx.none (fun c => xfChecks c 2 (w0 0 32 20) (w1 64 1))) : Bool),
  ((passB { demoXf with cur := demoXf.cur } (pk 1) (fun c => xfChecks c 0 (w0 17 32 20) (w1 0 1)) (fun c _ _ => c.on == 0)) : Bool),
  ((passB (pokeDie demoXf 0 0x10000 (lineBytes demoLine)) Pfx.none (fun c => xfChecks c 2 (w0 0 32 20) (w1 64 1)) (fun c _ _ => c.on != 0)) : Bool),
  ((WF.xf_wait Pfx.none (w0 0 0 0) && mayActB demo Pfx.none && demo.cmds == [] && !entriesHeld demo 1) : Bool),
  ((WF.xf_cancel Pfx.none (w0 0 40 0) && meetsB demo Pfx.none (fun c => canReadB demo c [.code 40] c.on)) : Bool)].all id = true := by decide +kernel

theorem meets_CollectiveCommands : [
  ((WF.cl_put Pfx.none (w0 0 26 3) (w1 0x0488 24) && passesB demo Pfx.none (fun c => clChecks c 4 (w0 0 26 3) (w1 0x0488 24))) : Bool),
  ((WF.cl_get Pfx.none (w0 2 26 0) (w1 0x0488 24) && passesB demo Pfx.none (fun c => clChecks c 5 (w0 2 26 0) (w1 0x0488 24))) : Bool),
  ((WF.cl_red Pfx.none (w0 0 26 3) (w1 0 24) && passesB demo Pfx.none (fun c => clChecks c 6 (w0 0 26 3) (w1 0 24))) : Bool),
  ((WF.cl_atom Pfx.none (w0 2 26 4) (w1 0x0088 24) && passesB demo Pfx.none (fun c => clChecks c 7 (w0 2 26 4) (w1 0x0088 24))) : Bool),
  ((WF.cl_draw Pfx.none ⟨2#2, false, false, false, 6, 26, 0⟩ (w1 0x0088 24) &&
    passesB demo Pfx.none (fun c => clChecks c 8 ⟨2#2, false, false, false, 6, 26, 0⟩ (w1 0x0088 24))) : Bool),
  ((WF.cl_sig Pfx.none (w0 0 26 29) (w1 0 24) && passesB demo Pfx.none (fun c => clChecks c 9 (w0 0 26 29) (w1 0 24))) : Bool),
  ((WF.cl_flush Pfx.none (w0 17 26 47) && passesB demo Pfx.none (fun c => flushChecks c (w0 17 26 47))) : Bool),
  ((passB demo Pfx.none (fun c => clChecks c 4 (w0 0 26 3) (w1 0x0488 24)) (fun c _ _ => c.on != 0)) : Bool),
  ((WF.cl_put (pk 1) (w0 0 26 3) (w1 0x0488 24) &&
    passB demo (pk 1) (fun c => clChecks c 4 (w0 0 26 3) (w1 0x0488 24)) (fun c _ _ => c.on == 0)) : Bool)].all id = true := by decide +kernel

theorem meets_NoEffect : [
  ((mayActB demo Pfx.none) : Bool),
  ((WF.pad Pfx.none (w0 0 63 0) && mayActB demo Pfx.none) : Bool),
  ((WF.prf_32 Pfx.none (w0 0 26 1) && mayActB demo Pfx.none) : Bool),
  ((WF.prf_64 Pfx.none (w0 0 26 20) (w1 0x40 0) && mayActB demo Pfx.none) : Bool),
  ((WF.yield Pfx.none (w0 0 0 0) && mayActB demo Pfx.none) : Bool)].all id = true := by decide +kernel

theorem meets_EndsOfLanes : [
  ((WF.exit Pfx.none (w0 0 0 0) && meetsB demo Pfx.none (fun c => c.on == BitVec.allOnes 32 && (demo.warp 1).life == .resident &&
    liveLanes demo 1 &&& ~~~c.on == 0)) : Bool),
  ((WF.exit (pk 0) (w0 0 0 0) && meetsB demoK (pk 0) (fun c => c.on == 0xFF#32 && (demoK.warp 1).life == .resident &&
    liveLanes demoK 1 &&& ~~~c.on != 0)) : Bool),
  ((WF.exit (pk 1) (w0 0 0 0) && meetsB demoK (pk 1) (fun c => c.on == 0)) : Bool),
  ((WF.kill (pk 0) (w0 0 0 0) && meetsB demoK (pk 0) (fun c => c.on == 0xFF#32 && (demoK.warp 1).life == .resident)) : Bool),
  ((WF.kill (pk 7) (w0 0 0 0) && meetsB demoK (pk 7) (fun c => c.on == 0)) : Bool),
  ((WF.syncw Pfx.none (w0 0 0 0) && mayActB demo Pfx.none) : Bool),
  ((WF.syncw Pfx.none (w0 0 0 0) && meetsB demoSplit Pfx.none (fun c => c.sub.id == some (0, 0) &&
    (demoSplit.warp 1).subs.all (fun v => v.hold != .syncw) && (demoSplit.warp 1).splits.all (fun z => !z.2.arrived0 && !z.2.arrived1))) : Bool)].all id = true := by decide +kernel

theorem meets_TrapInstructions : [
  ((WF.trap_32 (pk 0) (w0 0 63 63) && meetsB demoK (pk 0) (fun c => c.on != 0 && !demoK.cur.probe)) : Bool),
  ((WF.trap_32 (pk 1) (w0 0 0 0) && meetsB demoK (pk 1) (fun c => c.on == 0 && !demoK.cur.probe)) : Bool),
  ((WF.trap_64 Pfx.none (w0 0 0 0) (w1 0xFFFF 0) && meetsB demo Pfx.none (fun c => c.on != 0)) : Bool),
  ((WF.trap_64 (pk 1) (w0 0 0 0) (w1 1 0) && meetsB demo (pk 1) (fun c => c.on == 0)) : Bool),
  ((WF.bkpt Pfx.none (w0 0 0 0) && meetsB demo Pfx.none (fun c => c.on != 0)) : Bool),
  ((WF.bkpt (pk 1) (w0 0 0 0) && meetsB demo (pk 1) (fun c => c.on == 0)) : Bool),
  ((demo.issuer.isSome && !demo.cur.probe) : Bool)].all id = true := by decide +kernel

theorem meets_FencesAndBarriers : [
  ((WF.fence Pfx.none ⟨0#2, false, false, true, 0#6, 4#6, 2#6⟩ &&
    meetsB demo Pfx.none (fun c => (!bitN (WF.fencePred ⟨0#2, false, false, true, 0#6, 4#6, 2#6⟩) 0 || (demo.warp 1).ldx == []) &&
    settled demo 1 c.die (WF.fenceScope ⟨0#2, false, false, true, 0#6, 4#6, 2#6⟩) (bitN (WF.fencePred ⟨0#2, false, false, true, 0#6, 4#6, 2#6⟩)))) : Bool),
  ((WF.bar_32 Pfx.none (w0 0 0 15) && meetsB demo Pfx.none (fun c => barOrdered demo c (w0 0 0 15) &&
    barFull (parkAtBar c (w0 0 0 15) 0 0#32 0#8 20 (commit demo c.w)) 1 0 15 false)) : Bool),
  ((WF.bar_64 Pfx.none (w0 45 12 1) (w1 3 0) && meetsB demoGang Pfx.none (fun c => canReadB demoGang c [.code 12] c.act &&
    barOrdered demoGang c (w0 45 12 1) && !barFull (parkAtBar c (w0 45 12 1) 3 0#32 0#8 45 (commit demoGang c.w)) 1 0 1 false)) : Bool)].all id = true := by decide +kernel

theorem meets_QueueInstructions : [
  ((WF.qbind Pfx.none (w0 15 0 0) && meetsB demo Pfx.none (fun _ => mayBind (demo.warp 1) 15 0 && canRegister demo 1)) : Bool),
  ((WF.qrd Pfx.none (w0 26 0 0) && meetsB demoQueued Pfx.none (fun _ => ((demoQueued.warp 1).queue 0).kind.isSome &&
    ((demoQueued.warp 1).queue 0).entries != [])) : Bool),
  ((WF.qpoll Pfx.none (w0 26 0 7) && meetsB demoQueued Pfx.none (fun _ => ((demoQueued.warp 1).queue 0).kind.isSome &&
    ((demoQueued.warp 1).queue 0).entries != [])) : Bool),
  ((WF.qpoll Pfx.none (w0 26 3 0) && meetsB demoQueued Pfx.none (fun _ => ((demoQueued.warp 1).queue 3).kind.isSome &&
    ((demoQueued.warp 1).queue 3).entries == [])) : Bool),
  ((WF.qfree Pfx.none (w0 0 0 0) && meetsB demoQueued Pfx.none (fun _ => ((demoQueued.warp 1).queue 0).kind.isSome)) : Bool),
  ((((demoQueued.warp 1).queue 1).back == [⟨2#64, 0#8, 0, 0⟩] && ((demoQueued.warp 1).queue 1).used < 8 && ((demoQueued.warp 1).queue 1).kind.isSome &&
    (demoQueued.warp 1).life == .resident) : Bool)].all id = true := by decide +kernel

theorem meets_MailboxEvents : [
  (((demoObs 0 (fun b => { b with bound := false })).mailbox 0 5 == { demoBox with obs := [demoMsg], bound := false } && !(demo.die 0).fenced) : Bool),
  (((demoObs 0 id).mailbox 0 5 == { demoBox with obs := [{ demoMsg with version := 0 }] } && ((demoObs 0 id).warp 1).life == .resident &&
    (((demoObs 0 id).warp 1).queue 2).used < 8) : Bool),
  ((¬ (isStale ((demoObs 0 id).warp 1).policy 0 = true ∧ (((demoObs 0 id).warp 1).queue 2).stale = 1)) : Bool),
  ((isStale (demoStale.warp 1).policy 1 && ((demoStale.warp 1).queue 2).stale == 1 && (demoStale.mailbox 0 5).bound &&
    ((demoStale.warp 1).queue 2).used < 8) : Bool),
  ((isHv demo 0#16 && (demo.mailbox 0 5).enable && !(0#64).getLsbD 38) : Bool),
  ((isHv demo 0#16 && !(demo.mailbox 8 511).enable && (demo.vd 1).table.get? 0 != none && (0x4000000001#64).getLsbD 38 &&
    field (0x4000000001#64) 0 10 == 1) : Bool),
  ((isHv demo 0#16 && !(demo.mailbox 8 511).enable && !(0x3FF#64).getLsbD 38) : Bool),
  ((!isHv demo 1#16) : Bool)].all id = true := by decide +kernel

theorem meets_EstateEvents : [
  ((dyingOn (demoDying false []) 0 == some 1 && ((demoDying false []).warp 1).life == .dying 0 0#8 && !((demoDying false []).warp 1).debtDone) : Bool),
  ((dyingOn (demoDying true [Holding.fresh 1 0 0 0 256]) 0 == some 1 && ((demoDying true [Holding.fresh 1 0 0 0 256]).warp 1).debtDone &&
    rowReady (demoDying true [Holding.fresh 1 0 0 0 256]) 1 (Holding.fresh 1 0 0 0 256)) : Bool),
  ((dyingOn (demoDying true []) 0 == some 1 && ((demoDying true []).warp 1).debtDone && ((demoDying true []).warp 1).estate == []) : Bool),
  (((demoProbate.grid 1).probate.length == 1 && claimants demoProbate 1 false == [(1, 3)]) : Bool),
  ((((demoLocking.warp 1).subs.find? (lockDue demoLocking 1)).isSome) : Bool)].all id = true := by decide +kernel

theorem meets_LaunchPorts : [
  ((mayWindow demoWindow 3#16 1 && !(demoWindow.vd 1).frozen && (demoWindow.vd 1).state == 1 && demoLaunch.length == 64 &&
    (((demoWindow.vd 1).ports[3]?).map (fun q => q.fifo.length)) == some 0 && rejection demoWindow 1 demoLaunch == 0) : Bool),
  ((mayWindow demoWindow 3#16 1 && rejection demoWindow 1 (List.replicate 64 0#8) == 3 && mayWindow demo 0#16 1023 && (demo.vd 1023).state == 0) : Bool),
  (((demoWindow.vd 1).gf.length == 1 && (demo.vd 1).gf == [] && mayWindow demo 0#16 0) : Bool)].all id = true := by decide +kernel

theorem meets_Scheduling : [
  ((((ranked demoUndealt ((eligible demoUndealt).filter (canDeal demoUndealt))).map (fun g => (g.serial, partitionOf demoUndealt g.vd g.record))) == [(2, some 0)]) : Bool),
  (((starts (demoDealt [⟨0, 0, 0, 0⟩]) 0).map (fun x => (x.1.serial, x.2.2.2)) == [(2, [0])]) : Bool),
  (((steals (demoDealt [⟨0, 1, 0, 4⟩, ⟨0, 1, 1, 4⟩]) 0 0).map (fun x => x.1.serial) == [2]) : Bool),
  ((finished (demoWith (fun x => { x with life := .dead })) ((demoWith (fun x => { x with life := .dead })).grid 1)) : Bool),
  (((demo.vd 1).state != 0) : Bool),
  ((demoRival.package.holder.get? 0 == some 1 && demoRival.warps.all (fun e => e.2.uncommitted && !e.2.handler) &&
    (waitingOn demoRival 0).map (fun g => g.vd) == [2] && !(demoRival.warps.all (fun e => !inPartition demoRival 0 e.2))) : Bool)].all id = true := by decide +kernel

theorem meets_TransferEvents : [
  (((fun (d : Cmd) (s : State) => d.started && mayRun s d && demoTile.words == 1 && cmdSettled s d &&
    arrivalReady s d) { demoCmd (.copy demoTile none) with doneWords := [0] } (demoCmds { demoCmd (.copy demoTile none) with doneWords := [0] })) : Bool),
  (((fun (d : Cmd) (s : State) => d.started && mayRun s d && cmdSettled s d &&
    arrivalReady s d) { demoCmd (.prefetch demoTile) with doneWords := [0] } (demoCmds { demoCmd (.prefetch demoTile) with doneWords := [0] })) : Bool),
  (((((demoYield.warp 1).sub none).map (fun u => u.hold)) == some (.yielded 9) && ((demoYield.cmds.get? 9).map (fun d => d.started && mayRun demoYield d &&
    cmdSettled demoYield d && arrivalReady demoYield d)) == some true) : Bool),
  ((mayRun (demoCmds (demoCmd (.copy demoTile none))) (demoCmd (.copy demoTile none)) && !demoTile.remote demo && 0 < demoTile.words &&
    spadLoc (demoCmds (demoCmd (.copy demoTile none))) 1 0 (lo32 demoTile.src) 16 == some (0, 0x100) &&
    spadLoc (demoCmds (demoCmd (.copy demoTile none))) 1 0 (lo32 demoTile.dst) 16 == some (0, 0x200) &&
    !(feeds (demoCmds (demoCmd (.copy demoTile none))) (demoCmd (.copy demoTile none)) demoTile (demoTile.mates 0)).2.1) : Bool),
  ((mayRun (demoCmds (demoCmd (.copy demoFar none))) (demoCmd (.copy demoFar none)) && demoFar.remote demo && 0 < demoFar.words) : Bool)].all id = true := by decide +kernel

theorem meets_CollectiveEvents : [
  ((!behindHeld demo { demoCmd (demoCl 4 5 false (some (0, 10))) with started := false } && slotDecision 10 (demo.package.time).toNat 0 0 10 == some 0 &&
    slotDecision 11 0 0 0 10 == some 2 && slotDecision 10 5 5 9 10 == Option.none && slotDecision 10 5 9 9 10 == some 0 && slotDecision 10 20 20 9 10 == some 1) : Bool),
  (((fun (d : Cmd) (s : State) => clSent s d && clTurn s d ⟨3, 5, 0x20000#64, [7#32], 0#64, 0#8, 0#64, false⟩ &&
    !clLocal s d ⟨3, 5, 0x20000#64, [7#32], 0#64, 0#8, 0#64, false⟩ 5) (demoCmd (demoCl 5 5 false none)) (demoCmds (demoCmd (demoCl 5 5 false none)))) : Bool),
  (((fun (d : Cmd) (s : State) => clSent s d && clTurn s d ⟨3, 0, 0x20000#64, [7#32], 0#64, 0#8, 0#64, false⟩ &&
    clLocal s d ⟨3, 0, 0x20000#64, [7#32], 0#64, 0#8, 0#64, false⟩ 5 &&
    (clHere s d ⟨3, 0, 0x20000#64, [7#32], 0#64, 0#8, 0#64, false⟩ 5 0 4 2 0 0 ⟨Option.none, [], 0#64⟩).isSome) (demoCmd (demoCl 5 0 false none)) (demoCmds (demoCmd (demoCl 5 0 false none)))) : Bool),
  (((fun (d : Cmd) (s : State) => d.op.clLanes.all (fun l => l.decided) && cmdSettled s d && d.verdict == none &&
    !behindHeld s d) (demoCmd (demoCl 5 5 true none)) (demoCmds (demoCmd (demoCl 5 5 true none)))) : Bool),
  (((winLine? { demo with switchLines := [demoWinLine 0] } 1 0x20000).isSome) : Bool),
  (((demoWinLine 5).home != demo.package.kwid) : Bool),
  (((demoWinLine 0).home == demoWalk.package.kwid && (demoWalk.vd 1).gen == 1 && (demoWalk.vd 1).state != 0 && (match demoWalk.walk 1 0x20000#64 with | .leaf f => !leafBad demoWalk f && leafBit f.bits 5 && !(f.loc 0x20000#64).host && !demoWalk.blocked (f.loc 0x20000#64) && homeDie (f.loc 0x20000#64).pa == 0 && !(demoWalk.die 0).fenced && demoWalk.caughtUp 0 (clockMax (demoWalk.clockOf 0) (demoWalk.clockOf 10)) | _ => false)) : Bool)].all id = true := by decide +kernel

theorem meets_MemoryAndWarpEvents : [
  (((flight? (demoFlying false false) 3).isSome && mayGoHome (demoFlying false false) (demoFlight false false) &&
    (demoFlying false false).dominates 1 ((demoFlying false false).labelLoc 0 ⟨false, 0x20000⟩) 0) : Bool),
  ((mayGoHome (demoFlying false true) (demoFlight false true)) : Bool),
  ((mayGoHome { demoFlying false false with flights := [{ demoFlight false false with lbl := 255#8 }] } { demoFlight false false with lbl := 255#8 } &&
    !(demoFlying false false).dominates 1 ((demoFlying false false).labelLoc 0 ⟨false, 0x20000⟩) 255) : Bool),
  (((demoFlying true false).liveDies.contains 8 && (demoFlying true false).mayApply 8 (demoFlight true false) &&
    !(demoFlight true false).applied.contains 8) : Bool),
  ((isHv demo 0#16 && (0x2003C : Nat) % 64 + 4 ≤ 64) : Bool),
  ((oldestReady (demoFaulted.warp 1) == (demoFaulted.warp 1).sub none && (oldestReady (demoFaulted.warp 1)).isSome &&
    (demoFaulted.warp 1).disposition.getLsbD 13 && !(demoFaulted.warp 1).handler) : Bool),
  (((demoEvict true).warps.length == 1 && !debugHalted (demoEvict true) ((demoEvict true).warp 1) && !flashbackWaits (demoEvict true) 1 && ((demoEvict true).warp 1).uncommitted) : Bool),
  ((!debugHalted (demoEvict false) ((demoEvict false).warp 1) && !((demoEvict false).warp 1).uncommitted && ((demoEvict false).warp 1).evict == 1) : Bool),
  ((((demoLife .saving).warp 1).ldx == [] && ((demoLife .saving).quad 0).rendezvous == [] && poisonedLanes (demoLife .saving) 1 == 0) : Bool),
  ((mayResume (demoLife .saved) 1 0) : Bool)].all id = true := by decide +kernel

theorem meets_EpisodeEvents : [
  (demoRv (demoEpisode 0x73 0 0 [demoMsg] id) (fun s e i => i == .ecall && (s.pcore 0 2).reg 17 == 0#64 && lowestWaiting s e == some 5) : Bool),
  (demoRv (demoEpisode 0x10500073 0 0 [] id) (fun s e i => i == .wfi && lowestWaiting s e == none) : Bool),
  (demoRv (demoEpisode 0x73 1 0 [] id) (fun s _ i => i == .ecall && (s.pcore 0 2).reg 17 == 1#64) : Bool),
  (((fun s : State => match episodeOn s 0 2 with
    | some e => coreRuns s e && (match rvFetch s e (s.pcore 0 2).pc with | some (_, none) => true | _ => false)
    | none => false) (demoEpisode 0xFFFFFFFF 0 0 [] id)) : Bool),
  (((fun s : State => match episodeOn s 0 2 with
    | some e => coreRuns s e && rvFetch s e (s.pcore 0 2).pc == none
    | none => false) (demoEpisode 0x13 0 0 [] (fun p => { p with pc := 0x2000#64 }))) : Bool),
  (demoRv (demoEpisode 0x0002B023 0 0x2088 [demoMsg] id) (fun s e i => match i with
    | .store f a _ o => f == 3 && e.bytes ((s.pcore 0 2).reg a + o) (2 ^ f) == none && boxAt s e ((s.pcore 0 2).reg a + o) == some (5, 136)
    | _ => false) : Bool),
  (demoRv (demoEpisode 0x0002B023 0 0x2148 [demoMsg] id) (fun s e i => match i with
    | .store f a _ o => f == 3 && e.bytes ((s.pcore 0 2).reg a + o) (2 ^ f) == none && boxAt s e ((s.pcore 0 2).reg a + o) == some (5, 328)
    | _ => false) : Bool),
  (demoRv (demoEpisode 0x0002B303 0 0x2080 [demoMsg] id) (fun s e i => match i with
    | .load f rd a o => f == 3 && rd == 6 && e.bytes ((s.pcore 0 2).reg a + o) (2 ^ (f % 4)) == none &&
      boxAt s e ((s.pcore 0 2).reg a + o) == some (5, 128)
    | _ => false) : Bool),
  (demoRv (demoEpisode 0x0002B303 0 0x1000 [] id) (fun s e i => match i with
    | .load f rd a o => f == 3 && rd == 6 && (e.bytes ((s.pcore 0 2).reg a + o) (2 ^ (f % 4))).isSome
    | _ => false) : Bool),
  (demoRv (demoEpisode 0x00728333 0 3 [] (fun p => { p with x := p.x.set 7 4#64 })) (fun s _ i => i.result (s.pcore 0 2) == some (6, 7#64)) : Bool),
  (((match rvStep (demoEpisode 0x73 0 0 [demoMsg] id) 0 2 with | some (e, .go .await t) => lowestWaiting t e == some 5 | _ => false)) : Bool),
  (((match rvStep (demoEpisode 0x73 0 0 [] id) 0 2 with | some (e, .go .await t) => lowestWaiting t e == none | _ => false)) : Bool),
  (((fun s : State => (match episodeOn s 0 2 with | some e => lowestWaiting s e == some 5 | none => false) && (s.pcore 0 2).awaiting && !(s.pcore 0 2).frozen && !(s.pcore 0 2).stopped && !(s.die 0).fenced && 10 < (s.pcore 0 2).x.length) (demoEpisode 0x73 0 0 [demoMsg] (fun p => { p with awaiting := true }))) : Bool),
  (((match rvStep (demoEpisode 0x73 1 0 [] id) 0 2 with | some (_, .go (.finish _) _) => true | _ => false)) : Bool),
  (((match rvStep (demoEpisode 0xFFFFFFFF 0 0 [] id) 0 2 with | some (_, .exn) => true | _ => false)) : Bool),
  (((match rvStep (demoEpisode 0x0002B023 0 0x2088 [demoMsg] id) 0 2 with | some (_, .go .pop _) => true | _ => false)) : Bool),
  (((match rvStep (demoEpisode 0x0002B023 0 0x2148 [demoMsg] id) 0 2 with | some (_, .go .push _) => true | _ => false)) : Bool),
  (((match rvStep (demoEpisode 0x0002B303 0 0x2080 [demoMsg] id) 0 2 with | some (_, .go .stat _) => true | _ => false)) : Bool),
  (((match rvStep (demoEpisode 0x00000013 0 0 [] id) 0 2 with | some (_, .go .plain _) => true | _ => false)) : Bool),
  (((fun s : State => (match episodeOn s 0 2 with | some e => e.budget == 100 && anyOpen s e | none => false) && (s.pcore 0 2).count ≤ 101 && !(s.pcore 0 2).frozen && !(s.pcore 0 2).stopped) ((demoEpisode 0x13 0 0 [] id).modDie 0 (fun d => { d with mailboxes := [(5, { demoBox with opened := [demoMsg], episode := 4, core := 2 })] }))) : Bool),
  ((isHv demoServed 0#16 && mayCreate demoServed ⟨8, 65535, 15, 1, 0, 0x1000#64, [(1, 0x30)], [(2, 511)]⟩) : Bool),
  ((((demoEpisode 0x13 0 0 [] id).episodes.find? (fun e => e.die == 0 && e.id == 4)).isSome) : Bool)].all id = true := by decide +kernel

theorem meets_HostReads : [
  ((isHv demoRecords 0#16 && !isHv demoRecords 3#16 && demoRecords.package.hvEvents.length == 1 && demo.package.hvEvents == []) : Bool),
  (((demoRecords.die 8).log.length == 1 && (demo.die 0).log == [] && (demo.die 8).hbm.length == 2 && (demo.die 8).ports.length == 2) : Bool),
  ((mayWindow demoRecords 3#16 1 && !(demoRecords.vd 1).frozen && (demoRecords.vd 1).state == 1 && (demoRecords.vd 1).events.length == 1 &&
    (demo.vd 1023).events == []) : Bool),
  ((!mayWindow demoRecords 4#16 1 && (demoRecords.modVd 1 (fun v => { v with frozen := true })).vd 1 != demoRecords.vd 1) : Bool)].all id = true := by decide +kernel

theorem meets_SecurityCommands : [
  ((isHv demoSec 0#16 && !demoSec.security.busy && 2 ≤ demoSec.package.phase && demoSec.security.life == 2 && 7 ≤ demoSec.package.phase) : Bool),
  ((!isVd demoSec 1023 && goodHandles [(1, 1#64), (254, 2#64)] && isVd demoSec 1) : Bool),
  ((isVd demoSec 1 && !isVd demoSec 0 && !isVd demoSec 1024) : Bool),
  (((fun s : State => isVd s 1 && (s.vd 1).state != 3 && s.episodes == [] && !(List.range 9).any (fun d => (s.die d).mailboxes.any (fun e => e.2.vd == 1 &&
    e.2.enable && e.2.bound))) (demoSec.modDie 0 (fun d => { d with mailboxes := [] }))) : Bool),
  ((((demoSec.inbound.find? (fun p => p.ticket == 12#128)).map (fun p => p.images.length)) == some 0 && (stream? demoSec 12#128 false).isNone &&
    !isVd demoSec 1023) : Bool),
  (((stream? demoSec 11#128 true).any (fun x => x.ready) && (demoSec.vd 5).state == 3 && atRest demoSec 5) : Bool),
  (((demoLeaving.security.streams.find? (fun x => x.source && !x.ready && drained demoLeaving x.vd)).any (fun x => x.vd == 5) && atRest demoLeaving 5) : Bool),
  ((({ demoLeaving with switchLines := [{ demoWinLine 0 with vd := 5 }] } : State).switchLines.any (fun l => l.vd == 5) &&
    drained { demoLeaving with switchLines := [{ demoWinLine 0 with vd := 5 }] } 5) : Bool),
  ((isHv (demoPhase 3 0 []) 0#16 && (demoPhase 3 0 []).package.phase == 3 && (demoPhase 3 0 [0]).security.loaded.contains 0 &&
    (demoPhase 2 0 []).package.phase != 3) : Bool),
  ((mayAdvance 2 3 && mayAdvance 0 3 && !mayAdvance 3 0 && !mayAdvance 2 1 && demoSec.security.nonce != []) : Bool),
  ((isVd demoSec 1 && (demoPhase 7 3 []).security.life == 3 && (demoPhase 7 1 []).security.life < 2 && demoSec.security.life == 2 &&
    (demoSec.vd 1).keys == []) : Bool)].all id = true := by decide +kernel

theorem meets_AssignmentAndTranslation : [
  ((quadTaken demo 0 && !quadTaken demo 1295 && 7 ≤ demo.package.phase) : Bool),
  (((demo.package.sown.get 0#16 0).getLsbD 10 && !sliceMapped demo 1 0 && 7 ≤ demo.package.phase && (demoPhase 6 0 []).package.phase < 7 &&
    !(demo.package.sown.get 0#16 287).getLsbD 10) : Bool),
  (((fun v : BitVec 128 => !(demo.vd 1).mapBusy && (syncRange v).2.1 == 1 && (syncRange v).1 == 0x20000 &&
    (syncRange v).1 / 2 ^ 60 == ((syncRange v).1 + 65535) / 2 ^ 60) (0x20000#128 ||| (1#128 <<< 64)) && (demoSync.vd 1).mapBusy &&
    (demoSync.vd 1).mapRange.isSome) : Bool),
  (((parked demoParked 1 1).length == 1 && killable demoParked 1 && parked demo 1 1 == [] && parked demo 1023 0 == []) : Bool),
  (((demo.vd 1).windows.length == 8 && goodWindow demo 1 0 demoXwin && demoXwin.getLsbD 92 && demoXwin &&& (((1#128 <<< 77) - 1#128) <<< 16) == demoXwin &&
    !goodWindow demo 1 7 (1#128 <<< 92) && (((demoWindowOn.vd 1).windows[7]?).map (fun x => x.getLsbD 92)) == some true && (demoWindowOn.vd 1).closing == []) : Bool),
  (((demoHeldRecord.vd 1).waiting.length == 1 && (demoHeldRecord.vd 1).events.length < 64) : Bool)].all id = true := by decide +kernel

theorem meets_ErrorsAndContainment : [
  (((demo.warps.get? 1).isSome && (demo.record 1).regs == 128 && (demo.blocks.get? (blockKey 1 0)).isSome &&
    (demo.grid 1).record.spadBytes == 65536) : Bool),
  ((!(demo.die 8).fenced && killable demo 1 && 13 < (demo.die 8).ecnt.length) : Bool),
  (((demoAudit.audits.find? (fun a => a.die == 0 && a.n == 0)).isSome && ((demoAudit.cmds.get? 9).map (fun d => d.verdict)) == some (some 1)) : Bool),
  ((demo.dies.length == 9 && nextFrame demo 17 == some (17 * 2 ^ 20) && !demo.cleared.get false (17 * 2 ^ 20)) : Bool),
  (((slicesOf demo 1).any (fun x => x / 16 == 0) && 2 < (demo.vd 1).meters.length && (demo.die 8).hbm.length == 2) : Bool),
  ((goodPeriod demo (List.replicate 9 400) [200, 225, 800, 800, 800, 800, 800, 800, 800] (List.replicate 18 320000000)) : Bool)].all id = true := by decide +kernel

theorem meets_PlatformEvents : [
  ((!(demo.pcore 8 15).stopped && (demo.die 8).ports.length == 2 && (stream? demoSec 11#128 true).isSome && demo.package.modules.length == 8) : Bool),
  (((demoHalted.warps.get? 1).isSome && isHv demoHalted 0#16 && (demoHalted.warp 1).subs.all (fun u => u.hold == .halted) &&
    (demoHalted.warp 1).subs != [] && (demo.blocks.get? (blockKey 1 0)).isSome) : Bool),
  ((killable demoWindow 1 && mayWindow demoWindow 3#16 (demoWindow.warp 1).vd && !(demoWindow.vd 1).frozen && (demoWindow.grid 1).serial == 1 &&
    !(demoWindow.grid 1).complete) : Bool),
  (((demoPhase 0 0 []).package.phase < 7 && (demoPhase 0 0 []).package.error == 0 && (demoPhase 6 0 []).package.phase == 6 &&
    (List.range 4).all (fun k => (demoPhase 3 0 [0, 1, 2, 3]).security.loaded.contains k)) : Bool)].all id = true := by decide +kernel

theorem meets_ErrorRecords : [
  (((demo.vd 1).events.length < 64 && (demo.vd 1).waiting == [] && (demo.vd 1022).events == []) : Bool)].all id = true := by decide +kernel

theorem meets_NoOperation : [
  ((pfxOf 0x87#32 == some (.k ⟨4, false⟩) && demo.issuer.isSome) : Bool),
  ((pfxOf 0x23#32 == some (.rs ⟨.rtz, false, .none, 0⟩) && (PfxWord.rs ⟨.rtz, false, .none, 0⟩).kind != (PfxWord.k ⟨4, false⟩).kind) : Bool)].all id = true := by decide +kernel

/-! The statements about the machine as a whole. -/

/-- A trap with the first cause of a list, in every lane. -/
def demoTrap : TrapInfo := ⟨23, 0x10004#64, 0#64, BitVec.allOnes 32, 0, 0, false, 0#32, 7#32, [], [], none, false⟩

theorem meets_TrapEntry : ∃ u, (demo.warp 1).sub u.id = some u ∧ Handles demo 1 demoTrap :=
  ⟨⟨none, BitVec.allOnes 32, 0#8, 0x10000#64, 0, .ready, false⟩, by decide +kernel,
    ⟨by decide +kernel, by decide +kernel, by decide +kernel, by decide +kernel, by decide +kernel⟩⟩

/-- An issue opportunity of a quadrant, and what its group does. -/
noncomputable def decodedB (s : State) (q : Nat) (f : Nat → SubWarp → List Word → State → Instr → Nat → Bool) : Bool :=
  match choose (s.offered q) q with
  | none => false
  | some (w, u) =>
    let x := (s.offered q).warp w
    deliveryFor x u == none && (x.pending.find? (fun t => t.1 == u.pc)).isNone &&
    match fetchLine ((s.offered q).standing w u) x.quad x.vd (lineBase u.pc) with
    | (.ok ws, s1) =>
      match decodeGroup ws (lineBase u.pc) (lineSlot u.pc) with
      | .ok i n =>
        (u.matched || dpcMatch s1 (coreOfQuad x.quad) u.pc x.vd (u.mask &&& (predicate s1 w i.pfx).1) == []) &&
          i.mainReg.all (fun m => decide (m < (s1.record w).regs)) && f w u ws s1 i n
      | .bad _ => false
    | _ => false

theorem decodedB_decoded {s : State} {q : Nat} {f : Nat → SubWarp → List Word → State → Instr → Nat → Bool} (h : decodedB s q f = true) :
    ∃ w u ws s1 i n, Decoded s q w u ws s1 i n ∧ f w u ws s1 i n = true := by
  unfold decodedB at h
  split at h
  · cases h
  · rename_i w u hc
    simp only [Bool.and_eq_true, beq_iff_eq] at h
    obtain ⟨⟨hd, hp⟩, h⟩ := h
    split at h
    · rename_i ws s1 hf
      split at h
      · rename_i i n hg
        simp only [Bool.and_eq_true, Bool.or_eq_true, beq_iff_eq] at h
        exact ⟨w, u, ws, s1, i, n, ⟨hc, hd, by simpa using hp, hf, hg, h.1.1, fun m hm => by simpa [hm] using h.1.2⟩, h.2⟩
      · cases h
    · cases h

/-- The group's effect: a next state, in which it has not waited. -/
noncomputable def actsB (s : State) (i : Instr) (f : State → Bool) : Bool :=
  match exec i s with
  | .next t => f t
  | _ => false

/-- A line whose slots 0 and 1 are a pair: IADD o1,o2,o3 and STS [o5],o6. -/
def demoPair : State := pokeDie demo 0 0x10000 (lineBytes ([0x00610204#32, 0x00C28128#32] ++ List.replicate 13 0#32 ++ [0x8000FFFD#32]))

theorem meets_StepRunsDecoded_single : decodedB { demoCode with agenda := [], report := .idle } 0 (fun _ u ws s1 i n =>
    !pairBit ws (lineSlot u.pc) && !(s1.warp 1).sheet && actsB (s1.acting u ws n) i (fun t => t.report != .wait)) = true := by decide +kernel

theorem meets_StepRunsDecoded_turn : demoCode.agenda = [] ∧ demoCode.turn = false ∧ busyQuads demoCode demoCode.rotor = [0] := by decide +kernel

theorem meets_StepRunsDecoded_pair : decodedB { demoPair with agenda := [], report := .idle } 0 (fun w u ws s1 i n =>
    pairBit ws (lineSlot u.pc) && match decodeGroup ws (lineBase u.pc) (lineSlot u.pc + n) with
    | .ok j m =>
      let r := { s1 with cur := { s1.cur with next := nextPc u.pc (n + m), pair := 1 } }
      !(s1.warp w).sheet && actsB { r with cur := { r.cur with probe := true }, stopped := none } i (fun t1 =>
        t1.stopped == none && !(t1.warp w).sheet && j.mainReg.all (fun k => decide (k < (t1.record w).regs)) && actsB { t1 with
          cur := { r.cur with pair := 2, pc := slotPc (lineBase u.pc) (lineSlot u.pc + n), slot := lineSlot u.pc + n, probe := true }
          view := some (s1.warp w, s1.quad s1.cur.quad), stopped := none } j (fun t2 => t2.stopped == none && t2.report != .wait))
    | .bad _ => false) = true := by decide +kernel

theorem meets_StepKeepsMemoryCanonical : State.reset.MemoryWf := reset_memoryWf

/-! A word of every instruction, put together from the layouts of R88 to R92 and the opcode maps of R104 and R105, and the instruction that it is;
a page-1 word follows PFX.X. -/

/-- The words decode to the instructions. -/
noncomputable def decodesB (ts : List (List Word × Instr)) : Bool := ts.all (fun t => decodeWords t.1 == some t.2)

theorem test_decode_1 : decodesB [
  ([0x00000000#32], .nop),
  ([0x07BF7FDC#32], .nop_h0 (w0 63 62 61)),
  ([0x07BF7FE0#32], .nop_h1 (w0 63 62 61)),
  ([0x07BF7FE4#32], .nop_h2 (w0 63 62 61)),
  ([0x07BF7FE8#32], .nop_h3 (w0 63 62 61)),
  ([0x00620404#32], .iadd_32 Pfx.none (w0 2 4 3)),
  ([0x02820405#32, 0x00050000#32], .iadd_64 Pfx.none (w0 2 4 20) (w1 5 0)),
  ([0x02820406#32, 0x00000000#32, 0x3F800001#32], .iadd_96 Pfx.none (w0 2 4 20) (w1 0 0) 0x3F800001),
  ([0x00620408#32], .isub_32 Pfx.none (w0 2 4 3)),
  ([0x02820409#32, 0x00050000#32], .isub_64 Pfx.none (w0 2 4 20) (w1 5 0)),
  ([0x0282040A#32, 0x00000000#32, 0x3F800001#32], .isub_96 Pfx.none (w0 2 4 20) (w1 0 0) 0x3F800001),
  ([0x0062040C#32], .iaddc_32 Pfx.none (w0 2 4 3)),
  ([0x0282040D#32, 0x00050006#32], .iaddc_64 Pfx.none (w0 2 4 20) (w1 5 6)),
  ([0x0282040E#32, 0x00000006#32, 0x3F800001#32], .iaddc_96 Pfx.none (w0 2 4 20) (w1 0 6) 0x3F800001),
  ([0x00620410#32], .imul_32 Pfx.none (w0 2 4 3)),
  ([0x02820411#32, 0x00050000#32], .imul_64 Pfx.none (w0 2 4 20) (w1 5 0)),
  ([0x02820412#32, 0x00000000#32, 0x3F800001#32], .imul_96 Pfx.none (w0 2 4 20) (w1 0 0) 0x3F800001),
  ([0x00620414#32], .imulh_32 Pfx.none (w0 2 4 3)),
  ([0x02820415#32, 0x00050000#32], .imulh_64 Pfx.none (w0 2 4 20) (w1 5 0)),
  ([0x02820416#32, 0x00000000#32, 0x3F800001#32], .imulh_96 Pfx.none (w0 2 4 20) (w1 0 0) 0x3F800001),
  ([0x00620418#32], .imad_32 Pfx.none (w0 2 4 3)),
  ([0x02820419#32, 0x00050006#32], .imad_64 Pfx.none (w0 2 4 20) (w1 5 6)),
  ([0x0282041A#32, 0x00000006#32, 0x3F800001#32], .imad_96 Pfx.none (w0 2 4 20) (w1 0 6) 0x3F800001),
  ([0x0062041C#32], .imadw_32 Pfx.none (w0 2 4 3)),
  ([0x0062041D#32, 0x00010006#32], .imadw_64 Pfx.none (w0 2 4 3) (w1 1 6)),
  ([0x0282041E#32, 0x00010006#32, 0x3F800001#32], .imadw_96 Pfx.none (w0 2 4 20) (w1 1 6) 0x3F800001),
  ([0x00620420#32], .imin_32 Pfx.none (w0 2 4 3)),
  ([0x02820421#32, 0x00050000#32], .imin_64 Pfx.none (w0 2 4 20) (w1 5 0)),
  ([0x02820422#32, 0x00000000#32, 0x3F800001#32], .imin_96 Pfx.none (w0 2 4 20) (w1 0 0) 0x3F800001),
  ([0x00620424#32], .imax_32 Pfx.none (w0 2 4 3))] = true := by decide +kernel

theorem test_decode_2 : decodesB [
  ([0x02820425#32, 0x00050000#32], .imax_64 Pfx.none (w0 2 4 20) (w1 5 0)),
  ([0x02820426#32, 0x00000000#32, 0x3F800001#32], .imax_96 Pfx.none (w0 2 4 20) (w1 0 0) 0x3F800001),
  ([0x00620428#32], .and_32 Pfx.none (w0 2 4 3)),
  ([0x02820429#32, 0x00050000#32], .and_64 Pfx.none (w0 2 4 20) (w1 5 0)),
  ([0x0282042A#32, 0x00000000#32, 0x3F800001#32], .and_96 Pfx.none (w0 2 4 20) (w1 0 0) 0x3F800001),
  ([0x0062042C#32], .or_32 Pfx.none (w0 2 4 3)),
  ([0x0282042D#32, 0x00050000#32], .or_64 Pfx.none (w0 2 4 20) (w1 5 0)),
  ([0x0282042E#32, 0x00000000#32, 0x3F800001#32], .or_96 Pfx.none (w0 2 4 20) (w1 0 0) 0x3F800001),
  ([0x00620430#32], .xor_32 Pfx.none (w0 2 4 3)),
  ([0x02820431#32, 0x00050000#32], .xor_64 Pfx.none (w0 2 4 20) (w1 5 0)),
  ([0x02820432#32, 0x00000000#32, 0x3F800001#32], .xor_96 Pfx.none (w0 2 4 20) (w1 0 0) 0x3F800001),
  ([0x00620434#32], .andn_32 Pfx.none (w0 2 4 3)),
  ([0x02820435#32, 0x00050000#32], .andn_64 Pfx.none (w0 2 4 20) (w1 5 0)),
  ([0x02820436#32, 0x00000000#32, 0x3F800001#32], .andn_96 Pfx.none (w0 2 4 20) (w1 0 0) 0x3F800001),
  ([0x00620439#32, 0x00050006#32], .bool3_64 Pfx.none (w0 2 4 3) (w1 5 6)),
  ([0x0282043A#32, 0x00050006#32, 0x3F800001#32], .bool3_96 Pfx.none (w0 2 4 20) (w1 5 6) 0x3F800001),
  ([0x0062043C#32], .shl_32 Pfx.none (w0 2 4 3)),
  ([0x0282043D#32, 0x00050000#32], .shl_64 Pfx.none (w0 2 4 20) (w1 5 0)),
  ([0x0282043E#32, 0x00000000#32, 0x3F800001#32], .shl_96 Pfx.none (w0 2 4 20) (w1 0 0) 0x3F800001),
  ([0x00620440#32], .shr_32 Pfx.none (w0 2 4 3)),
  ([0x02820441#32, 0x00050000#32], .shr_64 Pfx.none (w0 2 4 20) (w1 5 0)),
  ([0x02820442#32, 0x00000000#32, 0x3F800001#32], .shr_96 Pfx.none (w0 2 4 20) (w1 0 0) 0x3F800001),
  ([0x00620444#32], .sar_32 Pfx.none (w0 2 4 3)),
  ([0x02820445#32, 0x00050000#32], .sar_64 Pfx.none (w0 2 4 20) (w1 5 0)),
  ([0x02820446#32, 0x00000000#32, 0x3F800001#32], .sar_96 Pfx.none (w0 2 4 20) (w1 0 0) 0x3F800001),
  ([0x00620448#32], .rot_32 Pfx.none (w0 2 4 3)),
  ([0x02820449#32, 0x00050000#32], .rot_64 Pfx.none (w0 2 4 20) (w1 5 0)),
  ([0x0282044A#32, 0x00000000#32, 0x3F800001#32], .rot_96 Pfx.none (w0 2 4 20) (w1 0 0) 0x3F800001),
  ([0x0062044C#32], .shf_32 Pfx.none (w0 2 4 3)),
  ([0x0062044D#32, 0x00010006#32], .shf_64 Pfx.none (w0 2 4 3) (w1 1 6))] = true := by decide +kernel

theorem test_decode_3 : decodesB [
  ([0x0282044E#32, 0x00010006#32, 0x3F800001#32], .shf_96 Pfx.none (w0 2 4 20) (w1 1 6) 0x3F800001),
  ([0x00620450#32], .bfx_32 Pfx.none (w0 2 4 3)),
  ([0x02820451#32, 0x00050000#32], .bfx_64 Pfx.none (w0 2 4 20) (w1 5 0)),
  ([0x02820452#32, 0x00000000#32, 0x3F800001#32], .bfx_96 Pfx.none (w0 2 4 20) (w1 0 0) 0x3F800001),
  ([0x00620454#32], .bfi_32 Pfx.none (w0 2 4 3)),
  ([0x02820455#32, 0x00050006#32], .bfi_64 Pfx.none (w0 2 4 20) (w1 5 6)),
  ([0x02820456#32, 0x00000006#32, 0x3F800001#32], .bfi_96 Pfx.none (w0 2 4 20) (w1 0 6) 0x3F800001),
  ([0x00620458#32], .prmt_32 Pfx.none (w0 2 4 3)),
  ([0x02820459#32, 0x00050006#32], .prmt_64 Pfx.none (w0 2 4 20) (w1 5 6)),
  ([0x0282045A#32, 0x00000006#32, 0x3F800001#32], .prmt_96 Pfx.none (w0 2 4 20) (w1 0 6) 0x3F800001),
  ([0x0062045C#32], .icmp_32 Pfx.none (w0 2 4 3)),
  ([0x0282045D#32, 0x00050000#32], .icmp_64 Pfx.none (w0 2 4 20) (w1 5 0)),
  ([0x0282045E#32, 0x00000000#32, 0x3F800001#32], .icmp_96 Pfx.none (w0 2 4 20) (w1 0 0) 0x3F800001),
  ([0x00620460#32], .isel_32 Pfx.none (w0 2 4 3)),
  ([0x02820461#32, 0x00050006#32], .isel_64 Pfx.none (w0 2 4 20) (w1 5 6)),
  ([0x02820462#32, 0x00000006#32, 0x3F800001#32], .isel_96 Pfx.none (w0 2 4 20) (w1 0 6) 0x3F800001),
  ([0x00620464#32], .lea_32 Pfx.none (w0 2 4 3)),
  ([0x02820465#32, 0x00050006#32], .lea_64 Pfx.none (w0 2 4 20) (w1 5 6)),
  ([0x02820466#32, 0x00000006#32, 0x3F800001#32], .lea_96 Pfx.none (w0 2 4 20) (w1 0 6) 0x3F800001),
  ([0x00620468#32], .fadd_32 Pfx.none (w0 2 4 3)),
  ([0x02820469#32, 0x00050000#32], .fadd_64 Pfx.none (w0 2 4 20) (w1 5 0)),
  ([0x0282046A#32, 0x00000000#32, 0x3F800001#32], .fadd_96 Pfx.none (w0 2 4 20) (w1 0 0) 0x3F800001),
  ([0x0062046C#32], .fmul_32 Pfx.none (w0 2 4 3)),
  ([0x0282046D#32, 0x00050000#32], .fmul_64 Pfx.none (w0 2 4 20) (w1 5 0)),
  ([0x0282046E#32, 0x00000000#32, 0x3F800001#32], .fmul_96 Pfx.none (w0 2 4 20) (w1 0 0) 0x3F800001),
  ([0x00620470#32], .ffma_32 Pfx.none (w0 2 4 3)),
  ([0x02820471#32, 0x00050006#32], .ffma_64 Pfx.none (w0 2 4 20) (w1 5 6)),
  ([0x02820472#32, 0x00000006#32, 0x3F800001#32], .ffma_96 Pfx.none (w0 2 4 20) (w1 0 6) 0x3F800001),
  ([0x00620474#32], .fmin_32 Pfx.none (w0 2 4 3)),
  ([0x02820475#32, 0x00050000#32], .fmin_64 Pfx.none (w0 2 4 20) (w1 5 0))] = true := by decide +kernel

theorem test_decode_4 : decodesB [
  ([0x02820476#32, 0x00000000#32, 0x3F800001#32], .fmin_96 Pfx.none (w0 2 4 20) (w1 0 0) 0x3F800001),
  ([0x00620478#32], .fmax_32 Pfx.none (w0 2 4 3)),
  ([0x02820479#32, 0x00050000#32], .fmax_64 Pfx.none (w0 2 4 20) (w1 5 0)),
  ([0x0282047A#32, 0x00000000#32, 0x3F800001#32], .fmax_96 Pfx.none (w0 2 4 20) (w1 0 0) 0x3F800001),
  ([0x0062047C#32], .fcmp_32 Pfx.none (w0 2 4 3)),
  ([0x0282047D#32, 0x00050000#32], .fcmp_64 Pfx.none (w0 2 4 20) (w1 5 0)),
  ([0x0282047E#32, 0x00000000#32, 0x3F800001#32], .fcmp_96 Pfx.none (w0 2 4 20) (w1 0 0) 0x3F800001),
  ([0x00620480#32], .hadd2_32 Pfx.none (w0 2 4 3)),
  ([0x02820481#32, 0x00050000#32], .hadd2_64 Pfx.none (w0 2 4 20) (w1 5 0)),
  ([0x02820482#32, 0x00000000#32, 0x3F800001#32], .hadd2_96 Pfx.none (w0 2 4 20) (w1 0 0) 0x3F800001),
  ([0x00620484#32], .hmul2_32 Pfx.none (w0 2 4 3)),
  ([0x02820485#32, 0x00050000#32], .hmul2_64 Pfx.none (w0 2 4 20) (w1 5 0)),
  ([0x02820486#32, 0x00000000#32, 0x3F800001#32], .hmul2_96 Pfx.none (w0 2 4 20) (w1 0 0) 0x3F800001),
  ([0x00620488#32], .hfma2_32 Pfx.none (w0 2 4 3)),
  ([0x00620489#32, 0x00010006#32], .hfma2_64 Pfx.none (w0 2 4 3) (w1 1 6)),
  ([0x0282048A#32, 0x00010006#32, 0x3F800001#32], .hfma2_96 Pfx.none (w0 2 4 20) (w1 1 6) 0x3F800001),
  ([0x0062048C#32], .hmin2_32 Pfx.none (w0 2 4 3)),
  ([0x0282048D#32, 0x00050000#32], .hmin2_64 Pfx.none (w0 2 4 20) (w1 5 0)),
  ([0x0282048E#32, 0x00000000#32, 0x3F800001#32], .hmin2_96 Pfx.none (w0 2 4 20) (w1 0 0) 0x3F800001),
  ([0x00620490#32], .hmax2_32 Pfx.none (w0 2 4 3)),
  ([0x02820491#32, 0x00050000#32], .hmax2_64 Pfx.none (w0 2 4 20) (w1 5 0)),
  ([0x02820492#32, 0x00000000#32, 0x3F800001#32], .hmax2_96 Pfx.none (w0 2 4 20) (w1 0 0) 0x3F800001),
  ([0x00620494#32], .hcmp2_32 Pfx.none (w0 2 4 3)),
  ([0x02820495#32, 0x00050006#32], .hcmp2_64 Pfx.none (w0 2 4 20) (w1 5 6)),
  ([0x02820496#32, 0x00000006#32, 0x3F800001#32], .hcmp2_96 Pfx.none (w0 2 4 20) (w1 0 6) 0x3F800001),
  ([0x00620498#32], .cvt_32 Pfx.none (w0 2 4 3)),
  ([0x00020499#32, 0x00050000#32], .cvt_64 Pfx.none (w0 2 4 0) (w1 5 0)),
  ([0x0062049C#32], .cvtp_32 Pfx.none (w0 2 4 3)),
  ([0x0062049D#32, 0x00050002#32], .cvtp_64 Pfx.none (w0 2 4 3) (w1 5 2)),
  ([0x000204A0#32], .cvtu_32 Pfx.none (w0 2 4 0))] = true := by decide +kernel

theorem test_decode_5 : decodesB [
  ([0x000204A1#32, 0x00000000#32], .cvtu_64 Pfx.none (w0 2 4 0) (w1 0 0)),
  ([0x006204A4#32], .scl_32 Pfx.none (w0 2 4 3)),
  ([0x006204A5#32, 0x00050000#32], .scl_64 Pfx.none (w0 2 4 3) (w1 5 0)),
  ([0x006204A8#32], .dot2_32 Pfx.none (w0 2 4 3)),
  ([0x006204A9#32, 0x00010006#32], .dot2_64 Pfx.none (w0 2 4 3) (w1 1 6)),
  ([0x006204AC#32], .dot4_32 Pfx.none (w0 2 4 3)),
  ([0x006204AD#32, 0x00010006#32], .dot4_64 Pfx.none (w0 2 4 3) (w1 1 6)),
  ([0x006204B0#32], .dot8_32 Pfx.none (w0 2 4 3)),
  ([0x006204B1#32, 0x00000006#32], .dot8_64 Pfx.none (w0 2 4 3) (w1 0 6)),
  ([0x000004B5#32, 0x00004140#32], .movo Pfx.none (w0 2 0 0) ⟨0, 1, 5, 0⟩),
  ([0x000200B9#32, 0x0000C140#32], .movm Pfx.none (w0 0 4 0) ⟨0, 3, 5, 0⟩),
  ([0x000D04BC#32], .movu_32 Pfx.none (w0 2 26 0)),
  ([0x001400BD#32, 0x0000C140#32], .movu_64 Pfx.none (w0 0 40 0) ⟨0, 3, 5, 0⟩),
  ([0x000204C0#32], .movk_to_mask Pfx.none (w0 2 4 0)),
  ([0x002384C0#32], .movk_from_mask Pfx.none (w0 2 7 1)),
  ([0x028004C5#32, 0x00050000#32], .ldi_64 Pfx.none (w0 2 0 20) (w1 5 0)),
  ([0x028004C6#32, 0x00000000#32, 0x3F800001#32], .ldi_96 Pfx.none (w0 2 0 20) (w1 0 0) 0x3F800001),
  ([0x000000C9#32, 0x00020000#32], .bra_64 Pfx.none (w0 0 0 0) (w1 2 0)),
  ([0x000000CA#32, 0x00000000#32, 0x00000003#32], .bra_96 Pfx.none (w0 0 0 0) (w1 0 0) 3),
  ([0x034A00CD#32, 0x0000001D#32], .brx Pfx.none (w0 0 20 26) (w1 0 29)),
  ([0x001F80D0#32], .pad Pfx.none (w0 0 63 0)),
  ([0x000000D5#32, 0x00030000#32], .call_64 Pfx.none (w0 0 0 0) (w1 3 0)),
  ([0x000000D6#32, 0x00000000#32, 0x00000003#32], .call_96 Pfx.none (w0 0 0 0) (w1 0 0) 3),
  ([0x034A00D9#32, 0x0000001D#32], .callx Pfx.none (w0 0 20 26) (w1 0 29)),
  ([0x000000DC#32], .ret Pfx.none (w0 0 0 0)),
  ([0x000000E0#32], .exit Pfx.none (w0 0 0 0)),
  ([0x000000E5#32, 0x00030000#32], .cue_64 Pfx.none (w0 0 0 0) (w1 3 0)),
  ([0x000000E6#32, 0x00030000#32, 0x00010001#32], .cue_96 Pfx.none (w0 0 0 0) (w1 3 0) 0x00010001),
  ([0x00000007#32, 0x07FF80E8#32], .trap_32 (pk 0) (w0 0 63 63)),
  ([0x000000E9#32, 0xFFFF0000#32], .trap_64 Pfx.none (w0 0 0 0) (w1 0xFFFF 0))] = true := by decide +kernel

theorem test_decode_6 : decodesB [
  ([0x000204EC#32], .census_32 Pfx.none (w0 2 4 0)),
  ([0x000204ED#32, 0x00010000#32], .census_64 Pfx.none (w0 2 4 0) (w1 1 0)),
  ([0x006204F0#32], .pick_32 Pfx.none (w0 2 4 3)),
  ([0x028204F1#32, 0x00050006#32], .pick_64 Pfx.none (w0 2 4 20) (w1 5 6)),
  ([0x000204F4#32], .peers_32 Pfx.none (w0 2 4 0)),
  ([0x000204F5#32, 0x00010000#32], .peers_64 Pfx.none (w0 2 4 0) (w1 1 0)),
  ([0x000204F8#32], .qx_32 Pfx.none (w0 2 4 0)),
  ([0x000204F9#32, 0x00000000#32], .qx_64 Pfx.none (w0 2 4 0) (w1 0 0)),
  ([0x006204FC#32], .red_32 Pfx.none (w0 2 4 3)),
  ([0x006204FD#32, 0x00010000#32], .red_64 Pfx.none (w0 2 4 3) (w1 1 0)),
  ([0x00620500#32], .scan_32 Pfx.none (w0 2 4 3)),
  ([0x00620501#32, 0x00010000#32], .scan_64 Pfx.none (w0 2 4 3) (w1 1 0)),
  ([0x00629105#32, 0x00380020#32], .draw Pfx.none (w0 8 5 3) ⟨0x38, 0, 0, 32⟩),
  ([0x00020509#32, 0x00010018#32], .drawm Pfx.none (w0 2 4 0) (w1 1 24)),
  ([0x0288050C#32], .sreg_read Pfx.none (w0 2 16 20)),
  ([0x0509290C#32], .sreg_write Pfx.none (w0 20 18 40)),
  ([0x03418510#32], .lraise_32 Pfx.none (w0 2 3 26)),
  ([0x02818511#32, 0x00FF0000#32], .lraise_64 Pfx.none (w0 2 3 20) (w1 255 0)),
  ([0x03218114#32], .lchk_32 Pfx.none (w0 0 3 25)),
  ([0x03219514#32], .lchk_k_32 Pfx.none (w0 10 3 25)),
  ([0x02818115#32, 0x00FF0000#32], .lchk_64 Pfx.none (w0 0 3 20) (w1 255 0)),
  ([0x02819515#32, 0x00FF0000#32], .lchk_k_64 Pfx.none (w0 10 3 20) (w1 255 0)),
  ([0x00018519#32, 0x00030000#32], .dcl_reg Pfx.none (w0 2 3 0) (w1 3 0)),
  ([0x000D2919#32, 0x00430000#32], .dcl_g Pfx.none (w0 20 26 0) (w1 0x43 0)),
  ([0x000E2919#32, 0x00830000#32], .dcl_sp Pfx.none (w0 20 28 0) (w1 0x83 0)),
  ([0x002D051C#32], .ld_32 Pfx.none (w0 2 26 1)),
  ([0x028D091D#32, 0x00060000#32], .ld_64 Pfx.none (w0 4 26 20) (w1 6 0)),
  ([0x028D051E#32, 0x00000000#32, 0x0000FFFC#32], .ld_96 Pfx.none (w0 2 26 20) (w1 0 0) 0xFFFC),
  ([0x004D0120#32], .st_32 Pfx.none (w0 0 26 2)),
  ([0x004D0121#32, 0x00440000#32], .st_64 Pfx.none (w0 0 26 2) (w1 0x44 0))] = true := by decide +kernel

theorem test_decode_7 : decodesB [
  ([0x004D0122#32, 0x00000000#32, 0x0000FFFF#32], .st_96 Pfx.none (w0 0 26 2) (w1 0 0) 0xFFFF),
  ([0x07EE0524#32], .lds_32 Pfx.none (w0 2 28 63)),
  ([0x028E0925#32, 0x00060000#32], .lds_64 Pfx.none (w0 4 28 20) (w1 6 0)),
  ([0x028E0526#32, 0x00000000#32, 0x0000FEFF#32], .lds_96 Pfx.none (w0 2 28 20) (w1 0 0) 0xFEFF),
  ([0x004E0128#32], .sts_32 Pfx.none (w0 0 28 2)),
  ([0x004E0129#32, 0x00440000#32], .sts_64 Pfx.none (w0 0 28 2) (w1 0x44 0)),
  ([0x004E012A#32, 0x00000000#32, 0x0000FEFF#32], .sts_96 Pfx.none (w0 0 28 2) (w1 0 0) 0xFEFF),
  ([0x0022852C#32], .ldf_32 Pfx.none (w0 2 5 1)),
  ([0x00E2852D#32, 0x00400000#32], .ldf_64 Pfx.none (w0 2 5 7) (w1 0x40 0)),
  ([0x00628330#32], .ste_32 Pfx.none (w0 1 5 3)),
  ([0x00628F31#32, 0x00400000#32], .ste_64 Pfx.none (w0 7 5 3) (w1 0x40 0)),
  ([0x006D0535#32, 0x00040000#32], .ldx_64 Pfx.none (w0 2 26 3) (w1 4 0)),
  ([0x026E0536#32, 0x00040000#32, 0x00000040#32], .ldx_96 Pfx.none (w0 2 28 19) (w1 4 0) 0x40),
  ([0x00000027#32, 0x00078139#32, 0x00090000#32], .waitc (pk 1) (w0 0 15 0) (w1 9 0)),
  ([0x006D053D#32, 0x00000000#32], .atom Pfx.none (w0 2 26 3) (w1 0 0)),
  ([0x006E0541#32, 0x00000000#32], .atoms Pfx.none (w0 2 28 3) (w1 0 0)),
  ([0x006D0145#32, 0x00000000#32], .rdm Pfx.none (w0 0 26 3) (w1 0 0)),
  ([0x08020548#32], .fence Pfx.none ⟨0#2, false, false, true, 0#6, 4#6, 2#6⟩),
  ([0x01E0014C#32], .bar_32 Pfx.none (w0 0 0 15)),
  ([0x00265B4D#32, 0x00030000#32], .bar_64 Pfx.none (w0 45 12 1) (w1 3 0)),
  ([0x032E0350#32], .barw Pfx.none (w0 1 28 25)),
  ([0x002D0154#32], .prf_32 Pfx.none (w0 0 26 1)),
  ([0x028D0155#32, 0x00400000#32], .prf_64 Pfx.none (w0 0 26 20) (w1 0x40 0)),
  ([0x032E0358#32], .graise Pfx.none (w0 1 28 25)),
  ([0x000D055C#32], .glbl Pfx.none (w0 2 26 0)),
  ([0x00001F60#32], .qbind Pfx.none (w0 15 0 0)),
  ([0x00E03564#32], .qpoll Pfx.none (w0 26 0 7)),
  ([0x00003568#32], .qrd Pfx.none (w0 26 0 0)),
  ([0x000D056C#32], .qwr Pfx.none (w0 2 26 0)),
  ([0x040A2171#32, 0x00000018#32], .mx_fmt Pfx.none (w0 16 20 32) (w1 0 24))] = true := by decide +kernel

theorem test_decode_8 : decodesB [
  ([0x03802175#32, 0x0000002A#32], .mx_ldb Pfx.none (w0 16 0 28) (w1 0 42)),
  ([0x03822179#32, 0x00000024#32], .mx_mma Pfx.none (w0 16 4 28) (w1 0 36)),
  ([0x0382217D#32, 0x00000024#32], .mx_mmas Pfx.none (w0 16 4 28) (w1 0 36)),
  ([0x00002181#32, 0x0000002A#32], .mx_zero Pfx.none (w0 16 0 0) (w1 0 42)),
  ([0x038A2185#32, 0x0000002A#32], .mx_rd Pfx.none (w0 16 20 28) (w1 0 42)),
  ([0x03802189#32, 0x0000002A#32], .mx_wr Pfx.none (w0 16 0 28) (w1 0 42)),
  ([0x0000058D#32, 0x0000002A#32], .mx_rdv Pfx.none (w0 2 0 0) (w1 0 42)),
  ([0x03902191#32, 0x0120002A#32], .mx_qnt Pfx.none (w0 16 32 28) (w1 288 42)),
  ([0x02902395#32, 0x00000001#32], .xf_copy_64 Pfx.none (w0 17 32 20) (w1 0 1)),
  ([0x03902396#32, 0x00200001#32, 0x00000001#32], .xf_copy_96 Pfx.none (w0 17 32 28) (w1 32 1) 1),
  ([0x03900199#32, 0x00200001#32], .xf_pref Pfx.none (w0 0 32 28) (w1 32 1)),
  ([0x0290019D#32, 0x00400001#32], .xf_yield Pfx.none (w0 0 32 20) (w1 64 1)),
  ([0x03AE23A1#32, 0x00200000#32], .bobj_init Pfx.none (w0 17 28 29) (w1 32 0)),
  ([0x006D01A5#32, 0x04880018#32], .cl_put Pfx.none (w0 0 26 3) (w1 0x0488 24)),
  ([0x000D05A9#32, 0x04880018#32], .cl_get Pfx.none (w0 2 26 0) (w1 0x0488 24)),
  ([0x006D01AD#32, 0x00000018#32], .cl_red Pfx.none (w0 0 26 3) (w1 0 24)),
  ([0x008D05B1#32, 0x00880018#32], .cl_atom Pfx.none (w0 2 26 4) (w1 0x0088 24)),
  ([0x80CD01B5#32, 0x00880018#32], .cl_draw Pfx.none ⟨2#2, false, false, false, 6, 26, 0⟩ (w1 0x0088 24)),
  ([0x03AD01B9#32, 0x00000018#32], .cl_sig Pfx.none (w0 0 26 29) (w1 0 24)),
  ([0x044A0DBD#32, 0x00060000#32], .mb_open Pfx.none (w0 6 20 34) (w1 6 0)),
  ([0x000D05C0#32], .mb_send_32 Pfx.none (w0 2 26 0)),
  ([0x000185C1#32, 0x00040000#32], .mb_send_64 Pfx.none (w0 2 3 0) (w1 4 0)),
  ([0x000E05C1#32, 0x00020000#32], .mb_send_sp Pfx.none (w0 2 28 0) (w1 2 0)),
  ([0x002E3DC4#32], .lock_32 Pfx.none (w0 30 28 1)),
  ([0x002E3DC5#32, 0x00050000#32], .lock_64 Pfx.none (w0 30 28 1) (w1 5 0)),
  ([0x002E3DC8#32], .trylock_32 Pfx.none (w0 30 28 1)),
  ([0x002E3DC9#32, 0x00050003#32], .trylock_64 Pfx.none (w0 30 28 1) (w1 5 3)),
  ([0x002E01CC#32], .unlock_32 Pfx.none (w0 0 28 1)),
  ([0x002E01CD#32, 0x00010000#32], .unlock_64 Pfx.none (w0 0 28 1) (w1 1 0)),
  ([0x001001D0#32], .promise Pfx.none (w0 0 32 0))] = true := by decide +kernel

theorem test_decode_9 : decodesB [
  ([0x028A0FD5#32, 0x00000000#32], .heir Pfx.none (w0 7 20 20) (w1 0 0)),
  ([0x028D2BD9#32, 0x00000000#32], .launch Pfx.none (w0 21 26 20) (w1 0 0)),
  ([0x0000000F#32, 0x00020404#32], .ineg Pfx.none (w0 2 4 0)),
  ([0x0000000F#32, 0x00020408#32], .iabs Pfx.none (w0 2 4 0)),
  ([0x0000000F#32, 0x0002040C#32], .popc Pfx.none (w0 2 4 0)),
  ([0x0000000F#32, 0x00020410#32], .clz Pfx.none (w0 2 4 0)),
  ([0x0000000F#32, 0x00020414#32], .ctz Pfx.none (w0 2 4 0)),
  ([0x0000000F#32, 0x00020418#32], .brev Pfx.none (w0 2 4 0)),
  ([0x0000000F#32, 0x0002041C#32], .frcp Pfx.none (w0 2 4 0)),
  ([0x0000000F#32, 0x00020420#32], .frsq Pfx.none (w0 2 4 0)),
  ([0x0000000F#32, 0x00020424#32], .fsqrt Pfx.none (w0 2 4 0)),
  ([0x0000000F#32, 0x00020428#32], .fexp2 Pfx.none (w0 2 4 0)),
  ([0x0000000F#32, 0x0002042C#32], .flog2 Pfx.none (w0 2 4 0)),
  ([0x0000000F#32, 0x00020430#32], .fsin Pfx.none (w0 2 4 0)),
  ([0x0000000F#32, 0x00020434#32], .fcos Pfx.none (w0 2 4 0)),
  ([0x0000000F#32, 0x00020438#32], .ftanh Pfx.none (w0 2 4 0)),
  ([0x0000000F#32, 0x0002043C#32], .frnd Pfx.none (w0 2 4 0)),
  ([0x0000000F#32, 0x00020440#32], .ffrc Pfx.none (w0 2 4 0)),
  ([0x00000007#32, 0x0000000F#32, 0x00000044#32], .kill (pk 0) (w0 0 0 0)),
  ([0x0000000F#32, 0x00000048#32], .syncw Pfx.none (w0 0 0 0)),
  ([0x0000000F#32, 0x0000004C#32], .yield Pfx.none (w0 0 0 0)),
  ([0x0000000F#32, 0x00000050#32], .bkpt Pfx.none (w0 0 0 0)),
  ([0x0000000F#32, 0x00000454#32], .elect Pfx.none (w0 2 0 0)),
  ([0x0000000F#32, 0x00020458#32], .lget Pfx.none (w0 2 4 0)),
  ([0x0000000F#32, 0x066D005C#32], .seal Pfx.none (w0 0 26 51)),
  ([0x0000000F#32, 0x066D0060#32], .unseal Pfx.none (w0 0 26 51)),
  ([0x0000000F#32, 0x00000064#32], .qfree Pfx.none (w0 0 0 0)),
  ([0x0000000F#32, 0x00000068#32], .rett Pfx.none (w0 0 0 0)),
  ([0x0000000F#32, 0x000D006C#32], .tclr Pfx.none (w0 0 26 0)),
  ([0x0000000F#32, 0x000D4C70#32], .tmask Pfx.none (w0 38 26 0))] = true := by decide +kernel

theorem test_decode_10 : decodesB [
  ([0x0000000F#32, 0x00000074#32], .halt Pfx.none (w0 0 0 0)),
  ([0x0000000F#32, 0x000C8078#32], .mx_gang Pfx.none (w0 0 25 0)),
  ([0x0000000F#32, 0x0000007C#32], .mx_wait Pfx.none (w0 0 0 0)),
  ([0x0000000F#32, 0x002C8080#32], .mx_drop Pfx.none (w0 0 25 1)),
  ([0x0000000F#32, 0x00000084#32], .xf_wait Pfx.none (w0 0 0 0)),
  ([0x0000000F#32, 0x00140088#32], .xf_cancel Pfx.none (w0 0 40 0)),
  ([0x0000000F#32, 0x03AE028C#32], .bobj_arv Pfx.none (w0 1 28 29)),
  ([0x0000000F#32, 0x05ED2290#32], .cl_flush Pfx.none (w0 17 26 47)),
  ([0x0000000F#32, 0x00140094#32], .mb_ver Pfx.none (w0 0 40 0)),
  ([0x0000000F#32, 0x00008498#32], .mb_mode Pfx.none (w0 2 1 0)),
  ([0x0000000F#32, 0x0017009C#32], .will Pfx.none (w0 0 46 0)),
  ([0x0000000F#32, 0x000086A0#32], .estq Pfx.none (w0 3 1 0)),
  ([0x0000000F#32, 0x000000A4#32], .lwait Pfx.none (w0 0 0 0)),
  ([0x006103FC#32], .unassigned_opcode Pfx.none false .w32 0x7F (w0 1 2 3)),
  ([0x0000000F#32, 0x000000A8#32], .unassigned_opcode Pfx.none true .w32 0x2A (w0 0 0 0)),
  ([0x00000087#32, 0x00000000#32], .orphaned_prefix .orphan 0 0)] = true := by decide +kernel

/-- Instructions to which the round trip applies, one with two prefixes, three words and a full run. -/
theorem meets_DecodeEncode : [
  (.iadd_32 Pfx.none (w0 1 2 3) : Instr), .fadd_96 ⟨some ⟨.sr, true, .none, 15⟩, some ⟨7, true⟩, none⟩ (w0 15 15 20) (w1 0 0) 0xFFFFFFFF#32,
  .frcp ⟨none, some ⟨1, false⟩, none⟩ (w0 3 2 0), .ld_96 Pfx.none (w0 2 26 20) (w1 0 0) 0x8000#32].all
    (fun i => i.parts.isSome && i.wf && i.runFits && decodeWords (encode i) == some i) = true := by decide +kernel

/-! Ill-formed terms, which the checks refuse. -/

/-- Every field all ones: register code 63 is reserved (R88). -/
def badW : W0 := ⟨3#2, true, true, true, 63#6, 63#6, 63#6⟩
def badX : W1 := ⟨0xFFFF#16, 3#2, 255#8, 63#6⟩

theorem test_ill_formed_1 : [
  WF.iadd_32 Pfx.none badW, WF.iadd_64 Pfx.none badW badX, WF.iadd_96 Pfx.none badW badX 0#32, WF.isub_32 Pfx.none badW,
  WF.isub_64 Pfx.none badW badX, WF.isub_96 Pfx.none badW badX 0#32, WF.iaddc_32 Pfx.none badW, WF.iaddc_64 Pfx.none badW badX,
  WF.iaddc_96 Pfx.none badW badX 0#32, WF.imul_32 Pfx.none badW, WF.imul_64 Pfx.none badW badX, WF.imul_96 Pfx.none badW badX 0#32,
  WF.imulh_32 Pfx.none badW, WF.imulh_64 Pfx.none badW badX, WF.imulh_96 Pfx.none badW badX 0#32, WF.imad_32 Pfx.none badW,
  WF.imad_64 Pfx.none badW badX, WF.imad_96 Pfx.none badW badX 0#32, WF.imadw_32 Pfx.none badW, WF.imadw_64 Pfx.none badW badX,
  WF.imadw_96 Pfx.none badW badX 0#32, WF.imin_32 Pfx.none badW, WF.imin_64 Pfx.none badW badX, WF.imin_96 Pfx.none badW badX 0#32,
  WF.imax_32 Pfx.none badW, WF.imax_64 Pfx.none badW badX, WF.imax_96 Pfx.none badW badX 0#32, WF.and_32 Pfx.none badW, WF.and_64 Pfx.none badW badX,
  WF.and_96 Pfx.none badW badX 0#32, WF.or_32 Pfx.none badW, WF.or_64 Pfx.none badW badX, WF.or_96 Pfx.none badW badX 0#32, WF.xor_32 Pfx.none badW,
  WF.xor_64 Pfx.none badW badX, WF.xor_96 Pfx.none badW badX 0#32, WF.andn_32 Pfx.none badW, WF.andn_64 Pfx.none badW badX,
  WF.andn_96 Pfx.none badW badX 0#32, WF.bool3_64 Pfx.none badW badX, WF.bool3_96 Pfx.none badW badX 0#32, WF.shl_32 Pfx.none badW,
  WF.shl_64 Pfx.none badW badX, WF.shl_96 Pfx.none badW badX 0#32, WF.shr_32 Pfx.none badW, WF.shr_64 Pfx.none badW badX,
  WF.shr_96 Pfx.none badW badX 0#32, WF.sar_32 Pfx.none badW, WF.sar_64 Pfx.none badW badX, WF.sar_96 Pfx.none badW badX 0#32,
  WF.rot_32 Pfx.none badW, WF.rot_64 Pfx.none badW badX, WF.rot_96 Pfx.none badW badX 0#32, WF.shf_32 Pfx.none badW, WF.shf_64 Pfx.none badW badX,
  WF.shf_96 Pfx.none badW badX 0#32, WF.bfx_32 Pfx.none badW, WF.bfx_64 Pfx.none badW badX, WF.bfx_96 Pfx.none badW badX 0#32,
  WF.bfi_32 Pfx.none badW, WF.bfi_64 Pfx.none badW badX, WF.bfi_96 Pfx.none badW badX 0#32, WF.prmt_32 Pfx.none badW, WF.prmt_64 Pfx.none badW badX,
  WF.prmt_96 Pfx.none badW badX 0#32, WF.icmp_32 Pfx.none badW, WF.icmp_64 Pfx.none badW badX, WF.icmp_96 Pfx.none badW badX 0#32,
  WF.isel_32 Pfx.none badW, WF.isel_64 Pfx.none badW badX].any id = false := by decide

theorem test_ill_formed_2 : [
  WF.isel_96 Pfx.none badW badX 0#32, WF.lea_32 Pfx.none badW, WF.lea_64 Pfx.none badW badX, WF.lea_96 Pfx.none badW badX 0#32,
  WF.fadd_32 Pfx.none badW, WF.fadd_64 Pfx.none badW badX, WF.fadd_96 Pfx.none badW badX 0#32, WF.fmul_32 Pfx.none badW,
  WF.fmul_64 Pfx.none badW badX, WF.fmul_96 Pfx.none badW badX 0#32, WF.ffma_32 Pfx.none badW, WF.ffma_64 Pfx.none badW badX,
  WF.ffma_96 Pfx.none badW badX 0#32, WF.fmin_32 Pfx.none badW, WF.fmin_64 Pfx.none badW badX, WF.fmin_96 Pfx.none badW badX 0#32,
  WF.fmax_32 Pfx.none badW, WF.fmax_64 Pfx.none badW badX, WF.fmax_96 Pfx.none badW badX 0#32, WF.fcmp_32 Pfx.none badW,
  WF.fcmp_64 Pfx.none badW badX, WF.fcmp_96 Pfx.none badW badX 0#32, WF.hadd2_32 Pfx.none badW, WF.hadd2_64 Pfx.none badW badX,
  WF.hadd2_96 Pfx.none badW badX 0#32, WF.hmul2_32 Pfx.none badW, WF.hmul2_64 Pfx.none badW badX, WF.hmul2_96 Pfx.none badW badX 0#32,
  WF.hfma2_32 Pfx.none badW, WF.hfma2_64 Pfx.none badW badX, WF.hfma2_96 Pfx.none badW badX 0#32, WF.hmin2_32 Pfx.none badW,
  WF.hmin2_64 Pfx.none badW badX, WF.hmin2_96 Pfx.none badW badX 0#32, WF.hmax2_32 Pfx.none badW, WF.hmax2_64 Pfx.none badW badX,
  WF.hmax2_96 Pfx.none badW badX 0#32, WF.hcmp2_32 Pfx.none badW, WF.hcmp2_64 Pfx.none badW badX, WF.hcmp2_96 Pfx.none badW badX 0#32,
  WF.cvt_32 Pfx.none badW, WF.cvt_64 Pfx.none badW badX, WF.cvtp_32 Pfx.none badW, WF.cvtp_64 Pfx.none badW badX, WF.cvtu_32 Pfx.none badW,
  WF.cvtu_64 Pfx.none badW badX, WF.scl_32 Pfx.none badW, WF.scl_64 Pfx.none badW badX, WF.dot2_32 Pfx.none badW, WF.dot2_64 Pfx.none badW badX,
  WF.dot4_32 Pfx.none badW, WF.dot4_64 Pfx.none badW badX, WF.dot8_32 Pfx.none badW, WF.dot8_64 Pfx.none badW badX, WF.movo Pfx.none badW badX,
  WF.movm Pfx.none badW badX, WF.movu_32 Pfx.none badW, WF.movu_64 Pfx.none badW badX, WF.movk_to_mask Pfx.none badW, WF.movk_from_mask Pfx.none badW,
  WF.ldi_64 Pfx.none badW badX, WF.ldi_96 Pfx.none badW badX 0#32, WF.bra_64 Pfx.none badW badX, WF.bra_96 Pfx.none badW badX 0#32,
  WF.brx Pfx.none badW badX, WF.pad Pfx.none badW, WF.call_64 Pfx.none badW badX, WF.call_96 Pfx.none badW badX 0#32, WF.callx Pfx.none badW badX,
  WF.ret Pfx.none badW].any id = false := by decide

theorem test_ill_formed_3 : [
  WF.exit Pfx.none badW, WF.cue_64 Pfx.none badW badX, WF.cue_96 Pfx.none badW badX 0#32, WF.trap_32 Pfx.none badW, WF.trap_64 Pfx.none badW badX,
  WF.census_32 Pfx.none badW, WF.census_64 Pfx.none badW badX, WF.pick_32 Pfx.none badW, WF.pick_64 Pfx.none badW badX, WF.peers_32 Pfx.none badW,
  WF.peers_64 Pfx.none badW badX, WF.qx_32 Pfx.none badW, WF.qx_64 Pfx.none badW badX, WF.red_32 Pfx.none badW, WF.red_64 Pfx.none badW badX,
  WF.scan_32 Pfx.none badW, WF.scan_64 Pfx.none badW badX, WF.draw Pfx.none badW badX, WF.drawm Pfx.none badW badX, WF.sreg_read Pfx.none badW,
  WF.sreg_write Pfx.none badW, WF.lraise_32 Pfx.none badW, WF.lraise_64 Pfx.none badW badX, WF.lchk_32 Pfx.none badW, WF.lchk_k_32 Pfx.none badW,
  WF.lchk_64 Pfx.none badW badX, WF.lchk_k_64 Pfx.none badW badX, WF.dcl_reg Pfx.none badW badX, WF.dcl_g Pfx.none badW badX,
  WF.dcl_sp Pfx.none badW badX, WF.ld_32 Pfx.none badW, WF.ld_64 Pfx.none badW badX, WF.ld_96 Pfx.none badW badX 0#32, WF.st_32 Pfx.none badW,
  WF.st_64 Pfx.none badW badX, WF.st_96 Pfx.none badW badX 0#32, WF.lds_32 Pfx.none badW, WF.lds_64 Pfx.none badW badX,
  WF.lds_96 Pfx.none badW badX 0#32, WF.sts_32 Pfx.none badW, WF.sts_64 Pfx.none badW badX, WF.sts_96 Pfx.none badW badX 0#32,
  WF.ldf_32 Pfx.none badW, WF.ldf_64 Pfx.none badW badX, WF.ste_32 Pfx.none badW, WF.ste_64 Pfx.none badW badX, WF.ldx_64 Pfx.none badW badX,
  WF.ldx_96 Pfx.none badW badX 0#32, WF.waitc Pfx.none badW badX, WF.atom Pfx.none badW badX, WF.atoms Pfx.none badW badX, WF.rdm Pfx.none badW badX,
  WF.fence Pfx.none badW, WF.bar_32 Pfx.none badW, WF.bar_64 Pfx.none badW badX, WF.barw Pfx.none badW, WF.prf_32 Pfx.none badW,
  WF.prf_64 Pfx.none badW badX, WF.graise Pfx.none badW, WF.glbl Pfx.none badW, WF.qbind Pfx.none badW, WF.qpoll Pfx.none badW, WF.qrd Pfx.none badW,
  WF.qwr Pfx.none badW, WF.mx_fmt Pfx.none badW badX, WF.mx_ldb Pfx.none badW badX, WF.mx_mma Pfx.none badW badX, WF.mx_mmas Pfx.none badW badX,
  WF.mx_zero Pfx.none badW badX, WF.mx_rd Pfx.none badW badX].any id = false := by decide

theorem test_ill_formed_4 : [
  WF.mx_wr Pfx.none badW badX, WF.mx_rdv Pfx.none badW badX, WF.mx_qnt Pfx.none badW badX, WF.xf_copy_64 Pfx.none badW badX,
  WF.xf_copy_96 Pfx.none badW badX 0#32, WF.xf_pref Pfx.none badW badX, WF.xf_yield Pfx.none badW badX, WF.bobj_init Pfx.none badW badX,
  WF.cl_put Pfx.none badW badX, WF.cl_get Pfx.none badW badX, WF.cl_red Pfx.none badW badX, WF.cl_atom Pfx.none badW badX,
  WF.cl_draw Pfx.none badW badX, WF.cl_sig Pfx.none badW badX, WF.mb_open Pfx.none badW badX, WF.mb_send_32 Pfx.none badW,
  WF.mb_send_64 Pfx.none badW badX, WF.mb_send_sp Pfx.none badW badX, WF.lock_32 Pfx.none badW, WF.lock_64 Pfx.none badW badX,
  WF.trylock_32 Pfx.none badW, WF.trylock_64 Pfx.none badW badX, WF.unlock_32 Pfx.none badW, WF.unlock_64 Pfx.none badW badX,
  WF.promise Pfx.none badW, WF.heir Pfx.none badW badX, WF.launch Pfx.none badW badX, WF.ineg Pfx.none badW, WF.iabs Pfx.none badW,
  WF.popc Pfx.none badW, WF.clz Pfx.none badW, WF.ctz Pfx.none badW, WF.brev Pfx.none badW, WF.frcp Pfx.none badW, WF.frsq Pfx.none badW,
  WF.fsqrt Pfx.none badW, WF.fexp2 Pfx.none badW, WF.flog2 Pfx.none badW, WF.fsin Pfx.none badW, WF.fcos Pfx.none badW, WF.ftanh Pfx.none badW,
  WF.frnd Pfx.none badW, WF.ffrc Pfx.none badW, WF.kill Pfx.none badW, WF.syncw Pfx.none badW, WF.yield Pfx.none badW, WF.bkpt Pfx.none badW,
  WF.elect Pfx.none badW, WF.lget Pfx.none badW, WF.seal Pfx.none badW, WF.unseal Pfx.none badW, WF.qfree Pfx.none badW, WF.rett Pfx.none badW,
  WF.tclr Pfx.none badW, WF.tmask Pfx.none badW, WF.halt Pfx.none badW, WF.mx_gang Pfx.none badW, WF.mx_wait Pfx.none badW, WF.mx_drop Pfx.none badW,
  WF.xf_wait Pfx.none badW, WF.xf_cancel Pfx.none badW, WF.bobj_arv Pfx.none badW, WF.cl_flush Pfx.none badW, WF.mb_ver Pfx.none badW,
  WF.mb_mode Pfx.none badW, WF.will Pfx.none badW, WF.estq Pfx.none badW, WF.lwait Pfx.none badW].any id = false := by decide

/-- R88, R89: registers, latches as destinations, results of instructions without one, last-use bits of absent sources. -/
theorem test_check_1 : [
  WF.and_32 Pfx.none (w0 1 56 2), WF.and_32 Pfx.none (w0 1 2 63), WF.and_32 Pfx.none (w0 56 1 2), WF.and_32 Pfx.none (w0 21 1 2),
  WF.and_32 Pfx.none (w0 16 1 2), WF.exit Pfx.none ⟨1#2, false, false, false, 0, 0, 0⟩, WF.exit Pfx.none ⟨0#2, true, false, false, 0, 0, 0⟩,
  WF.popc Pfx.none ⟨0#2, false, true, false, 0, 2, 1⟩, WF.popc Pfx.none (w0 1 2 3), WF.st_32 Pfx.none ⟨0#2, true, false, false, 2, 26, 0⟩,
  WF.elect Pfx.none (w0 8 0 0), WF.icmp_64 Pfx.none (w0 16 2 3) (w1 0 1)].any id = false := by decide

/-- R89: uniform destinations with lane sources, and where the entry takes none. -/
theorem test_check_2 : [
  WF.iadd_32 Pfx.none (w0 24 2 25), WF.iadd_64 Pfx.none (w0 24 2 20) (w1 5 0), WF.pick_32 Pfx.none (w0 24 2 3), WF.ldf_32 Pfx.none (w0 24 2 0),
  WF.iadd_32 (pk 0) (w0 24 25 26), WF.ld_32 Pfx.none (w0 40 2 0)].any id = false := by decide

/-- R90: main-file roles: an unused number, a field that the role replaces, roles that are not offered. -/
theorem test_check_3 : [
  WF.iadd_64 Pfx.none (w0 1 2 3) ⟨0, 0, 1, 0⟩, WF.iadd_64 Pfx.none (w0 1 2 3) ⟨0, 1, 1, 0⟩, WF.iadd_64 Pfx.none (w0 1 2 3) ⟨0, 2, 1, 0⟩,
  WF.iadd_64 Pfx.none (w0 1 2 3) ⟨0, 3, 1, 0⟩, WF.imadw_64 Pfx.none (w0 0 3 5) ⟨0, 3, 1, 6⟩, WF.lea_64 Pfx.none (w0 2 0 5) ⟨0, 1, 1, 0⟩,
  WF.brx Pfx.none (w0 0 20 26) ⟨0, 2, 0, 29⟩, WF.movo Pfx.none (w0 2 0 0) ⟨0, 0, 0, 0⟩, WF.movm Pfx.none (w0 1 4 0) ⟨0, 3, 5, 0⟩,
  WF.ld_64 Pfx.none (w0 0 26 20) ⟨5, 3, 1, 0⟩, WF.st_64 Pfx.none (w0 0 0 2) ⟨4, 1, 1, 0⟩].any id = false := by decide

/-- R91, R93: immediates and literals: a last-use bit, [31:16] beside a register, B of a 96-bit form, modifiers out of range. -/
theorem test_check_4 : [
  WF.iadd_64 Pfx.none ⟨0#2, false, true, false, 20, 2, 1⟩ (w1 5 0), WF.iadd_64 Pfx.none (w0 1 2 3) (w1 1 0),
  WF.iadd_96 Pfx.none (w0 1 2 3) (w1 0 0) 7, WF.iadd_96 Pfx.none (w0 1 2 20) (w1 1 0) 7, WF.iadd_64 Pfx.none (w0 1 2 3) (w1 0 2),
  WF.bool3_64 Pfx.none (w0 1 2 3) (w1 256 4), WF.ldi_96 Pfx.none (w0 1 0 20) (w1 0 1) 7, WF.qx_64 Pfx.none (w0 1 2 0) (w1 1 0)].any id = false := by decide

/-- R149, R191, R197: pairs, quads and the widths of sizes and types. -/
theorem test_check_5 : [
  WF.imadw_32 Pfx.none (w0 3 4 5), WF.lea_32 Pfx.none (w0 2 5 4), WF.lea_32 Pfx.none (w0 3 4 4), WF.ld_32 Pfx.none (w0 2 27 0),
  WF.ld_64 Pfx.none (w0 3 26 20) (w1 5 0), WF.ld_64 Pfx.none (w0 6 26 20) (w1 6 0), WF.ld_64 Pfx.none (w0 4 26 20) (w1 7 0),
  WF.ld_64 Pfx.none (w0 4 26 20) (w1 8 0), WF.st_64 Pfx.none (w0 0 26 2) (w1 1 0), WF.st_64 Pfx.none (w0 0 26 2) (w1 3 0),
  WF.st_64 Pfx.none (w0 0 26 3) (w1 5 0), WF.tclr Pfx.none (w0 0 27 0), WF.qrd Pfx.none (w0 25 0 0), WF.seal Pfx.none (w0 0 27 24),
  WF.lock_32 Pfx.none (w0 31 28 1)].any id = false := by decide

/-- R151, R160 to R163: conditions, element positions and type pairs. -/
theorem test_check_6 : [
  WF.icmp_64 Pfx.none (w0 0x10 2 3) (w1 0 1), WF.cvtp_32 Pfx.none (w0 1 2 63), WF.cvtu_32 Pfx.none (w0 1 2 63),
  WF.dot2_64 Pfx.none (w0 1 2 3) (w1 0x10 4), WF.dot4_64 Pfx.none (w0 1 2 3) (w1 0x20 4), WF.dot8_64 Pfx.none (w0 1 2 3) (w1 8 4)].any id = false := by decide

/-- R168, R169, R174: branches, jump tables and cue points. -/
theorem test_check_7 : [
  WF.bra_64 Pfx.none (w0 0x20 0 0) (w1 2 0), WF.bra_64 Pfx.none (w0 1 0 0) (w1 2 0), WF.bra_64 Pfx.none (w0 0 1 0) (w1 2 0),
  WF.bra_96 Pfx.none (w0 0x10 1 0) (w1 0 0) 3, WF.brx Pfx.none (w0 0 20 27) (w1 0 29), WF.brx Pfx.none (w0 0 20 26) (w1 0 2),
  WF.callx Pfx.none (w0 0 20 26) (w1 1 29), WF.cue_64 Pfx.none (w0 1 0 0) (w1 3 0), WF.call_96 Pfx.none (w0 0 0 0) (w1 1 0) 3,
  WF.pad Pfx.none (w0 1 0 0)].any id = false := by decide

/-- R175 to R180: cross-lane operations and selectors. -/
theorem test_check_8 : [
  WF.census_32 Pfx.none (w0 0x28 2 0), WF.pick_64 Pfx.none (w0 1 2 3) (w1 0 0x14), WF.peers_32 Pfx.none (w0 1 2 3), WF.red_32 Pfx.none (w0 1 2 6),
  WF.red_32 Pfx.none (w0 1 2 0x28), WF.red_32 Pfx.none (w0 1 2 0x13), WF.draw Pfx.none (w0 8 5 3) ⟨0x38, 0, 0, 33⟩,
  WF.draw Pfx.none (w0 8 5 3) ⟨0x04, 0, 0, 32⟩, WF.sreg_read Pfx.none (w0 2 21 20), WF.sreg_read Pfx.none (w0 3 16 20),
  WF.sreg_read Pfx.none (w0 24 0 20), WF.sreg_write Pfx.none (w0 20 17 40)].any id = false := by decide

/-- R194, R197, R202 to R206: full/empty accesses, atomics, fences, barriers and queues. -/
theorem test_check_9 : [
  WF.ldf_32 Pfx.none (w0 2 26 0), WF.ldf_32 Pfx.none (w0 2 5 8), WF.ste_32 Pfx.none (w0 8 5 3), WF.atom Pfx.none (w0 2 26 3) (w1 10 0),
  WF.atom Pfx.none (w0 2 26 3) (w1 0x50 0), WF.atom Pfx.none (w0 3 26 2) (w1 0x20 0), WF.atom Pfx.none (w0 2 26 3) (w1 0 1),
  WF.rdm Pfx.none (w0 2 26 3) (w1 0 0), WF.rdm Pfx.none (w0 0 26 3) (w1 6 0), WF.fence Pfx.none (w0 0 0 0),
  WF.fence Pfx.none ⟨0#2, false, false, true, 0x20, 4, 2⟩, WF.bar_64 Pfx.none (w0 45 12 1) (w1 5 0), WF.waitc Pfx.none (w0 0 16 0) (w1 0 0),
  WF.qbind Pfx.none (w0 16 0 0), WF.qbind Pfx.none (w0 0 8 0), WF.qpoll Pfx.none (w0 26 0 8), WF.estq Pfx.none (w0 0 2 0),
  WF.mb_mode Pfx.none (w0 0 3 0)].any id = false := by decide

/-- R250, R286, R292: engine commands: control pairs, rows, tiers, tags and scopes. -/
theorem test_check_10 : [
  WF.mx_ldb Pfx.none (w0 16 0 28) (w1 0 41), WF.mx_mma Pfx.none (w0 32 4 28) (w1 0 36), WF.mx_drop Pfx.none (w0 0 25 0),
  WF.mx_drop Pfx.none (w0 0 25 33), WF.mx_rd Pfx.none (w0 16 20 28) (w1 0x80 42), WF.mx_zero Pfx.none (w0 16 1 0) (w1 0 42),
  WF.xf_copy_64 Pfx.none (w0 17 33 20) (w1 0 1), WF.xf_copy_64 Pfx.none (w0 17 32 20) (w1 0 5), WF.xf_pref Pfx.none (w0 0 32 28) (w1 32 0),
  WF.xf_copy_64 Pfx.none (w0 17 32 20) (w1 64 1), WF.cl_put Pfx.none (w0 0 26 3) (w1 0x8488 24), WF.cl_put Pfx.none (w0 0 26 3) (w1 0x0088 24),
  WF.cl_get Pfx.none (w0 2 27 0) (w1 0x0488 24), WF.cl_sig Pfx.none (w0 0 26 29) (w1 8 24)].any id = false := by decide

/-- R329, R339, R342, R358: heirs, lock words, holdings and launches. -/
theorem test_check_11 : [
  WF.heir Pfx.none (w0 8 20 20) (w1 0 0), WF.heir Pfx.none (w0 7 20 20) (w1 6 0), WF.heir Pfx.none (w0 7 20 20) (w1 8 0),
  WF.heir Pfx.none (w0 7 20 20) (w1 128 0), WF.heir Pfx.none (w0 5 20 20) (w1 0 16), WF.lock_32 Pfx.none (w0 30 28 16),
  WF.lock_32 Pfx.none (w0 30 28 12), WF.lock_32 Pfx.none (w0 30 27 0), WF.launch Pfx.none (w0 5 26 20) (w1 0 0),
  WF.launch Pfx.none (w0 21 26 20) (w1 1 0)].any id = false := by decide

/-- R94 to R97: prefixes that the entry does not accept. -/
theorem test_check_12 : [
  WF.and_32 (⟨some ⟨.rne, false, .range, 0⟩, none, none⟩) (w0 1 2 3), WF.iadd_32 (⟨some ⟨.rtz, false, .none, 0⟩, none, none⟩) (w0 1 2 3),
  WF.iadd_32 (⟨some ⟨.rne, false, .unit, 0⟩, none, none⟩) (w0 1 2 3), WF.fmin_32 (⟨some ⟨.rtz, false, .none, 0⟩, none, none⟩) (w0 1 2 3),
  WF.ffrc (⟨some ⟨.rup, false, .none, 0⟩, none, none⟩) (w0 1 2 0), WF.fadd_32 (⟨some ⟨.rtz, false, .none, 1⟩, none, none⟩) (w0 1 2 3),
  WF.and_32 ⟨none, none, some ⟨true, none⟩⟩ (w0 1 2 3), WF.pad (pk 0) (w0 0 0 0), WF.mx_wait (pk 0) (w0 0 0 0),
  WF.red_32 (⟨some ⟨.rne, false, .range, 0⟩, none, none⟩) (w0 1 2 3)].any id = false := by decide

/-! Results of the spec's own examples. -/

/-- Value and flags that lane 0 of o1 holds after an instruction with those values in o2 and o3. -/
noncomputable def lane0 (i : Instr) (a b : Word) : Option (Word × BitVec 8) :=
  match exec i (demoWith (fun x => { x with
    exited := 0xFFFFFFFE#32, subs := x.subs.map (fun u => { u with mask := 1#32 }), o := [(64, ⟨a, 0#8, false, false⟩), (96, ⟨b, 0#8, false, false⟩)] })) with
  | .next t => if t.report = .done then some (((t.warp 1).reg (.o 1 0)).1, (t.warp 1).flags) else none
  | _ => none

/-- PFX.RS with range saturation. -/
def satRange : Pfx := ⟨some ⟨.rne, false, .range, 0#4⟩, none, none⟩

/-- The table at the end of R150. -/
theorem test_saturation : [
  lane0 (.iadd_32 Pfx.none (w0 1 2 3)) 0x7FFFFFF0 0x20 == some (0x80000010#32, 0#8),
  lane0 (.iadd_32 satRange (w0 1 2 3)) 0x7FFFFFF0 0x20 == some (0x7FFFFFFF#32, fSAT),
  lane0 (.isub_64 satRange (w0 1 2 3) (w1 0 1)) 5 9 == some (0#32, fSAT),
  lane0 (.ineg satRange (w0 1 2 0)) 0x80000000 0 == some (0x7FFFFFFF#32, fSAT),
  lane0 (.sar_32 Pfx.none (w0 1 2 3)) 0x80000000 0x40 == some (0xFFFFFFFF#32, 0#8)].all id = true := by decide +kernel

/-- The trace after R322: an observation of version 3, step 1 and episode 0x12, stale under mode flag, lands at 0x400. -/
def demoFlagged : State :=
  (demo.modDie 0 (fun d => { d with mailboxes :=
    [(5, { demoBox with episode := 0x12, obs := [⟨0x12#16, 1#16, 3#16, 0#8, 0#8, 0#64, toBytes 5#32 4 ++ List.replicate 60 0#8⟩] })] })).modWarp 1
      (fun x => { x with policy := 4#16, queues := x.queues.take 2 ++ [{ demoQueue 2 with mailbox := 5, ring := 0x400, stale := 2 }] ++ x.queues.drop 3 })

theorem test_mailbox_entry : (match exec (.observation_delivery 0 5) demoFlagged with
    | .next t => (((t.warp 1).queue 2).entries.map (fun e => e.data), ofBytes 64 ((t.spadOf 1 0).read 0x400 8), ofBytes 32 ((t.spadOf 1 0).read 0x440 4))
    | _ => ([], 0#64, 0#32)) = ([0x0001010000030012#64], 0x0100000300010012#64, 5#32) := by decide +kernel

/-- TRAP takes SWTRAP with the successor as the return PC and its code in s31 (R173, R212). -/
theorem test_trap : (match exec (.trap_64 Pfx.none (w0 0 0 0) (w1 0x1234 0)) demo with
    | .next t => [((t.warp 1).reg (.s 24)).1, ((t.warp 1).reg (.s 25)).1, ((t.warp 1).reg (.s 31)).1]
    | _ => []) = [0x10004#32, 0#32, 0x1234#32] := by decide +kernel

/-- A table word is the instruction's words, the first lowest. -/
theorem test_table_word : decodeTableWord 64 0x0005000002808805 = some (.iadd_64 Pfx.none (w0 4 1 20) (w1 5 0)) := by decide +kernel

end Sys2Proof.Machine
end

section
/-! SUPPORT. Quiet steps: what changes no register, no mask, no special register of a warp and no byte of memory. -/

namespace Sys2Proof.Machine

open Sys2Proof

/-- Two warps show the same registers, masks and special registers. -/
structure Warp.Alike (x y : Warp) : Prop where
  regs : ∀ g, x.reg g = y.reg g
  masks : ∀ n, x.mask n = y.mask n
  specials : x.specials = y.specials

theorem Warp.Alike.refl (x : Warp) : x.Alike x := ⟨fun _ => rfl, fun _ => rfl, rfl⟩

theorem setQueue_alike (x : Warp) (q : Nat) (u : Queue) : (x.setQueue q u).Alike x :=
  ⟨fun g => by cases g <;> rfl, fun _ => rfl, rfl⟩

section
variable {s t r : State}

/-- A byte of memory reads the same where copies, host memory and the clearing of frames are the same. -/
theorem readMem_congr (hd : t.dies = s.dies) (hh : t.hostMem = s.hostMem) (hc : t.cleared = s.cleared) (hl : t.lines = s.lines) (d : Nat)
    (l : Loc) : t.readMem d l = s.readMem d l := by
  simp [State.readMem, State.scrubbed, State.copyAt, State.die, hd, hh, hc, hl]

theorem Quiet.refl (s : State) : Quiet s s := ⟨fun _ _ _ => rfl, fun _ _ _ => rfl, fun _ _ => rfl, fun _ _ _ => rfl⟩

theorem Quiet.trans (h : Quiet s t) (h' : Quiet t r) : Quiet s r :=
  ⟨fun w g hg => (h'.regs w g hg).trans (h.regs w g hg), fun w n hn => (h'.masks w n hn).trans (h.masks w n hn),
    fun w hw => (h'.special w hw).trans (h.special w hw), fun d l hl => (h'.memory d l hl).trans (h.memory d l hl)⟩

theorem Quiet.of_alike (hw : ∀ w, (t.warp w).Alike (s.warp w)) (hm : ∀ d l, t.readMem d l = s.readMem d l) : Quiet s t :=
  ⟨fun w g _ => (hw w).regs g, fun w n _ => (hw w).masks n, fun w _ => (hw w).specials, fun d l _ => hm d l⟩

/-- A change of neither warps nor memory. -/
theorem Quiet.of_same (hw : t.warps = s.warps) (hd : t.dies = s.dies) (hh : t.hostMem = s.hostMem) (hc : t.cleared = s.cleared)
    (hl : t.lines = s.lines) : Quiet s t :=
  Quiet.of_alike (fun w => by simpa [State.warp, hw] using Warp.Alike.refl _) (readMem_congr hd hh hc hl)

theorem Quiet.setWarp (s : State) (w : Nat) {x : Warp} (h : x.Alike (s.warp w)) : Quiet s (s.setWarp w x) := by
  refine Quiet.of_alike (fun k => ?_) (readMem_congr rfl rfl rfl rfl)
  rw [State.warp_setWarp_eq]
  split
  · rename_i hk; rw [hk]; exact h
  · exact Warp.Alike.refl _

theorem Quiet.foldl {α : Type} (f : State → α → State) (h : ∀ s a, Quiet s (f s a)) (xs : List α) (s : State) : Quiet s (xs.foldl f s) := by
  induction xs generalizing s with
  | nil => exact Quiet.refl s
  | cons a xs ih => exact (h s a).trans (ih _)

end

theorem setVd_quiet (s : State) (v : Nat) (x : VD) : Quiet s (s.setVd v x) := Quiet.of_same rfl rfl rfl rfl rfl
theorem setGrid_quiet (s : State) (g : Nat) (x : Grid) : Quiet s (s.setGrid g x) := Quiet.of_same rfl rfl rfl rfl rfl
theorem setBlock_quiet (s : State) (g b : Nat) (x : Block) : Quiet s (s.setBlock g b x) := Quiet.of_same rfl rfl rfl rfl rfl
theorem setQueue_quiet (s : State) (w q : Nat) (u : Queue) : Quiet s (s.setWarp w ((s.warp w).setQueue q u)) :=
  Quiet.setWarp s w (setQueue_alike _ q u)
theorem report_quiet (s : State) (x : Report) : Quiet s { s with report := x } := Quiet.of_same rfl rfl rfl rfl rfl

/-! Records (R361, R372) and queue entries (R17). -/

theorem gfRecord_quiet (s : State) (v kind g w : Nat) (pc : DWord) (bs : List Byte) : Quiet s (gfRecord s v kind g w pc bs) := by
  unfold gfRecord
  dsimp only
  split
  · exact (setVd_quiet ..).trans (setGrid_quiet ..)
  · exact setVd_quiet ..

theorem vdEvent_quiet (s : State) (v gen kind : Nat) (bs : List Byte) : Quiet s (vdEvent s v gen kind bs) := by
  unfold vdEvent
  dsimp only
  split
  · exact setVd_quiet ..
  · split
    · exact setVd_quiet ..
    · split <;> exact setVd_quiet ..

theorem queueRecord_quiet (s : State) (w kind q : Nat) (e : QEntry) : Quiet s (queueRecord s w kind q e) := gfRecord_quiet ..

theorem deliverEntry_quiet (s : State) (w q kind : Nat) (e : QEntry) : Quiet s (deliverEntry s w q kind e) := by
  unfold deliverEntry
  dsimp only
  split
  · exact queueRecord_quiet ..
  · split <;> exact setQueue_quiet ..

/-- An event that has happened completes. -/
theorem completes_did {i : Instr} {s t : State} (h : exec i s = did t) : Completes i s { t with report := .done } := ⟨h, rfl⟩

end Sys2Proof.Machine
end

section
/-! SUPPORT. The distributor (R352 to R359): what dealing, starting, completing and passing a partition do. -/

namespace Sys2Proof.Machine

open Sys2Proof

/-! DEAL (R352, R354, R355). -/

theorem takeSlice_quiet (s : State) (v p : Nat) : Quiet s (takeSlice s v p) := by
  unfold takeSlice
  split
  · exact Quiet.refl s
  · exact Quiet.of_same rfl rfl rfl rfl rfl

theorem modPort_quiet (s : State) (v p : Nat) (f : LaunchPort → LaunchPort) : Quiet s (modPort s v p f) := setVd_quiet ..

/-- The port of a launch without the launch. -/
def leavePort (s : State) (g : Grid) : State :=
  match g.port with
  | some n => modPort s g.vd n (fun q => { q with fifo := q.fifo.filter (fun k => k != g.serial) })
  | none => s

theorem leavePort_quiet (s : State) (g : Grid) : Quiet s (leavePort s g) := by
  unfold leavePort
  split
  · exact modPort_quiet ..
  · exact Quiet.refl s

theorem leavePort_gone {s : State} {g : Grid} {k : Nat} {q : LaunchPort} (hk : g.port = some k)
    (hq : ((leavePort s g).vd g.vd).ports[k]? = some q) : g.serial ∉ q.fifo := by
  simp only [leavePort, hk, modPort, State.modVd_eq, State.vd_setVd, setPad_self, Option.some.injEq] at hq
  simp [← hq]

/-! The deal reads the harvest maps and the assignment of quadrants alone (R355). -/

theorem activeIn_congr {s t : State} (hd : t.dies = s.dies) (hq : t.package.qown = s.package.qown) : activeIn t = activeIn s := by
  funext p n die cl
  simp [activeIn, goodCore, quadsOf, quadPartition, State.die, hd, hq]

theorem dealAll_congr {s t : State} (hd : t.dies = s.dies) (hq : t.package.qown = s.package.qown) (p : Nat) (r : LaunchRec) :
    dealAll t p r = dealAll s p r := by
  simp only [dealAll, dealDie, activeIn_congr hd hq]

theorem takeSlice_dies (s : State) (v p : Nat) : (takeSlice s v p).dies = s.dies := by
  unfold takeSlice
  split <;> rfl

theorem takeSlice_qown (s : State) (v p : Nat) : (takeSlice s v p).package.qown = s.package.qown := by
  unfold takeSlice
  split <;> rfl

theorem leavePort_dies (s : State) (g : Grid) : (leavePort s g).dies = s.dies := by
  unfold leavePort
  split <;> rfl

theorem leavePort_package (s : State) (g : Grid) : (leavePort s g).package = s.package := by
  unfold leavePort
  split <;> rfl

/-- The state that DEAL leaves when it deals launch `g` to partition `p`. -/
def dealt (s : State) (g : Grid) (p : Nat) : State :=
  (leavePort (takeSlice s g.vd p) g).setGrid g.serial { g with dealt := true, shares := dealAll s p g.record }

theorem dealt_quiet (s : State) (g : Grid) (p : Nat) : Quiet s (dealt s g p) :=
  (takeSlice_quiet ..).trans ((leavePort_quiet ..).trans (setGrid_quiet ..))

/-- DEAL deals the first eligible launch. -/
theorem execDeal_eq {s : State} {g : Grid} {more : List Grid} {p : Nat} (hr : ranked s ((eligible s).filter (canDeal s)) = g :: more)
    (hp : partitionOf s g.vd g.record = some p) : execDeal s = did (dealt s g p) := by
  have hs : dealAll (leavePort (takeSlice s g.vd p) g) p g.record = dealAll s p g.record :=
    dealAll_congr ((leavePort_dies ..).trans (takeSlice_dies ..)) (by rw [leavePort_package, takeSlice_qown]) p g.record
  unfold dealt execDeal
  rw [hr]
  dsimp only
  rw [hp, ← hs]
  rfl

theorem deal_first (s : State) (g : Grid) (more : List Grid) (p : Nat) (hr : ranked s ((eligible s).filter (canDeal s)) = g :: more)
    (hp : partitionOf s g.vd g.record = some p) :
    ∃ t, Completes .deal s t ∧ Quiet s t ∧ t.grid g.serial = { g with dealt := true, shares := dealAll s p g.record } ∧
      ∀ k q, g.port = some k → (t.vd g.vd).ports[k]? = some q → g.serial ∉ q.fifo :=
  ⟨_, completes_did (execDeal_eq hr hp), (dealt_quiet ..).trans (report_quiet ..), State.grid_setGrid ..,
    fun _ _ hk hq => leavePort_gone hk hq⟩

/-! BLOCK_START (R127, R356, R20). -/

/-- A warp as a block start leaves it (R20). -/
structure Started (g : Grid) (x : Warp) : Prop where
  life : x.life = .resident
  grid : x.grid = g.serial
  vd : x.vd = g.vd
  clearance : x.clearance = g.record.clearance
  argLow : x.reg (.s 0) = (lo32 g.record.arg, false)
  argHigh : x.reg (.s 1) = (hi32 g.record.arg, false)
  operands : ∀ i j, x.reg (.o i j) = (0#32, false)
  subs : ∀ v, v ∈ x.subs → v.pc = g.record.code ∧ v.hold = .ready

/-- Warp `i` of a block starts on a quadrant, with the next warp serial and the next stamp. -/
def startWarp (g : Grid) (index i quad : Nat) (s : State) : State :=
  let w := s.package.warpSerial
  let x := Warp.start w g.serial index i g.vd quad g.record
  let t : State := { s with stamp := s.stamp + 1, package := { s.package with warpSerial := nextSerial w } }
  t.setWarp w { x with subs := x.subs.map (fun u => { u with stamp := s.stamp }) }

/-- The warps `is` of a block start in order: their serials after those of `acc`. -/
def startWarps (g : Grid) (index : Nat) (quad : Nat → Nat) (is : List Nat) (acc : List Nat × State) : List Nat × State :=
  is.foldl (fun acc i => (acc.1 ++ [acc.2.package.warpSerial], startWarp g index i (quad i) acc.2)) acc

theorem startWarp_started (g : Grid) (index i quad : Nat) (s : State) : Started g ((startWarp g index i quad s).warp s.package.warpSerial) := by
  unfold startWarp
  rw [State.warp_setWarp]
  refine ⟨rfl, rfl, rfl, rfl, rfl, rfl, fun i j => ?_, fun v hv => ?_⟩
  · simp [Warp.reg, Warp.start, Warp.none, laneReg, SMap.get, Reg.zero]
  · simp only [Warp.start, List.map_cons, List.map_nil, List.mem_singleton] at hv
    rw [hv]
    exact ⟨rfl, rfl⟩

/-- A start leaves the warps that started before it as they are, or starts them anew. -/
theorem startWarp_keeps {g : Grid} {s : State} {w : Nat} (index i quad : Nat) (h : Started g (s.warp w)) :
    Started g ((startWarp g index i quad s).warp w) := by
  by_cases hw : w = s.package.warpSerial
  · rw [hw]; exact startWarp_started ..
  · unfold startWarp
    rw [State.warp_setWarp_ne _ _ hw]
    exact h

/-- What the start of a block's warps leaves: a serial for each, each warp as R20 says, and grids, blocks and memory as they were. -/
structure WarpsStarted (g : Grid) (n : Nat) (acc r : List Nat × State) : Prop where
  length : r.1.length = acc.1.length + n
  started : (∀ w, w ∈ acc.1 → Started g (acc.2.warp w)) → ∀ w, w ∈ r.1 → Started g (r.2.warp w)
  keeps : ∀ w, Started g (acc.2.warp w) → Started g (r.2.warp w)
  grids : r.2.grids = acc.2.grids
  blocks : r.2.blocks = acc.2.blocks
  memory : ∀ d l, r.2.readMem d l = acc.2.readMem d l

theorem startWarps_started (g : Grid) (index : Nat) (quad : Nat → Nat) (is : List Nat) (acc : List Nat × State) :
    WarpsStarted g is.length acc (startWarps g index quad is acc) := by
  induction is generalizing acc with
  | nil => exact ⟨rfl, fun h => h, fun _ h => h, rfl, rfl, fun _ _ => rfl⟩
  | cons i is ih =>
    obtain ⟨hl, hs, hk, hg, hb, hm⟩ := ih (acc.1 ++ [acc.2.package.warpSerial], startWarp g index i (quad i) acc.2)
    refine ⟨?_, fun h => hs (fun w hw => ?_), fun w h => hk w (startWarp_keeps _ _ _ h), hg, hb, hm⟩
    · exact hl.trans (by simp; omega)
    · rcases List.mem_append.mp hw with hw | hw
      · exact startWarp_keeps _ _ _ (h w hw)
      · rw [List.mem_singleton.mp hw]; exact startWarp_started ..

/-- A block of a unit as its start leaves it: on its core, with a fresh scratchpad and its warps started. -/
structure BlockStarted (g : Grid) (s : State) (index rank core : Nat) : Prop where
  core : (s.block g.serial index).core = core
  rank : (s.block g.serial index).rank = rank
  warps : (s.block g.serial index).warps.length = g.record.warps
  spad : (s.block g.serial index).spad = Spad.fresh
  started : ∀ w, w ∈ (s.block g.serial index).warps → Started g (s.warp w)

/-- The warps of a block with the quadrants that R127 gives them, started from `s`. -/
def blockWarps (s : State) (g : Grid) (p index core : Nat) : List Nat × State :=
  startWarps g index (fun i => 4 * core + ((placement s p core g.record)[i]?).getD 0) (List.range g.record.warps) ([], s)

theorem startBlock_eq (s : State) (g : Grid) (p index rank core : Nat) :
    startBlock s g p index rank core = (blockWarps s g p index core).2.setBlock g.serial index { Block.none with
      grid := g.serial, index := index, core := core, rank := rank, warps := (blockWarps s g p index core).1
      comm := g.record.comm.bind (fun n => (blockWarps s g p index core).1[n]?) } := rfl

theorem blockWarps_started (s : State) (g : Grid) (p index core : Nat) : WarpsStarted g g.record.warps ([], s) (blockWarps s g p index core) := by
  have h := startWarps_started g index (fun i => 4 * core + ((placement s p core g.record)[i]?).getD 0) (List.range g.record.warps) ([], s)
  rwa [List.length_range] at h

theorem startBlock_started (s : State) (g : Grid) (p index rank core : Nat) :
    BlockStarted g (startBlock s g p index rank core) index rank core := by
  have h := blockWarps_started s g p index core
  rw [startBlock_eq]
  refine ⟨by simp, by simp, ?_, by simp [Block.none], fun w hw => ?_⟩
  · simpa using h.length
  · exact h.started (by simp) w (by simpa using hw)

/-- The start of another block leaves a started block as it is. -/
theorem startBlock_keeps {s : State} {g : Grid} {i rank core : Nat} (h : BlockStarted g s i rank core) (p index rank' core' : Nat) (hi : i ≠ index) :
    BlockStarted g (startBlock s g p index rank' core') i rank core := by
  have hs := blockWarps_started s g p index core'
  have hb : (startBlock s g p index rank' core').block g.serial i = s.block g.serial i := by
    rw [startBlock_eq, State.block_setBlock_ne _ _ (by simpa [blockKey] using hi)]
    simp [State.block, hs.blocks]
  obtain ⟨hcore, hrank, hlen, hspad, hwarps⟩ := h
  rw [← hb] at hcore hrank hlen hspad hwarps
  exact ⟨hcore, hrank, hlen, hspad, fun w hw => hs.keeps w (hwarps w hw)⟩

theorem startBlock_grids (s : State) (g : Grid) (p index rank core : Nat) : (startBlock s g p index rank core).grids = s.grids :=
  (blockWarps_started s g p index core).grids

theorem startBlock_memory (s : State) (g : Grid) (p index rank core d : Nat) (l : Loc) :
    (startBlock s g p index rank core).readMem d l = s.readMem d l :=
  (blockWarps_started s g p index core).memory d l

/-- The first `n` blocks of a unit start on the cores `cs` (R356). -/
def startUnit (g : Grid) (p first : Nat) (cs : List Nat) (n : Nat) (s : State) : State :=
  (List.range n).foldl (fun s k => startBlock s g p (first + k) k ((cs[k]?).getD 0)) s

theorem startUnit_succ (g : Grid) (p first : Nat) (cs : List Nat) (n : Nat) (s : State) :
    startUnit g p first cs (n + 1) s = startBlock (startUnit g p first cs n s) g p (first + n) n ((cs[n]?).getD 0) := by
  simp [startUnit, List.range_succ]

theorem startUnit_started (g : Grid) (p first : Nat) (cs : List Nat) (n : Nat) (s : State) {k : Nat} (hk : k < n) :
    BlockStarted g (startUnit g p first cs n s) (first + k) k ((cs[k]?).getD 0) := by
  induction n with
  | zero => exact absurd hk (Nat.not_lt_zero k)
  | succ n ih =>
    rw [startUnit_succ]
    rcases Nat.lt_succ_iff_lt_or_eq.mp hk with h | h
    · exact startBlock_keeps (ih h) p _ _ _ (by omega)
    · rw [h]; exact startBlock_started ..

theorem startUnit_grids (g : Grid) (p first : Nat) (cs : List Nat) (n : Nat) (s : State) : (startUnit g p first cs n s).grids = s.grids := by
  induction n with
  | zero => rfl
  | succ n ih => rw [startUnit_succ, startBlock_grids, ih]

theorem startUnit_memory (g : Grid) (p first : Nat) (cs : List Nat) (n : Nat) (s : State) (d : Nat) (l : Loc) :
    (startUnit g p first cs n s).readMem d l = s.readMem d l := by
  induction n with
  | zero => rfl
  | succ n ih => rw [startUnit_succ, startBlock_memory, ih]

/-- A grid without a unit of its shares. -/
def takeUnit (s : State) (g : Grid) (u : Share) : State := s.modGrid g.serial (fun x => { x with shares := x.shares.filter (fun y => y != u) })

/-- BLOCK_START starts a unit of the first grid that the core can hold. -/
theorem execBlockStart_eq {s : State} {core p : Nat} {g : Grid} {u : Share} {cs : List Nat} {more : List (Grid × Nat × Share × List Nat)}
    (h : starts s core = (g, p, u, cs) :: more) :
    execBlockStart core s = did (startUnit g p (u.unit * g.record.perCluster) cs cs.length (takeUnit s g u)) := by
  unfold execBlockStart
  rw [h]
  rfl

theorem block_start_first (s : State) (core : Nat) (g : Grid) (p : Nat) (u : Share) (cs : List Nat) (more : List (Grid × Nat × Share × List Nat))
    (h : starts s core = (g, p, u, cs) :: more) :
    ∃ t, Completes (.block_start core) s t ∧ (∀ d l, t.readMem d l = s.readMem d l) ∧ u ∉ (t.grid g.serial).shares ∧
      ∀ k n, cs[k]? = some n → BlockStarted g t (u.unit * g.record.perCluster + k) k n := by
  refine ⟨_, completes_did (execBlockStart_eq h), fun d l => ?_, ?_, fun k n hk => ?_⟩
  · exact startUnit_memory g p _ cs _ (takeUnit s g u) d l
  · change u ∉ (((startUnit g p _ cs cs.length (takeUnit s g u)).grids.get? g.serial).getD Grid.none).shares
    rw [startUnit_grids]
    change u ∉ ((takeUnit s g u).grid g.serial).shares
    simp [takeUnit]
  · obtain ⟨hn, he⟩ := List.getElem?_eq_some_iff.mp hk
    have hb := startUnit_started g p (u.unit * g.record.perCluster) cs cs.length (takeUnit s g u) hn
    rw [hk] at hb
    exact ⟨hb.core, hb.rank, hb.warps, hb.spad, hb.started⟩

/-! STEAL (R356). -/

theorem steal_first (s : State) (die cl : Nat) (g : Grid) (us : List Share) (more : List (Grid × List Share)) (h : steals s die cl = (g, us) :: more) :
    ∃ t, Completes (.steal die cl) s t ∧ Quiet s t ∧ (t.grid g.serial).shares = us := by
  have he : exec (.steal die cl) s = did (s.modGrid g.serial (fun x => { x with shares := us })) := by
    change execSteal die cl s = _
    unfold execSteal
    rw [h]
  refine ⟨_, completes_did he, (setGrid_quiet ..).trans (report_quiet ..), ?_⟩
  exact congrArg Grid.shares (State.grid_setGrid ..)

/-! GRID_COMPLETE (R336, R359). -/

theorem breakPromise_quiet (s : State) (g : Nat) (h : Holding) : Quiet s (breakPromise s g h) := by
  unfold breakPromise
  split
  · exact Quiet.refl s
  · exact setBlock_quiet ..

theorem endProbate_quiet (s : State) (g : Nat) : Quiet s (endProbate s g) := by
  unfold endProbate
  refine Quiet.foldl _ (fun s p => ?_) _ s
  split
  · exact (breakPromise_quiet ..).trans (gfRecord_quiet ..)
  · exact Quiet.refl s

/-- A fault record changes at most the fault count of a grid. -/
theorem gfRecord_grid (s : State) (v kind g w : Nat) (pc : DWord) (bs : List Byte) (k : Nat) :
    { (gfRecord s v kind g w pc bs).grid k with faults := 0 } = { s.grid k with faults := 0 } := by
  unfold gfRecord
  dsimp only
  split
  · by_cases hk : k = g
    · simp [hk]
    · simp [hk]
  · simp

theorem deliverEntry_grid (s : State) (w q kind : Nat) (e : QEntry) (k : Nat) :
    { (deliverEntry s w q kind e).grid k with faults := 0 } = { s.grid k with faults := 0 } := by
  unfold deliverEntry
  dsimp only
  split
  · exact gfRecord_grid ..
  · split <;> rfl

theorem vdEvent_grids (s : State) (v gen kind : Nat) (bs : List Byte) : (vdEvent s v gen kind bs).grids = s.grids := by
  unfold vdEvent
  dsimp only
  split
  · rfl
  · split
    · rfl
    · split <;> rfl

/-- A grid is complete, its probate over. -/
def completed (s : State) (g : Nat) : State := (endProbate s g).modGrid g (fun y => { y with complete := true, probate := [] })

theorem completed_quiet (s : State) (g : Nat) : Quiet s (completed s g) := (endProbate_quiet ..).trans (setGrid_quiet ..)

/-- The completion of a grid is reported to its parent's queue or to the host. -/
def reportGrid (s : State) (g : Nat) : State :=
  let x := s.grid g
  match x.parent with
  | some p => match p.queue with
    | some (w, q) => deliverEntry s w q 5 ⟨x.record.tag ++ 0#16 ++ BitVec.ofNat 32 g, p.lbl, 0, 0⟩
    | none => s
  | none => vdEvent s x.vd x.gen 2 (le 4 g ++ le 2 x.record.tag.toNat ++ le 1 (if x.killed then 1 else 0) ++ le 1 x.faults)

theorem reportGrid_quiet (s : State) (g : Nat) : Quiet s (reportGrid s g) := by
  unfold reportGrid
  dsimp only
  split
  · split
    · exact deliverEntry_quiet ..
    · exact Quiet.refl s
  · exact vdEvent_quiet ..

theorem reportGrid_grid (s : State) (g k : Nat) : { (reportGrid s g).grid k with faults := 0 } = { s.grid k with faults := 0 } := by
  unfold reportGrid
  dsimp only
  split
  · split
    · exact deliverEntry_grid ..
    · rfl
  · simp [State.grid, vdEvent_grids]

theorem execGridComplete_eq {s : State} {g : Nat} {x : Grid} (hg : s.grids.get? g = some x) (hf : finished s x = true) :
    execGridComplete g s = did (reportGrid (completed s g) g) := by
  unfold execGridComplete reportGrid completed
  rw [hg]
  simp only [hf, Bool.not_true, Bool.false_eq_true, if_false]
  generalize (endProbate s g).modGrid g _ = t
  cases (t.grid g).parent with
  | none => rfl
  | some p =>
    obtain ⟨_, _, queue, _⟩ := p
    cases queue <;> rfl

theorem grid_complete_finished (s : State) (g : Nat) (x : Grid) (hg : s.grids.get? g = some x) (hf : finished s x = true) :
    ∃ t, Completes (.grid_complete g) s t ∧ Quiet s t ∧ (t.grid g).complete = true ∧ (t.grid g).probate = [] := by
  have hk := reportGrid_grid (completed s g) g g
  refine ⟨_, completes_did (execGridComplete_eq hg hf), (completed_quiet ..).trans ((reportGrid_quiet ..).trans (report_quiet ..)), ?_, ?_⟩
  · exact (congrArg Grid.complete hk).trans (by simp [completed])
  · exact (congrArg Grid.probate hk).trans (by simp [completed])

/-! VIRTUAL_TIME_CHARGE (R353). -/

theorem virtual_time_charged (s : State) (v n : Nat) (h : (s.vd v).state ≠ 0) :
    ∃ t, Completes (.virtual_time_charge [(v, n)]) s t ∧ Quiet s t ∧
      (t.vd v).vtime = (s.vd v).vtime + BitVec.ofNat 64 ((n * 2 ^ 16 + (s.vd v).carry) / (s.vd v).weight) ∧
      (t.vd v).carry = (n * 2 ^ 16 + (s.vd v).carry) % (s.vd v).weight := by
  have he : exec (.virtual_time_charge [(v, n)]) s = did (s.setVd v { s.vd v with
      vtime := (s.vd v).vtime + BitVec.ofNat 64 ((n * 2 ^ 16 + (s.vd v).carry) / (s.vd v).weight)
      carry := (n * 2 ^ 16 + (s.vd v).carry) % (s.vd v).weight }) := by
    change execVirtualTimeCharge [(v, n)] s = _
    simp [execVirtualTimeCharge, h]
  refine ⟨_, completes_did he, (setVd_quiet ..).trans (report_quiet ..), ?_, ?_⟩
  · exact congrArg VD.vtime (State.vd_setVd ..)
  · exact congrArg VD.carry (State.vd_setVd ..)

/-! SLICE_END (R354, R371). -/

/-- A map of the values of a sparse map, key by key. -/
theorem SMap.get?_map {α β : Type} (f : Nat → α → β) (m : SMap α) (k : Nat) :
    SMap.get? (m.map (fun e => (e.1, f e.1 e.2))) k = (m.get? k).map (f k) := by
  induction m with
  | nil => rfl
  | cons e m ih =>
    obtain ⟨j, x⟩ := e
    simp only [List.map_cons, SMap.get?]
    split
    · rename_i h; rw [h]; rfl
    · exact ih

theorem requestAll_quiet (s : State) (kind : Nat) (pick : Nat → Warp → Bool) : Quiet s (requestAll s kind pick) := by
  refine Quiet.of_alike (fun w => ?_) (readMem_congr rfl rfl rfl rfl)
  have h := SMap.get?_map (fun k (x : Warp) => if x.life.onQuad && pick k x then { x with evict := kind } else x) s.warps w
  change ((SMap.get? (s.warps.map _) w).getD Warp.none).Alike ((s.warps.get? w).getD Warp.none)
  rw [h]
  cases s.warps.get? w with
  | none => exact Warp.Alike.refl _
  | some x =>
    dsimp only [Option.map_some, Option.getD_some]
    split
    · exact ⟨fun g => by cases g <;> rfl, fun _ => rfl, rfl⟩
    · exact Warp.Alike.refl x

/-- Every warp that was picked on a quadrant is asked to leave it. -/
theorem requestAll_asked {s : State} {kind : Nat} {pick : Nat → Warp → Bool} {e : Nat × Warp} (h : e ∈ (requestAll s kind pick).warps)
    (hl : e.2.life.onQuad = true) (he : pick e.1 e.2 = true) : e.2.evict = kind := by
  obtain ⟨e0, _, rfl⟩ := List.mem_map.mp h
  dsimp only at hl he ⊢
  split
  · rfl
  · rename_i hn
    rw [if_neg hn] at hl he
    exact absurd (by rw [hl, he]; rfl) hn

theorem savesFit_uncommitted {s : State} {q : Nat} (v : Nat)
    (h : ∀ e, e ∈ s.warps → inPartition s q e.2 = true → e.2.uncommitted = true ∧ e.2.handler = false) : savesFit s q v = (true, s) := by
  unfold savesFit
  rw [if_pos]
  rw [List.all_eq_true]
  intro e he
  obtain ⟨hm, hp⟩ := List.mem_filter.mp he
  obtain ⟨hu, hh⟩ := h e hm hp
  simp [hu, hh]

/-- VD `v` waits where it ran and holds no partition any more; VD `u` runs where it waited (R364). -/
def swapVds (s : State) (v u : Nat) (holder : SMap Nat) : State :=
  (s.modVd v (fun d => if d.state = 1 ∧ !(holder.any (fun e => e.2 == v)) then { d with state := 2 } else d)).modVd u
    (fun d => if d.state = 2 then { d with state := 1 } else d)

/-- A warp's quadrant belongs to partition `q`. -/
def onPartition (s : State) (q : Nat) (_ : Nat) (x : Warp) : Bool := quadPartition s x.quad == some q

/-- Partition `q` passes from VD `v` to VD `u`, every warp on it being asked to leave. -/
def passSlice (s : State) (q v u : Nat) : State :=
  let r := requestAll s 2 (onPartition s q)
  let holder := s.package.holder.put q u
  swapVds { r with package := { r.package with holder := holder } } v u holder

theorem passSlice_quiet (s : State) (q v u : Nat) : Quiet s (passSlice s q v u) :=
  (requestAll_quiet s 2 (onPartition s q)).trans (Quiet.of_same rfl rfl rfl rfl rfl)

/-- The launches of other VDs that wait for partition `q` and are not below what VD `v` runs or has waiting there, best first (R354). -/
def successors (s : State) (q v : Nat) : List Grid :=
  let run := (s.warps.filter (fun e => inPartition s q e.2)).map (fun e => (s.record e.1).priority)
  let mine := ((waitingOn s q).filter (fun g => g.vd == v)).map (fun g => g.record.priority)
  ranked s ((waitingOn s q).filter (fun g => g.vd != v && decide ((run ++ mine).foldl max 0 ≤ g.record.priority)))

theorem execSliceEnd_renews {s : State} {q v : Nat} (hv : s.package.holder.get? q = some v) (hn : successors s q v = []) :
    execSliceEnd q s = did s := by
  unfold successors at hn
  unfold execSliceEnd
  simp only [hv, hn]

theorem execSliceEnd_passes {s : State} {q v : Nat} {g : Grid} {more : List Grid} (hv : s.package.holder.get? q = some v)
    (hn : successors s q v = g :: more) (hf : savesFit s q v = (true, s)) : execSliceEnd q s = did (passSlice s q v g.vd) := by
  unfold successors at hn
  unfold execSliceEnd
  simp only [hv, hn, hf]
  rfl

theorem slice_end_passes (s : State) (q v : Nat) (hv : s.package.holder.get? q = some v)
    (h : ∀ e, e ∈ s.warps → inPartition s q e.2 = true → e.2.uncommitted = true ∧ e.2.handler = false) :
    ∃ t, Completes (.slice_end q) s t ∧ Quiet s t ∧ (successors s q v = [] → t.package.holder = s.package.holder) ∧
      ∀ g more, successors s q v = g :: more →
        t.package.holder.get? q = some g.vd ∧ ∀ e, e ∈ t.warps → inPartition s q e.2 = true → e.2.evict = 2 := by
  cases hn : successors s q v with
  | nil =>
    exact ⟨_, completes_did (execSliceEnd_renews hv hn), report_quiet .., fun _ => rfl, fun _ _ hc => absurd hc.symm (List.cons_ne_nil _ _)⟩
  | cons g more =>
    refine ⟨_, completes_did (execSliceEnd_passes hv hn (savesFit_uncommitted v h)), (passSlice_quiet ..).trans (report_quiet ..),
      fun hc => absurd hc (List.cons_ne_nil _ _), fun g' more' hg => ?_⟩
    obtain ⟨rfl, rfl⟩ := List.cons.inj hg
    refine ⟨SMap.get?_put_self .., fun e he hp => ?_⟩
    obtain ⟨hl, hq⟩ := Bool.and_eq_true_iff.mp hp
    exact requestAll_asked (s := s) (pick := onPartition s q) he hl hq

/-- Settles O43: each event's state after it is written out (`dealt`, `startUnit`, `completed`, `passSlice`), shown quiet part by part, and the
blocks of a unit by induction on how many have started. -/
theorem scheduling : Obligations.Scheduling := by
  refine ⟨deal_first, fun s core g p u cs more h => ?_, steal_first, grid_complete_finished, virtual_time_charged, slice_end_passes⟩
  obtain ⟨t, hc, hm, hu, hb⟩ := block_start_first s core g p u cs more h
  refine ⟨t, hc, hm, hu, fun k n hk => ?_⟩
  obtain ⟨hcore, hrank, hlen, hspad, hs⟩ := hb k n hk
  refine ⟨hcore, hrank, hlen, hspad, fun w hw => ?_⟩
  have h := hs w hw
  exact ⟨h.life, h.grid, h.vd, h.clearance, h.argLow, h.argHigh, h.operands, h.subs⟩

end Sys2Proof.Machine
end

section
/-! SUPPORT. Instructions without PFX words (R94): what a body that goes on leaves, and where the sub-warp then stands (R84, R140). -/

namespace Sys2Proof.Machine

open Sys2Proof

/-! The sub-warp goes on. -/

theorem Warp.sub_id {x : Warp} {i : SubId} {u : SubWarp} (h : x.sub i = some u) : u.id = i := by
  simpa using List.find?_some h

theorem Warp.sub_setSub {x : Warp} {u v : SubWarp} (h : x.sub u.id = some v) : (x.setSub u).sub u.id = some u := by
  have hp : ((fun z : SubWarp => z.id == u.id) ∘ fun z => if z.id == u.id then u else z) = fun z => z.id == u.id := by
    funext z
    by_cases hz : z.id = u.id <;> simp [hz]
  have hv : v.id = u.id := Warp.sub_id h
  unfold Warp.sub at h
  simp only [Warp.sub, Warp.setSub, List.find?_map, hp, h, Option.map_some, hv, beq_self_eq_true, if_true]

theorem arriveOne_root (s : State) (w : Nat) : arriveOne s w none = s := by
  unfold arriveOne
  rfl

/-- Where no sub-warp waits in SYNCW none is woken (R172). -/
theorem wakeSyncs_idle {s : State} {w : Nat} (h : NoSync s w) (n : Nat) : wakeSyncs s w n = s := by
  cases n with
  | zero => rfl
  | succ n =>
    have ho : ∀ e z, syncOver (s.warp w) e z = [] := by
      intro e z
      unfold syncOver
      rw [List.filterMap_eq_nil_iff]
      intro side _
      split
      · rename_i u hu
        rw [if_neg (fun hc => h u (List.mem_of_find?_eq_some hu) hc.1)]
      · rfl
    have hf : ((s.warp w).splits.map (fun z => syncOver (s.warp w) z.1 z.2)).flatten = [] := by simp [ho]
    unfold wakeSyncs
    rw [hf]

theorem makeReady_noSync {s : State} {w : Nat} (h : NoSync s w) (u : SubWarp) : NoSync (makeReady s w u) w := by
  intro v hv
  simp only [makeReady, freshStamp, State.modWarp_eq, State.warp_setWarp, Warp.setSub, List.mem_map] at hv
  obtain ⟨z, hz, rfl⟩ := hv
  split
  · simp
  · exact h z hz

theorem makeReady_sub {s : State} {w : Nat} {u v : SubWarp} (h : (s.warp w).sub u.id = some v) :
    ((makeReady s w u).warp w).sub u.id = some { u with stamp := s.stamp, hold := .ready } := by
  have he : (makeReady s w u).warp w = (s.warp w).setSub { u with stamp := s.stamp, hold := .ready } := State.warp_setWarp ..
  rw [he]
  exact Warp.sub_setSub (u := { u with stamp := s.stamp, hold := .ready }) h

/-- The root sub-warp of a warp without waiters in SYNCW stands at the successor after its group. -/
theorem advance_root {s : State} {u v : SubWarp} (hv : (s.warp s.cur.warp).sub u.id = some v) (hi : u.id = none) (hp : s.cur.pair = 0)
    (hn : NoSync s s.cur.warp) : Stands (advance s u .next) s.cur.warp none v.mask s.cur.next := by
  have hid : v.id = none := (Warp.sub_id hv).trans hi
  have hr : advance s u .next = makeReady s s.cur.warp { v with pc := s.cur.next, matched := false } := by
    unfold advance
    dsimp only
    rw [hv]
    dsimp only
    rw [if_neg (by simp [hp]), hi]
    unfold arriveCheck
    rw [arriveOne_root, wakeSyncs_idle (makeReady_noSync hn _)]
  have hs := makeReady_sub (s := s) (w := s.cur.warp) (u := { v with pc := s.cur.next, matched := false }) (v := v)
    (by rw [← hv]; exact congrArg _ (hid.trans hi.symm))
  rw [hr]
  exact ⟨_, (congrArg (Warp.sub _) hid.symm).trans hs, rfl, rfl, rfl⟩

/-- A group whose body leaves the sub-warps alone goes on at its successor. -/
theorem complete_goesOn {p : Pfx} {s t : State} {u : SubWarp} (hu : s.issuer = some u) (hc : t.cur = s.cur)
    (hs : (t.warp s.cur.warp).subs = (s.warp s.cur.warp).subs) : GoesOn (mkCtx s u p) s (complete p t u .next) := by
  intro hp hi hn
  have hcc : (t.counted p).cur = s.cur := by
    unfold State.counted
    split <;> exact hc
  have hcs : ((t.counted p).warp s.cur.warp).subs = (s.warp s.cur.warp).subs := by
    unfold State.counted
    split
    · simpa [hc] using hs
    · exact hs
  have hv : ((t.counted p).warp (t.counted p).cur.warp).sub u.id = some u := by
    have h : (s.warp s.cur.warp).sub s.cur.sub = some u := hu
    rw [hcc, Warp.sub, hcs, Warp.sub_id h]
    exact h
  have hst := advance_root hv hi (by rw [hcc]; exact hp) (by rw [hcc]; intro v hv; rw [hcs] at hv; exact hn v hv)
  rw [hcc] at hst
  obtain ⟨z, hz, hm, hpc, hh⟩ := hst
  refine ⟨z, ?_, hm, hpc, hh⟩
  change ((if (t.counted p).cur.pair = 1 then t.counted p else advance (t.counted p) u .next).warp s.cur.warp).sub none = some z
  rw [if_neg (by rw [hcc]; have h0 : s.cur.pair = 0 := hp; omega)]
  exact hz

/-! Operations that neither read nor write quadrants. -/

/-- An operation that neither reads nor writes quadrants. -/
structure QuadBlind (f : State → State) : Prop where
  comm : ∀ s q x, f (s.setQuad q x) = (f s).setQuad q x
  quads : ∀ s, (f s).quads = s.quads

theorem QuadBlind.id : QuadBlind (fun s => s) := ⟨fun _ _ _ => rfl, fun _ => rfl⟩

theorem QuadBlind.comp {f g : State → State} (hf : QuadBlind f) (hg : QuadBlind g) : QuadBlind (fun s => f (g s)) :=
  ⟨fun s q x => by rw [hg.comm, hf.comm], fun s => by rw [hf.quads, hg.quads]⟩

theorem QuadBlind.foldl {α : Type} {f : State → α → State} (h : ∀ a, QuadBlind (fun s => f s a)) (xs : List α) :
    QuadBlind (fun s => xs.foldl f s) := by
  induction xs with
  | nil => exact QuadBlind.id
  | cons a xs ih => exact ih.comp (h a)

/-- Such an operation does the same after the latches are taken. -/
theorem QuadBlind.latches {f : State → State} (h : QuadBlind f) (w : Nat) (P : RegName → Prop) (K : Marks) (s : State) (u : SubWarp) :
    Kept w P K (f s) (f (takeLatches s u)) := by
  unfold takeLatches
  dsimp only
  split
  · exact Kept.refl ..
  · rw [State.modQuad_eq, h.comm]
    exact Kept.ofQuad _ _ _ _ _ _ (by simp [State.quad, h.quads, Quad.rest])

/-! Instructions that accept no PFX words. -/

theorem acc0_none {p : Pfx} (h : WF.acc0.ok p = true) : p.rs = none ∧ p.k = none := by
  simp only [WF.Acc.ok, WF.acc0, Bool.false_or, Bool.and_eq_true, Option.isNone_iff_eq_none] at h
  exact ⟨h.1.1, h.1.2⟩

/-- Without PFX.RS and PFX.K nothing is checked before the instruction. -/
theorem checkPfx_none {p : Pfx} (h : WF.acc0.ok p = true) (s t : State) (u : SubWarp) : checkPfx (mkCtx s u p) p t = .ok ((), t) := by
  obtain ⟨hr, hk⟩ := acc0_none h
  have hl : (mkCtx s u p).kl = [] := by simp [mkCtx, predicate, hk]
  unfold checkPfx checkPredicate checkKey
  rw [hl, hr]
  rfl

theorem counted_none {p : Pfx} (h : WF.acc0.ok p = true) (s : State) : s.counted p = s := by
  simp [State.counted, (acc0_none h).1]

/-- An instruction without PFX words whose body goes on: its effect is kept to the end, and the sub-warp goes on. -/
theorem doesIf_next {i : Instr} {p : Pfx} {body : Ctx → M Done} {C : State → Ctx → Prop} {E : Ctx → State → State} {P : State → Ctx → RegName → Prop}
    {K : State → Ctx → Marks} {R : Ctx → State → State → Prop} (hp : WF.acc0.ok p = true) (hi : ∀ s, exec i s = issue p true s body)
    (hE : ∀ c s, (E c s).cur = s.cur)
    (hb : ∀ s u c, C s c → ∃ t, body c (takeLatches s u) = .ok (.next, t) ∧ Kept c.w (P s c) (K s c) (E c s) t ∧
      (t.warp c.w).subs = (s.warp c.w).subs ∧ ∀ r, Kept c.w noReg noMask t r → R c s r) :
    DoesIf i p C E P K (fun c s t => GoesOn c s t ∧ R c s t) := by
  intro s u hu hC
  obtain ⟨t, ht, hk, hs, hR⟩ := hb s u (mkCtx s u p) hC
  have hc : t.cur = s.cur := (State.rest_eq_cur hk.state).trans (hE ..)
  have hcomp := complete_kept p t u .next (w := s.cur.warp) (by rw [hc])
  rw [counted_none hp] at hcomp
  refine ⟨complete p t u .next, ⟨(hi s).trans (issue_ok hu.sub (checkPfx_none hp ..) ht), rfl⟩, ?_, complete_goesOn hu.sub hc hs, hR _ hcomp⟩
  rw [counted_none hp]
  exact hk.trans (hcomp.mono (fun _ h => h.elim) (fun _ h => h.elim))

end Sys2Proof.Machine
end

section
/-! SUPPORT. Queue registers (R14 to R18, R206): binding, popping into a uniform pair, unbinding, and what each leaves as it was. -/

namespace Sys2Proof.Machine

open Sys2Proof

theorem queue_setQueue (x : Warp) (q : Nat) (u : Queue) : (x.setQueue q u).queue q = u := by
  simp [Warp.queue, Warp.setQueue]

theorem Warp.rest_eq_queue {x y : Warp} (h : x.rest = y.rest) (q : Nat) : x.queue q = y.queue q := by
  have hq : x.queues = y.queues := by simpa [Warp.rest] using congrArg Warp.queues h
  simp [Warp.queue, hq]

theorem Kept.queue {w : Nat} {P : RegName → Prop} {K : Marks} {s t : State} (h : Kept w P K s t) (q : Nat) :
    (t.warp w).queue q = (s.warp w).queue q := Warp.rest_eq_queue h.warp q

/-- The same change of the issuing warp, one that touches no register, keeps what is kept. -/
theorem Kept.modWarp {w : Nat} {P : RegName → Prop} {K : Marks} {s t : State} (h : Kept w P K s t) {f : Warp → Warp}
    (hr : ∀ x, (f x).rest = f x.rest) (hg : ∀ x g, (f x).reg g = x.reg g) (hm : ∀ x n, (f x).mask n = x.mask n) (hf : ∀ x, (f x).flags = x.flags) :
    Kept w P K (s.modWarp w f) (t.modWarp w f) := by
  refine ⟨?_, by simpa using h.vds, by simpa using h.quads, by simpa using h.cores, fun x hx => ?_, ?_, fun g hg' => ?_, fun n hn => ?_, ?_⟩
  · simpa [State.rest, State.setWarp] using h.state
  · simpa [hx] using h.others x hx
  · simp [hr, h.warp]
  · simpa [hg] using h.regs g hg'
  · simpa [hm] using h.masks n hn
  · simpa [hf] using h.flags

/-! Sub-warps stay where they are (R84: the body leaves the advance to the issue). -/

theorem join_subs (s : State) (w : Nat) (a b : Label) (x : Nat) : ((s.join w a b).2.warp x).subs = (s.warp x).subs :=
  (join_near s w a b).1.field Warp.subs (fun _ => rfl) x

theorem setMask_subs (s : State) (w n : Nat) (bits : Word) (ls : SMap Label) : ((setMask s w n bits ls).warp w).subs = (s.warp w).subs := by
  simp only [setMask, State.modWarp_eq, State.warp_setWarp]
  exact (joinList_near ..).1.field Warp.subs (fun _ => rfl) w

theorem putLanes_subs (x : Warp) (d : Dst) (n : Nat) (m : LaneMask) (val : Nat → List Word) (lbl : Nat → Label) :
    (putLanes x d n m val lbl).subs = x.subs := by
  unfold putLanes
  refine List.foldlRecOn (motive := fun y : Warp => y.subs = x.subs) _ _ rfl (fun y hy i _ => ?_)
  refine List.foldlRecOn (motive := fun y : Warp => y.subs = x.subs) _ _ hy (fun z hz j _ => ?_)
  cases d <;> exact hz

theorem noteWrite_subs (s : State) (c : Ctx) (d : Dst) (n : Nat) : ((noteWrite s c d n).warp c.w).subs = (s.warp c.w).subs := by
  unfold noteWrite
  split
  · rfl
  · rw [State.modWarp_eq, State.warp_setWarp]
    dsimp only
    split <;> rfl

theorem writeUni_subs {c : Ctx} {w : W0} {d : Dst} {vals : List Word} {l : Label} {s t : State} (h : writeUni c w d vals l s = .ok ((), t)) :
    (t.warp c.w).subs = (s.warp c.w).subs := by
  have ht : writeUni c w d vals l s = .ok ((), capture c w.latch.toNat (laneRegs (BitVec.allOnes 32) (fun _ => vals) (fun _ => l) [])
      (if w.wbs then s else putUniform c d vals l s)) := rfl
  rw [← (Prod.mk.inj (Except.ok.inj (ht.symm.trans h))).2]
  change ((if w.wbs then s else putUniform c d vals l s).warp c.w).subs = _
  split
  · rfl
  · unfold putUniform
    rw [State.modWarp_eq, State.warp_setWarp, putLanes_subs, noteWrite_subs]

/-! Operations of queues and estates know no quadrant. -/

theorem commit_blind (w : Nat) : QuadBlind (fun s => commit s w) := ⟨fun _ _ _ => rfl, fun _ => rfl⟩
theorem bindQueue_blind (w q k : Nat) : QuadBlind (bindQueue w q k) := ⟨fun _ _ _ => rfl, fun _ => rfl⟩
theorem discharge_blind (w kind ref q : Nat) : QuadBlind (fun s => discharge s w kind ref q) := ⟨fun _ _ _ => rfl, fun _ => rfl⟩

theorem gfRecord_blind (v kind g w : Nat) (pc : DWord) (bs : List Byte) : QuadBlind (fun s => gfRecord s v kind g w pc bs) := by
  refine ⟨fun s q x => ?_, fun s => ?_⟩
  · by_cases h : (s.vd v).gf.length < 256 <;> simp only [gfRecord, State.setQuad_get_vd, h, if_true, if_false] <;> rfl
  · unfold gfRecord
    dsimp only
    split <;> rfl

theorem queueRecord_blind (w kind q : Nat) (e : QEntry) : QuadBlind (fun s => queueRecord s w kind q e) :=
  ⟨fun s k x => (gfRecord_blind (s.warp w).vd 3 (s.warp w).grid w 0#64 _).comm s k x,
    fun s => (gfRecord_blind (s.warp w).vd 3 (s.warp w).grid w 0#64 _).quads s⟩

theorem modMailbox_blind (d m : Nat) (f : Mailbox → Mailbox) : QuadBlind (fun s => s.modMailbox d m f) := by
  refine ⟨fun s q x => ?_, fun s => ?_⟩
  · unfold State.modMailbox State.modDie State.setDie
    by_cases hd : d < 9
    · rw [if_pos hd, if_pos hd]
      rfl
    · rw [if_neg hd, if_neg hd]
  · by_cases hd : d < 9 <;> simp only [State.modMailbox, State.modDie, State.setDie, hd, if_true, if_false]

/-! Unbinding (R18, R206). -/

/-- What becomes of the entries and the mailbox of a queue that is unbound from kind `k`. -/
def releaseQueue (w q k : Nat) (u : Queue) (s : State) : State :=
  let s := (u.entries ++ u.back).foldl (fun s e => queueRecord s w k q e) s
  if k = 2 then s.modMailbox (u.mailbox / 512) (u.mailbox % 512) (fun b => { b with bound := false }) else s

theorem unbindQueue_eq {s : State} {w q k : Nat} (h : ((s.warp w).queue q).kind = some k) :
    unbindQueue s w q = (releaseQueue w q k ((s.warp w).queue q) s).modWarp w (fun x => x.setQueue q Queue.free) := by
  unfold unbindQueue
  simp only [h]
  rfl

theorem releaseQueue_blind (w q k : Nat) (u : Queue) : QuadBlind (releaseQueue w q k u) := by
  have hf : QuadBlind (fun s => (u.entries ++ u.back).foldl (fun s e => queueRecord s w k q e) s) :=
    QuadBlind.foldl (f := fun s e => queueRecord s w k q e) (fun e => queueRecord_blind w k q e) _
  by_cases hk : k = 2
  · have he : releaseQueue w q k u = fun s => ((u.entries ++ u.back).foldl (fun s e => queueRecord s w k q e) s).modMailbox
        (u.mailbox / 512) (u.mailbox % 512) (fun b => { b with bound := false }) := by
      funext s
      simp [releaseQueue, hk]
    rw [he]
    exact (modMailbox_blind ..).comp hf
  · have he : releaseQueue w q k u = fun s => (u.entries ++ u.back).foldl (fun s e => queueRecord s w k q e) s := by
      funext s
      simp [releaseQueue, hk]
    rw [he]
    exact hf

theorem unbindQueue_blind (w q : Nat) : QuadBlind (fun s => unbindQueue s w q) := by
  refine ⟨fun s n x => ?_, fun s => ?_⟩
  · cases hk : ((s.warp w).queue q).kind with
    | none => simp only [unbindQueue, State.setQuad_get_warp, hk]
    | some k =>
      rw [unbindQueue_eq (s := s.setQuad n x) (k := k) hk, unbindQueue_eq hk, State.setQuad_get_warp, (releaseQueue_blind ..).comm]
      rfl
  · cases hk : ((s.warp w).queue q).kind with
    | none => simp only [unbindQueue, hk]
    | some k => rw [unbindQueue_eq hk]; exact (releaseQueue_blind w q k _).quads s

theorem gfRecord_warps (s : State) (v kind g w : Nat) (pc : DWord) (bs : List Byte) : (gfRecord s v kind g w pc bs).warps = s.warps := by
  unfold gfRecord
  dsimp only
  split <;> rfl

theorem gfRecord_cur (s : State) (v kind g w : Nat) (pc : DWord) (bs : List Byte) : (gfRecord s v kind g w pc bs).cur = s.cur := by
  unfold gfRecord
  dsimp only
  split <;> rfl

theorem releaseQueue_same (w q k : Nat) (u : Queue) (s : State) :
    (releaseQueue w q k u s).warps = s.warps ∧ (releaseQueue w q k u s).cur = s.cur := by
  have hf : ∀ xs : List QEntry, (xs.foldl (fun s e => queueRecord s w k q e) s).warps = s.warps ∧
      (xs.foldl (fun s e => queueRecord s w k q e) s).cur = s.cur := fun xs =>
    List.foldlRecOn (motive := fun t : State => t.warps = s.warps ∧ t.cur = s.cur) xs _ ⟨rfl, rfl⟩
      (fun t ht e _ => ⟨(gfRecord_warps ..).trans ht.1, (gfRecord_cur ..).trans ht.2⟩)
  have hm : ∀ (t : State) d m f, (t.modMailbox d m f).warps = t.warps ∧ (t.modMailbox d m f).cur = t.cur := by
    intro t d m f
    by_cases hd : d < 9 <;> simp [State.modMailbox, State.modDie, State.setDie, hd]
  unfold releaseQueue
  dsimp only
  split
  · exact ⟨(hm ..).1.trans (hf _).1, (hm ..).2.trans (hf _).2⟩
  · exact hf _

/-! Popping (R16, R220). -/

/-- Queue register `q` of a warp without its oldest entry, which keeps its place in an uncommitted region. -/
def Warp.popped (x : Warp) (q : Nat) : Queue :=
  let u := x.queue q
  let keep := x.cue.any (fun c => !c.committed)
  ({ u with entries := u.entries.tail, popped := if keep then u.popped ++ u.entries.take 1 else u.popped } : Queue).refill

theorem popQueue_cons {x : Warp} {q : Nat} {e : QEntry} {es : List QEntry} (h : (x.queue q).entries = e :: es) :
    popQueue x q = some (e, x.setQueue q (x.popped q)) := by
  simp only [popQueue, Warp.popped, h]
  cases x.cue <;> rfl

theorem popQ_eq {s : State} {w q : Nat} (h : ((s.warp w).queue q).entries ≠ []) :
    popQ w q s = s.modWarp w (fun x => x.setQueue q (x.popped q)) := by
  obtain ⟨e, es, he⟩ := List.exists_cons_of_ne_nil h
  unfold popQ
  rw [popQueue_cons he]
  rfl

theorem popQ_empty {s : State} {w q : Nat} (h : ((s.warp w).queue q).entries = []) : popQ w q s = s := by
  simp only [popQ, popQueue, h]

theorem popQ_cur (w q : Nat) (s : State) : (popQ w q s).cur = s.cur := by
  unfold popQ
  split <;> rfl

theorem popQ_subs (w q : Nat) (s : State) : ((popQ w q s).warp w).subs = (s.warp w).subs := by
  by_cases h : ((s.warp w).queue q).entries = []
  · rw [popQ_empty h]
  · rw [popQ_eq h, State.modWarp_eq, State.warp_setWarp]
    rfl

theorem Kept.popQ {w q : Nat} {P : RegName → Prop} {K : Marks} {s t : State} (h : Kept w P K s t) : Kept w P K (popQ w q s) (popQ w q t) := by
  by_cases he : ((s.warp w).queue q).entries = []
  · rw [popQ_empty he, popQ_empty (by rw [h.queue]; exact he)]
    exact h
  · rw [popQ_eq he, popQ_eq (by rw [h.queue]; exact he)]
    exact h.modWarp (fun _ => rfl) (fun _ g => by cases g <;> rfl) (fun _ _ => rfl) (fun _ => rfl)

/-- The oldest entry is popped into the uniform pair of the destination (R16). -/
theorem popInto_ok {c : Ctx} (K : Marks) (w : W0) {q : Nat} {e : QEntry} {s : State} (he : ((s.warp c.w).queue q).entries.head? = some e) :
    ∃ t, popInto c w q s = .ok ((), t) ∧ Kept c.w (fun g => w.wbs = false ∧ (Dst.ofCode w.d).names 2 1#32 g) K (popQ c.w q s) t ∧
      (t.warp c.w).subs = (s.warp c.w).subs ∧
      (w.wbs = false → (Dst.ofCode w.d).has (t.warp c.w) 0 0 (lo32 e.data) ∧ (Dst.ofCode w.d).has (t.warp c.w) 1 0 (hi32 e.data)) := by
  obtain ⟨t, ht, hk, hv⟩ := writeUni_ok c K w (Dst.ofCode w.d) (entryWords e) (s.join c.w e.lbl c.sub.maskLabel).1
    (popQ c.w q (s.join c.w e.lbl c.sub.maskLabel).2)
  refine ⟨t, ?_, (Kept.popQ (join_kept ..)).trans hk, ?_, fun hw => ⟨hv hw 0 Nat.zero_lt_two, hv hw 1 Nat.one_lt_two⟩⟩
  · unfold popInto
    rw [M.st_bind]
    simp only [he]
    rw [M.run_bind, M.upd_bind]
    exact ht
  · rw [writeUni_subs ht, popQ_subs, join_subs]

theorem Dst.has_kept {w : Nat} {K : Marks} {s t : State} (h : Kept w noReg K s t) {d : Dst} {j i : Nat} {v : Word} (hd : d.has (s.warp w) j i v) :
    d.has (t.warp w) j i v := fun g hg => (h.regs g (fun hn => hn)).trans (hd g hg)

theorem uniform_of_evenU {k : BitVec 6} (h : WF.evenU k = true) : (Dst.ofCode k).uniform = true := by
  simp only [WF.evenU, WF.isU, Bool.and_eq_true, decide_eq_true_eq] at h
  obtain ⟨⟨h1, h2⟩, -⟩ := h
  unfold Dst.ofCode
  rw [if_neg (by omega), if_pos (by omega)]
  rfl

/-- The registers of a uniform pair. -/
theorem aluNames_uniform {c : Ctx} {w : W0} (h : WF.evenU w.d = true) (g : RegName) :
    (w.wbs = false ∧ (Dst.ofCode w.d).names 2 1#32 g) ↔ aluNames c w (Dst.ofCode w.d) 2 g := by
  unfold aluNames
  rw [uniform_of_evenU h]
  rfl

theorem entries_head {s : State} {w q : Nat} (h : ((s.warp w).queue q).entries ≠ []) : ∃ e, ((s.warp w).queue q).entries.head? = some e := by
  obtain ⟨e, es, he⟩ := List.exists_cons_of_ne_nil h
  exact ⟨e, by rw [he]; rfl⟩

/-! What the four instructions check and do (R14, R16, R206). -/

theorem takeLatches_warp (s : State) (u : SubWarp) (w : Nat) : (takeLatches s u).warp w = s.warp w := by
  unfold takeLatches
  dsimp only
  split <;> rfl

theorem takeLatches_warps (s : State) (u : SubWarp) : (takeLatches s u).warps = s.warps := by
  unfold takeLatches
  dsimp only
  split <;> rfl

theorem canRegister_latches (s : State) (u : SubWarp) (w : Nat) : canRegister (takeLatches s u) w = canRegister s w := by
  unfold takeLatches
  dsimp only
  split <;> rfl

theorem bindQueue_queue (w q k : Nat) (s : State) : ((bindQueue w q k s).warp w).queue q = { Queue.free with kind := some k } := by
  unfold bindQueue registerHolding
  rw [State.modWarp_eq, State.warp_setWarp, State.modWarp_eq, State.warp_setWarp]
  exact queue_setQueue ..

theorem bindQueue_subs (w q k : Nat) (s : State) : ((bindQueue w q k s).warp w).subs = (s.warp w).subs := by
  unfold bindQueue registerHolding
  rw [State.modWarp_eq, State.warp_setWarp, State.modWarp_eq, State.warp_setWarp]
  rfl

theorem commit_subs (w : Nat) (s : State) : ((commit s w).warp w).subs = (s.warp w).subs := by
  unfold commit
  rw [State.modWarp_eq, State.warp_setWarp]

/-- QBIND binds the register and registers the holding. -/
theorem qbind_does (p : Pfx) (w : W0) (h : WF.qbind p w = true) :
    DoesIf (.qbind p w) p (fun s c => mayBind (s.warp c.w) w.d.toNat w.a.toNat = true ∧ canRegister s c.w = true)
      (fun c s => bindQueue c.w w.d.toNat w.a.toNat (commit s c.w)) (fun _ _ => noReg) (fun _ _ => noMask)
      (fun c s t => GoesOn c s t ∧ (t.warp c.w).queue w.d.toNat = { Queue.free with kind := some w.a.toNat }) := by
  have hp : WF.acc0.ok p = true := by simp only [WF.qbind, Bool.and_eq_true] at h; exact h.1.1
  refine doesIf_next hp (fun s => by change execQbind p w s = _; unfold execQbind; rw [h]) (fun _ _ => rfl) (fun s u c ⟨hm, hr⟩ => ?_)
  refine ⟨bindQueue c.w w.d.toNat w.a.toNat (commit (takeLatches s u) c.w), ?_, ((bindQueue_blind ..).comp (commit_blind ..)).latches ..,
    by rw [bindQueue_subs, commit_subs, takeLatches_warp], fun r hk => by rw [hk.queue, bindQueue_queue]⟩
  rw [← takeLatches_warp s u] at hm
  rw [← canRegister_latches s u] at hr
  dsimp only
  rw [M.st_bind, M.bind_ok (trapIf_false (by rw [hm]; rfl) _)]
  simp only [hr, Bool.not_true, Bool.false_eq_true, if_false]
  rfl

/-- QRD pops the oldest entry into its pair. -/
theorem qrd_does (p : Pfx) (w : W0) (h : WF.qrd p w = true) :
    DoesIf (.qrd p w) p (fun s c => ((s.warp c.w).queue w.a.toNat).kind.isSome = true ∧ ((s.warp c.w).queue w.a.toNat).entries ≠ [])
      (fun c s => popQ c.w w.a.toNat s) (fun _ c => aluNames c w (Dst.ofCode w.d) 2) (fun _ _ => noMask)
      (fun c s t => GoesOn c s t ∧ ∀ e, ((s.warp c.w).queue w.a.toNat).entries.head? = some e → w.wbs = false →
        (Dst.ofCode w.d).has (t.warp c.w) 0 0 (lo32 e.data) ∧ (Dst.ofCode w.d).has (t.warp c.w) 1 0 (hi32 e.data)) := by
  have hw := h
  simp only [WF.qrd, Bool.and_eq_true] at hw
  obtain ⟨⟨hp, -⟩, ⟨⟨-, hd⟩, -⟩, -⟩ := hw
  refine doesIf_next hp (fun s => by change execQrd p w s = _; unfold execQrd; rw [h]) (fun _ _ => popQ_cur ..) (fun s u c ⟨hb, he⟩ => ?_)
  obtain ⟨e, hh⟩ := entries_head he
  rw [← takeLatches_warp s u] at hb he hh
  obtain ⟨t, ht, hk, hs, hv⟩ := popInto_ok noMask w hh
  refine ⟨t, ?_, (Kept.popQ (takeLatches_kept ..)).trans (hk.mono (fun g hg => (aluNames_uniform hd g).mp hg) (fun _ h => h)),
    by rw [hs, takeLatches_warp], fun r hr e' he' hwb => ?_⟩
  · rw [M.st_bind, M.bind_ok (trapIf_false (Option.isNone_eq_false_iff.mpr hb) _), M.bind_ok (await_true (by simpa using he) _), M.bind_ok ht]
    rfl
  · rw [← takeLatches_warp s u, hh, Option.some.injEq] at he'
    obtain ⟨h0, h1⟩ := hv hwb
    rw [← he']
    exact ⟨Dst.has_kept hr h0, Dst.has_kept hr h1⟩

/-- What the latch captures of a QPOLL that pops nothing: the first register of the destination as it is, zero under write-back suppress (R16, R89). -/
def pollLanes (c : Ctx) (w : W0) (s : State) : SMap Reg :=
  (List.range 32).foldl (fun (m : SMap Reg) i => m.set Reg.zero i
    (if w.wbs then ⟨0#32, c.sub.maskLabel, false, false⟩ else { getLane (s.warp c.w) (Dst.ofCode w.d) 0 0 with dead := false })) []

/-- QPOLL pops the oldest entry where one waits, and says so in its mask register. -/
theorem qpoll_does (p : Pfx) (w : W0) (h : WF.qpoll p w = true) :
    DoesIf (.qpoll p w) p (fun s c => ((s.warp c.w).queue w.a.toNat).kind.isSome = true) (fun c s => popQ c.w w.a.toNat s)
      (fun s c g => ((s.warp c.w).queue w.a.toNat).entries ≠ [] ∧ aluNames c w (Dst.ofCode w.d) 2 g) (fun _ _ => ⟨fun k => k = w.b.toNat, 0#8⟩)
      (fun c s t => GoesOn c s t ∧
        (t.warp c.w).mask w.b.toNat = (if ((s.warp c.w).queue w.a.toNat).entries = [] then 0#32 else BitVec.allOnes 32) ∧
        (w.wbs = false → ∀ e, ((s.warp c.w).queue w.a.toNat).entries.head? = some e →
          (Dst.ofCode w.d).has (t.warp c.w) 0 0 (lo32 e.data) ∧ (Dst.ofCode w.d).has (t.warp c.w) 1 0 (hi32 e.data))) := by
  have hw := h
  simp only [WF.qpoll, Bool.and_eq_true] at hw
  obtain ⟨⟨hp, -⟩, ⟨⟨-, hd⟩, -⟩, -⟩ := hw
  refine doesIf_next hp (fun s => by change execQpoll p w s = _; unfold execQpoll; rw [h]) (fun _ _ => popQ_cur ..) (fun s u c hb => ?_)
  have hk := Kept.popQ (q := w.a.toNat) (takeLatches_kept c.w (fun g => ((s.warp c.w).queue w.a.toNat).entries ≠ [] ∧ aluNames c w (Dst.ofCode w.d) 2 g)
    ⟨fun k => k = w.b.toNat, 0#8⟩ s u)
  rw [← takeLatches_warp s u] at hb hk ⊢
  rw [M.st_bind, M.bind_ok (trapIf_false (Option.isNone_eq_false_iff.mpr hb) _)]
  generalize takeLatches s u = s1 at hb hk ⊢
  generalize (List.range 32).foldl (fun (m : SMap Label) i => m.set 0#8 i c.sub.maskLabel) [] = ls
  by_cases he : ((s1.warp c.w).queue w.a.toNat).entries = []
  · rw [popQ_empty he] at hk
    refine ⟨setMask (capture c w.latch.toNat (pollLanes c w s1) s1) c.w w.b.toNat 0#32 ls, ?_,
      hk.trans ((capture_kept ..).trans (setMask_kept ..)), ?_, fun r hr => ⟨?_, ?_⟩⟩
    · rw [he]
      rfl
    · exact setMask_subs ..
    · rw [if_pos he, hr.masks _ (fun hn => hn), setMask_mask]
    · rw [he]
      exact fun _ _ hn => nomatch hn
  · obtain ⟨e, hh⟩ := entries_head he
    obtain ⟨t, ht, hpop, hs, hv⟩ := popInto_ok noMask w hh
    refine ⟨setMask t c.w w.b.toNat (BitVec.allOnes 32) ls, ?_,
      hk.trans (Kept.trans (hpop.mono (fun g hg => ⟨he, (aluNames_uniform hd g).mp hg⟩) (fun _ h => h.elim)) (setMask_kept ..)),
      (setMask_subs ..).trans hs, fun r hr => ⟨?_, fun hwb e' he' => ?_⟩⟩
    · have hn : (!((s1.warp c.w).queue w.a.toNat).entries.isEmpty) = true := by simpa using he
      simp only [hn, if_true, M.bind_ok ht]
      rfl
    · rw [if_neg he, hr.masks _ (fun hn => hn), setMask_mask]
    · rw [hh, Option.some.injEq] at he'
      rw [← he']
      obtain ⟨h0, h1⟩ := hv hwb
      have hm := setMask_kept c noReg t w.b.toNat (BitVec.allOnes 32) ls
      exact ⟨Dst.has_kept hr (Dst.has_kept hm h0), Dst.has_kept hr (Dst.has_kept hm h1)⟩

theorem commit_queue_kind (s : State) (w q : Nat) : (((commit s w).warp w).queue q).kind = ((s.warp w).queue q).kind := by
  unfold commit
  rw [State.modWarp_eq, State.warp_setWarp]
  simp only [Warp.queue, List.getElem?_map]
  cases (s.warp w).queues[q]? <;> rfl

theorem discharge_queue (s : State) (w kind ref q n : Nat) : ((discharge s w kind ref q).warp w).queue n = (s.warp w).queue n := by
  unfold discharge
  rw [State.modWarp_eq, State.warp_setWarp]
  split <;> rfl

theorem discharge_subs (s : State) (w kind ref q : Nat) : ((discharge s w kind ref q).warp w).subs = (s.warp w).subs := by
  unfold discharge
  rw [State.modWarp_eq, State.warp_setWarp]
  split <;> rfl

/-- An unbound queue register holds nothing. -/
theorem unbindQueue_queue {s : State} {w q : Nat} (h : ((s.warp w).queue q).kind.isSome = true) :
    ((unbindQueue s w q).warp w).queue q = Queue.free := by
  obtain ⟨k, hk⟩ := Option.isSome_iff_exists.mp h
  rw [unbindQueue_eq hk, State.modWarp_eq, State.warp_setWarp, queue_setQueue]

theorem unbindQueue_subs (s : State) (w q : Nat) : ((unbindQueue s w q).warp w).subs = (s.warp w).subs := by
  cases hk : ((s.warp w).queue q).kind with
  | none => simp only [unbindQueue, hk]
  | some k =>
    rw [unbindQueue_eq hk, State.modWarp_eq, State.warp_setWarp]
    change ((releaseQueue w q k ((s.warp w).queue q) s).warp w).subs = _
    simp only [State.warp, (releaseQueue_same ..).1]

theorem unbindQueue_cur (s : State) (w q : Nat) : (unbindQueue s w q).cur = s.cur := by
  cases hk : ((s.warp w).queue q).kind with
  | none => simp only [unbindQueue, hk]
  | some k => rw [unbindQueue_eq hk]; exact (releaseQueue_same ..).2

/-- QFREE unbinds a bound register and discharges its holding. -/
theorem qfree_does (p : Pfx) (w : W0) (h : WF.qfree p w = true) :
    DoesIf (.qfree p w) p (fun s c => ((s.warp c.w).queue w.d.toNat).kind.isSome = true)
      (fun c s => discharge (unbindQueue (commit s c.w) c.w w.d.toNat) c.w 5 0 w.d.toNat) (fun _ _ => noReg) (fun _ _ => noMask)
      (fun c s t => GoesOn c s t ∧ (t.warp c.w).queue w.d.toNat = Queue.free) := by
  have hp : WF.acc0.ok p = true := by simp only [WF.qfree, Bool.and_eq_true] at h; exact h.1.1
  refine doesIf_next hp (fun s => by change execQfree p w s = _; unfold execQfree; rw [h]) (fun _ _ => unbindQueue_cur ..) (fun s u c hb => ?_)
  refine ⟨discharge (unbindQueue (commit (takeLatches s u) c.w) c.w w.d.toNat) c.w 5 0 w.d.toNat, ?_,
    ((discharge_blind ..).comp ((unbindQueue_blind ..).comp (commit_blind ..))).latches ..,
    by rw [discharge_subs, unbindQueue_subs, commit_subs, takeLatches_warp], fun r hk => ?_⟩
  · rw [← takeLatches_warp s u] at hb
    rw [M.st_bind, M.bind_ok (trapIf_false (Option.isNone_eq_false_iff.mpr hb) _)]
    rfl
  · rw [hk.queue, discharge_queue, unbindQueue_queue (by rw [commit_queue_kind, takeLatches_warp]; exact hb)]

/-- QUEUE_HELD_ENTRY_DELIVER moves the oldest held entry in (R17). -/
theorem held_entry_delivered (s : State) (w q : Nat) (e : QEntry) (rest : List QEntry) (hb : ((s.warp w).queue q).back = e :: rest)
    (hu : ((s.warp w).queue q).used < 8) (hk : ((s.warp w).queue q).kind.isSome = true) (hl : (s.warp w).life = .resident ∨ (s.warp w).life = .saving) :
    ∃ t, Completes (.queue_held_entry_deliver w q) s t ∧ Quiet s t ∧ ((t.warp w).queue q).back = rest ∧
      ((t.warp w).queue q).entries = ((s.warp w).queue q).entries ++ [e] := by
  have he : exec (.queue_held_entry_deliver w q) s = did (s.setWarp w ((s.warp w).setQueue q
      { (s.warp w).queue q with entries := ((s.warp w).queue q).entries ++ [e], back := rest })) := by
    change execQueueHeldEntryDeliver w q s = _
    unfold execQueueHeldEntryDeliver
    simp only [hb]
    rw [if_pos ⟨hu, hk, hl⟩]
  have ht : ∀ u, (({ s.setWarp w ((s.warp w).setQueue q u) with report := .done } : State).warp w).queue q = u := fun u => by
    change ((s.setWarp w ((s.warp w).setQueue q u)).warp w).queue q = u
    rw [State.warp_setWarp, queue_setQueue]
  refine ⟨_, completes_did he, (setQueue_quiet ..).trans (report_quiet ..), ?_, ?_⟩ <;> rw [ht]

/-- Settles O35: without PFX words a body sees the state as it stood but for the latches, which no operation of a queue reads; each body is then
followed to its end. -/
theorem queueInstructions : Obligations.QueueInstructions :=
  ⟨qbind_does, qrd_does, qpoll_does, qfree_does, held_entry_delivered⟩

end Sys2Proof.Machine
end

section
/-! SUPPORT. The refutation of O27: DCL of a granule on a package that lists one die alone. -/

namespace Sys2Proof.Machine

open Sys2Proof

/-! `Lowers` speaks of every state, and `Kept` compares the list of dies. A state whose list is too short gets dies at reset where a die
past its end is first written (`setPad`), as the touch of an unscrubbed frame of that die does. -/

/-- DCL of the granule at address 0 by grant 3. -/
def lowerW0 : W0 := ⟨0#2, false, false, false, 0#6, 0#6, 20#6⟩
def lowerW1 : W1 := ⟨0x43#16, 0#2, 0#8, 0#6⟩

/-- The warp's code page, at 0x10000 in frame 1: read and execute. -/
def lowerCode : Leaf := ⟨1, 0x10000, 0, (1#128 <<< 64) ||| 0x93#128⟩

/-- The data page, at 0 in the first frame of die 1: read, write and atomic. -/
def lowerData : Leaf := ⟨1, 0, 0, (2097152#128 <<< 64) ||| (1#128 <<< 32) ||| 0x73#128⟩

/-- The package with one die listed: warp 1 of VD 1 has one sub-warp of lane 0, and grant 3 of the VD covers its sealed code page. -/
def oneDie : State :=
  { State.reset with
    package := { Package.reset with sown := [(32, 1025#16)] }
    dies := [{ Die.reset with tlb := [lowerCode] }]
    quads := [(0, { Quad.reset with tlb := [lowerData] })]
    vds := [(1, { VD.free with grants := [(3, ⟨0x10000#64, 0x20000#64, BitVec.allOnes 64, 0#64, []⟩)], measured := [(0x10000, 0x20000, [])] })]
    warps := [(1, { Warp.none with vd := 1, life := .resident, clearance := 255#8, subs := [⟨none, 1#32, 0#8, 0x10000#64, 0, .ready, false⟩] })]
    sealed := [(1, true)]
    cur := ⟨1, none, 0x10000#64, 0x10008#64, 0, 0, 0, false⟩ }

/-- The sub-warp that issues. -/
def oneDieSub : SubWarp := ⟨none, 1#32, 0#8, 0x10000#64, 0, .ready, false⟩

/-- The checks that the statement names, of that DCL. -/
def lowerChecks (c : Ctx) : M (Places × SMap Label) := do
  checkSrcs c (addrSrcs false (.code lowerW0.a)) c.on
  let r ← dclPlaces c false (.code lowerW0.a) (field lowerW1.hi 0 6).toNat
  awaitLowering c r.1
  pure r

/-- The checks of DCL with the group's prefixes, where its latches are its own. -/
def oneDieRun : Except Stop ((Places × SMap Label) × State) :=
  (do checkPfx (mkCtx oneDie oneDieSub Pfx.none) Pfx.none; lowerChecks (mkCtx oneDie oneDieSub Pfx.none) : M _) (takeLatches oneDie oneDieSub)

theorem oneDieRun_pads : (match oneDieRun with | .ok x => decide (x.2.dies.length = 2) | .error _ => false) = true := by decide +kernel

theorem oneDie_issuer : oneDie.issuer = some oneDieSub ∧ (mkCtx oneDie oneDieSub Pfx.none).on ≠ 0#32 := by decide +kernel

/-- The checks pass, and leave a second die. -/
theorem oneDie_passes : ∃ r s1, Passes oneDie Pfx.none oneDieSub lowerChecks r s1 ∧ s1.dies.length = 2 := by
  have h := oneDieRun_pads
  match hrun : oneDieRun with
  | .error _ => simp [hrun] at h
  | .ok (r, s1) =>
    rw [hrun] at h
    exact ⟨r, s1, ⟨oneDie_issuer.1, hrun⟩, of_decide_eq_true h⟩

/-- What `Kept` allows leaves the number of dies. -/
theorem Kept.dies_length {w : Nat} {P : RegName → Prop} {K : Marks} {s t : State} (h : Kept w P K s t) : t.dies.length = s.dies.length := by
  simpa [State.rest] using congrArg (fun x : State => x.dies.length) h.state

/-- Refutes O27: no hypothesis says that the state lists its nine dies, and on `oneDie`, which lists one, the checks of DCL of a granule of die 1 touch the
granule's unscrubbed frame, so that a second die at reset stands in the state after them; `Kept` does not allow it. (On a state with all nine dies
this does not come up.) -/
theorem not_declassification : ¬ Obligations.Declassification := by
  unfold Obligations.Declassification
  rintro ⟨-, hglobal, -⟩
  obtain ⟨hlowers, -⟩ := hglobal Pfx.none lowerW0 lowerW1 (by decide +kernel)
  obtain ⟨r, s1, hpass, hdies⟩ := oneDie_passes
  obtain ⟨hkept, -⟩ := hlowers oneDie oneDieSub r s1 hpass oneDie_issuer.2
  have hone : s1.dies.length = 1 := hkept.dies_length
  omega

end Sys2Proof.Machine
end

section
/-! SUPPORT. Commands of the security block (R403): how a command runs and ends, and what the parts of a VD's end leave. -/

namespace Sys2Proof.Machine

open Sys2Proof

/-- A fold leaves what each of its steps leaves. -/
theorem foldl_keeps {α β γ : Type} (p : β → γ) (f : β → α → β) (h : ∀ b a, p (f b a) = p b) (xs : List α) (b : β) :
    p (xs.foldl f b) = p b := by
  induction xs generalizing b with
  | nil => rfl
  | cons a xs ih => exact (ih (f b a)).trans (h b a)

/-- A fold stays within a relation that each of its steps keeps. -/
theorem foldl_related {α : Type} {R : State → State → Prop} (hrefl : ∀ s, R s s) (htrans : ∀ {s t r}, R s t → R t r → R s r)
    (f : State → α → State) (h : ∀ s a, R s (f s a)) (xs : List α) (s : State) : R s (xs.foldl f s) := by
  induction xs generalizing s with
  | nil => exact hrefl s
  | cons a xs ih => exact htrans (h s a) (ih _)

/-! Ranges of a sparse map. -/

theorem SMap.get_filter {α : Type} (d : α) (f : Nat × α → Bool) (m : SMap α) (k : Nat) (h : ∀ v, f (k, v) = true) :
    SMap.get d (m.filter f) k = SMap.get d m k := by
  induction m with
  | nil => rfl
  | cons e m ih =>
    obtain ⟨j, v⟩ := e
    by_cases hj : j = k
    · subst hj; simp [SMap.get, h v]
    · by_cases hf : f (j, v) = true <;> simp [SMap.get, hf, hj, ih]

theorem SMap.get_dropRange {α : Type} (d : α) (m : SMap α) {lo hi k : Nat} (h : k < lo ∨ hi ≤ k) : (m.dropRange lo hi).get d k = m.get d k :=
  SMap.get_filter d _ m k (fun _ => by simpa using h)

/-! A package without its dies. -/

/-- The package but for its dies. -/
def State.offDies (s : State) : State := { s with dies := [] }

theorem setDie_offDies (s : State) (d : Nat) (x : Die) : (s.setDie d x).offDies = s.offDies := by
  unfold State.setDie
  split <;> rfl

theorem modDies_offDies (ds : List Nat) (f : Nat → Die → Die) (s : State) :
    (ds.foldl (fun s d => s.modDie d (f d)) s).offDies = s.offDies :=
  foldl_keeps State.offDies _ (fun s d => setDie_offDies s d _) ds s

/-! How a command runs and ends. -/

theorem command_run {s : State} {req : Req} (h : Commanded s req) (f : State → State) : command req s f = did (f s) := by
  obtain ⟨hhv, hbusy, hphase⟩ := h
  simp [command, hhv, hbusy, Nat.not_lt.mpr hphase]

/-- Host memory and SBOUT are as they were. -/
structure OutKept (s t : State) : Prop where
  host : t.hostMem = s.hostMem
  sbout : t.security.sbout = s.security.sbout
  length : t.security.sboutLen = s.security.sboutLen

theorem OutKept.refl (s : State) : OutKept s s := ⟨rfl, rfl, rfl⟩

theorem OutKept.trans {s t r : State} (h : OutKept s t) (h' : OutKept t r) : OutKept s r :=
  ⟨h'.host.trans h.host, h'.sbout.trans h.sbout, h'.length.trans h.length⟩

theorem OutKept.offDies {s t : State} (h : t.offDies = s.offDies) : OutKept s t :=
  ⟨(congrArg State.hostMem h :), (congrArg (fun x => x.security.sbout) h :), (congrArg (fun x => x.security.sboutLen) h :)⟩

/-- A command whose effect leaves host memory and SBOUT ends as `Commands` says. -/
theorem commands_done {i : Instr} {s r : State} {status detail : Nat} {out : List Byte} (he : exec i s = did (sbDone r status detail out))
    (hk : OutKept s r) : Commands i s { sbDone r status detail out with report := .done } status detail := by
  obtain ⟨hhost, hsbout, hlen⟩ := hk
  refine ⟨completes_did he, rfl, rfl, rfl, fun d a ha => ?_⟩
  change readByte (writeBytes r.hostMem.bytes r.security.sbout.toNat (out.take r.security.sboutLen.toNat)) a = readByte s.hostMem.bytes a
  have hout : (out.take r.security.sboutLen.toNat).length ≤ s.security.sboutLen.toNat := by
    rw [hlen, List.length_take]; exact Nat.min_le_left ..
  rw [readByte_writeBytes, hsbout, hhost, if_neg (by omega)]

/-! VDCREATE (R23, R24). -/

/-- A fold of puts leaves the keys that it does not name. -/
theorem SMap.get?_foldl_put_ne {α : Type} (hs : List (Nat × α)) (m : SMap α) (k : Nat) (h : ∀ e, e ∈ hs → e.1 ≠ k) :
    (hs.foldl (fun m e => m.put e.1 e.2) m).get? k = m.get? k := by
  induction hs generalizing m with
  | nil => rfl
  | cons e hs ih =>
    simp only [List.mem_cons, forall_eq_or_imp] at h
    rw [List.foldl_cons, ih _ h.2, SMap.get?_put_ne _ _ (Ne.symm h.1)]

/-- A fold of puts of distinct keys lists each. -/
theorem SMap.get?_foldl_put {α : Type} (hs : List (Nat × α)) (m : SMap α) (hn : (hs.map (fun e => e.1)).Nodup) {e : Nat × α} (he : e ∈ hs) :
    (hs.foldl (fun m e => m.put e.1 e.2) m).get? e.1 = some e.2 := by
  induction hs generalizing m with
  | nil => cases he
  | cons a hs ih =>
    rw [List.map_cons, List.nodup_cons] at hn
    rw [List.foldl_cons]
    rcases List.mem_cons.mp he with rfl | he
    · rw [SMap.get?_foldl_put_ne _ _ _ (fun b hb hab => hn.1 (List.mem_map.mpr ⟨b, hb, hab⟩)), SMap.get?_put_self]
    · exact ih _ hn.2 he

theorem goodHandles_bounds {hs : List (Nat × OwnerSet)} (h : goodHandles hs = true) {e : Nat × OwnerSet} (he : e ∈ hs) : 1 ≤ e.1 ∧ e.1 ≤ 254 := by
  simp only [goodHandles, Bool.and_eq_true, List.all_eq_true, decide_eq_true_eq] at h
  obtain ⟨⟨hall, -⟩, -⟩ := h
  obtain ⟨⟨hb, -⟩, -⟩ := hall e he
  exact hb

theorem goodHandles_nodup {hs : List (Nat × OwnerSet)} (h : goodHandles hs = true) : (hs.map (fun e => e.1)).Nodup := by
  simp only [goodHandles, Bool.and_eq_true, beq_iff_eq] at h
  obtain ⟨⟨-, hlen⟩, -⟩ := h
  have heq : (hs.map (fun e => e.1)).dedup = hs.map (fun e => e.1) := (List.dedup_sublist _).eq_of_length (by simpa using hlen)
  exact heq ▸ List.nodup_dedup _

/-- The label table of a new VD. -/
def newTable (hs : List (Nat × OwnerSet)) : SMap OwnerSet := hs.foldl (fun m h => m.put h.1 h.2) [(0, 0#64), (255, BitVec.allOnes 64)]

theorem newTable_bottom {hs : List (Nat × OwnerSet)} (h : goodHandles hs = true) : (newTable hs).get? 0 = some 0#64 :=
  SMap.get?_foldl_put_ne hs _ 0 (fun e he => by have := goodHandles_bounds h he; omega)

theorem newTable_top {hs : List (Nat × OwnerSet)} (h : goodHandles hs = true) : (newTable hs).get? 255 = some (BitVec.allOnes 64) :=
  SMap.get?_foldl_put_ne hs _ 255 (fun e he => by have := goodHandles_bounds h he; omega)

/-- The VD that VDCREATE makes of the free VD `d`. -/
def newVd (a : VdArgs) (serial : Nat) (d : VD) : VD :=
  { d with
    state := 2, gen := 1, created := serial, keys := a.keys.foldl (fun m k => m.put k.1 k.2) [], table := newTable a.handles
    installed := a.handles.map (fun h => h.1) }

/-- The package with the VD that VDCREATE makes. -/
def created (s : State) (a : VdArgs) : State :=
  State.modVd { s with package := { s.package with vdSerial := s.package.vdSerial + 1 } } a.vd (newVd a s.package.vdSerial)

theorem created_vd (s : State) (a : VdArgs) : (created s a).vd a.vd = newVd a s.package.vdSerial (s.vd a.vd) := State.vd_setVd ..

theorem vdcreate_creates {s : State} {req : Req} {a : VdArgs} (h : Commanded s req) (hvd : a.vd < 1024) (hnew : isVd s a.vd = false)
    (hgood : goodHandles a.handles = true) (hkeys : ∀ k, k ∈ a.keys → k.1 < 64) (hlife : s.security.life = 2) (hphase : 7 ≤ s.package.phase) :
    exec (.vdcreate req a) s = did (sbDone (created s a) 0 0 []) := by
  have hk : a.keys.any (fun k => decide (64 ≤ k.1)) = false :=
    List.any_eq_false.mpr (fun k hk => by simpa using hkeys k hk)
  change execVdcreate req a s = _
  unfold execVdcreate
  rw [command_run h]
  simp only [hnew, hgood, hk, hlife, Nat.not_le.mpr hvd, Nat.not_lt.mpr hphase]
  rfl

theorem vdcreate_exists {s : State} {req : Req} {a : VdArgs} (h : Commanded s req) (hold : isVd s a.vd = true) :
    exec (.vdcreate req a) s = did (sbDone s 1 0 []) := by
  change execVdcreate req a s = _
  unfold execVdcreate
  rw [command_run h]
  simp [hold]

theorem vdcreate_completes (s : State) (req : Req) (a : VdArgs) (h : Commanded s req) :
    (a.vd < 1024 → isVd s a.vd = false → goodHandles a.handles = true → (∀ k, k ∈ a.keys → k.1 < 64) → s.security.life = 2 → 7 ≤ s.package.phase →
      ∃ t, Commands (.vdcreate req a) s t 0 0 ∧ (t.vd a.vd).state = 2 ∧ (t.vd a.vd).gen = 1 ∧ (t.vd a.vd).created = s.package.vdSerial ∧
        t.package.vdSerial = s.package.vdSerial + 1 ∧ (t.vd a.vd).table.get? 0 = some 0#64 ∧
        (t.vd a.vd).table.get? 255 = some (BitVec.allOnes 64) ∧ ∀ h, h ∈ a.handles → (t.vd a.vd).table.get? h.1 = some h.2) ∧
    (isVd s a.vd = true → ∃ t, Commands (.vdcreate req a) s t 1 0 ∧ t.vd a.vd = s.vd a.vd) := by
  refine ⟨fun hvd hnew hgood hkeys hlife hphase => ?_, fun hold => ⟨_, commands_done (vdcreate_exists h hold) (OutKept.refl s), rfl⟩⟩
  refine ⟨_, commands_done (vdcreate_creates h hvd hnew hgood hkeys hlife hphase) ⟨rfl, rfl, rfl⟩, ?_⟩
  have hv := created_vd s a
  refine ⟨congrArg VD.state hv, congrArg VD.gen hv, congrArg VD.created hv, rfl, ?_, ?_, fun e he => ?_⟩
  · exact (congrArg (fun d : VD => d.table.get? 0) hv).trans (newTable_bottom hgood)
  · exact (congrArg (fun d : VD => d.table.get? 255) hv).trans (newTable_top hgood)
  · exact (congrArg (fun d : VD => d.table.get? e.1) hv).trans (SMap.get?_foldl_put _ _ (goodHandles_nodup hgood) he)

/-! VDRESET and VDFREE (R364, R403). -/

/-- The parts of a VD's reset after the end of its work: warps, commands, host memory and the security block are as they were, and each VD
keeps its generation and its meters. -/
structure WorkKept (s t : State) : Prop where
  warps : t.warps = s.warps
  cmds : t.cmds = s.cmds
  host : t.hostMem = s.hostMem
  security : t.security = s.security
  gen : ∀ v, (t.vd v).gen = (s.vd v).gen
  meters : ∀ v, (t.vd v).meters = (s.vd v).meters

theorem WorkKept.refl (s : State) : WorkKept s s := ⟨rfl, rfl, rfl, rfl, fun _ => rfl, fun _ => rfl⟩

theorem WorkKept.trans {s t r : State} (h : WorkKept s t) (h' : WorkKept t r) : WorkKept s r :=
  ⟨h'.warps.trans h.warps, h'.cmds.trans h.cmds, h'.host.trans h.host, h'.security.trans h.security,
    fun v => (h'.gen v).trans (h.gen v), fun v => (h'.meters v).trans (h.meters v)⟩

theorem WorkKept.foldl {α : Type} (f : State → α → State) (h : ∀ s a, WorkKept s (f s a)) (xs : List α) (s : State) :
    WorkKept s (xs.foldl f s) := foldl_related WorkKept.refl WorkKept.trans f h xs s

theorem WorkKept.of_vds {s t : State} (hw : t.warps = s.warps) (hc : t.cmds = s.cmds) (hh : t.hostMem = s.hostMem) (hs : t.security = s.security)
    (hv : t.vds = s.vds) : WorkKept s t :=
  ⟨hw, hc, hh, hs, fun v => by simp [State.vd, hv], fun v => by simp [State.vd, hv]⟩

theorem WorkKept.offDies {s t : State} (h : t.offDies = s.offDies) : WorkKept s t :=
  WorkKept.of_vds (congrArg State.warps h :) (congrArg State.cmds h :) (congrArg State.hostMem h :) (congrArg State.security h :)
    (congrArg State.vds h :)

theorem setVd_workKept (s : State) (v : Nat) {x : VD} (hg : x.gen = (s.vd v).gen) (hm : x.meters = (s.vd v).meters) : WorkKept s (s.setVd v x) := by
  refine ⟨rfl, rfl, rfl, rfl, fun k => ?_, fun k => ?_⟩ <;> rw [State.vd_setVd_eq] <;> split
  · rename_i hk; rw [hk, hg]
  · rfl
  · rename_i hk; rw [hk, hm]
  · rfl

theorem setDie_workKept (s : State) (d : Nat) (x : Die) : WorkKept s (s.setDie d x) := WorkKept.offDies (setDie_offDies s d x)

theorem markFrame_workKept (s : State) (f : Nat) : WorkKept s (s.markFrame f) := WorkKept.of_vds rfl rfl rfl rfl rfl

theorem vdEvent_workKept (s : State) (v gen kind : Nat) (bs : List Byte) : WorkKept s (vdEvent s v gen kind bs) := by
  unfold vdEvent
  dsimp only
  split
  · exact setVd_workKept s v rfl rfl
  · split
    · exact setVd_workKept s v rfl rfl
    · split <;> exact setVd_workKept s v rfl rfl

theorem modMailbox_workKept (s : State) (d m : Nat) (f : Mailbox → Mailbox) : WorkKept s (s.modMailbox d m f) := setDie_workKept ..

theorem episodes_workKept (s : State) (es : List Episode) : WorkKept s { s with episodes := es } := WorkKept.of_vds rfl rfl rfl rfl rfl

theorem endEpisode_workKept (s : State) (e : Episode) (code : DWord) : WorkKept s (endEpisode s e code) := by
  unfold endEpisode
  refine WorkKept.trans ?_ (vdEvent_workKept ..)
  refine WorkKept.trans ?_ (episodes_workKept ..)
  refine WorkKept.trans ?_ (WorkKept.foldl _ markFrame_workKept _ _)
  refine WorkKept.trans ?_ (WorkKept.foldl _ (fun s m => (modMailbox_workKept ..).trans (modMailbox_workKept ..)) _ _)
  exact setDie_workKept ..

/-- The end of a VD's work leaves host memory, the security block and every VD. -/
theorem endWork_keeps (s : State) (v : Nat) :
    (endWork s v).hostMem = s.hostMem ∧ (endWork s v).security = s.security ∧ (endWork s v).vds = s.vds := by
  refine ⟨?_, ?_, ?_⟩
  · exact foldl_keeps State.hostMem (fun t q => State.modQuad t q _) (fun _ _ => rfl) _ s
  · exact foldl_keeps State.security (fun t q => State.modQuad t q _) (fun _ _ => rfl) _ s
  · exact foldl_keeps State.vds (fun t q => State.modQuad t q _) (fun _ _ => rfl) _ s

theorem endWork_warps_dead {s : State} {v : Nat} {e : Nat × Warp} (he : e ∈ (endWork s v).warps) (hv : e.2.vd = v) : e.2.life = .dead := by
  obtain ⟨x, -, rfl⟩ := List.mem_map.mp he
  split at hv
  · rename_i hx; rw [if_pos hx]
  · rename_i hx; exact absurd hv hx

theorem endWork_cmds_gone {s : State} {v : Nat} {e : Nat × Cmd} (he : e ∈ (endWork s v).cmds) : e.2.vd ≠ v := by
  simpa using (List.mem_filter.mp he).2

theorem freePair_workKept (s : State) : WorkKept s (freePair s).2 := WorkKept.of_vds rfl rfl rfl rfl rfl

theorem endOpenly_workKept (s : State) (e : Episode) : WorkKept s (endEpisode (freePair s).2 e (freePair s).1) :=
  (freePair_workKept s).trans (endEpisode_workKept (freePair s).2 e (freePair s).1)

theorem dropSlices_workKept (s : State) (v : Nat) : WorkKept s (dropSlices s v) := WorkKept.of_vds rfl rfl rfl rfl rfl

/-- A reset of a VD but for its last steps: its work ends, its episodes end, its mailboxes are disabled, its frames are marked, and it gives up
its slices. -/
def resetMiddle (s : State) (v : Nat) : State :=
  let s := endWork s v
  let s := (s.episodes.filter (fun e => e.vd == v)).foldl (fun s e =>
    let (code, s) := freePair s
    endEpisode s e code) s
  let s := (List.range 9).foldl (fun s d => s.modDie d (fun x => { x with mailboxes := x.mailboxes.map (fun e =>
    (e.1, resetBox s v e.2)) })) s
  dropSlices ((mappedFrames s v).foldl (fun s f => s.markFrame f) s) v

theorem resetMiddle_workKept (s : State) (v : Nat) : WorkKept (endWork s v) (resetMiddle s v) := by
  unfold resetMiddle
  refine WorkKept.trans ?_ (dropSlices_workKept ..)
  refine WorkKept.trans ?_ (WorkKept.foldl _ markFrame_workKept _ _)
  refine WorkKept.trans ?_ (WorkKept.foldl _ (fun s d => setDie_workKept s d _) _ _)
  exact WorkKept.foldl _ endOpenly_workKept _ _

/-- What a reset leaves of a VD (R364). -/
def resetOf (d : VD) : VD :=
  { d with
    ports := d.ports.map (fun p => { p with fifo := [] }), windows := d.windows.map (fun x => x &&& ~~~(1#128 <<< 92)), closing := []
    grants := [], measured := [], gf := [], gfDropped := 0
    table := d.table.filter (fun e => e.1 == 0 || e.1 == 255 || d.installed.contains e.1)
    stale := min (d.stale + d.events.length + d.waiting.length) 65535, events := [], waiting := [], gen := (d.gen + 1) % 2 ^ 32, state := 2 }

/-- The security block without the streams of which a VD is the source. -/
def dropStreams (s : State) (v : Nat) : State :=
  { s with security := { s.security with streams := s.security.streams.filter (fun x => !(x.source && x.vd == v)) } }

theorem resetVd_eq (s : State) (v : Nat) : resetVd s v = (dropStreams (resetMiddle s v) v).modVd v resetOf := by
  delta resetVd resetMiddle dropStreams
  dsimp only
  rfl

/-- The reset of a VD: its warps are dead, its commands gone, its generation one up; host memory and SBOUT stay. -/
structure Reset (v : Nat) (s t : State) : Prop where
  out : OutKept s t
  vd : ∃ d : VD, t.vd v = resetOf d ∧ d.gen = (s.vd v).gen ∧ d.meters = (s.vd v).meters
  warps : ∀ e, e ∈ t.warps → e.2.vd = v → e.2.life = .dead
  cmds : ∀ e, e ∈ t.cmds → e.2.vd ≠ v

theorem resetEnd_out (s : State) (v : Nat) : OutKept s ((dropStreams s v).modVd v resetOf) := ⟨rfl, rfl, rfl⟩

theorem resetVd_reset (s : State) (v : Nat) : Reset v s (resetVd s v) := by
  rw [resetVd_eq]
  obtain ⟨hhost, hsec, hvds⟩ := endWork_keeps s v
  have hend : (endWork s v).vd v = s.vd v := by simp [State.vd, hvds]
  have hwarps (e : Nat × Warp) : e ∈ (endWork s v).warps → e.2.vd = v → e.2.life = .dead := endWork_warps_dead
  have hcmds (e : Nat × Cmd) : e ∈ (endWork s v).cmds → e.2.vd ≠ v := endWork_cmds_gone
  have hmid := resetMiddle_workKept s v
  generalize resetMiddle s v = m at hmid ⊢
  generalize endWork s v = e at *
  obtain ⟨mwarps, mcmds, mhost, msec, mgen, mmeters⟩ := hmid
  have hout : OutKept s m := ⟨mhost.trans hhost, by rw [msec, hsec], by rw [msec, hsec]⟩
  rw [← mwarps] at hwarps
  rw [← mcmds] at hcmds
  exact ⟨hout.trans (resetEnd_out m v), ⟨m.vd v, State.vd_setVd .., (mgen v).trans (by rw [hend]), (mmeters v).trans (by rw [hend])⟩,
    hwarps, hcmds⟩

theorem vdreset_runs {s : State} {req : Req} {v : Nat} (h : Commanded s req) :
    exec (.vdreset req v) s = did (if isVd s v then sbDone (resetVd s v) 0 0 [] else sbDone s 1 0 []) := by
  change execVdreset req v s = _
  unfold execVdreset
  exact command_run h _

theorem vdfree_runs {s : State} {req : Req} {v : Nat} (h : Commanded s req) :
    exec (.vdfree req v) s = did (if isVd s v then sbDone (freeVd (resetVd s v) v) 0 0 [] else sbDone s 1 0 []) := by
  change execVdfree req v s = _
  unfold execVdfree
  exact command_run h _

theorem freeVd_vd (s : State) (v : Nat) : (freeVd s v).vd v = { VD.free with meters := (s.vd v).meters } := State.vd_setVd ..

theorem freeVd_out (s : State) (v : Nat) : OutKept s (freeVd s v) := ⟨rfl, rfl, rfl⟩

theorem vdreset_completes (s : State) (req : Req) (v : Nat) (h : Commanded s req) (hv : isVd s v = true) :
    ∃ t, Commands (.vdreset req v) s t 0 0 ∧ (t.vd v).state = 2 ∧ (t.vd v).gen = ((s.vd v).gen + 1) % 2 ^ 32 ∧ (t.vd v).events = [] ∧
      (t.vd v).grants = [] ∧ (∀ e, e ∈ t.warps → e.2.vd = v → e.2.life = .dead) ∧ ∀ e, e ∈ t.cmds → e.2.vd ≠ v := by
  have hrun := vdreset_runs (v := v) h
  rw [if_pos hv] at hrun
  have hreset := resetVd_reset s v
  generalize resetVd s v = r at hrun hreset
  obtain ⟨hout, ⟨d, hd, hgen, -⟩, hwarps, hcmds⟩ := hreset
  refine ⟨_, commands_done hrun hout, congrArg VD.state hd, (congrArg VD.gen hd).trans ?_, congrArg VD.events hd, congrArg VD.grants hd, hwarps, hcmds⟩
  rw [← hgen]
  rfl

theorem vdfree_completes (s : State) (req : Req) (v : Nat) (h : Commanded s req) (hv : isVd s v = true) :
    ∃ t, Commands (.vdfree req v) s t 0 0 ∧ t.vd v = { VD.free with meters := (s.vd v).meters } := by
  have hrun := vdfree_runs (v := v) h
  rw [if_pos hv] at hrun
  have hreset := resetVd_reset s v
  generalize resetVd s v = r at hrun hreset
  obtain ⟨hout, ⟨d, hd, -, hmeters⟩, -, -⟩ := hreset
  refine ⟨_, commands_done hrun (hout.trans (freeVd_out ..)), (freeVd_vd r v).trans ?_⟩
  rw [hd, ← hmeters]
  rfl

/-- No VD of that number exists: the command ends with status 1. -/
theorem vdreset_vdfree_absent (s : State) (req : Req) (v : Nat) (h : Commanded s req) (hv : isVd s v = false) :
    (∃ t, Commands (.vdreset req v) s t 1 0) ∧ ∃ t, Commands (.vdfree req v) s t 1 0 := by
  have hreset := vdreset_runs (v := v) h
  have hfree := vdfree_runs (v := v) h
  rw [hv, if_neg Bool.false_ne_true] at hreset hfree
  exact ⟨⟨_, commands_done hreset (OutKept.refl s)⟩, ⟨_, commands_done hfree (OutKept.refl s)⟩⟩

/-! GRANT_INSTALL and GRANT_REVOKE (R43, R44). -/

/-- The package with a grant in a slot of a VD. -/
def putGrant (s : State) (v slot : Nat) (g : Grant) : State := s.modVd v (fun d => { d with grants := d.grants.put slot g })

theorem putGrant_get (s : State) (v slot : Nat) (g : Grant) : ((putGrant s v slot g).vd v).grants.get? slot = some g :=
  (congrArg (fun d : VD => d.grants.get? slot) (State.vd_setVd ..)).trans (SMap.get?_put_self ..)

theorem grant_install_runs {s : State} {req : Req} {body : List Byte} {sigs : List (List Byte)} (h : Commanded s req) :
    exec (.grant_install req body sigs) s = did (sbDone (if (grantStatus s body sigs).1 = 0 then
      putGrant s (field (ofBytes 64 (slice body 0 8)) 0 10).toNat (field (ofBytes 64 (slice body 0 8)) 10 6).toNat (grantOf body) else s)
      (grantStatus s body sigs).1 (grantStatus s body sigs).2 []) := by
  change execGrantInstall req body sigs s = _
  unfold execGrantInstall
  exact command_run h _

theorem grant_install_completes (s : State) (req : Req) (body : List Byte) (sigs : List (List Byte)) (h : Commanded s req) :
    ∃ t, Commands (.grant_install req body sigs) s t (grantStatus s body sigs).1 (grantStatus s body sigs).2 ∧
      let v := (field (ofBytes 64 (slice body 0 8)) 0 10).toNat
      let slot := (field (ofBytes 64 (slice body 0 8)) 10 6).toNat
      (t.vd v).grants.get? slot = if (grantStatus s body sigs).1 = 0 then some (grantOf body) else (s.vd v).grants.get? slot := by
  have hrun := grant_install_runs (body := body) (sigs := sigs) h
  dsimp only
  split at hrun
  · rename_i hstatus
    rw [if_pos hstatus]
    exact ⟨_, commands_done hrun ⟨rfl, rfl, rfl⟩, putGrant_get s _ _ _⟩
  · rename_i hstatus
    rw [if_neg hstatus]
    exact ⟨_, commands_done hrun (OutKept.refl s), rfl⟩

/-- The package with a slot of a VD emptied. -/
def eraseGrant (s : State) (v slot : Nat) : State := s.modVd v (fun d => { d with grants := d.grants.erase slot })

theorem eraseGrant_vd (s : State) (v slot : Nat) : (eraseGrant s v slot).vd v = { s.vd v with grants := (s.vd v).grants.erase slot } :=
  State.vd_setVd ..

theorem grant_revoke_runs {s : State} {req : Req} {v slot : Nat} (h : Commanded s req) (hv : isVd s v = true) (hslot : slot < 64) :
    exec (.grant_revoke req v slot) s = did (sbDone (eraseGrant s v slot) 0 0 []) := by
  change execGrantRevoke req v slot s = _
  unfold execGrantRevoke
  rw [command_run h, if_neg (by simp [hv, Nat.not_le.mpr hslot])]
  rfl

theorem grant_revoke_completes (s : State) (req : Req) (v slot : Nat) (h : Commanded s req) (hv : isVd s v = true) (hslot : slot < 64) :
    ∃ t, Commands (.grant_revoke req v slot) s t 0 0 ∧ (t.vd v).grants.get? slot = none ∧
      ∀ k, k ≠ slot → (t.vd v).grants.get? k = (s.vd v).grants.get? k := by
  have hvd := eraseGrant_vd s v slot
  refine ⟨_, commands_done (grant_revoke_runs h hv hslot) ⟨rfl, rfl, rfl⟩, ?_, fun k hk => ?_⟩
  · exact (congrArg (fun d : VD => d.grants.get? slot) hvd).trans (SMap.get?_erase_self ..)
  · exact (congrArg (fun d : VD => d.grants.get? k) hvd).trans (SMap.get?_erase_ne _ hk)

/-! MIGOUT and the preparation of a stream (R375, R376). -/

/-- The package in which a MIGOUT runs: the VD is PAUSED, its warps are requested, and its stream is not ready. -/
def migrating (s : State) (v dest : Nat) : State :=
  let t := requestAll (dropSlices (s.modVd v (fun d => { d with state := 3 })) v) 2 (fun _ x => x.vd == v)
  { t with security := { t.security with
    busy := true, tickets := t.security.tickets + 1
    streams := t.security.streams ++ [⟨Config.ticket s.security.tickets, v, dest, true, false, false⟩] } }

theorem migrating_vd (s : State) (v dest : Nat) : (migrating s v dest).vd v = { s.vd v with state := 3 } := State.vd_setVd ..

theorem migout_runs {s : State} {req : Req} {v : Nat} (dest : Nat) (reachable : Bool) (h : Commanded s req) (hv : isVd s v = true)
    (hstate : (s.vd v).state ≠ 3) (hepisodes : ∀ e, e ∈ s.episodes → e.vd ≠ v)
    (hboxes : (List.range 9).any (fun d => (s.die d).mailboxes.any (fun e => e.2.vd == v && e.2.enable && e.2.bound)) = false) :
    exec (.migout req v dest reachable) s = did (if !reachable then sbDone s 3 0 [] else migrating s v dest) := by
  have he : s.episodes.any (fun e => e.vd == v) = false := List.any_eq_false.mpr (fun e he => by simpa using hepisodes e he)
  change execMigout req v dest reachable s = _
  unfold execMigout
  rw [command_run h]
  simp only [hv, hstate, he, hboxes, Bool.not_true, Bool.false_eq_true, or_false, if_false]
  rfl

theorem migout_completes (s : State) (req : Req) (v dest : Nat) (h : Commanded s req) (hv : isVd s v = true) (hstate : (s.vd v).state ≠ 3)
    (hepisodes : ∀ e, e ∈ s.episodes → e.vd ≠ v)
    (hboxes : (List.range 9).any (fun d => (s.die d).mailboxes.any (fun e => e.2.vd == v && e.2.enable && e.2.bound)) = false) :
    (∃ t, Completes (.migout req v dest true) s t ∧ t.security.busy = true ∧ (t.vd v).state = 3 ∧
      ∃ x, x ∈ t.security.streams ∧ x.vd = v ∧ x.peer = dest ∧ x.source = true ∧ x.ready = false) ∧
    ∃ t, Commands (.migout req v dest false) s t 3 0 ∧ (t.vd v).state = (s.vd v).state := by
  have hgo := migout_runs dest true h hv hstate hepisodes hboxes
  have hstop := migout_runs dest false h hv hstate hepisodes hboxes
  rw [if_neg (by simp)] at hgo
  rw [if_pos (by simp)] at hstop
  refine ⟨⟨_, completes_did hgo, rfl, congrArg VD.state (migrating_vd s v dest), ⟨Config.ticket s.security.tickets, v, dest, true, false, false⟩, ?_⟩,
    _, commands_done hstop (OutKept.refl s), rfl⟩
  exact ⟨List.mem_append_right _ (List.mem_singleton.mpr rfl), rfl, rfl, rfl, rfl⟩

/-- A line that is on its way home. -/
def OnWay (t : State) (l : WinLine) : Prop := ∃ b, b ∈ t.writeBacks ∧ b.vd = l.vd ∧ b.va = l.va

/-- A line is put on its way home under the next number. -/
def sendLine (s : State) (l : WinLine) : State :=
  { s with writeBacks := s.writeBacks ++ [{ l with id := s.cmdSerial }], cmdSerial := s.cmdSerial + 1 }

/-- Lines that go home leave the switches, and nothing else does. -/
theorem sendHome_switchLines (s : State) (ls : List WinLine) : (sendHome s ls).switchLines = s.switchLines.filter (fun l => !ls.contains l) :=
  foldl_keeps State.switchLines sendLine (fun _ _ => rfl) ls _

theorem sendLine_onWay (s : State) (l : WinLine) : OnWay (sendLine s l) l :=
  ⟨{ l with id := s.cmdSerial }, List.mem_append_right _ (List.mem_singleton.mpr rfl), rfl, rfl⟩

theorem OnWay.sendLine {s : State} {l : WinLine} (h : OnWay s l) (k : WinLine) : OnWay (sendLine s k) l := by
  obtain ⟨b, hb, heq⟩ := h
  exact ⟨b, List.mem_append_left _ hb, heq⟩

theorem OnWay.sendLines {s : State} {l : WinLine} (h : OnWay s l) (ls : List WinLine) : OnWay (ls.foldl Machine.sendLine s) l := by
  induction ls generalizing s with
  | nil => exact h
  | cons k ls ih => exact ih (h.sendLine k)

theorem sendLines_onWay (ls : List WinLine) (s : State) {l : WinLine} (h : l ∈ ls) : OnWay (ls.foldl sendLine s) l := by
  induction ls generalizing s with
  | nil => cases h
  | cons k ls ih =>
    rcases List.mem_cons.mp h with rfl | h
    · exact (sendLine_onWay s l).sendLines ls
    · exact ih _ h

theorem prepareStream_flushes {s : State} {x : Stream} (hx : s.security.streams.find? (fun x => x.source && !x.ready && drained s x.vd) = some x)
    (hl : ∃ l, l ∈ s.switchLines ∧ l.vd = x.vd) : prepareStream s = some (sendHome s (s.switchLines.filter (fun l => l.vd == x.vd))) := by
  obtain ⟨l, hmem, hvd⟩ := hl
  have hne : (s.switchLines.filter (fun l => l.vd == x.vd)).isEmpty = false :=
    List.isEmpty_eq_false_iff_exists_mem.mpr ⟨l, List.mem_filter.mpr ⟨hmem, by simp [hvd]⟩⟩
  simp [prepareStream, hx, hne]

theorem prepareStream_ready {s : State} {x : Stream} (hx : s.security.streams.find? (fun x => x.source && !x.ready && drained s x.vd) = some x)
    (hrest : atRest s x.vd = true) : prepareStream s = some (sbDone { s with security := { s.security with
      streams := s.security.streams.map (fun y => if y == x then { y with ready := true } else y) } } 0 0 (toBytes x.ticket 16)) := by
  simp only [atRest, Bool.and_eq_true, Bool.not_eq_true', List.any_append, Bool.or_eq_false_iff] at hrest
  obtain ⟨-, hlines, hbacks⟩ := hrest
  have hempty : s.switchLines.filter (fun l => l.vd == x.vd) = [] := by
    rw [List.filter_eq_nil_iff]
    exact fun l hl => by simpa using List.any_eq_false.mp hlines l hl
  simp [prepareStream, hx, hempty, hbacks]

theorem prepareStream_goes (s : State) (x : Stream)
    (hx : s.security.streams.find? (fun x => x.source && !x.ready && drained s x.vd) = some x) :
    ((∃ l, l ∈ s.switchLines ∧ l.vd = x.vd) → ∃ t, prepareStream s = some t ∧ (∀ l, l ∈ t.switchLines → l.vd ≠ x.vd) ∧
      ∀ l, l ∈ s.switchLines → l.vd = x.vd → ∃ b, b ∈ t.writeBacks ∧ b.vd = l.vd ∧ b.va = l.va) ∧
    (atRest s x.vd = true → ∃ t, prepareStream s = some t ∧ t.security.busy = false ∧ t.security.status = 0 ∧
      t.security.out = (toBytes x.ticket 16).take s.security.sboutLen.toNat ∧ ∃ y, y ∈ t.security.streams ∧ y.ticket = x.ticket ∧ y.ready = true) := by
  refine ⟨fun hl => ⟨_, prepareStream_flushes hx hl, fun l hmem hvd => ?_, fun l hmem hvd => ?_⟩,
    fun hrest => ⟨_, prepareStream_ready hx hrest, rfl, rfl, rfl, { x with ready := true }, ?_, rfl, rfl⟩⟩
  · rw [sendHome_switchLines] at hmem
    obtain ⟨hin, hout⟩ := List.mem_filter.mp hmem
    simp [hin, hvd] at hout
  · exact sendLines_onWay _ _ (List.mem_filter.mpr ⟨hmem, by simp [hvd]⟩)
  · exact List.mem_map.mpr ⟨x, List.mem_of_find?_eq_some hx, by simp⟩

/-! MIGIN (R375). -/

theorem hvEvent_out (s : State) (v gen kind : Nat) (bs : List Byte) : OutKept s (hvEvent s v gen kind bs) := by
  unfold hvEvent
  dsimp only
  split <;> exact ⟨rfl, rfl, rfl⟩

theorem hvEvent_vds (s : State) (v gen kind : Nat) (bs : List Byte) : (hvEvent s v gen kind bs).vds = s.vds := by
  unfold hvEvent
  dsimp only
  split <;> rfl

theorem hvEvent_inbound (s : State) (v gen kind : Nat) (bs : List Byte) : (hvEvent s v gen kind bs).inbound = s.inbound := by
  unfold hvEvent
  dsimp only
  split <;> rfl

theorem putImage_out (s : State) (k : Nat) (i : SliceImage) : OutKept s (putImage s k i) := by
  obtain ⟨hhost, hsbout, hlen⟩ := OutKept.offDies (modDies_offDies (List.range 9) (fun _ (x : Die) => { x with copy := { x.copy with
    bytes := graft x.copy.bytes (k * 2 ^ 32) (2 ^ 32) i.bytes, lbls := graft x.copy.lbls (k * 2 ^ 26) (2 ^ 26) i.lbls
    stamps := x.copy.stamps.dropRange (k * 2 ^ 30) (k * 2 ^ 30 + 2 ^ 30) } }) s)
  exact ⟨hhost, hsbout, hlen⟩

theorem OutKept.foldl {α : Type} (f : State → α → State) (h : ∀ s a, OutKept s (f s a)) (xs : List α) (s : State) :
    OutKept s (xs.foldl f s) := foldl_related OutKept.refl OutKept.trans f h xs s

/-- Entry `i` of a table moves, and what it names, by `below`. -/
def moveAt (src dst : List Nat) (table : Nat) (below : Nat → State → State) (s : State) (i : Nat) : State :=
  let a := table * 65536 + 16 * i
  let e := s.tableEntry a
  if !leafBit e 0 then s
  else
    let e := moveEntry src dst e
    let s := (List.range 9).foldl (fun s d => s.modDie d (fun x => { x with copy := { x.copy with bytes := writeBytes x.copy.bytes a (toBytes e 16) } })) s
    if leafBit e 1 then s else below (leafFrame e) s

theorem moveTables_zero (src dst : List Nat) (table : Nat) (s : State) :
    moveTables src dst 0 table s = (List.range 2048).foldl (moveAt src dst table (fun _ s => s)) s := rfl

theorem moveTables_succ (src dst : List Nat) (k table : Nat) (s : State) :
    moveTables src dst (k + 1) table s = (List.range 2048).foldl (moveAt src dst table (moveTables src dst k)) s := rfl

theorem moveAt_offDies {src dst : List Nat} {table : Nat} {below : Nat → State → State} (h : ∀ f s, (below f s).offDies = s.offDies) (s : State)
    (i : Nat) : (moveAt src dst table below s i).offDies = s.offDies := by
  unfold moveAt
  dsimp only
  split
  · rfl
  · split
    · exact modDies_offDies ..
    · exact (h ..).trans (modDies_offDies ..)

/-- The tables of a VD move within the dies. -/
theorem moveTables_offDies (src dst : List Nat) (level table : Nat) (s : State) : (moveTables src dst level table s).offDies = s.offDies := by
  induction level generalizing table s with
  | zero =>
    rw [moveTables_zero]
    exact foldl_keeps State.offDies _ (moveAt_offDies (fun _ _ => rfl)) _ s
  | succ k ih =>
    rw [moveTables_succ]
    exact foldl_keeps State.offDies _ (moveAt_offDies ih) _ s

/-- The root registers of a VD whose slices have moved. -/
def movedRoots (p : Parcel) (slices : List Nat) : List DWord :=
  p.vd.roots.map (fun r => if r.getLsbD 0 then
    BitVec.ofNat 64 (moveFrame p.slices slices (r.toNat / 65536) * 65536 + r.toNat % 65536) else r)

/-- The VD that a stream leaves, over the one that stood there. -/
def receivedVd (a : MigInArgs) (slices : List Nat) (p : Parcel) (old : VD) : VD :=
  let parts := a.partitions.foldl (fun m e => setAt m e.1 (BitVec.ofNat 16 (256 + e.2 % 256))) (List.replicate 16 (0#16 : BitVec 16))
  { p.vd with state := 2, roots := movedRoots p slices, parts := parts, requester := old.requester, window := old.window, frozen := old.frozen }

/-- The images of a stream and its VD stand in the package. -/
def receivedImages (s : State) (a : MigInArgs) (slices : List Nat) (p : Parcel) : State :=
  let s := ((slices.zip p.images).foldl (fun s k => putImage s k.1 k.2) s)
  s.setVd a.vd (receivedVd a slices p (s.vd a.vd))

/-- The tables of a VD move to its slices. -/
def moveRoots (p : Parcel) (slices : List Nat) (s : State) : State :=
  (movedRoots p slices).foldl (fun s r => if r.getLsbD 0 then moveTables p.slices slices 3 (r.toNat / 65536) s else s) s

/-- The grids, blocks and warps of a stream stand in the package, and the stream is used. -/
def receivedWork (v : Nat) (p : Parcel) (s : State) : State :=
  { s with
    grids := p.grids.foldl (fun m e => m.put e.1 { e.2 with vd := v }) s.grids
    blocks := p.blocks.foldl (fun m e => m.put e.1 { e.2 with away := true }) s.blocks
    warps := p.warps.foldl (fun m e => m.put e.1 { e.2 with vd := v }) s.warps
    inbound := s.inbound.filter (fun x => x.ticket != p.ticket)
    security := { s.security with streams := s.security.streams ++ [⟨p.ticket, v, 0, false, true, true⟩] } }

theorem receive_eq (s : State) (a : MigInArgs) (slices : List Nat) (p : Parcel) :
    receive s a slices p = migrated (receivedWork a.vd p (moveRoots p slices (receivedImages s a slices p))) a.vd p.ticket := rfl

theorem moveRoots_offDies (p : Parcel) (slices : List Nat) (s : State) : (moveRoots p slices s).offDies = s.offDies := by
  refine foldl_keeps State.offDies _ (fun s r => ?_) _ s
  split
  · exact moveTables_offDies ..
  · rfl

theorem receivedImages_out (s : State) (a : MigInArgs) (slices : List Nat) (p : Parcel) : OutKept s (receivedImages s a slices p) := by
  have h := OutKept.foldl (fun s (k : Nat × SliceImage) => putImage s k.1 k.2) (fun s k => putImage_out s k.1 k.2) (slices.zip p.images) s
  exact h.trans ⟨rfl, rfl, rfl⟩

theorem receivedImages_state (s : State) (a : MigInArgs) (slices : List Nat) (p : Parcel) : ((receivedImages s a slices p).vd a.vd).state = 2 :=
  congrArg VD.state (State.vd_setVd ..)

theorem receivedWork_out (v : Nat) (p : Parcel) (s : State) : OutKept s (receivedWork v p s) := ⟨rfl, rfl, rfl⟩

theorem receivedWork_inbound {v : Nat} {p x : Parcel} {s : State} (h : x ∈ (receivedWork v p s).inbound) : x.ticket ≠ p.ticket := by
  simpa using (List.mem_filter.mp h).2

theorem migrated_out (s : State) (v : Nat) (t : BitVec 128) : OutKept s (migrated s v t) := hvEvent_out ..

theorem receive_received (s : State) (a : MigInArgs) (slices : List Nat) (p : Parcel) :
    OutKept s (receive s a slices p) ∧ ((receive s a slices p).vd a.vd).state = 2 ∧ ∀ x, x ∈ (receive s a slices p).inbound → x.ticket ≠ p.ticket := by
  rw [receive_eq]
  have himages := receivedImages_out s a slices p
  have hstate := receivedImages_state s a slices p
  generalize receivedImages s a slices p = r at himages hstate ⊢
  have hroots := moveRoots_offDies p slices r
  have hvds : (moveRoots p slices r).vds = r.vds := (congrArg State.vds hroots :)
  have hout := himages.trans (OutKept.offDies hroots)
  generalize moveRoots p slices r = m at hvds hout ⊢
  refine ⟨(hout.trans (receivedWork_out ..)).trans (migrated_out ..), ?_, fun x hx => ?_⟩
  · simp only [State.vd, migrated, hvEvent_vds] at hstate ⊢
    exact (congrArg (fun y => ((SMap.get? y a.vd).getD VD.free).state) hvds).trans hstate
  · simp only [migrated, hvEvent_inbound] at hx
    exact receivedWork_inbound hx

/-- The slices of a MIGIN that the target VD owns. -/
def ownedSlices (s : State) (a : MigInArgs) : List Nat := a.slices.filter (fun k => decide (k < 288) && s.ownsSlice a.vd (k * 2 ^ 32))

theorem migin_runs {s : State} {req : Req} {a : MigInArgs} {p : Parcel} (h : Commanded s req)
    (hp : s.inbound.find? (fun p => p.ticket == a.ticket) = some p) (hstream : stream? s a.ticket false = none) (hvd : isVd s a.vd = false)
    (hlt : a.vd < 1024) (hroom : p.images.length ≤ (ownedSlices s a).length) :
    exec (.migin req a) s = did (if !a.intact then sbDone s 6 0 [] else sbDone (receive s a (ownedSlices s a) p) 0 0 []) := by
  change execMigin req a s = _
  unfold execMigin
  rw [command_run h]
  dsimp only
  rw [hp, hstream]
  dsimp only
  rw [hvd, if_neg]
  · rfl
  · simpa using ⟨hlt, hroom⟩

theorem migin_completes (s : State) (req : Req) (a : MigInArgs) (p : Parcel) (h : Commanded s req)
    (hp : s.inbound.find? (fun p => p.ticket == a.ticket) = some p) (hstream : stream? s a.ticket false = none) (hvd : isVd s a.vd = false)
    (hlt : a.vd < 1024) (hroom : p.images.length ≤ (ownedSlices s a).length) :
    (a.intact = true → ∃ t, Commands (.migin req a) s t 0 0 ∧ (t.vd a.vd).state = 2 ∧ ∀ x, x ∈ t.inbound → x.ticket ≠ p.ticket) ∧
    (a.intact = false → ∃ t, Commands (.migin req a) s t 6 0) := by
  have hrun := migin_runs h hp hstream hvd hlt hroom
  refine ⟨fun hi => ?_, fun hi => ?_⟩
  · rw [hi, if_neg (by simp)] at hrun
    have hreceived := receive_received s a (ownedSlices s a) p
    generalize receive s a (ownedSlices s a) p = r at hrun hreceived
    obtain ⟨hout, hstate, hinbound⟩ := hreceived
    exact ⟨_, commands_done hrun hout, hstate, hinbound⟩
  · rw [hi, if_pos (by simp)] at hrun
    exact ⟨_, commands_done hrun (OutKept.refl s)⟩

/-! MIGABORT, TICKET_EXPIRY and MIGRATION_COMPLETE (R375, R376). -/

theorem resumeSource_quiet (s : State) (x : Stream) : Quiet s (resumeSource s x) := Quiet.of_same rfl rfl rfl rfl rfl

theorem resumeSource_out (s : State) (x : Stream) : OutKept s (resumeSource s x) := ⟨rfl, rfl, rfl⟩

theorem resumeSource_gone (s : State) (x : Stream) : x ∉ (resumeSource s x).security.streams := by
  intro h
  simpa using (List.mem_filter.mp h).2

theorem resumeSource_resumes (s : State) (x : Stream) (h : (s.vd x.vd).state = 3) : ((resumeSource s x).vd x.vd).state = 2 := by
  refine (congrArg VD.state (State.vd_setVd ..)).trans ?_
  exact congrArg VD.state (if_pos h)

theorem migabort_runs {s : State} {req : Req} {ticket : BitVec 128} {x : Stream} (h : Commanded s req) (hx : stream? s ticket true = some x) :
    exec (.migabort req ticket) s = did (sbDone (resumeSource s x) 0 0 []) := by
  change execMigabort req ticket s = _
  unfold execMigabort
  rw [command_run h, hx]

theorem ticket_expiry_runs {s : State} {ticket : BitVec 128} {x : Stream} (hx : stream? s ticket true = some x) (hready : x.ready = true) :
    exec (.ticket_expiry ticket) s = did (resumeSource s x) := by
  change execTicketExpiry ticket s = _
  unfold execTicketExpiry
  rw [hx]
  exact if_pos hready

/-- The source of a migration that is complete: its slices are marked, and its work and its stream are gone. -/
def sentAway (s : State) (ticket : BitVec 128) (x : Stream) : State :=
  let p := parcelOf s ticket x.vd
  let s := p.slices.foldl markSlice (migrated s x.vd ticket)
  { s with
    outbound := s.outbound ++ [p], warps := s.warps.filter (fun e => e.2.vd != x.vd)
    blocks := s.blocks.filter (fun e => !p.blocks.any (fun b => b.1 == e.1)), grids := s.grids.filter (fun e => e.2.vd != x.vd)
    security := { s.security with streams := s.security.streams.filter (fun y => y != x) } }

theorem migration_complete_runs {s : State} {ticket : BitVec 128} {x : Stream} (hx : stream? s ticket true = some x) (hready : x.ready = true)
    (hrest : atRest s x.vd = true) : exec (.migration_complete ticket) s = did (freeVd (sentAway s ticket x) x.vd) := by
  change execMigrationComplete ticket s = _
  unfold execMigrationComplete
  rw [hx]
  dsimp only
  rw [hready, hrest, if_neg (by simp)]
  rfl

/-- Marking a slice leaves the bytes of every other slice, and of host memory. -/
theorem markSlice_readMem (s : State) (k d : Nat) (l : Loc) (h : sliceOf l.pa ≠ k) : (markSlice s k).readMem d l = s.readMem d l := by
  have hframe : frameOf l.pa < k * 65536 ∨ k * 65536 + 65536 ≤ frameOf l.pa := by
    simp only [sliceOf, frameOf] at h ⊢
    omega
  have hline : granule l.pa < k * 2 ^ 26 ∨ k * 2 ^ 26 + 2 ^ 26 ≤ granule l.pa := by
    simp only [sliceOf, granule] at h ⊢
    omega
  have hscrubbed : (markSlice s k).scrubbed l.pa = s.scrubbed l.pa := by
    simp only [State.scrubbed, markSlice]
    rw [SMap.get_dropRange _ _ hframe, SMap.get_dropRange _ _ hline]
  simp only [State.readMem, hscrubbed]
  rfl

theorem markSlices_readMem (ks : List Nat) (s : State) (d : Nat) (l : Loc) (h : sliceOf l.pa ∉ ks) :
    (ks.foldl markSlice s).readMem d l = s.readMem d l := by
  induction ks generalizing s with
  | nil => rfl
  | cons k ks ih =>
    obtain ⟨hk, hks⟩ := not_or.mp (fun hmem => h (List.mem_cons.mpr hmem))
    exact (ih _ hks).trans (markSlice_readMem s k d l hk)

theorem migrated_quiet (s : State) (v : Nat) (t : BitVec 128) : Quiet s (migrated s v t) := by
  unfold migrated hvEvent
  dsimp only
  split <;> exact Quiet.of_same rfl rfl rfl rfl rfl

theorem markSlices_keeps (ks : List Nat) (s : State) :
    (ks.foldl markSlice s).vds = s.vds ∧ (ks.foldl markSlice s).outbound = s.outbound :=
  ⟨foldl_keeps State.vds markSlice (fun _ _ => rfl) ks s, foldl_keeps State.outbound markSlice (fun _ _ => rfl) ks s⟩

theorem migrated_outbound (s : State) (v : Nat) (t : BitVec 128) : (migrated s v t).outbound = s.outbound := by
  unfold migrated hvEvent
  dsimp only
  split <;> rfl

/-- What a completed migration leaves at the source. -/
structure SentAway (s : State) (ticket : BitVec 128) (x : Stream) (t : State) : Prop where
  vds : t.vds = s.vds
  outbound : t.outbound = s.outbound ++ [parcelOf s ticket x.vd]
  warps : ∀ e, e ∈ t.warps → e.2.vd ≠ x.vd
  memory : ∀ d l, sliceOf l.pa ∉ slicesOf s x.vd → t.readMem d l = s.readMem d l

theorem sentAway_sent (s : State) (ticket : BitVec 128) (x : Stream) : SentAway s ticket x (sentAway s ticket x) := by
  obtain ⟨hvds, hout⟩ := markSlices_keeps (slicesOf s x.vd) (migrated s x.vd ticket)
  refine ⟨hvds.trans (hvEvent_vds ..), ?_, fun e he => ?_, fun d l hl => ?_⟩
  · exact congrArg (fun o => o ++ [parcelOf s ticket x.vd]) (hout.trans (migrated_outbound ..))
  · simpa using (List.mem_filter.mp he).2
  · exact (markSlices_readMem _ _ d l hl).trans ((migrated_quiet ..).memory d l id)

theorem stream_ends (s : State) (req : Req) (ticket : BitVec 128) (x : Stream) (hx : stream? s ticket true = some x) :
    (Commanded s req → ∃ t, Commands (.migabort req ticket) s t 0 0 ∧ x ∉ t.security.streams ∧ ((s.vd x.vd).state = 3 → (t.vd x.vd).state = 2)) ∧
    (x.ready = true → ∃ t, Completes (.ticket_expiry ticket) s t ∧ Quiet s t ∧ x ∉ t.security.streams ∧ ((s.vd x.vd).state = 3 → (t.vd x.vd).state = 2)) ∧
    (x.ready = true → atRest s x.vd = true → ∃ t, Completes (.migration_complete ticket) s t ∧ t.vd x.vd = { VD.free with meters := (s.vd x.vd).meters } ∧
      t.outbound = s.outbound ++ [parcelOf s ticket x.vd] ∧ (∀ e, e ∈ t.warps → e.2.vd ≠ x.vd) ∧
      ∀ d l, sliceOf l.pa ∉ slicesOf s x.vd → t.readMem d l = s.readMem d l) := by
  refine ⟨fun h => ?_, fun hready => ?_, fun hready hrest => ?_⟩
  · exact ⟨_, commands_done (migabort_runs h hx) (resumeSource_out s x), resumeSource_gone s x, resumeSource_resumes s x⟩
  · exact ⟨_, completes_did (ticket_expiry_runs hx hready), (resumeSource_quiet s x).trans (report_quiet ..), resumeSource_gone s x,
      resumeSource_resumes s x⟩
  · have hrun := migration_complete_runs hx hready hrest
    have hsent := sentAway_sent s ticket x
    generalize sentAway s ticket x = r at hrun hsent
    obtain ⟨hvds, hout, hwarps, hmem⟩ := hsent
    refine ⟨_, completes_did hrun, (freeVd_vd r x.vd).trans ?_, hout, hwarps, hmem⟩
    simp [State.vd, hvds]

/-! MSNAP, ATTEST, FWLOAD, LCSET and DBGATTACH (R380, R403, R407 to R409). -/

theorem msnap_completes (s : State) (req : Req) (v : Nat) (nonce : List Byte) (h : Commanded s req) (hv : isVd s v = true) :
    ∃ t, Commands (.msnap req v nonce) s t 0 0 ∧
      t.security.out = (snapBody s v nonce ++ Config.attestSign (snapBody s v nonce)).take s.security.sboutLen.toNat := by
  have hrun : exec (.msnap req v nonce) s = did (sbDone s 0 0 (snapBody s v nonce ++ Config.attestSign (snapBody s v nonce))) := by
    change execMsnap req v nonce s = _
    unfold execMsnap
    rw [command_run h, hv, if_neg (by simp)]
  exact ⟨_, commands_done hrun (OutKept.refl s), rfl⟩

theorem attest_completes (s : State) (req : Req) (nonce : List Byte) (h : Commanded s req) :
    ∃ t, Commands (.attest req nonce) s t 0 0 ∧ t.security.nonce = slice nonce 0 32 ∧
      t.security.out = (attestBody s nonce ++ Config.attestSign (attestBody s nonce)).take s.security.sboutLen.toNat := by
  have hrun : exec (.attest req nonce) s = did (sbDone { s with security := { s.security with nonce := slice nonce 0 32 } } 0 0
      (attestBody s nonce ++ Config.attestSign (attestBody s nonce))) := by
    change execAttest req nonce s = _
    unfold execAttest
    rw [command_run h]
  exact ⟨_, commands_done hrun ⟨rfl, rfl, rfl⟩, rfl, rfl⟩

/-- The package with an image installed and measured. -/
def installImage (s : State) (kind : Nat) (image : List Byte) : State :=
  { s with security := { s.security with
    meas := setAt s.security.meas kind (shake256 (((s.security.meas[kind]?).getD (zeros 32)) ++ shake256 image))
    loaded := s.security.loaded ++ [kind] } }

theorem fwload_runs {s : State} {req : Req} {kind : Nat} {image sig : List Byte} (h : Commanded s req) (hphase : s.package.phase = 3)
    (hfirst : kind = 0 ∨ s.security.loaded.contains 0 = true) (hkind : kind < 4) :
    exec (.fwload req kind image sig) s = did (if Config.sigValid Config.imageKey image sig then sbDone (installImage s kind image) 0 0 []
      else sbDone s 8 0 []) := by
  change execFwload req kind image sig s = _
  unfold execFwload
  have hgo : ¬ (s.package.phase ≠ 3 ∨ (kind ≠ 0 ∧ (!s.security.loaded.contains 0) = true)) := by
    rintro (hp | ⟨hk, hc⟩)
    · exact hp hphase
    · rw [hfirst.resolve_left hk] at hc
      cases hc
  rw [command_run h, if_neg hgo]
  cases Config.sigValid Config.imageKey image sig
  · rw [if_pos (by simp)]
    rfl
  · rw [if_neg (by simpa using hkind)]
    rfl

theorem fwload_outside {s : State} {req : Req} {kind : Nat} {image sig : List Byte} (h : Commanded s req) (hphase : s.package.phase ≠ 3) :
    exec (.fwload req kind image sig) s = did (sbDone s 9 0 []) := by
  change execFwload req kind image sig s = _
  unfold execFwload
  rw [command_run h, if_pos (Or.inl hphase)]

theorem fwload_completes (s : State) (req : Req) (kind : Nat) (image sig : List Byte) (h : Commanded s req) :
    (s.package.phase = 3 → (kind = 0 ∨ s.security.loaded.contains 0 = true) → kind < 4 →
      let good := Config.sigValid Config.imageKey image sig
      ∃ t, Commands (.fwload req kind image sig) s t (if good then 0 else 8) 0 ∧
        t.security.loaded = if good then s.security.loaded ++ [kind] else s.security.loaded) ∧
    (s.package.phase ≠ 3 → ∃ t, Commands (.fwload req kind image sig) s t 9 0 ∧ t.security.loaded = s.security.loaded) := by
  refine ⟨fun hphase hfirst hkind => ?_, fun hphase => ⟨_, commands_done (fwload_outside h hphase) (OutKept.refl s), rfl⟩⟩
  have hrun := fwload_runs (image := image) (sig := sig) h hphase hfirst hkind
  dsimp only
  split
  · rename_i hgood
    rw [if_pos hgood] at hrun
    exact ⟨_, commands_done hrun ⟨rfl, rfl, rfl⟩, rfl⟩
  · rename_i hbad
    rw [if_neg hbad] at hrun
    exact ⟨_, commands_done hrun (OutKept.refl s), rfl⟩

/-- The package while LCSET waits for every frame to be cleared. -/
def advancing (s : State) (target : Nat) : State :=
  { wipe s with security := { (wipe s).security with busy := true, next := some target } }

/-- After the wipe every frame is unscrubbed and reads as zero (R374, R408). -/
theorem wipe_readMem (s : State) (d : Nat) (l : Loc) (h : l.host = false) : (wipe s).readMem d l = 0#8 := by
  have hs : (wipe s).scrubbed l.pa = false := rfl
  simp [State.readMem, h, hs]

theorem lcset_runs {s : State} {req : Req} {target : Nat} {sig : List Byte} (h : Commanded s req)
    (hmay : mayAdvance s.security.life target = true) (hnonce : s.security.nonce ≠ []) :
    exec (.lcset req target s.security.nonce sig) s =
      did (if Config.sigValid Config.lifeKey (slice packageId 0 32 ++ le 1 target ++ s.security.nonce) sig = true then advancing s target
        else sbDone s 5 0 []) := by
  change execLcset req target s.security.nonce sig s = _
  unfold execLcset
  rw [command_run h]
  dsimp only
  rw [hmay, if_neg (by simp)]
  cases Config.sigValid Config.lifeKey (slice packageId 0 32 ++ le 1 target ++ s.security.nonce) sig
  · rw [if_pos (by simp)]
    rfl
  · rw [if_neg (by simpa using hnonce)]
    rfl

theorem lcset_refused {s : State} {req : Req} {target : Nat} {nonce sig : List Byte} (h : Commanded s req)
    (hmay : mayAdvance s.security.life target = false) : exec (.lcset req target nonce sig) s = did (sbDone s 10 0 []) := by
  change execLcset req target nonce sig s = _
  unfold execLcset
  rw [command_run h]
  dsimp only
  rw [hmay, if_pos (by simp)]

theorem lcset_completes (s : State) (req : Req) (target : Nat) (nonce sig : List Byte) (h : Commanded s req) :
    (mayAdvance s.security.life target = true → nonce = s.security.nonce → nonce ≠ [] →
      if Config.sigValid Config.lifeKey (slice packageId 0 32 ++ le 1 target ++ nonce) sig = true then
        ∃ t, Completes (.lcset req target nonce sig) s t ∧ t.security.busy = true ∧ t.security.next = some target ∧
          t.security.life = s.security.life ∧ t.warps = [] ∧ t.blocks = [] ∧ t.quads = [] ∧ t.vds = [] ∧
          ∀ d l, l.host = false → t.readMem d l = 0#8
      else ∃ t, Commands (.lcset req target nonce sig) s t 5 0 ∧ t.security.life = s.security.life) ∧
    (mayAdvance s.security.life target = false → ∃ t, Commands (.lcset req target nonce sig) s t 10 0 ∧ t.security.life = s.security.life) := by
  refine ⟨fun hmay hsame hnonce => ?_, fun hmay => ⟨_, commands_done (lcset_refused h hmay) (OutKept.refl s), rfl⟩⟩
  subst hsame
  have hrun := lcset_runs (sig := sig) h hmay hnonce
  split
  · rename_i hgood
    rw [if_pos hgood] at hrun
    exact ⟨_, completes_did hrun, rfl, rfl, rfl, rfl, rfl, rfl, rfl, fun d l hl => wipe_readMem s d l hl⟩
  · rename_i hbad
    rw [if_neg hbad] at hrun
    exact ⟨_, commands_done hrun (OutKept.refl s), rfl⟩

/-- The package with a VD's debug bit. -/
def setDebug (s : State) (v : Nat) (enable : Bool) : State := s.modVd v (fun x => { x with debug := enable })

theorem setDebug_debug (s : State) (v : Nat) (enable : Bool) : ((setDebug s v enable).vd v).debug = enable :=
  congrArg VD.debug (State.vd_setVd ..)

theorem dbgattach_refused {s : State} {req : Req} {v : Nat} {enable : Bool} {sigs : List (List Byte)} (h : Commanded s req) (hv : isVd s v = true)
    (hlife : s.security.life = 3) : exec (.dbgattach req v enable sigs) s = did (sbDone s 10 0 []) := by
  change execDbgattach req v enable sigs s = _
  unfold execDbgattach
  rw [command_run h]
  dsimp only
  rw [hv, if_neg (by simp), if_pos hlife]

/-- Before DEPLOYED no owner signs; in DEPLOYED every owner has signed. -/
theorem dbgattach_runs {s : State} {req : Req} {v : Nat} {enable : Bool} {sigs : List (List Byte)} (h : Commanded s req) (hv : isVd s v = true)
    (hsigned : s.security.life < 2 ∨ (s.security.life = 2 ∧ sigs.length = (s.vd v).keys.length ∧
      badSigner (s.vd v).keys (le 2 v ++ le 6 (s.vd v).created ++ le 1 (if enable then 1 else 0)) (((s.vd v).keys.map (fun e => e.1)).zip sigs) = none)) :
    exec (.dbgattach req v enable sigs) s = did (sbDone (setDebug s v enable) 0 0 []) := by
  change execDbgattach req v enable sigs s = _
  unfold execDbgattach
  rw [command_run h]
  dsimp only
  rw [hv, if_neg (by simp)]
  rcases hsigned with hlife | ⟨hlife, hlen, hsig⟩
  · rw [if_neg (by omega), if_pos (by omega)]
    rfl
  · rw [if_neg (by omega), if_neg (by omega), if_neg (by simp [hlen]), hsig]
    rfl

theorem dbgattach_completes (s : State) (req : Req) (v : Nat) (enable : Bool) (sigs : List (List Byte)) (h : Commanded s req) (hv : isVd s v = true) :
    (s.security.life = 3 → ∃ t, Commands (.dbgattach req v enable sigs) s t 10 0 ∧ (t.vd v).debug = (s.vd v).debug) ∧
    (s.security.life < 2 → ∃ t, Commands (.dbgattach req v enable sigs) s t 0 0 ∧ (t.vd v).debug = enable) ∧
    (s.security.life = 2 → sigs.length = (s.vd v).keys.length →
      badSigner (s.vd v).keys (le 2 v ++ le 6 (s.vd v).created ++ le 1 (if enable then 1 else 0)) (((s.vd v).keys.map (fun e => e.1)).zip sigs) = none →
      ∃ t, Commands (.dbgattach req v enable sigs) s t 0 0 ∧ (t.vd v).debug = enable) := by
  refine ⟨fun hlife => ⟨_, commands_done (dbgattach_refused h hv hlife) (OutKept.refl s), rfl⟩, fun hlife => ?_, fun hlife hlen hsig => ?_⟩
  · exact ⟨_, commands_done (dbgattach_runs h hv (.inl hlife)) ⟨rfl, rfl, rfl⟩, setDebug_debug s v enable⟩
  · exact ⟨_, commands_done (dbgattach_runs h hv (.inr ⟨hlife, hlen, hsig⟩)) ⟨rfl, rfl, rfl⟩, setDebug_debug s v enable⟩

/-- Settles O55: each command runs (`command_run`), its effect leaves host memory and SBOUT (`OutKept`), and its end writes SBOUT's bytes alone
(`commands_done`). -/
theorem securityCommands : Obligations.SecurityCommands := by
  unfold Obligations.SecurityCommands
  exact ⟨vdcreate_completes,
    fun s req v h => ⟨fun hv => ⟨vdreset_completes s req v h hv, vdfree_completes s req v h hv⟩, vdreset_vdfree_absent s req v h⟩,
    grant_install_completes, grant_revoke_completes, migout_completes, prepareStream_goes, migin_completes, stream_ends, msnap_completes,
    attest_completes, fwload_completes, lcset_completes, dbgattach_completes⟩

end Sys2Proof.Machine
end

section
/-! SUPPORT. Calm steps: what changes of a warp at most its flags, queues and waiting deliveries, and of memory at most named bytes. -/

namespace Sys2Proof.Machine

open Sys2Proof

/-- A warp without its flags, its queues and the delivery faults that wait. -/
def Warp.bare (x : Warp) : Warp := { x with flags := 0#8, flagLabel := 0#8, queues := [], deliveries := [] }

/-- A field that is none of those. -/
theorem Warp.bare_field {α : Type} {x y : Warp} (h : x.bare = y.bare) (f : Warp → α) (hf : ∀ z : Warp, f z.bare = f z) : f x = f y := by
  rw [← hf x, h, hf y]

theorem Warp.bare_alike {x y : Warp} (h : x.bare = y.bare) : x.Alike y :=
  ⟨fun g => Warp.bare_field h (fun z => z.reg g) (fun _ => by cases g <;> rfl), fun n => Warp.bare_field h (fun z => z.mask n) (fun _ => rfl),
    Warp.bare_field h Warp.specials (fun _ => rfl)⟩

/-- `t` differs from `s` at most in the flags, queues and deliveries of warps, in the bytes `M` as each die reads them, and in what is
neither a warp nor a byte. -/
structure Touches (M : Nat → Loc → Prop) (s t : State) : Prop where
  warps : ∀ w, (t.warp w).bare = (s.warp w).bare
  memory : ∀ d l, ¬ M d l → t.readMem d l = s.readMem d l

/-- No byte at all. -/
def noByte (_ : Nat) (_ : Loc) : Prop := False

/-- `Touches` of no byte. -/
abbrev Calm : State → State → Prop := Touches noByte

section
variable {M N : Nat → Loc → Prop} {s t r : State}

theorem Touches.refl (s : State) : Touches M s s := ⟨fun _ => rfl, fun _ _ _ => rfl⟩

theorem Touches.trans (h : Touches M s t) (h' : Touches M t r) : Touches M s r :=
  ⟨fun w => (h'.warps w).trans (h.warps w), fun d l hl => (h'.memory d l hl).trans (h.memory d l hl)⟩

theorem Touches.mono (h : Touches M s t) (hm : ∀ d l, M d l → N d l) : Touches N s t :=
  ⟨h.warps, fun d l hl => h.memory d l (fun hm' => hl (hm d l hm'))⟩

theorem Touches.of_calm (h : Calm s t) : Touches M s t := h.mono (fun _ _ => False.elim)

/-- A calm step before one that touches bytes, and after it. -/
theorem Touches.after (h : Calm s t) (h' : Touches M t r) : Touches M s r := (Touches.of_calm h).trans h'
theorem Touches.before (h : Touches M s t) (h' : Calm t r) : Touches M s r := h.trans (Touches.of_calm h')

theorem Touches.foldl {α : Type} (f : State → α → State) (xs : List α) (s : State) (h : ∀ s a, Touches M s (f s a)) :
    Touches M s (xs.foldl f s) := foldl_related Touches.refl Touches.trans f h xs s

theorem Touches.foldPair {α β : Type} (g : β × State → α → β × State) (h : ∀ p a, Touches M p.2 (g p a).2) (xs : List α) (p : β × State) :
    Touches M p.2 (xs.foldl g p).2 := by
  induction xs generalizing p with
  | nil => exact Touches.refl _
  | cons a xs ih => exact (h p a).trans (ih _)

theorem Touches.frame (h : Touches M s t) : Frame (fun _ _ => False) (fun _ _ => False) (fun _ => False) M s t :=
  ⟨fun w g _ => (Warp.bare_alike (h.warps w)).regs g, fun w n _ => (Warp.bare_alike (h.warps w)).masks n,
    fun w _ => (Warp.bare_alike (h.warps w)).specials, h.memory⟩

theorem Calm.quiet (h : Calm s t) : Quiet s t := h.frame

theorem Calm.memory_eq (h : Calm s t) (d : Nat) (l : Loc) : t.readMem d l = s.readMem d l := h.memory d l id

theorem Calm.of_same (hw : t.warps = s.warps) (hd : t.dies = s.dies) (hh : t.hostMem = s.hostMem) (hc : t.cleared = s.cleared)
    (hl : t.lines = s.lines) : Calm s t :=
  ⟨fun w => by simp [State.warp, hw], fun d l _ => readMem_congr hd hh hc hl d l⟩

theorem Near.calm (h : Near s t) : Calm s t := by
  refine ⟨fun w => h.field Warp.bare (fun _ => rfl) w, fun d l _ => readMem_congr h.dies ?_ ?_ ?_ d l⟩
  · simpa using congrArg State.hostMem h.state
  · simpa using congrArg State.cleared h.state
  · simpa using congrArg State.lines h.state

end

/-! Parts of the package. -/

theorem setWarp_calm (s : State) (w : Nat) {x : Warp} (h : x.bare = (s.warp w).bare) : Calm s (s.setWarp w x) := by
  refine ⟨fun k => ?_, fun d l _ => readMem_congr rfl rfl rfl rfl d l⟩
  rw [State.warp_setWarp_eq]
  split
  · rename_i hk; rw [hk, h]
  · rfl

theorem setVd_calm (s : State) (v : Nat) (x : VD) : Calm s (s.setVd v x) := Calm.of_same rfl rfl rfl rfl rfl
theorem setGrid_calm (s : State) (g : Nat) (x : Grid) : Calm s (s.setGrid g x) := Calm.of_same rfl rfl rfl rfl rfl
theorem setBlock_calm (s : State) (g b : Nat) (x : Block) : Calm s (s.setBlock g b x) := Calm.of_same rfl rfl rfl rfl rfl
theorem setQuad_calm (s : State) (q : Nat) (x : Quad) : Calm s (s.setQuad q x) := Calm.of_same rfl rfl rfl rfl rfl
theorem setCore_calm (s : State) (c : Nat) (x : Core) : Calm s (s.setCore c x) := Calm.of_same rfl rfl rfl rfl rfl
theorem flights_calm (s : State) (fs : List Flight) : Calm s { s with flights := fs } := Calm.of_same rfl rfl rfl rfl rfl
theorem cmds_calm (s : State) (cs : SMap Cmd) : Calm s { s with cmds := cs } := Calm.of_same rfl rfl rfl rfl rfl
theorem report_calm (s : State) (x : Report) : Calm s { s with report := x } := Calm.of_same rfl rfl rfl rfl rfl

/-- The bytes that a die reads after another die, or its copy's bytes, were set. -/
theorem setDie_readMem (s : State) (d : Nat) (x : Die) (k : Nat) (l : Loc)
    (h : k = d → l.host = false → readByte x.copy.bytes l.pa = readByte (s.die d).copy.bytes l.pa) : (s.setDie d x).readMem k l = s.readMem k l := by
  have hs : (s.setDie d x).scrubbed l.pa = s.scrubbed l.pa := by simp [State.scrubbed]
  by_cases hl : l.host = true
  · simp [State.readMem, State.copyAt, hl]
  · have hh : l.host = false := by simpa using hl
    simp only [State.readMem, State.copyAt, hs, hh, Bool.false_eq_true, false_or, if_false]
    split
    · by_cases hk : k = d
      · subst hk
        by_cases hd : k < 9
        · rw [State.die_setDie _ _ hd, h rfl hh]
        · simp [State.setDie, hd]
      · rw [State.die_setDie_ne _ _ hk]
    · rfl

theorem setDie_touches (s : State) (d : Nat) (x : Die) {M : Nat → Loc → Prop}
    (h : ∀ l, ¬ M d l → l.host = false → readByte x.copy.bytes l.pa = readByte (s.die d).copy.bytes l.pa) : Touches M s (s.setDie d x) :=
  ⟨fun w => by simp, fun k l hl => setDie_readMem s d x k l (fun hk => h l (hk ▸ hl))⟩

theorem setDie_calm (s : State) (d : Nat) {x : Die} (h : x.copy.bytes = (s.die d).copy.bytes) : Calm s (s.setDie d x) :=
  setDie_touches s d x (fun _ _ _ => by rw [h])

theorem countCore_calm (s : State) (c src v : Nat) : Calm s (countCore s c src v) := setCore_calm ..
theorem countDie_calm (s : State) (d src v : Nat) : Calm s (countDie s d src v) := setDie_calm s d rfl
theorem modStack_calm (s : State) (t : Nat) (f : Stack → Stack) : Calm s (s.modStack t f) := setDie_calm s _ rfl
theorem rank_calm (s : State) (t : Nat) : Calm s (s.rank t) := modStack_calm ..

theorem touchFrame_calm (s : State) (pa : Nat) : Calm s (s.touchFrame pa) := by
  unfold State.touchFrame
  dsimp only
  split
  · exact Touches.refl s
  · exact modStack_calm ..

theorem setClock_calm (s : State) (src : Nat) (c : List Nat) : Calm s (s.setClock src c) := by
  unfold State.setClock
  split
  · exact setDie_calm s src rfl
  · split <;> exact Calm.of_same rfl rfl rfl rfl rfl

theorem setLabelAt_calm (s : State) (d : Nat) (l : Loc) (h : Label) : Calm s (s.setLabelAt d l h) := by
  unfold State.setLabelAt
  split
  · refine ⟨fun _ => rfl, fun k m _ => ?_⟩
    by_cases hm : m.host = true
    · simp [State.readMem, State.copyAt, hm]
    · simp [State.readMem, State.copyAt, State.scrubbed, State.die, hm]
  · exact setDie_calm s d rfl

/-! Records and queue entries. -/

theorem gfRecord_calm (s : State) (v kind g w : Nat) (pc : DWord) (bs : List Byte) : Calm s (gfRecord s v kind g w pc bs) := by
  unfold gfRecord
  dsimp only
  split
  · exact (setVd_calm ..).trans (setGrid_calm ..)
  · exact setVd_calm ..

theorem vdEvent_calm (s : State) (v gen kind : Nat) (bs : List Byte) : Calm s (vdEvent s v gen kind bs) := by
  unfold vdEvent
  dsimp only
  split
  · exact setVd_calm ..
  · split
    · exact setVd_calm ..
    · split <;> exact setVd_calm ..

theorem deliverTo_calm (n : Nat) (s : State) (w : Nat) (d : Delivery) : Calm s (deliverTo n s w d) := by
  induction n generalizing w d with
  | zero => exact gfRecord_calm ..
  | succ n ih =>
    unfold deliverTo
    dsimp only
    split
    · split
      · exact ih ..
      · exact gfRecord_calm ..
    · exact setWarp_calm s w rfl

theorem deliver_calm (s : State) (w cause : Nat) (pc : DWord) (lanes : LaneMask) (addr : DWord) (lbl : Label) :
    Calm s (deliver s w cause pc lanes addr lbl) := deliverTo_calm ..

/-! Labels. -/

theorem intern_calm (s : State) (v : Nat) (x : OwnerSet) (sat : State → State) (h : Calm s (sat s)) : Calm s (s.intern v x sat).2 := by
  unfold State.intern
  split
  · dsimp only
    split
    · exact Touches.refl s
    · exact setVd_calm ..
  · exact h

theorem internPacket_calm (s : State) (v : Nat) (x : OwnerSet) : Calm s (internPacket s v x).2 :=
  intern_calm s v x _ ((setVd_calm ..).trans (vdEvent_calm ..))

theorem joinVd_calm (s : State) (v : Nat) (a b : Label) : Calm s (s.joinVd v a b).2 := (joinVd_near s v a b).1.calm
theorem joinList_calm (s : State) (w : Nat) (ls : List Label) : Calm s (s.joinList w ls).2 := (joinList_near s w ls).1.calm

theorem raiseAt_calm (s : State) (v d : Nat) (l : Loc) (h : Label) : Calm s (raiseAt s v d l h) :=
  (joinVd_calm ..).trans (setLabelAt_calm ..)

end Sys2Proof.Machine
end

section
/-! SUPPORT. Writes on their way (R35, R51 to R53, R199): what an application at a copy changes. -/

namespace Sys2Proof.Machine

open Sys2Proof

/-! A copy applies bytes. -/

/-- The bytes of a range of `n` at `pa` in the copy of die `h`. -/
def copySpan (h pa n : Nat) (d : Nat) (l : Loc) : Prop := d = h ∧ l.host = false ∧ pa ≤ l.pa ∧ l.pa < pa + n

theorem readByte_writes_outside (ks : List Nat) (f : Nat → Byte) (m : List Host.Cell) (pa n a : Nat) (hk : ∀ k, k ∈ ks → k < n)
    (ha : ¬ (pa ≤ a ∧ a < pa + n)) : readByte (ks.foldl (fun m k => writeByte m (pa + k) (f k)) m) a = readByte m a := by
  induction ks generalizing m with
  | nil => rfl
  | cons k ks ih =>
    have hlt := hk k List.mem_cons_self
    rw [List.foldl_cons, ih _ (fun j hj => hk j (List.mem_cons_of_mem k hj)), readByte_writeByte_ne _ _ (by omega)]

/-- A copy that applies a write keeps every byte outside it (R53). -/
theorem Copy.apply_outside (c : Copy) (pa : Nat) (bs : List Byte) (t : Stamp) {a : Nat} (ha : ¬ (pa ≤ a ∧ a < pa + bs.length)) :
    readByte (c.apply pa bs t).bytes a = readByte c.bytes a :=
  readByte_writes_outside _ (fun k => (bs[k]?).getD 0) c.bytes pa bs.length a
    (fun _ hk => List.mem_range.mp (List.mem_filter.mp hk).1) ha

theorem applyAt_touches (s : State) (d pa : Nat) (bs : List Byte) (clock : List Nat) (src : Nat) :
    Touches (copySpan d pa bs.length) s (s.applyAt d pa bs clock src) :=
  setDie_touches s d _ (fun _ hl hh => Copy.apply_outside _ pa bs _ (fun hin => hl ⟨rfl, hh, hin⟩))

theorem newFlights_calm (s : State) (fs : List Flight) (n : Nat) : Calm s { s with flights := fs, flightSerial := n } :=
  Calm.of_same rfl rfl rfl rfl rfl

theorem performAtHome_touches (s : State) (w v path cmd : Nat) (l : Loc) (va : DWord) (bs : List Byte) (lbl : Option Label) (clk : List Nat) :
    Touches (copySpan (homeDie l.pa) l.pa bs.length) s (s.performAtHome w v path cmd l va bs lbl clk) := by
  unfold State.performAtHome
  dsimp only
  refine Touches.before ?_ (newFlights_calm ..)
  cases lbl with
  | none => exact applyAt_touches ..
  | some x => exact (applyAt_touches ..).before (setLabelAt_calm ..)

/-! Atomics (R197 to R199). -/

/-- The bytes of `n` that a target names at its home. -/
def targetSpan (t : Target) (n : Nat) (d : Nat) (l : Loc) : Prop := ∃ loc, t = .mem loc ∧ copySpan (homeDie loc.pa) loc.pa n d l

theorem toBytes_length {n : Nat} (x : BitVec n) (k : Nat) : (toBytes x k).length = k := by simp [toBytes]

theorem targetWrite_touches (s : State) (y : Actor) (n : Nat) (va x : DWord) (m : Raised) (clk : List Nat) (t : Target) :
    Touches (targetSpan t n) s (targetWrite s y n va x m clk t) := by
  cases t with
  | spad b off => exact Touches.of_calm (setBlock_calm ..)
  | win a =>
    unfold targetWrite
    dsimp only
    split
    · exact Touches.of_calm (Calm.of_same rfl rfl rfl rfl rfl)
    · exact Touches.refl s
  | mem loc =>
    refine (performAtHome_touches ..).mono (fun d l h => ⟨loc, rfl, ?_⟩)
    rwa [toBytes_length] at h

theorem touchWindow_calm (s : State) (v va : Nat) : Calm s (touchWindow s v va) := by
  unfold touchWindow
  split
  · exact Touches.refl s
  · dsimp only
    split
    · split
      · exact Calm.of_same rfl rfl rfl rfl rfl
      · exact Touches.refl s
    · exact Calm.of_same rfl rfl rfl rfl rfl

theorem joinFor_calm (s : State) (y : Actor) (ls : List Label) : Calm s (joinFor s y ls).2 := by
  unfold joinFor
  split
  · exact Touches.foldPair _ (fun r l => joinVd_calm r.2 y.vd r.1 l) ls (0#8, s)
  · exact joinList_calm ..

theorem raiseAtoms_calm (y : Actor) (as : List AtomLane) (m : Raised) (s : State) : Calm s (raiseAtoms y as m s).2 := by
  induction as generalizing m s with
  | nil => exact Touches.refl s
  | cons a as ih =>
    unfold raiseAtoms
    dsimp only
    split
    · split
      · split <;> exact ih ..
      · exact ih ..
    · split
      · exact (joinFor_calm ..).trans (ih ..)
      · exact ih ..

theorem failsInSwitch_calm (y : Actor) (m : Raised) (a : AtomLane) (l : WinLine) (s : State) : Calm s (failsInSwitch y m a l s).2 := by
  unfold failsInSwitch
  dsimp only
  generalize (if l.floating = true then l.ceiling else l.owners) = dom
  split
  · exact Touches.refl s
  · exact (internPacket_calm ..).trans (internPacket_calm ..)

theorem failsAt_calm (y : Actor) (n : Nat) (m : Raised) (a : AtomLane) (s : State) : Calm s (failsAt y n m a s).2 := by
  unfold failsAt
  split
  · split
    · exact failsInSwitch_calm ..
    · exact Touches.refl s
  · dsimp only
    cases m.mem.get? (targetKey a.tgt) with
    | some new =>
      dsimp only
      generalize (if (targetLabel s y.warp y.vd a.tgt a.va).2.1 = true then _ else _) = dom
      split
      · exact Touches.refl s
      · split <;> exact Touches.refl s
    | none =>
      dsimp only
      generalize (if (targetLabel s y.warp y.vd a.tgt a.va).2.1 = true then _ else _) = dom
      split
      · exact joinFor_calm ..
      · split <;> exact joinFor_calm ..

theorem failingAtoms_calm (y : Actor) (n : Nat) (m : Raised) (as : List AtomLane) (s : State) : Calm s (failingAtoms y n m as s).2 := by
  induction as generalizing s with
  | nil => exact Touches.refl s
  | cons a as ih => exact (failsAt_calm ..).trans (ih ..)

theorem labelAfter_calm (y : Actor) (a : AtomLane) (s : State) : Calm s (labelAfter y a s).2 := by
  unfold labelAfter
  split
  · split
    · exact internPacket_calm ..
    · exact Touches.refl s
  · exact Touches.refl s

theorem labelsAfter_calm (y : Actor) (as : List AtomLane) (s : State) : Calm s (labelsAfter y as s).2 :=
  Touches.foldPair (β := SMap Label) _ (fun r a => labelAfter_calm y a r.2) as ([], s)

theorem applyAtoms_touches {M : Nat → Loc → Prop} (y : Actor) (op ty : Nat) (key : DWord) (m : Raised) (as : List AtomLane) (s : State)
    (h : ∀ a, a ∈ as → ∀ d l, targetSpan a.tgt (atomBytes ty) d l → M d l) : Touches M s (applyAtoms y op ty key m as s).2 := by
  induction as generalizing s with
  | nil => exact Touches.refl s
  | cons a as ih =>
    exact ((targetWrite_touches ..).mono (h a List.mem_cons_self)).trans (ih _ (fun b hb => h b (List.mem_cons_of_mem a hb)))

theorem performAtoms_touches {M : Nat → Loc → Prop} (y : Actor) (op ty : Nat) (key : DWord) (as : List AtomLane) (s : State)
    (h : ∀ a, a ∈ as → ∀ d l, targetSpan a.tgt (atomBytes ty) d l → M d l) : Touches M s (performAtoms y op ty key as s).2 := by
  unfold performAtoms
  dsimp only
  refine Touches.after (t := as.foldl (fun s a => match a.tgt with
    | .win va => touchWindow s y.vd va
    | _ => s) s) (Touches.foldl _ as s (fun s a => ?_)) ?_
  · split
    · exact touchWindow_calm ..
    · exact Touches.refl s
  · generalize as.foldl _ s = t
    refine Touches.after (raiseAtoms_calm y as ⟨[], []⟩ t) ?_
    generalize raiseAtoms y as ⟨[], []⟩ t = r
    refine Touches.after (failingAtoms_calm y (atomBytes ty) r.1 as r.2) ?_
    generalize failingAtoms y (atomBytes ty) r.1 as r.2 = fs
    split
    · exact Touches.refl _
    · exact (applyAtoms_touches y op ty key r.1 as fs.2 h).before (labelsAfter_calm ..)

/-- The bytes that the lanes of an RDM write, each at its home. -/
def rdmSpan (lanes : List RdmLane) (ty : Nat) (d : Nat) (l : Loc) : Prop :=
  ∃ y, y ∈ lanes ∧ l.host = false ∧ d = homeDie y.pa ∧ y.pa ≤ l.pa ∧ l.pa < y.pa + atomBytes ty

theorem rdmTarget_span {pa n d : Nat} {l : Loc} (h : targetSpan (rdmTarget pa) n d l) :
    l.host = false ∧ d = homeDie pa ∧ pa ≤ l.pa ∧ l.pa < pa + n := by
  obtain ⟨loc, hloc, hd, hh, hlo, hhi⟩ := h
  unfold rdmTarget at hloc
  split at hloc
  · cases hloc
    exact ⟨hh, hd, hlo, hhi⟩
  · cases hloc

theorem performRdm_touches (s : State) (f : Flight) (op ty : Nat) (lanes : List RdmLane) (key base : DWord) :
    Touches (rdmSpan lanes ty) s (performRdm s f op ty lanes key base) := by
  unfold performRdm
  dsimp only
  generalize has : lanes.zipIdx.map _ = as
  have h := performAtoms_touches (M := rdmSpan lanes ty) ⟨f.warp, f.vd, f.path, f.cmd⟩ op ty key as s (fun a ha d l hl => by
    rw [← has] at ha
    obtain ⟨p, hp, rfl⟩ := List.mem_map.mp ha
    exact ⟨p.1, (List.mem_zipIdx hp).2.2 ▸ List.getElem_mem _, rdmTarget_span hl⟩)
  split
  · rename_i heq
    rw [heq] at h
    exact h.before (flights_calm ..)
  · rename_i heq
    rw [heq] at h
    exact h.before ((flights_calm ..).trans (deliver_calm ..))

/-! STORE_APPLY_AT_HOME (R35, R51 to R53, R189). -/

theorem retireFlights_calm (s : State) : Calm s s.retireFlights := flights_calm ..
theorem setFlight_calm (s : State) (f : Flight) : Calm s (setFlight s f) := flights_calm ..
theorem dropFlight_calm (s : State) (f : Nat) : Calm s (dropFlight s f) := flights_calm ..

/-- A flight has a new record, and those over are gone. -/
theorem landed_calm (s : State) (f : Flight) : Calm s (setFlight s f).retireFlights := (setFlight_calm ..).trans (retireFlights_calm _)

theorem refuseWrite_calm (s : State) (f : Flight) (cause : Nat) (dom : Label) : Calm s (refuseWrite s f cause dom) := by
  unfold refuseWrite
  split
  · dsimp only
    split
    · exact ((cmds_calm ..).trans (cmds_calm ..)).trans (deliver_calm ..)
    · exact (cmds_calm ..).trans (cmds_calm ..)
  · exact deliver_calm ..

theorem hostStore_touches (s : State) (pa : Nat) (bs : List Byte) :
    Touches (fun _ l => l.host = true ∧ pa ≤ l.pa ∧ l.pa < pa + bs.length) s
      { s with hostMem := { s.hostMem with bytes := writeBytes s.hostMem.bytes pa bs } } := by
  refine ⟨fun _ => rfl, fun d l hl => ?_⟩
  by_cases hh : l.host = true
  · have hout : ¬ (pa ≤ l.pa ∧ l.pa < pa + bs.length) := fun hin => hl ⟨hh, hin⟩
    simp [State.readMem, State.copyAt, hh, readByte_writeBytes, hout]
  · simp [State.readMem, State.copyAt, State.scrubbed, State.die, hh]

/-- A flight as its application at home leaves it. -/
def Flight.home (x : Flight) : Flight := { x with atHome := true, applied := if x.host then x.applied else x.applied ++ [homeDie x.pa] }

/-- What a flight that may go home leaves, before its controller ranks again. -/
def wentHome (s : State) (x : Flight) : State :=
  match x.op with
  | .rdm op ty lanes key base => performRdm s x op ty lanes key base
  | .label =>
    let s := raiseAt s x.vd (homeDie x.pa) ⟨x.host, x.pa⟩ x.lbl
    let s := if x.host then s else s.setClock (homeDie x.pa) (clockMax (s.clockOf (homeDie x.pa)) x.clock)
    (setFlight s x.home).retireFlights
  | .store bs =>
    if !x.host && !s.dominates x.vd (s.labelLoc (homeDie x.pa) ⟨x.host, x.pa⟩) x.lbl then
      refuseWrite (dropFlight s x.id) x 6 (s.labelLoc (homeDie x.pa) ⟨x.host, x.pa⟩)
    else if x.host then
      (setFlight { s with hostMem := { s.hostMem with bytes := writeBytes s.hostMem.bytes x.pa bs } } x.home).retireFlights
    else (setFlight (s.applyAt (homeDie x.pa) x.pa bs x.clock x.src) x.home).retireFlights

/-- The bytes that a flight writes where it is applied at its home. -/
def homeSpan (x : Flight) (d : Nat) (l : Loc) : Prop :=
  match x.op with
  | .store bs => l.host = x.host ∧ x.pa ≤ l.pa ∧ l.pa < x.pa + bs.length ∧ (x.host = true ∨ d = homeDie x.pa)
  | .label => False
  | .rdm _ ty lanes _ _ => rdmSpan lanes ty d l

theorem wentHome_touches (s : State) (x : Flight) : Touches (homeSpan x) s (wentHome s x) := by
  unfold wentHome
  split
  · rename_i op ty lanes key base hop
    exact (performRdm_touches s x op ty lanes key base).mono (fun d l h => by rw [homeSpan, hop]; exact h)
  · have hraise := raiseAt_calm s x.vd (homeDie x.pa) ⟨x.host, x.pa⟩ x.lbl
    dsimp only
    generalize raiseAt s x.vd (homeDie x.pa) ⟨x.host, x.pa⟩ x.lbl = t at hraise ⊢
    refine Touches.of_calm ((hraise.trans ?_).trans (landed_calm ..))
    split
    · exact Touches.refl _
    · exact setClock_calm ..
  · rename_i bs hop
    split
    · exact Touches.of_calm ((dropFlight_calm ..).trans (refuseWrite_calm ..))
    · split
      · rename_i hh
        exact ((hostStore_touches s x.pa bs).mono (fun d l ⟨hl, hlo, hhi⟩ => by
          rw [homeSpan, hop]; exact ⟨hl.trans hh.symm, hlo, hhi, .inl hh⟩)).before (landed_calm ..)
      · rename_i hh
        exact ((applyAt_touches s _ x.pa bs x.clock x.src).mono (fun d l ⟨hd, hl, hlo, hhi⟩ => by
          rw [homeSpan, hop]; exact ⟨hl.trans (by simpa using hh), hlo, hhi, .inr hd⟩)).before (landed_calm ..)

/-- A store to host memory, or one that the granule's label dominates, is applied at its home. -/
theorem wentHome_applied {s : State} {x : Flight} {bs : List Byte} (hop : x.op = .store bs)
    (hdom : x.host = true ∨ s.dominates x.vd (s.labelLoc (homeDie x.pa) ⟨false, x.pa⟩) x.lbl = true) :
    (x.host = true → (wentHome s x).hostMem.bytes = writeBytes s.hostMem.bytes x.pa bs) ∧
    (x.host = false → (wentHome s x).dies = (s.applyAt (homeDie x.pa) x.pa bs x.clock x.src).dies) := by
  unfold wentHome
  rw [hop]
  dsimp only
  refine ⟨fun hh => ?_, fun hh => ?_⟩
  · rw [hh, if_neg (by simp), if_pos rfl]
    rfl
  · rw [hh] at hdom ⊢
    rw [if_neg (by simpa using hdom), if_neg Bool.false_ne_true]
    rfl

/-- A store that the granule's label does not dominate writes nothing. -/
theorem wentHome_refused {s : State} {x : Flight} {bs : List Byte} (hop : x.op = .store bs) (hh : x.host = false)
    (hdom : s.dominates x.vd (s.labelLoc (homeDie x.pa) ⟨false, x.pa⟩) x.lbl = false) : Calm s (wentHome s x) := by
  unfold wentHome
  rw [hop]
  dsimp only
  rw [hh, if_pos (by simp [hdom])]
  exact (dropFlight_calm ..).trans (refuseWrite_calm ..)

/-- The controller of a home ranks again after a request of the communication class (R280). -/
def rankAfter (s : State) (x : Flight) : State := if x.comm then s.rank (x.pa / 2 ^ 36) else s

theorem rankAfter_calm (s : State) (x : Flight) : Calm s (rankAfter s x) := by
  unfold rankAfter
  split
  · exact rank_calm ..
  · exact Touches.refl s

theorem rankAfter_hostMem (s : State) (x : Flight) : (rankAfter s x).hostMem = s.hostMem := by
  unfold rankAfter
  split
  · simp [State.rank, State.modStack]
  · rfl

theorem modStack_copy (s : State) (t : Nat) (f : Stack → Stack) (d : Nat) : ((s.modStack t f).die d).copy = (s.die d).copy := by
  unfold State.modStack
  by_cases hd : d = t / 2
  · subst hd
    by_cases h9 : t / 2 < 9
    · simp [State.die_setDie _ _ h9]
    · simp [State.setDie, h9]
  · simp [State.die_setDie_ne _ _ hd]

theorem rankAfter_copy (s : State) (x : Flight) (d : Nat) : ((rankAfter s x).die d).copy = (s.die d).copy := by
  unfold rankAfter
  split
  · exact modStack_copy ..
  · rfl

/-- A flight that may go home is bound for no fenced die. -/
theorem mayGoHome_bound {s : State} {x : Flight} (h : mayGoHome s x = true) : boundAway s x = false := by
  simp only [mayGoHome, Bool.and_eq_true] at h
  obtain ⟨-, hgo⟩ := h
  unfold boundAway
  cases hh : x.host with
  | true => rfl
  | false =>
    rw [hh, if_neg Bool.false_ne_true, List.all_eq_true] at hgo
    have hfenced : (flightHomes x).any (fun h => (s.die h).fenced) = false := by
      refine List.any_eq_false.mpr (fun d hd => ?_)
      have hd' := hgo d hd
      rw [Bool.and_eq_true] at hd'
      simpa using hd'.1
    simp [hfenced]

theorem flight?_id {s : State} {f : Nat} {x : Flight} (h : flight? s f = some x) : x.id = f := by
  simpa using List.find?_some h

theorem store_apply_runs {s : State} {f : Nat} {x : Flight} (hx : flight? s f = some x) (hgo : mayGoHome s x = true) :
    exec (.store_apply_at_home f) s = did (rankAfter (wentHome s x) x) := by
  change execStoreApplyAtHome f s = _
  unfold execStoreApplyAtHome
  rw [hx]
  dsimp only
  rw [mayGoHome_bound hgo, hgo, if_neg Bool.false_ne_true, if_neg (by simp), ← flight?_id hx]
  rfl

theorem store_apply_completes (s : State) (f : Nat) (x : Flight) (hx : flight? s f = some x) (hgo : mayGoHome s x = true) :
    ∃ t, Completes (.store_apply_at_home f) s t ∧
      Frame (fun _ _ => False) (fun _ _ => False) (fun _ => False) (fun d l => match x.op with
        | .store bs => l.host = x.host ∧ x.pa ≤ l.pa ∧ l.pa < x.pa + bs.length ∧ (x.host = true ∨ d = homeDie x.pa)
        | .label => False
        | .rdm _ ty lanes _ _ => ∃ y, y ∈ lanes ∧ l.host = false ∧ d = homeDie y.pa ∧ y.pa ≤ l.pa ∧ l.pa < y.pa + atomBytes ty) s t ∧
      ∀ bs, x.op = .store bs →
        ((x.host = true ∨ s.dominates x.vd (s.labelLoc (homeDie x.pa) ⟨false, x.pa⟩) x.lbl = true) →
          (x.host = true → t.hostMem.bytes = writeBytes s.hostMem.bytes x.pa bs) ∧
          (x.host = false → (t.die (homeDie x.pa)).copy = ((s.applyAt (homeDie x.pa) x.pa bs x.clock x.src).die (homeDie x.pa)).copy)) ∧
        (x.host = false → s.dominates x.vd (s.labelLoc (homeDie x.pa) ⟨false, x.pa⟩) x.lbl = false → ∀ d l, t.readMem d l = s.readMem d l) := by
  refine ⟨_, completes_did (store_apply_runs hx hgo), ?_, fun bs hop => ⟨fun hdom => ?_, fun hh hdom d l => ?_⟩⟩
  · exact (((wentHome_touches s x).before (rankAfter_calm ..)).before (report_calm ..)).frame
  · obtain ⟨hhost, hdies⟩ := wentHome_applied hop hdom
    refine ⟨fun hh => ?_, fun hh => ?_⟩
    · exact (congrArg Copy.bytes (rankAfter_hostMem (wentHome s x) x)).trans (hhost hh)
    · refine (rankAfter_copy (wentHome s x) x (homeDie x.pa)).trans ?_
      simp only [State.die, hdies hh]
  · exact Calm.memory_eq (((wentHome_refused hop hh hdom).trans (rankAfter_calm _ x)).trans (report_calm _ .done)) d l

/-! REPLICA_APPLY (R51 to R53). -/

/-- What a die leaves that applies a write that its home has applied. -/
def replicated (s : State) (d : Nat) (x : Flight) : State :=
  match x.op with
  | .store bs =>
    let s := s.applyAt d x.pa bs x.clock x.src
    if x.floating then raiseAt s x.vd d ⟨false, x.pa⟩ x.lbl else s
  | _ => (raiseAt s x.vd d ⟨false, x.pa⟩ x.lbl).setClock d (clockMax (s.clockOf d) x.clock)

theorem replica_runs {s : State} {d f : Nat} {x : Flight} (hx : flight? s f = some x) (hhome : x.atHome = true) (hhost : x.host = false)
    (hnew : x.applied.contains d = false) (hlive : s.liveDies.contains d = true) (hmay : s.mayApply d x = true)
    (hclear : s.blocked ⟨false, x.pa⟩ = false) :
    exec (.replica_apply d f) s = did ((setFlight (replicated s d x) { x with applied := x.applied ++ [d] }).retireFlights) := by
  change execReplicaApply d f s = _
  unfold execReplicaApply
  rw [hx]
  dsimp only
  rw [hhome, hhost, hnew, hlive, hmay, hclear, if_neg (by simp)]
  rfl

/-- The bytes of a store at die `d`; no byte for another write. -/
def replicaSpan (x : Flight) (d d' : Nat) (l : Loc) : Prop :=
  ∃ bs, x.op = .store bs ∧ d' = d ∧ l.host = false ∧ x.pa ≤ l.pa ∧ l.pa < x.pa + bs.length

theorem replicated_touches (s : State) (d : Nat) (x : Flight) : Touches (replicaSpan x d) s (replicated s d x) := by
  unfold replicated
  split
  · rename_i bs hop
    have h := (applyAt_touches s d x.pa bs x.clock x.src).mono (N := replicaSpan x d) (fun d' l hin => ⟨bs, hop, hin⟩)
    dsimp only
    split
    · exact h.before (raiseAt_calm ..)
    · exact h
  · exact Touches.of_calm ((raiseAt_calm ..).trans (setClock_calm ..))

theorem setLabelAt_bytes (s : State) (d : Nat) (l : Loc) (h : Label) (k : Nat) : ((s.setLabelAt d l h).die k).copy.bytes = (s.die k).copy.bytes := by
  unfold State.setLabelAt
  split
  · rfl
  · by_cases hk : k = d
    · subst hk
      by_cases h9 : k < 9
      · simp [State.die_setDie _ _ h9]
      · simp [State.setDie, h9]
    · simp [State.die_setDie_ne _ _ hk]

theorem raiseAt_bytes (s : State) (v d : Nat) (l : Loc) (h : Label) (k : Nat) : ((raiseAt s v d l h).die k).copy.bytes = (s.die k).copy.bytes := by
  have hdies := (joinVd_near s v (s.labelLoc d l) h).1.dies
  exact (setLabelAt_bytes ..).trans (congrArg (fun ds : List Die => ((ds[k]?).getD Die.reset).copy.bytes) hdies)

theorem replicated_bytes {s : State} {d : Nat} {x : Flight} {bs : List Byte} (hop : x.op = .store bs) :
    ((replicated s d x).die d).copy.bytes = ((s.applyAt d x.pa bs x.clock x.src).die d).copy.bytes := by
  unfold replicated
  rw [hop]
  dsimp only
  split
  · exact raiseAt_bytes ..
  · rfl

theorem replica_completes (s : State) (d f : Nat) (x : Flight) (hx : flight? s f = some x) (hhome : x.atHome = true) (hhost : x.host = false)
    (hnew : x.applied.contains d = false) (hlive : s.liveDies.contains d = true) (hmay : s.mayApply d x = true)
    (hclear : s.blocked ⟨false, x.pa⟩ = false) :
    ∃ t, Completes (.replica_apply d f) s t ∧
      Frame (fun _ _ => False) (fun _ _ => False) (fun _ => False) (fun d' l =>
        ∃ bs, x.op = .store bs ∧ d' = d ∧ l.host = false ∧ x.pa ≤ l.pa ∧ l.pa < x.pa + bs.length) s t ∧
      ∀ bs, x.op = .store bs → (t.die d).copy.bytes = ((s.applyAt d x.pa bs x.clock x.src).die d).copy.bytes :=
  ⟨_, completes_did (replica_runs hx hhome hhost hnew hlive hmay hclear),
    (((replicated_touches s d x).before (landed_calm ..)).before (report_calm ..)).frame, fun _ hop => replicated_bytes hop⟩

/-! HBM_WINDOW_WRITE (R51, R402). -/

theorem issueFlight_calm (s : State) (f : Flight) : Calm s (s.issueFlight f id) := by
  unfold State.issueFlight
  extract_lets f' s' here g s'' t
  have hclock : Calm s s' := setClock_calm ..
  have hact : Calm s s'' := by
    refine hclock.trans ?_
    simp only [s'']
    split <;> exact Touches.refl _
  have hnew : Calm s t := hact.trans (newFlights_calm ..)
  split
  · exact hnew.trans (rank_calm ..)
  · exact hnew

/-- A piece of a host-port write is put in flight, or ignored beyond the last slice. -/
def windowPiece (s : State) (e : Nat × List Byte) : State :=
  if 288 * 2 ^ 32 ≤ e.1 then s
  else (s.touchFrame e.1).issueFlight (State.mkFlight 0 9 0 ⟨false, e.1⟩ 0#64 (.store e.2) 0#8 0#64 0#32 1 0) id

theorem windowPiece_calm (s : State) (e : Nat × List Byte) : Calm s (windowPiece s e) := by
  unfold windowPiece
  split
  · exact Touches.refl s
  · exact (touchFrame_calm ..).trans (issueFlight_calm ..)

theorem hbm_window_write_runs {s : State} {req : Req} {pa : Nat} {bytes : List Byte} (h : isHv s req = true) :
    exec (.hbm_window_write req pa bytes) s = did ((cutLines bytes.length pa bytes).foldl windowPiece s) := by
  change execHbmWindowWrite req pa bytes s = _
  unfold execHbmWindowWrite hvWrite
  rw [if_pos h]
  rfl

/-- Bytes that lie in one line are one piece. -/
theorem cutLines_one {pa : Nat} {bytes : List Byte} (hne : bytes ≠ []) (hfit : pa % 64 + bytes.length ≤ 64) :
    cutLines bytes.length pa bytes = [(pa, bytes)] := by
  have hk : bytes.length ≤ 64 - pa % 64 := by omega
  have htake : bytes.take (64 - pa % 64) = bytes := List.take_of_length_le hk
  have hdrop : bytes.drop (64 - pa % 64) = [] := List.drop_of_length_le hk
  have hempty : bytes.isEmpty = false := by simpa using hne
  obtain ⟨n, hn⟩ := Nat.exists_eq_succ_of_ne_zero (fun h => hne (List.length_eq_zero_iff.mp h))
  rw [hn]
  simp only [cutLines, hempty, htake, hdrop, Bool.false_eq_true, if_false]
  cases n <;> simp [cutLines]

/-- A flight whose home is not its source is put in flight, and is not at home. -/
theorem issueFlight_inFlight (s : State) (f : Flight) (h : homeDie f.pa ≠ f.src) :
    ∃ g, g ∈ (s.issueFlight f id).flights ∧ g.src = f.src ∧ g.host = f.host ∧ g.pa = f.pa ∧ g.op = f.op ∧ g.atHome = false := by
  unfold State.issueFlight
  extract_lets f' s' here g s'' t
  have hhere : here = false := by simp [here, f', h]
  refine ⟨g, ?_, rfl, rfl, rfl, rfl, hhere⟩
  have hmem : g ∈ t.flights := List.mem_append_right _ (List.mem_singleton.mpr rfl)
  split
  · simpa [State.rank, State.modStack] using hmem
  · exact hmem

theorem hbm_window_write_completes (s : State) (req : Req) (pa : Nat) (bytes : List Byte) (h : isHv s req = true) :
    ∃ t, Completes (.hbm_window_write req pa bytes) s t ∧ Quiet s t ∧
      (bytes ≠ [] → pa % 64 + bytes.length ≤ 64 → pa < 288 * 2 ^ 32 →
        ∃ f, f ∈ t.flights ∧ f.src = 9 ∧ f.host = false ∧ f.pa = pa ∧ f.op = .store bytes ∧ f.atHome = false) := by
  refine ⟨_, completes_did (hbm_window_write_runs h), ?_, fun hne hfit hlt => ?_⟩
  · exact Calm.quiet ((Touches.foldl windowPiece _ s windowPiece_calm).trans (report_calm ..))
  · have hhome : homeDie pa ≠ 9 := by simp only [homeDie]; omega
    rw [cutLines_one hne hfit, List.foldl_cons, List.foldl_nil, windowPiece, if_neg (by omega)]
    exact issueFlight_inFlight (s.touchFrame pa) _ hhome

end Sys2Proof.Machine
end

section
/-! SUPPORT. A trap that enters the handler (R209, R212), and delivery faults (R189). -/

namespace Sys2Proof.Machine

open Sys2Proof

/-! Notices (R215). -/

/-- What a delivery of queue entries leaves: warps but for their queues, the report, and the bytes of memory. -/
structure Noticed (s t : State) : Prop where
  warps : ∀ w, { t.warp w with queues := [] } = { s.warp w with queues := [] }
  report : t.report = s.report
  memory : ∀ d l, t.readMem d l = s.readMem d l

theorem Noticed.refl (s : State) : Noticed s s := ⟨fun _ => rfl, rfl, fun _ _ => rfl⟩

theorem Noticed.trans {s t r : State} (h : Noticed s t) (h' : Noticed t r) : Noticed s r :=
  ⟨fun w => (h'.warps w).trans (h.warps w), h'.report.trans h.report, fun d l => (h'.memory d l).trans (h.memory d l)⟩

theorem setQueue_noticed (s : State) (w q : Nat) (u : Queue) : Noticed s (s.setWarp w ((s.warp w).setQueue q u)) := by
  refine ⟨fun k => ?_, rfl, readMem_congr rfl rfl rfl rfl⟩
  rw [State.warp_setWarp_eq]
  split
  · rename_i hk; rw [hk]; rfl
  · rfl

theorem gfRecord_report (s : State) (v kind g w : Nat) (pc : DWord) (bs : List Byte) : (gfRecord s v kind g w pc bs).report = s.report := by
  unfold gfRecord
  dsimp only
  split <;> rfl

theorem gfRecord_noticed (s : State) (v kind g w : Nat) (pc : DWord) (bs : List Byte) : Noticed s (gfRecord s v kind g w pc bs) :=
  ⟨fun k => by simp only [State.warp, gfRecord_warps], gfRecord_report .., Calm.memory_eq (gfRecord_calm ..)⟩

theorem deliverEntry_noticed (s : State) (w q kind : Nat) (e : QEntry) : Noticed s (deliverEntry s w q kind e) := by
  unfold deliverEntry
  dsimp only
  split
  · exact gfRecord_noticed ..
  · split <;> exact setQueue_noticed ..

theorem trapNotices_noticed (s : State) (g b serial cause slot : Nat) (delivery killed double : Bool) (heir : Option Nat) (lbl : Label) :
    Noticed s (trapNotices s g b serial cause slot delivery killed double heir lbl) := by
  unfold trapNotices
  refine foldl_related Noticed.refl Noticed.trans _ (fun s w => ?_) _ s
  split
  · exact deliverEntry_noticed ..
  · exact Noticed.refl s

/-! The handler is entered (R212). -/

/-- A warp without its flags, its queues and its cue buffer. -/
def Warp.faced (x : Warp) : Warp := { x with flags := 0#8, flagLabel := 0#8, queues := [], cue := Option.none }

/-- The warp in its handler, the record of a trap in s24 to s31. -/
def Warp.inHandler (x : Warp) (i : SubId) (r : TrapInfo) (lbl : Label) : Warp :=
  { x with
    shadow := if x.handler then x.shadow else regsFrom x.s 24 8
    s := regsFrom x.s 0 24 ++ trapRecord r lbl
    handler := true, handlerSub := i }

theorem Warp.inHandler_faced {x y : Warp} (h : x.faced = y.faced) (i : SubId) (r : TrapInfo) (lbl : Label) :
    (x.inHandler i r lbl).faced = (y.inHandler i r lbl).faced := (congrArg (fun z : Warp => (z.inHandler i r lbl).faced) h :)

theorem Warp.setSub_faced {x y : Warp} (h : x.faced = y.faced) (u : SubWarp) : (x.setSub u).faced = (y.setSub u).faced :=
  (congrArg (fun z : Warp => (z.setSub u).faced) h :)

/-- What the entry into the handler leaves of the warp, of the report and of memory. -/
structure HandlerEntered (w : Nat) (u : SubWarp) (r : TrapInfo) (s t : State) : Prop where
  warp : ∃ lbl n, (t.warp w).faced =
    (((s.warp w).inHandler u.id r lbl).setSub { u with pc := (s.record w).handler, matched := false, stamp := n, hold := .ready }).faced
  report : t.report = s.report
  memory : ∀ d l, t.readMem d l = s.readMem d l

/-- The latches are dropped and the warp's operation withdrawn, the region committed. -/
def leaveGroup (s : State) (w : Nat) : State := withdraw (dropLatches (commit s w) (s.warp w).quad) w

theorem setWarp_record (s : State) (w : Nat) {x : Warp} (h : x.grid = (s.warp w).grid) : (s.setWarp w x).record w = s.record w := by
  simp only [State.record, State.warp_setWarp, State.setWarp_get_grid, h]

theorem leaveGroup_faced (s : State) (w : Nat) : ((leaveGroup s w).warp w).faced = (s.warp w).faced := by
  change ((commit s w).warp w).faced = _
  rw [commit, State.modWarp_eq, State.warp_setWarp]
  rfl

theorem leaveGroup_record (s : State) (w : Nat) : (leaveGroup s w).record w = s.record w := by
  change (commit s w).record w = _
  exact setWarp_record s w rfl

/-- The warp stands at its handler, and its notices are out. -/
def faceHandler (s : State) (w : Nat) (u : SubWarp) (r : TrapInfo) (lbl : Label) (g b : Nat) : State :=
  let s := s.modWarp w (fun y => y.inHandler u.id r lbl)
  let s := makeReady s w { u with pc := (s.record w).handler, matched := false }
  trapNotices s g b w r.cause r.slot r.delivery false false r.heir lbl

theorem enterHandler_eq {s : State} {w : Nat} {u : SubWarp} {r : TrapInfo} (hsub : (s.warp w).sub u.id = some u) :
    enterHandler s w u.id r =
      let p := (leaveGroup s w).joinList w (u.maskLabel :: ((lanesOf r.lanes).map (s.warp w).pathOf ++ r.lbls))
      faceHandler p.2 w u r p.1 (s.warp w).grid (s.warp w).block := by
  unfold enterHandler
  dsimp only
  rw [hsub]
  rfl

theorem faceHandler_entered (s : State) (w : Nat) (u : SubWarp) (r : TrapInfo) (lbl : Label) (g b : Nat) :
    HandlerEntered w u r s (faceHandler s w u r lbl g b) := by
  unfold faceHandler
  extract_lets a c
  have hwarp : c.warp w =
      (a.warp w).setSub { u with pc := (a.record w).handler, matched := false, stamp := a.stamp, hold := .ready } := State.warp_setWarp ..
  have ha : a.warp w = (s.warp w).inHandler u.id r lbl := State.warp_setWarp ..
  have hrecord : a.record w = s.record w := setWarp_record s w rfl
  obtain ⟨nwarps, nreport, nmemory⟩ := trapNotices_noticed c g b w r.cause r.slot r.delivery false false r.heir lbl
  refine ⟨⟨lbl, a.stamp, ?_⟩, nreport, fun d l => (nmemory d l).trans (readMem_congr rfl rfl rfl rfl d l)⟩
  rw [← hrecord, ← ha, ← hwarp]
  exact (congrArg (fun x : Warp => x.faced) (nwarps w) :)

theorem enterHandler_entered {s : State} {w : Nat} {u : SubWarp} {r : TrapInfo} (hsub : (s.warp w).sub u.id = some u) :
    HandlerEntered w u r s (enterHandler s w u.id r) := by
  rw [enterHandler_eq hsub]
  generalize u.maskLabel :: ((lanesOf r.lanes).map (s.warp w).pathOf ++ r.lbls) = ls
  have hjoin := (joinList_near (leaveGroup s w) w ls).1
  dsimp only
  generalize (leaveGroup s w).joinList w ls = p at hjoin ⊢
  obtain ⟨⟨lbl, n, hwarp⟩, hreport, hmemory⟩ := faceHandler_entered p.2 w u r p.1 (s.warp w).grid (s.warp w).block
  have hfaced : (p.2.warp w).faced = (s.warp w).faced := (hjoin.field Warp.faced (fun _ => rfl) w).trans (leaveGroup_faced s w)
  have hrecord : p.2.record w = s.record w := (hjoin.record w).trans (leaveGroup_record s w)
  refine ⟨⟨lbl, n, ?_⟩, ?_, fun d l => ?_⟩
  · rw [hwarp, hrecord]
    exact Warp.setSub_faced (Warp.inHandler_faced hfaced _ _ _) _
  · exact hreport.trans ((congrArg State.report hjoin.state :).trans rfl)
  · exact (hmemory d l).trans ((hjoin.calm.memory_eq d l).trans (readMem_congr rfl rfl rfl rfl d l))

/-! A cause is raised (R209). -/

/-- The counters and the report of a cause that is raised at a warp (R209, R398). -/
def causeNoted (s : State) (x : Warp) (r : TrapInfo) : State :=
  let s : State := { s with report := .trap r.cause }
  let s := if r.cause = 3 then countCore s (coreOfQuad x.quad) 2 x.vd else s
  if r.cause = 18 then countCore s (coreOfQuad x.quad) 9 x.vd else s

/-- The package with a cause in the warp's %tc. -/
def causeRaised (s : State) (w : Nat) (r : TrapInfo) : State :=
  (causeNoted s (s.warp w) r).modWarp w (fun y => { y with tc := (r.bit :: r.also).foldl tcBit y.tc })

theorem causeNoted_keeps (s : State) (x : Warp) (r : TrapInfo) : (causeNoted s x r).warps = s.warps ∧ (causeNoted s x r).grids = s.grids ∧
    (causeNoted s x r).report = .trap r.cause ∧ ∀ d l, (causeNoted s x r).readMem d l = s.readMem d l := by
  unfold causeNoted
  dsimp only
  split <;> split <;> exact ⟨rfl, rfl, rfl, readMem_congr rfl rfl rfl rfl⟩

theorem causeNoted_warp (s : State) (x : Warp) (r : TrapInfo) (w : Nat) : (causeNoted s x r).warp w = s.warp w := by
  simp only [State.warp, (causeNoted_keeps s x r).1]

theorem causeRaised_warp (s : State) (w : Nat) (r : TrapInfo) :
    (causeRaised s w r).warp w = { s.warp w with tc := (r.bit :: r.also).foldl tcBit (s.warp w).tc } :=
  (State.warp_setWarp ..).trans (by rw [causeNoted_warp])

theorem causeRaised_record (s : State) (w : Nat) (r : TrapInfo) : (causeRaised s w r).record w = s.record w := by
  obtain ⟨-, hgrids, -⟩ := causeNoted_keeps s (s.warp w) r
  have hset : (causeRaised s w r).record w = (causeNoted s (s.warp w) r).record w := setWarp_record _ w rfl
  rw [hset, State.record, causeNoted_warp, State.grid, hgrids]
  rfl

/-- A cause that the warp handles enters the handler. -/
theorem takeTrap_enters {s : State} {w : Nat} {i : SubId} {r : TrapInfo} (h : Handles s w r) :
    takeTrap s w i r = enterHandler (causeRaised s w r) w i r := by
  obtain ⟨hbit, haddress, hhandler, hsheet, hroll⟩ := h
  have hrecord := causeRaised_record s w r
  unfold takeTrap takeTrapOn
  dsimp only
  rw [hroll, hsheet, hhandler, hbit]
  have haddr : ((causeRaised s w r).record w).handler != 0#64 := by rw [hrecord]; simpa using haddress
  simp only [Bool.false_and, Bool.false_eq_true, if_false, Bool.or_self, Bool.true_and]
  exact if_pos haddr

/-! The record stands in s24 to s31, and the registers below are as they were. -/

theorem regsFrom_length (f : List Reg) (lo n : Nat) : (regsFrom f lo n).length = n := by simp [regsFrom]

theorem inHandler_low {x : Warp} {i : SubId} {r : TrapInfo} {lbl : Label} {n : Nat} (h : n < 24) :
    ((x.inHandler i r lbl).s[n]?).getD Reg.zero = (x.s[n]?).getD Reg.zero := by
  have hlen : n < (regsFrom x.s 0 24).length := by rw [regsFrom_length]; exact h
  change ((regsFrom x.s 0 24 ++ trapRecord r lbl)[n]?).getD Reg.zero = _
  rw [List.getElem?_append_left hlen]
  simp [regsFrom, h]

theorem inHandler_high {x : Warp} {i : SubId} {r : TrapInfo} {lbl : Label} (k : Nat) :
    (x.inHandler i r lbl).s[24 + k]? = (trapRecord r lbl)[k]? := by
  change (regsFrom x.s 0 24 ++ trapRecord r lbl)[24 + k]? = _
  rw [List.getElem?_append_right (by rw [regsFrom_length]; omega), regsFrom_length, Nat.add_sub_cancel_left]

/-- A register of the record shows its value, clean, whatever the record's label. -/
theorem trapRecord_shown (r : TrapInfo) (lbl : Label) {k : Nat} (h : k < 8) :
    ((((trapRecord r lbl)[k]?).getD Reg.zero).val, (((trapRecord r lbl)[k]?).getD Reg.zero).poison) =
      ((((trapRecord r 0#8)[k]?).getD Reg.zero).val, false) := by
  match k, h with
  | 0, _ | 1, _ | 2, _ | 3, _ | 4, _ | 5, _ | 6, _ | 7, _ => rfl

theorem Warp.reg_of_files {x y : Warp} (ho : x.o = y.o) (hv : x.v = y.v) (hs : x.s = y.s) (g : RegName) : x.reg g = y.reg g := by
  cases g <;> simp only [Warp.reg, ho, hv, hs]

theorem inHandler_regs {x : Warp} {i : SubId} {r : TrapInfo} {lbl : Label} {g : RegName} (hrec : ∀ k, k < 8 → g ≠ .s (24 + k))
    (hin : ∀ n, 32 ≤ n → g ≠ .s n) : (x.inHandler i r lbl).reg g = x.reg g := by
  cases g with
  | o n i => rfl
  | v n i => rfl
  | s n =>
    have hlow : n < 24 := by
      rcases Nat.lt_or_ge n 24 with hn | hn
      · exact hn
      · rcases Nat.lt_or_ge n 32 with hn' | hn'
        · exact absurd (congrArg RegName.s (by omega : n = 24 + (n - 24))) (hrec (n - 24) (by omega))
        · exact absurd rfl (hin n hn')
    simp only [Warp.reg, inHandler_low hlow]

/-- A trap that a warp handles enters its handler, and leaves the deliveries that wait (R209, R212). -/
theorem takeTrap_entered {s : State} {w : Nat} {u : SubWarp} {r : TrapInfo} (hsub : (s.warp w).sub u.id = some u) (h : Handles s w r) :
    Entered w u r s (takeTrap s w u.id r) ∧ ((takeTrap s w u.id r).warp w).deliveries = (s.warp w).deliveries := by
  rw [takeTrap_enters h]
  have hwarp := causeRaised_warp s w r
  have hrecord := causeRaised_record s w r
  obtain ⟨-, -, hnoted, hmem⟩ := causeNoted_keeps s (s.warp w) r
  have hreport : (causeRaised s w r).report = .trap r.cause := hnoted
  have hmemory (d : Nat) (l : Loc) : (causeRaised s w r).readMem d l = s.readMem d l := (readMem_congr rfl rfl rfl rfl d l).trans (hmem d l)
  have hsub' : ((causeRaised s w r).warp w).sub u.id = some u := by rw [hwarp]; exact hsub
  obtain ⟨⟨lbl, n, hfaced⟩, treport, tmemory⟩ := enterHandler_entered (r := r) hsub'
  generalize enterHandler (causeRaised s w r) w u.id r = t at *
  rw [hwarp, hrecord] at hfaced
  -- a field that `faced` keeps is that of the warp in its handler
  have hfield {α : Type} (f : Warp → α) (hf : ∀ x : Warp, f x.faced = f x) := (hf (t.warp w)).symm.trans ((congrArg f hfaced).trans (hf _))
  have hreg (g : RegName) := hfield (fun x => x.reg g) (fun _ => by cases g <;> rfl)
  refine ⟨⟨treport.trans hreport, hfield Warp.handler (fun _ => rfl), hfield Warp.handlerSub (fun _ => rfl), hfield Warp.tc (fun _ => rfl), fun k hk => ?_,
    ?_, fun g hrec hin => ?_, fun n => hfield (fun x => x.mask n) (fun _ => rfl), ?_, fun d l => (tmemory d l).trans (hmemory d l)⟩,
    hfield Warp.deliveries (fun _ => rfl)⟩
  · refine (hreg _).trans ?_
    simp only [Warp.reg, Warp.setSub, inHandler_high]
    exact trapRecord_shown r lbl hk
  · refine (hfield Warp.shadow (fun _ => rfl)).trans ?_
    exact if_neg (by simpa using h.outside)
  · refine (hreg g).trans ?_
    exact (Warp.reg_of_files (y := (s.warp w).inHandler u.id r lbl) rfl rfl rfl g).trans (inHandler_regs hrec hin)
  · refine ⟨{ u with pc := (s.record w).handler, matched := false, stamp := n, hold := .ready }, ?_, rfl, rfl, rfl⟩
    refine (hfield (fun x => x.sub u.id) (fun _ => rfl)).trans ?_
    exact Warp.sub_setSub (u := { u with pc := (s.record w).handler, matched := false, stamp := n, hold := .ready }) hsub

/-! DELIVERY_FAULT (R189, R212). -/

theorem delivery_fault_runs {s : State} {w : Nat} {u : SubWarp} {d : Delivery} {ds : List Delivery} (hlife : (s.warp w).life = .resident)
    (hsub : deliverySub (s.warp w) d = some u) (hd : (s.warp w).deliveries = d :: ds) (hsheet : (s.warp w).sheet = false)
    (hhandler : (s.warp w).handler = false) :
    exec (.delivery_fault w) s = .next (takeTrap (s.setWarp w { s.warp w with deliveries := ds }) w u.id
      ⟨d.cause, u.pc, d.addr, d.lanes, 0, 0, true, lo32 d.pc, hi32 d.pc, [d.lbl], [], if d.source = w then none else some d.source, false⟩) := by
  change execDeliveryFault w s = _
  unfold execDeliveryFault
  dsimp only
  rw [hd]
  dsimp only [List.head?]
  rw [if_pos hlife, hsub]
  dsimp only
  rw [if_neg (by simp [hsheet, hhandler])]
  unfold raiseDelivery
  dsimp only
  rw [if_neg (by simp [hhandler]), State.modWarp_eq, hd, List.erase_cons_head]

theorem delivery_fault_enters (s : State) (w : Nat) (u : SubWarp) (d : Delivery) (ds : List Delivery) (hlife : (s.warp w).life = .resident)
    (hfor : deliverySub (s.warp w) d = some u) (hsub : (s.warp w).sub u.id = some u) (hd : (s.warp w).deliveries = d :: ds) :
    let r : TrapInfo :=
      ⟨d.cause, u.pc, d.addr, d.lanes, 0, 0, true, lo32 d.pc, hi32 d.pc, [d.lbl], [], if d.source = w then none else some d.source, false⟩
    Handles s w r → ∃ t, exec (.delivery_fault w) s = .next t ∧ Entered w u r s t ∧ (t.warp w).deliveries = ds := by
  intro r h
  have hrun := delivery_fault_runs hlife hfor hd h.sheet h.outside
  have hwarp : (s.setWarp w { s.warp w with deliveries := ds }).warp w = { s.warp w with deliveries := ds } := State.warp_setWarp ..
  have hrecord : (s.setWarp w { s.warp w with deliveries := ds }).record w = s.record w :=
    setWarp_record s w rfl
  have hmemory : ∀ k l, (s.setWarp w { s.warp w with deliveries := ds }).readMem k l = s.readMem k l := readMem_congr rfl rfl rfl rfl
  generalize s.setWarp w { s.warp w with deliveries := ds } = s' at *
  have h' : Handles s' w r := by
    obtain ⟨hbit, haddress, hhandler, hsheet, hroll⟩ := h
    constructor <;> simpa only [hwarp, hrecord]
  obtain ⟨hentered, hdel⟩ := takeTrap_entered (u := u) (by rw [hwarp]; exact hsub) h'
  refine ⟨_, hrun, ?_, by rw [hdel, hwarp]⟩
  obtain ⟨report, handler, taker, tc, record, shadow, regs, masks, stands, memory⟩ := hentered
  rw [hwarp] at tc shadow
  rw [hrecord] at stands
  simp only [hwarp] at regs masks
  exact ⟨report, handler, taker, tc, record, shadow, fun g hg hg' => (regs g hg hg').trans (by cases g <;> rfl), masks, stands,
    fun k l => (memory k l).trans (hmemory k l)⟩

end Sys2Proof.Machine
end

section
/-! SUPPORT. Pre-emption (R221 to R224): what leaves with a warp that is taken, and what comes back with one that goes on. -/

namespace Sys2Proof.Machine

open Sys2Proof

/-! Leaving the core. -/

theorem putCmd_calm (s : State) (c : Cmd) : Calm s (putCmd s c) := cmds_calm ..

theorem modQuad_calm (s : State) (q : Nat) (f : Quad → Quad) : Calm s (s.modQuad q f) := setQuad_calm ..
theorem modBlock_calm (s : State) (g b : Nat) (f : Block → Block) : Calm s (s.modBlock g b f) := setBlock_calm ..

theorem readHalf_calm (s : State) (c : Cmd) : Calm s (readHalf s c) := by
  unfold readHalf
  split
  · dsimp only
    split
    · exact Touches.refl s
    · split
      · exact ((modQuad_calm ..).trans (deliver_calm ..)).trans (putCmd_calm ..)
      · exact (joinList_calm ..).trans (modQuad_calm ..)
  · exact Touches.refl s

/-- A load that fills a half makes its reads, where it has not. -/
theorem fillHalf_calm (s : State) (filling : Option Cmd) : Calm s (match filling with
    | some c => if c.consumed then s else readHalf s c
    | none => s) := by
  cases filling with
  | none => exact Touches.refl s
  | some c =>
    dsimp only
    split
    · exact Touches.refl s
    · exact readHalf_calm ..

theorem takeHalf_calm (q : Nat) (gang : Word) (acc : List BHalf × State) (h : Nat) : Calm acc.2 (takeHalf q gang acc h).2 := by
  unfold takeHalf
  extract_lets s filling t b
  have ht : Calm acc.2 t := fillHalf_calm s filling
  split
  · exact ht
  · exact ht.trans (Calm.of_same rfl rfl rfl rfl rfl)

/-- Both halves of the B latch that go with a gang. -/
theorem takeHalves_calm (q : Nat) (gang : Word) (hs : List Nat) (p : List BHalf × State) : Calm p.2 (hs.foldl (takeHalf q gang) p).2 :=
  Touches.foldPair (takeHalf q gang) (takeHalf_calm q gang) hs p

theorem saveWindows_calm (s : State) (w : Nat) : Calm s (saveWindows s w) := by
  unfold saveWindows
  extract_lets x q gone
  refine Touches.foldl _ gone s (fun t a => ?_)
  extract_lets first last rows b
  have hb : Calm t b := modQuad_calm ..
  have hhalves := takeHalves_calm x.quad a.1 [0, 1] ([], b)
  generalize [0, 1].foldl (takeHalf x.quad a.1) ([], b) = p at hhalves ⊢
  exact (hb.trans hhalves).trans (modBlock_calm ..)

theorem leaveCore_calm (s : State) (w kind : Nat) : Calm s (leaveCore s w kind) := by
  unfold leaveCore
  dsimp only
  split
  · exact Touches.refl s
  · exact setBlock_calm ..

theorem dropWarpLatches_calm (s : State) (w : Nat) : Calm s (dropWarpLatches s w) := by
  unfold dropWarpLatches
  dsimp only
  split
  · split
    · exact modQuad_calm ..
    · exact Touches.refl s
  · exact Touches.refl s

theorem withdraw_calm (s : State) (w : Nat) : Calm s (withdraw s w) := modQuad_calm ..
theorem leaveLatch_calm (s : State) (w : Nat) : Calm s (leaveLatch s w) := modQuad_calm ..

/-- The warp `w` has been taken: its life, request, mark and prefetches are new, and no other warp and no byte of memory has changed. -/
structure Taken (w : Nat) (l : Life) (s t : State) : Prop where
  warp : ∃ mark n, (t.warp w).bare = ({ s.warp w with mark := mark, life := l, evict := 0, prefetches := n } : Warp).bare
  others : ∀ k, k ≠ w → (t.warp k).bare = (s.warp k).bare
  memory : ∀ d l, t.readMem d l = s.readMem d l

theorem takenAs_taken (s : State) (w : Nat) (l : Life) : Taken w l s (takenAs s w l) := by
  unfold takenAs
  extract_lets kind a b c
  have ha : a.warp w = { s.warp w with mark := s.clockOf (dieOfQuad (s.warp w).quad) } := State.warp_setWarp ..
  have hab : Calm a b := (withdraw_calm ..).trans (dropWarpLatches_calm ..)
  have hend : Calm c (leaveCore (saveWindows c w) w kind) := (saveWindows_calm ..).trans (leaveCore_calm ..)
  have hc : ∃ n, c.warp w = { b.warp w with life := l, evict := 0, prefetches := n } := ⟨_, State.warp_setWarp ..⟩
  obtain ⟨n, hc⟩ := hc
  refine ⟨⟨s.clockOf (dieOfQuad (s.warp w).quad), n, (hend.warps w).trans ?_⟩, fun k hk => ?_, fun d l => ?_⟩
  · have hbare := (hab.warps w).trans (congrArg Warp.bare ha)
    rw [hc]
    exact (congrArg (fun x : Warp => ({ x with life := l, evict := 0, prefetches := n } : Warp).bare) hbare :)
  · refine (hend.warps k).trans ((congrArg Warp.bare (State.warp_setWarp_ne _ _ hk)).trans ((hab.warps k).trans ?_))
    exact congrArg Warp.bare (State.warp_setWarp_ne _ _ hk)
  · refine (hend.memory_eq d l).trans ((readMem_congr rfl rfl rfl rfl d l).trans ((hab.memory_eq d l).trans ?_))
    exact readMem_congr rfl rfl rfl rfl d l

/-! PREEMPTION_REQUEST (R221, R222). -/

/-- Any byte. -/
def anyByte (_ : Nat) (_ : Loc) : Prop := True

theorem cancelPrefetches_calm (s : State) (w : Nat) : Calm s (cancelPrefetches s w) := by
  unfold cancelPrefetches
  split
  · exact cmds_calm ..
  · exact Touches.refl s

theorem restoreImage_touches (s : State) (w : Nat) (im : Image) : Touches anyByte s (restoreImage s w im) := by
  unfold restoreImage
  dsimp only
  split
  · exact Touches.of_calm (modBlock_calm ..)
  · exact (performAtHome_touches ..).mono (fun _ _ _ => trivial)

theorem muteCmds_calm (s : State) (w mark : Nat) : Calm s (muteCmds s w mark) := cmds_calm ..

/-- A flashback rewinds the warp to its cue point. -/
theorem flashback_rewinds {s : State} {w : Nat} {c : Cue} (hc : (s.warp w).cue = some c) :
    ∃ t, ((flashback s w).warp w).bare = ((s.warp w).rewind c t).bare := by
  unfold flashback
  dsimp only
  rw [hc]
  dsimp only
  have hleave : Touches anyByte s (cancelPrefetches (leaveLatch (dropWarpLatches s w) w) w) :=
    Touches.of_calm (((dropWarpLatches_calm ..).trans (leaveLatch_calm ..)).trans (cancelPrefetches_calm ..))
  generalize cancelPrefetches (leaveLatch (dropWarpLatches s w) w) w = a at hleave ⊢
  have hrestore := (hleave.trans (Touches.foldl _ c.images a (fun s im => restoreImage_touches s w im))).before (muteCmds_calm _ w c.cmdMark)
  generalize muteCmds (c.images.foldl (fun s im => restoreImage s w im) a) w c.cmdMark = b at hrestore ⊢
  refine ⟨b.stamp, ?_⟩
  refine ((countCore_calm ..).warps w).trans ((congrArg Warp.bare (State.warp_setWarp ..)).trans ?_)
  exact (congrArg (fun x : Warp => (x.rewind c b.stamp).bare) (hrestore.warps w) :)

theorem keepPark_subs (x : Warp) (s : State) (w : Nat) : { (keepPark x s w).warp w with subs := [] } = { s.warp w with subs := [] } := by
  unfold keepPark
  split
  · rw [State.modWarp_eq, State.warp_setWarp]
  · rfl

/-- A requested warp is not taken for another's room. -/
theorem preemption_flashes {s : State} {w : Nat} (hlife : (s.warp w).life = .resident) (hhalt : debugHalted s (s.warp w) = false)
    (hevict : (s.warp w).evict ≠ 0) (hun : (s.warp w).uncommitted = true) (hhandler : (s.warp w).handler = false)
    (hwait : flashbackWaits s w = false) :
    exec (.preemption_request w) s = did (takenAs (keepPark (s.warp w) (flashback s w) w) w .rewound) := by
  change execPreemptionRequest w s = _
  unfold execPreemptionRequest
  simp [hlife, hhalt, hevict, hun, hhandler, hwait]

theorem preemption_saves {s : State} {w : Nat} (hlife : (s.warp w).life = .resident) (hhalt : debugHalted s (s.warp w) = false)
    (hevict : (s.warp w).evict ≠ 0) (h : (s.warp w).uncommitted = false ∨ (s.warp w).handler = true) :
    exec (.preemption_request w) s = did (s.setWarp w { s.warp w with life := .saving }) := by
  change execPreemptionRequest w s = _
  unfold execPreemptionRequest
  rcases h with h | h <;> simp [hlife, hhalt, hevict, h]

theorem preemption_completes (s : State) (w : Nat) (hlife : (s.warp w).life = .resident) (hhalt : debugHalted s (s.warp w) = false)
    (hevict : (s.warp w).evict ≠ 0) :
    ((s.warp w).uncommitted = true → (s.warp w).handler = false → flashbackWaits s w = false → ∃ t, Completes (.preemption_request w) s t ∧ (t.warp w).life = .rewound ∧
      ∀ c, (s.warp w).cue = some c → (t.warp w).o = restoreFile c.keepsO c.o (s.warp w).o ∧
        (t.warp w).v = restoreFile c.keepsV c.v (s.warp w).v ∧ (t.warp w).s = restoreUniform c.keepsS c.s (s.warp w).s) ∧
    (((s.warp w).uncommitted = false ∨ (s.warp w).handler = true) → ∃ t, Completes (.preemption_request w) s t ∧ Quiet s t ∧
      (t.warp w).life = .saving) := by
  refine ⟨fun hun hhandler hwait => ?_, fun h => ?_⟩
  · have hrun := preemption_flashes hlife hhalt hevict hun hhandler hwait
    have hpark := keepPark_subs (s.warp w) (flashback s w) w
    generalize keepPark (s.warp w) (flashback s w) w = b at hrun hpark
    obtain ⟨⟨mark, n, htaken⟩, -, -⟩ := takenAs_taken b w .rewound
    generalize takenAs b w .rewound = t at hrun htaken
    refine ⟨_, completes_did hrun, Warp.bare_field htaken Warp.life (fun _ => rfl), fun c hc => ?_⟩
    obtain ⟨stamp, hrewound⟩ := flashback_rewinds hc
    -- a file of the warp comes from the rewound warp through its park and its taking
    have hfile {α : Type} (f : Warp → α) (hbare : ∀ x : Warp, f x.bare = f x) (hsubs : ∀ x : Warp, f { x with subs := [] } = f x)
        (hlife : ∀ x : Warp, f { x with mark := mark, life := .rewound, evict := 0, prefetches := n } = f x) :
        f (t.warp w) = f ((s.warp w).rewind c stamp) := by
      refine (Warp.bare_field htaken f hbare).trans ((hlife _).trans ?_)
      exact ((hsubs _).symm.trans ((congrArg f hpark).trans (hsubs _))).trans (Warp.bare_field hrewound f hbare)
    exact ⟨hfile Warp.o (fun _ => rfl) (fun _ => rfl) (fun _ => rfl), hfile Warp.v (fun _ => rfl) (fun _ => rfl) (fun _ => rfl),
      hfile Warp.s (fun _ => rfl) (fun _ => rfl) (fun _ => rfl)⟩
  · have halike : ({ s.warp w with life := .saving } : Warp).Alike (s.warp w) :=
      ⟨fun g => Warp.reg_of_files rfl rfl rfl g, fun _ => rfl, rfl⟩
    exact ⟨_, completes_did (preemption_saves hlife hhalt hevict h), (Quiet.setWarp s w halike).trans (report_quiet ..),
      congrArg Warp.life (State.warp_setWarp s w { s.warp w with life := .saving })⟩

/-! FULL_SAVE (R221, R224). -/

/-- A saving warp without its dead registers, the save counted. -/
def savedFiles (s : State) (w : Nat) : State := countCore (s.modWarp w omitDead) (coreOfQuad (s.warp w).quad) 7 (s.warp w).vd

theorem full_save_runs {s : State} {w : Nat} (hlife : (s.warp w).life = .saving) (hldx : (s.warp w).ldx = [])
    (hdone : ∀ m, m ∈ (s.quad (s.warp w).quad).rendezvous → m.warp = w → m.done = false) (hclean : poisonedLanes s w = 0#32) :
    exec (.full_save w) s = did (takenAs (savedFiles s w) w .saved) := by
  have hany : (s.quad (s.warp w).quad).rendezvous.any (fun m => m.warp == w && m.done) = false := by
    refine List.any_eq_false.mpr (fun m hm => ?_)
    by_cases hw : m.warp = w
    · simp [hdone m hm hw]
    · simp [hw]
  change execFullSave w s = _
  unfold execFullSave
  simp only [hclean, hany, hlife, hldx, beq_self_eq_true]
  rfl

theorem full_save_completes (s : State) (w : Nat) (hlife : (s.warp w).life = .saving) (hldx : (s.warp w).ldx = [])
    (hdone : ∀ m, m ∈ (s.quad (s.warp w).quad).rendezvous → m.warp = w → m.done = false) (hclean : poisonedLanes s w = 0#32) :
    ∃ t, Completes (.full_save w) s t ∧ Frame (fun x _ => x = w) (fun _ _ => False) (fun x => x = w) (fun _ _ => False) s t ∧
      (t.warp w).life = .saved ∧ (t.warp w).o = (s.warp w).o.filter (fun e => !e.2.dead) ∧ (t.warp w).v = (s.warp w).v.filter (fun e => !e.2.dead) := by
  have hrun := full_save_runs hlife hldx hdone hclean
  have hfiles : (savedFiles s w).warp w = omitDead (s.warp w) := State.warp_setWarp ..
  have hothers (k : Nat) (hk : k ≠ w) : (savedFiles s w).warp k = s.warp k := State.warp_setWarp_ne _ _ hk
  have hmemory (d : Nat) (l : Loc) : (savedFiles s w).readMem d l = s.readMem d l := readMem_congr rfl rfl rfl rfl d l
  obtain ⟨⟨mark, n, htaken⟩, hrest, hmem⟩ := takenAs_taken (savedFiles s w) w .saved
  generalize takenAs (savedFiles s w) w .saved = t at hrun htaken hrest hmem
  have halike (k : Nat) (hk : k ≠ w) : (t.warp k).Alike (s.warp k) := Warp.bare_alike ((hrest k hk).trans (congrArg Warp.bare (hothers k hk)))
  rw [hfiles] at htaken
  refine ⟨_, completes_did hrun, ⟨fun k g hk => (halike k hk).regs g, fun k m _ => ?_, fun k hk => (halike k hk).specials,
    fun d l _ => (hmem d l).trans (hmemory d l)⟩, Warp.bare_field htaken Warp.life (fun _ => rfl), Warp.bare_field htaken Warp.o (fun _ => rfl),
    Warp.bare_field htaken Warp.v (fun _ => rfl)⟩
  by_cases hk : k = w
  · rw [hk]
    exact Warp.bare_field htaken (fun x => x.mask m) (fun _ => rfl)
  · exact (halike k hk).masks m

/-! RESUME (R222, R223). -/

/-- What the end of a resumption leaves: warps but for their sub-warps, the blocks, and the bytes of memory. -/
structure Woken (s t : State) : Prop where
  warps : ∀ k, { t.warp k with subs := [] } = { s.warp k with subs := [] }
  blocks : t.blocks = s.blocks
  memory : ∀ d l, t.readMem d l = s.readMem d l

theorem Woken.refl (s : State) : Woken s s := ⟨fun _ => rfl, rfl, fun _ _ => rfl⟩

theorem Woken.trans {s t r : State} (h : Woken s t) (h' : Woken t r) : Woken s r :=
  ⟨fun k => (h'.warps k).trans (h.warps k), h'.blocks.trans h.blocks, fun d l => (h'.memory d l).trans (h.memory d l)⟩

theorem Woken.foldl {α : Type} (f : State → α → State) (h : ∀ s a, Woken s (f s a)) (xs : List α) (s : State) :
    Woken s (xs.foldl f s) := foldl_related Woken.refl Woken.trans f h xs s

theorem Woken.of_calm {s t : State} (h : Calm s t) (hw : t.warps = s.warps) (hb : t.blocks = s.blocks) : Woken s t :=
  ⟨fun k => by simp only [State.warp, hw], hb, h.memory_eq⟩

theorem Woken.field {s t : State} (h : Woken s t) {α : Type} (f : Warp → α) (hf : ∀ x : Warp, f { x with subs := [] } = f x) (k : Nat) :
    f (t.warp k) = f (s.warp k) := (hf _).symm.trans ((congrArg f (h.warps k)).trans (hf _))

theorem Woken.quiet {s t : State} (h : Woken s t) : Quiet s t :=
  Quiet.of_alike (fun k => ⟨fun g => h.field (fun x => x.reg g) (fun _ => Warp.reg_of_files rfl rfl rfl g) k,
    fun n => h.field (fun x => x.mask n) (fun _ => rfl) k, h.field Warp.specials (fun _ => rfl) k⟩) h.memory

theorem vdEvent_woken (s : State) (v gen kind : Nat) (bs : List Byte) : Woken s (vdEvent s v gen kind bs) := by
  unfold vdEvent
  dsimp only
  split
  · exact Woken.of_calm (setVd_calm ..) rfl rfl
  · split
    · exact Woken.of_calm (setVd_calm ..) rfl rfl
    · split <;> exact Woken.of_calm (setVd_calm ..) rfl rfl

theorem makeReady_woken (s : State) (w : Nat) (u : SubWarp) : Woken s (makeReady s w u) := by
  refine ⟨fun k => ?_, rfl, readMem_congr rfl rfl rfl rfl⟩
  unfold makeReady
  dsimp only [freshStamp]
  rw [State.modWarp_eq, State.warp_setWarp_eq]
  split
  · rename_i hk; rw [hk]; rfl
  · rfl

theorem wake_woken (s : State) (w : Nat) : Woken s (wake s w) := by
  refine Woken.foldl _ (fun s u => ?_) _ s
  split
  · exact vdEvent_woken ..
  · exact makeReady_woken ..
  · exact Woken.refl s

theorem countDie_woken (s : State) (d src v : Nat) : Woken s (countDie s d src v) :=
  Woken.of_calm (countDie_calm ..) (by simp [countDie]) (by simp [countDie])

theorem newCmds_woken (s : State) (cs : SMap Cmd) (n : Nat) : Woken s { s with cmds := cs, cmdSerial := n } :=
  Woken.of_calm (Calm.of_same rfl rfl rfl rfl rfl) rfl rfl

theorem addCmd_woken (s : State) (c : Cmd) : Woken s (addCmd s c) := by
  unfold addCmd
  dsimp only
  split
  · exact (newCmds_woken ..).trans (countDie_woken ..)
  · exact newCmds_woken ..

theorem endCmd_woken (s : State) (c : Cmd) : Woken s (endCmd s c) := Woken.of_calm (cmds_calm ..) rfl rfl

theorem reissue_woken (s : State) (w : Nat) : Woken s (reissue s w) :=
  Woken.foldl _ (fun _ _ => (endCmd_woken ..).trans (addCmd_woken ..)) _ s

/-- A block at its core again, without the windows that its warp takes along. -/
def replaced (s : State) (w core : Nat) : State :=
  let x := s.warp w
  let b := s.block x.grid x.block
  let ws := windowsOf b w
  (ws.foldl (restoreWindow (4 * core + x.quad % 4)) s).setBlock x.grid x.block
    { b with core := core, away := false, windows := b.windows.filter (fun a => !ws.contains a) }

/-- The warp resident on its quadrant number of the core. -/
def reseated (s : State) (w quad : Nat) : State := s.modWarp w (fun y => { y with life := .resident, quad := quad, prefetches := 0 })

theorem resumed_eq (s : State) (w core : Nat) :
    resumed s w core = wake (reissue (reseated (replaced s w core) w (4 * core + (s.warp w).quad % 4)) w) w := rfl

theorem restoreWindow_calm (q : Nat) (s : State) (a : SavedWindow) : Calm s (restoreWindow q s a) := by
  unfold restoreWindow
  exact modQuad_calm ..

theorem replaced_calm (s : State) (w core : Nat) : Calm s (replaced s w core) := by
  unfold replaced
  exact (Touches.foldl _ _ s (restoreWindow_calm _)).trans (setBlock_calm ..)

theorem replaced_core (s : State) (w core : Nat) : ((replaced s w core).block (s.warp w).grid (s.warp w).block).core = core :=
  congrArg Block.core (State.block_setBlock ..)

theorem reseated_quiet (s : State) (w quad : Nat) : Quiet s (reseated s w quad) :=
  Quiet.setWarp s w ⟨fun g => Warp.reg_of_files rfl rfl rfl g, fun _ => rfl, rfl⟩

theorem resume_runs {s : State} {w core : Nat} (h : mayResume s w core = true) : exec (.resume w core) s = did (resumed s w core) := if_pos h

theorem resume_completes (s : State) (w core : Nat) (h : mayResume s w core = true) :
    ∃ t, Completes (.resume w core) s t ∧ Quiet s t ∧ (t.warp w).life = .resident ∧ (t.warp w).quad = 4 * core + (s.warp w).quad % 4 ∧
      (t.block (s.warp w).grid (s.warp w).block).core = core := by
  have hrun := resume_runs h
  rw [resumed_eq] at hrun
  have hcalm := replaced_calm s w core
  have hcore := replaced_core s w core
  generalize replaced s w core = a at hrun hcalm hcore
  generalize hq : 4 * core + (s.warp w).quad % 4 = q at hrun
  have hseat : (reseated a w q).warp w = { a.warp w with life := .resident, quad := q, prefetches := 0 } := State.warp_setWarp ..
  have hwoken := (reissue_woken (reseated a w q) w).trans (wake_woken _ w)
  generalize wake (reissue (reseated a w q) w) w = t at hrun hwoken
  refine ⟨_, completes_did hrun, ((hcalm.quiet.trans (reseated_quiet a w q)).trans hwoken.quiet).trans (report_quiet ..), ?_, ?_, ?_⟩
  · exact (hwoken.field Warp.life (fun _ => rfl) w).trans (congrArg Warp.life hseat)
  · exact (hwoken.field Warp.quad (fun _ => rfl) w).trans (congrArg Warp.quad hseat)
  · have hblock : t.block (s.warp w).grid (s.warp w).block = a.block (s.warp w).grid (s.warp w).block := by
      simp only [State.block, hwoken.blocks]
      rfl
    exact (congrArg Block.core hblock).trans hcore

/-- Settles O52: what a write changes at its home and at a replica (`wentHome_touches`, `replicated_touches`), the entry of a handled trap into the
handler (`takeTrap_entered`), and what a warp takes along and brings back (`takenAs_taken`, `Woken`). -/
theorem memoryAndWarpEvents : Obligations.MemoryAndWarpEvents := by
  unfold Obligations.MemoryAndWarpEvents
  exact ⟨store_apply_completes, replica_completes, hbm_window_write_completes, delivery_fault_enters, preemption_completes, full_save_completes,
    resume_completes⟩

end Sys2Proof.Machine
end

section
/-! SUPPORT. Words and lines (R84 to R108): the fields of an encoded word, what the decoder finds in a line that starts with a run of PFX
words and a group, and the round trip of the encoder and the decoder. -/

namespace Sys2Proof

open Machine WF

/-! The parts of an instruction. -/

theorem Laws.Words.statement (i : Instr) : Laws.Words.Statement i := by
  cases i
  open Laws.Words in
  exacts [
    nop, iadd_32 _ _, iadd_64 _ _ _, iadd_96 _ _ _ _, isub_32 _ _, isub_64 _ _ _, isub_96 _ _ _ _, iaddc_32 _ _, iaddc_64 _ _ _,
    iaddc_96 _ _ _ _, imul_32 _ _, imul_64 _ _ _, imul_96 _ _ _ _, imulh_32 _ _, imulh_64 _ _ _, imulh_96 _ _ _ _, imad_32 _ _,
    imad_64 _ _ _, imad_96 _ _ _ _, imadw_32 _ _, imadw_64 _ _ _, imadw_96 _ _ _ _, imin_32 _ _, imin_64 _ _ _, imin_96 _ _ _ _,
    imax_32 _ _, imax_64 _ _ _, imax_96 _ _ _ _, and_32 _ _, and_64 _ _ _, and_96 _ _ _ _, or_32 _ _, or_64 _ _ _, or_96 _ _ _ _,
    xor_32 _ _, xor_64 _ _ _, xor_96 _ _ _ _, andn_32 _ _, andn_64 _ _ _, andn_96 _ _ _ _, bool3_64 _ _ _, bool3_96 _ _ _ _, shl_32 _ _,
    shl_64 _ _ _, shl_96 _ _ _ _, shr_32 _ _, shr_64 _ _ _, shr_96 _ _ _ _, sar_32 _ _, sar_64 _ _ _, sar_96 _ _ _ _, rot_32 _ _,
    rot_64 _ _ _, rot_96 _ _ _ _, shf_32 _ _, shf_64 _ _ _, shf_96 _ _ _ _, bfx_32 _ _, bfx_64 _ _ _, bfx_96 _ _ _ _, bfi_32 _ _,
    bfi_64 _ _ _, bfi_96 _ _ _ _, prmt_32 _ _, prmt_64 _ _ _, prmt_96 _ _ _ _, icmp_32 _ _, icmp_64 _ _ _, icmp_96 _ _ _ _, isel_32 _ _,
    isel_64 _ _ _, isel_96 _ _ _ _, lea_32 _ _, lea_64 _ _ _, lea_96 _ _ _ _, fadd_32 _ _, fadd_64 _ _ _, fadd_96 _ _ _ _, fmul_32 _ _,
    fmul_64 _ _ _, fmul_96 _ _ _ _, ffma_32 _ _, ffma_64 _ _ _, ffma_96 _ _ _ _, fmin_32 _ _, fmin_64 _ _ _, fmin_96 _ _ _ _, fmax_32 _ _,
    fmax_64 _ _ _, fmax_96 _ _ _ _, fcmp_32 _ _, fcmp_64 _ _ _, fcmp_96 _ _ _ _, hadd2_32 _ _, hadd2_64 _ _ _, hadd2_96 _ _ _ _,
    hmul2_32 _ _, hmul2_64 _ _ _, hmul2_96 _ _ _ _, hfma2_32 _ _, hfma2_64 _ _ _, hfma2_96 _ _ _ _, hmin2_32 _ _, hmin2_64 _ _ _,
    hmin2_96 _ _ _ _, hmax2_32 _ _, hmax2_64 _ _ _, hmax2_96 _ _ _ _, hcmp2_32 _ _, hcmp2_64 _ _ _, hcmp2_96 _ _ _ _, cvt_32 _ _,
    cvt_64 _ _ _, cvtp_32 _ _, cvtp_64 _ _ _, cvtu_32 _ _, cvtu_64 _ _ _, scl_32 _ _, scl_64 _ _ _, dot2_32 _ _, dot2_64 _ _ _,
    dot4_32 _ _, dot4_64 _ _ _, dot8_32 _ _, dot8_64 _ _ _, movo _ _ _, movm _ _ _, movu_32 _ _, movu_64 _ _ _, movk_to_mask _ _,
    movk_from_mask _ _, ldi_64 _ _ _, ldi_96 _ _ _ _, bra_64 _ _ _, bra_96 _ _ _ _, brx _ _ _, pad _ _, call_64 _ _ _, call_96 _ _ _ _,
    callx _ _ _, ret _ _, exit _ _, cue_64 _ _ _, cue_96 _ _ _ _, trap_32 _ _, trap_64 _ _ _, census_32 _ _, census_64 _ _ _, pick_32 _ _,
    pick_64 _ _ _, peers_32 _ _, peers_64 _ _ _, qx_32 _ _, qx_64 _ _ _, red_32 _ _, red_64 _ _ _, scan_32 _ _, scan_64 _ _ _, draw _ _ _,
    drawm _ _ _, sreg_read _ _, sreg_write _ _, lraise_32 _ _, lraise_64 _ _ _, lchk_32 _ _, lchk_k_32 _ _, lchk_64 _ _ _, lchk_k_64 _ _ _,
    dcl_reg _ _ _, dcl_g _ _ _, dcl_sp _ _ _, ld_32 _ _, ld_64 _ _ _, ld_96 _ _ _ _, st_32 _ _, st_64 _ _ _, st_96 _ _ _ _, lds_32 _ _,
    lds_64 _ _ _, lds_96 _ _ _ _, sts_32 _ _, sts_64 _ _ _, sts_96 _ _ _ _, ldf_32 _ _, ldf_64 _ _ _, ste_32 _ _, ste_64 _ _ _,
    ldx_64 _ _ _, ldx_96 _ _ _ _, waitc _ _ _, atom _ _ _, atoms _ _ _, rdm _ _ _, fence _ _, bar_32 _ _, bar_64 _ _ _, barw _ _,
    prf_32 _ _, prf_64 _ _ _, graise _ _, glbl _ _, qbind _ _, qpoll _ _, qrd _ _, qwr _ _, mx_fmt _ _ _, mx_ldb _ _ _, mx_mma _ _ _,
    mx_mmas _ _ _, mx_zero _ _ _, mx_rd _ _ _, mx_wr _ _ _, mx_rdv _ _ _, mx_qnt _ _ _, xf_copy_64 _ _ _, xf_copy_96 _ _ _ _,
    xf_pref _ _ _, xf_yield _ _ _, bobj_init _ _ _, cl_put _ _ _, cl_get _ _ _, cl_red _ _ _, cl_atom _ _ _, cl_draw _ _ _, cl_sig _ _ _,
    mb_open _ _ _, mb_send_32 _ _, mb_send_64 _ _ _, mb_send_sp _ _ _, lock_32 _ _, lock_64 _ _ _, trylock_32 _ _, trylock_64 _ _ _,
    unlock_32 _ _, unlock_64 _ _ _, promise _ _, heir _ _ _, launch _ _ _, nop_h0 _, nop_h1 _, nop_h2 _, nop_h3 _, ineg _ _, iabs _ _,
    popc _ _, clz _ _, ctz _ _, brev _ _, frcp _ _, frsq _ _, fsqrt _ _, fexp2 _ _, flog2 _ _, fsin _ _, fcos _ _, ftanh _ _, frnd _ _,
    ffrc _ _, kill _ _, syncw _ _, yield _ _, bkpt _ _, elect _ _, lget _ _, Laws.Words.seal _ _, Laws.Words.unseal _ _, qfree _ _, rett _ _,
    tclr _ _, tmask _ _, halt _ _, mx_gang _ _, mx_wait _ _, mx_drop _ _, xf_wait _ _, xf_cancel _ _, bobj_arv _ _, cl_flush _ _, mb_ver _ _,
    mb_mode _ _, will _ _, estq _ _, lwait _ _, delivery_fault _, store_apply_at_home _, replica_apply _ _, ldx_reply _ _ _,
    ldf_ste_lane_complete _ _, queue_held_entry_deliver _ _, preemption_request _, full_save _, resume _ _, conveyance _,
    probate_delivery _, lock_retry _, rendezvous_release _, mx_consumed _, mx_done _, audit_verdict _ _ _ _ _, cl_audit_verdict _ _,
    copy_complete _ _, prefetch_arrival _, xf_yield_resume _, slot_start _ _, cl_peer_apply _ _ _, cl_complete _, switch_write_back _ _,
    write_back_at_home _, await _ _, await_wake _ _, end_ _ _, u_mode_exception _ _, mbpop _ _, mbpush _ _, observation_delivery _ _,
    watchdog _ _ _, episode_create _ _, episode_end _ _ _, mbcfg_write _ _ _ _, mbdrop_read _ _ _, mbstat_read _ _,
    launch_port_store _ _ _ _ _, lpstat_read _ _ _, deal, block_start _, steal _ _, grid_complete _, virtual_time_charge _, slice_end _,
    gfpop _ _ _, gfstat_read _ _, vdcreate _ _, vdreset _ _, vdfree _ _, grant_install _ _ _, grant_revoke _ _ _, migout _ _ _ _,
    migin _ _, migabort _ _, migration_complete _, ticket_expiry _, msnap _ _ _, attest _ _, fwload _ _ _ _, lcset _ _ _ _,
    dbgattach _ _ _ _, sbstat_read _, qown_write _ _ _, sown_write _ _ _, mapsync _ _ _ _, mapsync_done _, parkgo _ _ _, parkkill _ _ _,
    mapstat_read _ _, xwin_write _ _ _ _, evpop _ _ _, hvpop _ _, event_record_release _, vdstat_read _ _, hvstat_read _, qstat_read _ _,
    quench_clear _, row_mitigation _ _ _ _, metering_tick _, bellows_period _ _ _, uncorrectable_error _, corrected_error _ _ _ _ _,
    line_fetch _ _ _, elpop _ _ _, elstat_read _ _, debug_resume _ _, block_freeze _ _ _, host_kill _ _, hbm_window_write _ _ _,
    kwid_write _ _, violation_freeze _, host_module_disable _, reset _, bring_up_phase _, register_write _ _ _ _,
    unassigned_opcode _ _ _ _ _, orphaned_prefix _ _ _, episode_instruction _ _, peer_copy_access _ _ _, kwport_read _ _, qown_read _ _,
    sown_read _ _, activation_window _ _]

/-- Words that a length class lacks read as zero, and page 1 holds 32-bit instructions alone (R105). -/
structure Parts.Canonical (q : Parts) : Prop where
  second : q.len = .w32 → q.x = W1.zero
  literal : q.len ≠ .w96 → q.lit = 0#32
  short : q.page1 = true → q.len = .w32

theorem Instr.parts_canonical {i : Instr} {q : Parts} (h : i.parts = some q) : q.Canonical := by
  cases i <;> cases h <;> constructor <;> simp

/-! Encoded words. -/

theorem W0.ofWord_encodeW0 (w : W0) (c : BitVec 7) (l : BitVec 2) : W0.ofWord (encodeW0 w c l) = w := by
  obtain ⟨latch, wbs, luB, luA, b, a, d⟩ := w
  simp [-Nat.reduceAdd, -BitVec.getLsbD_eq_getElem, field, W0.ofWord, encodeW0,
    BitVec.extractLsb'_append_eq_of_le, BitVec.extractLsb'_append_eq_of_add_le, BitVec.getLsbD_append]

theorem field_code_encodeW0 (w : W0) (c : BitVec 7) (l : BitVec 2) : field (encodeW0 w c l) 2 7 = c := by
  simp [-Nat.reduceAdd, field, encodeW0, BitVec.extractLsb'_append_eq_of_le, BitVec.extractLsb'_append_eq_of_add_le]

theorem lenOf_encodeW0 (w : W0) (c : BitVec 7) (l : Len) : lenOf (encodeW0 w c l.code) = some l := by
  have hbits : field (encodeW0 w c l.code) 0 2 = l.code := by
    simp [-Nat.reduceAdd, field, encodeW0, BitVec.extractLsb'_append_eq_of_add_le]
  rw [lenOf, hbits]
  cases l <;> rfl

theorem W1.ofWord_encodeW1 (x : W1) : W1.ofWord (encodeW1 x) = x := by
  obtain ⟨hi, role, main, c⟩ := x
  simp [-Nat.reduceAdd, field, W1.ofWord, encodeW1, BitVec.extractLsb'_append_eq_of_le, BitVec.extractLsb'_append_eq_of_add_le]

/-- The word of a PFX word. -/
def PfxWord.word : PfxWord → Word
  | .rs r => encodeRS r
  | .k r => encodeK r
  | .z r => encodeZ r
  | .x => 0x0000000F#32

/-- A PFX.RS names a key for stochastic rounding alone (R95). -/
def PfxWord.Keyed (u : PfxWord) : Prop := ∀ r, u = .rs r → r.rnd = .sr ∨ r.key = 0#4

theorem lenOf_word (u : PfxWord) : lenOf u.word = none := by
  have hbits : field u.word 0 2 = 3#2 := by
    cases u <;> simp [-Nat.reduceAdd, field, PfxWord.word, encodeRS, encodeK, encodeZ, BitVec.extractLsb'_append_eq_of_add_le]
  rw [lenOf, hbits]
  rfl

theorem rndOf_code (r : Rnd) : rndOf r.code.toNat = some r := by cases r <;> rfl

theorem satOf_code (r : Sat) : satOf r.code.toNat = r := by cases r <;> rfl

theorem pfxOf_encodeRS (r : PfxRS) (h : r.rnd = .sr ∨ r.key = 0#4) : pfxOf (encodeRS r) = some (.rs r) := by
  obtain ⟨rnd, ftz, sat, key⟩ := r
  simp [-Nat.reduceAdd, -BitVec.getLsbD_eq_getElem, field, pfxOf, encodeRS,
    BitVec.extractLsb'_append_eq_of_le, BitVec.extractLsb'_append_eq_of_add_le, BitVec.getLsbD_append,
    rndOf_code, satOf_code, h]

theorem pfxOf_encodeK (r : PfxK) : pfxOf (encodeK r) = some (.k r) := by
  obtain ⟨n, inv⟩ := r
  simp [-Nat.reduceAdd, -BitVec.getLsbD_eq_getElem, field, pfxOf, encodeK,
    BitVec.extractLsb'_append_eq_of_le, BitVec.extractLsb'_append_eq_of_add_le, BitVec.getLsbD_append]

theorem pfxOf_encodeZ (r : PfxZ) : pfxOf (encodeZ r) = some (.z r) := by
  obtain ⟨z, _ | m⟩ := r <;>
    simp [-Nat.reduceAdd, -BitVec.getLsbD_eq_getElem, field, pfxOf, encodeZ,
      BitVec.extractLsb'_append_eq_of_le, BitVec.extractLsb'_append_eq_of_add_le, BitVec.getLsbD_append]

theorem pfxOf_word (u : PfxWord) (h : u.Keyed) : pfxOf u.word = some u := by
  cases u with
  | rs r => exact pfxOf_encodeRS r (h r rfl)
  | k r => exact pfxOf_encodeK r
  | z r => exact pfxOf_encodeZ r
  | x => rfl

/-! The PFX words of an instruction. -/

/-- The PFX words of a group, in the order of their kinds. -/
def pfxWords (page1 : Bool) (p : Pfx) : List PfxWord :=
  (p.rs.map PfxWord.rs).toList ++ (p.k.map PfxWord.k).toList ++ (p.z.map PfxWord.z).toList ++ if page1 then [.x] else []

theorem encodePfx_eq (page1 : Bool) (p : Pfx) : encodePfx page1 p = (pfxWords page1 p).map PfxWord.word := by
  obtain ⟨rs, k, z⟩ := p
  cases rs <;> cases k <;> cases z <;> cases page1 <;> rfl

theorem foldl_add_pfxWords (page1 : Bool) (p : Pfx) : (pfxWords page1 p).foldl Pfx.add Pfx.none = p := by
  obtain ⟨rs, k, z⟩ := p
  cases rs <;> cases k <;> cases z <;> cases page1 <;> rfl

theorem contains_x_pfxWords (page1 : Bool) (p : Pfx) : (pfxWords page1 p).contains .x = page1 := by
  obtain ⟨rs, k, z⟩ := p
  cases rs <;> cases k <;> cases z <;> cases page1 <;> rfl

/-- No kind stands twice (R94). -/
theorem nodup_kinds_pfxWords (page1 : Bool) (p : Pfx) : ((pfxWords page1 p).map PfxWord.kind).Nodup := by
  have hsub : ((pfxWords page1 p).map PfxWord.kind).Sublist [0, 1, 2, 3] := by
    obtain ⟨rs, k, z⟩ := p
    cases rs <;> cases k <;> cases z <;> cases page1 <;> simp [pfxWords, PfxWord.kind]
  exact hsub.nodup (by decide)

theorem mem_pfxWords {page1 : Bool} {p : Pfx} {u : PfxWord} (h : u ∈ pfxWords page1 p) :
    (∃ r, u = .rs r ∧ p.rs = some r) ∨ (∃ r, u = .k r ∧ p.k = some r) ∨ (∃ r, u = .z r ∧ p.z = some r) ∨ (u = .x ∧ page1 = true) := by
  simp only [pfxWords, List.mem_append, Option.mem_toList, Option.map_eq_some_iff, List.mem_ite_nil_right, List.mem_singleton] at h
  obtain ((⟨r, hr, rfl⟩ | ⟨r, hr, rfl⟩) | ⟨r, hr, rfl⟩) | ⟨hx, rfl⟩ := h <;> simp_all

theorem keyed_of_mem {page1 : Bool} {p : Pfx} (hk : ∀ r, p.rs = some r → r.rnd = .sr ∨ r.key = 0#4) {u : PfxWord}
    (h : u ∈ pfxWords page1 p) : u.Keyed := by
  rintro r rfl
  obtain ⟨r', he, hr⟩ | ⟨r', he, _⟩ | ⟨r', he, _⟩ | ⟨he, _⟩ := mem_pfxWords h <;> cases he
  exact hk _ hr

/-- An instruction accepts the PFX words that it carries (R94 to R97). -/
theorem accepts_of_mem {q : Parts} {i : Instr} (hi : q.instr = some i) (ha : i.acc.ok q.pfx = true) {u : PfxWord}
    (h : u ∈ pfxWords q.page1 q.pfx) : q.accepts u = true := by
  simp only [Acc.ok, Bool.and_eq_true] at ha
  obtain ⟨⟨hrs, hk⟩, hz⟩ := ha
  obtain ⟨r, rfl, hr⟩ | ⟨r, rfl, hr⟩ | ⟨r, rfl, hr⟩ | ⟨rfl, _⟩ := mem_pfxWords h <;> simp_all [Parts.accepts]

/-! Lines that hold words from slot 0 on, without target and pair bits. -/

/-- The line from which `decodeWords` reads. -/
def lineOf (ws : List Word) : List Word := (List.range 15).map (fun k => (ws[k]?).getD 0#32) ++ [0#32]

theorem decodeWords_of_ok {ws : List Word} {i : Instr} {n : Nat} (h : decodeGroup (lineOf ws) 0#64 0 = .ok i n) : decodeWords ws = some i := by
  unfold lineOf at h
  unfold decodeWords
  rw [h]

theorem lineWord_lineOf (ws : List Word) {k : Nat} (h : k < 15) : lineWord (lineOf ws) k = (ws[k]?).getD 0#32 := by
  simp [lineWord, lineOf, List.getElem?_append, h]

theorem lineWord_lineOf_last (ws : List Word) : lineWord (lineOf ws) 15 = 0#32 := by
  simp [lineWord, lineOf]

@[simp] theorem targetBit_lineOf (ws : List Word) (k : Nat) : targetBit (lineOf ws) k = false := by
  simp [targetBit, lineWord_lineOf_last]

@[simp] theorem pairBit_lineOf (ws : List Word) (k : Nat) : pairBit (lineOf ws) k = false := by
  simp [pairBit, lineWord_lineOf_last]

theorem pairFault_lineOf (ws : List Word) (n j : Nat) : pairFault (lineOf ws) n j = none := by
  simp [pairFault]

/-- The run of PFX words ends with the first word of an instruction. -/
theorem runLength_eq {ln : List Word} {n m k : Nat} (hm : n < m) (hk : k + n ≤ 14) (hrun : ∀ j, j < n → lenOf (lineWord ln (k + j)) = none)
    (hend : lenOf (lineWord ln (k + n)) ≠ none) : runLength ln m k = n := by
  induction n generalizing m k with
  | zero =>
    cases m with
    | zero => rfl
    | succ m => exact if_neg (fun h => hend h.2)
  | succ n ih =>
    obtain ⟨m, rfl⟩ : ∃ m', m = m' + 1 := ⟨m - 1, by omega⟩
    have hrest : runLength ln m (k + 1) = n :=
      ih (by omega) (by omega) (fun j hj => by rw [Nat.add_assoc, Nat.add_comm 1 j]; exact hrun (j + 1) (by omega))
        (by rwa [Nat.add_assoc, Nat.add_comm 1 n])
    rw [runLength, if_pos ⟨by omega, hrun 0 (by omega)⟩, hrest, Nat.add_comm]

/-- The line starts with the PFX words `us` and then the words of the parts `q`. -/
structure Starts (ln : List Word) (us : List PfxWord) (q : Parts) : Prop where
  few : us.length ≤ 2
  kinds : (us.map PfxWord.kind).Nodup
  run : ∀ j (h : j < us.length), lenOf (lineWord ln j) = none ∧ pfxOf (lineWord ln j) = some us[j]
  first : lenOf (lineWord ln us.length) = some q.len
  parts : partsAt ln us us.length = q

theorem Starts.runLength {ln : List Word} {us : List PfxWord} {q : Parts} (h : Starts ln us q) : runLength ln 15 0 = us.length :=
  runLength_eq (by have := h.few; omega) (by have := h.few; omega) (fun j hj => by rw [Nat.zero_add]; exact (h.run j hj).1)
    (by rw [Nat.zero_add, h.first]; exact Option.some_ne_none _)

theorem mapM_range_of_forall {α : Type} {f : Nat → Option α} (xs : List α) (h : ∀ j (hj : j < xs.length), f j = some xs[j]) :
    (List.range xs.length).mapM f = some xs := by
  induction xs using List.reverseRecOn with
  | nil => rfl
  | append_singleton xs x ih =>
    have hxs := ih (fun j hj => by rw [h j (by simp; omega), List.getElem_append_left hj])
    have hx : f xs.length = some x := by simpa using h xs.length (by simp)
    simp [List.range_succ, List.mapM_append, hxs, hx]

theorem Starts.runWords {ln : List Word} {us : List PfxWord} {q : Parts} (h : Starts ln us q) : runWords ln 0 us.length = some us :=
  mapM_range_of_forall us (fun j hj => by rw [Nat.zero_add]; exact (h.run j hj).2)

/-- A run whose words its instruction accepts has no orphan, PFX.X before a word of 32 bits alone (R98, R99). -/
theorem firstOrphan_lineOf {ws : List Word} {q : Parts} {us : List PfxWord} {k : Nat} (hk : k + us.length ≤ 14)
    (hx : PfxWord.x ∈ us → q.len = .w32) (ha : ∀ u ∈ us, q.accepts u = true) : firstOrphan (lineOf ws) (some q) us k = none := by
  induction us generalizing k with
  | nil => rfl
  | cons u us ih =>
    have hu : orphanAt (lineOf ws) (some q) u k = false := by
      have h14 : k ≠ 14 := by have := List.length_cons (a := u) (as := us); omega
      have hlen : u = .x → q.len = .w32 := fun h => hx (by simp [h])
      simp only [orphanAt, targetBit_lineOf, pairBit_lineOf, ha u (by simp)]
      simpa [h14] using hlen
    rw [firstOrphan, hu]
    exact ih (by have := List.length_cons (a := u) (as := us); omega) (fun h => hx (by simp [h])) (fun v hv => ha v (by simp [hv]))

theorem length_dedup_of_nodup {us : List PfxWord} (h : (us.map PfxWord.kind).Nodup) : (us.map PfxWord.kind).dedup.length = us.length := by
  rw [h.dedup, List.length_map]

theorem Len.words_le (l : Len) : l.words ≤ 3 := by cases l <;> decide

/-- A line that starts with a run and a well-formed group, of which no word is an orphan, decodes to that group's instruction (R108). -/
theorem Starts.decodeGroup {ws : List Word} {us : List PfxWord} {q : Parts} {i : Instr} (h : Starts (lineOf ws) us q) (base : DWord)
    (ho : firstOrphan (lineOf ws) (some q) us 0 = none) (hi : q.instr = some i) (hw : i.wf = true) :
    decodeGroup (lineOf ws) base 0 = .ok i (us.length + q.len.words) := by
  have hfew := h.few
  have hwords := q.len.words_le
  have hends : us.length ≤ 14 := by omega
  have hrun : ¬ (us.length > 2 ∨ (us.length = 2 ∧ (us.map PfxWord.kind).dedup.length < 2)) := by
    rw [length_dedup_of_nodup h.kinds]; omega
  unfold Sys2Proof.decodeGroup
  simp only [h.runLength, h.runWords, Nat.zero_add, Option.getD_some, h.parts]
  rw [if_neg (by omega), if_neg hrun]
  simp [hends, ho, pairFault_lineOf, hi, hw]

/-! The round trip. -/

theorem encode_eq {i : Instr} {q : Parts} (h : i.parts = some q) :
    encode i = (pfxWords q.page1 q.pfx).map PfxWord.word ++ (encodeW0 q.w q.code q.len.code ::
      (if q.len.words ≥ 2 then [encodeW1 q.x] else []) ++ if q.len.words ≥ 3 then [q.lit] else []) := by
  simp [encode, h, encodePfx_eq]

section
variable {i : Instr} {q : Parts}

theorem length_pfxWords_of_runFits (hp : i.parts = some q) (hfits : i.runFits = true) : (pfxWords q.page1 q.pfx).length ≤ 2 := by
  simpa [Instr.runFits, hp, encodePfx_eq] using hfits

theorem lineWord_encode_run (hp : i.parts = some q) (hfew : (pfxWords q.page1 q.pfx).length ≤ 2) {j : Nat}
    (hj : j < (pfxWords q.page1 q.pfx).length) : lineWord (lineOf (encode i)) j = (pfxWords q.page1 q.pfx)[j].word := by
  rw [lineWord_lineOf _ (by omega), encode_eq hp]
  simp [List.getElem?_append, hj]

theorem lineWord_encode_first (hp : i.parts = some q) (hfew : (pfxWords q.page1 q.pfx).length ≤ 2) :
    lineWord (lineOf (encode i)) (pfxWords q.page1 q.pfx).length = encodeW0 q.w q.code q.len.code := by
  rw [lineWord_lineOf _ (by omega), encode_eq hp]
  simp

theorem lineWord_encode_second (hp : i.parts = some q) (hfew : (pfxWords q.page1 q.pfx).length ≤ 2) (h : 2 ≤ q.len.words) :
    lineWord (lineOf (encode i)) ((pfxWords q.page1 q.pfx).length + 1) = encodeW1 q.x := by
  rw [lineWord_lineOf _ (by omega), encode_eq hp]
  simp [h]

theorem lineWord_encode_literal (hp : i.parts = some q) (hfew : (pfxWords q.page1 q.pfx).length ≤ 2) (h : 3 ≤ q.len.words) :
    lineWord (lineOf (encode i)) ((pfxWords q.page1 q.pfx).length + 2) = q.lit := by
  rw [lineWord_lineOf _ (by omega), encode_eq hp]
  simp [h, (by omega : 2 ≤ q.len.words)]

theorem partsAt_encode (hp : i.parts = some q) (hfew : (pfxWords q.page1 q.pfx).length ≤ 2) :
    partsAt (lineOf (encode i)) (pfxWords q.page1 q.pfx) (pfxWords q.page1 q.pfx).length = q := by
  have hcan := Instr.parts_canonical hp
  have hsecond : (if q.len.words ≥ 2 then W1.ofWord (lineWord (lineOf (encode i)) ((pfxWords q.page1 q.pfx).length + 1)) else W1.zero) = q.x := by
    split
    · rw [lineWord_encode_second hp hfew ‹_›, W1.ofWord_encodeW1]
    · exact (hcan.second (by cases h : q.len <;> simp_all [Len.words])).symm
  have hliteral : (if q.len.words ≥ 3 then lineWord (lineOf (encode i)) ((pfxWords q.page1 q.pfx).length + 2) else 0#32) = q.lit := by
    split
    · exact lineWord_encode_literal hp hfew ‹_›
    · exact (hcan.literal (by rintro h; simp_all [Len.words])).symm
  simp only [partsAt, lineWord_encode_first hp hfew, lenOf_encodeW0, Option.getD_some, contains_x_pfxWords, foldl_add_pfxWords,
    field_code_encodeW0, W0.ofWord_encodeW0, hsecond, hliteral]

/-- The line of an encoded instruction starts with its run and its parts. -/
theorem starts_encode (hp : i.parts = some q) (hfits : i.runFits = true) (hk : ∀ r, q.pfx.rs = some r → r.rnd = .sr ∨ r.key = 0#4) :
    Starts (lineOf (encode i)) (pfxWords q.page1 q.pfx) q := by
  have hfew := length_pfxWords_of_runFits hp hfits
  refine ⟨hfew, nodup_kinds_pfxWords _ _, fun j hj => ?_, ?_, partsAt_encode hp hfew⟩
  · rw [lineWord_encode_run hp hfew hj]
    exact ⟨lenOf_word _, pfxOf_word _ (keyed_of_mem hk (List.getElem_mem hj))⟩
  · rw [lineWord_encode_first hp hfew, lenOf_encodeW0]

end

/-- Settles O2: the line of an encoded instruction starts with its run and its parts (`starts_encode`), no PFX word is an orphan, and from the parts
the decoder reads the instruction (`Laws.Words.statement`). -/
theorem decodeEncode : Obligations.DecodeEncode := by
  intro i hparts hwf hfits
  obtain ⟨q, hp⟩ := Option.isSome_iff_exists.mp hparts
  obtain ⟨hi, hacc, hk⟩ := Laws.Words.statement i hwf q hp
  have hx : PfxWord.x ∈ pfxWords q.page1 q.pfx → q.len = .w32 := fun h =>
    (Instr.parts_canonical hp).short (by rw [← contains_x_pfxWords q.page1 q.pfx]; exact List.contains_iff_mem.mpr h)
  have hstarts := starts_encode hp hfits hk
  exact decodeWords_of_ok (hstarts.decodeGroup 0#64
    (firstOrphan_lineOf (by have := hstarts.few; omega) hx (fun _ hu => accepts_of_mem hi hacc hu)) hi hwf)

/-- The words of a well-formed instruction decode to it. -/
theorem decodeWords_of_encode {i : Instr} {ws : List Word} (he : encode i = ws) (hp : i.parts.isSome = true) (hw : i.wf = true)
    (hf : i.runFits = true) : decodeWords ws = some i := he ▸ decodeEncode i hp hw hf

/-- Settles O1: each instruction is well-formed, and its words are those written out (`decodeEncode`). -/
theorem decodeWordsOfTables : Obligations.DecodeWords := by
  unfold Obligations.DecodeWords
  refine ⟨?_, ?_, ?_, ?_, ?_, ?_, ?_, ?_, ?_, ?_, ?_, ?_, ?_, ?_, ?_, ?_, ?_, ?_, ?_, ?_, ?_, ?_, ?_, ?_, ?_⟩ <;>
    exact decodeWords_of_encode rfl rfl rfl rfl

/-- Refutes O60: `pfxOf` reads the fields of a PFX word and not the length bits [1:0] that tell one from an instruction (R86), so that it reads a
PFX.RS of the default modes from the all-zero word too. Two all-zero words are NOP twice and no orphaned run. -/
theorem not_noOperation : ¬ Obligations.NoOperation := by
  rintro ⟨-, -, horphaned, -⟩
  have hnop : decodeWords [0#32, 0#32] = some .nop := rfl
  have hrs : pfxOf 0#32 = some (.rs ⟨.rne, false, .none, 0#4⟩) := rfl
  rw [horphaned 0#32 _ hrs nofun] at hnop
  exact absurd hnop nofun

end Sys2Proof
end

section
/-! SUPPORT. Issue opportunities (R84, R103, R108, R137, R142): what a fetch leaves as it was, that the chosen sub-warp's group runs, and what the
step notes around it. -/

namespace Sys2Proof.Machine

open Sys2Proof

/-! Waking and fetching move no group. -/

theorem foldl_cur {α : Type} (f : State → α → State) (h : ∀ s a, (f s a).cur = s.cur) (xs : List α) (s : State) :
    (xs.foldl f s).cur = s.cur := by
  induction xs generalizing s with
  | nil => rfl
  | cons a xs ih => exact (ih _).trans (h s a)

theorem wakeWaiting_cur (s : State) (q : Nat) : (wakeWaiting s q).cur = s.cur := by
  refine foldl_cur _ (fun s p => ?_) _ s
  split <;> rfl

theorem offered_cur (s : State) (q : Nat) : (s.offered q).cur = Current.none := wakeWaiting_cur ..

/-- Translations fill TLBs and move clears: every warp and the group at hand stay. -/
def SameGroup (s t : State) : Prop := t.warps = s.warps ∧ t.cur = s.cur

theorem modStack_sameGroup (s : State) (k : Nat) (f : Stack → Stack) : SameGroup s (s.modStack k f) := by
  rw [State.modStack, State.modDie_eq]
  exact ⟨State.setDie_warps .., State.setDie_cur ..⟩

theorem touchFrame_sameGroup (s : State) (pa : Nat) : SameGroup s (s.touchFrame pa) := by
  unfold State.touchFrame
  dsimp only
  split
  · exact ⟨rfl, rfl⟩
  · exact modStack_sameGroup ..

theorem findLeaf_sameGroup (s : State) (q v : Nat) (va : DWord) : SameGroup s (s.findLeaf (.quad q) v va).2 := by
  unfold State.findLeaf
  dsimp only
  split
  · exact ⟨rfl, rfl⟩
  · split
    · exact ⟨rfl, rfl⟩
    · split <;> exact ⟨rfl, rfl⟩

theorem translate_sameGroup (s : State) (q v : Nat) (va : DWord) (need : Need) (write plain : Bool) :
    SameGroup s (s.translate (.quad q) v va need write plain).2 := by
  have hleaf := findLeaf_sameGroup s q v va
  unfold State.translate
  split
  · exact ⟨rfl, rfl⟩
  · generalize s.findLeaf (.quad q) v va = r at hleaf ⊢
    obtain ⟨_ | _ | l, s1⟩ := r
    · exact hleaf
    · exact hleaf
    · dsimp only
      split
      · exact hleaf
      · split
        · exact hleaf
        · dsimp only
          split
          · exact hleaf
          · exact ⟨(touchFrame_sameGroup s1 _).1.trans hleaf.1, (touchFrame_sameGroup s1 _).2.trans hleaf.2⟩

theorem fetchLine_sameGroup (s : State) (q v : Nat) (base : DWord) : SameGroup s (fetchLine s q v base).2 := by
  have htr := translate_sameGroup s q v base .exec false true
  unfold fetchLine
  dsimp only
  generalize s.translate (.quad q) v base .exec false true = r at htr ⊢
  obtain ⟨e | p, s1⟩ := r
  · exact htr
  · dsimp only
    split
    · exact htr
    · split
      · exact htr
      · split
        · exact htr
        · split <;> exact htr

/-! One instruction. -/

theorem pastRegs_false {s : State} {i : Instr} (h : ∀ m, i.mainReg = some m → m < (s.record s.cur.warp).regs) : pastRegs s i = false := by
  unfold pastRegs
  cases hm : i.mainReg with
  | none => rfl
  | some m => simpa using h m hm

/-- An instruction whose main registers its warp has, and which a cue sheet may hold where the warp runs one, is executed (R90, R220). -/
theorem runInstr_eq_exec {s : State} {i : Instr} (hr : ∀ m, i.mainReg = some m → m < (s.record s.cur.warp).regs)
    (hs : (s.warp s.cur.warp).sheet = false ∨ sheetAllows i = true) : runInstr i s = exec i s := by
  have hsheet : ((s.warp s.cur.warp).sheet && !sheetAllows i) = false := by
    obtain h | h := hs <;> simp [h]
  unfold runInstr
  split
  · simp [pastRegs_false hr, hsheet]
  · rfl

theorem tryInstr_ok {s t : State} {i : Instr} (hr : ∀ m, i.mainReg = some m → m < (s.record s.cur.warp).regs)
    (hs : (s.warp s.cur.warp).sheet = false) (he : exec i { s with cur := { s.cur with probe := true }, stopped := none } = .next t) :
    tryInstr i s = .ok ({ t with cur := s.cur, stopped := none }, t.stopped) := by
  have hrun := (runInstr_eq_exec (s := { s with cur := { s.cur with probe := true }, stopped := none }) (i := i) hr (.inl hs)).trans he
  unfold tryInstr
  rw [hrun]

/-- A pair of which neither member stops has the effect of both (R103). -/
theorem runPair_ok {s t1 t2 : State} {a b : Instr} {u : SubWarp} {pc2 : DWord} {slot2 : Nat}
    (h1 : tryInstr a { s with cur := { s.cur with pair := 1 } } = .ok (t1, none))
    (h2 : tryInstr b (atSecond s t1 pc2 slot2) = .ok (t2, none)) : runPair a b s u pc2 slot2 = .next { t2 with view := none } := by
  unfold runPair
  dsimp only
  rw [h1]
  dsimp only
  rw [Option.map_none, Option.getD_none, h2]

/-! The group of the chosen sub-warp. -/

theorem issueSub_standing {s : State} {w : Nat} {u : SubWarp} (hp : s.cur.probe = false) (hd : deliveryFor (s.warp w) u = none) :
    issueSub s w u = issueNext (s.standing w u) w u := by
  unfold issueSub State.standing
  dsimp only
  rw [hd, ← hp]

section
variable {s s1 : State} {q w n : Nat} {u : SubWarp} {ws : List Word} {i : Instr}

theorem Decoded.sameGroup (h : Decoded s q w u ws s1 i n) : SameGroup ((s.offered q).standing w u) s1 := by
  have := fetchLine_sameGroup ((s.offered q).standing w u) ((s.offered q).warp w).quad ((s.offered q).warp w).vd (lineBase u.pc)
  rwa [h.fetched] at this

theorem Decoded.cur (h : Decoded s q w u ws s1 i n) :
    s1.cur = ⟨w, u.id, u.pc, u.pc, ((s.offered q).warp w).quad, lineSlot u.pc, 0, false⟩ := h.sameGroup.2

theorem Decoded.warp (h : Decoded s q w u ws s1 i n) (k : Nat) : s1.warp k = (s.offered q).warp k :=
  congrArg (fun x => (SMap.get? x k).getD Warp.none) h.sameGroup.1

theorem Decoded.issueSub (h : Decoded s q w u ws s1 i n) : issueSub (s.offered q) w u = runDecoded s1 u ws := by
  have hprobe : (s.offered q).cur.probe = false := by rw [offered_cur]; rfl
  have hpending : (((s.offered q).standing w u).warp w).pending.find? (fun t => t.1 == u.pc) = none := h.pending
  have hfetch : fetchLine ((s.offered q).standing w u) (((s.offered q).standing w u).warp w).quad (((s.offered q).standing w u).warp w).vd
      (lineBase u.pc) = (.ok ws, s1) := h.fetched
  rw [issueSub_standing hprobe h.deliveries]
  unfold issueNext
  rw [hpending]
  unfold fetchIssue
  dsimp only
  rw [hfetch]

theorem Decoded.noComparator (h : Decoded s q w u ws s1 i n) :
    (if u.matched then [] else dpcMatch s1 (coreOfQuad s1.cur.quad) s1.cur.pc (s1.warp s1.cur.warp).vd
      (u.mask &&& (predicate s1 s1.cur.warp i.pfx).1)) = [] := by
  rw [h.cur, h.warp]
  obtain hm | hm := h.comparators
  · exact if_pos hm
  · dsimp only
    rw [hm, ite_self]

theorem Decoded.runDecoded_single (h : Decoded s q w u ws s1 i n) (hp : pairBit ws (lineSlot u.pc) = false) :
    runDecoded s1 u ws = runInstr i (s1.acting u ws n) := by
  have hnone := h.noComparator
  have hpc : s1.cur.pc = u.pc := congrArg Current.pc h.cur
  unfold runDecoded
  rw [hpc] at hnone ⊢
  dsimp only
  rw [h.group]
  dsimp only
  rw [hnone, hp]
  rfl

theorem Decoded.runDecoded_pair (h : Decoded s q w u ws s1 i n) (hp : pairBit ws (lineSlot u.pc) = true) {j : Instr} {m : Nat}
    (hj : decodeGroup ws (lineBase u.pc) (lineSlot u.pc + n) = .ok j m) :
    runDecoded s1 u ws = runPair i j { s1 with cur := { s1.cur with next := nextPc u.pc (n + m) } } u
      (slotPc (lineBase u.pc) (lineSlot u.pc + n)) (lineSlot u.pc + n) := by
  have hnone := h.noComparator
  have hpc : s1.cur.pc = u.pc := congrArg Current.pc h.cur
  unfold runDecoded
  rw [hpc] at hnone ⊢
  dsimp only
  rw [h.group]
  dsimp only
  rw [hnone, hp, hj]
  rfl

end

/-! Around the group. -/

/-- What the step does when a group has taken its effect: it notes the run (R137), and counts a group that is done (R398). -/
def noted (t : State) (q w : Nat) (i : SubId) (reads : Bool) (v : Nat) : State :=
  let t := noteRun t q w i reads
  let t := if t.report = .done then countCore t (coreOfQuad q) 1 v else t
  { t with cur := Current.none, view := none }

theorem noteRun_quad (t : State) (q w k : Nat) (i : SubId) (reads : Bool) :
    { (noteRun t q w i reads).quad k with run := none } = { t.quad k with run := none } := by
  unfold noteRun
  dsimp only
  rw [State.modQuad_eq, State.quad_setQuad_eq]
  split
  · rename_i hk
    rw [hk]
  · rfl

theorem countCore_core (t : State) (c src v k : Nat) : ((countCore t c src v).core k).rest = (t.core k).rest := by
  rw [countCore, State.modCore_eq, State.core_setCore_eq]
  split
  · rename_i hk
    rw [hk]
    rfl
  · rfl

theorem noted_afterIssue (t : State) (q w : Nat) (i : SubId) (reads : Bool) (v : Nat) : AfterIssue t (noted t q w i reads v) := by
  unfold noted
  dsimp only
  split
  · exact ⟨rfl, fun k => noteRun_quad t q w k i reads, fun k => countCore_core ..⟩
  · exact ⟨rfl, fun k => noteRun_quad t q w k i reads, fun _ => rfl⟩

theorem AfterIssue.turn {t t' : State} (h : AfterIssue t t') (r : Nat) :
    AfterIssue { t with rotor := r, turn := true } { t' with rotor := r, turn := true } :=
  ⟨congrArg (fun x => { x with rotor := r, turn := true }) h.state, h.quads, h.cores⟩

/-- The sub-warp that is chosen has the opportunity, and the step counts its issue and notes its run. -/
theorem opportunity_issues {s t : State} {q w : Nat} {u : SubWarp} (hc : choose (s.offered q) q = some (w, u))
    (hi : issueSub (s.offered q) w u = .next t) (ht : t.report ≠ .wait) :
    ∃ t', (opportunity s q).1 = some (.next t') ∧ AfterIssue t t' := by
  obtain ⟨t', hafter, hoffer⟩ : ∃ t', AfterIssue t t' ∧
      offer q ((candidates (s.offered q) q).length + 1) (s.offered q) = (some (.next t'), s.offered q) := by
    refine ⟨_, noted_afterIssue t q w u.id (groupReads (s.offered q) q ((s.offered q).warp w).vd u.pc) ((s.offered q).warp w).vd, ?_⟩
    unfold offer
    rw [hc]
    dsimp only
    rw [hi]
    exact if_neg ht
  refine ⟨t', ?_, hafter⟩
  unfold opportunity
  unfold State.offered at hoffer
  dsimp only
  rw [hoffer]

/-- An issue opportunity that the agenda asks for. -/
theorem step_issue {s t' : State} {q : Nat} {rest : List Act} (ha : s.agenda = .issue q :: rest)
    (ho : (opportunity { s with agenda := rest, report := .idle } q).1 = some (.next t')) : step s = .next t' := by
  unfold step stepOnce
  rw [ha]
  dsimp only
  generalize opportunity _ q = r at ho ⊢
  obtain ⟨r, s1⟩ := r
  cases ho
  rfl

/-- An issue opportunity that falls to the next busy quadrant when no engine has anything to do. -/
theorem step_turn {s t' : State} {q : Nat} {qs : List Nat} (ha : s.agenda = []) (hn : s.turn = false ∨ happen s = none)
    (hq : busyQuads s s.rotor = q :: qs) (ho : (opportunity { s with report := .idle } q).1 = some (.next t')) :
    step s = .next { t' with rotor := q + 1, turn := true } := by
  have hhappen : (if s.turn then happen s else none) = none := by
    obtain h | h := hn <;> simp [h]
  have hturn : (issueTurn s).1 = some (.next { t' with rotor := q + 1, turn := true }) := by
    unfold issueTurn
    rw [hq]
    unfold issueSome
    generalize opportunity _ q = r at ho ⊢
    obtain ⟨r, s1⟩ := r
    cases ho
    rfl
  unfold step stepOnce
  rw [ha]
  dsimp only
  unfold runOn
  rw [hhappen]
  generalize issueTurn s = r at hturn ⊢
  obtain ⟨r, s1⟩ := r
  cases hturn
  rfl

/-! The step. -/

section
variable {s s1 : State} {q w n : Nat} {u : SubWarp} {ws : List Word} {i : Instr}

theorem acting_runs {t : State} (h : Decoded s q w u ws s1 i n) (hp : pairBit ws (lineSlot u.pc) = false)
    (hs : (s1.warp w).sheet = false ∨ sheetAllows i = true) (he : exec i (s1.acting u ws n) = .next t) :
    issueSub (s.offered q) w u = .next t := by
  have hw : (s1.acting u ws n).cur.warp = w := congrArg Current.warp h.cur
  rw [h.issueSub, h.runDecoded_single hp]
  refine (runInstr_eq_exec ?_ ?_).trans he
  · rw [hw]; exact h.registers
  · rw [hw]; exact hs

/-- The package in which the first member of a legal pair is tried. -/
def State.paired (s1 : State) (u : SubWarp) (n m : Nat) : State :=
  { s1 with cur := { s1.cur with next := nextPc u.pc (n + m), pair := 1 } }

/-- A legal pair whose members both complete their trial has the effect of both (R103). -/
theorem pair_runs {t1 t2 : State} {j : Instr} {m : Nat} (h : Decoded s q w u ws s1 i n) (hp : pairBit ws (lineSlot u.pc) = true)
    (hj : decodeGroup ws (lineBase u.pc) (lineSlot u.pc + n) = .ok j m) (hs : (s1.warp w).sheet = false)
    (h1 : exec i { s1.paired u n m with cur := { (s1.paired u n m).cur with probe := true }, stopped := none } = .next t1)
    (hstop1 : t1.stopped = none) (hs1 : (t1.warp w).sheet = false) (hr1 : ∀ k, j.mainReg = some k → k < (t1.record w).regs)
    (h2 : exec j { t1 with
      cur := { (s1.paired u n m).cur with
        pair := 2, pc := slotPc (lineBase u.pc) (lineSlot u.pc + n), slot := lineSlot u.pc + n, probe := true }
      view := some (s1.warp w, s1.quad s1.cur.quad), stopped := none } = .next t2) (hstop2 : t2.stopped = none) :
    ∃ c, issueSub (s.offered q) w u = .next { t2 with cur := c, view := none, stopped := none } := by
  have hw : s1.cur.warp = w := congrArg Current.warp h.cur
  subst hw
  have hfirst := (tryInstr_ok (s := s1.paired u n m) h.registers hs h1).trans (by rw [hstop1])
  have hsecond := (tryInstr_ok (s := atSecond { s1 with cur := { s1.cur with next := nextPc u.pc (n + m) } }
    { t1 with cur := (s1.paired u n m).cur, stopped := none } (slotPc (lineBase u.pc) (lineSlot u.pc + n)) (lineSlot u.pc + n))
    hr1 hs1 h2).trans (by rw [hstop2])
  exact ⟨_, (h.issueSub.trans (h.runDecoded_pair hp hj)).trans (runPair_ok hfirst hsecond)⟩

end

/-- Settles O3: an event is run as it is; the group of the chosen sub-warp is executed (`acting_runs`), or both members of its pair (`pair_runs`), and
the step counts the issue and notes the run around it (`opportunity_issues`). -/
theorem stepRunsDecoded : Obligations.StepRunsDecoded := by
  unfold Obligations.StepRunsDecoded
  refine ⟨fun s i rest ha => ?_, fun s q rest w u ws s1 i n t ha hd hp hs he hwait => ?_,
    fun s q qs w u ws s1 i n t ha hn hq hd hp hs he hwait => ?_,
    fun s q rest w u ws s1 i n j m t1 t2 ha hd hp hj hs h1 hstop1 hs1 hr1 h2 hstop2 hwait => ?_⟩
  · unfold step stepOnce
    rw [ha]
  · obtain ⟨t', ho, hafter⟩ := opportunity_issues hd.chosen (acting_runs hd hp hs he) hwait
    exact ⟨t', step_issue ha ho, hafter⟩
  · obtain ⟨t', ho, hafter⟩ := opportunity_issues hd.chosen (acting_runs hd hp hs he) hwait
    exact ⟨_, step_turn ha hn hq ho, hafter.turn (q + 1)⟩
  · obtain ⟨c, hi⟩ := pair_runs hd hp hj hs h1 hstop1 hs1 hr1 h2 hstop2
    obtain ⟨t', ho, hafter⟩ := opportunity_issues hd.chosen hi hwait
    exact ⟨t', step_issue ha ho, hafter.state, hafter.quads, hafter.cores⟩

end Sys2Proof.Machine
end

section
/-! SUPPORT. Instructions without effect (R106, R107, R172, R205): NOP, the hints, PAD, PRF and YIELD, and that latches which belong to no
sub-warp stay so while one goes on. -/

namespace Sys2Proof.Machine

open Sys2Proof

/-- A change of quadrants' latches alone. -/
theorem Kept.ofQuads (w : Nat) (P : RegName → Prop) (K : Marks) {s t : State} (h : { t with quads := [] } = { s with quads := [] })
    (hq : ∀ q, (t.quad q).rest = (s.quad q).rest) : Kept w P K s t := by
  have ht : t = { s with quads := t.quads } := congrArg (fun x => { x with quads := t.quads }) h
  rw [ht]
  exact ⟨rfl, fun _ => rfl, hq, fun _ => rfl, fun _ _ => rfl, rfl, fun _ _ => rfl, fun _ _ => rfl, flags_same _⟩

/-! A body that changes nothing. -/

theorem killSrc_subs (c : Ctx) (x : Src) (s : State) (k : Nat) : ((killSrc c x s).warp k).subs = (s.warp k).subs := by
  have hset : ∀ y : Warp, y.subs = (s.warp c.w).subs → ((s.setWarp c.w y).warp k).subs = (s.warp k).subs := fun y hy => by
    rw [State.warp_setWarp_eq]
    split
    · rename_i hk
      rw [hk, hy]
    · rfl
  cases x with
  | main n => exact hset _ rfl
  | const v => rfl
  | code n =>
    unfold killSrc
    dsimp only
    split
    · exact hset _ rfl
    · split
      · exact hset _ (by dsimp only; split <;> rfl)
      · rfl

theorem lastUse_runs (c : Ctx) (xs : List (Bool × Src)) (s : State) :
    ∃ t, lastUse c xs s = .ok ((), t) ∧ Kept c.w noReg noMask s t ∧ (t.warp c.w).subs = (s.warp c.w).subs := by
  obtain ⟨t, ht, hk⟩ := lastUse_kept c noReg noMask xs s
  refine ⟨t, ht, hk, ?_⟩
  cases ht
  clear hk
  induction xs generalizing s with
  | nil => rfl
  | cons x xs ih =>
    refine (ih _).trans ?_
    dsimp only
    split
    · exact killSrc_subs ..
    · rfl

/-- An instruction without PFX.RS whose body changes nothing: the sub-warp goes on, and that is all. -/
theorem doesIf_nothing {i : Instr} {p : Pfx} {body : Ctx → M Done} (hp : p.rs = none) (hi : ∀ s, exec i s = issue p true s body)
    (hb : ∀ c s, ∃ t, body c s = .ok (.next, t) ∧ Kept c.w noReg noMask s t ∧ (t.warp c.w).subs = (s.warp c.w).subs) :
    DoesIf i p (fun _ _ => True) (fun _ s => s) (fun _ _ => noReg) (fun _ _ => noMask) GoesOn := by
  intro s u hu _
  have hcounted : ∀ r : State, r.counted p = r := fun r => by simp [State.counted, hp]
  obtain ⟨s1, h1⟩ := hu.predicate
  obtain ⟨hnear, -, hpre⟩ := checkPfx_near h1
  obtain ⟨t, ht, hk, hs⟩ := hb (mkCtx s u p) s1
  have hall : Kept s.cur.warp noReg noMask s t := (takeLatches_kept _ _ _ s u).trans (hpre.trans hk)
  have hcur : t.cur = s.cur := State.rest_eq_cur hall.state
  have hsubs : (t.warp s.cur.warp).subs = (s.warp s.cur.warp).subs :=
    hs.trans (((takeLatches_near s u).trans hnear).field Warp.subs (fun _ => rfl) s.cur.warp)
  have hcomp := complete_kept p t u .next (w := s.cur.warp) (by rw [hcur])
  rw [hcounted] at hcomp
  exact ⟨complete p t u .next, ⟨(hi s).trans (issue_ok hu.sub h1 ht), rfl⟩, by rw [hcounted]; exact hall.trans hcomp,
    complete_goesOn hu.sub hcur hsubs⟩

theorem pure_nothing (c : Ctx) (s : State) : ∃ t, (pure .next : M Done) s = .ok (.next, t) ∧ Kept c.w noReg noMask s t ∧
    (t.warp c.w).subs = (s.warp c.w).subs := ⟨s, rfl, Kept.refl .., rfl⟩

theorem lastUse_nothing (c : Ctx) (xs : List (Bool × Src)) (s : State) : ∃ t, (do lastUse c xs; pure .next : M Done) s = .ok (.next, t) ∧
    Kept c.w noReg noMask s t ∧ (t.warp c.w).subs = (s.warp c.w).subs := by
  obtain ⟨t, ht, hk, hs⟩ := lastUse_runs c xs s
  exact ⟨t, by rw [M.bind_ok ht]; rfl, hk, hs⟩

theorem accK_none {p : Pfx} (h : WF.accK.ok p = true) : p.rs = none := by
  simp only [WF.Acc.ok, WF.accK, Bool.false_or, Bool.and_eq_true, Option.isNone_iff_eq_none] at h
  exact h.1.1

/-! Latches that belong to no sub-warp (R135). -/

/-- The latches of a quadrant belong to no sub-warp and are invalid. -/
def LatchFree (q : Nat) (s : State) : Prop := (s.quad q).owner = none ∧ (s.quad q).latches = Quad.reset.latches

section
variable {q : Nat} {s t : State}

theorem LatchFree.of_quads (h : LatchFree q s) (hq : t.quads = s.quads) : LatchFree q t := by
  unfold LatchFree State.quad at *
  rwa [hq]

theorem LatchFree.foldl {α : Type} {f : State → α → State} (hf : ∀ s a, LatchFree q s → LatchFree q (f s a)) (xs : List α)
    (h : LatchFree q s) : LatchFree q (xs.foldl f s) := by
  induction xs generalizing s with
  | nil => exact h
  | cons a xs ih => exact ih (hf s a h)

theorem LatchFree.dropLatches (h : LatchFree q s) (k : Nat) : LatchFree q (dropLatches s k) := by
  unfold LatchFree Machine.dropLatches at *
  rw [State.modQuad_eq, State.quad_setQuad_eq]
  split
  · exact ⟨rfl, rfl⟩
  · exact h

theorem LatchFree.dropLatchesOf (h : LatchFree q s) (w : Nat) (i : SubId) : LatchFree q (dropLatchesOf s w i) := by
  unfold Machine.dropLatchesOf
  dsimp only
  split
  · exact h.dropLatches _
  · exact h

theorem raiseReg_quads (s : State) (w : Nat) (main : Bool) (r i : Nat) (l : Label) : (raiseReg s w main r i l).quads = s.quads := by
  unfold raiseReg
  generalize hold : (if main then (s.warp w).v else (s.warp w).o).get Reg.zero (32 * r + i) = old
  have hj : (if hasLane (helperLanes s w) i then s.joinQuiet w old.lbl l else s.join w old.lbl l).2.quads = s.quads := by
    split
    · exact (joinVd_near ..).2
    · exact (join_near ..).2
  dsimp only
  rw [hold]
  generalize (if hasLane (helperLanes s w) i then s.joinQuiet w old.lbl l else s.join w old.lbl l) = j at hj ⊢
  split <;> exact hj

theorem raiseUniform_quads (s : State) (w r : Nat) (l : Label) : (raiseUniform s w r l).quads = s.quads := (join_near ..).2

theorem LatchFree.fuseEntry (h : LatchFree q s) (w e : Nat) (x : Split) (m : LaneMask) : LatchFree q (fuseEntry s w e x m) := by
  have hlabels : LatchFree q (fuseLabels s w x m) := by
    unfold fuseLabels
    refine LatchFree.foldl (fun s r h => h.of_quads (raiseUniform_quads ..)) _ (LatchFree.foldl (fun s r h => ?_) _
      (LatchFree.foldl (fun s r h => ?_) _ h)) <;>
      exact LatchFree.foldl (fun s i h => h.of_quads (raiseReg_quads ..)) _ h
  exact ((hlabels.dropLatchesOf w _).dropLatchesOf w _).of_quads rfl

theorem LatchFree.tryFuse (h : LatchFree q s) (w n e : Nat) : LatchFree q (tryFuse s w n e) := by
  induction n generalizing s e with
  | zero => exact h
  | succ n ih =>
    unfold Machine.tryFuse
    split
    · exact h
    · rename_i x _
      dsimp only
      split
      · exact h
      · have hfused := h.fuseEntry w e x ((x.mask0 ||| x.mask1) &&& ~~~(s.warp w).exited)
        generalize Machine.fuseEntry s w e x ((x.mask0 ||| x.mask1) &&& ~~~(s.warp w).exited) = r at hfused ⊢
        have hparent : LatchFree q (if (x.mask0 ||| x.mask1) &&& ~~~(s.warp w).exited = 0#32 then r else
            addSub r w ⟨x.parent, (x.mask0 ||| x.mask1) &&& ~~~(s.warp w).exited, x.parentLabel, x.join, 0,
              if atJoin r w x then .joined else .ready, false⟩) := by
          split
          · exact hfused
          · exact hfused.of_quads rfl
        split
        · split
          · exact ih (LatchFree.of_quads (t := markArrived _ w _ _) hparent rfl) _
          · exact hparent
        · exact hparent

theorem LatchFree.arriveOne (h : LatchFree q s) (w : Nat) (i : SubId) : LatchFree q (arriveOne s w i) := by
  unfold Machine.arriveOne
  split
  · split
    · split
      · exact LatchFree.tryFuse (LatchFree.of_quads (t := s.modWarp w _) h rfl) ..
      · exact h
    · exact h
  · exact h

theorem LatchFree.wakeSyncs (h : LatchFree q s) (w n : Nat) : LatchFree q (wakeSyncs s w n) := by
  induction n generalizing s with
  | zero => exact h
  | succ n ih =>
    unfold Machine.wakeSyncs
    split
    · exact h
    · exact ih (LatchFree.foldl (fun s u h => h.arriveOne ..) _ (LatchFree.foldl (fun s u h => LatchFree.of_quads (t := makeReady s w u) h rfl) _ h))

theorem LatchFree.advance (h : LatchFree q s) (u : SubWarp) (d : Done) : LatchFree q (advance s u d) := by
  unfold Machine.advance
  cases d with
  | placed => exact h
  | next =>
    dsimp only
    split
    · exact h
    · split
      · exact h
      · exact LatchFree.wakeSyncs (LatchFree.arriveOne (LatchFree.of_quads (t := makeReady s s.cur.warp _) h rfl) ..) ..

theorem LatchFree.complete (h : LatchFree q s) (p : Pfx) (u : SubWarp) (d : Done) : LatchFree q (complete p s u d) := by
  have hcounted : LatchFree q (s.counted p) := by
    unfold State.counted
    split
    · exact h.of_quads rfl
    · exact h
  change LatchFree q { (if (s.counted p).cur.pair = 1 then s.counted p else Machine.advance (s.counted p) u d) with report := .done }
  split
  · exact hcounted.of_quads rfl
  · exact (hcounted.advance u d).of_quads rfl

end

/-! YIELD (R172). -/

/-- The latches of the quadrant dropped and its run at its end. -/
def yielded (s : State) (q : Nat) : State := (dropLatches s q).modQuad q (fun x => { x with run := none })

theorem yielded_quad (s : State) (q k : Nat) :
    (yielded s q).quad k = if k = q then { s.quad q with latches := Quad.reset.latches, owner := none, run := none } else s.quad k := by
  unfold yielded dropLatches
  simp only [State.modQuad_eq, State.quad_setQuad_eq]
  split <;> simp

theorem yielded_latchFree (s : State) (q : Nat) : LatchFree q (yielded s q) := by
  unfold LatchFree
  rw [yielded_quad, if_pos rfl]
  exact ⟨rfl, rfl⟩

theorem takeLatches_others (s : State) (u : SubWarp) : { takeLatches s u with quads := [] } = { s with quads := [] } := by
  unfold takeLatches
  dsimp only
  split <;> rfl

theorem yielded_kept (w : Nat) (P : RegName → Prop) (K : Marks) (s : State) (u : SubWarp) (q : Nat) :
    Kept w P K (s.modQuad q (fun x => { x with run := none })) (yielded (takeLatches s u) q) := by
  refine Kept.ofQuads w P K (takeLatches_others s u) (fun k => ?_)
  have htaken : ((takeLatches s u).quad k).rest = (s.quad k).rest := (takeLatches_kept w P K s u).quads k
  rw [yielded_quad, State.modQuad_eq, State.quad_setQuad_eq]
  split
  · rename_i hk
    subst hk
    exact congrArg (fun x : Quad => { x with run := none }) htaken
  · exact htaken

theorem yield_does (p : Pfx) (w : W0) (h : WF.yield p w = true) :
    DoesIf (.yield p w) p (fun _ _ => True) (fun c s => s.modQuad c.quad (fun q => { q with run := none })) (fun _ _ => noReg) (fun _ _ => noMask)
      (fun c s t => GoesOn c s t ∧ (t.quad c.quad).owner = none ∧ (t.quad c.quad).latches = Quad.reset.latches) := by
  have hacc : WF.acc0.ok p = true := by
    simp only [WF.yield, Bool.and_eq_true] at h
    exact h.1.1
  intro s u hu _
  have hrun : exec (.yield p w) s = .next (complete p (yielded (takeLatches s u) (s.warp s.cur.warp).quad) u .next) := by
    change execYield p w s = _
    unfold execYield
    rw [h]
    exact issue_ok hu.sub (checkPfx_none hacc ..) (by rw [M.upd_bind]; rfl)
  have hkept := yielded_kept s.cur.warp noReg noMask s u (s.warp s.cur.warp).quad
  have hfree := yielded_latchFree (takeLatches s u) (s.warp s.cur.warp).quad
  have hsubs : ((yielded (takeLatches s u) (s.warp s.cur.warp).quad).warp s.cur.warp).subs = (s.warp s.cur.warp).subs :=
    (takeLatches_near s u).field Warp.subs (fun _ => rfl) s.cur.warp
  have hcur : (yielded (takeLatches s u) (s.warp s.cur.warp).quad).cur = s.cur := (takeLatches_near s u).cur
  generalize yielded (takeLatches s u) (s.warp s.cur.warp).quad = t at hrun hkept hfree hsubs hcur
  have hcomp := complete_kept p t u .next (w := s.cur.warp) (by rw [hcur])
  rw [counted_none hacc] at hcomp
  exact ⟨_, ⟨hrun, rfl⟩, by rw [counted_none hacc]; exact hkept.trans hcomp, complete_goesOn hu.sub hcur hsubs, hfree.complete p u .next⟩

/-- Settles O17: bodies that change nothing (`doesIf_nothing`), and YIELD, whose dropped latches no arrival revives (`LatchFree.complete`). -/
theorem noEffect : Obligations.NoEffect := by
  unfold Obligations.NoEffect
  have hnone : Pfx.none.rs = none := rfl
  refine ⟨doesIf_nothing hnone (fun s => rfl) pure_nothing, fun w => doesIf_nothing hnone (fun s => rfl) pure_nothing,
    fun w => doesIf_nothing hnone (fun s => rfl) pure_nothing, fun w => doesIf_nothing hnone (fun s => rfl) pure_nothing,
    fun w => doesIf_nothing hnone (fun s => rfl) pure_nothing, fun p w h => ?_, fun p w h => ?_, fun p w x h => ?_, yield_does⟩
  · have hacc : WF.acc0.ok p = true := by
      simp only [WF.pad, Bool.and_eq_true] at h
      exact h.1.1
    exact doesIf_nothing (acc0_none hacc).1 (fun s => by change execPad p w s = _; unfold execPad; rw [h]) pure_nothing
  · have hacc : WF.accK.ok p = true := by
      simp only [WF.prf_32, Bool.and_eq_true] at h
      exact h.1.1
    exact doesIf_nothing (accK_none hacc) (fun s => by change execPrf32 p w s = _; unfold execPrf32; rw [h])
      (fun c s => lastUse_nothing c [(w.luA, .code w.a), (w.luA, (Src.code w.a).up 1)] s)
  · have hacc : WF.accK.ok p = true := by
      simp only [WF.prf_64, Bool.and_eq_true] at h
      exact h.1.1
    exact doesIf_nothing (accK_none hacc) (fun s => by change execPrf64 p w x s = _; unfold execPrf64; rw [h])
      (fun c s => lastUse_nothing c [(w.luA, .code w.a), (w.luA, (Src.code w.a).up 1)] s)

end Sys2Proof.Machine
end

section
/-! SUPPORT. The error log (R395): what an entry changes, and what it leaves. -/

namespace Sys2Proof.Machine

open Sys2Proof

/-- The package but for its dies and VDs, where errors and events are recorded. -/
def State.offLogs (s : State) : State := { s with dies := [], vds := [] }

section
variable {s t : State}

theorem State.offLogs_of_offDies (h : t.offDies = s.offDies) : t.offLogs = s.offLogs := congrArg (fun x : State => { x with vds := [] }) h

theorem vdEvent_dies (s : State) (v gen kind : Nat) (bs : List Byte) : (vdEvent s v gen kind bs).dies = s.dies := by
  unfold vdEvent; dsimp only; split
  · rfl
  · split
    · rfl
    · split <;> rfl

theorem vdEvent_offLogs (s : State) (v gen kind : Nat) (bs : List Byte) : (vdEvent s v gen kind bs).offLogs = s.offLogs := by
  unfold vdEvent; dsimp only; split
  · rfl
  · split
    · rfl
    · split <;> rfl

theorem countDie_offLogs (s : State) (d src v : Nat) : (countDie s d src v).offLogs = s.offLogs :=
  State.offLogs_of_offDies (setDie_offDies ..)

/-- The die after the entry of an event. -/
def entered (x : Die) (channel outcome v w : Nat) (loc : DWord) : Die :=
  let e := x.lastSerial + 1
  let x := { x with lastSerial := e, ecnt := setAt x.ecnt channel (((x.ecnt[channel]?).getD (0, 0)).1 + 1, e) }
  if x.log.length < 64 then { x with log := x.log ++ [⟨e, channel, outcome, v, w, loc⟩] } else { x with overflow := min (x.overflow + 1) 65535 }

/-- The package after the entry, before the event record that tells the VD. -/
def logged (s : State) (d channel outcome v w : Nat) (loc : DWord) : State :=
  let t := s.setDie d (entered (s.die d) channel outcome v w loc)
  if outcome = 0 then countDie t d 20 v else t

theorem logError_eq (s : State) (d channel outcome v w : Nat) (loc : DWord) : logError s d channel outcome v w loc =
    let t := logged s d channel outcome v w loc
    if outcome = 0 ∨ outcome = 3 ∨ v = 0x3FF then t
    else vdEvent t v (t.vd v).gen 5 (le 6 ((s.die d).lastSerial + 1) ++ le 1 channel ++ le 1 outcome ++ le 8 loc.toNat) := rfl

/-- A log entry is the change of a die, perhaps a count, perhaps an event record. -/
theorem logError_dies (s : State) (d channel outcome v w : Nat) (loc : DWord) :
    (logError s d channel outcome v w loc).dies = (logged s d channel outcome v w loc).dies := by
  rw [logError_eq]; dsimp only; split
  · rfl
  · exact vdEvent_dies ..

theorem logged_offLogs (s : State) (d channel outcome v w : Nat) (loc : DWord) : (logged s d channel outcome v w loc).offLogs = s.offLogs := by
  have hset := State.offLogs_of_offDies (setDie_offDies s d (entered (s.die d) channel outcome v w loc))
  unfold logged; dsimp only; split
  · exact (countDie_offLogs ..).trans hset
  · exact hset

theorem logError_offLogs (s : State) (d channel outcome v w : Nat) (loc : DWord) : (logError s d channel outcome v w loc).offLogs = s.offLogs := by
  have hlog := logged_offLogs s d channel outcome v w loc
  rw [logError_eq]; dsimp only; split
  · exact hlog
  · exact (vdEvent_offLogs ..).trans hlog

/-- A part of every die that the new die shares with the old one. -/
theorem die_setDie_field {α : Type} (f : Die → α) (s : State) (d : Nat) (x : Die) (h : f x = f (s.die d)) (k : Nat) :
    f ((s.setDie d x).die k) = f (s.die k) := by
  by_cases hk : k = d
  · subst hk
    by_cases hd : k < 9
    · rw [State.die_setDie _ _ hd, h]
    · rw [State.setDie, if_neg hd]
  · rw [State.die_setDie_ne _ _ hk]

/-- A part of a die that is neither its log nor its counters is as it was after an entry. -/
theorem logError_die_field {α : Type} (f : Die → α) (s : State) (d channel outcome v w : Nat) (loc : DWord) (k : Nat)
    (hf : ∀ x : Die, f (entered x channel outcome v w loc) = f x) (hc : ∀ (x : Die) cs, f { x with dev := cs } = f x) :
    f ((logError s d channel outcome v w loc).die k) = f (s.die k) := by
  have hset := die_setDie_field f s d (entered (s.die d) channel outcome v w loc) (hf _) k
  rw [State.die, logError_dies, ← State.die, logged]; split
  · exact (die_setDie_field f _ d _ (hc _ _) k).trans hset
  · exact hset

theorem entered_copy (x : Die) (channel outcome v w : Nat) (loc : DWord) : (entered x channel outcome v w loc).copy = x.copy := by
  unfold entered; dsimp only; split <;> rfl

theorem entered_fenced (x : Die) (channel outcome v w : Nat) (loc : DWord) : (entered x channel outcome v w loc).fenced = x.fenced := by
  unfold entered; dsimp only; split <;> rfl

theorem entered_lastSerial (x : Die) (channel outcome v w : Nat) (loc : DWord) :
    (entered x channel outcome v w loc).lastSerial = x.lastSerial + 1 := by
  unfold entered; dsimp only; split <;> rfl

theorem entered_ecnt (x : Die) (channel outcome v w : Nat) (loc : DWord) :
    (entered x channel outcome v w loc).ecnt = setAt x.ecnt channel (((x.ecnt[channel]?).getD (0, 0)).1 + 1, x.lastSerial + 1) := by
  unfold entered; dsimp only; split <;> rfl

theorem logError_calm (s : State) (d channel outcome v w : Nat) (loc : DWord) : Calm s (logError s d channel outcome v w loc) := by
  have hset : Calm s (s.setDie d (entered (s.die d) channel outcome v w loc)) := setDie_calm s d (by rw [entered_copy])
  have hlog : Calm s (logged s d channel outcome v w loc) := by
    unfold logged; dsimp only; split
    · exact hset.trans (countDie_calm ..)
    · exact hset
  rw [logError_eq]; dsimp only; split
  · exact hlog
  · exact hlog.trans (vdEvent_calm ..)

theorem logError_fenced (s : State) (d channel outcome v w : Nat) (loc : DWord) (k : Nat) :
    ((logError s d channel outcome v w loc).die k).fenced = (s.die k).fenced :=
  logError_die_field Die.fenced s d channel outcome v w loc k (fun x => entered_fenced x ..) (fun _ _ => rfl)

/-- What a die shows of the log after an entry that is corrected (R386). -/
theorem logError_die_corrected (s : State) {d : Nat} (hd : d < 9) (channel v w : Nat) (loc : DWord) :
    (logError s d channel 0 v w loc).die d =
      { entered (s.die d) channel 0 v w loc with dev := bump (entered (s.die d) channel 0 v w loc).dev 20 v } := by
  rw [State.die, logError_dies, ← State.die, logged, if_pos rfl, countDie, State.modDie_eq, State.die_setDie _ _ hd, State.die_setDie _ _ hd]

/-! The parts outside the logs. -/

theorem State.offLogs_warp (h : t.offLogs = s.offLogs) (w : Nat) : t.warp w = s.warp w := (congrArg (fun x : State => x.warp w) h :)
theorem State.offLogs_quad (h : t.offLogs = s.offLogs) (q : Nat) : t.quad q = s.quad q := (congrArg (fun x : State => x.quad q) h :)
theorem State.offLogs_block (h : t.offLogs = s.offLogs) (g b : Nat) : t.block g b = s.block g b := (congrArg (fun x : State => x.block g b) h :)
theorem State.offLogs_cmds (h : t.offLogs = s.offLogs) : t.cmds = s.cmds := (congrArg State.cmds h :)
theorem State.offLogs_audits (h : t.offLogs = s.offLogs) : t.audits = s.audits := (congrArg State.audits h :)
theorem State.offLogs_poisoned (h : t.offLogs = s.offLogs) : t.poisoned = s.poisoned := (congrArg State.poisoned h :)

end

end Sys2Proof.Machine
end

section
/-! SUPPORT. Registers, rows, scratchpad words and lines that an error strikes (R386). -/

namespace Sys2Proof.Machine

open Sys2Proof

section
variable {s t r : State} {P : Nat → RegName → Prop} {K : Nat → Nat → Prop} {S : Nat → Prop} {M : Nat → Loc → Prop}

theorem Frame.trans (h : Frame P K S M s t) (h' : Frame P K S M t r) : Frame P K S M s r :=
  ⟨fun w g hg => (h'.regs w g hg).trans (h.regs w g hg), fun w n hn => (h'.masks w n hn).trans (h.masks w n hn),
    fun w hw => (h'.special w hw).trans (h.special w hw), fun d l hl => (h'.memory d l hl).trans (h.memory d l hl)⟩

theorem Frame.of_quiet (h : Quiet s t) : Frame P K S M s t :=
  ⟨fun w g _ => h.regs w g id, fun w n _ => h.masks w n id, fun w _ => h.special w id, fun d l _ => h.memory d l id⟩

/-- A change of one register of one warp. -/
theorem Frame.setWarp (s : State) (w : Nat) (g : RegName) {x : Warp} (hr : ∀ g', g' ≠ g → x.reg g' = (s.warp w).reg g')
    (hm : ∀ n, x.mask n = (s.warp w).mask n) (hs : x.specials = (s.warp w).specials) :
    Frame (fun k g' => k = w ∧ g' = g) (fun _ _ => False) (fun _ => False) (fun _ _ => False) s (s.setWarp w x) := by
  have hwarp (k : Nat) : (s.setWarp w x).warp k = if k = w then x else s.warp k := State.warp_setWarp_eq ..
  refine ⟨fun k g' hg => ?_, fun k n _ => ?_, fun k _ => ?_, fun d l _ => readMem_congr rfl rfl rfl rfl d l⟩
  all_goals rw [hwarp]; by_cases hk : k = w
  · subst hk; rw [if_pos rfl]; exact hr g' (fun h => hg ⟨rfl, h⟩)
  · rw [if_neg hk]
  · subst hk; rw [if_pos rfl]; exact hm n
  · rw [if_neg hk]
  · subst hk; rw [if_pos rfl]; exact hs
  · rw [if_neg hk]

/-- An event whose effect is calm completes quietly, with what `P` says of the state that it leaves. -/
theorem happens {i : Instr} {P : State → Prop} (he : exec i s = did t) (hc : Calm s t) (hp : P t)
    (hr : P t → P { t with report := .done } := by exact id) : ∃ t, Completes i s t ∧ Quiet s t ∧ P t :=
  ⟨_, completes_did he, hc.quiet.trans (report_quiet ..), hr hp⟩

theorem freePair_calm (s : State) : Calm s (freePair s).2 := Calm.of_same rfl rfl rfl rfl rfl
theorem freePair_warp (s : State) (w : Nat) : (freePair s).2.warp w = s.warp w := rfl

end

theorem registerError_eq {s : State} {w : Nat} (hw : (s.warps.get? w).isSome = true) (f : State → State) : registerError s w f =
    did (logError (f (freePair s).2) (dieOfQuad (s.warp w).quad) 0 1 (s.warp w).vd w (freePair s).1) := by
  have hn : (s.warps.get? w).isNone = false := by simpa [Option.isNone_iff_eq_none, Option.isSome_iff_ne_none] using hw
  unfold registerError
  rw [hn]
  rfl

/-- An error of a register that `f` poisons: nothing else changes, and the register keeps its value (R386). -/
theorem registerError_poisons (s : State) (w : Nat) (g : RegName) {f : Warp → Warp} (hw : (s.warps.get? w).isSome = true)
    (hr : ∀ x g', (f x).reg g' = if g' = g then ((x.reg g).1, true) else x.reg g') (hm : ∀ x n, (f x).mask n = x.mask n)
    (hs : ∀ x, (f x).specials = x.specials) :
    ∃ t, registerError s w (fun s => s.modWarp w f) = did t ∧
      Frame (fun x g' => x = w ∧ g' = g) (fun _ _ => False) (fun _ => False) (fun _ _ => False) s t ∧
      (t.warp w).reg g = (((s.warp w).reg g).1, true) := by
  refine ⟨_, registerError_eq hw _, ?_, ?_⟩
  · refine (Frame.of_quiet (freePair_calm s).quiet).trans (Frame.trans ?_ (Frame.of_quiet (logError_calm ..).quiet))
    exact Frame.setWarp _ w g (fun g' h => by rw [hr, if_neg h]) (hm _) (hs _)
  · rw [State.offLogs_warp (logError_offLogs ..), State.modWarp_eq, State.warp_setWarp, hr, if_pos rfl, freePair_warp]

/-- An operand register of one lane, poisoned. -/
def poisonedO (n i : Nat) (x : Warp) : Warp := { x with o := x.o.set Reg.zero (32 * n + i) { x.o.get Reg.zero (32 * n + i) with poison := true } }
/-- A main-file register of one lane, poisoned. -/
def poisonedV (n i : Nat) (x : Warp) : Warp := { x with v := x.v.set Reg.zero (32 * n + i) { x.v.get Reg.zero (32 * n + i) with poison := true } }
/-- A uniform register, poisoned. -/
def poisonedS (n : Nat) (x : Warp) : Warp := { x with s := setPad Reg.zero x.s n { (x.s[n]?).getD Reg.zero with poison := true } }

/-- A lane file with one lane's register poisoned. -/
theorem laneReg_poisoned {n i : Nat} (hi : i < 32) (f : SMap Reg) (m j : Nat) :
    laneReg (f.set Reg.zero (32 * n + i) { f.get Reg.zero (32 * n + i) with poison := true }) m j =
      if m = n ∧ j = i then { laneReg f n i with poison := true } else laneReg f m j := by
  unfold laneReg
  by_cases h : m = n ∧ j = i
  · obtain ⟨rfl, rfl⟩ := h
    simp [hi]
  · rw [if_neg h]
    split
    · rw [SMap.get_set_ne _ _ _ (by omega)]
    · rfl

theorem poisonedO_reg {n i : Nat} (hi : i < 32) (x : Warp) (g : RegName) :
    (poisonedO n i x).reg g = if g = .o n i then ((x.reg (.o n i)).1, true) else x.reg g := by
  cases g with
  | o m j =>
    simp only [poisonedO, Warp.reg, laneReg_poisoned hi, RegName.o.injEq]
    split <;> rfl
  | v m j => rw [if_neg RegName.noConfusion]; rfl
  | s m => rw [if_neg RegName.noConfusion]; rfl

theorem poisonedV_reg {n i : Nat} (hi : i < 32) (x : Warp) (g : RegName) :
    (poisonedV n i x).reg g = if g = .v n i then ((x.reg (.v n i)).1, true) else x.reg g := by
  cases g with
  | v m j =>
    simp only [poisonedV, Warp.reg, laneReg_poisoned hi, RegName.v.injEq]
    split <;> rfl
  | o m j => rw [if_neg RegName.noConfusion]; rfl
  | s m => rw [if_neg RegName.noConfusion]; rfl

theorem poisonedS_reg (n : Nat) (x : Warp) (g : RegName) :
    (poisonedS n x).reg g = if g = .s n then ((x.reg (.s n)).1, true) else x.reg g := by
  rw [poisonedS, reg_set_s]
  cases g with
  | s m =>
    dsimp only
    by_cases h : m = n
    · rw [if_pos h, if_pos (congrArg RegName.s h)]; rfl
    · rw [if_neg h, if_neg (fun h' => h (RegName.s.inj h'))]
  | v m j => rw [if_neg RegName.noConfusion]
  | o m j => rw [if_neg RegName.noConfusion]

theorem operand_error (s : State) (w r i : Nat) (hr : r < 16) (hi : i < 32) (hw : (s.warps.get? w).isSome = true) :
    ∃ t, Completes (.uncorrectable_error (.operand w r i)) s t ∧
      Frame (fun x g => x = w ∧ g = .o r i) (fun _ _ => False) (fun _ => False) (fun _ _ => False) s t ∧
      (t.warp w).reg (.o r i) = (((s.warp w).reg (.o r i)).1, true) := by
  obtain ⟨t, he, hframe, hreg⟩ := registerError_poisons s w (.o r i) hw (poisonedO_reg hi) (fun _ _ => rfl) (fun _ => rfl)
  refine ⟨_, completes_did ((if_neg (by omega)).trans he), hframe.trans (Frame.of_quiet (report_quiet ..)), hreg⟩

theorem main_error (s : State) (w r i : Nat) (hr : r < (s.record w).regs) (hi : i < 32) (hw : (s.warps.get? w).isSome = true) :
    ∃ t, Completes (.uncorrectable_error (.main w r i)) s t ∧
      Frame (fun x g => x = w ∧ g = .v r i) (fun _ _ => False) (fun _ => False) (fun _ _ => False) s t ∧
      (t.warp w).reg (.v r i) = (((s.warp w).reg (.v r i)).1, true) := by
  obtain ⟨t, he, hframe, hreg⟩ := registerError_poisons s w (.v r i) hw (poisonedV_reg hi) (fun _ _ => rfl) (fun _ => rfl)
  refine ⟨_, completes_did ((if_neg (by omega)).trans he), hframe.trans (Frame.of_quiet (report_quiet ..)), hreg⟩

theorem uniform_error (s : State) (w r : Nat) (hr : r < 32) (hw : (s.warps.get? w).isSome = true) :
    ∃ t, Completes (.uncorrectable_error (.uniform w r)) s t ∧
      Frame (fun x g => x = w ∧ g = .s r) (fun _ _ => False) (fun _ => False) (fun _ _ => False) s t ∧
      (t.warp w).reg (.s r) = (((s.warp w).reg (.s r)).1, true) := by
  obtain ⟨t, he, hframe, hreg⟩ := registerError_poisons s w (.s r) hw (poisonedS_reg r) (fun _ _ => rfl) (fun _ => rfl)
  refine ⟨_, completes_did ((if_neg (by omega)).trans he), hframe.trans (Frame.of_quiet (report_quiet ..)), hreg⟩

theorem poisonRow_calm (s : State) (q r : Nat) : Calm s (poisonRow s q r) := setQuad_calm ..

theorem poisonRow_row (s : State) (q r k : Nat) :
    accRow (poisonRow s q r) q k = if k = r then { accRow s q r with poison := true } else accRow s q k := by
  simp only [accRow, poisonRow, State.modQuad_eq, State.quad_setQuad, SMap.get_set]

theorem accumulator_error (s : State) (q row : Nat) (hq : q < 1296) (hrow : row < 1024) :
    ∃ t, Completes (.uncorrectable_error (.accumulator q row)) s t ∧ Quiet s t ∧ accRow t q row = { accRow s q row with poison := true } := by
  refine happens (if_neg (by omega)) ((poisonRow_calm ..).trans (logError_calm ..)) ?_
  rw [accRow, State.offLogs_quad (logError_offLogs ..), ← accRow, poisonRow_row, if_pos rfl]

/-- The scratchpad word that holds byte `o` of a block, poisoned. -/
def poisonWord (s : State) (g b o : Nat) : State :=
  s.modBlock g b (fun y => { y with spad := { y.spad with poison := y.spad.poison.set false (o / 4) true } })

theorem scratchpad_error (s : State) (g b o : Nat) (hb : (s.blocks.get? (blockKey g b)).isSome = true) (ho : o < (s.grid g).record.spadBytes) :
    ∃ t, Completes (.uncorrectable_error (.scratchpad g b o)) s t ∧ Quiet s t ∧ (t.block g b).spad.poison.get false (o / 4) = true := by
  obtain ⟨x, hx⟩ := Option.isSome_iff_exists.mp hb
  have he : exec (.uncorrectable_error (.scratchpad g b o)) s =
      did (logError (poisonWord s g b o) (dieOfCore x.core) 2 1 ((poisonWord s g b o).grid g).vd 0 (BitVec.ofNat 64 o)) := by
    change execUncorrectableError (.scratchpad g b o) s = _
    simp only [execUncorrectableError, hx, Nat.not_le.mpr ho, if_false]
    rfl
  refine happens he ((setBlock_calm ..).trans (logError_calm ..)) ?_
  rw [State.offLogs_block (logError_offLogs ..)]
  simp [poisonWord]

/-- The line that holds a byte of memory, poisoned. -/
def poisonLine (s : State) (pa : Nat) : State := { s with poisoned := s.poisoned.set false (granule pa) true }

theorem poisonLine_calm (s : State) (pa : Nat) : Calm s (poisonLine s pa) := Calm.of_same rfl rfl rfl rfl rfl

/-- The VD that owns the slice of a byte of memory, and 0x3FF where none does. -/
def sliceOwner (s : State) (pa : Nat) : Nat :=
  if (s.package.sown.get 0#16 (pa / 2 ^ 32)).getLsbD 10 then (field (s.package.sown.get 0#16 (pa / 2 ^ 32)) 0 10).toNat else 0x3FF

theorem hbmLine_error (s : State) (pa : Nat) (h : pa / 2 ^ 32 < 288) :
    ∃ t, Completes (.uncorrectable_error (.hbmLine pa)) s t ∧ Quiet s t ∧ t.poisoned.get false (granule pa) = true := by
  have he : exec (.uncorrectable_error (.hbmLine pa)) s =
      did (logError (poisonLine s pa) (homeDie pa) (5 + pa / 2 ^ 36 % 2) 1 (sliceOwner s pa) 0 (BitVec.ofNat 64 pa)) :=
    if_neg (Nat.not_le.mpr h)
  refine happens he ((poisonLine_calm ..).trans (logError_calm ..)) ?_
  rw [State.offLogs_poisoned (logError_offLogs ..)]
  simp [poisonLine]

theorem setAt_get_self {α : Type} (l : List α) (k : Nat) (v : α) (h : k < l.length) : (setAt l k v)[k]? = some v := by
  induction l generalizing k with
  | nil => simp at h
  | cons a l ih =>
    cases k with
    | zero => rfl
    | succ k => simpa [setAt] using ih k (by simpa using h)

theorem corrected_completes (s : State) (d k v w : Nat) (loc : DWord) (hd : d < 9) (hk : k < 14) (hlen : k < (s.die d).ecnt.length) :
    ∃ t, Completes (.corrected_error d k v w loc) s t ∧ Quiet s t ∧ (t.die d).lastSerial = (s.die d).lastSerial + 1 ∧
      (t.die d).ecnt[k]? = some (((((s.die d).ecnt[k]?).getD (0, 0)).1 + 1), (s.die d).lastSerial + 1) := by
  refine happens (if_neg (by omega)) (logError_calm ..) ?_
  rw [logError_die_corrected s hd]
  exact ⟨entered_lastSerial .., (congrArg (·[k]?) (entered_ecnt ..)).trans (setAt_get_self _ k _ hlen)⟩

theorem line_fetch_completes (s : State) (q a : Nat) (hq : q < 1296) (ha : a % 64 = 0) :
    ∃ t, Completes (.line_fetch q a true) s t ∧ Quiet s t ∧ (t.quad q).badLines.contains a = true := by
  refine happens (if_neg (by omega)) ((countDie_calm ..).trans (setQuad_calm ..)) ?_
  simp

end Sys2Proof.Machine
end

section
/-! SUPPORT. Verdicts (R390 to R392). -/

namespace Sys2Proof.Machine

open Sys2Proof

/-! Verdicts of joint operations. -/

/-- The package without an audit. -/
def audited (s : State) (a : Audit) : State := { s with audits := s.audits.filter (fun b => b != a) }

theorem audited_calm (s : State) (a : Audit) : Calm s (audited s a) := Calm.of_same rfl rfl rfl rfl rfl

theorem audited_absent (s : State) (a : Audit) : a ∉ (audited s a).audits := fun h => by simpa using (List.mem_filter.mp h).2

/-- Rows of a quadrant, poisoned. -/
def poisonRows (s : State) (q : Nat) (rows : List Nat) : State := rows.foldl (fun s r => poisonRow s q r) s

theorem poisonRows_calm (s : State) (q : Nat) (rows : List Nat) : Calm s (poisonRows s q rows) :=
  Touches.foldl _ rows s (fun s r => poisonRow_calm s q r)

theorem poisonRows_audits (s : State) (q : Nat) (rows : List Nat) : (poisonRows s q rows).audits = s.audits :=
  foldl_keeps State.audits (fun s r => poisonRow s q r) (fun _ _ => rfl) rows s

/-- A row stays poisoned while others are poisoned, and each row of the list is at the end. -/
theorem poisonRows_poison (q k : Nat) (rows : List Nat) (s : State) (h : k ∈ rows ∨ (accRow s q k).poison = true) :
    (accRow (poisonRows s q rows) q k).poison = true := by
  induction rows generalizing s with
  | nil => exact h.resolve_left List.not_mem_nil
  | cons r rows ih =>
    refine ih (poisonRow s q r) ?_
    rw [poisonRow_row]
    by_cases hk : k = r
    · exact .inr (by rw [if_pos hk])
    · rw [if_neg hk]
      exact h.imp_left (fun hm => (List.mem_cons.mp hm).resolve_left hk)

/-- What follows a verdict with an outcome to log. -/
def voted (s : State) (d : Nat) (a : Audit) (code : Nat) : State :=
  let t := countDie (audited s a) d 19 a.vd
  let t := if code = 4 ∨ code = 5 then poisonRows t a.quad a.rows else t
  logError t d 11 code a.vd 0 (BitVec.ofNat 64 ((a.rows.head?).getD 0))

section
variable {s : State} {d n : Nat} {a : Audit} (h : s.audits.find? (fun a => a.die == d && a.n == n) = some a)
include h

theorem audit_verdict_agrees {x y z : DWord} (hv : verdictOf x y z (!a.rows.isEmpty) = none) :
    exec (.audit_verdict d n x y z) s = did (audited s a) := by
  change execAuditVerdict d n x y z s = _
  simp only [execAuditVerdict, h, hv]
  rfl

theorem audit_verdict_differs {x y z : DWord} {code : Nat} (hv : verdictOf x y z (!a.rows.isEmpty) = some code) :
    exec (.audit_verdict d n x y z) s = did (voted s d a code) := by
  change execAuditVerdict d n x y z s = _
  simp only [execAuditVerdict, h, hv]
  rfl

end

theorem voted_calm (s : State) (d : Nat) (a : Audit) (code : Nat) : Calm s (voted s d a code) := by
  have hcount : Calm s (countDie (audited s a) d 19 a.vd) := (audited_calm ..).trans (countDie_calm ..)
  unfold voted; dsimp only; split
  · exact (hcount.trans (poisonRows_calm ..)).trans (logError_calm ..)
  · exact hcount.trans (logError_calm ..)

theorem voted_audits (s : State) (d : Nat) (a : Audit) (code : Nat) : (voted s d a code).audits = (audited s a).audits := by
  have hcount := State.offLogs_audits (countDie_offLogs (audited s a) d 19 a.vd)
  rw [voted, State.offLogs_audits (logError_offLogs ..)]; split
  · rw [poisonRows_audits, hcount]
  · exact hcount

theorem voted_poison (s : State) (d : Nat) (a : Audit) {code : Nat} (hc : code = 4 ∨ code = 5) {r : Nat} (hr : r ∈ a.rows) :
    (accRow (voted s d a code) a.quad r).poison = true := by
  rw [accRow, voted, State.offLogs_quad (logError_offLogs ..), if_pos hc]
  exact poisonRows_poison a.quad r a.rows _ (.inl hr)

theorem voted_row (s : State) (d : Nat) (a : Audit) {code : Nat} (hc : ¬ (code = 4 ∨ code = 5)) (r : Nat) :
    accRow (voted s d a code) a.quad r = accRow s a.quad r := by
  rw [accRow, voted, State.offLogs_quad (logError_offLogs ..), if_neg hc, State.offLogs_quad (countDie_offLogs ..)]
  rfl

/-- A replay that agrees with the original loses nothing. -/
theorem verdictOf_kept {x y z : DWord} {left : Bool} (h : x = y ∨ x = z) : verdictOf x y z left = none ∨ verdictOf x y z left = some 3 := by
  by_cases hy : x = y
  · exact .inl (if_pos hy)
  · exact .inr ((if_neg hy).trans (if_pos (h.resolve_left hy)))

/-- An original that neither replay confirms is lost, where rows are left. -/
theorem verdictOf_lost {x y z : DWord} (hy : x ≠ y) (hz : x ≠ z) : verdictOf x y z true = some 4 ∨ verdictOf x y z true = some 5 := by
  rw [verdictOf, if_neg hy, if_neg hz, if_neg (by simp)]
  by_cases h : y = z
  · exact .inl (if_pos h)
  · exact .inr (if_neg h)

theorem audit_verdict_completes (s : State) (d n : Nat) (x y z : DWord) (a : Audit)
    (h : s.audits.find? (fun a => a.die == d && a.n == n) = some a) :
    ∃ t, Completes (.audit_verdict d n x y z) s t ∧ Quiet s t ∧ a ∉ t.audits ∧
      ((x ≠ y ∧ x ≠ z ∧ a.rows ≠ []) → ∀ r, r ∈ a.rows → (accRow t a.quad r).poison = true) ∧
      ((x = y ∨ x = z) → ∀ r, accRow t a.quad r = accRow s a.quad r) := by
  cases hv : verdictOf x y z (!a.rows.isEmpty) with
  | none =>
    have hxy : x = y := by
      by_contra hne
      rw [verdictOf, if_neg hne] at hv
      split at hv
      · cases hv
      · split at hv
        · cases hv
        · split at hv <;> cases hv
    exact happens (audit_verdict_agrees h hv) (audited_calm s a)
      ⟨audited_absent s a, fun ⟨hne, _⟩ => absurd hxy hne, fun _ _ => rfl⟩
  | some code =>
    refine happens (audit_verdict_differs h hv) (voted_calm ..) ⟨voted_audits s d a code ▸ audited_absent s a, ?_, ?_⟩
    · rintro ⟨hy, hz, hrows⟩ r hr
      have hleft : (!a.rows.isEmpty) = true := by simpa using hrows
      rw [hleft] at hv
      refine voted_poison s d a ?_ hr
      exact (verdictOf_lost hy hz).imp (fun e => Option.some.inj (hv.symm.trans e)) (fun e => Option.some.inj (hv.symm.trans e))
    · intro hxy r
      have hcode : code = 3 := by
        rcases verdictOf_kept (left := !a.rows.isEmpty) hxy with e | e
        · cases hv.symm.trans e
        · exact Option.some.inj (hv.symm.trans e)
      exact voted_row s d a (by omega) r

/-! Verdicts of collectives. -/

theorem deliverTo_cmds (n : Nat) (s : State) (w : Nat) (d : Delivery) : (deliverTo n s w d).cmds = s.cmds := by
  have hrecord (s : State) (w : Nat) (d : Delivery) : (deliveryRecord s w d).cmds = s.cmds := by
    unfold deliveryRecord gfRecord; dsimp only; split <;> rfl
  induction n generalizing w d with
  | zero => exact hrecord ..
  | succ n ih =>
    unfold deliverTo
    dsimp only
    split
    · split
      · exact ih ..
      · exact hrecord ..
    · rfl

/-- The address that a loss of a collective reports. -/
def lostAt (c : Cmd) : DWord := ((c.op.clLanes.head?).map (fun l => l.va)).getD 0#64

/-- The lanes of a collective after a loss: those of a held one are decided. -/
def lostLanes (c : Cmd) (k : Nat) : List ClLane := if k = 1 then c.op.clLanes.map (fun l => { l with decided := true }) else c.op.clLanes

/-- A collective after a loss. -/
def lostCmd (c : Cmd) (k : Nat) : Cmd :=
  { c with verdict := none, op := c.op.setLanes (lostLanes c k), started := true, failed := some ((c.failed).getD (18, lostAt c, 0#8)) }

/-- The package after the loss of a collective. -/
def clLost (s : State) (c : Cmd) (k : Nat) : State :=
  deliver (logError (putCmd (countDie s c.die 19 c.vd) (lostCmd c k)) c.die 11 4 c.vd c.warp (lostAt c)) c.warp 18 c.pc c.lanes (lostAt c) c.lbl

theorem clLanes_setLanes (ls : List ClLane) (o : CmdOp) {l : ClLane} (h : l ∈ (o.setLanes ls).clLanes) : l ∈ ls := by
  cases o with
  | cl => exact h
  | _ => exact absurd h List.not_mem_nil

/-- Every lane of a held collective is decided by its loss. -/
theorem lostCmd_decided (c : Cmd) {l : ClLane} (h : l ∈ (lostCmd c 1).op.clLanes) : l.decided = true := by
  obtain ⟨m, -, rfl⟩ := List.mem_map.mp (clLanes_setLanes _ c.op h)
  rfl

theorem clLost_calm (s : State) (c : Cmd) (k : Nat) : Calm s (clLost s c k) :=
  ((countDie_calm ..).trans (putCmd_calm ..)).trans ((logError_calm ..).trans (deliver_calm ..))

theorem clLost_cmd (s : State) (c : Cmd) (k : Nat) : (clLost s c k).cmds.get? c.id = some (lostCmd c k) := by
  rw [clLost, deliver, deliverAt, deliverTo_cmds, State.offLogs_cmds (logError_offLogs ..)]
  exact SMap.get?_put_self _ c.id (lostCmd c k)

theorem cl_audit_verdict_completes (s : State) (k : Nat) (c : Cmd) (v : Nat) (hc : s.cmds.get? k = some c) (hid : c.id = k)
    (hv : c.verdict = some v) :
    (∃ t, Completes (.cl_audit_verdict k true) s t ∧ Quiet s t ∧ t.cmds.get? k = some { c with verdict := none }) ∧
    ∃ t, Completes (.cl_audit_verdict k false) s t ∧ Quiet s t ∧
      (t.cmds.get? k).map (fun x => (x.verdict, x.failed.isSome)) = some (none, true) ∧
      (v = 1 → ∀ l, l ∈ ((t.cmds.get? k).map (fun x => x.op.clLanes)).getD [] → l.decided = true) := by
  have hagrees : exec (.cl_audit_verdict k true) s = did (putCmd s { c with verdict := none }) := by
    change execClAuditVerdict k true s = _
    simp only [execClAuditVerdict, hc, hv]
    rfl
  have hlost : exec (.cl_audit_verdict k false) s = did (clLost s c v) := by
    change execClAuditVerdict k false s = _
    simp only [execClAuditVerdict, hc, hv]
    rfl
  subst hid
  refine ⟨happens hagrees (putCmd_calm ..) (SMap.get?_put_self _ c.id _), happens hlost (clLost_calm ..) ?_⟩
  rw [clLost_cmd]
  refine ⟨rfl, ?_⟩
  rintro rfl l hl
  exact lostCmd_decided c hl

end Sys2Proof.Machine
end

section
/-! SUPPORT. Quench's clears, row meters and Bellows (R374, R377, R405). -/

namespace Sys2Proof.Machine

open Sys2Proof

/-! Clearing a frame. -/

theorem SMap.get_dropRange_inside {α : Type} (d : α) (m : SMap α) {lo hi k : Nat} (hlo : lo ≤ k) (hhi : k < hi) :
    (m.dropRange lo hi).get d k = d := by
  induction m with
  | nil => rfl
  | cons e m ih =>
    obtain ⟨j, v⟩ := e
    unfold SMap.dropRange at *
    rw [List.filter_cons]
    split
    · rename_i hj
      have hne : j ≠ k := by
        rintro rfl
        simp only [Bool.or_eq_true, decide_eq_true_eq] at hj
        omega
      rw [SMap.get, if_neg hne, ih]
    · exact ih

/-- A copy with a granule wiped. -/
def wipeGranule (h : Label) (c : Copy) (g : Nat) : Copy :=
  { bytes := SMap.dropRange c.bytes (g * 64) (g * 64 + 64), lbls := c.lbls.set 0#8 g h, stamps := c.stamps.dropRange (g * 16) (g * 16 + 16) }

/-- A copy reads zero in the granules wiped, and elsewhere as before. -/
theorem wipe_readByte (h : Label) (gs : List Nat) (c : Copy) (a : Nat) :
    readByte (gs.foldl (wipeGranule h) c).bytes a = if granule a ∈ gs then 0#8 else readByte c.bytes a := by
  induction gs generalizing c with
  | nil => simp
  | cons g gs ih =>
    rw [List.foldl_cons, ih]
    by_cases hgs : granule a ∈ gs
    · rw [if_pos hgs, if_pos (List.mem_cons_of_mem g hgs)]
    · rw [if_neg hgs]
      by_cases hg : granule a = g
      · rw [if_pos (hg ▸ List.mem_cons_self)]
        unfold granule at hg
        exact SMap.get_dropRange_inside unwritten c.bytes (by omega) (by omega)
      · rw [if_neg (fun hm => (List.mem_cons.mp hm).elim hg hgs)]
        unfold granule at hg
        exact SMap.get_dropRange unwritten c.bytes (by omega)

/-- A die after a change of each die of a list. -/
theorem modDies_die (ds : List Nat) (f : Nat → Die → Die) (s : State) (k : Nat) (hn : ds.Nodup) :
    (ds.foldl (fun s d => s.modDie d (f d)) s).die k = if k ∈ ds ∧ k < 9 then f k (s.die k) else s.die k := by
  induction ds generalizing s with
  | nil => simp
  | cons d ds ih =>
    obtain ⟨hd, hn⟩ := List.nodup_cons.mp hn
    rw [List.foldl_cons, ih _ hn]
    by_cases hk : k = d
    · subst hk
      by_cases h9 : k < 9
      · simp [hd, h9]
      · simp [h9, State.setDie]
    · simp [hk]

theorem die_of_nine {s : State} (h : s.dies.length = 9) {d : Nat} (hd : 9 ≤ d) : s.die d = Die.reset := by
  rw [State.die, List.getElem?_eq_none (by omega)]
  rfl

/-- The lines of a frame that are not cleared yet. -/
def freshLines (s : State) (f : Nat) : List Nat := ((List.range 1024).map (fun k => f * 1024 + k)).filter (fun g => !s.lines.get false g)

/-- Every die's copy with the fresh lines of a frame wiped. -/
def wipeFrame (s : State) (f : Nat) : State :=
  (List.range 9).foldl (fun s' d => s'.modDie d (fun x => { x with copy := (freshLines s f).foldl (wipeGranule (frameLabel s f)) x.copy })) s

/-- A frame is noted as cleared. -/
def noteClear (s : State) (f : Nat) (fresh : List Nat) : State :=
  { s with
    cleared := s.cleared.set false f true, lines := s.lines.dropRange (f * 1024) (f * 1024 + 1024)
    poisoned := fresh.foldl (fun m g => m.set false g false) s.poisoned }

theorem clearFrame_eq (s : State) (f : Nat) : clearFrame s f = noteClear (wipeFrame s f) f (freshLines s f) := rfl

theorem wipeFrame_offDies (s : State) (f : Nat) : (wipeFrame s f).offDies = s.offDies := modDies_offDies (List.range 9) _ s

theorem mem_freshLines (s : State) (f g : Nat) : g ∈ freshLines s f ↔ g / 1024 = f ∧ s.lines.get false g = false := by
  simp only [freshLines, List.mem_filter, List.mem_map, List.mem_range, Bool.not_eq_true']
  refine and_congr_left (fun _ => ⟨?_, fun h => ⟨g % 1024, by omega, by omega⟩⟩)
  rintro ⟨k, hk, rfl⟩
  omega

/-- What a die's copy reads once a frame is wiped. -/
theorem wipeFrame_readByte {s : State} (hs : s.dies.length = 9) (f d a : Nat) :
    readByte ((wipeFrame s f).die d).copy.bytes a = if granule a ∈ freshLines s f then 0#8 else readByte (s.die d).copy.bytes a := by
  rw [wipeFrame, modDies_die _ (fun _ x => { x with copy := (freshLines s f).foldl (wipeGranule (frameLabel s f)) x.copy }) s d List.nodup_range]
  by_cases hd : d < 9
  · rw [if_pos ⟨List.mem_range.mpr hd, hd⟩]
    exact wipe_readByte ..
  · rw [if_neg (fun h => hd h.2), die_of_nine hs (Nat.not_lt.mp hd)]
    split <;> rfl

/-- A line is cleared after the clear of a frame if it was before, or lies in the frame. -/
theorem clearFrame_scrubbed (s : State) (f pa : Nat) : (clearFrame s f).scrubbed pa = (decide (frameOf pa = f) || s.scrubbed pa) := by
  have hcleared : (wipeFrame s f).cleared = s.cleared := (congrArg State.cleared (wipeFrame_offDies s f) :)
  have hlines : (wipeFrame s f).lines = s.lines := (congrArg State.lines (wipeFrame_offDies s f) :)
  rw [clearFrame_eq]
  simp only [State.scrubbed, noteClear, hcleared, hlines, SMap.get_set]
  by_cases hf : frameOf pa = f
  · simp [hf]
  · rw [if_neg hf, SMap.get_dropRange, decide_eq_false hf, Bool.false_or]
    unfold frameOf granule at *
    omega

/-- A frame that was not cleared reads the same once it is: its fresh lines read zero, the others as they are. -/
theorem clearFrame_readMem {s : State} (hs : s.dies.length = 9) {f : Nat} (hf : s.cleared.get false f = false) (d : Nat) (l : Loc) :
    (clearFrame s f).readMem d l = s.readMem d l := by
  have hhost : (clearFrame s f).hostMem = s.hostMem := (congrArg State.hostMem (wipeFrame_offDies s f) :)
  have hdie : (clearFrame s f).die d = (wipeFrame s f).die d := rfl
  by_cases hl : l.host = true
  · simp [State.readMem, State.copyAt, hl, hhost]
  · simp only [State.readMem, State.copyAt, hl, Bool.false_eq_true, false_or, if_false, hdie, wipeFrame_readByte hs, clearFrame_scrubbed,
      mem_freshLines]
    by_cases hfr : frameOf l.pa = f
    · have hg : granule l.pa / 1024 = f := by unfold frameOf granule at *; omega
      simp only [hfr, hg, decide_true, Bool.true_or, if_true, true_and, State.scrubbed, hf, Bool.false_or]
      cases s.lines.get false (granule l.pa) <;> rfl
    · have hg : granule l.pa / 1024 ≠ f := by unfold frameOf granule at *; omega
      simp only [hfr, hg, decide_false, Bool.false_or, false_and, if_false]

theorem clearFrame_calm {s : State} (hs : s.dies.length = 9) {f : Nat} (hf : s.cleared.get false f = false) : Calm s (clearFrame s f) := by
  have hwarps : (clearFrame s f).warps = s.warps := (congrArg State.warps (wipeFrame_offDies s f) :)
  exact ⟨fun w => by rw [State.warp, State.warp, hwarps], fun d l _ => clearFrame_readMem hs hf d l⟩

theorem finishChange_calm (s : State) : Calm s (finishChange s) := by
  unfold finishChange
  split
  · split
    · exact Calm.of_same rfl rfl rfl rfl rfl
    · exact Touches.refl s
  · exact Touches.refl s

theorem finishChange_cleared (s : State) : (finishChange s).cleared = s.cleared := by
  unfold finishChange
  split
  · split <;> rfl
  · rfl

theorem modStack_offDies (s : State) (k : Nat) (f : Stack → Stack) : (s.modStack k f).offDies = s.offDies := setDie_offDies ..
theorem modStack_cleared (s : State) (k : Nat) (f : Stack → Stack) : (s.modStack k f).cleared = s.cleared :=
  (congrArg State.cleared (modStack_offDies s k f) :)
theorem modStack_vd (s : State) (k : Nat) (f : Stack → Stack) (v : Nat) : (s.modStack k f).vd v = s.vd v :=
  (congrArg (fun x : State => x.vd v) (modStack_offDies s k f) :)

theorem quench_clear_completes (s : State) (k f : Nat) (hs : s.dies.length = 9) (hk : k < 18) (hnext : nextFrame s k = some f)
    (hf : s.cleared.get false f = false) : ∃ t, Completes (.quench_clear k) s t ∧ Quiet s t ∧ t.cleared.get false f = true := by
  have he : exec (.quench_clear k) s =
      did (finishChange ((clearFrame s f).modStack k (fun x => { x with head := x.head.filter (fun g => g != f) }))) := by
    change execQuenchClear k s = _
    simp only [execQuenchClear, Nat.not_le.mpr hk, if_false, hnext]
  refine happens he (((clearFrame_calm hs hf).trans (modStack_calm ..)).trans (finishChange_calm _)) ?_
  rw [finishChange_cleared, modStack_cleared]
  exact SMap.get_set_self false _ f true

/-! Meters and controllers. -/

theorem row_mitigation_completes (s : State) (k b r v : Nat) (hk : k < 18) (hown : (slicesOf s v).any (fun x => x / 16 == k) = true)
    (hm : 2 < (s.vd v).meters.length) :
    ∃ t, Completes (.row_mitigation k b r v) s t ∧ Quiet s t ∧ (t.vd v).meters[2]? = some (((s.vd v).meters[2]?).getD 0#64 + 8192#64) := by
  refine happens (if_neg (by rw [hown]; simp; omega)) ((modStack_calm ..).trans (setVd_calm ..)) ?_
  rw [State.modVd_eq, State.vd_setVd, modStack_vd]
  exact setAt_get_self _ 2 _ hm

theorem stack_modStack (s : State) {k : Nat} (hk : k < 18) (h : (s.die (k / 2)).hbm.length = 2) (f : Stack → Stack) :
    (s.modStack k f).stack k = f (s.stack k) := by
  rw [State.stack, State.modStack, State.modDie_eq, State.die_setDie _ _ (by omega)]
  exact congrArg (fun o => o.getD Stack.reset) (setAt_get_self (s.die (k / 2)).hbm (k % 2) _ (by omega))

theorem activation_window_completes (s : State) (k b : Nat) (hk : k < 18) (h : (s.die (k / 2)).hbm.length = 2) :
    ∃ t, Completes (.activation_window k b) s t ∧ Quiet s t ∧ (t.stack k).trackers.get? b = none := by
  refine happens (if_neg (by omega)) (modStack_calm ..) ?_
  rw [stack_modStack s hk h]
  exact SMap.get?_erase_self ..

/-- What a period of metering adds for one VD. -/
def meterVd (s : State) (e : Nat × List Nat) : State :=
  if isVd s e.1 then s.modVd e.1 (fun d => { d with
    meters := (d.meters.zipIdx).map (fun m => m.1 + BitVec.ofNat 64 ((e.2[m.2]?).getD 0)) }) else s

/-- The package a microsecond later. -/
def laterBy (s : State) (n : DWord) : State := { s with package := { s.package with time := s.package.time + n } }

theorem laterBy_calm (s : State) (n : DWord) : Calm s (laterBy s n) := Calm.of_same rfl rfl rfl rfl rfl

theorem meterVd_calm (s : State) (e : Nat × List Nat) : Calm s (meterVd s e) := by
  unfold meterVd; split
  · exact setVd_calm ..
  · exact Touches.refl s

theorem meterVd_package (s : State) (e : Nat × List Nat) : (meterVd s e).package = s.package := by
  unfold meterVd; split <;> rfl

theorem metering_tick_completes (s : State) (cs : List (Nat × List Nat)) :
    ∃ t, Completes (.metering_tick cs) s t ∧ Quiet s t ∧ t.package.time = s.package.time + 1000#64 := by
  have he : exec (.metering_tick cs) s = did (cs.foldl meterVd (laterBy (stampHeads s) 1000#64)) := rfl
  have hlater : Calm s (laterBy (stampHeads s) 1000#64) := (cmds_calm ..).trans (laterBy_calm ..)
  refine happens he (hlater.trans (Touches.foldl meterVd cs _ meterVd_calm)) ?_
  rw [foldl_keeps State.package meterVd meterVd_package]
  rfl

/-! Bellows. -/

theorem hvEvent_calm (s : State) (v gen kind : Nat) (bs : List Byte) : Calm s (hvEvent s v gen kind bs) := by
  unfold hvEvent; dsimp only; split <;> exact Calm.of_same rfl rfl rfl rfl rfl

/-- The records of a stack's row counts (R378). -/
def rowdistRecords (s : State) (k : Nat) : State :=
  (s.stack k).mitigations.foldl (fun s (e : Nat × Nat) => hvEvent s e.1 (s.vd e.1).gen 7 (le 2 k ++ le 2 e.1 ++ le 4 e.2)) s

theorem rowdist_eq (s : State) (k : Nat) : rowdist s k = (rowdistRecords s k).modStack k (fun x => { x with mitigations := [] }) := rfl

theorem rowdist_calm (s : State) (k : Nat) : Calm s (rowdist s k) := by
  have h : Calm s (rowdistRecords s k) := Touches.foldl _ _ s (fun _ _ => hvEvent_calm ..)
  rw [rowdist_eq]
  exact h.trans (modStack_calm ..)

/-- The caps and clocks of a period. -/
def setPower (caps clocks : List Nat) (s : State) : State :=
  (List.range 9).foldl (fun s d => s.modDie d (fun x => { x with cap := (caps[d]?).getD 0, mhz := (clocks[d]?).getD 800 })) s

/-- The budgets of a period. -/
def setBudgets (budgets : List Nat) (s : State) : State :=
  (List.range 18).foldl (fun s t => s.modStack t (fun k => { k with budget := (budgets[t]?).getD 0, used := 0 })) s

/-- The package in which a period of Bellows has started. -/
def startPeriod (caps clocks budgets : List Nat) (s : State) : State :=
  setBudgets budgets (setPower caps clocks ((List.range 18).foldl rowdist s))

theorem setPower_calm (caps clocks : List Nat) (s : State) : Calm s (setPower caps clocks s) :=
  Touches.foldl _ _ s (fun s d => setDie_calm s d rfl)

theorem setBudgets_calm (budgets : List Nat) (s : State) : Calm s (setBudgets budgets s) :=
  Touches.foldl _ _ s (fun s k => modStack_calm s k _)

/-- A part of a die that is not its stacks stays while the budgets are set. -/
theorem setBudgets_die_field {α : Type} (p : Die → α) (hp : ∀ (x : Die) hbm, p { x with hbm := hbm } = p x) (budgets : List Nat) (s : State)
    (d : Nat) : p ((setBudgets budgets s).die d) = p (s.die d) :=
  foldl_keeps (fun s : State => p (s.die d)) _ (fun s _ => die_setDie_field p s _ _ (hp _ _) d) (List.range 18) s

theorem setPower_die (caps clocks : List Nat) (s : State) {d : Nat} (hd : d < 9) :
    (setPower caps clocks s).die d = { s.die d with cap := (caps[d]?).getD 0, mhz := (clocks[d]?).getD 800 } := by
  rw [setPower, modDies_die _ (fun d x => { x with cap := (caps[d]?).getD 0, mhz := (clocks[d]?).getD 800 }) s d List.nodup_range,
    if_pos ⟨List.mem_range.mpr hd, hd⟩]

theorem goodPeriod_lengths {s : State} {caps clocks budgets : List Nat} (h : goodPeriod s caps clocks budgets = true) :
    caps.length = 9 ∧ clocks.length = 9 := by
  simp only [goodPeriod, Bool.and_eq_true, beq_iff_eq, and_assoc] at h
  obtain ⟨hcaps, hclocks, -⟩ := h
  exact ⟨hcaps, hclocks⟩

theorem startPeriod_calm (caps clocks budgets : List Nat) (s : State) : Calm s (startPeriod caps clocks budgets s) :=
  (Touches.foldl rowdist _ s rowdist_calm).trans ((setPower_calm ..).trans (setBudgets_calm ..))

theorem startPeriod_die {caps clocks budgets : List Nat} {s : State} (h : goodPeriod s caps clocks budgets = true) {d : Nat} (hd : d < 9) :
    caps[d]? = some ((startPeriod caps clocks budgets s).die d).cap ∧ clocks[d]? = some ((startPeriod caps clocks budgets s).die d).mhz := by
  obtain ⟨hcaps, hclocks⟩ := goodPeriod_lengths h
  rw [startPeriod, setBudgets_die_field Die.cap (fun _ _ => rfl), setBudgets_die_field Die.mhz (fun _ _ => rfl), setPower_die caps clocks _ hd,
    List.getElem?_eq_getElem (hcaps.symm ▸ hd), List.getElem?_eq_getElem (hclocks.symm ▸ hd)]
  exact ⟨rfl, rfl⟩

theorem bellows_period_completes (s : State) (caps clocks budgets : List Nat) (h : goodPeriod s caps clocks budgets = true) :
    ∃ t, Completes (.bellows_period caps clocks budgets) s t ∧ Quiet s t ∧
      ∀ d, d < 9 → caps[d]? = some (t.die d).cap ∧ clocks[d]? = some (t.die d).mhz := by
  have he : exec (.bellows_period caps clocks budgets) s = did (startPeriod caps clocks budgets s) := if_neg (by simp [h])
  have hdie (d : Nat) (hd : d < 9) := startPeriod_die h hd
  have hcalm := startPeriod_calm caps clocks budgets s
  generalize startPeriod caps clocks budgets s = u at he hdie hcalm
  exact happens he hcalm hdie

end Sys2Proof.Machine
end

section
/-! SUPPORT. The death of a warp (R171, R237, R331): what it leaves. -/

namespace Sys2Proof.Machine

open Sys2Proof

/-- How far each warp has come, each byte as each die reads it, and which dies are fenced. -/
def State.outline (s : State) : (Nat → Life) × (Nat → Loc → Byte) × (Nat → Bool) :=
  (fun w => (s.warp w).life, fun d l => s.readMem d l, fun d => (s.die d).fenced)

section
variable {s t : State}

theorem outline_ext (hl : ∀ w, (t.warp w).life = (s.warp w).life) (hm : ∀ d l, t.readMem d l = s.readMem d l)
    (hf : ∀ d, (t.die d).fenced = (s.die d).fenced) : t.outline = s.outline :=
  Prod.ext (funext hl) (Prod.ext (funext fun d => funext (hm d)) (funext hf))

theorem outline_life (h : t.outline = s.outline) (w : Nat) : (t.warp w).life = (s.warp w).life := congrFun (congrArg Prod.fst h) w
theorem outline_readMem (h : t.outline = s.outline) (d : Nat) (l : Loc) : t.readMem d l = s.readMem d l :=
  congrFun (congrFun (congrArg (fun x => x.2.1) h) d) l
theorem outline_fenced (h : t.outline = s.outline) (d : Nat) : (t.die d).fenced = (s.die d).fenced := congrFun (congrArg (fun x => x.2.2) h) d

theorem outline_of_calm (h : Calm s t) (hf : ∀ d, (t.die d).fenced = (s.die d).fenced) : t.outline = s.outline :=
  outline_ext (fun w => Warp.bare_field (h.warps w) Warp.life (fun _ => rfl)) h.memory_eq hf

/-- What a change within `Kept` leaves. -/
theorem outline_of_kept {w : Nat} {P : RegName → Prop} {K : Marks} (h : Kept w P K s t) : t.outline = s.outline := by
  refine outline_ext (fun k => ?_) h.readMem (fun d => ?_)
  · by_cases hk : k = w
    · subst hk; simpa [Warp.rest] using congrArg Warp.life h.warp
    · rw [h.others k hk]
  · simpa [Die.rest] using congrArg Die.fenced (State.rest_eq_dies h.state d)

theorem outline_setWarp (s : State) (w : Nat) (x : Warp) (h : x.life = (s.warp w).life) : (s.setWarp w x).outline = s.outline := by
  refine outline_ext (fun k => ?_) (readMem_congr rfl rfl rfl rfl) (fun _ => rfl)
  rw [State.warp_setWarp_eq]
  split
  · rename_i hk; rw [hk, h]
  · rfl

end

/-! Barriers are checked again (R203). -/

theorem writeUniform_outline (s : State) (w : Nat) (i : SubId) (r : Nat) (v : Word) (l : Label) : (writeUniform s w i r v l).outline = s.outline := by
  refine outline_setWarp s w _ ?_
  dsimp only
  split
  · rfl
  · split <;> rfl

theorem captureLate_outline (s : State) (w : Nat) (i : SubId) (latch : Nat) (lanes : SMap Reg) :
    (captureLate s w i latch lanes).outline = s.outline := rfl

/-- A sub-warp departs from a barrier. -/
def departs (lbl : Label) (val : Word) (s : State) (p : Nat × SubWarp) : State :=
  match p.2.hold with
  | .bar _ _ o _ _ d latch =>
    let (l, s) := s.join p.1 lbl p.2.maskLabel
    let s := if 24 ≤ d ∧ d < 56 then writeUniform s p.1 p.2.id (d - 24) val l else s
    let s := if o = 0 then s else captureLate s p.1 p.2.id latch ((List.range 32).map (fun i => (i, ⟨val, l, false, false⟩)))
    let s := makeReady s p.1 p.2
    arriveCheck s p.1 p.2.id
  | _ => s

theorem departs_outline (lbl : Label) (val : Word) (s : State) (p : Nat × SubWarp) : (departs lbl val s p).outline = s.outline := by
  unfold departs
  split
  · dsimp only
    refine (outline_of_kept (arriveCheck_kept p.1 noReg noMask _ _)).trans ((outline_of_kept (makeReady_kept p.1 noReg noMask _ _)).trans ?_)
    have hjoin := outline_of_kept (join_kept p.1 noReg noMask s lbl p.2.maskLabel)
    have hwrite {d : Nat} {v : Word} {l : Label} : (if 24 ≤ d ∧ d < 56 then
        writeUniform (s.join p.1 lbl p.2.maskLabel).2 p.1 p.2.id (d - 24) v l else (s.join p.1 lbl p.2.maskLabel).2).outline = s.outline := by
      split
      · exact (writeUniform_outline ..).trans hjoin
      · exact hjoin
    split
    · exact hwrite
    · exact (captureLate_outline ..).trans hwrite
  · rfl

theorem barDepart_outline (s : State) (g b n : Nat) (cluster : Bool) : (barDepart s g b n cluster).outline = s.outline := by
  unfold barDepart
  dsimp only
  split
  · rfl
  · exact (foldl_keeps State.outline _ (departs_outline _ _) _ _).trans (outline_of_kept (joinList_kept _ noReg noMask s _))

theorem barsRecheck_outline (s : State) (g b : Nat) : (barsRecheck s g b).outline = s.outline :=
  foldl_keeps State.outline _ (fun _ _ => (barDepart_outline ..).trans (barDepart_outline ..)) _ s

/-! A warp dies. -/

theorem gangFail_outline (s : State) (q w : Nat) (gang : Word) : (gangFail s q w gang).outline = s.outline := by
  unfold gangFail
  dsimp only
  refine (foldl_keeps State.outline _ (fun s m => ?_) _ _).trans rfl
  exact outline_setWarp s m.warp _ rfl

theorem leaveLatch_outline (s : State) (w : Nat) : (leaveLatch s w).outline = s.outline := rfl

theorem setBlock_outline (s : State) (g b : Nat) (x : Block) : (s.setBlock g b x).outline = s.outline := rfl

theorem queueDeath_outline (s : State) (ds : List Nat) (cs : SMap Cmd) : State.outline { s with deaths := ds, cmds := cs } = s.outline := rfl

theorem dropWarpLatches_outline (s : State) (w : Nat) : (dropWarpLatches s w).outline = s.outline := by
  unfold dropWarpLatches
  dsimp only
  split
  · split <;> rfl
  · rfl

/-- A warp as its death leaves it. -/
def Warp.died (x : Warp) (cause : Nat) (lbl : Label) : Warp :=
  { x with life := .dying cause lbl, subs := [], splits := [], path := [], ldx := [], fe := [], pending := [], exited := BitVec.allOnes 32 }

/-- The first steps of a death: the latches are dropped, and the warp stops. -/
def stopWarp (s : State) (w cause : Nat) (lbl : Label) : State := (dropWarpLatches s w).setWarp w ((s.warp w).died cause lbl)

/-- Whether a warp's death is queued or over. -/
def Life.ended : Life → Bool
  | .dying _ _ => true
  | .dead => true
  | _ => false

theorem dieWarp_outline (s : State) (w cause : Nat) (lbl : Label) (h : (s.warp w).life.ended = false) :
    (dieWarp s w cause lbl).outline = (stopWarp s w cause lbl).outline := by
  unfold dieWarp
  dsimp only
  split
  · rename_i hl; rw [hl] at h; cases h
  · rename_i hl; rw [hl] at h; cases h
  · refine (barsRecheck_outline ..).trans ?_
    rw [queueDeath_outline, State.modBlock, setBlock_outline, leaveLatch_outline]
    exact foldl_keeps State.outline _ (fun s v => gangFail_outline s _ w v) _ (stopWarp s w cause lbl)

theorem dieWarp_ended (s : State) (w cause : Nat) (lbl : Label) (h : (s.warp w).life.ended = true) : dieWarp s w cause lbl = s := by
  unfold dieWarp
  dsimp only
  split
  · rfl
  · rfl
  · rename_i hdying hdead
    cases hl : (s.warp w).life with
    | dying c l => exact absurd hl (hdying c l)
    | dead => exact absurd hl hdead
    | resident => rw [hl] at h; cases h
    | saving => rw [hl] at h; cases h
    | rewound => rw [hl] at h; cases h
    | saved => rw [hl] at h; cases h

theorem stopWarp_readMem (s : State) (w cause : Nat) (lbl : Label) (d : Nat) (l : Loc) : (stopWarp s w cause lbl).readMem d l = s.readMem d l :=
  (readMem_congr rfl rfl rfl rfl d l).trans (outline_readMem (dropWarpLatches_outline s w) d l)

theorem dieWarp_life (s : State) (w cause : Nat) (lbl : Label) (h : (s.warp w).life.ended = false) :
    ((dieWarp s w cause lbl).warp w).life = .dying cause lbl :=
  (outline_life (dieWarp_outline s w cause lbl h) w).trans (congrArg Warp.life (State.warp_setWarp ..))

theorem dieWarp_readMem (s : State) (w cause : Nat) (lbl : Label) (d : Nat) (l : Loc) : (dieWarp s w cause lbl).readMem d l = s.readMem d l := by
  cases h : (s.warp w).life.ended with
  | true => rw [dieWarp_ended s w cause lbl h]
  | false => exact (outline_readMem (dieWarp_outline s w cause lbl h) d l).trans (stopWarp_readMem ..)

theorem dieWarp_fenced (s : State) (w cause : Nat) (lbl : Label) (d : Nat) : ((dieWarp s w cause lbl).die d).fenced = (s.die d).fenced := by
  cases h : (s.warp w).life.ended with
  | true => rw [dieWarp_ended s w cause lbl h]
  | false => exact (outline_fenced (dieWarp_outline s w cause lbl h) d).trans (outline_fenced (dropWarpLatches_outline s w) d)

/-! A warp is killed (R210). -/

/-- What comes before the death: the record, the join of the labels, and the notices. -/
theorem killWarp_dies (s : State) (w : Nat) (t : TrapInfo) (cause : Nat) (double refused : Bool) (mask : Label) :
    ∃ r, killWarp s w t cause double refused mask = dieWarp r w cause mask ∧ (∀ k, (r.warp k).life = (s.warp k).life) ∧
      ∀ d l, r.readMem d l = s.readMem d l := by
  have hrecord : Noticed s (killRecord s w t double refused) := gfRecord_noticed ..
  have hjoin := outline_of_kept (joinList_kept w noReg noMask (killRecord s w t double refused)
    (mask :: ((lanesOf t.lanes).map (s.warp w).pathOf ++ t.lbls)))
  have hnotices := trapNotices_noticed ((killRecord s w t double refused).joinList w (mask :: ((lanesOf t.lanes).map (s.warp w).pathOf ++ t.lbls))).2
    (s.warp w).grid (s.warp w).block w t.cause t.slot t.delivery true double t.heir
    ((killRecord s w t double refused).joinList w (mask :: ((lanesOf t.lanes).map (s.warp w).pathOf ++ t.lbls))).1
  have hlife {a b : State} (h : Noticed a b) (k : Nat) : (b.warp k).life = (a.warp k).life := (congrArg Warp.life (h.warps k) :)
  exact ⟨_, rfl, fun k => (hlife hnotices k).trans ((outline_life hjoin k).trans (hlife hrecord k)),
    fun d l => (hnotices.memory d l).trans ((outline_readMem hjoin d l).trans (hrecord.memory d l))⟩

theorem killable_alive {s : State} {w : Nat} (h : killable s w = true) : (s.warp w).life.ended = false := by
  simp only [killable, Bool.and_eq_true] at h
  obtain ⟨-, hlife⟩ := h
  cases hl : (s.warp w).life with
  | dying => rw [hl] at hlife; cases hlife
  | dead => rw [hl] at hlife; cases hlife
  | _ => rfl

/-- The PC that the loss of a warp's state reports (R386). -/
def lostPc (s : State) (w : Nat) : DWord := (((s.warp w).subs.head?).map (fun u => u.pc)).getD 0#64

/-- The error is logged, and BADSTATE noted, before the warp dies. -/
def stateLost (s : State) (w : Nat) : State :=
  (logError s (dieOfQuad (s.warp w).quad) 9 8 (s.warp w).vd w (lostPc s w)).modWarp w (fun y => { y with tc := tcBit y.tc 18 })

theorem stateLost_outline (s : State) (w : Nat) : (stateLost s w).outline = s.outline := by
  have hlog := outline_of_calm (logError_calm s (dieOfQuad (s.warp w).quad) 9 8 (s.warp w).vd w (lostPc s w)) (logError_fenced s _ 9 8 _ w _)
  rw [stateLost, State.modWarp_eq]
  refine (outline_setWarp _ w _ ?_).trans hlog
  rfl

theorem warpState_error (s : State) (w : Nat) (h : killable s w = true) :
    ∃ t, Completes (.uncorrectable_error (.warpState w)) s t ∧ (t.warp w).life = .dying 2 0#8 ∧ ∀ d l, t.readMem d l = s.readMem d l := by
  obtain ⟨r, hr, hlife, hmem⟩ := killWarp_dies (stateLost s w) w
    ⟨18, lostPc s w, 0#64, liveLanes (stateLost s w) w, lineSlot (lostPc s w), 0, false, 0#32, 0#32, [], [], none, false⟩ 2 false false 0#8
  have he : exec (.uncorrectable_error (.warpState w)) s = did (dieWarp r w 2 0#8) := by
    rw [← hr]
    exact if_neg (by simp [h])
  have halive : (r.warp w).life.ended = false := by
    rw [hlife, outline_life (stateLost_outline s w)]
    exact killable_alive h
  refine ⟨_, completes_did he, dieWarp_life r w 2 0#8 halive, fun d l => ?_⟩
  exact (dieWarp_readMem r w 2 0#8 d l).trans ((hmem d l).trans (outline_readMem (stateLost_outline s w) d l))

end Sys2Proof.Machine
end

section
/-! SUPPORT. The fence of a die (R393, R394): the die stays fenced while what it held is ended. -/

namespace Sys2Proof.Machine

open Sys2Proof

/-- Which dies are fenced. -/
def State.fences (s : State) : Nat → Bool := fun d => (s.die d).fenced

theorem setDie_fences (s : State) (d : Nat) (x : Die) (h : x.fenced = (s.die d).fenced) : (s.setDie d x).fences = s.fences :=
  funext (die_setDie_field Die.fenced s d x h)

theorem fences_of_dies {s t : State} (h : t.dies = s.dies) : t.fences = s.fences :=
  congrArg (fun ds : List Die => fun d => ((ds[d]?).getD Die.reset).fenced) h

theorem vdEvent_fences (s : State) (v gen kind : Nat) (bs : List Byte) : (vdEvent s v gen kind bs).fences = s.fences :=
  fences_of_dies (vdEvent_dies ..)

theorem dieWarp_fences (s : State) (w cause : Nat) (lbl : Label) : (dieWarp s w cause lbl).fences = s.fences := funext (dieWarp_fenced s w cause lbl)

/-! Contexts are killed. -/

/-- The grid of a context is marked killed and leaves its port. -/
def markKilled (s : State) (g : Nat) : State :=
  let t := s.setGrid g { s.grid g with killed := true, shares := [] }
  match (s.grid g).port with
  | some p => modPort t (s.grid g).vd p (fun q => { q with fifo := q.fifo.filter (fun k => k != g) })
  | none => t

theorem markKilled_dies (s : State) (g : Nat) : (markKilled s g).dies = s.dies := by
  unfold markKilled; dsimp only; split <;> rfl

theorem killGrid_fences (s : State) (cause g : Nat) : (killGrid s cause g).fences = s.fences := by
  unfold killGrid
  dsimp only
  split
  · rfl
  · change ((warpsOf (markKilled s g) g).foldl (fun s e => dieWarp s e.1 cause 0#8) (markKilled s g)).fences = s.fences
    exact (foldl_keeps State.fences _ (fun s (e : Nat × Warp) => dieWarp_fences s e.1 cause 0#8) _ _).trans (fences_of_dies (markKilled_dies s g))

theorem killContexts_fences (s : State) (serial channel : Nat) (loc : DWord) (gs : List Grid) :
    (killContexts s serial channel loc gs).fences = s.fences := by
  unfold killContexts
  refine foldl_keeps State.fences _ (fun s g => ?_) gs s
  exact (vdEvent_fences ..).trans (killGrid_fences ..)

theorem cutCommands_fences (s : State) (gs : List Grid) : (cutCommands s gs).fences = s.fences := rfl

theorem loseHost_fences (s : State) (serial channel : Nat) (loc : DWord) (ds : List Nat) : (loseHost s serial channel loc ds).fences = s.fences :=
  killContexts_fences ..

/-! Episodes end. -/

theorem modMailbox_fences (s : State) (d m : Nat) (f : Mailbox → Mailbox) : (s.modMailbox d m f).fences = s.fences := setDie_fences s d _ rfl

theorem modPcore_fences (s : State) (d c : Nat) (f : PCore → PCore) : (s.modPcore d c f).fences = s.fences := setDie_fences s d _ rfl

theorem markFrame_fences (s : State) (f : Nat) : (s.markFrame f).fences = s.fences := rfl

theorem episodes_fences (s : State) (es : List Episode) : State.fences { s with episodes := es } = s.fences := rfl

theorem settleBox_fences (s : State) (d m : Nat) : (settleBox s d m).fences = s.fences := modMailbox_fences ..

theorem endEpisode_fences (s : State) (e : Episode) (code : DWord) : (endEpisode s e code).fences = s.fences := by
  unfold endEpisode
  dsimp only
  rw [vdEvent_fences, episodes_fences, foldl_keeps State.fences _ markFrame_fences]
  refine (foldl_keeps State.fences _ (fun s m => ?_) _ _).trans (modPcore_fences ..)
  exact (settleBox_fences ..).trans (modMailbox_fences ..)

/-- The episodes of a die end, each with a code that the spec leaves open. -/
def endEpisodes (s : State) (d : Nat) : State :=
  (s.episodes.filter (fun e => e.die == d)).foldl (fun s e =>
    let (code, s) := freePair s
    endEpisode s e code) s

theorem freePair_fences (s : State) : (freePair s).2.fences = s.fences := rfl

theorem endEpisodes_fences (s : State) (d : Nat) : (endEpisodes s d).fences = s.fences :=
  foldl_keeps State.fences _ (fun s e => (endEpisode_fences (freePair s).2 e (freePair s).1).trans (freePair_fences s)) _ s

/-! Memory and writes. -/

/-- The other dies' copies lose the memory of a die. -/
def loseMemory (s : State) (d : Nat) : State :=
  (List.range 9).foldl (fun s k => if k = d then s else s.modDie k (fun x => { x with copy := { x.copy with
    bytes := SMap.dropRange x.copy.bytes (d * 2 ^ 37) ((d + 1) * 2 ^ 37), lbls := x.copy.lbls.dropRange (d * 2 ^ 31) ((d + 1) * 2 ^ 31)
    stamps := x.copy.stamps.dropRange (d * 2 ^ 35) ((d + 1) * 2 ^ 35) } })) s

theorem loseMemory_fences (s : State) (d : Nat) : (loseMemory s d).fences = s.fences := by
  refine foldl_keeps State.fences _ (fun s k => ?_) _ s
  split
  · rfl
  · exact setDie_fences s k _ rfl

theorem loseWrite_fences (s : State) (f : Flight) : (loseWrite s f).fences = s.fences := by
  unfold loseWrite
  dsimp only
  split <;> rfl

theorem retireFlights_fences (s : State) : s.retireFlights.fences = s.fences := rfl

theorem dropWrites_fences (s : State) (d : Nat) : (dropWrites s d).fences = s.fences :=
  (retireFlights_fences _).trans (foldl_keeps State.fences loseWrite loseWrite_fences _ s)

/-! The fence. -/

/-- The package once the error is logged and the die is fenced. -/
def fencedAt (s : State) (d channel : Nat) (loc : DWord) : State := (logError s d channel 7 0x3FF 0 loc).modDie d (fun x => { x with fenced := true })

theorem fenceDie_fences {s : State} {d : Nat} (channel : Nat) (loc : DWord) (hd : d < 9) (hf : (s.die d).fenced = false) :
    (fenceDie s d channel loc).fences = (fencedAt s d channel loc).fences := by
  unfold fenceDie
  rw [if_neg (by simp [hf]; omega)]
  dsimp only
  rw [← loseMemory, dropWrites_fences, loseMemory_fences, loseHost_fences, ← endEpisodes, endEpisodes_fences, cutCommands_fences,
    killContexts_fences]
  rfl

theorem fenceDie_fenced {s : State} {d : Nat} (channel : Nat) (loc : DWord) (hd : d < 9) (hf : (s.die d).fenced = false) :
    ((fenceDie s d channel loc).die d).fenced = true := by
  refine (congrFun (fenceDie_fences channel loc hd hf) d).trans ?_
  rw [State.fences, fencedAt, State.modDie_eq, State.die_setDie _ _ hd]

theorem weld_error (s : State) (d : Nat) (hd : d < 9) (hf : (s.die d).fenced = false) :
    ∃ t, Completes (.uncorrectable_error (.weld d)) s t ∧ (t.die d).fenced = true := by
  have he : exec (.uncorrectable_error (.weld d)) s = did (fenceDie (freePair s).2 d 10 (freePair s).1) := if_neg (by simp [hf]; omega)
  exact ⟨_, completes_did he, fenceDie_fenced (s := (freePair s).2) 10 (freePair s).1 hd hf⟩

theorem dieUnit_error (s : State) (d k : Nat) (hd : d < 9) (hf : (s.die d).fenced = false) (hk : k = 4 ∨ k = 8 ∨ k = 13) :
    ∃ t, Completes (.uncorrectable_error (.dieUnit d k)) s t ∧ (t.die d).fenced = true := by
  have hmem : [4, 8, 13].contains k = true := by simpa using hk
  have he : exec (.uncorrectable_error (.dieUnit d k)) s = did (fenceDie (freePair s).2 d k (freePair s).1) :=
    if_neg (by rw [hmem]; simp [hf]; omega)
  exact ⟨_, completes_did he, fenceDie_fenced (s := (freePair s).2) k (freePair s).1 hd hf⟩

/-- Settles O57, an event at a time: what an error strikes is poisoned, fenced or killed and the error logged (`logError_calm`), a verdict ends its
audit, a clear leaves what each die reads (`clearFrame_readMem`), and the meters' events change what they name. -/
theorem errorsAndContainment : Obligations.ErrorsAndContainment := by
  unfold Obligations.ErrorsAndContainment
  exact ⟨operand_error, main_error, uniform_error, accumulator_error, scratchpad_error,
    fun s d hd hf => ⟨weld_error s d hd hf, fun k hk => dieUnit_error s d k hd hf hk⟩,
    hbmLine_error, warpState_error, corrected_completes, line_fetch_completes, audit_verdict_completes, cl_audit_verdict_completes,
    quench_clear_completes, row_mitigation_completes, activation_window_completes, metering_tick_completes, bellows_period_completes⟩

end Sys2Proof.Machine
end

section
/-! SUPPORT. Warp arithmetic (R144 to R164): an instruction whose meaning is the arithmetic wrapper at a steady function computes, the
functions of the instructions are steady, and IADDC adds with carry. -/

namespace Sys2Proof.Machine

open Sys2Proof

/-! Functions of a lane that read nothing that the check of a predicate changes. -/

/-- A lane's function gives the same on states that are near. -/
def Steady {α : Type} (f : State → Nat → List Word → α) : Prop := ∀ s t, Near s t → ∀ i v, f t i v = f s i v

/-- A function of the values that a lane reads, alone. -/
theorem Steady.of_values {α : Type} {f : State → Nat → List Word → α} (h : ∀ s t i v, f t i v = f s i v) : Steady f := fun s t _ => h s t

theorem Steady.one {f : State → Nat → List Word → Word × BitVec 8} (h : Steady f) : Steady (one f) := fun s t hn i v => by
  simp only [Machine.one, h s t hn]

theorem fmmFn_steady (p : Pfx) (isMax : Bool) : Steady (fmmFn p isMax) := .of_values fun _ _ _ _ => rfl
theorem halfMm_steady (p : Pfx) (isMax bf16 : Bool) : Steady (halfMm p isMax bf16) := .of_values fun _ _ _ _ => rfl
theorem halfCmp_steady (p : Pfx) (cc : Nat) (bf16 : Bool) : Steady (halfCmp p cc bf16) := .of_values fun _ _ _ _ => rfl
theorem cvtuFn_steady (p : Pfx) (code j : Nat) : Steady (cvtuFn p code j) := .of_values fun _ _ _ _ => rfl

/-! Functions that take their lane's rounding from the state (R95, R116). -/

section
variable (c : Ctx) (p : Pfx)

theorem f32Fn_steady (op : FOp) : Steady (f32Fn c p op) := fun s t hn i v => by simp only [f32Fn, hn.laneRM]
theorem halfFn_steady (op : FOp) (bf16 : Bool) : Steady (halfFn c p op bf16) := fun s t hn i v => by simp only [halfFn, hn.laneRM]
theorem cvtFn_steady (src dst : Nat) : Steady (cvtFn c p src dst) := fun s t hn i v => by simp only [cvtFn, hn.laneRM]
theorem cvtpFn_steady (code j : Nat) : Steady (cvtpFn c p code j) := fun s t hn i v => by simp only [cvtpFn, hn.laneRM]
theorem sclFn_steady (ty k : Nat) : Steady (sclFn c p ty k) := fun s t hn i v => by simp only [sclFn, hn.laneRM]
theorem dotFn_steady (n ta tb : Nat) : Steady (dotFn c p n ta tb) := fun s t hn i v => by simp only [dotFn, hn.laneRM]

end

/-! Functions that read a lane-mask register. -/

theorem select_steady (c : Ctx) (d : Dst) (ks : Nat) (inv : Bool) : Steady (select c d ks inv) := fun s t hn i v => by
  simp only [select, hn.maskReg]

theorem wholeMask_steady (c : Ctx) (n : Nat) : Steady (fun s _ _ => ([(maskReg s c n).bits], 0#8)) := fun s t hn i v => by
  simp only [hn.maskReg]

/-! The wrappers at such a function. -/

section
variable {i : Instr} {p : Pfx} {w : W0} {d : Dst} {xs : Srcs} {wf : Bool}

theorem computes_steady {n : Nat} {extra : Ctx → State → Nat → List Label} {f : Ctx → LaneFn}
    (he : ∀ s, exec i s = issue p wf s (fun c => aluBody c w d n xs (extra c) (f c))) (hf : ∀ c, Steady (f c)) (hwf : wf = true) :
    Computes i p w d n xs f := by
  subst hwf
  exact computes_of he hf

theorem computes_alu {f : Ctx → State → Nat → List Word → Word × BitVec 8}
    (he : ∀ s, exec i s = issue p wf s (fun c => alu c w d xs (f c))) (hf : ∀ c, Steady (f c)) (hwf : wf = true) :
    Computes i p w d 1 xs (fun c => one (f c)) :=
  computes_steady he (fun c => (hf c).one) hwf

theorem computes_values {f : State → Nat → List Word → Word × BitVec 8} (he : ∀ s, exec i s = issue p wf s (fun c => alu c w d xs f))
    (hf : ∀ s t i v, f t i v = f s i v) (hwf : wf = true) : Computes i p w d 1 xs (fun _ => one f) :=
  computes_alu he (fun _ => .of_values hf) hwf

theorem compares_cmp {n : Nat} {f : List Word → Bool × BitVec 8} (he : ∀ s, exec i s = issue p wf s (fun c => cmpBody c w n xs f))
    (hwf : wf = true) : Compares i p w n xs f := by
  subst hwf
  exact compares_of he

/-- The label that ISEL adds to its sources': that of the lane's bit, or of the whole register (R150). -/
def selectLabels (d : Dst) (ks : Nat) (c : Ctx) (s : State) (i : Nat) : List Label :=
  if d.uniform then [(maskReg s c ks).lbl] else [(maskReg s c ks).lbls.get 0#8 i]

theorem iselBody_eq (c : Ctx) (w : W0) (d : Dst) (xs : Srcs) (ks : Nat) (inv : Bool) :
    iselBody c w d xs ks inv = aluBody c w d 1 xs (selectLabels d ks c) (select c d ks inv) := by
  unfold iselBody
  congr 1
  funext s i v
  simp only [select, ne_eq, decide_not, bne, Bool.beq_eq_decide_eq]

theorem computes_isel {ks : Nat} {inv : Bool} (he : ∀ s, exec i s = issue p wf s (fun c => iselBody c w d xs ks inv)) (hwf : wf = true) :
    Computes i p w d 1 xs (fun c => select c d ks inv) := by
  simp only [iselBody_eq] at he
  exact computes_steady he (select_steady · d ks inv) hwf

theorem computes_movkFrom {n : Nat} (he : ∀ s, exec i s = issue p wf s (fun c => movkFromBody c w d n)) (hwf : wf = true) :
    Computes i p w d 1 [] (fun c s _ _ => ([(maskReg s c n).bits], 0#8)) :=
  computes_steady he (wholeMask_steady · n) hwf

theorem computes_imadw {b32 : Bool} (he : ∀ s, exec i s = issue p wf s (fun c => imadwBody c w d b32 xs)) (hwf : wf = true) :
    Computes i p w d 2 xs (fun _ => madwide b32) :=
  computes_steady he (fun _ => .of_values fun _ _ _ _ => rfl) hwf

theorem computes_lea {b32 : Bool} {sh : Nat} (he : ∀ s, exec i s = issue p wf s (fun c => leaBody c w d b32 sh xs)) (hwf : wf = true) :
    Computes i p w d 2 xs (fun _ => leaPair b32 sh) :=
  computes_steady he (fun _ => .of_values fun _ _ _ _ => rfl) hwf

end

/-! A body that goes on (R109, R116). -/

theorem counted_reg (p : Pfx) (s : State) (k : Nat) (g : RegName) : ((s.counted p).warp k).reg g = (s.warp k).reg g := by
  unfold State.counted
  split
  · rw [State.modWarp_eq, State.warp_setWarp_eq]
    split
    · rename_i hk
      subst hk
      cases g <;> rfl
    · rfl
  · rfl

theorem counted_mask (p : Pfx) (s : State) (k n : Nat) : ((s.counted p).warp k).mask n = (s.warp k).mask n := by
  unfold State.counted
  split
  · rw [State.modWarp_eq, State.warp_setWarp_eq]
    split
    · rename_i hk
      rw [hk]
      rfl
    · rfl
  · rfl

/-- A group whose body goes on after the checks of its prefixes completes: what the body changed is kept, its registers and masks stay. -/
theorem issue_next {p : Pfx} {s : State} {u : SubWarp} {body : Ctx → M Done} {P : RegName → Prop} {K : Marks} {R : State → Prop} (hi : Issues s p u)
    (hb : ∀ s1, Near (takeLatches s u) s1 → s1.quads = (takeLatches s u).quads →
      ∃ r, body (mkCtx s u p) s1 = .ok (.next, r) ∧ Kept s.cur.warp P K s1 r ∧ R r) :
    ∃ r t, issue p true s body = .next t ∧ t.report = .done ∧ Kept s.cur.warp P K (s.counted p) t ∧ R r ∧
      Kept s.cur.warp noReg noMask (r.counted p) t := by
  obtain ⟨s1, h1⟩ := hi.predicate
  obtain ⟨hnear, hquads, hpre⟩ := checkPfx_near h1
  obtain ⟨r, hr, hk, hR⟩ := hb s1 hnear hquads
  have hall : Kept s.cur.warp P K s r :=
    ((takeLatches_kept _ _ _ s u).trans (hpre.mono (fun _ h => h.elim) (fun _ h => h.elim))).trans hk
  have hcomp := complete_kept p r u .next (w := s.cur.warp) (by rw [State.rest_eq_cur hall.state])
  exact ⟨r, _, issue_ok hi.sub h1 hr, rfl, (hall.counted rfl p).trans (hcomp.mono (fun _ h => h.elim) (fun _ h => h.elim)), hR, hcomp⟩

/-! The bits of a mask. -/

theorem getLsbD_laneBit {i k : Nat} (hi : i < 32) : (laneBit k).getLsbD i = decide (i = k) := by
  by_cases h : i = k
  · subst h
    simp [laneBit, hi]
  · simp [laneBit, BitVec.getLsbD_shiftLeft, BitVec.getLsbD_one, h]
    omega

theorem getLsbD_maskOf (f : Nat → Bool) {i : Nat} (hi : i < 32) : (maskOf f).getLsbD i = f i := by
  have hfold : ∀ (is : List Nat) (m : LaneMask),
      (is.foldl (fun m k => if f k then m ||| laneBit k else m) m).getLsbD i = (m.getLsbD i || (decide (i ∈ is) && f i)) := by
    intro is
    induction is with
    | nil => simp
    | cons k is ih =>
      intro m
      rw [List.foldl_cons, ih]
      by_cases hk : i = k
      · subst hk
        cases hf : f i <;> simp [getLsbD_laneBit hi]
      · split <;> simp [getLsbD_laneBit hi, hk]
  refine (hfold (List.range 32) 0#32).trans ?_
  simp [hi]

/-! IADDC (R150). -/

section
variable (c : Ctx)

theorem laneLabels_kept (P : RegName → Prop) (K : Marks) (xs : Srcs) (extra : State → Nat → List Label) (s : State) :
    ∃ ls t, laneLabels c xs extra s = .ok (ls, t) ∧ Kept c.w P K s t := ⟨_, _, rfl, joinLanes_kept ..⟩

/-- The sums of IADDC stand in the destination, their carries in the bits of the lanes that are on; the other bits are those of `old`. -/
def SumsIn (w : W0) (d : Dst) (kc : Nat) (sum : Nat → Nat) (old : Word) (t : State) : Prop :=
  (w.wbs = false → ∀ i, hasLane c.run i = true → d.has (t.warp c.w) 0 i (BitVec.ofNat 32 (sum i))) ∧
  ∀ i, i < 32 → ((t.warp c.w).mask kc).getLsbD i = if hasLane c.on i then decide (2 ^ 32 ≤ sum i) else old.getLsbD i

theorem SumsIn.of_same {c : Ctx} {w : W0} {d : Dst} {kc : Nat} {sum : Nat → Nat} {old : Word} {r t : State} (h : SumsIn c w d kc sum old r)
    (hreg : ∀ g, (t.warp c.w).reg g = (r.warp c.w).reg g) (hmask : (t.warp c.w).mask kc = (r.warp c.w).mask kc) :
    SumsIn c w d kc sum old t := by
  obtain ⟨hsum, hcarry⟩ := h
  refine ⟨fun hw i hi g hg => (hreg g).trans (hsum hw i hi g hg), fun i hi => ?_⟩
  rw [hmask]
  exact hcarry i hi

/-- IADDC's body completes where its operands can be read. -/
theorem iaddcBody_ok (w : W0) {d : Dst} (hd : d.uniform = false) (xs : Srcs) (kc : Nat) (first : Bool) (s : State)
    (hr : Readable s c (xs.map (fun x => x.2)) c.on) (hw : Writable s c d) :
    ∃ t, iaddcBody c w d xs kc first s = .ok (.next, t) ∧ Kept c.w (aluNames c w d 1) (oneMask kc) s t ∧
      SumsIn c w d kc (carrySum s c xs kc first) ((s.warp c.w).mask kc) t := by
  have hsum : ∀ i, (at' (laneVals s c xs i) 0).toNat + (at' (laneVals s c xs i) 1).toNat +
      (if (!first && hasLane (maskReg s c kc).bits i) = true then 1 else 0) = carrySum s c xs kc first i := fun i => by
    simp [carrySum]
  unfold iaddcBody
  simp only [M.bind_ok (checkDst_ok hw), M.bind_ok (checkSrcs_ok hr), M.st_bind, hsum]
  obtain ⟨ls, s1, e1, k1⟩ := laneLabels_kept c noReg noMask xs (fun _ i => if first then [] else [(maskReg s c kc).lbls.get 0#8 i]) s
  obtain ⟨s2, e2, k2⟩ := lastUse_kept c noReg noMask xs s1
  obtain ⟨s3, e3, k3, hhas⟩ := writeLanes_ok c noMask w d 1 c.run (fun i => [BitVec.ofNat 32 (carrySum s c xs kc first i)])
    (fun i => ls.get 0#8 i) s2
  obtain ⟨k4, hmask⟩ := writeBits_kept c noReg kc c.on (maskOf (fun i => decide (2 ^ 32 ≤ carrySum s c xs kc first i))) (fun i => ls.get 0#8 i) s3
  have hresult : Kept c.w (aluNames c w d 1) noMask s s3 := ((k1.trans k2).mono (fun _ h => h.elim) (fun _ h => h)).trans
    (k3.mono (fun g hg => by simpa [aluNames, hd] using hg) (fun _ h => h))
  refine ⟨_, ?_, (hresult.mono (fun _ h => h) (fun _ h => h.elim)).trans (k4.mono (fun _ h => h.elim) (fun _ h => h) (by simp [oneMask])),
    fun hwb i hi g hg => (k4.regs g (fun h => h)).trans (hhas hwb (.inl hd) 0 i (by decide) hi g hg), fun i hi => ?_⟩
  · rw [M.bind_ok e1, M.bind_ok e2, M.bind_ok e3, M.upd_bind]
    rfl
  · rw [hmask, hresult.masks kc (fun h => h), BitVec.getLsbD_or, BitVec.getLsbD_and, BitVec.getLsbD_and, BitVec.getLsbD_not, getLsbD_maskOf _ hi,
      show c.on.getLsbD i = hasLane c.on i from rfl]
    cases hasLane c.on i <;> simp [hi]

end

theorem carrySum_before {s t : State} {p : Pfx} {u : SubWarp} (hn : Near (takeLatches s u) t) (hq : t.quads = (takeLatches s u).quads) {xs : Srcs}
    {m : LaneMask} (h : Readable s (mkCtx s u p) (xs.map (fun x => x.2)) m) (kc : Nat) (first : Bool) :
    carrySum t (mkCtx s u p) xs kc first = carrySum s (mkCtx s u p) xs kc first := by
  funext i
  unfold carrySum
  rw [laneVals_before hn hq h, ((takeLatches_near s u).trans hn).maskReg]

theorem addsWithCarry_iaddc {i : Instr} {p : Pfx} {w : W0} {d : Dst} {xs : Srcs} {kc : Nat} {first wf : Bool}
    (he : ∀ s, exec i s = issue p wf s (fun c => iaddcBody c w d xs kc first)) (hd : d.uniform = false) (hwf : wf = true) :
    AddsWithCarry i p w d xs kc first := by
  subst hwf
  intro s u hi hr hw
  have hbody : ∀ s1, Near (takeLatches s u) s1 → s1.quads = (takeLatches s u).quads →
      ∃ r, iaddcBody (mkCtx s u p) w d xs kc first s1 = .ok (.next, r) ∧
        Kept s.cur.warp (aluNames (mkCtx s u p) w d 1) (oneMask kc) s1 r ∧
        SumsIn (mkCtx s u p) w d kc (carrySum s (mkCtx s u p) xs kc first) ((s.warp s.cur.warp).mask kc) r := by
    intro s1 hn hq
    have h := iaddcBody_ok (mkCtx s u p) w hd xs kc first s1 (hr.before hn hq) (hw.before hn)
    rw [carrySum_before hn hq hr, show (s1.warp (mkCtx s u p).w).mask kc = (s.warp s.cur.warp).mask kc from
      ((takeLatches_near s u).trans hn).field (fun x => x.mask kc) (fun _ => rfl) s.cur.warp] at h
    exact h
  obtain ⟨r, t, ht, hdone, hk, hsums, hend⟩ := issue_next (body := fun c => iaddcBody c w d xs kc first) hi hbody
  exact ⟨t, ⟨(he s).trans ht, hdone⟩, hk, hsums.of_same (fun g => (hend.regs g (fun h => h)).trans (counted_reg ..))
    ((hend.masks kc (fun h => h)).trans (counted_mask ..))⟩

/-! IADDC has no uniform destination (R149). -/

theorem ofCode_uniform_of_not_isU {k : BitVec 6} (h : WF.isU k = false) : (Dst.ofCode k).uniform = false := by
  simp only [WF.isU, Bool.and_eq_false_iff, decide_eq_false_iff_not] at h
  unfold Dst.ofCode
  split
  · rfl
  · rw [if_neg (by omega)]
    rfl

theorem dstD_uniform_of_not_isU {w : W0} {x : W1} (h : WF.isU w.d = false) : (dstD w x).uniform = false := by
  unfold dstD
  split
  · rfl
  · exact ofCode_uniform_of_not_isU h

section
variable {w : W0} {x : W1}

theorem not_isU_of_uni {r0 : Bool} {ss : List (BitVec 6)} (h : WF.uni false w r0 ss = true) : WF.isU w.d = false := by
  simpa [WF.uni] using h

theorem not_isU_of_ab (h : WF.ab false w = true) : WF.isU w.d = false := not_isU_of_uni (Bool.and_eq_true_iff.mp h).2

theorem not_isU_of_immC {n : Nat} (h : WF.immC false n w x = true) : WF.isU w.d = false := not_isU_of_uni (Bool.and_eq_true_iff.mp h).2

theorem not_isU_of_litC {n : Nat} (h : WF.litC false n w x = true) : WF.isU w.d = false := not_isU_of_uni (Bool.and_eq_true_iff.mp h).2

end

/-! The statements. -/

/-- Settles O6: each form is the wrapper at an integer function of the values alone. -/
theorem integerArithmetic : Obligations.IntegerArithmetic := by
  unfold Obligations.IntegerArithmetic
  and_intros
  all_goals
    intros
    exact computes_values (fun _ => rfl) (fun _ _ _ _ => rfl) ‹_›

/-- Settles O7: each form is the wrapper at a function of words. -/
theorem bitOperations : Obligations.BitOperations := by
  unfold Obligations.BitOperations
  and_intros
  all_goals
    intros
    exact computes_values (fun _ => rfl) (fun _ _ _ _ => rfl) ‹_›

/-- Settles O8: ISEL, IMADW and LEA are the wrapper; IADDC, which names no uniform destination, writes its carries after its sums, with
write-back suppressed too (the model's choice, log entry 118). -/
theorem selectsPairsAndCarry : Obligations.SelectsPairsAndCarry := by
  unfold Obligations.SelectsPairsAndCarry
  refine ⟨fun _ _ => computes_isel fun _ => rfl, fun _ _ _ => computes_isel fun _ => rfl, fun _ _ _ _ => computes_isel fun _ => rfl,
    fun _ _ => computes_imadw fun _ => rfl, fun _ _ _ => computes_imadw fun _ => rfl, fun _ _ _ _ => computes_imadw fun _ => rfl,
    fun _ _ => computes_lea fun _ => rfl, fun _ _ _ => computes_lea fun _ => rfl, fun _ _ _ _ => computes_lea fun _ => rfl,
    fun p w h => addsWithCarry_iaddc (fun _ => rfl) (ofCode_uniform_of_not_isU ?_) h,
    fun p w x h => addsWithCarry_iaddc (fun _ => rfl) (dstD_uniform_of_not_isU ?_) h,
    fun p w x lit h => addsWithCarry_iaddc (fun _ => rfl) (dstD_uniform_of_not_isU ?_) h⟩
  · exact not_isU_of_ab (Bool.and_eq_true_iff.mp h).2
  · exact not_isU_of_immC (Bool.and_eq_true_iff.mp h).2
  · exact not_isU_of_litC (Bool.and_eq_true_iff.mp h).2

/-- Settles O9: each form is the wrapper of comparisons. -/
theorem comparisons : Obligations.Comparisons := by
  unfold Obligations.Comparisons
  and_intros
  all_goals
    intros
    exact compares_cmp (fun _ => rfl) ‹_›

/-- Settles O10: each form is the wrapper at a function that takes from the state no more than its lane's rounding. -/
theorem floatArithmetic : Obligations.FloatArithmetic := by
  unfold Obligations.FloatArithmetic
  and_intros
  all_goals
    intros
    refine computes_alu (fun _ => rfl) (fun _ => ?_) ‹_›
    simp only [f32Fn_steady, fmmFn_steady]

/-- Settles O11: each is the wrapper at a function whose rounding is the lane's (`Near.laneRM`). -/
theorem specialFunctions : Obligations.SpecialFunctions := by
  unfold Obligations.SpecialFunctions
  and_intros
  all_goals
    intros
    refine computes_alu (fun _ => rfl) (fun _ s t hn k v => ?_) ‹_›
    simp only [sfnFn, hn.laneRM]

/-- Settles O12: each form is the wrapper at a function of both halves, each rounded as its element. -/
theorem packedHalves : Obligations.PackedHalves := by
  unfold Obligations.PackedHalves
  and_intros
  all_goals
    intros
    refine computes_alu (fun _ => rfl) (fun _ => ?_) ‹_›
    simp only [halfFn_steady, halfMm_steady, halfCmp_steady]

/-- Settles O13: each form is the wrapper at a conversion or a dot product, rounded as its lane. -/
theorem conversionsAndDotProducts : Obligations.ConversionsAndDotProducts := by
  unfold Obligations.ConversionsAndDotProducts
  and_intros
  all_goals
    intros
    refine computes_alu (fun _ => rfl) (fun _ => ?_) ‹_›
    simp only [cvtFn_steady, cvtpFn_steady, cvtuFn_steady, sclFn_steady, dotFn_steady]

/-- Settles O14: a move is the wrapper at its source's value; MOVK from a mask reads the register, which the checks before it leave. -/
theorem moves : Obligations.Moves := by
  unfold Obligations.Moves
  refine ⟨fun _ _ _ => ?_, fun _ _ _ => ?_, fun _ _ => ?_, fun _ _ _ => ?_, fun _ _ => computes_movkFrom fun _ => rfl, fun _ _ _ => ?_,
    fun _ _ _ _ => ?_⟩
  all_goals exact computes_values (fun _ => rfl) (fun _ _ _ _ => rfl)

end Sys2Proof.Machine
end

section
/-! SUPPORT. The trap instructions (R173, R209): a group whose body stops takes its trap at the issuing sub-warp. -/

namespace Sys2Proof.Machine

open Sys2Proof

section
variable {p : Pfx} {s : State} {u : SubWarp} {body : Ctx → M Done}

/-- A group that is not only tried, and whose body stops with a trap, takes it at the sub-warp that issued (R109). -/
theorem issue_traps {t : TrapInfo} (hi : Issues s p u) (hp : s.cur.probe = false) (hb : ∀ r, body (mkCtx s u p) r = .error (.trap t)) :
    issue p true s body = .next (takeTrap (takeLatches s u) s.cur.warp u.id t) := by
  obtain ⟨s1, h1⟩ := hi.predicate
  have hsub : (s.warp s.cur.warp).sub s.cur.sub = some u := hi.sub
  have hrun : (do checkPfx (mkCtx s u p) p; body (mkCtx s u p) : M Done) (takeLatches s u) = .error (.trap t) := by
    rw [M.bind_ok h1, hb]
  unfold issue
  simp only [hsub, hrun, takeStop, hp, Bool.not_true, Bool.false_eq_true, if_false]

/-- A group without PFX words may act wherever its sub-warp exists. -/
theorem issues_none (hu : s.issuer = some u) : Issues s Pfx.none u := ⟨hu, _, rfl⟩

/-- A group whose body changes nothing completes, and keeps all. -/
theorem issue_idle (hi : Issues s p u) (hb : ∀ r, body (mkCtx s u p) r = .ok (.next, r)) :
    ∃ t, issue p true s body = .next t ∧ t.report = .done ∧ Kept s.cur.warp noReg noMask (s.counted p) t := by
  obtain ⟨-, t, ht, hdone, hk, -⟩ := issue_next (P := noReg) (K := noMask) (R := fun _ => True) hi (fun s1 _ _ => ⟨s1, hb s1, Kept.refl .., trivial⟩)
  exact ⟨t, ht, hdone, hk⟩

end

/-- TRAP and BKPT: a trap in the lanes that are on; with none of them on, nothing (R173). -/
theorem trapWhenOn {i : Instr} {p : Pfx} {s : State} {u : SubWarp} {t : Ctx → TrapInfo}
    (he : exec i s = issue p true s (fun c => if c.on = 0#32 then pure .next else M.stop (.trap (t c)))) (hi : Issues s p u) (hp : s.cur.probe = false) :
    ((mkCtx s u p).on ≠ 0#32 → exec i s = .next (takeTrap (takeLatches s u) s.cur.warp u.id (t (mkCtx s u p)))) ∧
    ((mkCtx s u p).on = 0#32 → ∃ r, Completes i s r ∧ Kept s.cur.warp noReg noMask (s.counted p) r) := by
  refine ⟨fun hon => he.trans (issue_traps hi hp (fun r => ?_)), fun hoff => ?_⟩
  · rw [if_neg hon]
    rfl
  · obtain ⟨r, hr, hdone, hk⟩ := issue_idle (body := fun c => if c.on = 0#32 then pure .next else M.stop (.trap (t c))) hi
      (fun r => by rw [if_pos hoff]; rfl)
    exact ⟨r, ⟨he.trans hr, hdone⟩, hk⟩

/-- Settles O22: each instruction's body stops with its trap, or does nothing where no lane is on. -/
theorem trapInstructions : Obligations.TrapInstructions := by
  unfold Obligations.TrapInstructions
  refine ⟨fun p w s u h hi hp => ?_, fun p w x s u h hi hp => ?_, fun p w s u h hi hp => ?_, fun p page1 len code w s u hu hp => ?_,
    fun why pc slot s u hu hp => ?_⟩
  · exact trapWhenOn (t := fun c => { c.info 23 c.on with pc := c.next, high := zext (w.b ++ w.a : BitVec 12) 32 })
      (by change execTrap32 p w s = _; unfold execTrap32; rw [h]; rfl) hi hp
  · exact trapWhenOn (t := fun c => { c.info 23 c.on with pc := c.next, high := zext x.hi 32 })
      (by change execTrap64 p w x s = _; unfold execTrap64; rw [h]; rfl) hi hp
  · exact trapWhenOn (t := fun c => c.info 22 c.on) (by change execBkpt p w s = _; unfold execBkpt; rw [h]; rfl) hi hp
  · exact issue_traps (body := fun c => trap c 0 c.act) (issues_none hu) hp (fun _ => rfl)
  · exact issue_traps (body := fun c => M.stop (.trap { c.info (if why = .orphan then 1 else 0) c.act with pc := pc, slot := slot }))
      (issues_none hu) hp (fun _ => rfl)

end Sys2Proof.Machine
end

section
/-! SUPPORT. Instructions with checks (`Does`): checks that change label tables and flags alone, then a body that goes on. CUE (R174) and the special
registers (R119, R180, R181). -/

namespace Sys2Proof.Machine

open Sys2Proof

/-! Checks, then a body that goes on. -/

/-- The body went on with `r`, after checks that left `s1`; `t` is the state after the step. -/
structure WentOn (p : Pfx) (c : Ctx) (s1 r t : State) : Prop where
  complete : ∃ u, t = complete p r u .next
  kept : Kept c.w noReg noMask (r.counted p) t
  goesOn : (r.warp c.w).subs = (s1.warp c.w).subs → GoesOn c s1 t

/-- Where a sub-warp goes on depends on the group and on the sub-warps of its warp alone. -/
theorem GoesOn.of_same {c : Ctx} {s s1 t : State} (h : GoesOn c s t) (hc : s1.cur = s.cur) (hs : (s1.warp c.w).subs = (s.warp c.w).subs) :
    GoesOn c s1 t := fun hp hi hn => h (hc ▸ hp) hi (fun v hv => hn v (hs.symm ▸ hv))

/-- The checks of an instruction are those of its prefixes and its own. -/
theorem Passes.split {α : Type} {s : State} {p : Pfx} {u : SubWarp} {chk : Ctx → M α} {a : α} {s1 : State} (h : Passes s p u chk a s1) :
    ∃ s0, checkPfx (mkCtx s u p) p (takeLatches s u) = .ok ((), s0) ∧ chk (mkCtx s u p) s0 = .ok (a, s1) := by
  obtain ⟨_, s0, h0, h1⟩ := M.bind_split h.2
  exact ⟨s0, h0, h1⟩

/-- An instruction whose checks join labels alone, and whose body then goes on. -/
theorem does_next {α : Type} {i : Instr} {p : Pfx} {body : Ctx → M Done} {chk : Ctx → M α} {E : Ctx → α → State → State}
    {P : Ctx → α → RegName → Prop} {K : Ctx → α → Marks} {R : Ctx → α → State → State → Prop} (he : ∀ s, exec i s = issue p true s body)
    (hE : ∀ c a s, (E c a s).cur = s.cur)
    (hchk : ∀ c s a s1, chk c s = .ok (a, s1) → Near s s1 ∧ Kept c.w noReg noMask s s1)
    (hbody : ∀ c s a s1, chk c s = .ok (a, s1) → ∃ r, body c s = .ok (.next, r) ∧ Kept c.w (P c a) (K c a) (E c a s1) r ∧
      ∀ t, WentOn p c s1 r t → R c a s1 t) : Does i p chk E P K R := by
  intro s u a s1 hpass
  obtain ⟨s0, h0, h1⟩ := hpass.split
  obtain ⟨hnear0, -, hk0⟩ := checkPfx_near h0
  obtain ⟨hnear1, hk1⟩ := hchk _ _ _ _ h1
  obtain ⟨r, hr, hk, hR⟩ := hbody _ _ _ _ h1
  have hnear : Near s s1 := ((takeLatches_near s u).trans hnear0).trans hnear1
  have hcur : r.cur = s.cur := (State.rest_eq_cur hk.state).trans ((hE ..).trans hnear.cur)
  have hcomp := complete_kept p r u .next (w := s.cur.warp) (by rw [hcur])
  have hsubs : (s1.warp s.cur.warp).subs = (s.warp s.cur.warp).subs := hnear.field Warp.subs (fun _ => rfl) _
  refine ⟨(takeLatches_kept _ _ _ s u).trans (hk0.trans hk1), complete p r u .next, ⟨(he s).trans (issue_ok hpass.1 h0 hr), rfl⟩, ?_, ?_⟩
  · exact (hk.counted (by rw [hE, hnear.cur]; rfl) p).trans (hcomp.mono (fun _ h => h.elim) (fun _ h => h.elim))
  · exact hR _ ⟨⟨u, rfl⟩, hcomp, fun hs => (complete_goesOn hpass.1 hcur (hs.trans hsubs)).of_same hnear.cur hsubs⟩

/-! CUE (R174, R217, R219). -/

theorem cueChecks_state {c : Ctx} {o sm : BitVec 16} {v : BitVec 8} {b : Nat} {s t : State} {a : Unit} (h : cueChecks c o sm v b s = .ok (a, t)) :
    t = s := by
  unfold cueChecks at h
  rw [M.st_bind] at h
  obtain ⟨_, s1, h1, h⟩ := M.bind_split h
  obtain ⟨_, s2, h2, h⟩ := M.bind_split h
  rw [trapIf_state h, trapIf_state h2, trapIf_state h1]

theorem startRegion_cue (s : State) (w : Nat) (q : Cue) : ((startRegion s w q).warp w).cue = some q := by
  simp [startRegion]

theorem startRegion_subs (s : State) (w : Nat) (q : Cue) : ((startRegion s w q).warp w).subs = (s.warp w).subs := by
  simp [startRegion]

theorem counted_cue (p : Pfx) (s : State) (k : Nat) : ((s.counted p).warp k).cue = (s.warp k).cue := by
  unfold State.counted
  split
  · rw [State.modWarp_eq, State.warp_setWarp_eq]
    split
    · rename_i hk
      rw [hk]
    · rfl
  · rfl

/-- The cue point stands after the step. -/
theorem WentOn.cue {p : Pfx} {c : Ctx} {s1 t : State} {q : Cue} (h : WentOn p c s1 (startRegion s1 c.w q) t) : (t.warp c.w).cue = some q := by
  have hrest : (t.warp c.w).cue = (((startRegion s1 c.w q).counted p).warp c.w).cue := by simpa [Warp.rest] using congrArg Warp.cue h.kept.warp
  rw [hrest, counted_cue, startRegion_cue]

/-- The snapshot holds the registers of its bitmap (R219). -/
theorem keepRegs_get {n : Nat} (f : SMap Reg) (m : BitVec n) {k i : Nat} (hi : i < 32) (hk : m.getLsbD k = true) :
    (keepRegs f 0 m).get Reg.zero (32 * k + i) = f.get Reg.zero (32 * k + i) := by
  have hdiv : (32 * k + i) / 32 = k := by omega
  exact SMap.get_filter Reg.zero _ f _ (fun _ => by simp [hdiv, hk])

theorem cueAt_uniform (s : State) (c : Ctx) (d : Int) (o sm : BitVec 16) (v : BitVec 8) (b : Nat) {n : Nat} (hn : n < 16) (hs : sm.getLsbD n = true) :
    (((cueAt s c d o sm v b).s[n]?).getD Reg.zero) = (((s.warp c.w).s[n]?).getD Reg.zero) := by
  have h32 : n < 32 := by omega
  simp [cueAt, h32, hn, hs]

/-- CUE: the checks change nothing, and the region starts at the successor. -/
theorem does_cue {i : Instr} {p : Pfx} {d : Int} {o sm : BitVec 16} {v : BitVec 8} {b : Nat} {R : Ctx → Unit → State → State → Prop}
    (he : ∀ s, exec i s = issue p true s (fun c => cueBody c d o sm v b))
    (hR : ∀ c a s t, GoesOn c s t → (t.warp c.w).cue = some (cueAt s c d o sm v b) → R c a s t) :
    Does i p (fun c => cueChecks c o sm v b) (fun c _ s => startRegion s c.w (cueAt s c d o sm v b)) (fun _ _ => noReg) (fun _ _ => noMask) R := by
  refine does_next he (fun _ _ _ => rfl) (fun c s a s1 h => ?_) (fun c s a s1 h => ?_)
  · rw [cueChecks_state h]
    exact ⟨Near.refl s, Kept.refl ..⟩
  · refine ⟨startRegion s1 c.w (cueAt s1 c d o sm v b), ?_, Kept.refl .., fun t ht => hR _ _ _ _ (ht.goesOn (startRegion_subs ..)) ht.cue⟩
    unfold cueBody
    rw [M.bind_ok h, M.upd_bind]
    rfl

/-- Settles O24: the checks of CUE change nothing (`cueChecks_state`), and the cue point is the one that its body sets. -/
theorem cuePoints : Obligations.CuePoints := by
  unfold Obligations.CuePoints
  refine ⟨fun p w x h => does_cue (fun s => ?_) (fun c _ s t hg hq => ⟨hg, _, hq, rfl, rfl, rfl, rfl, fun n i _ hi hb => keepRegs_get _ _ hi hb⟩),
    fun p w x lit h => does_cue (fun s => ?_) (fun c _ s t hg hq => ⟨hg, _, hq, rfl, rfl, fun n hn hb => cueAt_uniform _ _ _ _ _ _ _ hn hb⟩)⟩
  · change execCue64 p w x s = _
    unfold execCue64
    rw [h]
  · change execCue96 p w x lit s = _
    unfold execCue96
    rw [h]

end Sys2Proof.Machine
end

section
/-! SUPPORT. The refutations of O18 and O19: a direct target whose page lies on a die that the state does not list. -/

namespace Sys2Proof.Machine

open Sys2Proof

/-! `Does` speaks of every state. The check of a direct target fetches its line (R100), and the walk to it touches an unscrubbed frame: on a state
that lists too few dies the touch lists that frame's die at reset (`setPad`), as at O27. -/

/-- The code page of the target, at 0x10000 in the first frame of die 1: read and execute. -/
def farCode : Leaf := ⟨1, 0x10000, 0, (2097152#128 <<< 64) ||| (1#128 <<< 32) ||| 0x93#128⟩

/-- `oneDie`, where the quadrant holds the code page of die 1 and its line at 0x10000 is bad: the checks of a target pass there (R86, R100). -/
def farTarget : State := { oneDie with quads := [(0, { Quad.reset with tlb := [farCode], badLines := [0x10000] })] }

/-- Checks of the sub-warp's group, without PFX words, on `farTarget`. -/
def farRun {α : Type} (chk : Ctx → M α) : Except Stop (α × State) :=
  (do checkPfx (mkCtx farTarget oneDieSub Pfx.none) Pfx.none; chk (mkCtx farTarget oneDieSub Pfx.none) : M α) (takeLatches farTarget oneDieSub)

/-- The checks pass, and leave two dies. -/
def PadsDie {α : Type} (r : Except Stop (α × State)) : Bool :=
  match r with
  | .ok x => decide (x.2.dies.length = 2)
  | .error _ => false

theorem farTarget_issuer : farTarget.issuer = some oneDieSub := by decide +kernel

theorem farTarget_dies : farTarget.dies.length = 1 := rfl

/-- An instruction whose checks list another die does not keep what its statement says. -/
theorem not_does_of_padsDie {α : Type} {i : Instr} {chk : Ctx → M α} {E : Ctx → α → State → State} {P : Ctx → α → RegName → Prop}
    {K : Ctx → α → Marks} {R : Ctx → α → State → State → Prop} (h : PadsDie (farRun chk) = true) : ¬ Does i Pfx.none chk E P K R := by
  intro hdoes
  match hrun : farRun chk with
  | .error _ => simp [hrun, PadsDie] at h
  | .ok (a, s1) =>
    have htwo : s1.dies.length = 2 := by simpa [hrun, PadsDie] using h
    obtain ⟨hkept, -⟩ := hdoes farTarget oneDieSub a s1 ⟨farTarget_issuer, hrun⟩
    have hone := hkept.dies_length
    rw [farTarget_dies] at hone
    omega

/-- BRA without a condition to the next slot. -/
theorem braChecks_padsDie : PadsDie (farRun (fun c => braChecks c 0#6 (0#6 ++ 0#6 : BitVec 12).toInt (1#16).toInt)) = true := by decide +kernel

/-- CALL of the next slot. -/
theorem callChecks_padsDie : PadsDie (farRun (fun c => callChecks c (1#16).toInt)) = true := by decide +kernel

/-- Refutes O18: no hypothesis says that the state lists its nine dies. On `farTarget`, which lists one, the checks of BRA to the next slot fetch the
target's line on die 1 and touch its unscrubbed frame, so that a second die at reset stands in the state after them; `Kept` does not allow it. (On
a state with all nine dies this does not come up.) -/
theorem not_branches : ¬ Obligations.Branches := by
  unfold Obligations.Branches
  rintro ⟨h64, -⟩
  exact not_does_of_padsDie braChecks_padsDie (h64 Pfx.none ⟨0#2, false, false, false, 0#6, 0#6, 0#6⟩ ⟨1#16, 0#2, 0#8, 0#6⟩ (by decide +kernel))

/-- Refutes O19: as at O18, by CALL of the next slot on `farTarget`. -/
theorem not_callsAndTables : ¬ Obligations.CallsAndTables := by
  unfold Obligations.CallsAndTables
  rintro ⟨h64, -⟩
  exact not_does_of_padsDie callChecks_padsDie (h64 Pfx.none ⟨0#2, false, false, false, 0#6, 0#6, 0#6⟩ ⟨1#16, 0#2, 0#8, 0#6⟩ (by decide +kernel))

end Sys2Proof.Machine
end

section
/-! SUPPORT. Special registers and labels read (O25; R119, R180, R181): what a body left stands after the step, and what a group sees is what
stood before it. -/

namespace Sys2Proof.Machine

open Sys2Proof

/-! After the body. -/

theorem counted_flags (p : Pfx) (s : State) (k : Nat) : ((s.counted p).warp k).flags = (s.warp k).flags := by
  unfold State.counted
  split
  · rw [State.modWarp_eq, State.warp_setWarp_eq]
    split
    · rename_i hk
      rw [hk]
    · rfl
  · rfl

section
variable {p : Pfx} {w : Nat} {r t : State}

/-- A result of the body stands after the step. -/
theorem Dst.has_after (h : Kept w noReg noMask (r.counted p) t) {d : Dst} {j i : Nat} {v : Word} (hd : d.has (r.warp w) j i v) :
    d.has (t.warp w) j i v := Dst.has_kept h (fun g hg => (counted_reg p r w g).trans (hd g hg))

/-- A mask that the body left stands after the step. -/
theorem mask_after (h : Kept w noReg noMask (r.counted p) t) (n : Nat) : (t.warp w).mask n = (r.warp w).mask n :=
  (h.masks n (fun hn => hn)).trans (counted_mask p r w n)

/-- Flags that the body raised stand after the step. -/
theorem rose_after (h : Kept w noReg noMask (r.counted p) t) {f : BitVec 8} (hf : f &&& ~~~(r.warp w).flags = 0#8) : f &&& ~~~(t.warp w).flags = 0#8 :=
  rose_kept h (by rw [counted_flags]; exact hf)

end

/-! From the check of the prefixes to the end of the step. -/

/-- A group whose body goes on, wherever the checks of its prefixes left it, completes; what the body left is kept to the end. -/
theorem issue_from {p : Pfx} {s : State} {u : SubWarp} {body : Ctx → M Done} {R : State → Prop} (hi : Issues s p u)
    (hb : ∀ s1, Near (takeLatches s u) s1 → s1.quads = (takeLatches s u).quads → Kept s.cur.warp noReg noMask s s1 →
      ∃ r, body (mkCtx s u p) s1 = .ok (.next, r) ∧ r.cur = s.cur ∧ R r) :
    ∃ r t, issue p true s body = .next t ∧ t.report = .done ∧ R r ∧ Kept s.cur.warp noReg noMask (r.counted p) t := by
  obtain ⟨s1, h1⟩ := hi.predicate
  obtain ⟨hnear, hquads, hpre⟩ := checkPfx_near h1
  obtain ⟨r, hr, hc, hR⟩ := hb s1 hnear hquads ((takeLatches_kept _ _ _ s u).trans hpre)
  exact ⟨r, _, issue_ok hi.sub h1 hr, rfl, hR, complete_kept p r u .next (by rw [hc])⟩

/-- A function of a lane that reads, beside its sources, what the check of the prefixes leaves. -/
def ReadsBefore (xs : Srcs) (f : Ctx → LaneFn) : Prop :=
  ∀ s u p t, Near (takeLatches s u) t → t.quads = (takeLatches s u).quads →
    Readable s (mkCtx s u p) (xs.map (fun x => x.2)) (mkCtx s u p).on → ∀ i v, f (mkCtx s u p) t i v = f (mkCtx s u p) s i v

/-- What the arithmetic wrapper leaves where `val` gives each lane's results and flags. -/
structure AluDone (c : Ctx) (w : W0) (d : Dst) (n : Nat) (val : Nat → List Word × BitVec 8) (s r : State) : Prop where
  kept : Kept c.w (aluNames c w d n) (onlyFlags (raised c d.uniform (fun i => (val i).2))) s r
  rose : raised c d.uniform (fun i => (val i).2) &&& ~~~(r.warp c.w).flags = 0#8
  has : w.wbs = false → ∀ j i, j < n → hasLane (if d.uniform then 1#32 else c.run) i = true → d.has (r.warp c.w) j i (((val i).1[j]?).getD 0#32)

/-- An instruction whose meaning is the arithmetic wrapper at such a function computes. -/
theorem computes_before {i : Instr} {p : Pfx} {w : W0} {d : Dst} {n : Nat} {xs : Srcs} {extra : Ctx → State → Nat → List Label} {f : Ctx → LaneFn}
    (he : ∀ s, exec i s = issue p true s (fun c => aluBody c w d n xs (extra c) (f c))) (hf : ReadsBefore xs f) : Computes i p w d n xs f := by
  intro s u hi hr hd
  obtain ⟨r, t, h1, h2, ⟨hk, hrose, hval⟩, ht⟩ := issue_from (body := fun c => aluBody c w d n xs (extra c) (f c))
    (R := AluDone (mkCtx s u p) w d n (fun i => f (mkCtx s u p) s i (laneVals s (mkCtx s u p) xs i)) s) hi (fun s1 hn hq hk => by
      obtain ⟨r, hr1, hkr, hrose, hval⟩ := aluBody_ok (mkCtx s u p) w d n xs (extra (mkCtx s u p)) (f (mkCtx s u p)) s1 (hr.before hn hq) (hd.before hn)
      simp only [laneVals_before hn hq hr, hf s u p s1 hn hq hr] at hkr hrose hval
      have hall := (hk.mono (fun _ h => h.elim) (fun _ h => h.elim)).trans hkr
      exact ⟨r, hr1, State.rest_eq_cur hall.state, hall, hrose, hval⟩)
  exact ⟨t, ⟨(he s).trans h1, h2⟩, (hk.counted rfl p).trans (ht.mono (fun _ h => h.elim) (fun _ h => h.elim)), rose_after ht hrose,
    fun hw j i hj hl => Dst.has_after ht (hval hw j i hj hl)⟩

/-! SREG read (R180). -/

theorem checkDst_state {c : Ctx} {d : Dst} {s t : State} {a : Unit} (h : checkDst c d s = .ok (a, t)) : t = s := by
  unfold checkDst at h
  rw [M.st_bind] at h
  exact trapIf_state h

/-- A destination whose check passes exists. -/
theorem writable_of_checkDst {c : Ctx} {d : Dst} {s t : State} {a : Unit} (h : checkDst c d s = .ok (a, t)) : Writable s c d := by
  rintro n rfl
  unfold checkDst at h
  rw [M.st_bind] at h
  by_contra hn
  have hbad : badMainDst s c (.v n) = true := by simpa [badMainDst, badMain] using hn
  simp [trapIf, hbad, trap, M.stop] at h

/-- A function that raises no flag raises none in any lane. -/
theorem raised_zero (c : Ctx) (u : Bool) : raised c u (fun _ => 0#8) = 0#8 := by
  have h := raised_rose c u (fun _ => 0#8) 0#8 (fun _ _ => rfl)
  rwa [show ~~~0#8 = BitVec.allOnes 8 from rfl, BitVec.and_allOnes] at h

/-- The arithmetic wrapper without sources after the check of its destination: what it gives a lane stands there. -/
theorem does_dst {i : Instr} {p : Pfx} {w : W0} {d : Dst} {n : Nat} {extra : Ctx → State → Nat → List Label} {f : Ctx → State → Nat → List Word}
    (he : ∀ s, exec i s = issue p true s (fun c => aluBody c w d n [] (extra c) (fun s i _ => (f c s i, 0#8)))) :
    Does i p (fun c => checkDst c d) (fun _ _ s => s) (fun c _ => aluNames c w d n) (fun _ _ => noMask)
      (fun c _ s t => w.wbs = false → ∀ i, hasLane (if d.uniform then 1#32 else c.run) i = true → ∀ j, j < n →
        d.has (t.warp c.w) j i (((f c s i)[j]?).getD 0#32)) := by
  refine does_next he (fun _ _ _ => rfl) (fun c s a s1 h => ?_) (fun c s a s1 h => ?_)
  · rw [checkDst_state h]
    exact ⟨Near.refl s, Kept.refl ..⟩
  · have hd : Writable s1 c d := by rw [checkDst_state h]; exact writable_of_checkDst h
    obtain ⟨r, hr, hk, -, hval⟩ := aluBody_ok c w d n [] (extra c) (fun s i _ => (f c s i, 0#8)) s1 ⟨by simp, by simp, by simp⟩ hd
    simp only [raised_zero] at hk
    exact ⟨r, checkDst_state h ▸ hr, hk, fun t ht hw i hi j hj => Dst.has_after ht.kept (hval hw j i hj hi)⟩

/-- Settles the read of O25 (R180): one register, or a pair where the selector has 64 bits. -/
theorem sregRead_does (p : Pfx) (w : W0) (h : WF.sreg_read p w = true) :
    let n := if WF.sel64 w.a.toNat then 2 else 1
    Does (.sreg_read p w) p (fun c => checkDst c (Dst.ofCode w.d)) (fun _ _ s => s) (fun c _ => aluNames c w (Dst.ofCode w.d) n) (fun _ _ => noMask)
      (fun c _ s t => w.wbs = false → ∀ i, hasLane (if (Dst.ofCode w.d).uniform then 1#32 else c.run) i = true →
        (Dst.ofCode w.d).has (t.warp c.w) 0 i (lo32 (sregValue s c w.a.toNat i)) ∧
        (n = 2 → (Dst.ofCode w.d).has (t.warp c.w) 1 i (hi32 (sregValue s c w.a.toNat i)))) := by
  intro n s u a s1 hpass
  have hdoes := does_dst (i := .sreg_read p w) (p := p) (w := w) (d := Dst.ofCode w.d) (n := n)
    (extra := fun c s i => sregLabel s c w.a.toNat i) (f := fun c s i => [lo32 (sregValue s c w.a.toNat i), hi32 (sregValue s c w.a.toNat i)])
    (fun s => by change execSregRead p w s = _; unfold execSregRead; rw [h])
  obtain ⟨hk, t, ht, hkt, hval⟩ := hdoes s u a s1 hpass
  have hn : 0 < n := by simp only [n]; split <;> decide
  exact ⟨hk, t, ht, hkt, fun hw i hi => ⟨hval hw i hi 0 hn, fun h2 => hval hw i hi 1 (by omega)⟩⟩

/-! SREG write (R119, R180). -/

/-- A change of a warp that sets the flags to `f`, and beside them changes the flag label alone. -/
def SetsFlags (f : BitVec 8) (g : Warp → Warp) : Prop :=
  ∀ x, (g x).rest = x.rest ∧ (∀ r, (g x).reg r = x.reg r) ∧ (∀ n, (g x).mask n = x.mask n) ∧ (g x).flags = f

theorem setsFlags_flags (f : BitVec 8) : SetsFlags f (fun x => { x with flags := f }) :=
  fun _ => ⟨rfl, fun r => by cases r <;> rfl, fun _ => rfl, rfl⟩

theorem setsFlags_label (f : BitVec 8) (l : Label) : SetsFlags f (fun x => { x with flags := f, flagLabel := l }) :=
  fun _ => ⟨rfl, fun r => by cases r <;> rfl, fun _ => rfl, rfl⟩

/-- Flags set to one value on both sides. -/
theorem Kept.setsFlags {w : Nat} {P : RegName → Prop} {K : Marks} {s t : State} (h : Kept w P K s t) {f : BitVec 8} {g g' : Warp → Warp}
    (hg : SetsFlags f g) (hg' : SetsFlags f g') : Kept w P K (s.modWarp w g) (t.modWarp w g') := by
  obtain ⟨hrest, hreg, hmask, hflags⟩ := hg (s.warp w)
  obtain ⟨hrest', hreg', hmask', hflags'⟩ := hg' (t.warp w)
  refine ⟨?_, by simpa using h.vds, by simpa using h.quads, by simpa using h.cores, fun x hx => ?_, ?_, fun r hr => ?_, fun n hn => ?_, ?_⟩
  · simpa [State.rest, State.setWarp] using h.state
  · simpa [hx] using h.others x hx
  · simp [hrest, hrest', h.warp]
  · simpa [hreg, hreg'] using h.regs r hr
  · simpa [hmask, hmask'] using h.masks n hn
  · simp only [State.modWarp_eq, State.warp_setWarp, hflags, hflags']
    exact ⟨by simp, below_iff.mpr (fun i _ hb => by simp [hb])⟩

/-- The body of a write to `%astat`. -/
def sregWriteBody (w : W0) (c : Ctx) : M Done := do
  checkSrcs c [.code w.b] c.on
  if c.on = 0#32 then pure ()
  else
    let s ← M.st
    let l ← M.run' (fun t => t.joinList c.w (srcLbl s c (.code w.b) 0 :: c.kl))
    M.upd (fun t => t.modWarp c.w (fun x => { x with flags := field (srcVal s c (.code w.b) 0) 0 8, flagLabel := l }))
  lastUse c [(w.luB, .code w.b)]
  pure .next

theorem exec_sreg_write {p : Pfx} {w : W0} (h : WF.sreg_write p w = true) (s : State) : exec (.sreg_write p w) s = issue p true s (sregWriteBody w) := by
  change execSregWrite p w s = _
  unfold execSregWrite
  rw [h]
  rfl

/-- With a lane on, the flags are the low byte of the source. -/
theorem sregWriteBody_on {c : Ctx} {w : W0} {s : State} (hon : c.on ≠ 0#32) (hr : Readable s c [.code w.b] c.on) :
    ∃ r, sregWriteBody w c s = .ok (.next, r) ∧
      Kept c.w noReg noMask (s.modWarp c.w (fun x => { x with flags := field (srcVal s c (.code w.b) 0) 0 8 })) r := by
  have hjoin := joinList_kept c.w noReg noMask s (srcLbl s c (.code w.b) 0 :: c.kl)
  obtain ⟨r, hr1, hk⟩ := lastUse_kept c noReg noMask [(w.luB, .code w.b)] ((s.joinList c.w (srcLbl s c (.code w.b) 0 :: c.kl)).2.modWarp c.w
    (fun x => { x with flags := field (srcVal s c (.code w.b) 0) 0 8, flagLabel := (s.joinList c.w (srcLbl s c (.code w.b) 0 :: c.kl)).1 }))
  refine ⟨r, ?_, (hjoin.setsFlags (setsFlags_flags _) (setsFlags_label _ _)).trans hk⟩
  unfold sregWriteBody
  rw [M.bind_ok (checkSrcs_ok hr), if_neg hon, M.st_bind, M.run_bind, M.upd_bind]
  exact (M.bind_ok hr1).trans rfl

/-- With no lane on, nothing is written. -/
theorem sregWriteBody_off {c : Ctx} {w : W0} {s : State} (hoff : c.on = 0#32) (hr : Readable s c [.code w.b] c.on) :
    ∃ r, sregWriteBody w c s = .ok (.next, r) ∧ Kept c.w noReg noMask s r := by
  obtain ⟨r, hr1, hk⟩ := lastUse_kept c noReg noMask [(w.luB, .code w.b)] s
  refine ⟨r, ?_, hk⟩
  unfold sregWriteBody
  rw [M.bind_ok (checkSrcs_ok hr), if_pos hoff]
  exact (M.bind_ok hr1).trans rfl

theorem sregWrite_on (p : Pfx) (w : W0) (h : WF.sreg_write p w = true) :
    DoesIf (.sreg_write p w) p (fun s c => c.on ≠ 0#32 ∧ Readable s c [.code w.b] c.on)
      (fun c s => s.modWarp c.w (fun x => { x with flags := field (srcVal s c (.code w.b) 0) 0 8 })) (fun _ _ => noReg) (fun _ _ => noMask)
      (fun _ _ _ => True) := by
  rintro s u hi ⟨hon, hread⟩
  obtain ⟨r, t, ht, hdone, hk, hafter⟩ := issue_from (body := sregWriteBody w) (R := fun r => Kept s.cur.warp noReg noMask
    (s.modWarp s.cur.warp (fun x => { x with flags := field (srcVal s (mkCtx s u p) (.code w.b) 0) 0 8 })) r) hi (fun s1 hn hq hk => by
      obtain ⟨r, hr, hkr⟩ := sregWriteBody_on hon (hread.before hn hq)
      rw [srcVal, srcReg_before hn hq (hread.latch _ (List.mem_singleton.mpr rfl))] at hkr
      have hall := (hk.setsFlags (setsFlags_flags _) (setsFlags_flags _)).trans hkr
      exact ⟨r, hr, State.rest_eq_cur hall.state, hall⟩)
  exact ⟨t, ⟨(exec_sreg_write h s).trans ht, hdone⟩, (hk.counted rfl p).trans hafter, trivial⟩

theorem sregWrite_off (p : Pfx) (w : W0) (h : WF.sreg_write p w = true) :
    DoesIf (.sreg_write p w) p (fun s c => c.on = 0#32 ∧ Readable s c [.code w.b] c.on) (fun _ s => s) (fun _ _ => noReg) (fun _ _ => noMask)
      (fun _ _ _ => True) := by
  rintro s u hi ⟨hoff, hread⟩
  obtain ⟨r, t, ht, hdone, hk, hafter⟩ := issue_from (body := sregWriteBody w) (R := fun r => Kept s.cur.warp noReg noMask s r) hi (fun s1 hn hq hk => by
    obtain ⟨r, hr, hkr⟩ := sregWriteBody_off hoff (hread.before hn hq)
    exact ⟨r, hr, State.rest_eq_cur (hk.trans hkr).state, hk.trans hkr⟩)
  exact ⟨t, ⟨(exec_sreg_write h s).trans ht, hdone⟩, (hk.counted rfl p).trans hafter, trivial⟩

/-! LGET (R181). -/

/-- The label of a source is read as it stood before the check of the prefixes. -/
theorem readsBefore_srcLbl (b : Bool) (x : Src) : ReadsBefore [(b, x)] (fun c s i _ => ([zext (srcLbl s c x i) 32], 0#8)) := by
  intro s u p t hn hq hr i v
  simp only [srcLbl, srcReg_before hn hq (hr.latch x (List.mem_singleton.mpr rfl))]

/-- Settles O25: SREG read is the wrapper without sources, a write leaves its flags, and LGET is the wrapper at a function that reads its source's
label. -/
theorem specialRegisters : Obligations.SpecialRegisters := by
  unfold Obligations.SpecialRegisters
  refine ⟨sregRead_does, sregWrite_on, sregWrite_off, fun p w h => ?_⟩
  refine computes_before (extra := fun _ _ _ => []) (fun s => ?_) (readsBefore_srcLbl w.luA (.code w.a))
  change execLget p w s = _
  unfold execLget
  rw [h]
  rfl

end Sys2Proof.Machine
end

section
/-! SUPPORT. Cross-lane instructions (R166, R167, R175 to R179): members and sources are those that stood before the check of the prefixes, and
each body writes lanes, or a whole mask, at the end. -/

namespace Sys2Proof.Machine

open Sys2Proof

/-! Members and their sources. -/

theorem Near.helpersOf {s t : State} (h : Near s t) (w : Nat) (m : LaneMask) : helpersOf t w m = helpersOf s w m := by
  unfold Machine.helpersOf Machine.helperLanes
  rw [h.record, h.field Warp.index (fun _ => rfl)]

theorem Near.membersOf {s t : State} (h : Near s t) (c : Ctx) (p : Pfx) : membersOf t c p = membersOf s c p := by
  unfold Machine.membersOf
  simp only [h.maskReg, h.helpersOf]

theorem members_ok {s : State} {c : Ctx} {p : Pfx} (h : (membersOf s c p).zeros = 0#32 ∨ zeroMembers p = true) :
    members c p s = .ok (membersOf s c p, s) := by
  have hno : ¬ ((membersOf s c p).zeros ≠ 0#32 ∧ (!zeroMembers p) = true) := by
    rcases h with h | h <;> simp [h]
  unfold members
  rw [M.st_bind]
  simp only [if_neg hno]
  rfl

theorem checkCross_ok {s : State} {c : Ctx} {m : Members} {xs ys : List Src} (hx : Readable s c xs m.cs) (hy : Readable s c ys c.on) :
    checkCross c m xs ys s = .ok ((), s) := by
  unfold checkCross
  rw [M.bind_ok (checkSrcs_ok hx), checkSrcs_ok hy]

/-- Nothing is read: nothing can fail. -/
theorem readable_nil (s : State) (c : Ctx) (m : LaneMask) : Readable s c [] m := ⟨by simp, by simp, by simp⟩

/-- The state after a group's checks reads the sources `xs` as `s` does. -/
def SameReads (c : Ctx) (xs : List Src) (s t : State) : Prop := ∀ x ∈ xs, ∀ i, srcVal t c x i = srcVal s c x i

theorem Readable.sameReads {s t : State} {p : Pfx} {u : SubWarp} {xs : List Src} {m : LaneMask} (h : Readable s (mkCtx s u p) xs m)
    (hn : Near (takeLatches s u) t) (hq : t.quads = (takeLatches s u).quads) : SameReads (mkCtx s u p) xs s t := by
  intro x hx i
  unfold srcVal
  rw [srcReg_before hn hq (h.latch x hx)]

theorem SameReads.append {c : Ctx} {xs ys : List Src} {s t : State} (h : SameReads c xs s t) (h' : SameReads c ys s t) :
    SameReads c (xs ++ ys) s t := fun x hx => (List.mem_append.mp hx).elim (h x) (h' x)

/-! From the body to the instruction. -/

/-- What a cross-lane body leaves, where its members and sources are as they must be. -/
structure CrossDone (c : Ctx) (w : W0) (d : Dst) (n : Nat) (val : Nat → List Word) (fl : BitVec 8) (s r : State) : Prop where
  kept : Kept c.w (aluNames c w d n) (onlyFlags fl) s r
  rose : fl &&& ~~~(r.warp c.w).flags = 0#8
  has : w.wbs = false → ∀ j i, j < n → hasLane c.run i = true → d.has (r.warp c.w) j i (((val i)[j]?).getD 0#32)

/-- A body whose members and sources are in order leaves `val` in its destination and the flags `fl`. -/
def CrossBody (body : Ctx → M Done) (p : Pfx) (w : W0) (d : Dst) (n : Nat) (xs ys : List Src) (val : State → Ctx → Members → Nat → List Word)
    (fl : State → Ctx → Members → BitVec 8) : Prop :=
  ∀ c s m, membersOf s c p = m → (m.zeros = 0#32 ∨ zeroMembers p = true) → Readable s c xs m.cs → Readable s c ys c.on → Writable s c d →
    ∃ r, body c s = .ok (.next, r) ∧ CrossDone c w d n (val s c m) (fl s c m) s r

/-- Value and flags depend on the state by the sources alone. -/
def ReadsOnly {α : Type} (xs : List Src) (f : State → Ctx → Members → α) : Prop := ∀ c s t m, SameReads c xs s t → f t c m = f s c m

theorem crosses_of {i : Instr} {p : Pfx} {w : W0} {d : Dst} {n : Nat} {xs ys : List Src} {val : State → Ctx → Members → Nat → List Word}
    {fl : State → Ctx → Members → BitVec 8} {body : Ctx → M Done} (he : ∀ s, exec i s = issue p true s body)
    (hb : CrossBody body p w d n xs ys val fl) (hv : ReadsOnly (xs ++ ys) val) (hf : ReadsOnly (xs ++ ys) fl) :
    Crosses i p w d n xs ys val fl := by
  intro s u hi hz hx hy hd
  obtain ⟨r, t, ht, hdone, ⟨hk, hrose, hhas⟩, hafter⟩ := issue_from (body := body)
    (R := CrossDone (mkCtx s u p) w d n (val s (mkCtx s u p) (membersOf s (mkCtx s u p) p)) (fl s (mkCtx s u p) (membersOf s (mkCtx s u p) p)) s)
    hi (fun s1 hn hq hk => by
      have hm := ((takeLatches_near s u).trans hn).membersOf (mkCtx s u p) p
      have hsame := (hx.sameReads hn hq).append (hy.sameReads hn hq)
      obtain ⟨r, hr, hdone⟩ := hb (mkCtx s u p) s1 _ hm hz (hx.before hn hq) (hy.before hn hq) (hd.before hn)
      rw [hv _ _ _ _ hsame, hf _ _ _ _ hsame] at hdone
      have hall := (hk.mono (fun _ h => h.elim) (fun _ h => h.elim)).trans hdone.kept
      exact ⟨r, hr, State.rest_eq_cur hall.state, hall, hdone.rose, hdone.has⟩)
  exact ⟨t, ⟨(he s).trans ht, hdone⟩, (hk.counted rfl p).trans (hafter.mono (fun _ h => h.elim) (fun _ h => h.elim)), rose_after hafter hrose,
    fun hw j i hj hl => Dst.has_after hafter (hhas hw j i hj hl)⟩

/-- The end of a cross-lane body: last uses, and the lanes' results (R89). -/
theorem crossEnd_ok (c : Ctx) {w : W0} {d : Dst} {n : Nat} (lu : Srcs) (val : Nat → List Word) (lbl : Nat → Label) {fl : BitVec 8} {s r : State}
    (hu : d.uniform = false) (hk : Kept c.w noReg (onlyFlags fl) s r) (hrose : fl &&& ~~~(r.warp c.w).flags = 0#8) :
    ∃ t, (do lastUse c lu; writeLanes c w d n c.run val lbl; pure .next : M Done) r = .ok (.next, t) ∧ CrossDone c w d n val fl s t := by
  obtain ⟨r1, h1, hk1⟩ := lastUse_kept c (aluNames c w d n) (onlyFlags fl) lu r
  obtain ⟨r2, h2, hk2, hv2⟩ := writeLanes_ok c (onlyFlags fl) w d n c.run val lbl r1
  have hnames : Kept c.w (aluNames c w d n) (onlyFlags fl) r1 r2 := hk2.mono (fun g hg => by simpa [aluNames, hu] using hg) (fun _ h => h) (by simp)
  refine ⟨r2, ?_, (hk.mono (fun _ h => h.elim) (fun _ h => h) (by simp)).trans (hk1.trans hnames), rose_kept hnames (rose_kept hk1 hrose),
    fun hw => hv2 hw (.inl hu)⟩
  rw [M.bind_ok h1, M.bind_ok h2]
  rfl

theorem CrossDone.congr {c : Ctx} {w : W0} {d : Dst} {n : Nat} {val val' : Nat → List Word} {fl : BitVec 8} {s r : State}
    (h : CrossDone c w d n val fl s r) (hv : ∀ i, hasLane c.run i = true → val i = val' i) : CrossDone c w d n val' fl s r :=
  ⟨h.kept, h.rose, fun hw j i hj hi => hv i hi ▸ h.has hw j i hj hi⟩

/-! PICK and QX (R176). -/

theorem exchangeBody_ok {p : Pfx} {w : W0} {d : Dst} {a : Bool × Src} {b : Ctx → List (Bool × Src)} {src : Ctx → State → Nat → Nat} {bs : List Src}
    (hu : d.uniform = false) (hbs : ∀ c, (b c).map (fun x => x.2) = bs) :
    CrossBody (fun c => exchangeBody c p w d a (b c) (src c)) p w d 1 [a.2] (a.2 :: bs)
      (fun s c m i => [(exchange s c m a.2 [] i (src c s i)).1]) (fun _ _ _ => 0#8) := by
  intro c s m hm hz hx hy hd
  subst hm
  unfold exchangeBody
  simp only [M.bind_ok (checkDst_ok hd), M.bind_ok (members_ok hz), hbs, M.bind_ok (checkCross_ok hx hy), M.st_bind, M.run_bind]
  have hval : ∀ i j, ∀ ls, (exchange s c (membersOf s c p) a.2 ls i j).1 = (exchange s c (membersOf s c p) a.2 [] i j).1 := by
    intro i j ls
    unfold exchange
    split_ifs <;> rfl
  simp only [hval]
  exact crossEnd_ok c _ _ _ hu (joinLanes_kept ..) (by simp)

/-- What an exchange gives a lane reads source A in two lanes. -/
theorem exchange_sameReads {c : Ctx} {xs : List Src} {s t : State} {a : Src} (h : SameReads c xs s t) (ha : a ∈ xs) (m : Members) (i j : Nat) :
    (exchange t c m a [] i j).1 = (exchange s c m a [] i j).1 := by
  unfold exchange
  simp only [h a ha]
  split_ifs <;> rfl

/-- An exchange whose source lanes come of the sources' values. -/
theorem crosses_exchange {i : Instr} {p : Pfx} {w : W0} {d : Dst} {lu : Bool} {a : Src} {b : List (Bool × Src)} {bs : List Src}
    {src : Ctx → State → Nat → Nat}
    (hbs : b.map (fun x => x.2) = bs) (hu : d.uniform = false) (hsrc : ∀ c s t, SameReads c ([a] ++ (a :: bs)) s t → src c t = src c s)
    (he : ∀ s, exec i s = issue p true s (fun c => exchangeBody c p w d (lu, a) b (src c))) :
    Crosses i p w d 1 [a] (a :: bs) (fun s c m i => [(exchange s c m a [] i (src c s i)).1]) (fun _ _ _ => 0#8) := by
  refine crosses_of he (exchangeBody_ok (b := fun _ => b) hu (fun _ => hbs)) (fun c s t m h => ?_) (fun _ _ _ _ _ => rfl)
  funext k
  rw [hsrc c s t h, exchange_sameReads h (by simp)]

/-! PEERS (R177). -/

/-- The sources of PEERS: one register, or a pair. -/
def peersSrcs (a : Src) (two : Bool) : List Src := if two then [a, a.up 1] else [a]

theorem peersVal_sameReads {c : Ctx} {s t : State} {a : Src} {two : Bool} (h : SameReads c (peersSrcs a two) s t) (i : Nat) :
    peersVal t c a two i = peersVal s c a two i := by
  unfold peersVal
  cases two with
  | true => simp [pairVal, h a (by simp [peersSrcs]), h (a.up 1) (by simp [peersSrcs])]
  | false => simp [h a (by simp [peersSrcs])]

theorem crosses_peers {i : Instr} {p : Pfx} {w : W0} {d : Dst} {a : Src} {mode : Nat} {two : Bool} (hu : d.uniform = false)
    (he : ∀ s, exec i s = issue p true s (fun c => peersBody c p w d a mode two)) :
    Crosses i p w d (if two then 2 else 1) (peersSrcs a two) (peersSrcs a two) (fun s c m i => [peersResult s c m a mode two i, 0#32])
      (fun _ _ _ => 0#8) := by
  refine crosses_of he ?_ (fun c s t m h => ?_) (fun _ _ _ _ _ => rfl)
  · intro c s m hm hz hx hy hd
    subst hm
    unfold peersBody
    simp only [M.bind_ok (checkDst_ok hd), M.bind_ok (members_ok hz), M.bind_ok (checkCross_ok hx hy), M.st_bind, crossLabels, M.run_bind,
      show (if two = true then [a, a.up 1] else [a]) = peersSrcs a two from rfl]
    exact crossEnd_ok c _ _ _ hu (joinLanes_kept ..) (by simp)
  · funext k
    unfold peersResult
    simp only [peersVal_sameReads (fun x hx => h x (List.mem_append.mpr (.inl hx)))]

/-- One register: what a longer list gives after its head is not written. -/
theorem Crosses.head {i : Instr} {p : Pfx} {w : W0} {d : Dst} {xs ys : List Src} {val : State → Ctx → Members → Nat → Word} {l : List Word}
    {fl : State → Ctx → Members → BitVec 8} (h : Crosses i p w d 1 xs ys (fun s c m i => val s c m i :: l) fl) :
    Crosses i p w d 1 xs ys (fun s c m i => [val s c m i]) fl := by
  intro s u hi hz hx hy hd
  obtain ⟨t, ht, hk, hrose, hhas⟩ := h s u hi hz hx hy hd
  refine ⟨t, ht, hk, hrose, fun hw j i hj hl => ?_⟩
  have hj0 : j = 0 := by omega
  subst hj0
  exact hhas hw 0 i hj hl

/-! RED and SCAN (R178). -/

/-- The flags of the lanes that are on, raised one lane after the other, are those of `raised`. -/
theorem laneFlags_raise (c : Ctx) (val : Nat → List Word) (f : Nat → BitVec 8) (ls : SMap Label) (s : State) :
    Kept c.w noReg (onlyFlags (raised c false f)) s (laneFlags c ((lanesOf c.run).map (fun i => (i, val i, f i))) ls s) ∧
      raised c false f &&& ~~~((laneFlags c ((lanesOf c.run).map (fun i => (i, val i, f i))) ls s).warp c.w).flags = 0#8 := by
  constructor
  · refine laneFlags_kept c _ _ _ ls s (fun r hr ho => ?_)
    obtain ⟨i, -, rfl⟩ := List.mem_map.mp hr
    exact raised_below c false f i (by simpa using ho)
  · refine raised_rose c false f _ (fun i ho => ?_)
    have hrun : hasLane c.run i = true := by
      have hon : hasLane c.on i = true := by simpa using ho
      simp only [hasLane, Ctx.run, BitVec.getLsbD_or, Bool.or_eq_true] at hon ⊢
      exact .inl hon
    exact laneFlags_rose c _ ls s (i, val i, f i) (List.mem_map.mpr ⟨i, mem_lanesOf.mpr hrun, rfl⟩) (by simpa using ho)

theorem crosses_red {i : Instr} {p : Pfx} {w : W0} {d : Dst} {a : Src} {quad scan excl : Bool} (hu : d.uniform = false)
    (he : ∀ s, exec i s = issue p true s (fun c => redBody c p w d a quad scan excl)) :
    Crosses i p w d 1 [a] [] (fun s c m i => [(redResult s c p m a (field w.b 0 3).toNat (field w.b 3 3).toNat quad scan excl i).1])
      (fun s c m => raised c false (fun i => (redResult s c p m a (field w.b 0 3).toNat (field w.b 3 3).toNat quad scan excl i).2)) := by
  refine crosses_of he ?_ (fun c s t m h => ?_) (fun c s t m h => ?_)
  · intro c s m hm hz hx hy hd
    subst hm
    unfold redBody
    simp only [M.bind_ok (checkDst_ok hd), M.bind_ok (members_ok hz), M.bind_ok (checkCross_ok hx hy), M.st_bind, crossLabels, M.run_bind,
      M.upd_bind, List.map_map, Function.comp_def]
    obtain ⟨hk, hrose⟩ := laneFlags_raise c
      (fun i => [(redResult s c p (membersOf s c p) a (field w.b 0 3).toNat (field w.b 3 3).toNat quad scan excl i).1])
      (fun i => (redResult s c p (membersOf s c p) a (field w.b 0 3).toNat (field w.b 3 3).toNat quad scan excl i).2) _ _
    obtain ⟨r, hr, hdone⟩ := crossEnd_ok c _ _ _ hu ((joinLanes_kept c.w noReg _ s c.run _).trans hk) hrose
    exact ⟨r, hr, hdone.congr (fun i hi => SMap.get_map_lanes [] c.run _ hi)⟩
  · funext k
    unfold redResult
    simp only [h a (by simp)]
  · unfold redResult
    simp only [h a (by simp)]

/-! DRAW and DRAWM (R179). -/

/-- The key quad's registers are four neighbours (R179). -/
theorem keyBase_sameReads {c : Ctx} {s t : State} {k : BitVec 6} (hk : WF.keyQuad k = true) {xs : List Src} (h : SameReads c (xs ++ keySrcs k) s t) :
    keyBase t c k = keyBase s c k := by
  have hread : ∀ j, j < 4 → srcVal t c (.code (k + BitVec.ofNat 6 j)) 0 = srcVal s c (.code (k + BitVec.ofNat 6 j)) 0 := fun j hj =>
    h _ (List.mem_append.mpr (.inr (List.mem_map.mpr ⟨j, List.mem_range.mpr hj, rfl⟩))) 0
  simp only [WF.keyQuad, WF.evenU, WF.isU, Bool.and_eq_true, decide_eq_true_eq] at hk
  have hup : (Src.code k).up 1 = .code (k + BitVec.ofNat 6 1) := if_pos (by omega)
  have hup2 : (Src.code (k + 2#6)).up 1 = .code (k + BitVec.ofNat 6 3) := by
    have h2 : (k + 2#6).toNat = k.toNat + 2 := by rw [BitVec.toNat_add]; simp; omega
    refine (if_pos (by omega)).trans ?_
    rw [BitVec.add_assoc]
    rfl
  have h0 := hread 0 (by omega)
  rw [show k + BitVec.ofNat 6 0 = k by simp] at h0
  unfold keyBase pairVal
  rw [hup, hup2, hread 1 (by omega), hread 3 (by omega), h0, show k + 2#6 = k + BitVec.ofNat 6 2 from rfl, hread 2 (by omega)]

/-- A draw's leaves and argmax depend on the state by the sources alone. -/
theorem crosses_draw {i : Instr} {p : Pfx} {w : W0} {x : W1} {lu : Srcs} {xs ys : List Src} {argmax : Ctx → State → Bool}
    {leaves : Ctx → State → Nat → Pair × BitVec 8} (hd : WF.evenO w.d = true) (hk : WF.keyQuad x.c = true)
    (he : ∀ s, exec i s = issue p true s (fun c => drawBody c p w x lu xs (ys ++ keySrcs x.c) (argmax c) (leaves c)))
    (hread : ∀ c s t, SameReads c (xs ++ ys) s t → argmax c t = argmax c s ∧ leaves c t = leaves c s) :
    Crosses i p w (Dst.ofCode w.d) 2 xs (ys ++ keySrcs x.c)
      (fun s c m i => [BitVec.ofNat 32 (drawPair c (x.hi.getLsbD 0) (drawRoots s c m x.c (x.hi.getLsbD 0) (argmax c s) (leaves c)) i).l,
        BitVec.ofNat 32 (drawPair c (x.hi.getLsbD 0) (drawRoots s c m x.c (x.hi.getLsbD 0) (argmax c s) (leaves c)) i).i])
      (fun s c m => drawFlags s m (leaves c) (drawRoots s c m x.c (x.hi.getLsbD 0) (argmax c s) (leaves c))) := by
  have hu : (Dst.ofCode w.d).uniform = false := ofCode_uniform_of_not_isU (by
    simp only [WF.evenO, WF.isO, Bool.and_eq_true, decide_eq_true_eq] at hd
    simp only [WF.isU, Bool.and_eq_false_iff, decide_eq_false_iff_not]
    omega)
  have hroots : ∀ c s t m, SameReads c (xs ++ (ys ++ keySrcs x.c)) s t →
      drawLeaves t m (leaves c) = drawLeaves s m (leaves c) ∧
      drawRoots t c m x.c (x.hi.getLsbD 0) (argmax c t) (leaves c) = drawRoots s c m x.c (x.hi.getLsbD 0) (argmax c s) (leaves c) := by
    intro c s t m h
    rw [← List.append_assoc] at h
    obtain ⟨hmax, hleaves⟩ := hread c s t (fun y hy => h y (List.mem_append.mpr (.inl hy)))
    have hl : drawLeaves t m (leaves c) = drawLeaves s m (leaves c) := by unfold drawLeaves; rw [hleaves]
    exact ⟨hl, by unfold drawRoots; rw [hl, hmax, keyBase_sameReads hk h]⟩
  refine crosses_of he ?_ (fun c s t m h => ?_) (fun c s t m h => ?_)
  · intro c s m hm hz hx hy _
    subst hm
    unfold drawBody
    simp only [M.bind_ok (members_ok hz), M.bind_ok (checkCross_ok hx hy), M.st_bind, crossLabels, M.run_bind, M.upd_bind]
    exact crossEnd_ok c _ _ _ hu (((joinLanes_kept c.w noReg _ s c.run _).trans (joinList_kept ..)).trans
      (setFlags_kept _ _ _ _ _ _ (below_iff.mpr (fun _ _ hb => hb)))) (setFlags_rose ..)
  · funext k
    rw [(hroots c s t m h).2]
  · unfold drawFlags
    rw [(hroots c s t m h).1, (hroots c s t m h).2]

/-! CENSUS and ELECT (R175). -/

theorem writeWholeMask_ok (c : Ctx) (w : W0) (n : Nat) (bits : Word) (ls : SMap Label) (s : State) :
    ∃ t, writeWholeMask c w n bits ls s = .ok ((), t) ∧ Kept c.w noReg (maskMarks w n 0#8) s t ∧
      (w.wbs = false → (t.warp c.w).mask n = bits) := by
  unfold writeWholeMask
  simp only [M.run_bind, M.upd_bind]
  cases hw : w.wbs with
  | true => exact ⟨_, rfl, (keptLanes_kept ..).trans (capture_kept ..), fun h => absurd h (by simp)⟩
  | false =>
    have hset : Kept c.w noReg (maskMarks w n 0#8) s (setMask s c.w n bits ls) :=
      (setMask_kept c noReg s n bits ls).mono (fun _ h => h) (L := maskMarks w n 0#8) (fun k hk => ⟨hw, hk⟩) (by simp [oneMask])
    exact ⟨_, rfl, hset.trans (capture_kept ..), fun _ => ((capture_kept c noReg noMask _ _ _).masks n (fun h => h)).trans (setMask_mask ..)⟩

/-- A body that writes a whole mask register, where its members and sources are in order. -/
def CrossMaskBody (body : Ctx → M Done) (p : Pfx) (w : W0) (n : Nat) (xs : List Src) (bits : State → Ctx → Members → Word) : Prop :=
  ∀ c s m, membersOf s c p = m → (m.zeros = 0#32 ∨ zeroMembers p = true) → Readable s c xs m.cs →
    ∃ r, body c s = .ok (.next, r) ∧ Kept c.w noReg (maskMarks w n 0#8) s r ∧ (w.wbs = false → (r.warp c.w).mask n = bits s c m)

theorem crossesMask_of {i : Instr} {p : Pfx} {w : W0} {n : Nat} {xs : List Src} {bits : State → Ctx → Members → Word} {body : Ctx → M Done}
    (he : ∀ s, exec i s = issue p true s body) (hb : CrossMaskBody body p w n xs bits) (hv : ReadsOnly xs bits) : CrossesMask i p w n xs bits := by
  intro s u hi hz hx
  obtain ⟨r, t, ht, hdone, ⟨hk, hmask⟩, hafter⟩ := issue_from (body := body)
    (R := fun r => Kept s.cur.warp noReg (maskMarks w n 0#8) s r ∧
      (w.wbs = false → (r.warp s.cur.warp).mask n = bits s (mkCtx s u p) (membersOf s (mkCtx s u p) p))) hi (fun s1 hn hq hk => by
      have hm := ((takeLatches_near s u).trans hn).membersOf (mkCtx s u p) p
      obtain ⟨r, hr, hkr, hmask⟩ := hb (mkCtx s u p) s1 _ hm hz (hx.before hn hq)
      rw [hv _ _ _ _ (hx.sameReads hn hq)] at hmask
      have hall := (hk.mono (fun _ h => h) (fun _ h => h.elim)).trans hkr
      exact ⟨r, hr, State.rest_eq_cur hall.state, hall, hmask⟩)
  exact ⟨t, ⟨(he s).trans ht, hdone⟩, (hk.counted rfl p).trans (hafter.mono (fun _ h => h) (fun _ h => h.elim)),
    fun hw => (mask_after hafter n).trans (hmask hw)⟩

theorem crossesMask_census {i : Instr} {p : Pfx} {w : W0} {a : Src} {quad : Bool}
    (he : ∀ s, exec i s = issue p true s (fun c => censusBody c p w a quad)) :
    CrossesMask i p w (field w.d 0 3).toNat [a] (fun s c m => censusResult s c m a (field w.d 3 3).toNat quad) := by
  refine crossesMask_of he ?_ (fun c s t m h => ?_)
  · intro c s m hm hz hx
    subst hm
    unfold censusBody
    simp only [M.bind_ok (members_ok hz), M.bind_ok (checkCross_ok hx (readable_nil s c c.on)), M.st_bind, M.run_bind]
    obtain ⟨r1, h1, hk1⟩ := lastUse_kept c noReg (maskMarks w (field w.d 0 3).toNat 0#8) [(w.luA, a)] _
    obtain ⟨r2, h2, hk2, hmask⟩ := writeWholeMask_ok c w (field w.d 0 3).toNat (censusResult s c (membersOf s c p) a (field w.d 3 3).toNat quad) _ r1
    exact ⟨r2, by rw [M.bind_ok h1, M.bind_ok h2]; rfl, ((joinLanes_kept ..).trans hk1).trans hk2, hmask⟩
  · unfold censusResult
    simp only [h a (by simp)]

/-! The statements. -/

theorem ofCode_lane {k : BitVec 6} (h : WF.laneDst k = true) : (Dst.ofCode k).uniform = false := by
  refine ofCode_uniform_of_not_isU ?_
  simp only [WF.laneDst, WF.isO, Bool.or_eq_true, decide_eq_true_eq, beq_iff_eq] at h
  simp only [WF.isU, Bool.and_eq_false_iff, decide_eq_false_iff_not]
  rcases h with h | h
  · omega
  · rw [h]; decide

theorem dstD_lane {w : W0} {x : W1} (h : WF.laneDst w.d = true) : (dstD w x).uniform = false := by
  unfold dstD
  split
  · rfl
  · exact ofCode_lane h

theorem laneDst_of_x32 {w : W0} (h : WF.x32 w = true) : WF.laneDst w.d = true := by
  simp only [WF.x32, Bool.and_eq_true] at h
  obtain ⟨-, hd⟩ := h
  exact hd

theorem laneDst_of_x64 {w : W0} {x : W1} (h : WF.x64 w x = true) : WF.laneDst w.d = true := by
  simp only [WF.x64, Bool.and_eq_true] at h
  obtain ⟨⟨⟨-, hd⟩, -⟩, -⟩ := h
  exact hd

theorem elect_crosses (p : Pfx) (w : W0) (h : WF.elect p w = true) :
    CrossesMask (.elect p w) p w w.d.toNat [] (fun _ _ m => electBits m) := by
  refine crossesMask_of (fun s => by change execElect p w s = _; unfold execElect; rw [h]) ?_ (fun _ _ _ _ _ => rfl)
  intro c s m hm hz _
  subst hm
  simp only [M.bind_ok (members_ok hz), M.run_bind]
  obtain ⟨r, hr, hk, hmask⟩ := writeWholeMask_ok c w w.d.toNat (electBits (membersOf s c p)) _ _
  exact ⟨r, by rw [M.bind_ok hr]; rfl, (joinLanes_kept ..).trans hk, hmask⟩

/-- PICK: the source lane comes of source B's value. -/
theorem crosses_pick {i : Instr} {p : Pfx} {w : W0} {d : Dst} {lu : Bool} {a : Src} {b : Bool × Src} {mode n : Nat} (hu : d.uniform = false)
    (he : ∀ s, exec i s = issue p true s (fun c => exchangeBody c p w d (lu, a) [b] (fun s i => pickLane mode n i (srcVal s c b.2 i)))) :
    Crosses i p w d 1 [a] [a, b.2] (fun s c m i => [(exchange s c m a [] i (pickLane mode n i (srcVal s c b.2 i))).1]) (fun _ _ _ => 0#8) := by
  refine crosses_exchange (src := fun c s i => pickLane mode n i (srcVal s c b.2 i)) rfl hu (fun c s t h => ?_) he
  funext i
  rw [h b.2 (by simp) i]

/-- Settles O15: each body is followed to its end from members and sources that the check of the prefixes has not changed. What a census or an election
writes with no lane on is the model's own choice (log entry 40). -/
theorem laneExchanges : Obligations.LaneExchanges := by
  unfold Obligations.LaneExchanges
  refine ⟨fun p w h => crossesMask_census (fun s => ?_), fun p w x h => crossesMask_census (fun s => ?_), elect_crosses,
    fun p w h => crosses_pick (b := (w.luB, .code w.b)) (lu := w.luA) (ofCode_lane ?_) (fun s => ?_),
    fun p w x h => crosses_pick (lu := w.luA) (dstD_lane ?_) (fun s => ?_),
    fun p w h => crosses_exchange (lu := w.luA) (b := []) (src := fun _ _ i => qxLane w.b.toNat i) rfl (ofCode_lane ?_) (fun _ _ _ _ => rfl) (fun s => ?_),
    fun p w x h => crosses_exchange (lu := w.luA) (b := []) (src := fun _ _ i => qxLane w.b.toNat i) rfl (dstD_lane ?_) (fun _ _ _ _ => rfl) (fun s => ?_),
    fun p w h => (crosses_peers (two := false) (ofCode_lane ?_) (fun s => ?_)).head, fun p w x h => crosses_peers (dstD_lane ?_) (fun s => ?_)⟩
  · change execCensus32 p w s = _; unfold execCensus32; rw [h]
  · change execCensus64 p w x s = _; unfold execCensus64; rw [h]
  · simp only [WF.pick_32, Bool.and_eq_true] at h; obtain ⟨-, -, hd⟩ := h; exact hd
  · change execPick32 p w s = _; unfold execPick32; rw [h]
  · simp only [WF.pick_64, Bool.and_eq_true] at h; obtain ⟨-, ⟨⟨⟨-, hd⟩, -⟩, -⟩, -⟩ := h; exact hd
  · change execPick64 p w x s = _; unfold execPick64; rw [h]
  · simp only [WF.qx_32, Bool.and_eq_true] at h; obtain ⟨-, hx, -⟩ := h; exact laneDst_of_x32 hx
  · change execQx32 p w s = _; unfold execQx32; rw [h]
  · simp only [WF.qx_64, Bool.and_eq_true] at h; obtain ⟨-, ⟨hx, -⟩, -⟩ := h; exact laneDst_of_x64 hx
  · change execQx64 p w x s = _; unfold execQx64; rw [h]
  · simp only [WF.peers_32, Bool.and_eq_true] at h; obtain ⟨-, hx, -⟩ := h; exact laneDst_of_x32 hx
  · change execPeers32 p w s = _; unfold execPeers32; rw [h]
  · simp only [WF.peers_64, Bool.and_eq_true] at h; obtain ⟨-, ⟨⟨hx, -⟩, -⟩, -⟩ := h; exact laneDst_of_x64 hx
  · change execPeers64 p w x s = _; unfold execPeers64; rw [h]

/-- A draw's destination is a pair of operand registers, and its key the first of four uniform ones. -/
theorem draw_wf {p : Pfx} {w : W0} {x : W1} (h : WF.draw p w x = true) : WF.evenO w.d = true ∧ WF.keyQuad x.c = true := by
  simp only [WF.draw, Bool.and_eq_true] at h
  obtain ⟨-, ⟨⟨⟨⟨-, hd⟩, hk⟩, -⟩, -⟩, -⟩ := h
  exact ⟨hd, hk⟩

theorem drawm_wf {p : Pfx} {w : W0} {x : W1} (h : WF.drawm p w x = true) : WF.evenO w.d = true ∧ WF.keyQuad x.c = true := by
  simp only [WF.drawm, Bool.and_eq_true] at h
  obtain ⟨-, ⟨⟨⟨-, hd⟩, hk⟩, -⟩, -⟩ := h
  exact ⟨hd, hk⟩

/-- Settles O16: as O15, with the flags of the lanes that are on, and with leaves and key that the sources give. The pair of a group without a
contributor is the model's own choice (log entry 45). -/
theorem reductionsAndDraws : Obligations.ReductionsAndDraws := by
  unfold Obligations.ReductionsAndDraws
  refine ⟨fun p w h => crosses_red (ofCode_lane ?_) (fun s => ?_), fun p w x h => crosses_red (dstD_lane ?_) (fun s => ?_),
    fun p w h => crosses_red (ofCode_lane ?_) (fun s => ?_), fun p w x h => crosses_red (dstD_lane ?_) (fun s => ?_),
    fun p w x h => crosses_draw (lu := [(w.luA, .code w.a), (w.luB, .code w.b)]) (ys := [drawTSrc x])
      (argmax := fun c s => (srcVal s c (drawTSrc x) 0 &&& 0x7FFFFFFF#32) == 0#32)
      (leaves := fun c s j => leaf (srcVal s c (drawTSrc x) 0).toNat (srcVal s c (.code w.a) j).toNat (srcVal s c (.code w.b) j).toNat)
      (draw_wf h).1 (draw_wf h).2 (fun s => ?_) (fun c s t hs => ?_),
    fun p w x h => crosses_draw (lu := [(w.luA, .code w.a), (w.luA, (Src.code w.a).up 1)]) (ys := []) (argmax := fun _ _ => x.hi.getLsbD 1)
      (leaves := fun c s j => ((⟨(srcVal s c (.code w.a) j).toNat, (srcVal s c ((Src.code w.a).up 1) j).toNat⟩ : Pair), 0#8))
      (drawm_wf h).1 (drawm_wf h).2 (fun s => ?_) (fun c s t hs => ?_)⟩
  · simp only [WF.red_32, Bool.and_eq_true] at h; obtain ⟨-, hx, -⟩ := h; exact laneDst_of_x32 hx
  · change execRed32 p w s = _; unfold execRed32; rw [h]
  · simp only [WF.red_64, Bool.and_eq_true] at h; obtain ⟨-, ⟨hx, -⟩, -⟩ := h; exact laneDst_of_x64 hx
  · change execRed64 p w x s = _; unfold execRed64; rw [h]
  · simp only [WF.scan_32, Bool.and_eq_true] at h; obtain ⟨-, hx, -⟩ := h; exact laneDst_of_x32 hx
  · change execScan32 p w s = _; unfold execScan32; rw [h]
  · simp only [WF.scan_64, Bool.and_eq_true] at h; obtain ⟨-, ⟨hx, -⟩, -⟩ := h; exact laneDst_of_x64 hx
  · change execScan64 p w x s = _; unfold execScan64; rw [h]
  · change execDraw p w x s = _; unfold execDraw; rw [h]; rfl
  · simp only [hs (drawTSrc x) (by simp), hs (.code w.a) (by simp), hs (.code w.b) (by simp), and_self]
  · change execDrawm p w x s = _; unfold execDrawm; rw [h]; rfl
  · simp only [hs (.code w.a) (by simp), hs ((Src.code w.a).up 1) (by simp), and_self]

end Sys2Proof.Machine
end

section
/-! SUPPORT. The ends of lanes (R171, R172): what stays of a warp while barriers and splits settle, and what a death leaves of it. -/

namespace Sys2Proof.Machine

open Sys2Proof

/-! What settling leaves. -/

/-- The outline, the queue of the dead, and of warp `w` the lanes that have exited and its lanes' registers. -/
def State.fate (w : Nat) (s : State) :
    ((Nat → Life) × (Nat → Loc → Byte) × (Nat → Bool)) × List Nat × LaneMask × (Nat → Nat → (Word × Bool) × (Word × Bool)) :=
  (s.outline, s.deaths, (s.warp w).exited, fun n i => ((s.warp w).reg (.o n i), (s.warp w).reg (.v n i)))

section
variable {w : Nat} {s t : State}

theorem fate_ext (ho : t.outline = s.outline) (hd : t.deaths = s.deaths) (he : (t.warp w).exited = (s.warp w).exited)
    (hr : ∀ n i, (t.warp w).reg (.o n i) = (s.warp w).reg (.o n i) ∧ (t.warp w).reg (.v n i) = (s.warp w).reg (.v n i)) : t.fate w = s.fate w :=
  Prod.ext ho (Prod.ext hd (Prod.ext he (funext fun n => funext fun i => Prod.ext (hr n i).1 (hr n i).2)))

theorem fate_outline (h : t.fate w = s.fate w) : t.outline = s.outline := congrArg Prod.fst h
theorem fate_life (h : t.fate w = s.fate w) (k : Nat) : (t.warp k).life = (s.warp k).life := outline_life (fate_outline h) k
theorem fate_readMem (h : t.fate w = s.fate w) (d : Nat) (l : Loc) : t.readMem d l = s.readMem d l := outline_readMem (fate_outline h) d l
theorem fate_deaths (h : t.fate w = s.fate w) : t.deaths = s.deaths := congrArg (fun x => x.2.1) h
theorem fate_exited (h : t.fate w = s.fate w) : (t.warp w).exited = (s.warp w).exited := congrArg (fun x => x.2.2.1) h
theorem fate_regs (h : t.fate w = s.fate w) (n i : Nat) :
    (t.warp w).reg (.o n i) = (s.warp w).reg (.o n i) ∧ (t.warp w).reg (.v n i) = (s.warp w).reg (.v n i) := by
  have hr := congrFun (congrFun (congrArg (fun x => x.2.2.2) h) n) i
  exact ⟨congrArg Prod.fst hr, congrArg Prod.snd hr⟩

/-- A change of a warp that leaves its life, exits and lanes' registers. -/
theorem fate_setWarp (s : State) (k : Nat) (x : Warp) (hl : x.life = (s.warp k).life) (he : x.exited = (s.warp k).exited)
    (ho : x.o = (s.warp k).o) (hv : x.v = (s.warp k).v) : (s.setWarp k x).fate w = s.fate w := by
  refine fate_ext (outline_setWarp s k x hl) rfl ?_ (fun n i => ?_) <;> rw [State.warp_setWarp_eq] <;> split
  · rename_i hk; rw [hk, he]
  · rfl
  · rename_i hk; subst hk; simp only [Warp.reg, ho, hv, and_self]
  · exact ⟨rfl, rfl⟩

end

/-- Uniform registers alone. -/
def uniformRegs (g : RegName) : Prop := ∃ n, g = .s n

/-- What may change within `Kept` of a warp's uniform registers leaves the fate of every warp. -/
theorem fate_of_kept {k : Nat} {K : Marks} {s t : State} (h : Kept k uniformRegs K s t) (w : Nat) : t.fate w = s.fate w := by
  refine fate_ext (outline_of_kept h) (by simpa [State.rest] using congrArg State.deaths h.state) ?_ (fun n i => ?_) <;> by_cases hk : w = k
  · subst hk; simpa [Warp.rest] using congrArg Warp.exited h.warp
  · rw [h.others w hk]
  · subst hk; exact ⟨h.regs _ (by simp [uniformRegs]), h.regs _ (by simp [uniformRegs])⟩
  · rw [h.others w hk]; exact ⟨rfl, rfl⟩

theorem Kept.fate {k : Nat} {K : Marks} {s t : State} (h : Kept k noReg K s t) (w : Nat) : t.fate w = s.fate w :=
  fate_of_kept (h.mono (fun _ hp => hp.elim) (fun _ hm => hm) (below_iff.mpr fun _ _ hb => hb)) w

/-! Barriers are checked again (R203). -/

theorem writeUniform_kept (s : State) (k : Nat) (i : SubId) (r : Nat) (v : Word) (l : Label) :
    Kept k uniformRegs noMask s (writeUniform s k i r v l) := by
  unfold writeUniform
  rw [State.modWarp_eq]
  dsimp only
  split
  · exact Kept.ofWarp s _ rfl (fun g hg => by cases g <;> simp_all [Warp.reg, uniformRegs]) (fun _ _ => rfl) (flags_same _)
  · split <;>
      exact Kept.ofWarp s _ rfl (fun g hg => by cases g <;> simp_all [Warp.reg, uniformRegs]) (fun _ _ => rfl) (flags_same _)

theorem captureLate_kept (s : State) (k : Nat) (i : SubId) (latch : Nat) (lanes : SMap Reg) (P : RegName → Prop) (K : Marks) :
    Kept k P K s (captureLate s k i latch lanes) := by
  refine Kept.ofQuad _ _ _ _ _ _ ?_
  dsimp only
  split <;> rfl

/-- A sub-warp that departs from a barrier changes its own warp alone, of its registers the uniform ones. -/
theorem departs_kept (lbl : Label) (val : Word) (s : State) (p : Nat × SubWarp) : Kept p.1 uniformRegs noMask s (departs lbl val s p) := by
  unfold departs
  split
  · dsimp only
    have hjoin := join_kept p.1 uniformRegs noMask s lbl p.2.maskLabel
    have hwrite {d : Nat} {v : Word} {l : Label} : Kept p.1 uniformRegs noMask s (if 24 ≤ d ∧ d < 56 then
        writeUniform (s.join p.1 lbl p.2.maskLabel).2 p.1 p.2.id (d - 24) v l else (s.join p.1 lbl p.2.maskLabel).2) := by
      split
      · exact hjoin.trans (writeUniform_kept ..)
      · exact hjoin
    refine Kept.trans ?_ ((makeReady_kept p.1 _ _ _ p.2).trans (arriveCheck_kept p.1 _ _ _ _))
    split
    · exact hwrite
    · exact hwrite.trans (captureLate_kept ..)
  · exact Kept.refl ..

theorem barDepart_eq (s : State) (g b n : Nat) (cluster : Bool) (h : barFull s g b n cluster = true) :
    ∃ ls lbl val, barDepart s g b n cluster = (subsOf s (expectedWarps s g b cluster)).foldl (departs lbl val)
      (s.joinList (((expectedWarps s g b cluster).head?).getD 0) ls).2 := by
  unfold barDepart
  simp only [h, Bool.not_true, Bool.false_eq_true, if_false]
  exact ⟨_, _, _, rfl⟩

theorem barDepart_waits (s : State) (g b n : Nat) (cluster : Bool) (h : barFull s g b n cluster = false) : barDepart s g b n cluster = s := by
  unfold barDepart
  simp [h]

theorem barDepart_fate (w : Nat) (s : State) (g b n : Nat) (cluster : Bool) : (barDepart s g b n cluster).fate w = s.fate w := by
  cases hf : barFull s g b n cluster with
  | false => rw [barDepart_waits _ _ _ _ _ hf]
  | true =>
    obtain ⟨ls, lbl, val, he⟩ := barDepart_eq s g b n cluster hf
    rw [he]
    exact (foldl_keeps (State.fate w) _ (fun t p => fate_of_kept (departs_kept lbl val t p) w) _ _).trans
      ((joinList_kept _ noReg noMask s ls).fate w)

theorem barsRecheck_fate (w : Nat) (s : State) (g b : Nat) : (barsRecheck s g b).fate w = s.fate w :=
  foldl_keeps (State.fate w) _ (fun _ _ => (barDepart_fate ..).trans (barDepart_fate ..)) _ s

/-- No barrier expects a warp that has ended. -/
theorem ne_of_expected {s : State} {w k g b : Nat} {cluster : Bool} (h : (s.warp w).life.ended = true) (hk : k ∈ expectedWarps s g b cluster) :
    w ≠ k := by
  rintro rfl
  simp only [expectedWarps, List.mem_filter] at hk
  obtain ⟨-, hlife⟩ := hk
  cases hl : (s.warp w).life <;> simp_all [Life.ended]

/-- A barrier that departs leaves a warp that has ended. -/
theorem barDepart_other {s : State} {w : Nat} (h : (s.warp w).life.ended = true) (g b n : Nat) (cluster : Bool) :
    (barDepart s g b n cluster).warp w = s.warp w := by
  cases hf : barFull s g b n cluster with
  | false => rw [barDepart_waits _ _ _ _ _ hf]
  | true =>
    obtain ⟨ls, lbl, val, he⟩ := barDepart_eq s g b n cluster hf
    have hhead : w ≠ ((expectedWarps s g b cluster).head?).getD 0 := by
      unfold barFull at hf
      cases hws : expectedWarps s g b cluster with
      | nil => simp [hws] at hf
      | cons k ws => exact ne_of_expected h (hws ▸ List.mem_cons_self ..)
    rw [he]
    refine List.foldlRecOn (motive := fun t : State => t.warp w = s.warp w) _ _ ((joinList_kept _ noReg noMask s ls).others w hhead) (fun t ht p hp => ?_)
    have hmem : p.1 ∈ expectedWarps s g b cluster := by
      simp only [subsOf, List.mem_flatten, List.mem_map] at hp
      obtain ⟨_, ⟨k, hk, rfl⟩, hp⟩ := hp
      obtain ⟨u, -, rfl⟩ := List.mem_map.mp hp
      exact hk
    rw [(departs_kept lbl val t p).others w (ne_of_expected h hmem), ht]

theorem barsRecheck_other {s : State} {w : Nat} (h : (s.warp w).life.ended = true) (g b : Nat) : (barsRecheck s g b).warp w = s.warp w := by
  refine List.foldlRecOn (motive := fun t : State => t.warp w = s.warp w) _ _ rfl (fun t ht n _ => ?_)
  have h1 : (t.warp w).life.ended = true := ht ▸ h
  have h2 := barDepart_other h1 g b n false
  rw [barDepart_other (h2 ▸ h1), h2, ht]

/-! A warp dies (R171, R237, R331). -/

/-- A death before the barriers are checked again. -/
def deathQueued (s : State) (w cause : Nat) (lbl : Label) : State :=
  let x := s.warp w
  let s := stopWarp s w cause lbl
  let gangs := ((s.quad x.quad).rendezvous.map (fun m => m.gang)).filter (fun v => v.getLsbD x.index)
  let s := leaveLatch (gangs.foldl (fun s v => gangFail s x.quad w v) s) w
  let s := s.modBlock x.grid x.block (fun b => { b with comm := if b.comm = some w then none else b.comm })
  { s with
    deaths := s.deaths ++ [w]
    cmds := s.cmds.filter (fun e => !(e.2.warp == w && !e.2.started && (match e.2.op with
      | .prefetch _ => true
      | _ => false))) }

theorem dieWarp_eq {s : State} {w : Nat} (h : (s.warp w).life.ended = false) (cause : Nat) (lbl : Label) :
    dieWarp s w cause lbl = barsRecheck (deathQueued s w cause lbl) (s.warp w).grid (s.warp w).block := by
  unfold dieWarp
  dsimp only
  split
  · rename_i hl; rw [hl] at h; cases h
  · rename_i hl; rw [hl] at h; cases h
  · rfl

/-- A gang that fails changes what is pending against warps alone. -/
theorem gangFail_field {α : Type} (f : Warp → α) (hf : ∀ x ps, f { x with pending := ps } = f x) (s : State) (q k : Nat) (gang : Word) (w : Nat) :
    f ((gangFail s q k gang).warp w) = f (s.warp w) := by
  unfold gangFail
  dsimp only
  refine (foldl_keeps (fun t : State => f (t.warp w)) _ (fun t m => ?_) _ _).trans rfl
  rw [State.modWarp_eq, State.warp_setWarp_eq]
  split
  · rename_i hk
    rw [hf, hk]
  · rfl

/-- Of the dying warp, a field other than what is pending against it is that of `Warp.died`. -/
theorem deathQueued_field {α : Type} (f : Warp → α) (hf : ∀ x ps, f { x with pending := ps } = f x) (s : State) (w cause : Nat) (lbl : Label) :
    f ((deathQueued s w cause lbl).warp w) = f ((s.warp w).died cause lbl) := by
  refine (foldl_keeps (fun t : State => f (t.warp w)) _ (fun t v => gangFail_field f hf t _ w v w) _ _).trans ?_
  exact congrArg f (State.warp_setWarp ..)

/-- What a death leaves of the warp that dies: no sub-warp and no lane, and its registers as they were. -/
structure Died (s t : State) (w cause : Nat) (lbl : Label) : Prop where
  life : (t.warp w).life = .dying cause lbl
  exited : (t.warp w).exited = BitVec.allOnes 32
  subs : (t.warp w).subs = []
  queued : w ∈ t.deaths
  regs : ∀ n i, (t.warp w).reg (.o n i) = (s.warp w).reg (.o n i) ∧ (t.warp w).reg (.v n i) = (s.warp w).reg (.v n i)

theorem dieWarp_died {s : State} {w : Nat} (h : (s.warp w).life.ended = false) (cause : Nat) (lbl : Label) :
    Died s (dieWarp s w cause lbl) w cause lbl := by
  have hlife := deathQueued_field Warp.life (fun _ _ => rfl) s w cause lbl
  have hfate := barsRecheck_fate w (deathQueued s w cause lbl) (s.warp w).grid (s.warp w).block
  have hother := barsRecheck_other (s := deathQueued s w cause lbl) (w := w) (by rw [hlife]; rfl) (s.warp w).grid (s.warp w).block
  rw [dieWarp_eq h]
  refine ⟨?_, ?_, ?_, ?_, fun n i => ?_⟩
  · rw [hother, hlife]; rfl
  · rw [hother, deathQueued_field Warp.exited (fun _ _ => rfl)]; rfl
  · rw [hother, deathQueued_field Warp.subs (fun _ _ => rfl)]; rfl
  · rw [fate_deaths hfate]
    exact List.mem_append.mpr (.inr (List.mem_singleton.mpr rfl))
  · rw [hother]
    exact ⟨deathQueued_field (fun x => x.reg (.o n i)) (fun _ _ => rfl) s w cause lbl,
      deathQueued_field (fun x => x.reg (.v n i)) (fun _ _ => rfl) s w cause lbl⟩

/-- Whether or not a warp dies, its lanes' registers stay. -/
theorem dieWarp_regs (s : State) (w cause : Nat) (lbl : Label) (n i : Nat) :
    ((dieWarp s w cause lbl).warp w).reg (.o n i) = (s.warp w).reg (.o n i) ∧ ((dieWarp s w cause lbl).warp w).reg (.v n i) = (s.warp w).reg (.v n i) := by
  cases h : (s.warp w).life.ended with
  | true => rw [dieWarp_ended s w cause lbl h]; exact ⟨rfl, rfl⟩
  | false => exact (dieWarp_died h cause lbl).regs n i

/-! Lanes exit (R171). -/

theorem commit_fate (w k : Nat) (s : State) : (commit s w).fate k = s.fate k := fate_setWarp s w _ rfl rfl rfl rfl

/-- The lanes of a mask have exited. -/
def exitMasked (s : State) (w : Nat) (m : LaneMask) : State := s.modWarp w (fun x => { x with exited := x.exited ||| m })

theorem liveLanes_exitMasked (s : State) (w : Nat) (m : LaneMask) : liveLanes (exitMasked s w m) w = liveLanes s w &&& ~~~m := by
  have hreal : realLanes (exitMasked s w m) w = realLanes s w := by
    unfold realLanes State.record exitMasked
    simp
  unfold liveLanes
  rw [hreal]
  simp only [exitMasked, State.modWarp_eq, State.warp_setWarp]
  apply BitVec.eq_of_getLsbD_eq
  intro i hi
  simp [hi, Bool.and_assoc]

/-- Where no lane is left the warp dies with cause EXIT. -/
theorem exitLanes_last {s : State} {w : Nat} {m : LaneMask} (h : liveLanes s w &&& ~~~m = 0#32) (mask : Label) :
    exitLanes s w m mask = dieWarp (commit (exitMasked s w m) w) w 0 mask := by
  unfold exitLanes
  exact if_pos ((liveLanes_exitMasked s w m).trans h)

/-- Where lanes are left they go on, and barriers are checked again. -/
theorem exitLanes_left {s : State} {w : Nat} {m : LaneMask} (h : liveLanes s w &&& ~~~m ≠ 0#32) (mask : Label) :
    ∃ r g b, exitLanes s w m mask = barsRecheck r g b ∧ Kept w noReg noMask (exitMasked s w m) r := by
  unfold exitLanes
  dsimp only
  split
  · rename_i he
    exact absurd ((liveLanes_exitMasked s w m).symm.trans he) h
  refine ⟨_, _, _, rfl, Kept.trans ?_ (wakeSyncs_kept ..)⟩
  refine Kept.trans (Kept.place w noReg noMask (exitMasked s w m) (fun x => { x with
      subs := (x.subs.filter (fun u => u.mask &&& ~~~m != 0#32)).map (fun u => { u with mask := u.mask &&& ~~~m }) })
    (fun _ => rfl) (fun _ => rfl) (fun _ => rfl) (fun _ => rfl) (fun _ => rfl) (fun _ => rfl)) (Kept.foldl _ (fun t i => ?_) _ _)
  split
  · exact Kept.refl ..
  · split
    · exact Kept.refl ..
    · rename_i e side _ z _
      exact (Kept.place w noReg noMask t (fun x => { x with splits := x.splits.put e (z.arrive side) }) (fun _ => rfl) (fun _ => rfl) (fun _ => rfl)
        (fun _ => rfl) (fun _ => rfl) (fun _ => rfl)).trans (tryFuse_kept ..)

theorem goOn_kept (s : State) (c : Ctx) : Kept c.w noReg noMask s (goOn s c) := by
  unfold goOn
  split
  · split
    · exact (makeReady_kept ..).trans (arriveCheck_kept ..)
    · exact Kept.refl ..
  · exact Kept.refl ..

/-! The instructions. -/

/-- No byte of memory has changed, and no register of a lane of warp `w`. -/
def Spares (w : Nat) (s t : State) : Prop :=
  (∀ d l, t.readMem d l = s.readMem d l) ∧
  ∀ n i, (t.warp w).reg (.o n i) = (s.warp w).reg (.o n i) ∧ (t.warp w).reg (.v n i) = (s.warp w).reg (.v n i)

theorem Spares.trans {w : Nat} {s t r : State} (h : Spares w s t) (h' : Spares w t r) : Spares w s r :=
  ⟨fun d l => (h'.1 d l).trans (h.1 d l), fun n i => ⟨(h'.2 n i).1.trans (h.2 n i).1, (h'.2 n i).2.trans (h.2 n i).2⟩⟩

theorem spares_of_fate {w : Nat} {s t : State} (h : t.fate w = s.fate w) : Spares w s t := ⟨fate_readMem h, fate_regs h⟩

theorem dieWarp_spares (s : State) (w cause : Nat) (lbl : Label) : Spares w s (dieWarp s w cause lbl) :=
  ⟨dieWarp_readMem s w cause lbl, dieWarp_regs s w cause lbl⟩

theorem exitMasked_spares (s : State) (w : Nat) (m : LaneMask) : Spares w s (exitMasked s w m) := by
  refine ⟨outline_readMem (outline_setWarp s w _ rfl), fun n i => ?_⟩
  simp [exitMasked, Warp.reg]

theorem exitLanes_spares (s : State) (w : Nat) (m : LaneMask) (mask : Label) : Spares w s (exitLanes s w m mask) := by
  by_cases h : liveLanes s w &&& ~~~m = 0#32
  · rw [exitLanes_last h]
    exact ((exitMasked_spares s w m).trans (spares_of_fate (commit_fate w w _))).trans (dieWarp_spares ..)
  · obtain ⟨r, g, b, he, hk⟩ := exitLanes_left h mask
    rw [he]
    exact (exitMasked_spares s w m).trans (spares_of_fate ((barsRecheck_fate w r g b).trans (hk.fate w)))

theorem counted_fate (p : Pfx) (s : State) (w : Nat) : (s.counted p).fate w = s.fate w := by
  unfold State.counted
  split
  · exact fate_setWarp s _ _ rfl rfl rfl rfl
  · rfl

theorem complete_placed (p : Pfx) (r : State) (u : SubWarp) : complete p r u .placed = { r.counted p with report := .done } := by
  unfold complete advance State.counted
  dsimp only
  split <;> split <;> rfl

theorem complete_placed_fate (p : Pfx) (r : State) (u : SubWarp) (w : Nat) : (complete p r u .placed).fate w = r.fate w := by
  rw [complete_placed]
  exact counted_fate p r w

theorem complete_placed_subs (p : Pfx) (r : State) (u : SubWarp) (w : Nat) : ((complete p r u .placed).warp w).subs = (r.warp w).subs := by
  rw [complete_placed]
  change ((r.counted p).warp w).subs = _
  unfold State.counted
  split
  · rw [State.modWarp_eq, State.warp_setWarp_eq]
    split
    · rename_i hk; rw [hk]
    · rfl
  · rfl

/-- A group whose body places its sub-warp itself. -/
theorem issue_placed {p : Pfx} {s : State} {u : SubWarp} {body : Ctx → M Done} {E : State → State} (hi : Issues s p u)
    (hb : ∀ r, body (mkCtx s u p) r = .ok (.placed, E r)) :
    ∃ s1, Near s s1 ∧ Kept s.cur.warp noReg noMask s s1 ∧ issue p true s body = .next (complete p (E s1) u .placed) := by
  obtain ⟨s1, h1⟩ := hi.predicate
  obtain ⟨hnear, -, hpre⟩ := checkPfx_near h1
  exact ⟨s1, (takeLatches_near s u).trans hnear, (takeLatches_kept _ _ _ s u).trans hpre, issue_ok hi.sub h1 (hb s1)⟩

/-- With no lane on, nothing is done. -/
theorem idle_spares {s t : State} {p : Pfx} (hk : Kept s.cur.warp noReg noMask (s.counted p) t) : Spares s.cur.warp s t :=
  spares_of_fate ((hk.fate _).trans (counted_fate p s _))

theorem Near.liveLanes {s t : State} (h : Near s t) (w : Nat) : liveLanes t w = liveLanes s w := by
  unfold Machine.liveLanes realLanes
  rw [h.record, h.field Warp.index (fun _ => rfl), h.field Warp.exited (fun _ => rfl)]

/-- What EXIT does to its warp, with a lane on: the lanes that are on have exited too, or the warp has died. -/
theorem exitLanes_ends {s : State} {w : Nat} (m : LaneMask) (mask : Label) (hl : (s.warp w).life = .resident) :
    (liveLanes s w &&& ~~~m ≠ 0#32 →
      ((exitLanes s w m mask).warp w).life = .resident ∧ ((exitLanes s w m mask).warp w).exited = (s.warp w).exited ||| m) ∧
    (liveLanes s w &&& ~~~m = 0#32 → ((exitLanes s w m mask).warp w).life = .dying 0 mask ∧ w ∈ (exitLanes s w m mask).deaths) := by
  have hmasked : ((exitMasked s w m).warp w).life = .resident ∧ ((exitMasked s w m).warp w).exited = (s.warp w).exited ||| m := by
    simp [exitMasked, hl]
  refine ⟨fun h => ?_, fun h => ?_⟩
  · obtain ⟨r, g, b, he, hk⟩ := exitLanes_left h mask
    have hfate := (barsRecheck_fate w r g b).trans (hk.fate w)
    rw [he]
    exact ⟨(fate_life hfate w).trans hmasked.1, (fate_exited hfate).trans hmasked.2⟩
  · have hlife : ((commit (exitMasked s w m) w).warp w).life = .resident := (fate_life (commit_fate w w _) w).trans hmasked.1
    have hdied := dieWarp_died (by rw [hlife]; rfl) 0 mask
    rw [exitLanes_last h]
    exact ⟨hdied.life, hdied.queued⟩

/-- The body of an instruction that places the sub-warp itself, and does nothing with no lane on. -/
def whenOn (E : Ctx → State → State) (c : Ctx) : M Done := if c.on = 0#32 then pure .next else do M.upd (E c); pure .placed

/-- Such a group completes: it does nothing, or its effect comes after the check of its prefixes. -/
theorem issue_whenOn {p : Pfx} {s : State} {u : SubWarp} (E : Ctx → State → State) (hi : Issues s p u) :
    ∃ t, issue p true s (whenOn E) = .next t ∧ t.report = .done ∧
      ((mkCtx s u p).on = 0#32 → Kept s.cur.warp noReg noMask (s.counted p) t) ∧
      ((mkCtx s u p).on ≠ 0#32 → ∃ s1, Near s s1 ∧ Kept s.cur.warp noReg noMask s s1 ∧ t = complete p (E (mkCtx s u p) s1) u .placed) := by
  by_cases hon : (mkCtx s u p).on = 0#32
  · obtain ⟨t, ht, hdone, hk⟩ := issue_idle (body := whenOn E) hi (fun r => by unfold whenOn; rw [if_pos hon]; rfl)
    exact ⟨t, ht, hdone, fun _ => hk, fun hne => absurd hon hne⟩
  · obtain ⟨s1, hnear, hk1, ht⟩ := issue_placed (body := whenOn E) (E := E (mkCtx s u p)) hi (fun r => by unfold whenOn; rw [if_neg hon]; rfl)
    exact ⟨_, ht, by rw [complete_placed], fun hz => absurd hz hon, fun _ => ⟨s1, hnear, hk1, rfl⟩⟩

/-- EXIT (R171). -/
theorem exit_ends (p : Pfx) (w : W0) (h : WF.exit p w = true) (s : State) (u : SubWarp) (hi : Issues s p u) :
    ∃ t, Completes (.exit p w) s t ∧ Spares s.cur.warp s t ∧
      ((mkCtx s u p).on = 0#32 → Kept s.cur.warp noReg noMask (s.counted p) t) ∧
      ((mkCtx s u p).on ≠ 0#32 → (s.warp s.cur.warp).life = .resident →
        (liveLanes s s.cur.warp &&& ~~~(mkCtx s u p).on ≠ 0#32 →
          (t.warp s.cur.warp).life = .resident ∧ (t.warp s.cur.warp).exited = (s.warp s.cur.warp).exited ||| (mkCtx s u p).on) ∧
        (liveLanes s s.cur.warp &&& ~~~(mkCtx s u p).on = 0#32 → (t.warp s.cur.warp).life = .dying 0 u.maskLabel ∧ s.cur.warp ∈ t.deaths)) := by
  have he : ∀ s, exec (.exit p w) s = issue p true s (whenOn (fun c s => goOn (exitLanes s c.w c.on c.sub.maskLabel) c)) := fun s => by
    change execExit p w s = _
    unfold execExit
    rw [h]
    rfl
  obtain ⟨t, ht, hdone, hoff, hon⟩ := issue_whenOn (fun c s => goOn (exitLanes s c.w c.on c.sub.maskLabel) c) hi
  by_cases hz : (mkCtx s u p).on = 0#32
  · exact ⟨t, ⟨(he s).trans ht, hdone⟩, idle_spares (hoff hz), hoff, fun hne => absurd hz hne⟩
  · obtain ⟨s1, hnear, hk1, hplaced⟩ := hon hz
    have hend : t.fate s.cur.warp = (exitLanes s1 s.cur.warp (mkCtx s u p).on u.maskLabel).fate s.cur.warp :=
      hplaced ▸ (complete_placed_fate ..).trans ((goOn_kept _ (mkCtx s u p)).fate _)
    refine ⟨t, ⟨(he s).trans ht, hdone⟩, ?_, hoff, fun _ hres => ?_⟩
    · exact ((spares_of_fate (hk1.fate _)).trans (exitLanes_spares ..)).trans (spares_of_fate hend)
    · have hlife : (s1.warp s.cur.warp).life = .resident := (fate_life (hk1.fate s.cur.warp) _).trans hres
      obtain ⟨hleft, hlast⟩ := exitLanes_ends (mkCtx s u p).on u.maskLabel hlife
      rw [hnear.liveLanes] at hleft hlast
      rw [fate_life hend, fate_exited hend, fate_deaths hend, ← fate_exited (hk1.fate s.cur.warp)]
      exact ⟨hleft, hlast⟩

/-- KILL (R171). -/
theorem kill_ends (p : Pfx) (w : W0) (h : WF.kill p w = true) (s : State) (u : SubWarp) (hi : Issues s p u) :
    ∃ t, Completes (.kill p w) s t ∧ Spares s.cur.warp s t ∧
      ((mkCtx s u p).on = 0#32 → Kept s.cur.warp noReg noMask (s.counted p) t) ∧
      ((mkCtx s u p).on ≠ 0#32 → (s.warp s.cur.warp).life = .resident →
        (t.warp s.cur.warp).life = .dying 1 u.maskLabel ∧ (t.warp s.cur.warp).exited = BitVec.allOnes 32 ∧ (t.warp s.cur.warp).subs = [] ∧
          s.cur.warp ∈ t.deaths) := by
  have he : ∀ s, exec (.kill p w) s = issue p true s (whenOn (fun c s => dieWarp (commit s c.w) c.w 1 c.sub.maskLabel)) := fun s => by
    change execKill p w s = _
    unfold execKill
    rw [h]
    rfl
  obtain ⟨t, ht, hdone, hoff, hon⟩ := issue_whenOn (fun c s => dieWarp (commit s c.w) c.w 1 c.sub.maskLabel) hi
  by_cases hz : (mkCtx s u p).on = 0#32
  · exact ⟨t, ⟨(he s).trans ht, hdone⟩, idle_spares (hoff hz), hoff, fun hne => absurd hz hne⟩
  · obtain ⟨s1, -, hk1, hplaced⟩ := hon hz
    have hend : t.fate s.cur.warp = (dieWarp (commit s1 s.cur.warp) s.cur.warp 1 u.maskLabel).fate s.cur.warp :=
      hplaced ▸ complete_placed_fate ..
    have hcommit := (commit_fate s.cur.warp s.cur.warp s1).trans (hk1.fate s.cur.warp)
    refine ⟨t, ⟨(he s).trans ht, hdone⟩, ?_, hoff, fun _ hres => ?_⟩
    · exact ((spares_of_fate hcommit).trans (dieWarp_spares ..)).trans (spares_of_fate hend)
    · have hlife : ((commit s1 s.cur.warp).warp s.cur.warp).life = .resident := (fate_life hcommit _).trans hres
      have hdied := dieWarp_died (by rw [hlife]; rfl) 1 u.maskLabel
      have hsubs : (t.warp s.cur.warp).subs = [] := hplaced ▸ (complete_placed_subs ..).trans hdied.subs
      rw [fate_life hend, fate_exited hend, fate_deaths hend]
      exact ⟨hdied.life, hdied.exited, hsubs, hdied.queued⟩

/-! SYNCW (R172). -/

/-- A sub-warp parked in SYNCW alone among those of its warp is not woken, where neither side of its entry has arrived (R172). -/
theorem wakeSyncs_alone {s : State} {w e side : Nat} (hs : ∀ v, v ∈ (s.warp w).subs → v.hold = .syncw → v.id = some (e, side))
    (hz : ∀ z, z ∈ (s.warp w).splits → z.1 = e → z.2.arrived0 = false ∧ z.2.arrived1 = false) (n : Nat) : wakeSyncs s w n = s := by
  cases n with
  | zero => rfl
  | succ n =>
    have ho : ∀ z, z ∈ (s.warp w).splits → syncOver (s.warp w) z.1 z.2 = [] := by
      intro z hmem
      unfold syncOver
      rw [List.filterMap_eq_nil_iff]
      intro k _
      split
      · rename_i u hu
        refine if_neg (fun hc => ?_)
        obtain ⟨hhold, hover⟩ := hc
        have hid : some (z.1, k) = some (e, side) := (Warp.sub_id hu).symm.trans (hs u (List.mem_of_find?_eq_some hu) hhold)
        simp only [Option.some.injEq, Prod.mk.injEq] at hid
        obtain ⟨he, hk⟩ := hid
        obtain ⟨h0, h1⟩ := hz z hmem he
        rcases hover with harr | hother
        · split at harr
          · exact absurd harr (by simp [h1])
          · exact absurd harr (by simp [h0])
        · cases hv : (s.warp w).sub (some (z.1, 1 - k)) with
          | none => simp [hv] at hother
          | some v =>
            have hvid : some (z.1, 1 - k) = some (e, side) :=
              (Warp.sub_id hv).symm.trans (hs v (List.mem_of_find?_eq_some hv) (by simpa [hv] using hother))
            simp only [Option.some.injEq, Prod.mk.injEq] at hvid
            omega
      · rfl
    have hf : ((s.warp w).splits.map (fun z => syncOver (s.warp w) z.1 z.2)).flatten = [] := by
      rw [List.flatten_eq_nil_iff]
      rintro _ h
      obtain ⟨z, hmem, rfl⟩ := List.mem_map.mp h
      exact ho z hmem
    unfold wakeSyncs
    rw [hf]

/-- A sub-warp as SYNCW parks it. -/
def parkedSync (c : Ctx) : SubWarp := { c.sub with pc := c.next, hold := .syncw }

/-- The warp's sub-warp is parked in SYNCW. -/
def parkSync (c : Ctx) (s : State) : State := s.modWarp c.w (fun x => x.setSub (parkedSync c))

theorem parkSync_warp (c : Ctx) (s : State) : (parkSync c s).warp c.w = (s.warp c.w).setSub (parkedSync c) := State.warp_setWarp ..

theorem parkSync_kept (c : Ctx) (s : State) : Kept c.w noReg noMask s (parkSync c s) :=
  Kept.place c.w noReg noMask s (fun x => x.setSub (parkedSync c)) (fun _ => rfl) (fun _ => rfl) (fun _ => rfl) (fun _ => rfl) (fun _ => rfl) (fun _ => rfl)

/-- Parked alone, and with neither side of its entry arrived, the sub-warp stays parked. -/
theorem parkSync_stays {c : Ctx} {s : State} {e side : Nat} (hc : c.sub.id = some (e, side))
    (hs : ∀ v, v ∈ (s.warp c.w).subs → v.id ≠ c.sub.id → v.hold ≠ .syncw)
    (hz : ∀ z, z ∈ (s.warp c.w).splits → z.1 = e → z.2.arrived0 = false ∧ z.2.arrived1 = false) (n : Nat) :
    wakeSyncs (parkSync c s) c.w n = parkSync c s := by
  refine wakeSyncs_alone (e := e) (side := side) (fun v hv hh => ?_) (by rw [parkSync_warp]; exact hz) n
  rw [parkSync_warp] at hv
  obtain ⟨y, hy, rfl⟩ := List.mem_map.mp hv
  by_cases hid : y.id = c.sub.id
  · simp [parkedSync, hid, hc]
  · have hne : (y.id == (parkedSync c).id) = false := by simpa [parkedSync] using hid
    simp only [hne, Bool.false_eq_true, if_false] at hh
    exact absurd hh (hs y hy hid)

/-- SYNCW (R172). -/
theorem syncw_parks (p : Pfx) (w : W0) (h : WF.syncw p w = true) :
    DoesIf (.syncw p w) p (fun _ _ => True) (fun _ s => s) (fun _ _ => noReg) (fun _ _ => noMask)
      (fun c s t => GoesOn c s t ∧ (∀ e side, c.sub.id = some (e, side) →
        (∀ v, v ∈ (s.warp c.w).subs → v.id ≠ c.sub.id → v.hold ≠ .syncw) →
        (∀ z, z ∈ (s.warp c.w).splits → z.1 = e → z.2.arrived0 = false ∧ z.2.arrived1 = false) →
        ∃ v, (t.warp c.w).sub c.sub.id = some v ∧ v.pc = c.next ∧ v.mask = c.sub.mask ∧ v.hold = .syncw)) := by
  intro s u hi _
  obtain ⟨s1, h1⟩ := hi.predicate
  obtain ⟨hnear1, -, hk1⟩ := checkPfx_near h1
  have hnear := (takeLatches_near s u).trans hnear1
  have hk := (takeLatches_kept _ _ _ s u).trans hk1
  have hsubs : (s1.warp s.cur.warp).subs = (s.warp s.cur.warp).subs := hnear.field Warp.subs (fun _ => rfl) _
  have hsplits : (s1.warp s.cur.warp).splits = (s.warp s.cur.warp).splits := hnear.field Warp.splits (fun _ => rfl) _
  have he : exec (.syncw p w) s = issue p true s (fun c => match c.sub.id with
      | none => pure .next
      | some _ => do M.upd (fun s => wakeSyncs (parkSync c s) c.w 33); pure .placed) := by
    change execSyncw p w s = _
    unfold execSyncw
    rw [h]
    rfl
  cases hid : u.id with
  | none =>
    refine ⟨_, ⟨he.trans (issue_ok hi.sub h1 (t := s1) (d := .next) ?_), rfl⟩, ?_, complete_goesOn hi.sub hnear.cur hsubs,
      fun e side hc => absurd (hid.symm.trans hc) (by simp)⟩
    · simp only [show (mkCtx s u p).sub.id = none from hid]
      rfl
    · exact (hk.counted rfl p).trans (complete_kept p s1 u .next (congrArg Current.warp hnear.cur))
  | some side =>
    have hpark := (parkSync_kept (mkCtx s u p) s1).trans (wakeSyncs_kept (mkCtx s u p).w noReg noMask 33 _)
    have hall := hk.trans hpark
    refine ⟨_, ⟨he.trans (issue_ok hi.sub h1 (t := wakeSyncs (parkSync (mkCtx s u p) s1) (mkCtx s u p).w 33) (d := .placed) ?_), rfl⟩, ?_,
      fun _ hc => absurd (hid.symm.trans hc) (by simp), fun e side hc hs hz => ?_⟩
    · simp only [show (mkCtx s u p).sub.id = some side from hid]
      rfl
    · exact (hall.counted rfl p).trans (complete_kept p _ u .placed (congrArg Current.warp (State.rest_eq_cur hall.state)))
    · have hu : (s1.warp s.cur.warp).sub u.id = some u := by
        have h0 : (s.warp s.cur.warp).sub s.cur.sub = some u := hi.sub
        rw [Warp.sub, hsubs, Warp.sub_id h0]
        exact h0
      refine ⟨parkedSync (mkCtx s u p), ?_, rfl, rfl, rfl⟩
      rw [Warp.sub, complete_placed_subs, parkSync_stays hc (hsubs ▸ hs) (hsplits ▸ hz), parkSync_warp]
      exact Warp.sub_setSub (u := parkedSync (mkCtx s u p)) hu

/-- Settles O20: a death leaves what `Died` says and the settling of barriers and splits leaves the fate of the warp; SYNCW parks the sub-warp, which
nothing wakes alone. -/
theorem endsOfLanes : Obligations.EndsOfLanes := by
  unfold Obligations.EndsOfLanes
  refine ⟨fun p w h s u hi => ?_, fun p w h s u hi => ?_, syncw_parks⟩
  · obtain ⟨t, ht, hs, hoff, hon⟩ := exit_ends p w h s u hi
    exact ⟨t, ht, hs.1, hs.2, hoff, hon⟩
  · obtain ⟨t, ht, hs, hoff, hon⟩ := kill_ends p w h s u hi
    exact ⟨t, ht, hs.1, hs.2, hoff, hon⟩

end Sys2Proof.Machine
end

section
/-! SUPPORT. Label tables as joins extend them (R23 to R25): handles keep their owner sets, and a join covers what it joins. -/

namespace Sys2Proof.Machine

open Sys2Proof

/-! Sorted maps. -/

theorem SMap.get?_of_mem {α : Type} {m : SMap α} (h : m.Pairwise (fun a b => a.1 < b.1)) {e : Nat × α} (he : e ∈ m) : m.get? e.1 = some e.2 := by
  induction m with
  | nil => exact absurd he (by simp)
  | cons a m ih =>
    obtain ⟨hhead, htail⟩ := List.pairwise_cons.mp h
    rcases List.mem_cons.mp he with rfl | hmem
    · simp [SMap.get?]
    · have hne : a.1 ≠ e.1 := Nat.ne_of_lt (hhead e hmem)
      obtain ⟨j, v⟩ := a
      simp only [SMap.get?, if_neg hne]
      exact ih htail hmem

theorem SMap.mem_put {α : Type} {m : SMap α} {k : Nat} {v : α} {e : Nat × α} (h : e ∈ m.put k v) : e = (k, v) ∨ e ∈ m := by
  induction m with
  | nil => exact .inl (List.mem_singleton.mp h)
  | cons a m ih =>
    obtain ⟨j, u⟩ := a
    unfold SMap.put at h
    split at h
    · exact List.mem_cons.mp h
    · split at h
      · exact (List.mem_cons.mp h).imp_right (List.mem_cons_of_mem _)
      · rcases List.mem_cons.mp h with rfl | h
        · exact .inr (List.mem_cons_self ..)
        · exact (ih h).imp_right (List.mem_cons_of_mem _)

theorem SMap.put_sorted {α : Type} {m : SMap α} (h : m.Pairwise (fun a b => a.1 < b.1)) (k : Nat) (v : α) :
    (m.put k v).Pairwise (fun a b => a.1 < b.1) := by
  induction m with
  | nil => exact List.pairwise_singleton ..
  | cons a m ih =>
    obtain ⟨j, u⟩ := a
    obtain ⟨hhead, htail⟩ := List.pairwise_cons.mp h
    unfold SMap.put
    split
    · rename_i hk
      refine List.pairwise_cons.mpr ⟨fun e he => ?_, h⟩
      rcases List.mem_cons.mp he with rfl | he
      · exact hk
      · exact hk.trans (hhead e he)
    · split
      · rename_i hk
        exact List.pairwise_cons.mpr ⟨fun e he => hk ▸ hhead e he, htail⟩
      · rename_i hlt hne
        refine List.pairwise_cons.mpr ⟨fun e he => ?_, ih htail⟩
        rcases SMap.mem_put he with rfl | he
        · change j < k
          omega
        · exact hhead e he

/-! Interning (R25). -/

/-- Every handle that a table holds, the other holds with the same owner set. -/
def Holds (t t' : SMap OwnerSet) : Prop := ∀ k x, t.get? k = some x → t'.get? k = some x

theorem handleOf_get {t : SMap OwnerSet} (ht : TableOk t) {x : OwnerSet} {l : Label} (h : handleOf t x = some l) : t.get? l.toNat = some x := by
  obtain ⟨e, he, rfl⟩ := Option.map_eq_some_iff.mp h
  have hmem := List.mem_of_find?_eq_some he
  have hx : e.2 = x := by simpa using List.find?_some he
  have hlt := ht.bound e hmem
  rw [BitVec.toNat_ofNat, Nat.mod_eq_of_lt hlt, SMap.get?_of_mem ht.sorted hmem, hx]

theorem TableOk.put {t : SMap OwnerSet} (ht : TableOk t) {f : Nat} (hf : t.get? f = none) (hlt : f < 256) (x : OwnerSet) :
    TableOk (t.put f x) ∧ Holds t (t.put f x) := by
  have hholds : Holds t (t.put f x) := fun k y hy => by
    have hne : k ≠ f := by rintro rfl; simp [hf] at hy
    rw [SMap.get?_put_ne _ _ hne, hy]
  refine ⟨⟨SMap.put_sorted ht.sorted f x, fun e he => ?_, hholds _ _ ht.bottom, hholds _ _ ht.top⟩, hholds⟩
  rcases SMap.mem_put he with rfl | he
  · exact hlt
  · exact ht.bound e he

/-- A set's handle holds it, and the handles there were stay. -/
theorem internSet_holds {t t' : SMap OwnerSet} (ht : TableOk t) {x : OwnerSet} {l : Label} (h : internSet t x = some (l, t')) :
    TableOk t' ∧ Holds t t' ∧ t'.get? l.toNat = some x := by
  unfold internSet at h
  split at h
  · rename_i k hk
    simp only [Option.some.injEq, Prod.mk.injEq] at h
    obtain ⟨rfl, rfl⟩ := h
    exact ⟨ht, fun _ _ hy => hy, handleOf_get ht hk⟩
  · obtain ⟨f, hf, he⟩ := Option.map_eq_some_iff.mp h
    simp only [Prod.mk.injEq] at he
    obtain ⟨rfl, rfl⟩ := he
    have hlt : f < 256 := List.mem_range.mp (List.mem_of_find?_eq_some hf)
    have hfree : t.get? f = none := by simpa using List.find?_some hf
    obtain ⟨hok, hholds⟩ := ht.put hfree hlt x
    exact ⟨hok, hholds, by rw [BitVec.toNat_ofNat, Nat.mod_eq_of_lt hlt, SMap.get?_put_self]⟩

/-! What a label covers. -/

/-- A handle that the table holds covers an owner set; the empty set needs none. -/
def Over (t : SMap OwnerSet) (l : Label) (x : OwnerSet) : Prop := x = 0#64 ∨ ∃ y, t.get? l.toNat = some y ∧ x &&& ~~~y = 0#64

theorem Over.mono {t t' : SMap OwnerSet} {l : Label} {x : OwnerSet} (h : Over t l x) (hh : Holds t t') : Over t' l x :=
  h.imp_right (fun ⟨y, hy, hx⟩ => ⟨y, hh _ _ hy, hx⟩)

/-- What handle 0 covers is empty. -/
theorem Over.of_bottom {t : SMap OwnerSet} (ht : TableOk t) {x : OwnerSet} (h : Over t 0#8 x) (l : Label) : Over t l x := by
  refine .inl (h.elim id (fun ⟨y, hy, hx⟩ => ?_))
  have hy0 : y = 0#64 := Option.some.inj (hy.symm.trans ht.bottom)
  rwa [hy0, show ~~~0#64 = BitVec.allOnes 64 from rfl, BitVec.and_allOnes] at hx

/-- A handle that covers the set of another dominates it. -/
theorem Over.dominates {t : SMap OwnerSet} {l b : Label} {x : OwnerSet} (h : Over t l x) (hb : t.get? b.toNat = some x) : dominatesIn t l b = true := by
  have hx : tableSet t b = x := by simp [tableSet, hb]
  rcases h with h0 | ⟨y, hy, hsub⟩
  · simp [dominatesIn, hx, h0]
  · have hl : tableSet t l = y := by simp [tableSet, hy]
    simp [dominatesIn, hx, hl, hsub]

/-- A handle that covers a set is one whose owners include it. -/
theorem Over.subset {t : SMap OwnerSet} {l : Label} {x : OwnerSet} (h : Over t l x) : x &&& ~~~(tableSet t l) = 0#64 := by
  rcases h with h0 | ⟨y, hy, hsub⟩
  · simp [h0]
  · simpa [tableSet, hy] using hsub

/-! States whose table of VD `v` has grown. -/

/-- The table of VD `v` stays in its form, and keeps the handles that it holds. -/
def Grown (v : Nat) (s t : State) : Prop := TableOk (s.vd v).table → TableOk (t.vd v).table ∧ Holds (s.vd v).table (t.vd v).table

theorem Grown.trans {v : Nat} {s t r : State} (h : Grown v s t) (h' : Grown v t r) : Grown v s r := fun hok =>
  ⟨(h' (h hok).1).1, fun k x hx => (h' (h hok).1).2 k x ((h hok).2 k x hx)⟩

theorem Grown.of_vd {v : Nat} {s t : State} (h : t.vd v = s.vd v) : Grown v s t := fun hok => ⟨h ▸ hok, h ▸ fun _ _ hx => hx⟩

theorem Grown.refl (v : Nat) (s : State) : Grown v s s := Grown.of_vd rfl

theorem intern_grown (v : Nat) (s : State) (k : Nat) (x : OwnerSet) {sat : State → State} (hsat : (sat s).vd v = s.vd v) :
    Grown v s (s.intern k x sat).2 := by
  intro hok
  unfold State.intern
  split
  · rename_i l t' hi
    dsimp only
    split
    · exact Grown.refl v s hok
    · by_cases hk : v = k
      · subst hk
        obtain ⟨hok', hholds, -⟩ := internSet_holds hok hi
        simp only [State.modVd_eq, State.vd_setVd]
        exact ⟨hok', hholds⟩
      · exact Grown.of_vd (by simp [hk]) hok
  · exact Grown.of_vd hsat hok

/-- The handle of an owner set of VD `v` covers what the set includes. -/
theorem intern_over {v : Nat} {s : State} (hok : TableOk (s.vd v).table) {x y : OwnerSet} (hx : x &&& ~~~y = 0#64) {sat : State → State}
    (hsat : (sat s).vd v = s.vd v) : Over ((s.intern v y sat).2.vd v).table (s.intern v y sat).1 x := by
  unfold State.intern
  split
  · rename_i l t' hi
    obtain ⟨-, -, hget⟩ := internSet_holds hok hi
    dsimp only
    split
    · rename_i ht
      exact .inr ⟨y, ht ▸ hget, hx⟩
    · exact .inr ⟨y, by simpa using hget, hx⟩
  · refine .inr ⟨BitVec.allOnes 64, ?_, by simp⟩
    rw [hsat]
    exact hok.top

/-! Joins. -/

/-- A way to join two labels in the VD of warp `w`: it changes label tables and flags alone, and the result covers what either label covers. -/
structure JoinsIn (w : Nat) (J : State → Label → Label → Label × State) : Prop where
  near : ∀ s a b, Near s (J s a b).2
  grown : ∀ v s a b, Grown v s (J s a b).2
  covers : ∀ s a b, TableOk (s.vd (s.warp w).vd).table → ∀ x, Over (s.vd (s.warp w).vd).table a x ∨ Over (s.vd (s.warp w).vd).table b x →
    Over ((J s a b).2.vd (s.warp w).vd).table (J s a b).1 x

theorem subset_or {x a b : OwnerSet} (h : x &&& ~~~a = 0#64 ∨ x &&& ~~~b = 0#64) : x &&& ~~~(a ||| b) = 0#64 := by
  rcases h with h | h <;>
  · apply BitVec.eq_of_getLsbD_eq
    intro i hi
    have hb := congrArg (fun y => y.getLsbD i) h
    simp only [BitVec.getLsbD_and, BitVec.getLsbD_not, hi, decide_true, Bool.true_and, BitVec.getLsbD_zero, BitVec.getLsbD_or] at hb ⊢
    cases hx : x.getLsbD i <;> simp_all

/-- Joins over the cases of R25: equal labels, label 0 on either side, and the handle of the union. -/
theorem joinVd_over {v : Nat} {s : State} (hok : TableOk (s.vd v).table) (a b : Label) {x : OwnerSet}
    (h : Over (s.vd v).table a x ∨ Over (s.vd v).table b x) {sat : State → State} (hsat : (sat s).vd v = s.vd v) :
    Over ((if a = b ∨ b = 0#8 then (a, s) else if a = 0#8 then (b, s) else s.intern v (s.ownersOf v a ||| s.ownersOf v b) sat).2.vd v).table
      (if a = b ∨ b = 0#8 then (a, s) else if a = 0#8 then (b, s) else s.intern v (s.ownersOf v a ||| s.ownersOf v b) sat).1 x := by
  split
  · rename_i hab
    rcases h with h | h
    · exact h
    · rcases hab with rfl | rfl
      · exact h
      · exact h.of_bottom hok a
  · split
    · rename_i ha
      subst ha
      exact h.elim (fun h => h.of_bottom hok b) id
    · exact intern_over hok (subset_or (h.imp Over.subset Over.subset)) hsat

theorem joinVd_grown (v : Nat) (s : State) (k : Nat) (a b : Label) {sat : State → State} (hsat : (sat s).vd v = s.vd v) :
    Grown v s (if a = b ∨ b = 0#8 then (a, s) else if a = 0#8 then (b, s) else s.intern k (s.ownersOf k a ||| s.ownersOf k b) sat).2 := by
  split
  · exact Grown.refl v s
  · split
    · exact Grown.refl v s
    · exact intern_grown v s k _ hsat

theorem setLsat_vd (w : Nat) (s : State) (v : Nat) : (State.setLsat w s).vd v = s.vd v := rfl

theorem join_joinsIn (w : Nat) : JoinsIn w (fun s a b => s.join w a b) :=
  ⟨fun s a b => (join_near s w a b).1, fun v s a b => joinVd_grown v s _ a b (setLsat_vd w s v),
    fun s a b hok _ h => joinVd_over hok a b h (setLsat_vd w s _)⟩

theorem joinQuiet_joinsIn (w : Nat) : JoinsIn w (fun s a b => s.joinQuiet w a b) :=
  ⟨fun s a b => (joinVd_near s _ a b).1, fun v s a b => joinVd_grown v s _ a b rfl, fun _ a b hok _ h => joinVd_over hok a b h rfl⟩

section
variable {w : Nat} {J : State → Label → Label → Label × State}

/-- The join of a list covers what the label that it starts from covers, and what any label of the list does. -/
theorem JoinsIn.fold (hJ : JoinsIn w J) (ls : List Label) (l : Label) (s : State) :
    Near s (ls.foldl (fun (acc : Label × State) l => J acc.2 acc.1 l) (l, s)).2 ∧
    (∀ v, Grown v s (ls.foldl (fun (acc : Label × State) l => J acc.2 acc.1 l) (l, s)).2) ∧
    (TableOk (s.vd (s.warp w).vd).table → ∀ x, (∃ k, (k = l ∨ k ∈ ls) ∧ Over (s.vd (s.warp w).vd).table k x) →
      Over ((ls.foldl (fun (acc : Label × State) l => J acc.2 acc.1 l) (l, s)).2.vd (s.warp w).vd).table
        (ls.foldl (fun (acc : Label × State) l => J acc.2 acc.1 l) (l, s)).1 x) := by
  induction ls generalizing l s with
  | nil =>
    refine ⟨Near.refl s, fun v => Grown.refl v s, fun _ x h => ?_⟩
    obtain ⟨k, hk, hover⟩ := h
    rcases hk with rfl | hk
    · exact hover
    · exact absurd hk (by simp)
  | cons b ls ih =>
    obtain ⟨hnear, hgrown, hover⟩ := ih (J s l b).1 (J s l b).2
    refine ⟨(hJ.near s l b).trans hnear, fun v => (hJ.grown v s l b).trans (hgrown v), fun hok x h => ?_⟩
    have hvd : ((J s l b).2.warp w).vd = (s.warp w).vd := (hJ.near s l b).field Warp.vd (fun _ => rfl) w
    rw [hvd] at hover
    obtain ⟨hok', hholds⟩ := hJ.grown (s.warp w).vd s l b hok
    refine hover hok' x ?_
    obtain ⟨k, hk, hkx⟩ := h
    rcases hk with rfl | hk
    · exact ⟨_, .inl rfl, hJ.covers s k b hok x (.inl hkx)⟩
    · rcases List.mem_cons.mp hk with rfl | hk
      · exact ⟨_, .inl rfl, hJ.covers s l k hok x (.inr hkx)⟩
      · exact ⟨k, .inr hk, hkx.mono hholds⟩

end

theorem joinList_grown (v : Nat) (s : State) (w : Nat) (ls : List Label) : Grown v s (s.joinList w ls).2 := ((join_joinsIn w).fold ls 0#8 s).2.1 v

theorem joinList_over {s : State} {w : Nat} (hok : TableOk (s.vd (s.warp w).vd).table) {ls : List Label} {k : Label} (hk : k ∈ ls) {x : OwnerSet}
    (hx : Over (s.vd (s.warp w).vd).table k x) : Over ((s.joinList w ls).2.vd (s.warp w).vd).table (s.joinList w ls).1 x :=
  ((join_joinsIn w).fold ls 0#8 s).2.2 hok x ⟨k, .inr hk, hx⟩

/-- The join of a lane, quiet in a helper lane (R130). -/
def joinLane (w : Nat) (hs : LaneMask) (f : Nat → List Label) (s : State) (i : Nat) : Label × State :=
  if hasLane hs i then s.joinListQuiet w (f i) else s.joinList w (f i)

theorem joinLane_spec (w : Nat) (hs : LaneMask) (f : Nat → List Label) (s : State) (i : Nat) :
    Near s (joinLane w hs f s i).2 ∧ (∀ v, Grown v s (joinLane w hs f s i).2) ∧
    (TableOk (s.vd (s.warp w).vd).table → ∀ x k, k ∈ f i → Over (s.vd (s.warp w).vd).table k x →
      Over ((joinLane w hs f s i).2.vd (s.warp w).vd).table (joinLane w hs f s i).1 x) := by
  unfold joinLane
  split
  · obtain ⟨hn, hg, ho⟩ := (joinQuiet_joinsIn w).fold (f i) 0#8 s
    exact ⟨hn, hg, fun hok x k hk hx => ho hok x ⟨k, .inr hk, hx⟩⟩
  · obtain ⟨hn, hg, ho⟩ := (join_joinsIn w).fold (f i) 0#8 s
    exact ⟨hn, hg, fun hok x k hk hx => ho hok x ⟨k, .inr hk, hx⟩⟩

/-- The joins of lanes, one after the other. -/
theorem joinLane_fold (w : Nat) (hs : LaneMask) (f : Nat → List Label) (is : List Nat) (m : SMap Label) (s : State) :
    let r := is.foldl (fun (acc : SMap Label × State) i => (acc.1.set 0#8 i (joinLane w hs f acc.2 i).1, (joinLane w hs f acc.2 i).2)) (m, s)
    (∀ v, Grown v s r.2) ∧ (TableOk (s.vd (s.warp w).vd).table → ∀ i x,
      (i ∈ is ∧ (∃ k, k ∈ f i ∧ Over (s.vd (s.warp w).vd).table k x)) ∨ (i ∉ is ∧ Over (s.vd (s.warp w).vd).table (m.get 0#8 i) x) →
      Over (r.2.vd (s.warp w).vd).table (r.1.get 0#8 i) x) := by
  induction is generalizing m s with
  | nil => exact ⟨fun v => Grown.refl v s, fun _ i x h => h.elim (fun h => absurd h.1 (by simp)) (fun h => h.2)⟩
  | cons j is ih =>
    obtain ⟨hnear, hgrown, hover⟩ := joinLane_spec w hs f s j
    obtain ⟨hg, ho⟩ := ih (m.set 0#8 j (joinLane w hs f s j).1) (joinLane w hs f s j).2
    refine ⟨fun v => (hgrown v).trans (hg v), fun hok i x h => ?_⟩
    rw [hnear.field Warp.vd (fun _ => rfl) w] at ho
    obtain ⟨hok', hholds⟩ := hgrown (s.warp w).vd hok
    refine ho hok' i x ?_
    by_cases hi : i ∈ is
    · refine .inl ⟨hi, ?_⟩
      rcases h with ⟨-, k, hk, hx⟩ | ⟨hn, -⟩
      · exact ⟨k, hk, hx.mono hholds⟩
      · exact absurd (List.mem_cons_of_mem _ hi) hn
    · refine .inr ⟨hi, ?_⟩
      rw [SMap.get_set]
      rcases h with ⟨hmem, k, hk, hx⟩ | ⟨hn, hx⟩
      · have hij : i = j := (List.mem_cons.mp hmem).resolve_right hi
        subst hij
        rw [if_pos rfl]
        exact hover hok x k hk hx
      · rw [if_neg (by rintro rfl; exact hn (List.mem_cons_self ..))]
        exact hx.mono hholds

theorem joinLanes_eq (s : State) (w : Nat) (m : LaneMask) (f : Nat → List Label) :
    s.joinLanes w m f = (lanesOf m).foldl (fun (acc : SMap Label × State) i =>
      (acc.1.set 0#8 i (joinLane w (helperLanes s w) f acc.2 i).1, (joinLane w (helperLanes s w) f acc.2 i).2)) ([], s) := rfl

theorem joinLanes_grown (v : Nat) (s : State) (w : Nat) (m : LaneMask) (f : Nat → List Label) : Grown v s (s.joinLanes w m f).2 := by
  rw [joinLanes_eq]
  exact (joinLane_fold ..).1 v

/-- The label of a lane covers what each of the lane's labels covers. -/
theorem joinLanes_over {s : State} {w : Nat} (hok : TableOk (s.vd (s.warp w).vd).table) {m : LaneMask} {f : Nat → List Label} {i : Nat}
    (hi : hasLane m i = true) {k : Label} (hk : k ∈ f i) {x : OwnerSet} (hx : Over (s.vd (s.warp w).vd).table k x) :
    Over ((s.joinLanes w m f).2.vd (s.warp w).vd).table ((s.joinLanes w m f).1.get 0#8 i) x := by
  rw [joinLanes_eq]
  exact (joinLane_fold ..).2 hok i x (.inl ⟨mem_lanesOf.mpr hi, k, hk, hx⟩)

end Sys2Proof.Machine
end

section
/-! SUPPORT. Labels of results (O26; R30, R146): the label of a result covers each label that goes into it, to the end of the step. -/

namespace Sys2Proof.Machine

open Sys2Proof

/-! What follows the joins. -/

/-- From `s` to `t` the table of VD `v` has grown, warp `w` has split no further, and the registers `P` of it keep their labels. -/
structure Follows (w v : Nat) (P : RegName → Prop) (s t : State) : Prop where
  grown : Grown v s t
  splits : (s.warp w).splits = [] → (t.warp w).splits = []
  labels : ∀ g, P g → (t.warp w).labelOf g = (s.warp w).labelOf g

section
variable {w v : Nat} {P Q : RegName → Prop} {s t r : State}

theorem Follows.refl (w v : Nat) (P : RegName → Prop) (s : State) : Follows w v P s s := ⟨Grown.refl v s, id, fun _ _ => rfl⟩

theorem Follows.trans (h : Follows w v P s t) (h' : Follows w v P t r) : Follows w v P s r :=
  ⟨h.grown.trans h'.grown, fun hs => h'.splits (h.splits hs), fun g hg => (h'.labels g hg).trans (h.labels g hg)⟩

theorem Follows.mono (h : Follows w v P s t) (hq : ∀ g, Q g → P g) : Follows w v Q s t := ⟨h.grown, h.splits, fun g hg => h.labels g (hq g hg)⟩

/-- Joins change no register and no split. -/
theorem Follows.of_near (hn : Near s t) (hg : Grown v s t) (w : Nat) (P : RegName → Prop) : Follows w v P s t :=
  ⟨hg, fun hs => (hn.field Warp.splits (fun _ => rfl) w).trans hs, fun g _ => hn.field (fun x => x.labelOf g) (fun _ => by cases g <;> rfl) w⟩

/-- A change of the warp alone. -/
theorem Follows.of_warp (s : State) (x : Warp) (hs : (s.warp w).splits = [] → x.splits = [])
    (hl : ∀ g, P g → x.labelOf g = (s.warp w).labelOf g) : Follows w v P s (s.setWarp w x) :=
  ⟨Grown.of_vd rfl, fun h => (congrArg Warp.splits (State.warp_setWarp ..)).trans (hs h),
    fun g hg => (congrArg (fun x => Warp.labelOf x g) (State.warp_setWarp ..)).trans (hl g hg)⟩

theorem Follows.of_rest (hv : t.vd v = s.vd v) (hw : t.warp w = s.warp w) : Follows w v P s t :=
  ⟨Grown.of_vd hv, fun h => hw ▸ h, fun _ _ => by rw [hw]⟩

theorem Follows.foldl {α : Type} {f : State → α → State} {xs : List α} (h : ∀ s a, a ∈ xs → Follows w v P s (f s a)) (s : State) :
    Follows w v P s (xs.foldl f s) :=
  List.foldlRecOn (motive := fun t : State => Follows w v P s t) _ _ (Follows.refl ..) (fun t ht a ha => ht.trans (h t a ha))

end

theorem joinList_follows (w v : Nat) (P : RegName → Prop) (s : State) (k : Nat) (ls : List Label) : Follows w v P s (s.joinList k ls).2 :=
  Follows.of_near (joinList_near s k ls).1 (joinList_grown v s k ls) w P

theorem join_follows (w v : Nat) (P : RegName → Prop) (s : State) (k : Nat) (a b : Label) : Follows w v P s (s.join k a b).2 :=
  Follows.of_near (join_near ..).1 ((join_joinsIn k).grown v s a b) w P

theorem joinLanes_follows (w v : Nat) (P : RegName → Prop) (s : State) (k : Nat) (m : LaneMask) (f : Nat → List Label) :
    Follows w v P s (s.joinLanes k m f).2 := Follows.of_near (joinLanes_near s k m f).1 (joinLanes_grown v s k m f) w P

theorem setFlags_follows (w v : Nat) (P : RegName → Prop) (s : State) (f : BitVec 8) (l : Label) : Follows w v P s (setFlags s w f l) := by
  unfold setFlags
  split
  · exact Follows.refl ..
  · exact (join_follows w v P s w (s.warp w).flagLabel l).trans (Follows.of_warp _ _ id (fun g _ => by cases g <;> rfl))

section
variable (c : Ctx) (v : Nat) (P : RegName → Prop)

theorem laneFlags_follows (rs : List (Nat × List Word × BitVec 8)) (ls : SMap Label) (s : State) : Follows c.w v P s (laneFlags c rs ls s) := by
  refine Follows.foldl (fun t r _ => ?_) s
  split
  · exact setFlags_follows ..
  · exact Follows.refl ..

/-- Last uses keep tables and splits. -/
theorem killSrc_follows (x : Src) (s : State) : Follows c.w v (fun _ => False) s (killSrc c x s) := by
  have hset : ∀ y : Warp, y.splits = (s.warp c.w).splits → Follows c.w v (fun _ => False) s (s.setWarp c.w y) :=
    fun y hy => Follows.of_warp s y (fun h => hy.trans h) (fun _ h => h.elim)
  cases x with
  | main n => exact hset _ rfl
  | const u => exact Follows.refl ..
  | code n =>
    unfold killSrc
    dsimp only
    split
    · exact hset _ rfl
    · split
      · exact hset _ (by dsimp only; split <;> rfl)
      · exact Follows.refl ..

theorem lastUse_follows (xs : List (Bool × Src)) (s : State) : ∃ t, lastUse c xs s = .ok ((), t) ∧ Follows c.w v (fun _ => False) s t := by
  refine ⟨_, rfl, Follows.foldl (fun t x _ => ?_) s⟩
  split
  · exact killSrc_follows ..
  · exact Follows.refl ..

theorem noteWrite_follows (d : Dst) (k : Nat) (s : State) : Follows c.w v P s (noteWrite s c d k) := by
  unfold noteWrite
  split
  · exact Follows.refl ..
  · refine Follows.of_warp s _ (fun h => ?_) (fun g _ => ?_)
    · dsimp only
      rw [h]
      exact h
    · dsimp only
      split
      · rfl
      · cases g <;> rfl

theorem capture_follows (latch : Nat) (lanes : SMap Reg) (s : State) : Follows c.w v P s (capture c latch lanes s) := Follows.of_rest rfl rfl

theorem keptLanes_follows (w : W0) (off : LaneMask) (s : State) : Follows c.w v P s (keptLanes c w off s).2 := by
  unfold keptLanes
  dsimp only
  split
  · exact joinLanes_follows ..
  · exact (joinLanes_follows ..).trans (Follows.of_rest rfl rfl)

end

/-! The labels of a destination's registers. -/

theorem putLane_label (x : Warp) (d : Dst) (j i : Nat) (r : Reg) (hi : i < 32) (g : RegName) :
    (putLane x d j i r).labelOf g = if d.name j i = some g then r.lbl else x.labelOf g := by
  cases d with
  | none => simp [putLane, Dst.name]
  | o m =>
    cases g with
    | o n k =>
      by_cases hk : k < 32
      · have hkey : 32 * n + k = 32 * (m + j) + i ↔ m + j = n ∧ i = k := by omega
        simp [putLane, Dst.name, Warp.labelOf, laneReg, hk, SMap.get_set, hkey, apply_ite Reg.lbl]
      · have hne : ¬ (m + j = n ∧ i = k) := by omega
        simp [Dst.name, Warp.labelOf, laneReg, hk, hne]
    | v n k => simp [putLane, Dst.name, Warp.labelOf]
    | s n => simp [putLane, Dst.name, Warp.labelOf]
  | v m =>
    cases g with
    | v n k =>
      by_cases hk : k < 32
      · have hkey : 32 * n + k = 32 * (m + j) + i ↔ m + j = n ∧ i = k := by omega
        simp [putLane, Dst.name, Warp.labelOf, laneReg, hk, SMap.get_set, hkey, apply_ite Reg.lbl]
      · have hne : ¬ (m + j = n ∧ i = k) := by omega
        simp [Dst.name, Warp.labelOf, laneReg, hk, hne]
    | o n k => simp [putLane, Dst.name, Warp.labelOf]
    | s n => simp [putLane, Dst.name, Warp.labelOf]
  | u m =>
    cases g with
    | s n =>
      have hkey : n = m + j ↔ m + j = n := eq_comm
      simp [putLane, Dst.name, Warp.labelOf, setPad_get, hkey, apply_ite Reg.lbl]
    | o n k => simp [putLane, Dst.name, Warp.labelOf]
    | v n k => simp [putLane, Dst.name, Warp.labelOf]

theorem putLane_splits (x : Warp) (d : Dst) (j i : Nat) (r : Reg) : (putLane x d j i r).splits = x.splits := by cases d <;> rfl

/-- A register of lanes is one lane's. -/
theorem Dst.name_lane {d : Dst} (hd : d.uniform = false) {j i k : Nat} {g : RegName} (h : d.name j i = some g) (h' : d.name j k = some g) : k = i := by
  cases d with
  | u n => cases hd
  | none => cases h
  | o n =>
    obtain rfl := Option.some.inj h
    exact (RegName.o.inj (Option.some.inj h')).2
  | v n =>
    obtain rfl := Option.some.inj h
    exact (RegName.v.inj (Option.some.inj h')).2

/-- One register per lane: the label of a lane's register is the lane's. -/
theorem putLanes_label (x : Warp) {d : Dst} {m : LaneMask} (val : Nat → List Word) (lbl : Nat → Label) {i : Nat} (hi : hasLane m i = true)
    (hd : d.uniform = false) {g : RegName} (hg : d.name 0 i = some g) : (putLanes x d 1 m val lbl).labelOf g = lbl i := by
  have h : ∀ is : List Nat, (∀ k ∈ is, k < 32) → ∀ x : Warp, (i ∈ is ∨ x.labelOf g = lbl i) →
      (is.foldl (fun x i => (List.range 1).foldl (fun x j => putLane x d j i ⟨((val i)[j]?).getD 0#32, lbl i, false, false⟩) x) x).labelOf g = lbl i := by
    intro is
    induction is with
    | nil => exact fun _ x h => h.resolve_left (by simp)
    | cons k is ih =>
      intro hk x h
      refine ih (fun l hl => hk l (List.mem_cons_of_mem _ hl)) _ ?_
      have hput := putLane_label x d 0 k ⟨((val k)[0]?).getD 0#32, lbl k, false, false⟩ (hk k List.mem_cons_self) g
      by_cases hki : d.name 0 k = some g
      · have hik := Dst.name_lane hd hg hki
        subst hik
        rw [if_pos hki] at hput
        exact .inr hput
      · rw [if_neg hki] at hput
        rcases h with h | h
        · refine .inl ((List.mem_cons.mp h).resolve_left ?_)
          rintro rfl
          exact hki hg
        · exact .inr (hput.trans h)
  exact h _ (fun k hk => lanesOf_lt hk) x (.inl (mem_lanesOf.mpr hi))

theorem putUniform_label (x : Warp) (d : Dst) (val : Nat → List Word) (lbl : Nat → Label) {g : RegName} (hg : d.name 0 0 = some g) :
    (putLanes x d 1 1#32 val lbl).labelOf g = lbl 0 := by
  have hlanes : lanesOf 1#32 = [0] := by decide
  simp [putLanes, hlanes, putLane_label, hg]

theorem putLanes_splits (x : Warp) (d : Dst) (n : Nat) (m : LaneMask) (val : Nat → List Word) (lbl : Nat → Label) :
    (putLanes x d n m val lbl).splits = x.splits :=
  foldl_keeps Warp.splits _ (fun x _ => foldl_keeps Warp.splits _ (fun x j => putLane_splits x d j _ _) _ x) _ x

section
variable (c : Ctx) (v : Nat)

/-- PFX.K's label goes into the lanes that are off alone. -/
theorem joinOff_follows {d : Dst} (hd : d.uniform = false) {i : Nat} (hi : hasLane (c.act &&& ~~~c.on) i = false) {g : RegName}
    (hg : d.name 0 i = some g) (s : State) : Follows c.w v (· = g) s (joinOff c d 1 s) := by
  unfold joinOff
  split
  · exact Follows.refl ..
  · rename_i k _ _
    refine Follows.foldl (fun t l hl => ?_) s
    refine (join_follows c.w v (· = g) t c.w (getLane (t.warp c.w) d 0 l).lbl k).trans (Follows.of_warp _ _ (fun h => ?_) ?_)
    · exact (putLane_splits ..).trans h
    · rintro _ rfl
      refine (putLane_label _ d 0 l _ (lanesOf_lt hl) _).trans (if_neg (fun hn => ?_))
      rw [Dst.name_lane hd hg hn] at hl
      rw [mem_lanesOf, hi] at hl
      cases hl

/-- The lanes' results are written with their labels, and what comes after keeps them. -/
theorem writeLanes_label {w : W0} (hw : w.wbs = false) {d : Dst} (hd : d.uniform = false) {m : LaneMask} (val : Nat → List Word) (lbl : Nat → Label)
    {i : Nat} (hm : hasLane m i = true) (hi : hasLane c.on i = true) {g : RegName} (hg : d.name 0 i = some g) (s : State) :
    ∃ t, writeLanes c w d 1 m val lbl s = .ok ((), t) ∧ Follows c.w v (fun _ => False) s t ∧ (t.warp c.w).labelOf g = lbl i := by
  have hoff : hasLane (c.act &&& ~~~c.on) i = false := by
    have hon : c.on.getLsbD i = true := hi
    simp [hasLane, hon]
  have hnone : d ≠ .none := by rintro rfl; cases hg
  have hnote : Follows c.w v (fun _ => False) s (if m = 0#32 then s else noteWrite s c d 1) := by
    split
    · exact Follows.refl ..
    · exact noteWrite_follows ..
  generalize hs1 : (if m = 0#32 then s else noteWrite s c d 1) = s1 at hnote
  have hput : Follows c.w v (fun _ => False) s1 (s1.modWarp c.w (fun x => putLanes x d 1 m val lbl)) :=
    Follows.of_warp s1 _ (fun h => (putLanes_splits ..).trans h) (fun _ h => h.elim)
  have hlabel : ((s1.modWarp c.w (fun x => putLanes x d 1 m val lbl)).warp c.w).labelOf g = lbl i := by
    rw [State.modWarp_eq, State.warp_setWarp]
    exact putLanes_label _ val lbl hm hd hg
  have hjoin := joinOff_follows c v hd hoff hg (s1.modWarp c.w (fun x => putLanes x d 1 m val lbl))
  have hafter : ∀ r : State, Follows c.w v (· = g) r (capture c w.latch.toNat (laneRegs m val lbl (keptLanes c w (c.act &&& ~~~c.on &&& ~~~m) r).1)
      (keptLanes c w (c.act &&& ~~~c.on &&& ~~~m) r).2) := fun r => (keptLanes_follows ..).trans (capture_follows ..)
  have hres : putResult c d 1 m val lbl s = joinOff c d 1 (s1.modWarp c.w (fun x => putLanes x d 1 m val lbl)) := by
    unfold putResult
    simp only [hs1, if_neg hnone]
  unfold writeLanes
  simp only [hw, Bool.false_eq_true, if_false, M.run_bind, M.upd_bind, hres]
  refine ⟨_, rfl, ?_, ?_⟩
  · exact (hnote.trans hput).trans ((hjoin.trans (hafter _)).mono (fun _ h => h.elim))
  · exact ((hjoin.trans (hafter _)).labels g rfl).trans hlabel

theorem writeUni_label {w : W0} (hw : w.wbs = false) {d : Dst} {vals : List Word} (hn : vals.length = 1) (l : Label) {g : RegName}
    (hg : d.name 0 0 = some g) (s : State) :
    ∃ t, writeUni c w d vals l s = .ok ((), t) ∧ Follows c.w v (fun _ => False) s t ∧ (t.warp c.w).labelOf g = l := by
  have hput : Follows c.w v (fun _ => False) s (putUniform c d vals l s) :=
    (noteWrite_follows c v _ d vals.length s).trans (Follows.of_warp _ _ (fun h => (putLanes_splits ..).trans h) (fun _ h => h.elim))
  have hlabel : ((putUniform c d vals l s).warp c.w).labelOf g = l := by
    unfold putUniform
    rw [State.modWarp_eq, State.warp_setWarp, hn]
    exact putUniform_label _ d _ _ hg
  unfold writeUni
  simp only [hw, Bool.false_eq_true, if_false, M.upd_bind]
  exact ⟨_, rfl, hput.trans (capture_follows ..), hlabel⟩

end

/-! The wrapper of arithmetic. -/

/-- The label of the wrapper's result covers what each label of `extra` covers. -/
theorem aluBody_covers {c : Ctx} {w : W0} {d : Dst} {xs : Srcs} {extra : State → Nat → List Label} {f : LaneFn} {s r : State} {e : Done}
    (hb : aluBody c w d 1 xs extra f s = .ok (e, r)) (hr : Readable s c (xs.map (fun x => x.2)) c.on) (hd : Writable s c d) (hw : w.wbs = false)
    (hok : TableOk (s.vd (s.warp c.w).vd).table) {i : Nat} (hrun : hasLane (if d.uniform then 1#32 else c.run) i = true)
    (hon : d.uniform = true ∨ hasLane c.on i = true) {k : Label} (hk : k ∈ extra s i) {x : OwnerSet} (hx : Over (s.vd (s.warp c.w).vd).table k x)
    {g : RegName} (hg : d.name 0 i = some g) :
    Follows c.w (s.warp c.w).vd (fun _ => False) s r ∧ Over (r.vd (s.warp c.w).vd).table ((r.warp c.w).labelOf g) x := by
  unfold aluBody at hb
  simp only [M.bind_ok (checkDst_ok hd), M.bind_ok (checkSrcs_ok hr), M.st_bind] at hb
  cases hu : d.uniform with
  | true =>
    have hi : i = 0 := by
      rw [hu, if_pos rfl] at hrun
      by_contra hne
      simp [hasLane, BitVec.getLsbD_one, hne] at hrun
    subst hi
    simp only [hu, if_true, M.run_bind, M.upd_bind] at hb
    have hjoin := joinList_follows c.w (s.warp c.w).vd (fun _ => False) s c.w (xs.map (fun x => srcLbl s c x.2 0) ++ extra s 0 ++ [c.sub.maskLabel])
    have hover := joinList_over hok (ls := xs.map (fun x => srcLbl s c x.2 0) ++ extra s 0 ++ [c.sub.maskLabel]) (by simp [hk]) hx
    generalize s.joinList c.w (xs.map (fun x => srcLbl s c x.2 0) ++ extra s 0 ++ [c.sub.maskLabel]) = l at hb hjoin hover
    have hflags := setFlags_follows c.w (s.warp c.w).vd (fun _ => False) l.2 (f s 0 (laneVals s c xs 0)).2 l.1
    obtain ⟨t1, h1, hf1⟩ := lastUse_follows c (s.warp c.w).vd xs (setFlags l.2 c.w (f s 0 (laneVals s c xs 0)).2 l.1)
    obtain ⟨t2, h2, hf2, hlabel⟩ := writeUni_label c (s.warp c.w).vd hw
      (vals := (List.range 1).map (fun j => ((f s 0 (laneVals s c xs 0)).1[j]?).getD 0#32)) (by simp) l.1 hg t1
    rw [M.bind_ok h1, M.bind_ok h2] at hb
    obtain rfl : t2 = r := by simpa using congrArg Prod.snd (Except.ok.inj hb)
    have htail := (hflags.trans hf1).trans hf2
    exact ⟨hjoin.trans htail, hlabel ▸ hover.mono (htail.grown (hjoin.grown hok).1).2⟩
  | false =>
    have hlane : hasLane c.on i = true := hon.resolve_left (by simp [hu])
    have hr' : hasLane c.run i = true := by simpa [hu] using hrun
    have hjoin := joinLanes_follows c.w (s.warp c.w).vd (fun _ => False) s c.w c.run
      (fun i => xs.map (fun x => srcLbl s c x.2 i) ++ extra s i ++ [pathIn s c.w c.on i] ++ c.kl)
    have hover := joinLanes_over hok (f := fun i => xs.map (fun x => srcLbl s c x.2 i) ++ extra s i ++ [pathIn s c.w c.on i] ++ c.kl) hr'
      (by simp [hk]) hx
    have hls : laneLabels c xs extra s = .ok (s.joinLanes c.w c.run
      (fun i => xs.map (fun x => srcLbl s c x.2 i) ++ extra s i ++ [pathIn s c.w c.on i] ++ c.kl)) := rfl
    generalize s.joinLanes c.w c.run (fun i => xs.map (fun x => srcLbl s c x.2 i) ++ extra s i ++ [pathIn s c.w c.on i] ++ c.kl) = l at hls hjoin hover
    simp only [hu, Bool.false_eq_true, if_false, M.bind_ok hls, M.upd_bind] at hb
    have hflags := laneFlags_follows c (s.warp c.w).vd (fun _ => False)
      ((lanesOf c.run).map (fun i => (i, f s i (laneVals s c xs i)))) l.1 l.2
    obtain ⟨t1, h1, hf1⟩ := lastUse_follows c (s.warp c.w).vd xs (laneFlags c ((lanesOf c.run).map (fun i => (i, f s i (laneVals s c xs i)))) l.1 l.2)
    obtain ⟨t2, h2, hf2, hlabel⟩ := writeLanes_label c (s.warp c.w).vd hw hu
      (fun i => SMap.get [] (((lanesOf c.run).map (fun i => (i, f s i (laneVals s c xs i)))).map (fun r => (r.1, r.2.1))) i) (fun i => l.1.get 0#8 i)
      hr' hlane hg t1
    rw [M.bind_ok h1, M.bind_ok h2] at hb
    obtain rfl : t2 = r := by simpa using congrArg Prod.snd (Except.ok.inj hb)
    have htail := (hflags.trans hf1).trans hf2
    exact ⟨hjoin.trans htail, hlabel ▸ hover.mono (htail.grown (hjoin.grown hok).1).2⟩

end Sys2Proof.Machine
end

section
/-! SUPPORT. Labels raised and checked (O26; R181, R182). -/

namespace Sys2Proof.Machine

open Sys2Proof

/-! Checks that have passed. -/

theorem trapIf_passed {c : Ctx} {b : Bool} {k : Nat} {m : LaneMask} {s t : State} {a : Unit} (h : trapIf c b k m s = .ok (a, t)) : b = false := by
  cases b with
  | false => rfl
  | true => simp [trapIf, trap, M.stop] at h

/-- Sources whose checks have passed can be read. -/
theorem readable_of_checkSrcs {c : Ctx} {xs : List Src} {m : LaneMask} {s t : State} {a : Unit} (h : checkSrcs c xs m s = .ok (a, t)) :
    Readable s c xs m := by
  unfold checkSrcs at h
  rw [M.st_bind] at h
  obtain ⟨_, s1, h1, h⟩ := M.bind_split h
  obtain ⟨_, s2, h2, h3⟩ := M.bind_split h
  have hmain := List.any_eq_false.mp (trapIf_passed h1)
  have hlatch := List.any_eq_false.mp (trapIf_passed h2)
  have hclean := trapIf_passed h3
  simp only [bne_eq_false_iff_eq] at hclean
  refine ⟨fun n hn => by simpa [badMainSrc, badMain] using hmain _ hn, fun x hx => by simpa using hlatch x hx, fun i x hl hx => ?_⟩
  have hi : i < 32 := lanesOf_lt (mem_lanesOf.mpr hl)
  have hbit := congrArg (fun b => b.getLsbD i) hclean
  simp only [getLsbD_maskOf _ hi, hl, Bool.true_and, BitVec.getLsbD_zero, List.any_eq_false] at hbit
  simpa using hbit x hx

theorem checkHandles_state {c : Ctx} {d : Dst} {b : Src} {s t : State} {a : Unit} (h : checkHandles c d b s = .ok (a, t)) : t = s := by
  unfold checkHandles at h
  rw [M.st_bind] at h
  exact trapIf_state h

/-! The end of the step. -/

theorem arriveCheck_whole {s : State} {w : Nat} (h : (s.warp w).splits = []) (i : SubId) : arriveCheck s w i = s := by
  have hone : arriveOne s w i = s := by
    unfold arriveOne
    split
    · rw [h]
      rfl
    · rfl
  unfold arriveCheck
  rw [hone]
  unfold wakeSyncs
  rw [h]
  rfl

theorem makeReady_follows (w v : Nat) (P : RegName → Prop) (s : State) (u : SubWarp) : Follows w v P s (makeReady s w u) :=
  Follows.trans (t := { s with stamp := s.stamp + 1 }) (Follows.of_rest rfl rfl) (Follows.of_warp _ _ id (fun g _ => by cases g <;> rfl))

/-- A warp that has not split keeps its labels to the end of the step, as does the table. -/
theorem complete_follows {p : Pfx} {r : State} {u : SubWarp} {w : Nat} (hw : r.cur.warp = w) (hs : (r.warp w).splits = []) (v : Nat)
    (P : RegName → Prop) : Follows w v P r (complete p r u .next) := by
  subst hw
  have hcount : Follows r.cur.warp v P r (r.counted p) := by
    unfold State.counted
    split
    · exact Follows.of_warp r _ id (fun g _ => by cases g <;> rfl)
    · exact Follows.refl ..
  have hcur : (r.counted p).cur = r.cur := by
    unfold State.counted
    split <;> rfl
  have hadvance : Follows r.cur.warp v P (r.counted p) (if (r.counted p).cur.pair = 1 then r.counted p else advance (r.counted p) u .next) := by
    split
    · exact Follows.refl ..
    · unfold advance
      dsimp only
      split
      · exact Follows.refl ..
      · split
        · exact Follows.refl ..
        · rename_i x _ _
          have hready := makeReady_follows r.cur.warp v P (r.counted p) { x with pc := (r.counted p).cur.next, matched := false }
          rw [hcur] at hready ⊢
          rw [arriveCheck_whole (hready.splits (hcount.splits hs))]
          exact hready
  exact (hcount.trans hadvance).trans (Follows.of_rest rfl rfl)

/-! LRAISE (R181). -/

theorem lraiseChecks_passed {c : Ctx} {d : Dst} {a b : Src} {s t : State} {e : Unit} (h : lraiseChecks c d a b s = .ok (e, t)) :
    t = s ∧ Readable s c [a, b] c.on ∧ Writable s c d := by
  unfold lraiseChecks at h
  obtain ⟨_, s1, h1, h⟩ := M.bind_split h
  obtain ⟨_, s2, h2, h3⟩ := M.bind_split h
  have hs1 := checkSrcs_state h1
  have hs2 := checkHandles_state h2
  have hs3 := checkDst_state h3
  subst hs1 hs2 hs3
  exact ⟨rfl, readable_of_checkSrcs h1, writable_of_checkDst h3⟩

/-- The handle given is one that the table holds: a value that names none gives handle 0 (R23). -/
theorem handleIn_held {s : State} {c : Ctx} (hok : TableOk (s.vd c.vd).table) (b : Src) (i : Nat) :
    ∃ x, (s.vd c.vd).table.get? (handleIn s c b i).toNat = some x := by
  unfold handleIn
  split
  · rename_i hv
    simp only [validHandle, Bool.and_eq_true, decide_eq_true_eq] at hv
    obtain ⟨hle, hget⟩ := hv
    obtain ⟨x, hx⟩ := Option.isSome_iff_exists.mp hget
    refine ⟨x, ?_⟩
    have hn : (field (srcVal s c b i) 0 8).toNat = (srcVal s c b i).toNat := by
      simp only [field, BitVec.extractLsb'_toNat, Nat.shiftRight_zero]
      omega
    rw [hn, hx]
  · exact ⟨_, hok.bottom⟩

/-- What the body of LRAISE leaves, before the end of the step. -/
structure LraiseDone (c : Ctx) (w : W0) (d : Dst) (a b : Src) (s r : State) : Prop where
  kept : Kept c.w (aluNames c w d 1) noMask s r
  has : w.wbs = false → ∀ i, hasLane (if d.uniform then 1#32 else c.run) i = true → d.has (r.warp c.w) 0 i (srcVal s c a i)
  labels : w.wbs = false → TableOk (s.vd c.vd).table → ∀ i, hasLane (if d.uniform then 1#32 else c.run) i = true →
    (d.uniform = true ∨ hasLane c.on i = true) → ∀ g, d.name 0 i = some g → ∀ x, Over (s.vd c.vd).table (handleIn s c b i) x →
    Follows c.w c.vd (fun _ => False) s r ∧ Over (r.vd c.vd).table ((r.warp c.w).labelOf g) x

/-- LRAISE is the wrapper at the first source's value, with the handle given among the labels. -/
theorem lraiseBody_ok {c : Ctx} {w : W0} {d : Dst} {a b : Bool × Src} {s t : State} {e : Unit} (hvd : (s.warp c.w).vd = c.vd)
    (h : lraiseChecks c d a.2 b.2 s = .ok (e, t)) : ∃ r, lraiseBody c w d a b s = .ok (.next, r) ∧ LraiseDone c w d a.2 b.2 t r := by
  obtain ⟨ht, hread, hwrite⟩ := lraiseChecks_passed h
  subst ht
  obtain ⟨r, hr, hk, -, hval⟩ := aluBody_ok c w d 1 [a, b] (fun s i => [handleIn s c b.2 i]) (fun _ _ v => ([at' v 0], 0#8)) t hread hwrite
  simp only [raised_zero] at hk
  refine ⟨r, (M.bind_ok h).trans hr, hk, fun hw i hi => hval hw 0 i (by omega) hi, fun hw hok i hi hon g hg x hx => ?_⟩
  rw [← hvd] at hok hx ⊢
  exact aluBody_covers hr hread hwrite hw hok hi hon (List.mem_singleton.mpr rfl) hx hg

/-- What the body of LRAISE leaves stands after the step. -/
theorem LraiseDone.raises {p : Pfx} {u : SubWarp} {c : Ctx} {w : W0} {d : Dst} {a b : Src} {s r : State} (h : LraiseDone c w d a b s r)
    (hcur : r.cur.warp = c.w) : Raises c w d a b s (complete p r u .next) := by
  intro hw i hi
  refine ⟨Dst.has_after (complete_kept p r u .next hcur) (h.has hw i hi), fun hok hsplits hon g hg => ?_⟩
  obtain ⟨x, hx⟩ := handleIn_held hok b i
  obtain ⟨hfollows, hcovers⟩ := h.labels hw hok i hi hon g hg x (.inr ⟨x, hx, by simp⟩)
  have hend := complete_follows (p := p) (u := u) hcur (hfollows.splits hsplits) c.vd (fun _ => True)
  have hheld := ((hfollows.grown.trans hend.grown) hok).2 _ _ hx
  have hlabel := hend.labels g trivial
  rw [hlabel]
  exact (hcovers.mono (hend.grown (hfollows.grown hok).1).2).dominates hheld

theorem does_lraise {i : Instr} {p : Pfx} {w : W0} {d : Dst} {a b : Bool × Src}
    (he : ∀ s, exec i s = issue p true s (fun c => lraiseBody c w d a b)) :
    Does i p (fun c => lraiseChecks c d a.2 b.2) (fun _ _ s => s) (fun c _ => aluNames c w d 1) (fun _ _ => noMask)
      (fun c _ s t => Raises c w d a.2 b.2 s t) := by
  intro s u e s1 hpass
  obtain ⟨s0, h0, h1⟩ := hpass.split
  obtain ⟨hnear0, -, hk0⟩ := checkPfx_near h0
  have hnear := (takeLatches_near s u).trans hnear0
  obtain ⟨r, hr, hraised⟩ := lraiseBody_ok (w := w) (hnear.field Warp.vd (fun _ => rfl) _) h1
  have hs1 := (lraiseChecks_passed h1).1
  subst hs1
  have hcur : r.cur.warp = s.cur.warp := congrArg Current.warp ((State.rest_eq_cur hraised.kept.state).trans hnear.cur)
  have hafter := complete_kept p r u .next hcur
  refine ⟨(takeLatches_kept _ _ _ s u).trans hk0, complete p r u .next, ⟨(he s).trans (issue_ok hpass.1 h0 hr), rfl⟩, ?_, hraised.raises hcur⟩
  exact (hraised.kept.counted (congrArg Current.warp hnear.cur) p).trans (hafter.mono (fun _ h => h.elim) (fun _ h => h.elim))

/-! LCHK (R182). -/

theorem lchkLabels_ok (c : Ctx) (a : Src) (extra : List Label) (s : State) :
    ∃ ls t, lchkLabels c a extra s = .ok (ls, t) ∧ Near s t ∧ Kept c.w noReg noMask s t :=
  ⟨_, _, rfl, (joinLanes_near ..).1, joinLanes_kept ..⟩

theorem lchkChecks_passed {c : Ctx} {a b : Src} {s t : State} {e : Unit} (h : lchkChecks c a b s = .ok (e, t)) :
    Near s t ∧ Kept c.w noReg noMask s t := by
  unfold lchkChecks at h
  obtain ⟨_, s1, h1, hrest⟩ := M.bind_split h
  obtain ⟨_, s2, h2, hlast⟩ := M.bind_split hrest
  have hs1 := checkSrcs_state h1
  have hs2 := checkHandles_state h2
  subst hs1 hs2
  obtain ⟨ls, r, hls, hnear, hk⟩ := lchkLabels_ok c a c.kl s2
  rw [M.bind_ok hls, M.st_bind] at hlast
  rw [requireDomAt_state hlast]
  exact ⟨hnear, hk⟩

theorem lchkBits_passed {c : Ctx} {a b : Src} {s t : State} {bits : LaneMask} (h : lchkBits c a b s = .ok (bits, t)) :
    Near s t ∧ Kept c.w noReg noMask s t := by
  unfold lchkBits at h
  obtain ⟨_, s1, h1, hrest⟩ := M.bind_split h
  obtain ⟨_, s2, h2, hlast⟩ := M.bind_split hrest
  have hs1 := checkSrcs_state h1
  have hs2 := checkHandles_state h2
  subst hs1 hs2
  obtain ⟨ls, r, hls, hnear, hk⟩ := lchkLabels_ok c a [] s2
  rw [M.bind_ok hls, M.st_bind] at hlast
  obtain rfl : r = t := congrArg Prod.snd (Except.ok.inj hlast)
  exact ⟨hnear, hk⟩

/-- LCHK that passes changes nothing, and its sub-warp goes on. -/
theorem does_lchk {i : Instr} {p : Pfx} {a b : Bool × Src} (he : ∀ s, exec i s = issue p true s (fun c => lchkBody c a b)) :
    Does i p (fun c => lchkChecks c a.2 b.2) (fun _ _ s => s) (fun _ _ => noReg) (fun _ _ => noMask) (fun c _ s t => GoesOn c s t) := by
  refine does_next he (fun _ _ _ => rfl) (fun c s e s1 h => lchkChecks_passed h) (fun c s e s1 h => ?_)
  obtain ⟨r, hr, hk, hsubs⟩ := lastUse_runs c [a, b] s1
  refine ⟨r, ?_, hk, fun t ht => ht.goesOn hsubs⟩
  unfold lchkBody
  rw [M.bind_ok h, M.bind_ok hr]
  rfl

/-- LCHK.k writes its outcome in the bits of the lanes that are on. -/
theorem does_lchkK {i : Instr} {p : Pfx} {w : W0} {a b : Bool × Src} (he : ∀ s, exec i s = issue p true s (fun c => lchkKBody c w a b)) :
    Does i p (fun c => lchkBits c a.2 b.2) (fun _ _ s => s) (fun _ _ => noReg) (fun _ _ => maskMarks w (field w.d 0 3).toNat 0#8)
      (fun c bits s t => w.wbs = false → (t.warp c.w).mask (field w.d 0 3).toNat =
        ((s.warp c.w).mask (field w.d 0 3).toNat &&& ~~~c.on) ||| (bits &&& c.on)) := by
  refine does_next he (fun _ _ _ => rfl) (fun c s bits s1 h => lchkBits_passed h) (fun c s bits s1 h => ?_)
  obtain ⟨ls, r1, h1, hk1⟩ := laneLabels_kept c noReg noMask [a, b] (fun _ _ => []) s1
  obtain ⟨r2, h2, hk2⟩ := lastUse_kept c noReg noMask [a, b] r1
  obtain ⟨r3, h3, hk3, hmask⟩ := writeCompare_ok c noReg w (field w.d 0 3).toNat c.on bits (fun i => ls.get 0#8 i) r2
  have hk := hk1.trans hk2
  refine ⟨r3, ?_, (hk.mono (fun _ h => h) (fun _ h => h.elim)).trans hk3, fun t ht hw => ?_⟩
  · unfold lchkKBody
    rw [M.bind_ok h, M.bind_ok h1, M.bind_ok h2, M.bind_ok h3]
    rfl
  · rw [mask_after ht.kept, hmask hw, hk.masks _ (fun h => h)]

/-- Settles O26: LRAISE's label covers the handle given to the end of the step (`aluBody_covers`, `complete_follows`); LCHK's checks change labels
alone, and LCHK.k writes the bits that they found. -/
theorem labelRaisesAndChecks : Obligations.LabelRaisesAndChecks := by
  unfold Obligations.LabelRaisesAndChecks
  refine ⟨fun p w h => does_lraise (a := (w.luA, .code w.a)) (b := (w.luB, .code w.b)) (fun s => ?_),
    fun p w x h => does_lraise (a := (w.luA, srcA w x)) (fun s => ?_),
    fun p w h => does_lchk (a := (w.luA, .code w.a)) (b := (w.luB, .code w.b)) (fun s => ?_),
    fun p w x h => does_lchk (a := (w.luA, srcA w x)) (fun s => ?_),
    fun p w h => does_lchkK (a := (w.luA, .code w.a)) (b := (w.luB, .code w.b)) (fun s => ?_),
    fun p w x h => does_lchkK (a := (w.luA, srcA w x)) (fun s => ?_)⟩
  · change execLraise32 p w s = _; unfold execLraise32; rw [h]
  · change execLraise64 p w x s = _; unfold execLraise64; rw [h]
  · change execLchk32 p w s = _; unfold execLchk32; rw [h]
  · change execLchk64 p w x s = _; unfold execLchk64; rw [h]
  · change execLchkK32 p w s = _; unfold execLchkK32; rw [h]
  · change execLchkK64 p w x s = _; unfold execLchkK64; rw [h]

end Sys2Proof.Machine
end

section
/-! SUPPORT. The refutations of O28, O29, O31, O32 and O47: accesses to a page on a die that the state does not list. -/

namespace Sys2Proof.Machine

open Sys2Proof

/-! Each statement has a clause of the shape `Does`, whose `Kept` compares the list of dies before and after the checks, on every state. Step 5
of R188 touches the frame of each global access (R374), which lists the frame's die at reset where the state does not (`setPad`), as at O27. -/

/-- Whether checks pass, after those of the prefixes, for a group without PFX words, and leave another number of dies. -/
def changesDieCount {α : Type} (s : State) (u : SubWarp) (chk : Ctx → M α) : Bool :=
  match (do checkPfx (mkCtx s u Pfx.none) Pfx.none; chk (mkCtx s u Pfx.none) : M α) (takeLatches s u) with
  | .ok x => x.2.dies.length != s.dies.length
  | .error _ => false

/-- An instruction whose checks pass on some state and leave another number of dies does not keep what its statement says. -/
theorem not_does_of_changesDieCount {α : Type} {i : Instr} {chk : Ctx → M α} {E : Ctx → α → State → State} {P : Ctx → α → RegName → Prop}
    {K : Ctx → α → Marks} {R : Ctx → α → State → State → Prop} {s : State} {u : SubWarp} (hissuer : s.issuer = some u)
    (hchanges : changesDieCount s u chk = true) : ¬ Does i Pfx.none chk E P K R := by
  intro hdoes
  unfold changesDieCount at hchanges
  split at hchanges
  case h_1 x hrun =>
    obtain ⟨hkept, -⟩ := hdoes s u x.1 x.2 ⟨hissuer, hrun⟩
    simp [hkept.dies_length] at hchanges
  case h_2 => simp at hchanges

/-- The first word of an access at the address in o0 and o1, both zero on `oneDie`, where die 1's data page begins. -/
def accessW0 : W0 := ⟨0#2, false, false, false, 0#6, 0#6, 0#6⟩

/-- BARW's word: the address in s0 and s1, the phase in s0, all zero on `oneDie`. -/
def barwW0 : W0 := { accessW0 with a := 24#6, b := 24#6 }

/-- The second word with size .b32 and offset 0. -/
def accessW1 : W1 := ⟨4#16, 0#2, 0#8, 0#6⟩

theorem ldChecks_changesDieCount :
    changesDieCount oneDie oneDieSub (fun c => loadChecks c (Dst.ofCode accessW0.d) false (sizeBytes 4) (.code accessW0.a) (wordOff accessW0.b)) =
      true := by
  decide +kernel

theorem stChecks_changesDieCount :
    changesDieCount oneDie oneDieSub (fun c => storeChecks c false 4 (.code accessW0.a) (.code accessW0.b) (wordOff accessW0.d)) = true := by
  decide +kernel

theorem ldxChecks_changesDieCount :
    changesDieCount oneDie oneDieSub (fun c => ldxChecks c (dstD accessW0 accessW1) (accessW0.b.getLsbD 4) (sizeBytes (sizeOf' accessW1))
      (srcA accessW0 accessW1) (byteOff accessW1)) = true := by
  decide +kernel

theorem graiseChecks_changesDieCount :
    changesDieCount oneDie oneDieSub (fun c => graiseChecks c (accessW0.d.getLsbD 0) (.code accessW0.a) (.code accessW0.b)) = true := by
  decide +kernel

theorem barwChecks_changesDieCount :
    changesDieCount oneDie oneDieSub (fun c => barwChecks c (barwW0.d.getLsbD 0) (.code barwW0.a) (.code barwW0.b)) = true := by
  decide +kernel

/-- Refutes O28: no hypothesis says that the state lists its nine dies. On `oneDie`, which lists one, the checks of LD at address 0 touch an unscrubbed
frame of die 1, so that a second die at reset stands in the state after them; `Kept` does not allow it. (On a state that lists all nine
dies the touch lists no other.) -/
theorem not_globalAndScratchpadLoads : ¬ Obligations.GlobalAndScratchpadLoads := by
  unfold Obligations.GlobalAndScratchpadLoads
  rintro ⟨hld, -⟩
  exact not_does_of_changesDieCount oneDie_issuer.1 ldChecks_changesDieCount (hld Pfx.none accessW0 (by decide +kernel))

/-- Refutes O29: as at O28, by ST at address 0 on `oneDie`. -/
theorem not_globalAndScratchpadStores : ¬ Obligations.GlobalAndScratchpadStores := by
  unfold Obligations.GlobalAndScratchpadStores
  rintro ⟨hst, -⟩
  exact not_does_of_changesDieCount oneDie_issuer.1 stChecks_changesDieCount (hst Pfx.none accessW0 (by decide +kernel))

/-- Refutes O31: as at O28, by LDX of four bytes at address 0 on `oneDie`. -/
theorem not_splitPhaseLoads : ¬ Obligations.SplitPhaseLoads := by
  unfold Obligations.SplitPhaseLoads
  rintro ⟨hldx, -⟩
  exact not_does_of_changesDieCount oneDie_issuer.1 ldxChecks_changesDieCount (hldx Pfx.none accessW0 accessW1 (by decide +kernel))

/-- Refutes O32: as at O28, by GRAISE of the granule at address 0 on `oneDie`. -/
theorem not_granuleLabelInstructions : ¬ Obligations.GranuleLabelInstructions := by
  unfold Obligations.GranuleLabelInstructions
  rintro ⟨hgraise, -⟩
  exact not_does_of_changesDieCount oneDie_issuer.1 graiseChecks_changesDieCount (hgraise Pfx.none accessW0 (by decide +kernel))

/-- Refutes O47: as at O28, by BARW on the object at address 0 on `oneDie`, whose phase 0 has been reached. -/
theorem not_barrierObjects : ¬ Obligations.BarrierObjects := by
  unfold Obligations.BarrierObjects
  rintro ⟨hbarw, -⟩
  exact not_does_of_changesDieCount oneDie_issuer.1 barwChecks_changesDieCount (hbarw Pfx.none barwW0 (by decide +kernel))

end Sys2Proof.Machine
end

section
/-! SUPPORT. O21, and the refutation of O48. -/

namespace Sys2Proof.Machine

open Sys2Proof

/-- Settles O21: a taken trap that the warp handles leaves `Entered`, of any state (`takeTrap_entered`). -/
theorem trapEntry : Obligations.TrapEntry := by
  unfold Obligations.TrapEntry
  intro s w u r hsub hhandles
  exact (takeTrap_entered hsub hhandles).1

/-- The first word of an XF.COPY on `oneDie`: destination in o0 and o1, source and count in s0 and s1, all zero there. -/
def xfCopyW0 : W0 := { accessW0 with b := 20#6, a := 24#6 }

/-- The second word of an XF.COPY from HBM to HBM. -/
def xfCopyW1 : W1 := ⟨0#16, 0#2, 0#8, 9#6⟩

theorem xfChecks_changesDieCount : changesDieCount oneDie oneDieSub (fun c => xfChecks c 0 xfCopyW0 xfCopyW1) = true := by
  decide +kernel

/-- Refutes O48: as at O28, by XF.COPY from and to address 0 of the HBM on `oneDie`, whose checks reach the frame of an unlisted die. -/
theorem not_transferInstructions : ¬ Obligations.TransferInstructions := by
  unfold Obligations.TransferInstructions
  rintro ⟨hcopy, -⟩
  exact not_does_of_changesDieCount oneDie_issuer.1 xfChecks_changesDieCount (hcopy Pfx.none xfCopyW0 xfCopyW1 (by decide +kernel))

end Sys2Proof.Machine
end

section
/-! SUPPORT. O23: the instructions of a handler (R211, R213, R220, R228). -/

namespace Sys2Proof.Machine

open Sys2Proof

/-! A group that places its own sub-warp: what stands after the step stood after the body (R109). -/

/-- A field of a warp that is not its draw count. -/
theorem complete_placed_field {α : Type} (f : Warp → α) (hf : ∀ x n, f { x with srseq := n } = f x) (p : Pfx) (r : State) (u : SubWarp)
    (w : Nat) : f ((complete p r u .placed).warp w) = f (r.warp w) := by
  rw [complete_placed]
  change f ((r.counted p).warp w) = _
  unfold State.counted
  split
  · rw [State.modWarp_eq, State.warp_setWarp_eq]
    split
    · rename_i hk; rw [hk]; exact hf _ _
    · rfl
  · rfl

theorem complete_placed_readMem (p : Pfx) (r : State) (u : SubWarp) (d : Nat) (l : Loc) : (complete p r u .placed).readMem d l = r.readMem d l := by
  rw [complete_placed]
  unfold State.counted
  split <;> exact readMem_congr rfl rfl rfl rfl d l

theorem complete_placed_stands {p : Pfx} {r : State} {u : SubWarp} {w : Nat} {i : SubId} {m : LaneMask} {pc : DWord} (h : Stands r w i m pc) :
    Stands (complete p r u .placed) w i m pc := by
  obtain ⟨v, hv, hstands⟩ := h
  exact ⟨v, (complete_placed_field (fun x => x.sub i) (fun _ _ => rfl) p r u w).trans hv, hstands⟩

/-! A sub-warp jumps (R140). -/

theorem jumpSub_kept (w : Nat) (P : RegName → Prop) (K : Marks) (s : State) (u : SubWarp) (pc : DWord) : Kept w P K s (jumpSub s w u pc) :=
  (makeReady_kept w P K s _).trans (arriveCheck_kept w P K _ _)

/-- The root sub-warp of a warp without waiters in SYNCW stands where it jumps to. -/
theorem jumpSub_stands {s : State} {w : Nat} {u v : SubWarp} (hsub : (s.warp w).sub u.id = some v) (hroot : u.id = none) (hsync : NoSync s w)
    (pc : DWord) : Stands (jumpSub s w u pc) w none u.mask pc := by
  have hready : jumpSub s w u pc = makeReady s w { u with pc := pc } := by
    unfold jumpSub arriveCheck
    rw [hroot, arriveOne_root, wakeSyncs_idle (makeReady_noSync hsync _)]
  rw [hready]
  exact ⟨_, (congrArg _ hroot.symm).trans (makeReady_sub (u := { u with pc := pc }) hsub), rfl, rfl, rfl⟩

/-! The sub-warps held during the handler (R213). -/

theorem mem_insertOn_iff {α : Type} {f : α → Nat} {x y : α} {xs : List α} : y ∈ insertOn f x xs ↔ y = x ∨ y ∈ xs := by
  induction xs with
  | nil => simp [insertOn]
  | cons z zs ih =>
    unfold insertOn
    split
    · simp
    · simp [ih]
      tauto

theorem mem_sortOn {α : Type} {f : α → Nat} {x : α} {xs : List α} : x ∈ sortOn f xs ↔ x ∈ xs := by
  have hfold : ∀ (xs acc : List α), x ∈ xs.foldl (fun acc y => insertOn f y acc) acc ↔ x ∈ acc ∨ x ∈ xs := by
    intro xs
    induction xs with
    | nil => simp
    | cons y ys ih =>
      intro acc
      rw [List.foldl_cons, ih, mem_insertOn_iff, List.mem_cons]
      tauto
  simpa [sortOn] using hfold xs []

theorem Warp.sub_setSub_other {x : Warp} {u : SubWarp} {i : SubId} (h : u.id ≠ i) : (x.setSub u).sub i = x.sub i := by
  unfold Warp.sub Warp.setSub
  dsimp only
  induction x.subs with
  | nil => rfl
  | cons v vs ih =>
    by_cases hv : v.id = u.id
    · have hvi : v.id ≠ i := hv ▸ h
      simpa [hv, h, hvi] using ih
    · by_cases hvi : v.id = i
      · simp [hvi, Ne.symm h]
      · simpa [hv, hvi] using ih

theorem makeReady_sub_other {s : State} {w : Nat} {u : SubWarp} {i : SubId} (h : u.id ≠ i) :
    ((makeReady s w u).warp w).sub i = (s.warp w).sub i := by
  have he : (makeReady s w u).warp w = (s.warp w).setSub { u with stamp := s.stamp, hold := .ready } := State.warp_setWarp ..
  rw [he]
  exact Warp.sub_setSub_other h

theorem releaseHeld_kept (w : Nat) (P : RegName → Prop) (K : Marks) (s : State) (i : SubId) : Kept w P K s (releaseHeld s w i) :=
  Kept.foldl _ (fun s u => makeReady_kept w P K s u) _ s

/-- The sub-warp that returns stays as it is, and none comes to wait in SYNCW. -/
theorem releaseHeld_spares (s : State) (w : Nat) (i : SubId) :
    ((releaseHeld s w i).warp w).sub i = (s.warp w).sub i ∧ (NoSync s w → NoSync (releaseHeld s w i) w) := by
  refine List.foldlRecOn (motive := fun t : State => (t.warp w).sub i = (s.warp w).sub i ∧ (NoSync s w → NoSync t w)) _ _ ⟨rfl, id⟩
    (fun t ht u hu => ?_)
  obtain ⟨hsub, hsync⟩ := ht
  have hid : u.id ≠ i := by
    have hmem := List.mem_filter.mp (mem_sortOn.mp hu)
    simpa using (Bool.and_eq_true_iff.mp hmem.2).2
  exact ⟨(makeReady_sub_other hid).trans hsub, fun h => makeReady_noSync (hsync h) u⟩

/-! RETT (R213). -/

/-- The warp with s24 to s31 from the shadow bank, outside its handler. -/
def Warp.outHandler (x : Warp) : Warp := { x with s := regsFrom x.s 0 24 ++ regsFrom x.shadow 0 8, handler := false }

theorem outHandler_high (x : Warp) {k : Nat} (h : k < 8) :
    x.outHandler.reg (.s (24 + k)) = (((x.shadow[k]?).getD Reg.zero).val, ((x.shadow[k]?).getD Reg.zero).poison) := by
  have hget : x.outHandler.s[24 + k]? = some ((x.shadow[k]?).getD Reg.zero) := by
    change (regsFrom x.s 0 24 ++ regsFrom x.shadow 0 8)[24 + k]? = _
    rw [List.getElem?_append_right (by rw [regsFrom_length]; omega), regsFrom_length, Nat.add_sub_cancel_left]
    simp [regsFrom, h]
  simp only [Warp.reg, hget, Option.getD_some]

theorem outHandler_regs (x : Warp) {g : RegName} (hshadow : ∀ k, k < 8 → g ≠ .s (24 + k)) (hin : ∀ n, 32 ≤ n → g ≠ .s n) :
    x.outHandler.reg g = x.reg g := by
  cases g with
  | o n i => rfl
  | v n i => rfl
  | s n =>
    have hlow : n < 24 := by
      rcases Nat.lt_or_ge n 24 with hn | hn
      · exact hn
      · rcases Nat.lt_or_ge n 32 with hn' | hn'
        · exact absurd (congrArg RegName.s (by omega : n = 24 + (n - 24))) (hshadow (n - 24) (by omega))
        · exact absurd rfl (hin n hn')
    have hget : x.outHandler.s[n]? = some ((x.s[n]?).getD Reg.zero) := by
      change (regsFrom x.s 0 24 ++ regsFrom x.shadow 0 8)[n]? = _
      rw [List.getElem?_append_left (by rw [regsFrom_length]; exact hlow)]
      simp [regsFrom, hlow]
    simp only [Warp.reg, hget, Option.getD_some]

/-- The first steps of RETT's return: latches and released joint operations are gone, and the registers are back. -/
def handlerLeft (s : State) (c : Ctx) (t : DWord) : State :=
  ((dropLatches s c.quad).modQuad c.quad (fun q =>
    { q with rendezvous := q.rendezvous.filter (fun m => m.warp != c.w || !m.done || m.group == t) })).modWarp c.w Warp.outHandler

theorem leaveHandler_eq (s : State) (c : Ctx) (t : DWord) :
    leaveHandler s c t = jumpSub (releaseHeld (handlerLeft s c t) c.w c.sub.id) c.w c.sub t := rfl

theorem handlerLeft_warp (s : State) (c : Ctx) (t : DWord) : (handlerLeft s c t).warp c.w = (s.warp c.w).outHandler := by
  simp [handlerLeft, dropLatches]

/-- What a return from the handler leaves (R213). -/
theorem leaveHandler_left (s : State) (c : Ctx) (t : DWord) :
    ((leaveHandler s c t).warp c.w).handler = false ∧ (∀ g, ((leaveHandler s c t).warp c.w).reg g = (s.warp c.w).outHandler.reg g) ∧
      (∀ d l, (leaveHandler s c t).readMem d l = s.readMem d l) ∧
      (∀ v, (s.warp c.w).sub c.sub.id = some v → c.sub.id = none → NoSync s c.w → Stands (leaveHandler s c t) c.w none c.sub.mask t) := by
  have hwarp := handlerLeft_warp s c t
  have hkept : Kept c.w noReg noMask (handlerLeft s c t) (leaveHandler s c t) :=
    (releaseHeld_kept c.w noReg noMask _ c.sub.id).trans (jumpSub_kept c.w noReg noMask _ c.sub t)
  refine ⟨?_, fun g => ?_, fun d l => ?_, fun v hsub hroot hsync => ?_⟩
  · exact (congrArg Warp.handler hkept.warp :).trans (congrArg Warp.handler hwarp)
  · rw [hkept.regs g (fun h => h), hwarp]
  · exact (hkept.readMem d l).trans (readMem_congr rfl rfl rfl rfl d l)
  · obtain ⟨hspared, hnone⟩ := releaseHeld_spares (handlerLeft s c t) c.w c.sub.id
    rw [leaveHandler_eq]
    refine jumpSub_stands (v := v) (hspared.trans (by rw [hwarp]; exact hsub)) hroot (hnone ?_) t
    unfold NoSync
    rw [hwarp]
    exact hsync

/-- No enabled cause is pending where the word of them has none of the 24 bits (R209). -/
theorem find_pending_none {m : DWord} (h : m &&& 0xFFFFFF#64 = 0#64) : (List.range 24).find? (fun k => m.getLsbD k) = none := by
  have hmask : ∀ k < 24, (0xFFFFFF#64).getLsbD k = true := by decide
  rw [List.find?_eq_none]
  intro k hk
  have hbit := congrArg (fun x : DWord => x.getLsbD k) h
  simpa [BitVec.getLsbD_and, hmask k (List.mem_range.mp hk)] using hbit

theorem rettBody_leaves {s : State} {c : Ctx} (hsheet : (s.warp c.w).sheet = false) (hhandler : (s.warp c.w).handler = true)
    (hsrcs : checkSrcs c [.code 48#6, .code 49#6] c.on s = .ok ((), s))
    (hpending : (s.warp c.w).tc &&& (s.warp c.w).disposition &&& tcClearable &&& 0xFFFFFF#64 = 0#64)
    (hlegal : legalPc (pairVal s c (.code 48#6) 0) = true)
    (hstarts : ∀ ws t, fetchLine s c.quad c.vd (lineBase (pairVal s c (.code 48#6) 0)) = (.ok ws, t) →
      startsGroup ws (lineSlot (pairVal s c (.code 48#6) 0)) = true) :
    rettBody c s = .ok (.placed, leaveHandler s c (pairVal s c (.code 48#6) 0)) := by
  unfold rettBody
  rw [M.st_bind]
  dsimp only
  rw [if_neg (by simp [hsheet]), if_neg (by simp [hhandler]), M.bind_ok hsrcs]
  rw [find_pending_none hpending]
  dsimp only
  rw [if_neg (show ¬ (!legalPc (pairVal s c (.code 48#6) 0)) = true by simp [hlegal]), if_neg]
  · rfl
  · split
    · rename_i ws t hfetch
      simp [hstarts ws t hfetch]
    · simp

/-- The warp outside its cue sheet. -/
def Warp.outSheet (x : Warp) : Warp := { x with sheet := false }

/-- What RETT does in a cue sheet: the warp leaves it, and the sub-warp jumps to the cue PC. -/
def leaveSheet (s : State) (c : Ctx) (t : DWord) : State := jumpSub ((dropLatches s c.quad).modWarp c.w Warp.outSheet) c.w c.sub t

theorem leaveSheet_left (s : State) (c : Ctx) (t : DWord) :
    ((leaveSheet s c t).warp c.w).sheet = false ∧ (∀ g, ((leaveSheet s c t).warp c.w).reg g = (s.warp c.w).reg g) ∧
      (∀ d l, (leaveSheet s c t).readMem d l = s.readMem d l) ∧
      (∀ v, (s.warp c.w).sub c.sub.id = some v → c.sub.id = none → NoSync s c.w → Stands (leaveSheet s c t) c.w none c.sub.mask t) := by
  have hwarp : ((dropLatches s c.quad).modWarp c.w Warp.outSheet).warp c.w = (s.warp c.w).outSheet := by simp [dropLatches]
  have hkept : Kept c.w noReg noMask ((dropLatches s c.quad).modWarp c.w Warp.outSheet) (leaveSheet s c t) := jumpSub_kept ..
  refine ⟨?_, fun g => ?_, fun d l => ?_, fun v hsub hroot hsync => ?_⟩
  · exact (congrArg Warp.sheet hkept.warp :).trans (congrArg Warp.sheet hwarp)
  · rw [hkept.regs g (fun h => h), hwarp]
    cases g <;> rfl
  · exact (hkept.readMem d l).trans (readMem_congr rfl rfl rfl rfl d l)
  · refine jumpSub_stands (v := v) (by rw [hwarp]; exact hsub) hroot ?_ t
    unfold NoSync
    rw [hwarp]
    exact hsync

theorem rettBody_sheet {s : State} {c : Ctx} (hsheet : (s.warp c.w).sheet = true) :
    rettBody c s = .ok (.placed, leaveSheet s c (((s.warp c.w).cue.map (fun q => q.pc)).getD 0#64)) := by
  unfold rettBody
  rw [M.st_bind]
  dsimp only
  rw [if_pos hsheet]
  rfl

theorem rettBody_outside {s : State} {c : Ctx} (hsheet : (s.warp c.w).sheet = false) (hhandler : (s.warp c.w).handler = false) :
    rettBody c s = .error (.trap (c.info 0 c.on)) := by
  unfold rettBody
  rw [M.st_bind]
  dsimp only
  rw [if_neg (by simp [hsheet]), if_pos (by simp [hhandler])]
  rfl

theorem exec_rett {p : Pfx} {w : W0} (h : WF.rett p w = true) (s : State) : exec (.rett p w) s = issue p true s rettBody := by
  change execRett p w s = _
  unfold execRett
  rw [h]

/-- A pair that can be read reads as before the checks of the prefixes. -/
theorem pairVal_before {s t : State} {p : Pfx} {u : SubWarp} (hn : Near (takeLatches s u) t) (hq : t.quads = (takeLatches s u).quads) {x : Src}
    (hlow : badLatch s (mkCtx s u p) x = false) (hhigh : badLatch s (mkCtx s u p) (x.up 1) = false) (i : Nat) :
    pairVal t (mkCtx s u p) x i = pairVal s (mkCtx s u p) x i := by
  unfold pairVal srcVal
  rw [srcReg_before hn hq hlow, srcReg_before hn hq hhigh]

theorem rett_leaves {p : Pfx} {w : W0} (h : WF.rett p w = true) {s s1 : State} {u : SubWarp}
    (hpass : Passes s p u (fun c => checkSrcs c [.code 48#6, .code 49#6] c.on) () s1) (hsync : NoSync s s.cur.warp) :
    let c := mkCtx s u p
    let x := s.warp c.w
    let pc := pairVal s c (.code 48#6) 0
    x.sheet = false → x.handler = true → x.tc &&& x.disposition &&& tcClearable &&& 0xFFFFFF#64 = 0#64 → legalPc pc = true →
      (∀ ws s2, fetchLine s1 c.quad c.vd (lineBase pc) = (.ok ws, s2) → startsGroup ws (lineSlot pc) = true) →
      ∃ t, Completes (.rett p w) s t ∧ (t.warp c.w).handler = false ∧
        (∀ k, k < 8 → (t.warp c.w).reg (.s (24 + k)) = (((x.shadow[k]?).getD Reg.zero).val, ((x.shadow[k]?).getD Reg.zero).poison)) ∧
        (∀ g, (∀ k, k < 8 → g ≠ .s (24 + k)) → (∀ n, 32 ≤ n → g ≠ .s n) → (t.warp c.w).reg g = x.reg g) ∧
        (∀ d l, t.readMem d l = s.readMem d l) ∧ (u.id = none → Stands t c.w none u.mask pc) := by
  intro c x pc hsheet hhandler hpending hlegal hstarts
  obtain ⟨s0, hpfx, hsrcs⟩ := hpass.split
  obtain rfl := checkSrcs_state hsrcs
  obtain ⟨hnear, hquads, -⟩ := checkPfx_near hpfx
  have hs := (takeLatches_near s u).trans hnear
  have hpc : pairVal s1 c (.code 48#6) 0 = pc := pairVal_before hnear hquads rfl rfl 0
  have hbody := rettBody_leaves (s := s1) (c := c) ((hs.field Warp.sheet (fun _ => rfl) _).trans hsheet)
    ((hs.field Warp.handler (fun _ => rfl) _).trans hhandler) hsrcs
    (by rw [hs.field Warp.tc (fun _ => rfl), hs.field Warp.disposition (fun _ => rfl)]; exact hpending) (hpc ▸ hlegal) (hpc ▸ hstarts)
  rw [hpc] at hbody
  obtain ⟨hout, hregs, hmem, hstands⟩ := leaveHandler_left s1 c pc
  have hfile : ∀ g, (s1.warp c.w).outHandler.reg g = x.outHandler.reg g := by
    intro g
    exact hs.field (fun y => y.outHandler.reg g) (fun y => by cases g <;> rfl) c.w
  have hreg : ∀ g, ((complete p (leaveHandler s1 c pc) u .placed).warp c.w).reg g = x.outHandler.reg g := fun g =>
    (complete_placed_field (fun y => y.reg g) (fun y n => by cases g <;> rfl) p _ u c.w).trans ((hregs g).trans (hfile g))
  refine ⟨_, ⟨(exec_rett h s).trans (issue_ok hpass.1 hpfx hbody), rfl⟩,
    (complete_placed_field Warp.handler (fun _ _ => rfl) p _ u c.w).trans hout,
    fun k hk => (hreg _).trans (outHandler_high x hk), fun g hk hn => (hreg g).trans (outHandler_regs x hk hn), fun d l => ?_, fun hroot => ?_⟩
  · exact (complete_placed_readMem ..).trans ((hmem d l).trans ((hs.calm.memory_eq d l)))
  · have hsub : (s1.warp c.w).sub c.sub.id = some u := by
      have hu : (s.warp s.cur.warp).sub s.cur.sub = some u := hpass.1
      exact (hs.field (fun y => y.sub c.sub.id) (fun _ => rfl) _).trans ((congrArg _ (Warp.sub_id hu)).trans hu)
    refine complete_placed_stands (hstands u hsub hroot ?_)
    unfold NoSync
    rw [hs.field Warp.subs (fun _ => rfl)]
    exact hsync

theorem rett_leavesSheet {p : Pfx} {w : W0} (h : WF.rett p w = true) {s s1 : State} {u : SubWarp}
    (hpass : Passes s p u (fun c => checkSrcs c [.code 48#6, .code 49#6] c.on) () s1) (hsync : NoSync s s.cur.warp) :
    let c := mkCtx s u p
    let x := s.warp c.w
    x.sheet = true → ∃ t, Completes (.rett p w) s t ∧ (t.warp c.w).sheet = false ∧ (∀ g, (t.warp c.w).reg g = x.reg g) ∧
      (∀ d l, t.readMem d l = s.readMem d l) ∧ (u.id = none → Stands t c.w none u.mask ((x.cue.map (fun q => q.pc)).getD 0#64)) := by
  intro c x hsheet
  obtain ⟨s0, hpfx, -⟩ := hpass.split
  obtain ⟨hnear, -, -⟩ := checkPfx_near hpfx
  have hs := (takeLatches_near s u).trans hnear
  have hbody := rettBody_sheet (s := s0) (c := c) ((hs.field Warp.sheet (fun _ => rfl) _).trans hsheet)
  rw [hs.field Warp.cue (fun _ => rfl)] at hbody
  obtain ⟨hout, hregs, hmem, hstands⟩ := leaveSheet_left s0 c (((s.warp c.w).cue.map (fun q => q.pc)).getD 0#64)
  refine ⟨_, ⟨(exec_rett h s).trans (issue_ok hpass.1 hpfx hbody), rfl⟩,
    (complete_placed_field Warp.sheet (fun _ _ => rfl) p _ u c.w).trans hout,
    fun g => ?_, fun d l => ?_, fun hroot => complete_placed_stands (hstands u ?_ hroot ?_)⟩
  · exact (complete_placed_field (fun y => y.reg g) (fun y n => by cases g <;> rfl) p _ u c.w).trans ((hregs g).trans
      (hs.field (fun y => y.reg g) (fun y => by cases g <;> rfl) c.w))
  · exact (complete_placed_readMem ..).trans ((hmem d l).trans (hs.calm.memory_eq d l))
  · have hu : (s.warp s.cur.warp).sub s.cur.sub = some u := hpass.1
    exact (hs.field (fun y => y.sub c.sub.id) (fun _ => rfl) _).trans ((congrArg _ (Warp.sub_id hu)).trans hu)
  · unfold NoSync
    rw [hs.field Warp.subs (fun _ => rfl)]
    exact hsync

/-- A group whose body stops wherever the checks of its prefixes left it takes its trap. -/
theorem issue_trapsFrom {p : Pfx} {s : State} {u : SubWarp} {body : Ctx → M Done} {t : TrapInfo} (hi : Issues s p u) (hp : s.cur.probe = false)
    (hb : ∀ s1, Near s s1 → body (mkCtx s u p) s1 = .error (.trap t)) :
    issue p true s body = .next (takeTrap (takeLatches s u) s.cur.warp u.id t) := by
  obtain ⟨s1, h1⟩ := hi.predicate
  obtain ⟨hnear, -, -⟩ := checkPfx_near h1
  have hsub : (s.warp s.cur.warp).sub s.cur.sub = some u := hi.sub
  have hrun : (do checkPfx (mkCtx s u p) p; body (mkCtx s u p) : M Done) (takeLatches s u) = .error (.trap t) := by
    rw [M.bind_ok h1, hb s1 ((takeLatches_near s u).trans hnear)]
  unfold issue
  simp only [hsub, hrun, takeStop, hp, Bool.not_true, Bool.false_eq_true, if_false]

theorem rett_traps {p : Pfx} {w : W0} (h : WF.rett p w = true) {s : State} {u : SubWarp} (hi : Issues s p u) (hp : s.cur.probe = false)
    (hsheet : (s.warp s.cur.warp).sheet = false) (hhandler : (s.warp s.cur.warp).handler = false) :
    exec (.rett p w) s = .next (takeTrap (takeLatches s u) s.cur.warp u.id ((mkCtx s u p).info 0 (mkCtx s u p).on)) :=
  (exec_rett h s).trans (issue_trapsFrom hi hp (fun _ hn => rettBody_outside ((hn.field Warp.sheet (fun _ => rfl) _).trans hsheet)
    ((hn.field Warp.handler (fun _ => rfl) _).trans hhandler)))

/-! TCLR (R211). -/

/-- The body of TCLR. -/
def tclrBody (w : W0) (c : Ctx) : M Done := do
  checkSrcs c [.code w.a, (Src.code w.a).up 1] c.on
  let s ← M.st
  let m := if c.on = 0#32 then 0#64 else pairVal s c (.code w.a) 0 &&& tcClearable
  M.upd (fun s => s.modWarp c.w (fun x => { x with tc := x.tc &&& ~~~m }))
  lastUse c [(w.luA, .code w.a), (w.luA, (Src.code w.a).up 1)]
  pure .next

theorem exec_tclr {p : Pfx} {w : W0} (h : WF.tclr p w = true) (s : State) : exec (.tclr p w) s = issue p true s (tclrBody w) := by
  change execTclr p w s = _
  unfold execTclr
  rw [h]
  rfl

/-- A warp with bits of `%tc` cleared. -/
def Warp.tcCleared (m : DWord) (x : Warp) : Warp := { x with tc := x.tc &&& ~~~m }

theorem Kept.tcCleared {w : Nat} {P : RegName → Prop} {K : Marks} {s t : State} (h : Kept w P K s t) (m : DWord) :
    Kept w P K (s.modWarp w (Warp.tcCleared m)) (t.modWarp w (Warp.tcCleared m)) :=
  h.modWarp (fun _ => rfl) (fun _ g => by cases g <;> rfl) (fun _ _ => rfl) (fun _ => rfl)

/-- With no lane on no bit is cleared. -/
theorem tcCleared_none (w : Nat) (P : RegName → Prop) (K : Marks) (s : State) : Kept w P K s (s.modWarp w (Warp.tcCleared 0#64)) :=
  Kept.place w P K s _ (fun x => congrArg (fun m => Warp.rest { x with tc := m }) BitVec.and_allOnes)
    (fun _ => rfl) (fun _ => rfl) (fun _ => rfl) (fun _ => rfl) (fun _ => rfl)

/-- The bits that TCLR clears: those of its pair that it may, and none with no lane on. -/
def tclrBits (w : W0) (c : Ctx) (s : State) : DWord := if c.on = 0#32 then 0#64 else pairVal s c (.code w.a) 0 &&& tcClearable

theorem tclrBody_ok {c : Ctx} {w : W0} {s : State} (hr : Readable s c [.code w.a, (Src.code w.a).up 1] c.on) :
    ∃ r, tclrBody w c s = .ok (.next, r) ∧ Kept c.w noReg noMask (s.modWarp c.w (Warp.tcCleared (tclrBits w c s))) r := by
  obtain ⟨r, hlast, hkept⟩ := lastUse_kept c noReg noMask [(w.luA, .code w.a), (w.luA, (Src.code w.a).up 1)]
    (s.modWarp c.w (Warp.tcCleared (tclrBits w c s)))
  refine ⟨r, ?_, hkept⟩
  unfold tclrBody
  rw [M.bind_ok (checkSrcs_ok hr), M.st_bind, M.upd_bind]
  exact (M.bind_ok hlast).trans rfl

theorem tclrBits_kept (w : W0) (c : Ctx) (s : State) :
    Kept c.w noReg noMask (if c.on = 0#32 then s else s.modWarp c.w (Warp.tcCleared (pairVal s c (.code w.a) 0 &&& tcClearable)))
      (s.modWarp c.w (Warp.tcCleared (tclrBits w c s))) := by
  unfold tclrBits
  split
  · exact tcCleared_none ..
  · exact Kept.refl ..

theorem tclr_clears (p : Pfx) (w : W0) (h : WF.tclr p w = true) :
    DoesIf (.tclr p w) p (fun s c => Readable s c [.code w.a, (Src.code w.a).up 1] c.on)
      (fun c s => if c.on = 0#32 then s else s.modWarp c.w (fun x => { x with tc := x.tc &&& ~~~(pairVal s c (.code w.a) 0 &&& tcClearable) }))
      (fun _ _ => noReg) (fun _ _ => noMask) (fun _ _ _ => True) := by
  intro s u hi hread
  obtain ⟨r, t, ht, hdone, hk, hafter⟩ := issue_from (body := tclrBody w) (R := fun r => Kept s.cur.warp noReg noMask
    (s.modWarp s.cur.warp (Warp.tcCleared (tclrBits w (mkCtx s u p) s))) r) hi (fun s1 hn hq hk => by
      obtain ⟨r, hr, hkr⟩ := tclrBody_ok (hread.before hn hq)
      rw [tclrBits, pairVal_before hn hq (hread.latch _ (by simp)) (hread.latch _ (by simp)), ← tclrBits] at hkr
      have hall := (hk.tcCleared _).trans hkr
      exact ⟨r, hr, State.rest_eq_cur hall.state, hall⟩)
  refine ⟨t, ⟨(exec_tclr h s).trans ht, hdone⟩, (((tclrBits_kept w (mkCtx s u p) s).trans hk).counted ?_ p).trans hafter, trivial⟩
  split <;> rfl

/-! TMASK (R211). -/

/-- A warp of another disposition, and of that label of it. -/
def Warp.disposed (m : DWord) (l : Label) (x : Warp) : Warp := { x with disposition := m, dispLabel := l }

/-- The body of TMASK. -/
def tmaskBody (w : W0) (c : Ctx) : M Done := do
  let a := Src.code w.a
  checkSrcs c [a, a.up 1] c.on
  let s ← M.st
  let x := s.warp c.w
  let new := pairVal s c a 0
  let oldL ← M.run' (fun s => s.joinList c.w [x.dispLabel, c.sub.maskLabel])
  let newL ← M.run' (fun s => s.joinList c.w [srcLbl s c a 0, srcLbl s c (a.up 1) 0, c.sub.maskLabel])
  M.upd (fun s => s.modWarp c.w (Warp.disposed new newL))
  lastUse c [(w.luA, a), (w.luA, a.up 1)]
  writeUni c w (Dst.ofCode w.d) [lo32 x.disposition, hi32 x.disposition] oldL
  pure .next

theorem exec_tmask {p : Pfx} {w : W0} (h : WF.tmask p w = true) (s : State) : exec (.tmask p w) s = issue p true s (tmaskBody w) := by
  change execTmask p w s = _
  unfold execTmask
  rw [h]
  rfl

/-- The same disposition on both sides, and beside it any label. -/
theorem Kept.disposed {w : Nat} {P : RegName → Prop} {K : Marks} {s t : State} (h : Kept w P K s t) (m : DWord) (l : Label) :
    Kept w P K (s.modWarp w (fun x => { x with disposition := m })) (t.modWarp w (Warp.disposed m l)) := by
  refine ⟨?_, by simpa using h.vds, by simpa using h.quads, by simpa using h.cores, fun x hx => ?_, ?_, fun g hg => ?_, fun n hn => ?_, ?_⟩
  · simpa [State.rest, State.setWarp] using h.state
  · simpa [hx] using h.others x hx
  · rw [State.modWarp_eq, State.modWarp_eq, State.warp_setWarp, State.warp_setWarp]
    exact (congrArg (Warp.disposed m 0#8) h.warp :)
  · have hsame := h.regs g hg
    cases g <;> simpa [Warp.reg, Warp.disposed] using hsame
  · simpa [Warp.mask, Warp.disposed] using h.masks n hn
  · simpa [Warp.disposed] using h.flags

theorem tmaskBody_ok {c : Ctx} {w : W0} {s : State} (hr : Readable s c [.code w.a, (Src.code w.a).up 1] c.on) :
    ∃ r, tmaskBody w c s = .ok (.next, r) ∧
      Kept c.w (fun g => w.wbs = false ∧ (Dst.ofCode w.d).names 2 1#32 g) noMask
        (s.modWarp c.w (fun x => { x with disposition := pairVal s c (.code w.a) 0 })) r ∧
      (w.wbs = false → (Dst.ofCode w.d).has (r.warp c.w) 0 0 (lo32 (s.warp c.w).disposition) ∧
        (Dst.ofCode w.d).has (r.warp c.w) 1 0 (hi32 (s.warp c.w).disposition)) := by
  generalize hP : (fun g => w.wbs = false ∧ (Dst.ofCode w.d).names 2 1#32 g) = P
  have hold := joinList_kept c.w P noMask s [(s.warp c.w).dispLabel, c.sub.maskLabel]
  generalize hjoin : s.joinList c.w [(s.warp c.w).dispLabel, c.sub.maskLabel] = old at hold
  have hnew := hold.trans (joinList_kept c.w P noMask old.2 [srcLbl old.2 c (.code w.a) 0, srcLbl old.2 c ((Src.code w.a).up 1) 0, c.sub.maskLabel])
  generalize hjoin' : old.2.joinList c.w [srcLbl old.2 c (.code w.a) 0, srcLbl old.2 c ((Src.code w.a).up 1) 0, c.sub.maskLabel] = new at hnew
  obtain ⟨t, hlast, hused⟩ := lastUse_kept c P noMask [(w.luA, .code w.a), (w.luA, (Src.code w.a).up 1)]
    (new.2.modWarp c.w (Warp.disposed (pairVal s c (.code w.a) 0) new.1))
  obtain ⟨r, hwrite, hwritten, hhas⟩ := writeUni_ok c noMask w (Dst.ofCode w.d)
    [lo32 (s.warp c.w).disposition, hi32 (s.warp c.w).disposition] old.1 t
  refine ⟨r, ?_, ((hnew.disposed _ new.1).trans hused).trans (hP ▸ hwritten), fun hw => ⟨hhas hw 0 (by simp), hhas hw 1 (by simp)⟩⟩
  unfold tmaskBody
  dsimp only
  rw [M.bind_ok (checkSrcs_ok hr), M.st_bind, M.run_bind, hjoin, M.run_bind, hjoin', M.upd_bind, M.bind_ok hlast, M.bind_ok hwrite]
  rfl

theorem tmask_swaps (p : Pfx) (w : W0) (h : WF.tmask p w = true) :
    DoesIf (.tmask p w) p (fun s c => Readable s c [.code w.a, (Src.code w.a).up 1] c.on)
      (fun c s => s.modWarp c.w (fun x => { x with disposition := pairVal s c (.code w.a) 0 }))
      (fun _ _ g => w.wbs = false ∧ (Dst.ofCode w.d).names 2 1#32 g) (fun _ _ => noMask)
      (fun c s t => w.wbs = false →
        (Dst.ofCode w.d).has (t.warp c.w) 0 0 (lo32 (s.warp c.w).disposition) ∧
          (Dst.ofCode w.d).has (t.warp c.w) 1 0 (hi32 (s.warp c.w).disposition)) := by
  intro s u hi hread
  obtain ⟨r, t, ht, hdone, ⟨hk, hhas⟩, hafter⟩ := issue_from (body := tmaskBody w) (R := fun r =>
    Kept s.cur.warp (fun g => w.wbs = false ∧ (Dst.ofCode w.d).names 2 1#32 g) noMask
      (s.modWarp s.cur.warp (fun x => { x with disposition := pairVal s (mkCtx s u p) (.code w.a) 0 })) r ∧
    (w.wbs = false → (Dst.ofCode w.d).has (r.warp s.cur.warp) 0 0 (lo32 (s.warp s.cur.warp).disposition) ∧
      (Dst.ofCode w.d).has (r.warp s.cur.warp) 1 0 (hi32 (s.warp s.cur.warp).disposition))) hi
    (fun s1 hn hq hk => by
      obtain ⟨r, hr, hkr, hhas⟩ := tmaskBody_ok (hread.before hn hq)
      rw [pairVal_before hn hq (hread.latch _ (by simp)) (hread.latch _ (by simp))] at hkr
      rw [((takeLatches_near s u).trans hn).field Warp.disposition (fun _ => rfl)] at hhas
      have hall := ((hk.mono (fun _ h => h.elim) (fun _ h => h.elim)).modWarp (f := fun x =>
        { x with disposition := pairVal s (mkCtx s u p) (.code w.a) 0 }) (fun _ => rfl) (fun _ g => by cases g <;> rfl) (fun _ _ => rfl)
        (fun _ => rfl)).trans hkr
      exact ⟨r, hr, State.rest_eq_cur hall.state, hall, hhas⟩)
  refine ⟨t, ⟨(exec_tmask h s).trans ht, hdone⟩, (hk.counted rfl p).trans (hafter.mono (fun _ h => h.elim) (fun _ h => h.elim)), fun hw => ?_⟩
  obtain ⟨hlow, hhigh⟩ := hhas hw
  exact ⟨Dst.has_after hafter hlow, Dst.has_after hafter hhigh⟩

/-! HALT (R211, R228). -/

/-- A stopped warp. -/
def Warp.halted (x : Warp) : Warp := { x with stopped := true }

theorem Kept.halted {w : Nat} {P : RegName → Prop} {K : Marks} {s t : State} (h : Kept w P K s t) :
    Kept w P K (s.modWarp w Warp.halted) (t.modWarp w Warp.halted) :=
  h.modWarp (fun _ => rfl) (fun _ g => by cases g <;> rfl) (fun _ _ => rfl) (fun _ => rfl)

/-- The body of HALT. -/
def haltBody (c : Ctx) : M Done := do
  let s ← M.st
  if (s.vd c.vd).debug then
    M.upd (fun s => dropLatches s c.quad)
    M.upd (fun s => jumpSub (s.modWarp c.w Warp.halted) c.w c.sub c.next)
  else
    M.upd (fun s => killByCause s c (c.info 22 c.on))
  pure .placed

theorem exec_halt {p : Pfx} {w : W0} (h : WF.halt p w = true) (s : State) : exec (.halt p w) s = issue p true s haltBody := by
  change execHalt p w s = _
  unfold execHalt
  rw [h]
  rfl

theorem haltBody_debug {s : State} {c : Ctx} (h : (s.vd c.vd).debug = true) : haltBody c s =
    .ok (.placed, jumpSub ((dropLatches s c.quad).modWarp c.w Warp.halted) c.w c.sub c.next) := by
  unfold haltBody
  rw [M.st_bind]
  dsimp only
  rw [if_pos h]
  rfl

theorem haltBody_kills {s : State} {c : Ctx} (h : (s.vd c.vd).debug = false) : haltBody c s = .ok (.placed, killByCause s c (c.info 22 c.on)) := by
  unfold haltBody
  rw [M.st_bind]
  dsimp only
  rw [if_neg (by simp [h])]
  rfl

theorem Near.debug {s t : State} (h : Near s t) (v : Nat) : (t.vd v).debug = (s.vd v).debug := (congrArg VD.debug (h.vds v) :)

theorem halt_stops (p : Pfx) (w : W0) (h : WF.halt p w = true) :
    DoesIf (.halt p w) p (fun s c => (s.vd c.vd).debug = true) (fun c s => s.modWarp c.w (fun x => { x with stopped := true }))
      (fun _ _ => noReg) (fun _ _ => noMask)
      (fun c s t => c.sub.id = none → NoSync s c.w → Stands t c.w none c.sub.mask c.next) := by
  intro s u hi hdebug
  obtain ⟨s1, hpfx⟩ := hi.predicate
  obtain ⟨hnear, -, hpre⟩ := checkPfx_near hpfx
  have hs := (takeLatches_near s u).trans hnear
  have hk : Kept s.cur.warp noReg noMask s s1 := (takeLatches_kept _ _ _ s u).trans hpre
  have hu : (s.warp s.cur.warp).sub s.cur.sub = some u := hi.sub
  have hbody := haltBody_debug (s := s1) (c := mkCtx s u p) ((hs.debug _).trans hdebug)
  have hstopped := (hk.trans (dropLatches_kept s.cur.warp noReg noMask s1 (mkCtx s u p).quad)).halted
  have hall := hstopped.trans (jumpSub_kept s.cur.warp noReg noMask _ (mkCtx s u p).sub (mkCtx s u p).next)
  have hsubs : (((dropLatches s1 (mkCtx s u p).quad).modWarp s.cur.warp Warp.halted).warp s.cur.warp).subs =
      (s.warp s.cur.warp).subs := by
    simpa [dropLatches, Warp.halted] using hs.field Warp.subs (fun _ => rfl) s.cur.warp
  refine ⟨_, ⟨(exec_halt h s).trans (issue_ok hi.sub hpfx hbody), rfl⟩, (hall.counted rfl p).trans (complete_kept p _ u .placed ?_),
    fun hroot hsync => complete_placed_stands (jumpSub_stands (v := u) ?_ hroot ?_ _)⟩
  · rw [State.rest_eq_cur hall.state]; rfl
  · exact (congrArg (List.find? (fun v : SubWarp => v.id == u.id)) hsubs).trans ((congrArg _ (Warp.sub_id hu)).trans hu)
  · exact fun v hv => hsync v (hsubs ▸ hv)

/-- What comes before the death of a warp that is killed leaves its life, its causes and the bytes of memory. -/
theorem killWarp_marked (s : State) (w : Nat) (t : TrapInfo) (cause : Nat) (double refused : Bool) (mask : Label) :
    ∃ r, killWarp s w t cause double refused mask = dieWarp r w cause mask ∧ (r.warp w).life = (s.warp w).life ∧
      (r.warp w).tc = (s.warp w).tc ∧ ∀ d l, r.readMem d l = s.readMem d l := by
  have hrecord : Noticed s (killRecord s w t double refused) := gfRecord_noticed ..
  have hjoin := joinList_kept w noReg noMask (killRecord s w t double refused) (mask :: ((lanesOf t.lanes).map (s.warp w).pathOf ++ t.lbls))
  have hnotices := trapNotices_noticed ((killRecord s w t double refused).joinList w (mask :: ((lanesOf t.lanes).map (s.warp w).pathOf ++ t.lbls))).2
    (s.warp w).grid (s.warp w).block w t.cause t.slot t.delivery true double t.heir
    ((killRecord s w t double refused).joinList w (mask :: ((lanesOf t.lanes).map (s.warp w).pathOf ++ t.lbls))).1
  refine ⟨_, rfl, ?_, ?_, fun d l => (hnotices.memory d l).trans ((hjoin.readMem d l).trans (hrecord.memory d l))⟩
  · exact (congrArg Warp.life (hnotices.warps w) :).trans ((congrArg Warp.life hjoin.warp :).trans (congrArg Warp.life (hrecord.warps w) :))
  · exact (congrArg Warp.tc (hnotices.warps w) :).trans ((congrArg Warp.tc hjoin.warp :).trans (congrArg Warp.tc (hrecord.warps w) :))

theorem dieWarp_tc {s : State} {w : Nat} (h : (s.warp w).life.ended = false) (cause : Nat) (lbl : Label) :
    ((dieWarp s w cause lbl).warp w).tc = (s.warp w).tc := by
  have hlife := deathQueued_field Warp.life (fun _ _ => rfl) s w cause lbl
  rw [dieWarp_eq h, barsRecheck_other (by rw [hlife]; rfl)]
  exact deathQueued_field Warp.tc (fun _ _ => rfl) s w cause lbl

/-- A kill leaves the causes that the warp has recorded and the bytes of memory (R210). -/
theorem killWarp_killed {s : State} {w : Nat} (h : (s.warp w).life.ended = false) (t : TrapInfo) (cause : Nat) (double refused : Bool)
    (mask : Label) : ((killWarp s w t cause double refused mask).warp w).tc = (s.warp w).tc ∧
      ((killWarp s w t cause double refused mask).warp w).life = .dying cause mask ∧
      ∀ d l, (killWarp s w t cause double refused mask).readMem d l = s.readMem d l := by
  obtain ⟨r, hdies, hlife, htc, hmem⟩ := killWarp_marked s w t cause double refused mask
  have halive : (r.warp w).life.ended = false := hlife ▸ h
  rw [hdies]
  exact ⟨(dieWarp_tc halive cause mask).trans htc, (dieWarp_died halive cause mask).life, fun d l => (dieWarp_readMem ..).trans (hmem d l)⟩

theorem halt_kills {p : Pfx} {w : W0} (h : WF.halt p w = true) {s : State} {u : SubWarp} (hi : Issues s p u)
    (hdebug : (s.vd (s.warp s.cur.warp).vd).debug = false) (hlife : (s.warp s.cur.warp).life = .resident) :
    ∃ t, Completes (.halt p w) s t ∧ (t.warp s.cur.warp).life = .dying (if (s.warp s.cur.warp).handler then 3 else 2) u.maskLabel ∧
      (t.warp s.cur.warp).tc = tcBit (s.warp s.cur.warp).tc 22 ∧ (∀ d l, t.readMem d l = s.readMem d l) := by
  obtain ⟨s1, hpfx⟩ := hi.predicate
  obtain ⟨hnear, -, -⟩ := checkPfx_near hpfx
  have hs := (takeLatches_near s u).trans hnear
  have hbody := haltBody_kills (s := s1) (c := mkCtx s u p) ((hs.debug _).trans hdebug)
  have hlife1 : (s1.warp s.cur.warp).life = .resident := (hs.field Warp.life (fun _ => rfl) _).trans hlife
  obtain ⟨htc, hdying, hmem⟩ := killWarp_killed (s := s1.modWarp s.cur.warp (fun y => { y with tc := tcBit y.tc 22 })) (w := s.cur.warp)
    (by simp [hlife1, Life.ended]) ((mkCtx s u p).info 22 (mkCtx s u p).on) (if (s1.warp s.cur.warp).handler then 3 else 2)
    (s1.warp s.cur.warp).handler false u.maskLabel
  refine ⟨_, ⟨(exec_halt h s).trans (issue_ok hi.sub hpfx hbody), rfl⟩,
    (complete_placed_field Warp.life (fun _ _ => rfl) p _ u s.cur.warp).trans ?_,
    (complete_placed_field Warp.tc (fun _ _ => rfl) p _ u s.cur.warp).trans ?_, fun d l => (complete_placed_readMem ..).trans ?_⟩
  · rw [← hs.field Warp.handler (fun _ => rfl)]
    exact hdying
  · refine htc.trans ?_
    rw [State.modWarp_eq, State.warp_setWarp, ← hs.field Warp.tc (fun _ => rfl)]
  · exact (hmem d l).trans ((readMem_congr rfl rfl rfl rfl d l).trans (hs.calm.memory_eq d l))

/-- Settles O23: each body's run after the checks of its prefixes. A line that cannot be fetched passes as RETT's target, which is the model's
choice (log 55). -/
theorem handlerInstructions : Obligations.HandlerInstructions := by
  unfold Obligations.HandlerInstructions
  exact ⟨fun p w h s u s1 hpass hsync => ⟨rett_leaves h hpass hsync, rett_leavesSheet h hpass hsync⟩, fun p w s u h hi hp => rett_traps h hi hp,
    tclr_clears, tmask_swaps, halt_stops, fun p w s u h hi => halt_kills h hi⟩

end Sys2Proof.Machine
end

section
/-! SUPPORT. O58: violations, modules, the debugger, kills, bring-up and reset (R227, R228, R331, R359, R394, R406, R410, R411). -/

namespace Sys2Proof.Machine

open Sys2Proof

/-! A freeze posts its record (R410). -/

/-- A freeze's record changes the package's own registers and the count of open values alone. -/
theorem freezeRecord_eq (s : State) (v : Nat) : ∃ p n, freezeRecord s v = { s with package := p, free := n } := by
  have hposts : ∃ n gen kind bs, freezeRecord s v = hvEvent { s with free := n } v gen kind bs := ⟨_, _, _, _, rfl⟩
  obtain ⟨n, gen, kind, bs, h⟩ := hposts
  rw [h]
  unfold hvEvent
  dsimp only
  split <;> exact ⟨_, n, rfl⟩

theorem freezeRecord_calm (s : State) (v : Nat) : Calm s (freezeRecord s v) := by
  obtain ⟨p, n, h⟩ := freezeRecord_eq s v
  rw [h]
  exact Calm.of_same rfl rfl rfl rfl rfl

theorem freezeRecord_vd (s : State) (v k : Nat) : (freezeRecord s v).vd k = s.vd k := by
  obtain ⟨p, n, h⟩ := freezeRecord_eq s v
  rw [h]
  rfl

theorem freezeRecord_die (s : State) (v d : Nat) : (freezeRecord s v).die d = s.die d := by
  obtain ⟨p, n, h⟩ := freezeRecord_eq s v
  rw [h]
  rfl

theorem freezeRecord_episodes (s : State) (v : Nat) : (freezeRecord s v).episodes = s.episodes := by
  obtain ⟨p, n, h⟩ := freezeRecord_eq s v
  rw [h]

theorem freezeRecord_security (s : State) (v : Nat) : (freezeRecord s v).security = s.security := by
  obtain ⟨p, n, h⟩ := freezeRecord_eq s v
  rw [h]

theorem freezeWindow_calm (s : State) (v : Nat) : Calm s (freezeWindow s v) := by
  unfold freezeWindow
  split
  · exact Calm.of_same rfl rfl rfl rfl rfl
  · exact (setVd_calm ..).trans (freezeRecord_calm ..)

theorem freezeWindow_frozen (s : State) (v : Nat) : ((freezeWindow s v).vd v).frozen = true := by
  unfold freezeWindow
  split
  · assumption
  · rw [freezeRecord_vd, State.modVd_eq, State.vd_setVd]

theorem window_freezes (s : State) {v : Nat} (h : v < 1024) :
    ∃ t, Completes (.violation_freeze (.vdWindow v)) s t ∧ Quiet s t ∧ (t.vd v).frozen = true :=
  happens (P := fun t => (t.vd v).frozen = true) (if_neg (by omega)) (freezeWindow_calm s v) (freezeWindow_frozen s v)

/-! A Poleile core is stopped, and its episode ends (R311, R410). -/

/-- The package's own registers and the episodes that run. -/
def State.rolls (s : State) : Package × List Episode := (s.package, s.episodes)

theorem setDie_rolls (s : State) (d : Nat) (x : Die) : (s.setDie d x).rolls = s.rolls := (congrArg State.rolls (setDie_offDies s d x) :)

theorem vdEvent_rolls (s : State) (v gen kind : Nat) (bs : List Byte) : (vdEvent s v gen kind bs).rolls = s.rolls := by
  unfold vdEvent
  dsimp only
  split
  · rfl
  · split
    · rfl
    · split <;> rfl

/-- The core of an episode that ends stands at its reset, but for what a violation and the monitor have set. -/
def coreCleared (s : State) (e : Episode) : State :=
  s.modPcore e.die e.core (fun p => { PCore.reset with stopped := p.stopped, satp := p.satp, pmp := p.pmp })

/-- The mailboxes that served an episode answer. -/
def boxesEnded (s : State) (e : Episode) : State :=
  (boxesOf s e).foldl (fun s m => settleBox (s.modMailbox e.die m (fun b => { b with ended := b.enable, frozen := false })) e.die m) s

/-- The frames of an episode are unscrubbed. -/
def framesMarked (s : State) (e : Episode) : State := ((e.pages.map (fun p => p.2 / 16)).dedup).foldl State.markFrame s

theorem boxesEnded_rolls (s : State) (e : Episode) : (boxesEnded s e).rolls = s.rolls :=
  foldl_keeps State.rolls _ (fun _ _ => (setDie_rolls ..).trans (setDie_rolls ..)) (boxesOf s e) s

theorem framesMarked_rolls (s : State) (e : Episode) : (framesMarked s e).rolls = s.rolls :=
  foldl_keeps State.rolls State.markFrame (fun _ _ => rfl) _ s

theorem endEpisode_rolls (s : State) (e : Episode) (code : DWord) :
    (endEpisode s e code).rolls = (s.package, s.episodes.filter (fun x => !(x.die == e.die && x.id == e.id))) := by
  have hrolls : (framesMarked (boxesEnded (coreCleared s e) e) e).rolls = s.rolls :=
    (framesMarked_rolls ..).trans ((boxesEnded_rolls ..).trans (setDie_rolls ..))
  refine (vdEvent_rolls ..).trans ?_
  exact Prod.ext (congrArg Prod.fst hrolls :)
    (congrArg (List.filter (fun x : Episode => !(x.die == e.die && x.id == e.id))) (congrArg Prod.snd hrolls) :)

/-- A core's episode, if one runs, ends with a code that the spec leaves open. -/
def coreEnded (s : State) (d c : Nat) : State :=
  match episodeOn s d c with
  | some e => endEpisode (freePair s).2 e (freePair s).1
  | none => s

theorem coreEnded_episodes (s : State) (d c : Nat) :
    (coreEnded s d c).episodes = s.episodes.filter (fun x => !(episodeOn s d c).any (fun e => x.die == e.die && x.id == e.id)) := by
  unfold coreEnded
  cases episodeOn s d c with
  | none => exact (List.filter_eq_self.mpr (fun _ _ => rfl)).symm
  | some e => exact (congrArg Prod.snd (endEpisode_rolls (freePair s).2 e (freePair s).1) :)

/-- A stopped core. -/
def PCore.halted (p : PCore) : PCore := { p with stopped := true }

theorem pcore_modPcore (s : State) {d : Nat} (c : Nat) (f : PCore → PCore) (h : d < 9) : (s.modPcore d c f).pcore d c = f (s.pcore d c) := by
  unfold State.modPcore State.pcore
  rw [State.modDie_eq, State.die_setDie _ _ h]
  exact SMap.get_set_self ..

theorem exec_poleile {s : State} {d c : Nat} (hd : d < 9) (hc : c < 16) (hstopped : (s.pcore d c).stopped = false) :
    ∃ v, exec (.violation_freeze (.poleile d c)) s = did (freezeRecord ((coreEnded s d c).modPcore d c PCore.halted) v) := by
  refine ⟨((episodeOn s d c).map (fun e => e.vd)).getD 0xFFFF, ?_⟩
  change execViolationFreeze (.poleile d c) s = _
  unfold execViolationFreeze coreEnded
  dsimp only
  rw [if_neg (by simp [hstopped]; omega)]
  cases episodeOn s d c <;> rfl

theorem poleile_freezes (s : State) {d c : Nat} (hd : d < 9) (hc : c < 16) (hstopped : (s.pcore d c).stopped = false) :
    ∃ t, Completes (.violation_freeze (.poleile d c)) s t ∧ (t.pcore d c).stopped = true ∧
      episodeOn t d c = (s.episodes.filter (fun x => !(episodeOn s d c).any (fun e => x.die == e.die && x.id == e.id))).find?
        (fun e => e.die == d && e.core == c) := by
  obtain ⟨v, hrun⟩ := exec_poleile hd hc hstopped
  refine ⟨_, completes_did hrun, ?_, ?_⟩
  · have hcore := pcore_modPcore (coreEnded s d c) c PCore.halted hd
    have hdie := freezeRecord_die ((coreEnded s d c).modPcore d c PCore.halted) v d
    change (((freezeRecord _ v).die d).pcores.get PCore.reset c).stopped = true
    rw [hdie]
    exact congrArg PCore.stopped hcore
  · have hsame : ((coreEnded s d c).modPcore d c PCore.halted).episodes = (coreEnded s d c).episodes := (congrArg Prod.snd (setDie_rolls ..) :)
    exact congrArg (List.find? (fun e : Episode => e.die == d && e.core == c))
      ((freezeRecord_episodes ..).trans (hsame.trans (coreEnded_episodes s d c)))

/-! A Kwaisk port freezes, and a stream that offends ends at its source (R375, R410). -/

theorem modPortK_calm (s : State) (p : Nat) (f : Port → Port) : Calm s (modPortK s p f) := setDie_calm s _ rfl

theorem peer_freezes (s : State) {p : Nat} (hp : p < 18) (hports : (s.die (p / 2)).ports.length = 2) :
    ∃ t, Completes (.violation_freeze (.peer p)) s t ∧ Quiet s t ∧ ((t.die (p / 2)).ports[p % 2]?).map (fun x => x.frozen) = some true := by
  refine happens (P := fun t => ((t.die (p / 2)).ports[p % 2]?).map (fun x => x.frozen) = some true) (if_neg (by omega))
    ((modPortK_calm ..).trans (freezeRecord_calm ..)) ?_
  rw [freezeRecord_die, modPortK, State.modDie_eq, State.die_setDie _ _ (by omega), setAt_get_self _ _ _ (by omega)]
  rfl

theorem stream_freezes (s : State) {k : BitVec 128} {x : Stream} (h : stream? s k true = some x) :
    ∃ t, Completes (.violation_freeze (.migration k)) s t ∧ Quiet s t ∧ x ∉ t.security.streams := by
  have hrun : exec (.violation_freeze (.migration k)) s = did (freezeRecord (resumeSource s x) x.vd) := by
    change execViolationFreeze (.migration k) s = _
    unfold execViolationFreeze
    dsimp only
    rw [h]
  refine ⟨_, completes_did hrun, (resumeSource_quiet s x).trans ((freezeRecord_calm ..).quiet.trans (report_quiet ..)), ?_⟩
  change x ∉ (freezeRecord (resumeSource s x) x.vd).security.streams
  rw [freezeRecord_security]
  exact resumeSource_gone s x

/-! Kills (R331, R359). -/

/-- The package's own registers and the grids. -/
def State.holds (s : State) : Package × SMap Grid := (s.package, s.grids)

theorem holds_of_kept {w : Nat} {P : RegName → Prop} {K : Marks} {s t : State} (h : Kept w P K s t) : t.holds = s.holds :=
  Prod.ext (congrArg State.package h.state :) (congrArg State.grids h.state :)

theorem barDepart_holds (s : State) (g b n : Nat) (cluster : Bool) : (barDepart s g b n cluster).holds = s.holds := by
  cases hf : barFull s g b n cluster with
  | false => rw [barDepart_waits _ _ _ _ _ hf]
  | true =>
    obtain ⟨ls, lbl, val, he⟩ := barDepart_eq s g b n cluster hf
    rw [he]
    exact (foldl_keeps State.holds _ (fun t p => holds_of_kept (departs_kept lbl val t p)) _ _).trans
      (holds_of_kept (joinList_kept _ noReg noMask s ls))

theorem barsRecheck_holds (s : State) (g b : Nat) : (barsRecheck s g b).holds = s.holds :=
  foldl_keeps State.holds _ (fun _ _ => (barDepart_holds ..).trans (barDepart_holds ..)) _ s

theorem gangFail_holds (s : State) (q w : Nat) (gang : Word) : (gangFail s q w gang).holds = s.holds := by
  unfold gangFail
  dsimp only
  refine (foldl_keeps State.holds _ (fun s m => ?_) _ _).trans rfl
  rfl

theorem dropWarpLatches_holds (s : State) (w : Nat) : (dropWarpLatches s w).holds = s.holds := by
  unfold dropWarpLatches
  dsimp only
  split
  · split <;> rfl
  · rfl

theorem dieWarp_holds (s : State) (w cause : Nat) (lbl : Label) : (dieWarp s w cause lbl).holds = s.holds := by
  cases h : (s.warp w).life.ended with
  | true => rw [dieWarp_ended s w cause lbl h]
  | false =>
    rw [dieWarp_eq h, barsRecheck_holds]
    exact (foldl_keeps State.holds _ (fun t v => gangFail_holds t _ w v) _ _).trans (dropWarpLatches_holds s w)

theorem killGrid_alive {s : State} {g : Nat} (hc : (s.grid g).complete = false) (hk : (s.grid g).killed = false) (cause : Nat) :
    killGrid s cause g = (warpsOf (markKilled s g) g).foldl (fun s e => dieWarp s e.1 cause 0#8) (markKilled s g) := by
  unfold killGrid
  dsimp only
  rw [if_neg (by simp [hc, hk])]
  rfl

theorem killGrid_past {s : State} {g : Nat} (h : (s.grid g).complete = true ∨ (s.grid g).killed = true) (cause : Nat) : killGrid s cause g = s := by
  unfold killGrid
  exact if_pos h

theorem markKilled_holds (s : State) (g : Nat) :
    (markKilled s g).holds = (s.package, s.grids.put g { s.grid g with killed := true, shares := [] }) := by
  unfold markKilled
  dsimp only
  split <;> rfl

theorem markKilled_readMem (s : State) (g d : Nat) (l : Loc) : (markKilled s g).readMem d l = s.readMem d l := by
  unfold markKilled
  dsimp only
  split <;> exact readMem_congr rfl rfl rfl rfl d l

theorem dieWarps_holds (cause : Nat) (es : List (Nat × Warp)) (s : State) : (es.foldl (fun s e => dieWarp s e.1 cause 0#8) s).holds = s.holds :=
  foldl_keeps State.holds _ (fun s (e : Nat × Warp) => dieWarp_holds s e.1 cause 0#8) es s

theorem dieWarps_readMem (cause : Nat) (es : List (Nat × Warp)) (s : State) (d : Nat) (l : Loc) :
    (es.foldl (fun s e => dieWarp s e.1 cause 0#8) s).readMem d l = s.readMem d l :=
  foldl_keeps (fun s : State => s.readMem d l) _ (fun s (e : Nat × Warp) => dieWarp_readMem s e.1 cause 0#8 d l) es s

/-- A grid that is to be killed is past it, or alive. -/
theorem grid_cases (s : State) (g : Nat) :
    ((s.grid g).complete = true ∨ (s.grid g).killed = true) ∨ (s.grid g).complete = false ∧ (s.grid g).killed = false := by
  cases (s.grid g).complete <;> cases (s.grid g).killed <;> simp

theorem killGrid_readMem (s : State) (cause g d : Nat) (l : Loc) : (killGrid s cause g).readMem d l = s.readMem d l := by
  rcases grid_cases s g with hpast | ⟨hc, hk⟩
  · rw [killGrid_past hpast]
  · rw [killGrid_alive hc hk]
    exact (dieWarps_readMem ..).trans (markKilled_readMem ..)

theorem killGrid_package (s : State) (cause g : Nat) : (killGrid s cause g).package = s.package := by
  rcases grid_cases s g with hpast | ⟨hc, hk⟩
  · rw [killGrid_past hpast]
  · rw [killGrid_alive hc hk]
    exact congrArg Prod.fst ((dieWarps_holds ..).trans (markKilled_holds s g))

/-- Of an alive grid, its kill marks it, and leaves the other grids. -/
theorem killGrid_grid {s : State} {g : Nat} (hc : (s.grid g).complete = false) (hk : (s.grid g).killed = false) (cause k : Nat) :
    (killGrid s cause g).grid k = if k = g then { s.grid g with killed := true, shares := [] } else s.grid k := by
  have hgrids : (killGrid s cause g).grids = s.grids.put g { s.grid g with killed := true, shares := [] } := by
    rw [killGrid_alive hc hk]
    exact congrArg Prod.snd ((dieWarps_holds ..).trans (markKilled_holds s g))
  unfold State.grid
  rw [hgrids]
  split
  · rename_i h; rw [h, SMap.get?_put_self]; rfl
  · rename_i h; rw [SMap.get?_put_ne _ _ h]

theorem killGrid_killed {s : State} {g : Nat} (hc : (s.grid g).complete = false) (cause : Nat) : ((killGrid s cause g).grid g).killed = true := by
  cases hk : (s.grid g).killed with
  | true => rw [killGrid_past (Or.inr hk)]; exact hk
  | false => rw [killGrid_grid hc hk, if_pos rfl]

/-- A grid that is killed stays so. -/
theorem killGrid_stays {s : State} {k : Nat} (h : (s.grid k).killed = true) (cause g : Nat) : ((killGrid s cause g).grid k).killed = true := by
  rcases grid_cases s g with hpast | ⟨hc, hk⟩
  · rw [killGrid_past hpast]; exact h
  · rw [killGrid_grid hc hk]
    split
    · rfl
    · exact h

theorem kill_warp (s : State) {req : Req} {w : Nat} (hkill : killable s w = true) (hmay : mayWindow s req (s.warp w).vd = true)
    (hopen : (s.vd (s.warp w).vd).frozen = false ∨ isHv s req = true) :
    ∃ t, Completes (.host_kill req (.warp w)) s t ∧ (t.warp w).life = .dying 4 0#8 ∧ ∀ d l, t.readMem d l = s.readMem d l := by
  have hrun : exec (.host_kill req (.warp w)) s = did (dieWarp s w 4 0#8) := by
    change execHostKill req (.warp w) s = _
    unfold execHostKill
    dsimp only
    rw [if_neg (by simp [hkill]), if_neg (by simp [hmay]), if_neg (by rcases hopen with h | h <;> simp [h])]
  exact ⟨_, completes_did hrun, dieWarp_life s w 4 0#8 (killable_alive hkill), dieWarp_readMem s w 4 0#8⟩

theorem kill_grid (s : State) {req : Req} {g : Nat} {x : Grid} (hx : s.grids.get? g = some x) (hcomplete : x.complete = false)
    (hmay : mayWindow s req x.vd = true) (hopen : (s.vd x.vd).frozen = false ∨ isHv s req = true) :
    ∃ t, Completes (.host_kill req (.grid g)) s t ∧ (t.grid g).killed = true ∧ ∀ d l, t.readMem d l = s.readMem d l := by
  have hrun : exec (.host_kill req (.grid g)) s = did ((beneath s 9 g).foldl (fun s k => killGrid s 4 k) s) := by
    change execHostKill req (.grid g) s = _
    unfold execHostKill
    dsimp only
    rw [hx]
    dsimp only
    rw [if_neg (by simp [hcomplete]), if_neg (by simp [hmay]), if_neg (by rcases hopen with h | h <;> simp [h])]
  have hgrid : (s.grid g).complete = false := by rw [State.grid, hx]; exact hcomplete
  refine ⟨_, completes_did hrun, ?_, fun d l => ?_⟩
  · exact List.foldlRecOn (motive := fun t : State => (t.grid g).killed = true) ((childrenOf s g).map (fun c => beneath s 8 c.serial)).flatten _
      (killGrid_killed hgrid 4) (fun t ht k _ => killGrid_stays ht 4 k)
  · exact foldl_keeps (fun t : State => t.readMem d l) _ (fun t k => killGrid_readMem t 4 k d l) _ s

/-! Contexts are killed, and dies lose the host port (R394, R406). -/

theorem vdEvent_package (s : State) (v gen kind : Nat) (bs : List Byte) : (vdEvent s v gen kind bs).package = s.package :=
  congrArg Prod.fst (vdEvent_rolls ..)

theorem killContexts_package (s : State) (serial channel : Nat) (loc : DWord) (gs : List Grid) :
    (killContexts s serial channel loc gs).package = s.package :=
  foldl_keeps State.package _ (fun _ _ => (vdEvent_package ..).trans (killGrid_package ..)) gs s

theorem killContexts_readMem (s : State) (serial channel : Nat) (loc : DWord) (gs : List Grid) (d : Nat) (l : Loc) :
    (killContexts s serial channel loc gs).readMem d l = s.readMem d l :=
  foldl_keeps (fun t : State => t.readMem d l) _ (fun _ _ => ((vdEvent_calm ..).memory_eq d l).trans (killGrid_readMem ..)) gs s

theorem loseHost_package (s : State) (serial channel : Nat) (loc : DWord) (ds : List Nat) : (loseHost s serial channel loc ds).package = s.package :=
  killContexts_package ..

theorem loseHost_readMem (s : State) (serial channel : Nat) (loc : DWord) (ds : List Nat) (d : Nat) (l : Loc) :
    (loseHost s serial channel loc ds).readMem d l = s.readMem d l := killContexts_readMem ..

/-- The package with a module disabled. -/
def moduleOff (s : State) (m : Nat) : State := { s with package := { s.package with modules := setAt s.package.modules m false } }

/-- Dies lose the host port with the whole group of their modules, an error whose serial, channel and location the spec leaves open. -/
def groupLost (s : State) (ds : List Nat) : State :=
  let x := (freePair s).1
  let p := freePair (freePair s).2
  loseHost p.2 (x.toNat % 2 ^ 48) (x.toNat / 2 ^ 48 % 14) p.1 ds

theorem groupLost_package (s : State) (ds : List Nat) : (groupLost s ds).package = s.package := (loseHost_package ..).trans rfl

theorem groupLost_readMem (s : State) (ds : List Nat) (d : Nat) (l : Loc) : (groupLost s ds).readMem d l = s.readMem d l :=
  (loseHost_readMem ..).trans (((freePair_calm _).memory_eq d l).trans ((freePair_calm s).memory_eq d l))

theorem module_disables (s : State) {m : Nat} (hm : m < 8) (hlength : s.package.modules.length = 8) :
    ∃ t, Completes (.host_module_disable m) s t ∧ t.package.modules[m]? = some false ∧ ∀ d l, t.readMem d l = s.readMem d l := by
  have hoff : (moduleOff s m).package.modules[m]? = some false := setAt_get_self _ _ _ (by omega)
  have hmem : ∀ d l, (moduleOff s m).readMem d l = s.readMem d l := readMem_congr rfl rfl rfl rfl
  by_cases hgroup : (((moduleOff s m).package.modules.drop (m / 4 * 4)).take 4).any id = true
  · have hrun : exec (.host_module_disable m) s = did (moduleOff s m) := by
      change execHostModuleDisable m s = _
      unfold execHostModuleDisable
      rw [if_neg (by omega)]
      exact if_pos hgroup
    exact ⟨_, completes_did hrun, hoff, hmem⟩
  · have hrun : exec (.host_module_disable m) s = did (groupLost (moduleOff s m) (routed (if m < 4 then 4 else 8))) := by
      change execHostModuleDisable m s = _
      unfold execHostModuleDisable
      rw [if_neg (by omega)]
      exact if_neg hgroup
    refine ⟨_, completes_did hrun, ?_, fun d l => ?_⟩
    · exact (congrArg (fun p : Package => p.modules[m]?) (groupLost_package ..)).trans hoff
    · exact (groupLost_readMem ..).trans (hmem d l)

/-! The debugger (R227, R228). -/

theorem hvWrite_allowed {s : State} {req : Req} (h : isHv s req = true) (f : State → State) : hvWrite s req f = did (f s) := by
  unfold hvWrite
  rw [if_pos h]

/-- The sub-warps of a list become ready: one of them that stands, and one that was ready. -/
theorem makeReady_foldl_hold {w : Nat} {i : SubId} (us : List SubWarp) (s : State)
    (h : ∃ v, (s.warp w).sub i = some v ∧ (v.hold = .ready ∨ ∃ u, u ∈ us ∧ u.id = i)) :
    (((us.foldl (fun s u => makeReady s w u) s).warp w).sub i).map (fun v => v.hold) = some .ready := by
  induction us generalizing s with
  | nil =>
    obtain ⟨v, hv, hready | ⟨u, hu, -⟩⟩ := h
    · rw [List.foldl_nil, hv]; exact congrArg some hready
    · cases hu
  | cons u us ih =>
    obtain ⟨v, hv, hor⟩ := h
    refine ih _ ?_
    by_cases hid : u.id = i
    · subst hid
      exact ⟨_, makeReady_sub hv, .inl rfl⟩
    · refine ⟨v, (makeReady_sub_other hid).trans hv, hor.imp_right ?_⟩
      rintro ⟨z, hz, hzi⟩
      rcases List.mem_cons.mp hz with rfl | hz
      · exact absurd hzi hid
      · exact ⟨z, hz, hzi⟩

/-- A warp that goes on, WATCH cleared. -/
def Warp.goesOn (x : Warp) : Warp := { x with stopped := false, tc := x.tc &&& ~~~(1#64 <<< 24) }

/-- The state from which the halted sub-warps of a warp go on: its block is not frozen any more. -/
def unhalted (s : State) (w : Nat) : State :=
  (s.modBlock (s.warp w).grid (s.warp w).block (fun b => { b with frozen := false })).modWarp w Warp.goesOn

/-- What DEBUG_RESUME does. -/
def debugResumed (s : State) (w : Nat) : State :=
  (sortOn (fun u => u.stamp) ((s.warp w).subs.filter (fun u => u.hold == .halted))).foldl (fun s u => makeReady s w u) (unhalted s w)

theorem unhalted_warp (s : State) (w : Nat) : (unhalted s w).warp w = (s.warp w).goesOn := State.warp_setWarp ..

theorem debugResumed_kept (s : State) (w : Nat) : Kept w noReg noMask (unhalted s w) (debugResumed s w) :=
  Kept.foldl _ (fun s u => makeReady_kept w noReg noMask s u) _ _

theorem debugResumed_frame (s : State) (w : Nat) :
    Frame (fun _ _ => False) (fun _ _ => False) (fun x => x = w) (fun _ _ => False) s (debugResumed s w) := by
  have hkept := debugResumed_kept s w
  have hother (k : Nat) (hk : k ≠ w) : (debugResumed s w).warp k = s.warp k :=
    (hkept.others k hk).trans (State.warp_setWarp_ne _ _ hk)
  refine ⟨fun k g _ => ?_, fun k n _ => ?_, fun k hk => congrArg Warp.specials (hother k hk), fun d l _ =>
    (hkept.readMem d l).trans (readMem_congr rfl rfl rfl rfl d l)⟩ <;> by_cases hk : k = w
  · subst hk
    rw [hkept.regs g (fun h => h), unhalted_warp]
    cases g <;> rfl
  · rw [hother k hk]
  · subst hk
    rw [hkept.masks n (fun h => h), unhalted_warp]
    rfl
  · rw [hother k hk]

theorem debug_resumes (s : State) {req : Req} {w : Nat} (hw : (s.warps.get? w).isSome = true) (hreq : isHv s req = true) :
    ∃ t, Completes (.debug_resume req w) s t ∧ Frame (fun _ _ => False) (fun _ _ => False) (fun x => x = w) (fun _ _ => False) s t ∧
      (t.warp w).stopped = false ∧ (t.warp w).tc = (s.warp w).tc &&& ~~~(1#64 <<< 24) ∧
      ∀ u, (s.warp w).sub u.id = some u → u.hold = .halted → ((t.warp w).sub u.id).map (fun v => v.hold) = some .ready := by
  have hrun : exec (.debug_resume req w) s = did (debugResumed s w) := by
    change execDebugResume req w s = _
    unfold execDebugResume
    rw [if_neg (by simpa [Option.isSome_iff_ne_none] using hw), hvWrite_allowed hreq]
    rfl
  have hkept := debugResumed_kept s w
  have hwarp := unhalted_warp s w
  refine ⟨_, completes_did hrun, (debugResumed_frame s w).trans (Frame.of_quiet (report_quiet ..)), ?_, ?_, fun u hsub hhalted => ?_⟩
  · exact (congrArg Warp.stopped hkept.warp :).trans (congrArg Warp.stopped hwarp)
  · exact (congrArg Warp.tc hkept.warp :).trans (congrArg Warp.tc hwarp)
  · refine makeReady_foldl_hold _ (unhalted s w) ⟨u, ?_, .inr ⟨u, ?_, rfl⟩⟩
    · rw [hwarp]; exact hsub
    · exact mem_sortOn.mpr (List.mem_filter.mpr ⟨List.mem_of_find?_eq_some hsub, by simp [hhalted]⟩)

/-- The sub-warps of a warp that run or wait halt, and its latches are invalid. -/
def haltWarp (s : State) (w : Nat) : State :=
  (dropWarpLatches s w).modWarp w (fun x => { x with subs := x.subs.map (fun u =>
    if u.hold == .ready || u.hold == .waiting then { u with hold := .halted } else u) })

theorem haltWarp_quiet (s : State) (w : Nat) : Quiet s (haltWarp s w) :=
  (dropWarpLatches_calm s w).quiet.trans (Quiet.setWarp _ w ⟨fun g => by cases g <;> rfl, fun _ => rfl, rfl⟩)

theorem haltWarp_blocks (s : State) (w : Nat) : (haltWarp s w).blocks = s.blocks := by
  unfold haltWarp dropWarpLatches
  dsimp only
  split
  · split <;> rfl
  · rfl

theorem block_freezes (s : State) {req : Req} {g b : Nat} {x : Block} (hx : s.blocks.get? (blockKey g b) = some x) (hreq : isHv s req = true) :
    ∃ t, Completes (.block_freeze req g b) s t ∧ Quiet s t ∧ (t.block g b).frozen = true := by
  have hrun : exec (.block_freeze req g b) s = did (x.warps.foldl haltWarp (s.modBlock g b (fun b => { b with frozen := true }))) := by
    change execBlockFreeze req g b s = _
    unfold execBlockFreeze
    rw [hx]
    exact hvWrite_allowed hreq _
  refine ⟨_, completes_did hrun, ((modBlock_calm ..).quiet.trans (Quiet.foldl _ haltWarp_quiet _ _)).trans (report_quiet ..), ?_⟩
  have hblocks := foldl_keeps State.blocks haltWarp haltWarp_blocks x.warps (s.modBlock g b (fun b => { b with frozen := true }))
  change (((x.warps.foldl haltWarp (s.modBlock g b (fun b => { b with frozen := true }))).blocks.get? (blockKey g b)).getD Block.none).frozen = true
  rw [hblocks]
  exact congrArg Block.frozen (State.block_setBlock s g b _)

/-! Bring-up (R411). -/

theorem setDie_package (s : State) (d : Nat) (x : Die) : (s.setDie d x).package = s.package := congrArg Prod.fst (setDie_rolls ..)

theorem logError_package (s : State) (d channel outcome v w : Nat) (loc : DWord) : (logError s d channel outcome v w loc).package = s.package := by
  unfold logError
  dsimp only
  have hcount (t : State) (h : t.package = s.package) : (if outcome = 0 then countDie t d 20 v else t).package = s.package := by
    split
    · exact (setDie_package ..).trans h
    · exact h
  split
  · exact hcount _ (setDie_package ..)
  · exact (vdEvent_package ..).trans (hcount _ (setDie_package ..))

theorem endEpisodes_package (s : State) (d : Nat) : (endEpisodes s d).package = s.package :=
  foldl_keeps State.package _ (fun s e => congrArg Prod.fst (endEpisode_rolls (freePair s).2 e (freePair s).1)) _ s

theorem loseMemory_package (s : State) (d : Nat) : (loseMemory s d).package = s.package := by
  refine foldl_keeps State.package _ (fun s k => ?_) _ s
  split
  · rfl
  · exact setDie_package ..

theorem loseWrite_package (s : State) (f : Flight) : (loseWrite s f).package = s.package := by
  unfold loseWrite
  dsimp only
  split <;> rfl

theorem dropWrites_package (s : State) (d : Nat) : (dropWrites s d).package = s.package :=
  foldl_keeps State.package loseWrite loseWrite_package _ s

theorem fenceDie_package (s : State) (d channel : Nat) (loc : DWord) : (fenceDie s d channel loc).package = s.package := by
  unfold fenceDie
  split
  · rfl
  · dsimp only
    rw [← loseMemory, dropWrites_package, loseMemory_package, loseHost_package, ← endEpisodes, endEpisodes_package]
    exact (killContexts_package ..).trans ((setDie_package ..).trans (logError_package ..))

/-- A Kwaisk port is up, with a peer that the spec leaves open. -/
def linkPort (s : State) (p : Nat) : State :=
  let x := freeValue s
  let y := freeValue x.2
  modPortK y.2 p (fun q => { q with up := true, peer := x.1.toNat % 4096, peerPort := y.1.toNat % 18 })

theorem linkPort_package (s : State) (p : Nat) : (linkPort s p).package = s.package := (setDie_package ..).trans rfl

theorem finishPhase_package (s : State) (fenced : List Nat) : (finishPhase s fenced).package = s.package := by
  unfold finishPhase
  split
  · exact foldl_keeps State.package _ (fun s d => fenceDie_package s d 10 0#64) fenced s
  · split
    · exact foldl_keeps State.package linkPort linkPort_package (List.range 18) s
    · rfl

theorem phase_fails (s : State) {code die : Nat} (hphase : s.package.phase < 7) (herror : s.package.error = 0) (hcode : code % 16 ≠ 0)
    (hdie : die < 9) :
    ∃ t, Completes (.bring_up_phase (.failed code die)) s t ∧ Quiet s t ∧
      t.package.error = code % 16 ∧ t.package.errorDie = die ∧ t.package.phase = s.package.phase := by
  have hrun : exec (.bring_up_phase (.failed code die)) s =
      did { s with package := { s.package with error := code % 16, errorDie := die } } := by
    change execBringUpPhase (.failed code die) s = _
    unfold execBringUpPhase
    rw [if_neg (by omega)]
    exact if_neg (by omega)
  exact ⟨_, completes_did hrun, Quiet.of_same rfl rfl rfl rfl rfl, rfl, rfl, rfl⟩

theorem phase_completes (s : State) (fenced : List Nat) (hphase : s.package.phase < 7) (herror : s.package.error = 0)
    (hloaded : s.package.phase ≠ 3 ∨ ∀ k, k < 4 → s.security.loaded.contains k = true) :
    ∃ t, Completes (.bring_up_phase (.done fenced)) s t ∧ t.package.phase = s.package.phase + 1 := by
  have hready : ¬ (s.package.phase = 3 ∧ (!([0, 1, 2, 3].all s.security.loaded.contains)) = true) := by
    rintro ⟨h3, hmissing⟩
    have hall : [0, 1, 2, 3].all s.security.loaded.contains = true :=
      List.all_eq_true.mpr (fun k hk => (hloaded.resolve_left (fun h => h h3)) k (by fin_cases hk <;> omega))
    simp [hall] at hmissing
  have hrun : exec (.bring_up_phase (.done fenced)) s = did { finishPhase s fenced with
      package := { (finishPhase s fenced).package with phase := (finishPhase s fenced).package.phase + 1 } } := by
    change execBringUpPhase (.done fenced) s = _
    unfold execBringUpPhase
    rw [if_neg (by omega)]
    exact if_neg hready
  exact ⟨_, completes_did hrun, congrArg (fun p : Package => p.phase + 1) (finishPhase_package s fenced)⟩

/-! Reset (R408, R411). -/

/-- After a reset every frame is unscrubbed and reads as zero; host memory stands. -/
theorem resetPackage_readMem (s : State) (d : Nat) (l : Loc) : (resetPackage s).readMem d l = if l.host then s.readMem d l else 0#8 := by
  unfold State.readMem
  cases h : l.host with
  | true => simp [State.copyAt, h, resetPackage]
  | false =>
    have hs : (resetPackage s).scrubbed l.pa = false := rfl
    simp [hs]

theorem exec_reset {s : State} {c : ResetCause}
    (h : c = .powerOn ∨ ∃ req v, c = .resetctl req v ∧ isHv s req = true ∧ field v 0 16 = 0x5A5A#16) :
    exec (.reset c) s = did (resetPackage s) := by
  change execReset c s = _
  rcases h with rfl | ⟨req, v, rfl, hreq, hv⟩
  · rfl
  · exact (hvWrite_allowed hreq _).trans (congrArg did (if_pos hv))

theorem reset_resets (s : State) {c : ResetCause}
    (h : c = .powerOn ∨ ∃ req v, c = .resetctl req v ∧ isHv s req = true ∧ field v 0 16 = 0x5A5A#16) :
    ∃ t, Completes (.reset c) s t ∧ t.warps = [] ∧ t.blocks = [] ∧ t.grids = [] ∧ t.vds = [] ∧ t.cmds = [] ∧ t.flights = [] ∧ t.episodes = [] ∧
      t.package.phase = 0 ∧ t.security.life = s.security.life ∧ t.dies.map (fun d => d.harvest) = s.dies.map (fun d => d.harvest) ∧
      ∀ d l, t.readMem d l = if l.host then s.readMem d l else 0#8 := by
  refine ⟨_, completes_did (exec_reset h), rfl, rfl, rfl, rfl, rfl, rfl, rfl, rfl, rfl, ?_, resetPackage_readMem s⟩
  simp [resetPackage]

theorem resetctl_ignores (s : State) {req : Req} {v : DWord} (hreq : isHv s req = true) (hv : field v 0 16 ≠ 0x5A5A#16) :
    ∃ t, Completes (.reset (.resetctl req v)) s t ∧ Quiet s t :=
  ⟨_, completes_did ((hvWrite_allowed hreq _).trans (congrArg did (if_neg hv))), report_quiet ..⟩

/-- Settles O58: the effect of each event, and what its steps leave. -/
theorem platformEvents : Obligations.PlatformEvents := by
  unfold Obligations.PlatformEvents
  exact ⟨fun s v => window_freezes s, fun s d c => poleile_freezes s, fun s p => peer_freezes s, fun s k x => stream_freezes s,
    fun s m => module_disables s, fun s req w => debug_resumes s, fun s req g b x => block_freezes s, fun s req w => kill_warp s,
    fun s req g x hx _ => kill_grid s hx, fun s hphase herror =>
      ⟨fun code die => phase_fails s hphase herror, fun fenced => phase_completes s fenced hphase herror⟩,
    fun s c => reset_resets s, fun s req v => resetctl_ignores s⟩

end Sys2Proof.Machine
end

section
/-! SUPPORT. The gang register and the rows of the accumulator (O44; R234, R235, R251, R254, R263): checks that change labels alone, then the claim
of a window, rows marked dead, or a column that is read. -/

namespace Sys2Proof.Machine

open Sys2Proof

/-! A discharge (R327). -/

/-- A warp without its holding of a kind with a reference or a queue. -/
def Warp.discharged (kind ref queue : Nat) (x : Warp) : Warp :=
  match findHolding x kind ref queue with
  | .some k => { x with estate := x.estate.eraseIdx k }
  | .none => x

theorem discharge_eq (s : State) (w kind ref queue : Nat) : discharge s w kind ref queue = s.modWarp w (Warp.discharged kind ref queue) := rfl

/-- A part of the warp that is not its estate. -/
theorem Warp.discharged_field {α : Type} (f : Warp → α) (hf : ∀ x es, f { x with estate := es } = f x) (x : Warp) (kind ref queue : Nat) :
    f (x.discharged kind ref queue) = f x := by
  unfold Warp.discharged
  split
  · exact hf _ _
  · rfl

/-! The same operation on states that differ as `Kept` allows. -/

section
variable {w : Nat} {P : RegName → Prop} {K : Marks} {s t : State} (h : Kept w P K s t)
include h

/-- A part of a warp that results, labels, flags and the advance of sub-warps leave. -/
theorem Kept.field {α : Type} (f : Warp → α) (hf : ∀ x : Warp, f x.rest = f x) (k : Nat) : f (t.warp k) = f (s.warp k) := by
  by_cases hk : k = w
  · subst hk
    rw [← hf, h.warp, hf]
  · rw [h.others k hk]

/-- A part of a quadrant that latches and cached translations leave. -/
theorem Kept.quadField {α : Type} (f : Quad → α) (hf : ∀ x : Quad, f x.rest = f x) (q : Nat) : f (t.quad q) = f (s.quad q) := by
  rw [← hf, h.quads q, hf]

/-- The same change of a quadrant, one that touches no latch. -/
theorem Kept.modQuad {q : Nat} {f : Quad → Quad} (hf : ∀ x, (f x).rest = f x.rest := by exact fun _ => rfl) :
    Kept w P K (s.modQuad q f) (t.modQuad q f) := by
  refine ⟨?_, by simpa using h.vds, fun k => ?_, by simpa using h.cores, fun x hx => by simpa using h.others x hx, by simpa using h.warp,
    fun g hg => by simpa using h.regs g hg, fun n hn => by simpa using h.masks n hn, by simpa using h.flags⟩
  · simpa [State.rest, State.setQuad] using h.state
  · simp only [State.modQuad_eq, State.quad_setQuad_eq]
    split
    · rw [hf, hf, h.quads]
    · exact h.quads k

theorem Kept.touchRow (q r : Nat) : Kept w P K (touchRow s q r) (touchRow t q r) :=
  ⟨(congrArg (fun x : State => Machine.touchRow x q r) h.state :), h.vds, h.quads, h.cores, h.others, h.warp, h.regs, h.masks, h.flags⟩

theorem Kept.setRow (q r : Nat) (x : AccRow) : Kept w P K (setRow s q r x) (setRow t q r x) :=
  (h.modQuad (q := q) (f := fun y => { y with rows := y.rows.set AccRow.zero r x })).touchRow q r

theorem Kept.sameBlock : sameBlock t = sameBlock s := by
  funext a b
  unfold Machine.sameBlock
  rw [h.field Warp.grid (fun _ => rfl), h.field Warp.grid (fun _ => rfl), h.field Warp.block (fun _ => rfl), h.field Warp.block (fun _ => rfl)]

theorem Kept.discharge (kind ref queue : Nat) : Kept w P K (discharge s w kind ref queue) (discharge t w kind ref queue) := by
  refine h.modWarp (f := Warp.discharged kind ref queue) (fun x => ?_) (fun x g => ?_) (fun x n => ?_) (fun x => ?_)
  · have hfind : findHolding x.rest kind ref queue = findHolding x kind ref queue := rfl
    unfold Warp.discharged
    rw [hfind]
    split <;> rfl
  · exact Warp.discharged_field (fun y => y.reg g) (fun _ _ => by cases g <;> rfl) x ..
  · exact Warp.discharged_field (fun y => y.mask n) (fun _ _ => rfl) x ..
  · exact Warp.discharged_field Warp.flags (fun _ _ => rfl) x ..

theorem Kept.registerHolding (x : Holding) : Kept w P K (registerHolding s w x) (registerHolding t w x) :=
  h.modWarp (fun _ => rfl) (fun _ g => by cases g <;> rfl) (fun _ _ => rfl) (fun _ => rfl)

theorem Kept.setGangReg (g : Word) : Kept w P K (s.modWarp w (fun x => { x with gang := g })) (t.modWarp w (fun x => { x with gang := g })) :=
  h.modWarp (fun _ => rfl) (fun _ r => by cases r <;> rfl) (fun _ _ => rfl) (fun _ => rfl)

theorem Kept.leaveClaim : Kept w P K (leaveClaim s w) (leaveClaim t w) := by
  unfold Machine.leaveClaim
  rw [h.field Warp.quad (fun _ => rfl)]
  exact h.modQuad

theorem Kept.leaveLatch : Kept w P K (leaveLatch s w) (leaveLatch t w) := by
  unfold Machine.leaveLatch
  rw [h.field Warp.quad (fun _ => rfl)]
  exact h.modQuad

end

section
variable {w : Nat} {P : RegName → Prop} {K : Marks} {s t : State}

theorem Kept.zeroRows (h : Kept w P K s t) (q : Nat) (rs : List Nat) : Kept w P K (zeroRows s q rs) (zeroRows t q rs) := by
  induction rs generalizing s t with
  | nil => exact h
  | cons r rs ih => exact ih (h.setRow q r AccRow.zero)

theorem Kept.takeClaim (h : Kept w P K s t) (g : Word) : Kept w P K (takeClaim s w g) (takeClaim t w g) := by
  unfold Machine.takeClaim
  dsimp only
  rw [h.field Warp.quad (fun _ => rfl), h.quadField Quad.claims (fun _ => rfl), h.sameBlock]
  split
  · exact h.modQuad
  · exact h.modQuad.zeroRows _ _

/-- The gang register takes the same value in both (R235). -/
theorem Kept.setGang {c : Ctx} (h : Kept c.w P K s t) (g : Word) : Kept c.w P K (setGang c g s) (setGang c g t) := by
  unfold Machine.setGang
  rw [h.field Warp.gang (fun _ => rfl)]
  split
  · exact h
  · split
    · exact (h.leaveClaim.discharge 6 0 0).setGangReg _
    · exact ((((h.discharge 6 0 0).leaveClaim).takeClaim g).registerHolding _).setGangReg g

end

/-! What a claim leaves (R235). -/

/-- The package but for its quadrants and audits, where claims and rows are. -/
def State.offRows (s : State) : State := { s with quads := [], audits := [] }

theorem setRow_offRows (s : State) (q r : Nat) (x : AccRow) : (setRow s q r x).offRows = s.offRows := rfl

theorem zeroRows_offRows (s : State) (q : Nat) (rs : List Nat) : (zeroRows s q rs).offRows = s.offRows :=
  foldl_keeps State.offRows (fun s r => setRow s q r AccRow.zero) (fun s r => setRow_offRows s q r AccRow.zero) rs s

theorem takeClaim_offRows (s : State) (w : Nat) (g : Word) : (takeClaim s w g).offRows = s.offRows := by
  unfold takeClaim
  dsimp only
  split
  · rfl
  · exact zeroRows_offRows ..

section
variable {s t : State} (h : t.offRows = s.offRows)
include h

theorem State.offRows_warp (k : Nat) : t.warp k = s.warp k := (congrArg (fun x : State => x.warp k) h :)
theorem State.offRows_cur : t.cur = s.cur := (congrArg State.cur h :)
theorem State.offRows_readMem (d : Nat) (l : Loc) : t.readMem d l = s.readMem d l := (congrArg (fun x : State => x.readMem d l) h :)

end

/-- What a new value of the gang register leaves (R235): the register holds it, and no sub-warp, no byte of memory and not the group has changed. -/
structure GangSet (c : Ctx) (g : Word) (s t : State) : Prop where
  gang : (t.warp c.w).gang = g
  subs : (t.warp c.w).subs = (s.warp c.w).subs
  cur : t.cur = s.cur
  memory : ∀ d l, t.readMem d l = s.readMem d l

theorem setGang_sets (c : Ctx) (g : Word) (s : State) : GangSet c g s (setGang c g s) := by
  unfold setGang
  split
  · rename_i hg
    exact ⟨hg.symm, rfl, rfl, fun _ _ => rfl⟩
  · split
    · rename_i hz
      refine ⟨by simp [hz], ?_, rfl, readMem_congr rfl rfl rfl rfl⟩
      rw [State.modWarp_eq, State.warp_setWarp]
      exact discharge_subs (leaveClaim s c.w) c.w ..
    · have hclaim := takeClaim_offRows (leaveClaim (discharge s c.w 6 0 0) c.w) c.w g
      generalize takeClaim (leaveClaim (discharge s c.w 6 0 0) c.w) c.w g = r at hclaim ⊢
      have hcur : r.cur = s.cur := (State.offRows_cur hclaim).trans rfl
      refine ⟨by simp, ?_, hcur, fun d l => ?_⟩
      · simp only [registerHolding, State.modWarp_eq, State.warp_setWarp, State.offRows_warp hclaim]
        exact discharge_subs s c.w ..
      · exact (readMem_congr rfl rfl rfl rfl d l).trans ((State.offRows_readMem hclaim d l).trans (readMem_congr rfl rfl rfl rfl d l))

/-! Checks that change labels alone. -/

section
variable {c : Ctx} {s t : State}

theorem await_state {b : Bool} {a : Unit} (h : M.await b s = .ok (a, t)) : t = s := by
  unfold M.await at h
  split at h
  · simpa using h.symm
  · cases h

/-- The check that labels join to handle 0 joins them (R251). -/
theorem needZero_passed {ls : State → List Label} {a : Unit} (h : needZero c ls s = .ok (a, t)) : Near s t ∧ Kept c.w noReg noMask s t := by
  unfold needZero at h
  rw [M.run_bind] at h
  split at h
  · exact absurd h (by simp [trapLabel, stopLabel])
  · obtain rfl : _ = t := congrArg Prod.snd (Except.ok.inj h)
    exact ⟨(joinList_near ..).1, joinList_kept ..⟩

theorem readControl_state {x : W1} {joint : Bool} {k : Control} (h : readControl c x joint s = .ok (k, t)) : t = s := by
  unfold readControl at h
  rw [M.st_bind] at h
  obtain ⟨_, s1, h1, h⟩ := M.bind_split h
  rw [← trapIf_state h1]
  exact (congrArg Prod.snd (Except.ok.inj h)).symm

theorem gangChecks_passed {a : Src} {g : Word} (h : gangChecks c a s = .ok (g, t)) : Near s t ∧ Kept c.w noReg noMask s t := by
  unfold gangChecks at h
  obtain ⟨_, s1, h1, h⟩ := M.bind_split h
  rw [M.st_bind] at h
  obtain ⟨_, s2, h2, h⟩ := M.bind_split h
  obtain ⟨_, s3, h3, h⟩ := M.bind_split h
  obtain ⟨_, s4, h4, h⟩ := M.bind_split h
  have ht : t = s4 := by
    split at h
    · obtain ⟨_, _, htrap, -⟩ := M.bind_split h
      cases htrap
    · exact (congrArg Prod.snd (Except.ok.inj h)).symm
  rw [ht]
  rw [trapIf_state h3, await_state h2, checkSrcs_state h1] at h4
  exact needZero_passed h4

theorem dropChecks_passed {w : W0} {r : Nat × Nat} (h : dropChecks c w s = .ok (r, t)) : Near s t ∧ Kept c.w noReg noMask s t := by
  unfold dropChecks at h
  obtain ⟨_, s1, h1, h⟩ := M.bind_split h
  rw [M.st_bind] at h
  obtain ⟨_, s2, h2, h⟩ := M.bind_split h
  obtain ⟨_, s3, h3, h⟩ := M.bind_split h
  obtain ⟨_, s4, h4, h⟩ := M.bind_split h
  obtain rfl : s4 = t := congrArg Prod.snd (Except.ok.inj h)
  rw [trapIf_state h3, trapIf_state h2, checkSrcs_state h1] at h4
  exact needZero_passed h4

theorem rdvChecks_passed {w : W0} {x : W1} {k : Control} (h : rdvChecks c w x s = .ok (k, t)) : Near s t ∧ Kept c.w noReg noMask s t := by
  unfold rdvChecks at h
  obtain ⟨_, s1, h1, h⟩ := M.bind_split h
  obtain ⟨_, s2, h2, h⟩ := M.bind_split h
  obtain ⟨_, s3, h3, h⟩ := M.bind_split h
  obtain ⟨_, s4, h4, h⟩ := M.bind_split h
  obtain ⟨_, s5, h5, h⟩ := M.bind_split h
  rw [M.st_bind] at h
  obtain ⟨_, s6, h6, h⟩ := M.bind_split h
  obtain ⟨_, s7, h7, h⟩ := M.bind_split h
  obtain rfl : s7 = t := congrArg Prod.snd (Except.ok.inj h)
  rw [trapIf_state h7, await_state h6]
  rw [trapIf_state h4, readControl_state h3, checkSrcs_state h2, checkDst_state h1] at h5
  exact needZero_passed h5

end

/-! MX.GANG (R234, R235, R254). -/

theorem wf_acc0 {p : Pfx} {a b : Bool} (h : (WF.acc0.ok p && a && b) = true) : WF.acc0.ok p = true := by
  simp only [Bool.and_eq_true] at h
  exact h.1.1

/-- The body of MX.GANG. -/
def gangBody (w : W0) (c : Ctx) : M Done := do
  let g ← gangChecks c (.code w.a)
  lastUse c [(w.luA, .code w.a)]
  M.upd (setGang c g)
  pure .next

theorem exec_mx_gang {p : Pfx} {w : W0} (h : WF.mx_gang p w = true) (s : State) : exec (.mx_gang p w) s = issue p true s (gangBody w) := by
  change execMxGang p w s = _
  unfold execMxGang
  rw [h]
  rfl

theorem mxGang_does (p : Pfx) (w : W0) (h : WF.mx_gang p w = true) :
    Does (.mx_gang p w) p (fun c => gangChecks c (.code w.a)) (fun c g s => setGang c g s) (fun _ _ => noReg) (fun _ _ => noMask)
      (fun c g s t => GoesOn c s t ∧ (t.warp c.w).gang = g ∧ ∀ d l, t.readMem d l = s.readMem d l) := by
  refine does_next (exec_mx_gang h) (fun c g s => (setGang_sets c g s).cur) (fun c s g s1 hchk => gangChecks_passed hchk)
    (fun c s g s1 hchk => ?_)
  obtain ⟨s2, h2, hk2, hsubs2⟩ := lastUse_runs c [(w.luA, .code w.a)] s1
  have hset := setGang_sets c g s2
  refine ⟨setGang c g s2, ?_, hk2.setGang g, fun t ht => ?_⟩
  · unfold gangBody
    rw [M.bind_ok hchk, M.bind_ok h2, M.upd_bind]
    rfl
  · have hkept := counted_none (wf_acc0 h) (setGang c g s2) ▸ ht.kept
    exact ⟨ht.goesOn (hset.subs.trans hsubs2), (hkept.field Warp.gang (fun _ => rfl) _).trans hset.gang,
      fun d l => (hkept.readMem d l).trans ((hset.memory d l).trans (hk2.readMem d l))⟩

/-! MX.WAIT (R254). -/

/-- The body of MX.WAIT. -/
def mxWaitBody (c : Ctx) : M Done := do
  let s ← M.st
  M.await (!mxBusy s c.w)
  pure .next

theorem exec_mx_wait {p : Pfx} {w : W0} (h : WF.mx_wait p w = true) (s : State) : exec (.mx_wait p w) s = issue p true s mxWaitBody := by
  change execMxWait p w s = _
  unfold execMxWait
  rw [h]
  rfl

theorem takeLatches_mxBusy (s : State) (u : SubWarp) (w : Nat) : mxBusy (takeLatches s u) w = mxBusy s w := by
  have hcmds : (takeLatches s u).cmds = s.cmds := (congrArg State.cmds (takeLatches_others s u) :)
  rw [mxBusy, hcmds, mxBusy]

/-- What follows where the sub-warp goes on is left out. -/
theorem DoesIf.goesOn {i : Instr} {p : Pfx} {C : State → Ctx → Prop} {E : Ctx → State → State} {P : State → Ctx → RegName → Prop}
    {K : State → Ctx → Marks} {R : Ctx → State → State → Prop} (h : DoesIf i p C E P K (fun c s t => GoesOn c s t ∧ R c s t)) :
    DoesIf i p C E P K (fun c s t => GoesOn c s t) := by
  intro s u hu hC
  obtain ⟨t, ht, hk, hgoes, -⟩ := h s u hu hC
  exact ⟨t, ht, hk, hgoes⟩

theorem mxWait_does (p : Pfx) (w : W0) (h : WF.mx_wait p w = true) :
    DoesIf (.mx_wait p w) p (fun s c => mxBusy s c.w = false) (fun _ s => s) (fun _ _ => noReg) (fun _ _ => noMask) (fun c s t => GoesOn c s t) := by
  refine (doesIf_next (R := fun _ _ _ => True) (wf_acc0 h) (exec_mx_wait h) (fun _ _ => rfl) (fun s u c hidle => ?_)).goesOn
  refine ⟨takeLatches s u, ?_, takeLatches_kept .., by rw [takeLatches_warp], fun _ _ => trivial⟩
  unfold mxWaitBody
  rw [M.st_bind, takeLatches_mxBusy, M.bind_ok (await_true (by rw [hidle]; rfl) _)]
  rfl

/-! MX.DROP (R254). -/

theorem mem_rowsFrom {a b k : Nat} : k ∈ rowsFrom a b ↔ a ≤ k ∧ k < b := by
  simp only [rowsFrom, List.mem_map, List.mem_range]
  constructor
  · rintro ⟨i, hi, rfl⟩
    omega
  · rintro ⟨ha, hb⟩
    exact ⟨k - a, by omega, by omega⟩

/-- Rows of a list marked dead. -/
def deadRows (rs : List Nat) (m : SMap AccRow) : SMap AccRow :=
  rs.foldl (fun m k => m.set AccRow.zero k { m.get AccRow.zero k with dead := true }) m

theorem deadRows_get (rs : List Nat) (m : SMap AccRow) (k : Nat) :
    (deadRows rs m).get AccRow.zero k = if k ∈ rs then { m.get AccRow.zero k with dead := true } else m.get AccRow.zero k := by
  induction rs generalizing m with
  | nil => rfl
  | cons r rs ih =>
    refine (ih _).trans ?_
    rw [SMap.get_set]
    by_cases hr : k = r
    · subst hr
      simp
    · simp [hr]

theorem dropRows_row (q a b : Nat) (s : State) (k : Nat) :
    accRow (dropRows q a b s) q k = if a ≤ k ∧ k < b then { accRow s q k with dead := true } else accRow s q k := by
  have hrows : ((dropRows q a b s).quad q).rows = deadRows (rowsFrom a b) (s.quad q).rows := by simp [dropRows, deadRows]
  rw [accRow, hrows, deadRows_get]
  simp only [mem_rowsFrom]
  rfl

theorem Kept.accRow {w : Nat} {P : RegName → Prop} {K : Marks} {s t : State} (h : Kept w P K s t) (q r : Nat) : accRow t q r = accRow s q r :=
  h.quadField (fun x => x.rows.get AccRow.zero r) (fun _ => rfl) q

/-- The body of MX.DROP. -/
def dropBody (w : W0) (c : Ctx) : M Done := do
  let r ← dropChecks c w
  lastUse c [(w.luA, .code w.a)]
  M.upd (dropRows c.quad r.1 r.2)
  pure .next

theorem exec_mx_drop {p : Pfx} {w : W0} (h : WF.mx_drop p w = true) (s : State) : exec (.mx_drop p w) s = issue p true s (dropBody w) := by
  change execMxDrop p w s = _
  unfold execMxDrop
  rw [h]
  rfl

theorem mxDrop_does (p : Pfx) (w : W0) (h : WF.mx_drop p w = true) :
    Does (.mx_drop p w) p (fun c => dropChecks c w) (fun c r s => dropRows c.quad r.1 r.2 s) (fun _ _ => noReg) (fun _ _ => noMask)
      (fun c r s t => GoesOn c s t ∧ ∀ k, accRow t c.quad k =
        if r.1 ≤ k ∧ k < r.2 then { accRow s c.quad k with dead := true } else accRow s c.quad k) := by
  refine does_next (exec_mx_drop h) (fun _ _ _ => rfl) (fun c s r s1 hchk => dropChecks_passed hchk) (fun c s r s1 hchk => ?_)
  obtain ⟨s2, h2, hk2, hsubs2⟩ := lastUse_runs c [(w.luA, .code w.a)] s1
  refine ⟨dropRows c.quad r.1 r.2 s2, ?_, hk2.modQuad, fun t ht => ⟨ht.goesOn hsubs2, fun k => ?_⟩⟩
  · unfold dropBody
    rw [M.bind_ok hchk, M.bind_ok h2, M.upd_bind]
    rfl
  · have hkept := counted_none (wf_acc0 h) (dropRows c.quad r.1 r.2 s2) ▸ ht.kept
    rw [hkept.accRow, dropRows_row, hk2.accRow]

/-! MX.RDV (R263). -/

theorem joinOff_subs (c : Ctx) (d : Dst) (n : Nat) (s : State) : ((joinOff c d n s).warp c.w).subs = (s.warp c.w).subs := by
  unfold joinOff
  split
  · rfl
  · rename_i k _ _
    refine foldl_keeps (fun s : State => (s.warp c.w).subs) _ (fun s i => ?_) _ s
    refine foldl_keeps (fun s : State => (s.warp c.w).subs) _ (fun s j => ?_) _ s
    refine Eq.trans ?_ (join_subs s c.w (getLane (s.warp c.w) d j i).lbl k c.w)
    dsimp only
    rw [State.modWarp_eq, State.warp_setWarp]
    cases d <;> rfl

theorem putResult_subs (c : Ctx) (d : Dst) (n : Nat) (m : LaneMask) (val : Nat → List Word) (lbl : Nat → Label) (s : State) :
    ((putResult c d n m val lbl s).warp c.w).subs = (s.warp c.w).subs := by
  have hput : ∀ r : State, ((r.modWarp c.w (fun x => putLanes x d n m val lbl)).warp c.w).subs = (r.warp c.w).subs := fun r => by
    rw [State.modWarp_eq, State.warp_setWarp, putLanes_subs]
  have hnote : ((if m = 0#32 then s else noteWrite s c d n).warp c.w).subs = (s.warp c.w).subs := by
    split
    · rfl
    · exact noteWrite_subs ..
  unfold putResult
  dsimp only
  split
  · exact (hput _).trans hnote
  · exact (joinOff_subs ..).trans ((hput _).trans hnote)

theorem keptLanes_subs (c : Ctx) (w : W0) (off : LaneMask) (s : State) : (((keptLanes c w off s).2).warp c.w).subs = (s.warp c.w).subs := by
  have hjoin := fun f => (joinLanes_near s c.w off f).1.field Warp.subs (fun _ => rfl) c.w
  unfold keptLanes
  dsimp only
  split <;> exact hjoin _

/-- Writing lanes places no sub-warp. -/
theorem writeLanes_subs {c : Ctx} {w : W0} {d : Dst} {n : Nat} {m : LaneMask} {val : Nat → List Word} {lbl : Nat → Label} {s t : State}
    (h : writeLanes c w d n m val lbl s = .ok ((), t)) : (t.warp c.w).subs = (s.warp c.w).subs := by
  unfold writeLanes at h
  rw [M.upd_bind, M.run_bind] at h
  obtain rfl : _ = t := congrArg Prod.snd (Except.ok.inj h)
  refine (keptLanes_subs ..).trans ?_
  split
  · rfl
  · exact putResult_subs ..

/-- MX.RDV has no uniform destination (R263). -/
theorem rdv_dst_lanes {p : Pfx} {w : W0} {x : W1} (h : WF.mx_rdv p w x = true) : (dstD w x).uniform = false := by
  have hd : w.d.toNat < 16 := by
    simp only [WF.mx_rdv, Bool.and_eq_true, Bool.or_eq_true] at h
    rcases h.2.2 with h | h
    · have hz : w.d = 0#6 := by simpa using h.2
      simp [hz]
    · simpa [WF.isO] using h.2
  exact dstD_uniform_of_not_isU (by simp [WF.isU]; omega)

/-- The lanes that MX.RDV reads: those that are on below the count. -/
def rdvLanes (c : Ctx) (k : Control) : LaneMask := c.on &&& lanesBelow k.count

/-- The labels of what MX.RDV reads. -/
def rdvLabels (c : Ctx) (k : Control) (s : State) : SMap Label × State :=
  s.joinLanes c.w (rdvLanes c k) (fun i => [(accRow s c.quad (k.first + i)).lbl, pathIn s c.w c.on i])

/-- The body of MX.RDV. -/
def rdvBody (w : W0) (x : W1) (c : Ctx) : M Done := do
  let k ← rdvChecks c w x
  let s ← M.st
  let ls ← M.run' (rdvLabels c k)
  writeLanes c w (dstD w x) 1 (rdvLanes c k ||| c.helpers)
    (fun i => if hasLane (rdvLanes c k) i then [rdvVal s c x k i] else [])
    (fun i => if hasLane (rdvLanes c k) i then ls.get 0#8 i else 0#8)
  pure .next

theorem exec_mx_rdv {p : Pfx} {w : W0} {x : W1} (h : WF.mx_rdv p w x = true) (s : State) :
    exec (.mx_rdv p w x) s = issue p true s (rdvBody w x) := by
  change execMxRdv p w x s = _
  unfold execMxRdv
  rw [h]
  rfl

theorem hasLane_or {m n : LaneMask} {i : Nat} (h : hasLane m i = true ∨ hasLane n i = true) : hasLane (m ||| n) i = true := by
  simpa [hasLane, BitVec.getLsbD_or] using h

theorem mxRdv_does (p : Pfx) (w : W0) (x : W1) (h : WF.mx_rdv p w x = true) :
    Does (.mx_rdv p w x) p (fun c => rdvChecks c w x) (fun _ _ s => s)
      (fun c k g => w.wbs = false ∧ (dstD w x).names 1 ((c.on &&& lanesBelow k.count) ||| c.helpers) g) (fun _ _ => noMask)
      (fun c k s t => GoesOn c s t ∧ (w.wbs = false → ∀ i,
        (hasLane (c.on &&& lanesBelow k.count) i = true → (dstD w x).has (t.warp c.w) 0 i (rdvVal s c x k i)) ∧
        (hasLane (c.on &&& lanesBelow k.count) i = false → hasLane c.helpers i = true → (dstD w x).has (t.warp c.w) 0 i 0#32))) := by
  refine does_next (exec_mx_rdv h) (fun _ _ _ => rfl) (fun c s k s1 hchk => rdvChecks_passed hchk) (fun c s k s1 hchk => ?_)
  have hjoin : Kept c.w (fun g => w.wbs = false ∧ (dstD w x).names 1 (rdvLanes c k ||| c.helpers) g) noMask s1 (rdvLabels c k s1).2 :=
    joinLanes_kept ..
  have hsubs : ((rdvLabels c k s1).2.warp c.w).subs = (s1.warp c.w).subs := (joinLanes_near ..).1.field Warp.subs (fun _ => rfl) _
  obtain ⟨r, hr, hk, hval⟩ := writeLanes_ok c noMask w (dstD w x) 1 (rdvLanes c k ||| c.helpers)
    (fun i => if hasLane (rdvLanes c k) i then [rdvVal s1 c x k i] else [])
    (fun i => if hasLane (rdvLanes c k) i then (rdvLabels c k s1).1.get 0#8 i else 0#8) (rdvLabels c k s1).2
  refine ⟨r, ?_, hjoin.trans hk, fun t ht => ⟨ht.goesOn ((writeLanes_subs hr).trans hsubs), fun hw i => ⟨fun hon => ?_, fun hoff hhelp => ?_⟩⟩⟩
  · unfold rdvBody
    rw [M.bind_ok hchk, M.st_bind, M.run_bind]
    exact (M.bind_ok hr).trans rfl
  · have hv := hval hw (.inl (rdv_dst_lanes h)) 0 i Nat.zero_lt_one (hasLane_or (.inl hon))
    rw [if_pos (show hasLane (rdvLanes c k) i = true from hon)] at hv
    exact Dst.has_after ht.kept hv
  · have hv := hval hw (.inl (rdv_dst_lanes h)) 0 i Nat.zero_lt_one (hasLane_or (.inr hhelp))
    rw [if_neg (by rw [rdvLanes, hoff]; exact Bool.false_ne_true)] at hv
    exact Dst.has_after ht.kept hv

/-- Settles O44: the checks of each change labels alone; MX.GANG's claim is the same before and after the last use of its source (`Kept.setGang`), and
MX.RDV's lanes at and beyond the count stay, which is the model's reading (log entry 81). -/
theorem matrixRegisters : Obligations.MatrixRegisters := by
  unfold Obligations.MatrixRegisters
  exact ⟨mxGang_does, mxWait_does, mxDrop_does, mxRdv_does⟩

end Sys2Proof.Machine
end

section
/-! SUPPORT. Joint operations and the end of matrix commands (O46; R236, R237, R243, R246, R252, R257, R262): the rendezvous latch, what a release
leaves of rows and members, and what MX_CONSUMED and MX_DONE change. -/

namespace Sys2Proof.Machine

open Sys2Proof

/-! MX.MMA and MX.MMAS at the latch (R236, R257). -/

/-- The operation that a group finds in the latch: its warp's, waiting, or released at this group. -/
def latched (s : State) (c : Ctx) : Option Member :=
  (s.quad c.quad).rendezvous.find? (fun m => m.warp == c.w && (!m.done || m.group == c.sub.pc))

theorem Kept.latched {c : Ctx} {w : Nat} {P : RegName → Prop} {K : Marks} {s t : State} (h : Kept w P K s t) : latched t c = latched s c := by
  rw [Machine.latched, h.quadField Quad.rendezvous (fun _ => rfl), Machine.latched]

section
variable {c : Ctx} {sparse : Bool} {w : W0} {x : W1} {s s1 : State} {m : Member}

/-- Issued again at its group once released, the operation leaves the latch and goes on. -/
theorem jointBody_released (hfind : latched s c = some m) (hdone : m.done = true) : ∃ r, jointBody c sparse w x s = .ok (.next, leaveLatch r c.w) ∧ Kept c.w noReg noMask s r ∧
      (r.warp c.w).subs = (s.warp c.w).subs := by
  obtain ⟨r, hr, hk, hsubs⟩ := lastUse_runs c [(w.luA, srcA w x), (w.luB, .code w.b)] s
  refine ⟨r, ?_, hk, hsubs⟩
  unfold latched at hfind
  unfold jointBody
  rw [M.st_bind, hfind]
  dsimp only
  rw [if_pos hdone, M.bind_ok hr, M.upd_bind]
  rfl

/-- Not in the latch, with its checks passed, it enters. -/
theorem jointBody_enters (hfind : latched s c = none) (hchk : enterChecks c sparse w x s = .ok (some m, s1)) :
    jointBody c sparse w x s = .error (.enter m) := by
  unfold latched at hfind
  unfold jointBody
  rw [M.st_bind, hfind]
  dsimp only
  rw [M.bind_ok hchk]
  rfl

end

theorem joint_completes {i : Instr} {p : Pfx} {sparse : Bool} {w : W0} {x : W1} (hp : WF.acc0.ok p = true)
    (hi : ∀ s, exec i s = issue p true s (fun c => jointBody c sparse w x)) :
    DoesIf i p (fun s c => ∃ m, latched s c = some m ∧ m.done = true) (fun c s => leaveLatch s c.w) (fun _ _ => noReg) (fun _ _ => noMask)
      (fun c s t => GoesOn c s t) := by
  refine DoesIf.goesOn (R := fun _ _ _ => True) (doesIf_next hp hi (fun _ _ => rfl) (fun s u c hc => ?_))
  obtain ⟨m, hfind, hdone⟩ := hc
  have htake : Kept c.w noReg noMask s (takeLatches s u) := takeLatches_kept ..
  obtain ⟨r, hr, hk, hsubs⟩ := jointBody_released (sparse := sparse) (w := w) (x := x) (htake.latched.trans hfind) hdone
  exact ⟨_, hr, (htake.trans hk).leaveLatch, hsubs.trans (by rw [takeLatches_warp]), fun _ _ => trivial⟩

/-- The package after an operation has entered the latch of the group's quadrant: its sub-warp waits (R236). -/
def enteredLatch (s : State) (u : SubWarp) (m : Member) : State :=
  { ((s.modWarp s.cur.warp (fun y => y.setSub { u with hold := .waiting })).modQuad s.cur.quad (fun q =>
      { q with rendezvous := q.rendezvous ++ [m] })) with report := .wait }

theorem enteredLatch_quiet (s : State) (u : SubWarp) (m : Member) : Quiet s (enteredLatch s u m) :=
  ((Quiet.setWarp s s.cur.warp (x := (s.warp s.cur.warp).setSub { u with hold := .waiting })
    ⟨fun g => by cases g <;> rfl, fun _ => rfl, rfl⟩).trans (modQuad_calm ..).quiet).trans (report_quiet ..)

/-- A group that is not only tried, and whose body stops to enter the latch, waits in it. -/
theorem issue_enters {p : Pfx} {s s1 : State} {u : SubWarp} {body : Ctx → M Done} {m : Member} (hu : s.issuer = some u)
    (hpfx : checkPfx (mkCtx s u p) p (takeLatches s u) = .ok ((), s1)) (hb : body (mkCtx s u p) s1 = .error (.enter m))
    (hprobe : s.cur.probe = false) : issue p true s body = .next (enteredLatch s u m) := by
  have hsub : (s.warp s.cur.warp).sub s.cur.sub = some u := hu
  have hrun : (do checkPfx (mkCtx s u p) p; body (mkCtx s u p) : M Done) (takeLatches s u) = .error (.enter m) := by
    rw [M.bind_ok hpfx, hb]
  unfold issue
  simp only [hsub, hrun, takeStop, hprobe, Bool.not_true, Bool.false_eq_true, if_false]
  rfl

theorem joint_enters {i : Instr} {p : Pfx} {sparse : Bool} {w : W0} {x : W1} (hi : ∀ s, exec i s = issue p true s (fun c => jointBody c sparse w x))
    {s s1 : State} {u : SubWarp} {m : Member} (hpass : Passes s p u (fun c => enterChecks c sparse w x) (some m) s1) (hprobe : s.cur.probe = false)
    (hfind : latched s (mkCtx s u p) = none) :
    ∃ t, exec i s = .next t ∧ t.report = .wait ∧ Quiet s t ∧ (t.quad s.cur.quad).rendezvous = (s.quad s.cur.quad).rendezvous ++ [m] := by
  obtain ⟨s0, hpfx, hchk⟩ := hpass.split
  obtain ⟨-, -, hk⟩ := checkPfx_near hpfx
  have hnone := ((takeLatches_kept s.cur.warp noReg noMask s u).trans hk).latched.trans hfind
  exact ⟨enteredLatch s u m, (hi s).trans (issue_enters hpass.1 hpfx (jointBody_enters hnone hchk) hprobe), rfl, enteredLatch_quiet ..,
    congrArg Quad.rendezvous (State.quad_setQuad ..)⟩

/-! A release that fails (R239 to R242, R257, R387). -/

theorem memberTrap_quiet (s : State) (q : Nat) (m : Member) (cause : Nat) (lanes : LaneMask) (addr : Word) (firm : Bool) :
    Quiet s (memberTrap s q m cause lanes addr firm) :=
  (modQuad_calm ..).quiet.trans (Quiet.setWarp _ _ ⟨fun g => by cases g <;> rfl, fun _ => rfl, rfl⟩)

theorem failGang_quiet (s : State) (q : Nat) (ms : List Member) (e : MxFail) : Quiet s (failGang s q ms e) := by
  cases e with
  | all cause addr => exact Quiet.foldl _ (fun s m => memberTrap_quiet ..) ms s
  | some bad =>
    refine Quiet.foldl _ (fun s p => ?_) _ s
    dsimp only
    split <;> exact memberTrap_quiet ..

theorem poisonGang_quiet (s : State) (q : Nat) (ms : List Member) : Quiet s (poisonGang s q ms) :=
  Quiet.foldl _ (fun _ _ => memberTrap_quiet ..) ms s

/-! Rows of a release (R122, R243). -/

theorem setRow_calm (s : State) (q r : Nat) (x : AccRow) : Calm s (setRow s q r x) := Calm.of_same rfl rfl rfl rfl rfl

theorem setRow_row (s : State) (q r : Nat) (x : AccRow) (k : Nat) : accRow (setRow s q r x) q k = if k = r then x else accRow s q k := by
  have hrows : ((setRow s q r x).quad q).rows = (s.quad q).rows.set AccRow.zero r x := congrArg Quad.rows (State.quad_setQuad ..)
  rw [accRow, hrows, SMap.get_set]
  rfl

theorem joinList_row (s : State) (w : Nat) (ls : List Label) (q r : Nat) : accRow (s.joinList w ls).2 q r = accRow s q r := by
  simp only [accRow, State.quad, (joinList_near s w ls).2]

section
variable (q : Nat) (ms : List Member) (m : Member) (ga : Gather) (half : BHalf)

/-- The package after the write of one row. -/
def rowWritten (a : ARow) (s : State) : State :=
  let r := s.joinList m.warp ((accRow s q a.row).lbl :: a.lbls ++ [indexLabel ms m.base a.row a.lane] ++ ga.fmtLbls ++ ga.scaleLbls ++ [half.lbl])
  setRow r.2 q a.row ⟨(mxRow ga.fmt a half ga.scalesB (accRow s q a.row)).1, r.1, false, false⟩

theorem computeRows_cons (a : ARow) (as : List ARow) (s : State) :
    (computeRows q ms m ga half (a :: as) s).2 = (computeRows q ms m ga half as (rowWritten q ms m ga half a s)).2 := rfl

theorem rowWritten_calm (a : ARow) (s : State) : Calm s (rowWritten q ms m ga half a s) := (joinList_calm ..).trans (setRow_calm ..)

theorem rowWritten_same (a : ARow) (s : State) :
    (accRow (rowWritten q ms m ga half a s) q a.row).cols = (mxRow ga.fmt a half ga.scalesB (accRow s q a.row)).1 := by
  rw [rowWritten, setRow_row, if_pos rfl]

theorem rowWritten_other (a : ARow) (s : State) {r : Nat} (h : a.row ≠ r) : accRow (rowWritten q ms m ga half a s) q r = accRow s q r := by
  rw [rowWritten, setRow_row, if_neg (Ne.symm h), joinList_row]

theorem computeRows_calm (as : List ARow) (s : State) : Calm s (computeRows q ms m ga half as s).2 := by
  induction as generalizing s with
  | nil => exact Touches.refl s
  | cons a as ih => exact (rowWritten_calm ..).trans (ih _)

/-- A row that no lane names stays. -/
theorem computeRows_other (as : List ARow) (s : State) {r : Nat} (h : ∀ a, a ∈ as → a.row ≠ r) :
    accRow (computeRows q ms m ga half as s).2 q r = accRow s q r := by
  induction as generalizing s with
  | nil => rfl
  | cons a as ih =>
    rw [computeRows_cons, ih _ (fun b hb => h b (List.mem_cons_of_mem _ hb)), rowWritten_other _ _ _ _ _ _ _ (h a List.mem_cons_self)]

/-- Where no two lanes name one row, each row named holds what its operation makes of what it held. -/
theorem computeRows_named (as : List ARow) (s : State) (hn : (as.map ARow.row).Nodup) {a : ARow} (ha : a ∈ as) :
    (accRow (computeRows q ms m ga half as s).2 q a.row).cols = (mxRow ga.fmt a half ga.scalesB (accRow s q a.row)).1 := by
  induction as generalizing s with
  | nil => exact absurd ha List.not_mem_nil
  | cons b as ih =>
    rw [List.map_cons, List.nodup_cons] at hn
    obtain ⟨hfresh, hrest⟩ := hn
    rw [computeRows_cons]
    rcases List.mem_cons.mp ha with rfl | ha
    · rw [computeRows_other _ _ _ _ _ _ _ (fun b hb hr => hfresh (List.mem_map.mpr ⟨b, hb, hr⟩)), rowWritten_same]
    · rw [ih _ hrest ha, rowWritten_other _ _ _ _ _ _ _ (fun hr => hfresh (hr ▸ List.mem_map_of_mem ha))]

end

/-! The rows that lanes name (R236). -/

/-- The place of a lane among the 32 lanes of each member. -/
def lanePlace (x : Nat × Member × Nat × Word) : Nat := 32 * x.1 + x.2.2.1

theorem lanesOf_nodup (m : LaneMask) : (lanesOf m).Nodup := List.nodup_range.filter _

/-- Each lane of a gang has a place of its own. -/
theorem gangLanes_nodup (ms : List Member) : ((gangLanes ms).map lanePlace).Nodup := by
  rw [List.Nodup, List.pairwise_map, gangLanes, List.pairwise_flatten]
  constructor
  · intro l hl
    obtain ⟨p, -, rfl⟩ := List.mem_map.mp hl
    refine List.pairwise_map.mpr ((lanesOf_nodup p.1.lanes).imp (fun hij => ?_))
    simp only [lanePlace, ne_eq]
    omega
  · have hindex : (ms.zipIdx).Pairwise (fun p p' => p.2 ≠ p'.2) := List.pairwise_map.mp (List.nodup_zipIdx_map_snd ms)
    refine List.pairwise_map.mpr (hindex.imp (fun hij => ?_))
    intro x hx y hy
    obtain ⟨i, hi, rfl⟩ := List.mem_map.mp hx
    obtain ⟨j, hj, rfl⟩ := List.mem_map.mp hy
    have hi32 := lanesOf_lt hi
    have hj32 := lanesOf_lt hj
    simp only [lanePlace, ne_eq]
    omega

/-- The A row of a lane as a release reads it, where its spans are in bounds. -/
def laneRow (s : State) (f : FmtBlock) (m : Member) (x : Nat × Member × Nat × Word) : Option ARow :=
  match rowSpans s f (s.warp m.warp).grid (s.warp m.warp).block x.2.2.2.toNat with
  | .ok sp => readARow s f (s.warp m.warp).grid x.2.2.1 (m.base + 32 * x.1 + x.2.2.1) sp
  | .error _ => none

theorem laneRow_row {s : State} {f : FmtBlock} {m : Member} {x : Nat × Member × Nat × Word} {a : ARow} (h : laneRow s f m x = some a) :
    a.row = m.base + lanePlace x := by
  unfold laneRow at h
  split at h
  · unfold readARow at h
    obtain ⟨pos, -, rfl⟩ := Option.map_eq_some_iff.mp h
    exact Nat.add_assoc ..
  · cases h

/-- A check that fails with an error has passed. -/
theorem ok_of_check {ε α : Type} {b : Prop} [Decidable b] {e : ε} {r : Except ε α} {x : α} (h : (if b then .error e else r) = .ok x) : r = .ok x := by
  split at h
  · cases h
  · exact h

/-- The rows of a gather are those of the gang's lanes. -/
theorem gather_rows {s : State} {q : Nat} {ms : List Member} {m : Member} {ga : Gather} (h : gather s q ms m = .ok ga) :
    ∃ f, ga.rows = (gangLanes ms).filterMap (laneRow s f m) := by
  unfold gather at h
  dsimp only at h
  cases hown : ownSpan s (s.warp m.warp).grid (s.warp m.warp).block (BitVec.ofNat 32 m.fmt) 32 32 with
  | error e =>
    rw [hown] at h
    cases h
  | ok fp =>
    rw [hown] at h
    replace h := ok_of_check h
    split at h
    · cases h
    · replace h := ok_of_check h
      split at h
      · cases h
      · cases ok_of_check (ok_of_check h)
        refine ⟨FmtBlock.read (readSpan s (s.warp m.warp).grid fp 32).1, ?_⟩
        rw [List.map_map, List.filterMap_map]
        rfl

/-- No two lanes name one row. -/
theorem gather_nodup {s : State} {q : Nat} {ms : List Member} {m : Member} {ga : Gather} (h : gather s q ms m = .ok ga) :
    (ga.rows.map ARow.row).Nodup := by
  obtain ⟨f, hrows⟩ := gather_rows h
  rw [hrows, List.Nodup, List.pairwise_map, List.pairwise_filterMap]
  refine (List.pairwise_map.mp (gangLanes_nodup ms)).imp (fun hxy a ha b hb => ?_)
  rw [laneRow_row ha, laneRow_row hb]
  omega

/-! Members that are let go on (R246, R252). -/

theorem addCmd_calm (s : State) (c : Cmd) : Calm s (addCmd s c) := by
  have hput : Calm s { s with cmds := s.cmds.put c.id c, cmdSerial := s.cmdSerial + 1 } := Calm.of_same rfl rfl rfl rfl rfl
  unfold addCmd
  dsimp only
  split
  · exact hput.trans (countDie_calm ..)
  · exact hput

theorem addCmd_quad (s : State) (c : Cmd) (q : Nat) : (addCmd s c).quad q = s.quad q := by
  unfold addCmd
  dsimp only
  split
  · exact State.offLogs_quad (countDie_offLogs ..) q
  · rfl

/-- An operation of the latch once the operations of the warps of `ms` are released. -/
def letGo (ms : List Member) (y : Member) : Member := if ms.any (fun m => y.warp == m.warp) then { y with done := true } else y

/-- Released members are marked in the latch. -/
def markReleased (q : Nat) (m : Member) (s : State) : State :=
  s.modQuad q (fun x => { x with rendezvous := x.rendezvous.map (fun y => if y.warp == m.warp then { y with done := true } else y) })

theorem letGo_cons (m : Member) (ms : List Member) (y : Member) :
    letGo ms (if y.warp == m.warp then { y with done := true } else y) = letGo (m :: ms) y := by
  unfold letGo
  by_cases hm : y.warp = m.warp
  · by_cases hms : ms.any (fun x => m.warp == x.warp) = true <;> simp [hm, hms]
  · simp [hm]

section
variable (q half : Nat) (rows : List Nat) (fl : BitVec 8) (lbl : Label)

/-- Each member has a command of its own, and its operation is marked. -/
theorem memberCmds_cons (m : Member) (ms : List Member) (s : State) :
    ∃ c, memberCmds q half rows fl lbl (m :: ms) s = memberCmds q half rows fl lbl ms (markReleased q m (addCmd s c)) := ⟨_, rfl⟩

theorem memberCmds_calm (ms : List Member) (s : State) : Calm s (memberCmds q half rows fl lbl ms s) := by
  induction ms generalizing s with
  | nil => exact Touches.refl s
  | cons m ms ih =>
    obtain ⟨c, hc⟩ := memberCmds_cons q half rows fl lbl m ms s
    rw [hc]
    exact ((addCmd_calm s c).trans (modQuad_calm ..)).trans (ih _)

theorem memberCmds_row (ms : List Member) (s : State) (r : Nat) : accRow (memberCmds q half rows fl lbl ms s) q r = accRow s q r := by
  induction ms generalizing s with
  | nil => rfl
  | cons m ms ih =>
    obtain ⟨c, hc⟩ := memberCmds_cons q half rows fl lbl m ms s
    rw [hc, ih]
    simp only [accRow, markReleased, State.modQuad_eq, State.quad_setQuad, addCmd_quad]

theorem memberCmds_rendezvous (ms : List Member) (s : State) :
    ((memberCmds q half rows fl lbl ms s).quad q).rendezvous = (s.quad q).rendezvous.map (letGo ms) := by
  induction ms generalizing s with
  | nil => exact (List.map_id _).symm
  | cons m ms ih =>
    obtain ⟨c, hc⟩ := memberCmds_cons q half rows fl lbl m ms s
    rw [hc, ih]
    simp only [markReleased, State.modQuad_eq, State.quad_setQuad, addCmd_quad, List.map_map]
    exact congrArg (fun f => List.map f _) (funext (letGo_cons m ms))

/-- The operations of released members are done. -/
theorem memberCmds_done {ms : List Member} {s : State} {x y : Member} (hx : x ∈ ms)
    (hy : y ∈ ((memberCmds q half rows fl lbl ms s).quad q).rendezvous) (hw : y.warp = x.warp) : y.done = true := by
  rw [memberCmds_rendezvous] at hy
  obtain ⟨z, -, rfl⟩ := List.mem_map.mp hy
  unfold letGo at hw ⊢
  by_cases hz : ms.any (fun m => z.warp == m.warp) = true
  · rw [if_pos hz]
  · rw [if_neg hz] at hw
    exact absurd (List.any_eq_true.mpr ⟨x, hx, by simpa using hw⟩) hz

end

/-! RENDEZVOUS_RELEASE (R236, R257). -/

theorem auditRelease_calm (s : State) (q v cmd n : Nat) (rows : List Nat) : Calm s (auditRelease s q v cmd n rows) := by
  unfold auditRelease
  dsimp only
  split
  · exact ((setVd_calm ..).trans (countDie_calm ..)).trans (Calm.of_same rfl rfl rfl rfl rfl)
  · exact setVd_calm ..

theorem auditRelease_quad (s : State) (q v cmd n : Nat) (rows : List Nat) (k : Nat) : (auditRelease s q v cmd n rows).quad k = s.quad k := by
  unfold auditRelease
  dsimp only
  split
  · exact (State.offLogs_quad (countDie_offLogs ..) k :)
  · rfl

/-- A gather met poison: in what it read, or in a row that it adds to (R387). -/
def gatherBad (s : State) (q : Nat) (ga : Gather) : Bool :=
  ga.fmtBad || ga.scaleBad || ga.rows.any (fun a => a.bad || (accRow s q a.row).poison)

/-- The package whose B half counts the members as users. -/
def halfUsed (s : State) (q : Nat) (ms : List Member) (ga : Gather) : State :=
  let half := ((s.quad q).halves[ga.half]?).getD BHalf.empty
  s.modQuad q (fun x => { x with halves := setAt x.halves ga.half { half with users := half.users + ms.length } })

/-- The rows of a release, computed and written. -/
def rowsComputed (s : State) (q : Nat) (ms : List Member) (m : Member) (ga : Gather) : (BitVec 8 × List Label) × State :=
  computeRows q ms m ga (((s.quad q).halves[ga.half]?).getD BHalf.empty) ga.rows (halfUsed s q ms ga)

/-- The release counted, and logged where it is sampled. -/
def releaseCounted (s : State) (q : Nat) (ms : List Member) (m : Member) (rows : List Nat) : State :=
  let s := auditRelease s q (s.warp m.warp).vd s.cmdSerial ms.length rows
  countDie s (dieOfQuad q) 16 (s.warp m.warp).vd

/-- The package after a release without failure and poison. -/
def released (s : State) (q : Nat) (ms : List Member) (m : Member) (ga : Gather) : State :=
  let r := rowsComputed s q ms m ga
  let l := r.2.joinList m.warp r.1.2
  let rows := ga.rows.map (fun a => a.row)
  memberCmds q ga.half rows r.1.1 l.1 ms (releaseCounted l.2 q ms m rows)

section
variable {s : State} {q : Nat} {ms : List Member} {m : Member}

theorem releaseGang_fails {e : MxFail} (h : gather s q ms m = .error e) : releaseGang s q ms m = failGang s q ms e := by
  simp only [releaseGang, h]

theorem releaseGang_poisons {ga : Gather} (h : gather s q ms m = .ok ga) (hbad : gatherBad s q ga = true) :
    releaseGang s q ms m = poisonGang s q ms := by
  simp only [releaseGang, h]
  exact if_pos hbad

theorem releaseGang_releases {ga : Gather} (h : gather s q ms m = .ok ga) (hgood : gatherBad s q ga = false) :
    releaseGang s q ms m = released s q ms m ga := by
  simp only [releaseGang, h]
  exact if_neg (by simpa [gatherBad] using hgood)

end

section
variable (s : State) (q : Nat) (ms : List Member) (m : Member)

theorem releaseCounted_calm (rows : List Nat) : Calm s (releaseCounted s q ms m rows) := (auditRelease_calm ..).trans (countDie_calm ..)

theorem releaseCounted_quad (rows : List Nat) (k : Nat) : (releaseCounted s q ms m rows).quad k = s.quad k :=
  (State.offLogs_quad (countDie_offLogs ..) k).trans (auditRelease_quad ..)

theorem released_calm (ga : Gather) : Calm s (released s q ms m ga) := by
  have hhalf : Calm s (halfUsed s q ms ga) := Calm.of_same rfl rfl rfl rfl rfl
  have hrows : Calm s (rowsComputed s q ms m ga).2 := hhalf.trans (computeRows_calm ..)
  exact ((hrows.trans (joinList_calm ..)).trans (releaseCounted_calm ..)).trans (memberCmds_calm ..)

theorem releaseGang_quiet : Quiet s (releaseGang s q ms m) := by
  cases hg : gather s q ms m with
  | error e =>
    rw [releaseGang_fails hg]
    exact failGang_quiet ..
  | ok ga =>
    cases hbad : gatherBad s q ga with
    | true =>
      rw [releaseGang_poisons hg hbad]
      exact poisonGang_quiet ..
    | false =>
      rw [releaseGang_releases hg hbad]
      exact (released_calm ..).quiet

/-- The rows of a release are those that were computed. -/
theorem released_row (ga : Gather) (r : Nat) : accRow (released s q ms m ga) q r = accRow (rowsComputed s q ms m ga).2 q r := by
  unfold released
  dsimp only
  rw [memberCmds_row, accRow, releaseCounted_quad, ← accRow, joinList_row]

theorem halfUsed_row (ga : Gather) (r : Nat) : accRow (halfUsed s q ms ga) q r = accRow s q r := by
  simp only [accRow, halfUsed, State.modQuad_eq, State.quad_setQuad]

end

/-- What a release leaves where nothing that it read was poisoned (R243, R252, R257). -/
structure Releases (s : State) (q : Nat) (ms : List Member) (ga : Gather) (t : State) : Prop where
  named : ∀ a, a ∈ ga.rows → (accRow t q a.row).cols =
    (mxRow ga.fmt a (((s.quad q).halves[ga.half]?).getD BHalf.empty) ga.scalesB (accRow s q a.row)).1
  others : ∀ r, (∀ a, a ∈ ga.rows → a.row ≠ r) → accRow t q r = accRow s q r
  members : ∀ x y, x ∈ ms → y ∈ (t.quad q).rendezvous → y.warp = x.warp → y.done = true

theorem releaseGang_leaves {s : State} {q : Nat} {ms : List Member} {m : Member} {ga : Gather} (hg : gather s q ms m = .ok ga)
    (hgood : gatherBad s q ga = false) : Releases s q ms ga (releaseGang s q ms m) := by
  rw [releaseGang_releases hg hgood]
  refine ⟨fun a ha => ?_, fun r hr => ?_, fun x y hx hy hw => memberCmds_done _ _ _ _ _ hx hy hw⟩
  · rw [released_row, rowsComputed, computeRows_named _ _ _ _ _ _ _ (gather_nodup hg) ha, halfUsed_row]
  · rw [released_row, rowsComputed, computeRows_other _ _ _ _ _ _ _ hr, halfUsed_row]

theorem release_completes (s : State) (q : Nat) (m : Member) (ms : List Member)
    (hfirst : (s.quad q).rendezvous.findSome? (fun m => if m.done then none else (fullGang s q m).map (fun ms => (m, ms))) = some (m, ms)) :
    ∃ t, Completes (.rendezvous_release q) s t ∧ Quiet s t ∧ ∀ ga, gather s q ms m = .ok ga → ga.fmtBad = false → ga.scaleBad = false →
      (∀ a, a ∈ ga.rows → a.bad = false ∧ (accRow s q a.row).poison = false) → Releases s q ms ga t := by
  refine ⟨{ releaseGang s q ms m with report := .done }, ⟨?_, rfl⟩, (releaseGang_quiet ..).trans (report_quiet ..), fun ga hg hf hs hrows => ?_⟩
  · change execRendezvousRelease q s = _
    simp only [execRendezvousRelease, hfirst]
  · have hgood : gatherBad s q ga = false := by
      simp only [gatherBad, hf, hs, Bool.false_or, List.any_eq_false, Bool.or_eq_true, not_or, Bool.not_eq_true]
      exact hrows
    obtain ⟨hnamed, hothers, hmembers⟩ := releaseGang_leaves hg hgood
    exact ⟨hnamed, hothers, hmembers⟩

/-! What deliveries, joins and flags leave of the engines. -/

/-- The quadrants, the commands in flight and the blocks. -/
def State.engines (s : State) : SMap Quad × SMap Cmd × SMap Block := (s.quads, s.cmds, s.blocks)

section
variable {s t : State}

theorem Near.engines (h : Near s t ∧ t.quads = s.quads) : t.engines = s.engines :=
  Prod.ext h.2 (Prod.ext (congrArg State.cmds h.1.state :) h.1.blocks)

theorem State.engines_cmds (h : t.engines = s.engines) : t.cmds = s.cmds := congrArg (fun x => x.2.1) h
theorem State.engines_blocks (h : t.engines = s.engines) : t.blocks = s.blocks := congrArg (fun x => x.2.2) h
theorem State.engines_row (h : t.engines = s.engines) (q r : Nat) : accRow t q r = accRow s q r := by
  have hq : t.quads = s.quads := congrArg Prod.fst h
  simp only [accRow, State.quad, hq]

end

theorem gfRecord_engines (s : State) (v kind g w : Nat) (pc : DWord) (bs : List Byte) : (gfRecord s v kind g w pc bs).engines = s.engines := by
  unfold gfRecord
  dsimp only
  split <;> rfl

theorem deliverTo_engines (n : Nat) (s : State) (w : Nat) (d : Delivery) : (deliverTo n s w d).engines = s.engines := by
  induction n generalizing w d with
  | zero => exact gfRecord_engines ..
  | succ n ih =>
    unfold deliverTo
    dsimp only
    split
    · split
      · exact ih ..
      · exact gfRecord_engines ..
    · rfl

theorem cmdEntry_engines (s : State) (c : Cmd) (kind : Nat) (data : DWord) (lbl : Label) : (cmdEntry s c kind data lbl).engines = s.engines := by
  unfold cmdEntry
  split
  · rfl
  · unfold deliverEntry
    dsimp only
    split
    · exact gfRecord_engines ..
    · split <;> rfl

theorem cmdEntry_quiet (s : State) (c : Cmd) (kind : Nat) (data : DWord) (lbl : Label) : Quiet s (cmdEntry s c kind data lbl) := by
  unfold cmdEntry
  split
  · exact Quiet.refl s
  · exact deliverEntry_quiet ..

theorem setFlags_engines (s : State) (w : Nat) (f : BitVec 8) (l : Label) : (setFlags s w f l).engines = s.engines := by
  unfold setFlags
  split
  · rfl
  · exact Eq.trans (b := (s.join w (s.warp w).flagLabel l).2.engines) rfl (Near.engines (join_near ..))

theorem setFlags_calm (s : State) (w : Nat) (f : BitVec 8) (l : Label) : Calm s (setFlags s w f l) := by
  unfold setFlags
  split
  · exact Touches.refl s
  · exact (join_near ..).1.calm.trans (setWarp_calm _ _ rfl)

/-- A change of a quadrant that leaves its rows. -/
theorem modQuad_row (s : State) (q : Nat) (f : Quad → Quad) (k r : Nat) (hf : ∀ x, (f x).rows = x.rows := by exact fun _ => rfl) :
    accRow (s.modQuad q f) k r = accRow s k r := by
  simp only [accRow, State.modQuad_eq, State.quad_setQuad_eq]
  split
  · rename_i hk
    rw [hf, hk]
  · rfl

/-! MX_CONSUMED (R246, R252). -/

/-- The reads of a command done. -/
def readsDone (s : State) (c : Cmd) : State := readHalf (putCmd s { c with consumed := true }) { c with consumed := true }

/-- The half of the B latch that a command used has one user fewer. -/
def halfFreed (s : State) (c : Cmd) (uses : Option Nat) : State :=
  match uses with
  | some h => s.modQuad c.quad (fun q =>
      let b := (q.halves[h]?).getD BHalf.empty
      { q with halves := setAt q.halves h { b with users := b.users - 1 } })
  | none => s

/-- The package after MX_CONSUMED of a command. -/
def consumedMx (s : State) (c : Cmd) (base : Nat) (uses : Option Nat) : State :=
  cmdEntry (halfFreed (readsDone s c) c uses) c 0 (mxToken c.tag base 0#8 false) 0#8

theorem halfFreed_calm (s : State) (c : Cmd) (uses : Option Nat) : Calm s (halfFreed s c uses) := by
  unfold halfFreed
  split
  · exact modQuad_calm ..
  · exact Touches.refl s

theorem halfFreed_cmds (s : State) (c : Cmd) (uses : Option Nat) : (halfFreed s c uses).cmds = s.cmds := by cases uses <;> rfl

theorem halfFreed_row (s : State) (c : Cmd) (uses : Option Nat) (q r : Nat) : accRow (halfFreed s c uses) q r = accRow s q r := by
  unfold halfFreed
  split
  · exact modQuad_row ..
  · rfl

theorem readHalf_row (s : State) (c : Cmd) (q r : Nat) : accRow (readHalf s c) q r = accRow s q r := by
  unfold readHalf
  split
  · dsimp only
    split
    · rfl
    · split
      · exact (State.engines_row (deliverTo_engines ..) q r).trans (modQuad_row ..)
      · exact (modQuad_row ..).trans (joinList_row ..)
  · rfl

/-- The reads of a load of the B latch leave its command in flight, as consumed as it is. -/
theorem readHalf_consumed {s : State} {c : Cmd} (h : s.cmds.get? c.id = some c) :
    ((readHalf s c).cmds.get? c.id).map (fun x => x.consumed) = some c.consumed := by
  unfold readHalf
  split
  · dsimp only
    split
    · rw [h]; rfl
    · split
      · rw [putCmd, SMap.get?_put_self]
        rfl
      · have hcmds : ∀ ls, (s.joinList c.warp ls).2.cmds = s.cmds := fun ls => State.engines_cmds (Near.engines (joinList_near ..))
        rw [State.modQuad_eq, State.setQuad_cmds, hcmds, h]
        rfl
  · rw [h]; rfl

theorem consumedMx_quiet (s : State) (c : Cmd) (base : Nat) (uses : Option Nat) : Quiet s (consumedMx s c base uses) :=
  (Calm.quiet (((putCmd_calm ..).trans (readHalf_calm ..)).trans (halfFreed_calm ..))).trans (cmdEntry_quiet ..)

theorem consumed_completes (s : State) (k : Nat) (c : Cmd) {a b : Nat} {f : BitVec 8} {g : Label} {h : List RowWrite} {u l : Option Nat}
    {r : List Nat} (hc : s.cmds.get? k = some c) (hop : c.op = .mx a b f g h u l r) (hid : c.id = k) (hcons : c.consumed = false) :
    ∃ t, Completes (.mx_consumed k) s t ∧ Quiet s t ∧ (t.cmds.get? k).map (fun x => x.consumed) = some true ∧
      ∀ r, accRow t c.quad r = accRow s c.quad r := by
  have hrun : exec (.mx_consumed k) s = did (consumedMx s c b u) := by
    change execMxConsumed k s = _
    unfold execMxConsumed
    rw [hc]
    dsimp only
    split
    · rename_i hop'
      rw [hop] at hop'
      cases hop'
      rw [if_neg (by simp [hcons])]
      rfl
    · rename_i hnone
      exact (hnone _ _ _ _ _ _ _ _ hop).elim
  refine ⟨_, completes_did hrun, (consumedMx_quiet ..).trans (report_quiet ..), ?_, fun r => ?_⟩
  · change ((consumedMx s c b u).cmds.get? k).map _ = _
    rw [consumedMx, State.engines_cmds (cmdEntry_engines ..), halfFreed_cmds, ← hid]
    exact readHalf_consumed (c := { c with consumed := true }) (SMap.get?_put_self ..)
  · change accRow (consumedMx s c b u) c.quad r = _
    rw [consumedMx, State.engines_row (cmdEntry_engines ..), halfFreed_row, readsDone, readHalf_row]
    rfl

/-! Writes of a command (R262). -/

/-- The package with other commands in flight. -/
def State.setCmds (s : State) (cs : SMap Cmd) : State := { s with cmds := cs }

theorem intern_setCmds (s : State) (cs : SMap Cmd) (v : Nat) (x : OwnerSet) (sat : State → State) (hsat : sat (s.setCmds cs) = (sat s).setCmds cs) :
    (s.setCmds cs).intern v x sat = ((s.intern v x sat).1, (s.intern v x sat).2.setCmds cs) := by
  have htable : (s.setCmds cs).vd v = s.vd v := rfl
  unfold State.intern
  rw [htable]
  cases internSet (s.vd v).table x with
  | none => exact Prod.ext rfl hsat
  | some r =>
    dsimp only
    split <;> rfl

theorem join_setCmds (s : State) (cs : SMap Cmd) (w : Nat) (a b : Label) :
    (s.setCmds cs).join w a b = ((s.join w a b).1, (s.join w a b).2.setCmds cs) := by
  unfold State.join
  split
  · rfl
  · split
    · rfl
    · exact intern_setCmds s cs _ _ _ rfl

/-- Labels join alike whatever commands are in flight. -/
theorem joinList_setCmds (s : State) (cs : SMap Cmd) (w : Nat) (ls : List Label) :
    (s.setCmds cs).joinList w ls = ((s.joinList w ls).1, (s.joinList w ls).2.setCmds cs) := by
  have hfold : ∀ (ls : List Label) (l : Label) (s : State),
      ls.foldl (fun (acc : Label × State) l => acc.2.join w acc.1 l) (l, s.setCmds cs) =
        ((ls.foldl (fun (acc : Label × State) l => acc.2.join w acc.1 l) (l, s)).1,
          (ls.foldl (fun (acc : Label × State) l => acc.2.join w acc.1 l) (l, s)).2.setCmds cs) := by
    intro ls
    induction ls with
    | nil => exact fun _ _ => rfl
    | cons k ls ih =>
      intro l s
      rw [List.foldl_cons, List.foldl_cons, join_setCmds]
      exact ih _ _
  exact hfold ls 0#8 s

/-- A command's writes pass their label check whatever commands are in flight. -/
theorem checkWrites_setCmds (c : Cmd) (ws : List RowWrite) (gs : List Nat) (s : State) (cs : SMap Cmd) :
    (checkWrites (s.setCmds cs) c ws gs).1 = (checkWrites s c ws gs).1 := by
  induction gs generalizing s with
  | nil => rfl
  | cons g gs ih =>
    unfold checkWrites
    rw [joinList_setCmds]
    refine (apply_ite Prod.fst _ _ _).trans (.trans ?_ (apply_ite Prod.fst _ _ _).symm)
    exact if_congr Iff.rfl (ih _) rfl

theorem checkWrites_near (c : Cmd) (ws : List RowWrite) (gs : List Nat) (s : State) :
    Near s (checkWrites s c ws gs).2 ∧ (checkWrites s c ws gs).2.quads = s.quads := by
  induction gs generalizing s with
  | nil => exact ⟨Near.refl s, rfl⟩
  | cons g gs ih =>
    have hjoin := fun ls => joinList_near s c.warp ls
    unfold checkWrites
    dsimp only
    split
    · exact ⟨(hjoin _).1.trans (ih _).1, (ih _).2.trans (hjoin _).2⟩
    · exact hjoin _

/-- One write into the scratchpad of its block. -/
def spadWritten (c : Cmd) (s : State) (x : RowWrite) : State :=
  s.modBlock c.grid (x.off / 2 ^ 22) (fun b => { b with spad := b.spad.write (x.off % 2 ^ 22) x.bytes })

theorem applyWrites_eq (s : State) (c : Cmd) (ws : List RowWrite) : applyWrites s c ws = ws.foldl (spadWritten c) s := rfl

theorem applyWrites_calm (s : State) (c : Cmd) (ws : List RowWrite) : Calm s (applyWrites s c ws) :=
  Touches.foldl (spadWritten c) ws s (fun _ _ => modBlock_calm ..)

theorem applyWrites_cmds (s : State) (c : Cmd) (ws : List RowWrite) : (applyWrites s c ws).cmds = s.cmds :=
  foldl_keeps State.cmds (spadWritten c) (fun _ _ => rfl) ws s

theorem applyWrites_row (s : State) (c : Cmd) (ws : List RowWrite) (q r : Nat) : accRow (applyWrites s c ws) q r = accRow s q r :=
  foldl_keeps (fun s => accRow s q r) (spadWritten c) (fun _ _ => rfl) ws s

/-- The blocks after the writes depend on the blocks before them alone. -/
theorem applyWrites_blocks {s t : State} (h : t.blocks = s.blocks) (c : Cmd) (ws : List RowWrite) :
    (applyWrites t c ws).blocks = (applyWrites s c ws).blocks := by
  rw [applyWrites_eq, applyWrites_eq]
  induction ws generalizing s t with
  | nil => exact h
  | cons x ws ih => exact ih (by simp only [spadWritten, State.modBlock, State.setBlock, State.block, h])

theorem blockKey_inj {g n m : Nat} (h : blockKey g n = blockKey g m) : n = m := Nat.add_left_cancel h

/-- A write leaves each byte of the grid's scratchpads that it does not cover. -/
theorem spadWritten_byte (c : Cmd) (s : State) (x : RowWrite) (n o : Nat)
    (hx : ¬ (x.off ≤ n * 2 ^ 22 + o ∧ n * 2 ^ 22 + o < x.off + x.bytes.length)) :
    readByte ((spadWritten c s x).block c.grid n).spad.bytes o = readByte (s.block c.grid n).spad.bytes o := by
  rw [spadWritten, State.modBlock_eq]
  by_cases hn : n = x.off / 2 ^ 22
  · subst hn
    rw [State.block_setBlock]
    simp only [Spad.write, Spad.useAll_bytes, readByte_writeBytes]
    exact if_neg (by omega)
  · rw [State.block_setBlock_ne _ _ (fun hk => hn (blockKey_inj hk))]

theorem applyWrites_byte (c : Cmd) (ws : List RowWrite) (s : State) (n o : Nat)
    (hx : ∀ x, x ∈ ws → ¬ (x.off ≤ n * 2 ^ 22 + o ∧ n * 2 ^ 22 + o < x.off + x.bytes.length)) :
    readByte ((applyWrites s c ws).block c.grid n).spad.bytes o = readByte (s.block c.grid n).spad.bytes o := by
  rw [applyWrites_eq]
  induction ws generalizing s with
  | nil => rfl
  | cons x ws ih =>
    rw [List.foldl_cons, ih _ (fun y hy => hx y (List.mem_cons_of_mem _ hy)), spadWritten_byte c s x n o (hx x List.mem_cons_self)]

/-- The writes of a command made, or a label fault delivered in their place. -/
def writesMade (s : State) (c : Cmd) (ws : List RowWrite) : State :=
  match checkWrites s c ws (writeGranules ws) with
  | (some (g, h), s) => deliver s c.warp 6 c.pc c.lanes (BitVec.ofNat 64 (64 * g % 2 ^ 22)) h
  | (none, s) => applyWrites s c ws

section
variable {s : State} {c : Cmd} {ws : List RowWrite}

/-- Where the labels allow them the writes are made, after joins. -/
theorem writesMade_made (h : (checkWrites s c ws (writeGranules ws)).1 = none) :
    writesMade s c ws = applyWrites (checkWrites s c ws (writeGranules ws)).2 c ws := by
  unfold writesMade
  generalize checkWrites s c ws (writeGranules ws) = r at h ⊢
  obtain ⟨e, t⟩ := r
  subst h
  rfl

/-- Else a fault is delivered, after joins. -/
theorem writesMade_fault {e : Nat × Label} (h : (checkWrites s c ws (writeGranules ws)).1 = some e) :
    writesMade s c ws = deliver (checkWrites s c ws (writeGranules ws)).2 c.warp 6 c.pc c.lanes (BitVec.ofNat 64 (64 * e.1 % 2 ^ 22)) e.2 := by
  unfold writesMade
  generalize checkWrites s c ws (writeGranules ws) = r at h ⊢
  obtain ⟨f, t⟩ := r
  subst h
  rfl

end

/-- What the writes of a command leave (R262): the rows, and every byte of scratchpad that they do not cover; where the labels allow them they are
made. -/
structure Wrote (c : Cmd) (ws : List RowWrite) (s t : State) : Prop where
  rows : ∀ q r, accRow t q r = accRow s q r
  made : (checkWrites s c ws (writeGranules ws)).1 = none → t.blocks = (applyWrites s c ws).blocks
  bytes : ∀ n o, (∀ x, x ∈ ws → ¬ (x.off ≤ n * 2 ^ 22 + o ∧ n * 2 ^ 22 + o < x.off + x.bytes.length)) →
    readByte (t.block c.grid n).spad.bytes o = readByte (s.block c.grid n).spad.bytes o

theorem writesMade_leaves (s : State) (c : Cmd) (ws : List RowWrite) :
    Calm s (writesMade s c ws) ∧ (writesMade s c ws).cmds = s.cmds ∧ Wrote c ws s (writesMade s c ws) := by
  have hcheck := checkWrites_near c ws (writeGranules ws) s
  have heng := Near.engines hcheck
  have hblock : ∀ t : State, t.blocks = s.blocks → ∀ g b, t.block g b = s.block g b := fun t ht g b => by simp only [State.block, ht]
  cases hf : (checkWrites s c ws (writeGranules ws)).1 with
  | none =>
    rw [writesMade_made hf]
    refine ⟨hcheck.1.calm.trans (applyWrites_calm ..), (applyWrites_cmds ..).trans (State.engines_cmds heng),
      fun q r => (applyWrites_row ..).trans (State.engines_row heng q r), fun _ => applyWrites_blocks (State.engines_blocks heng) c ws,
      fun n o hx => ?_⟩
    rw [applyWrites_byte c ws _ n o hx, hblock _ (State.engines_blocks heng)]
  | some e =>
    rw [writesMade_fault hf]
    have hall := (deliverTo_engines 64 (checkWrites s c ws (writeGranules ws)).2 c.warp
      ⟨6, c.pc, c.lanes, BitVec.ofNat 64 (64 * e.1 % 2 ^ 22), c.warp, e.2, none⟩).trans heng
    refine ⟨hcheck.1.calm.trans (deliver_calm ..), State.engines_cmds hall, State.engines_row hall, fun h => ?_, fun n o _ => ?_⟩
    · rw [hf] at h
      cases h
    · exact congrArg (fun b : Block => readByte b.spad.bytes o) (hblock _ (State.engines_blocks hall) c.grid n)

/-! MX_DONE (R246, R252, R256, R262). -/

/-- The half of the B latch that a command loads is complete. -/
def halfLoaded (s : State) (c : Cmd) (loads : Option Nat) : State :=
  match loads with
  | some h =>
    let (t, s) := freshStamp s
    s.modQuad c.quad (fun q =>
      let b := (q.halves[h]?).getD BHalf.empty
      { q with halves := setAt q.halves h { b with ready := true, order := t + 1 } })
  | none => s

theorem halfLoaded_calm (s : State) (c : Cmd) (loads : Option Nat) : Calm s (halfLoaded s c loads) := by
  cases loads with
  | none => exact Touches.refl s
  | some h => exact Calm.of_same rfl rfl rfl rfl rfl

theorem halfLoaded_cmds (s : State) (c : Cmd) (loads : Option Nat) : (halfLoaded s c loads).cmds = s.cmds := by cases loads <;> rfl
theorem halfLoaded_blocks (s : State) (c : Cmd) (loads : Option Nat) : (halfLoaded s c loads).blocks = s.blocks := by cases loads <;> rfl

theorem halfLoaded_row (s : State) (c : Cmd) (loads : Option Nat) (q r : Nat) : accRow (halfLoaded s c loads) q r = accRow s q r := by
  unfold halfLoaded
  split
  · exact modQuad_row { s with stamp := s.stamp + 1 } ..
  · rfl

/-- The package after MX_DONE of a command. -/
def doneMx (s : State) (c : Cmd) (base : Nat) (flags : BitVec 8) (flagLbl : Label) (ws : List RowWrite) (loads : Option Nat) : State :=
  cmdEntry (halfLoaded (setFlags (writesMade (endCmd s c) c ws) c.warp flags flagLbl) c loads) c 0 (mxToken c.tag base flags true)
    (if flags = 0#8 then 0#8 else flagLbl)

theorem doneMx_leaves (s : State) (c : Cmd) (base : Nat) (flags : BitVec 8) (flagLbl : Label) (ws : List RowWrite) (loads : Option Nat) :
    Quiet s (doneMx s c base flags flagLbl ws loads) ∧ (doneMx s c base flags flagLbl ws loads).cmds.get? c.id = none ∧
      Wrote c ws s (doneMx s c base flags flagLbl ws loads) := by
  obtain ⟨hcalm, hcmds, hrows, hmade, hbytes⟩ := writesMade_leaves (endCmd s c) c ws
  have hflags := setFlags_engines (writesMade (endCmd s c) c ws) c.warp flags flagLbl
  have hentry := cmdEntry_engines (halfLoaded (setFlags (writesMade (endCmd s c) c ws) c.warp flags flagLbl) c loads) c 0
    (mxToken c.tag base flags true) (if flags = 0#8 then 0#8 else flagLbl)
  have hblocks : (doneMx s c base flags flagLbl ws loads).blocks = (writesMade (endCmd s c) c ws).blocks :=
    (State.engines_blocks hentry).trans ((halfLoaded_blocks ..).trans (State.engines_blocks hflags))
  refine ⟨?_, ?_, fun q r => ?_, fun hnone => ?_, fun n o hx => ?_⟩
  · exact (Calm.quiet ((((cmds_calm s _).trans hcalm).trans (setFlags_calm ..)).trans (halfLoaded_calm ..))).trans (cmdEntry_quiet ..)
  · rw [doneMx, State.engines_cmds hentry, halfLoaded_cmds, State.engines_cmds hflags, hcmds]
    exact SMap.get?_erase_self ..
  · exact (State.engines_row hentry q r).trans ((halfLoaded_row ..).trans ((State.engines_row hflags q r).trans (hrows q r)))
  · have hcheck := (checkWrites_setCmds c ws (writeGranules ws) s (s.cmds.erase c.id)).trans hnone
    exact hblocks.trans ((hmade hcheck).trans (applyWrites_blocks (s := s) (t := endCmd s c) rfl c ws))
  · refine .trans ?_ (hbytes n o hx)
    simp only [State.block, hblocks]

theorem done_completes (s : State) (k : Nat) (c : Cmd) {a b : Nat} {f : BitVec 8} {g : Label} {h : List RowWrite} {u l : Option Nat}
    {r : List Nat} (hc : s.cmds.get? k = some c) (hop : c.op = .mx a b f g h u l r) (hid : c.id = k) (hcons : c.consumed = true)
    (hheld : heldForVerdict s k = false) :
    ∃ t, Completes (.mx_done k) s t ∧ Quiet s t ∧ t.cmds.get? k = none ∧ (∀ r, accRow t c.quad r = accRow s c.quad r) ∧
      ((checkWrites s c h (writeGranules h)).1 = none → ∀ n, (t.block c.grid n).spad = ((applyWrites s c h).block c.grid n).spad) ∧
      ∀ n o, o < 2 ^ 22 → (∀ x, x ∈ h → ¬ (x.off ≤ n * 2 ^ 22 + o ∧ n * 2 ^ 22 + o < x.off + x.bytes.length)) →
        readByte (t.block c.grid n).spad.bytes o = readByte (s.block c.grid n).spad.bytes o := by
  have hrun : exec (.mx_done k) s = did (doneMx s c b f g h l) := by
    change execMxDone k s = _
    unfold execMxDone
    rw [hc]
    dsimp only
    rw [hop]
    dsimp only
    rw [if_neg (by simp [hcons, hheld]), doneMx]
    by_cases hf : f = 0#8
    · rw [if_pos hf, if_pos hf]
      rfl
    · rw [if_neg hf, if_neg hf]
      rfl
  obtain ⟨hquiet, hcmds, hrows, hmade, hbytes⟩ := doneMx_leaves s c b f g h l
  refine ⟨_, completes_did hrun, hquiet.trans (report_quiet ..), hid ▸ hcmds, hrows c.quad, fun hnone n => ?_, fun n o _ => hbytes n o⟩
  have hblocks := hmade hnone
  simp only [State.block, hblocks]

/-- Settles O46: the latch is left or entered by the body of the operation (`jointBody_released`, `jointBody_enters`), no two lanes of a gang name one
row (`gather_nodup`), so that each row is computed from what it held, and the events of a command are followed to their ends. That a released
operation is issued again, and then completes, is the model's reading (log entries 75, 76). -/
theorem jointOperations : Obligations.JointOperations := by
  unfold Obligations.JointOperations
  refine ⟨fun sparse p w x h => ?_, fun s q m ms hfirst => ?_, fun s k c a b f g h u l r hc hop hid hcons => consumed_completes s k c hc hop hid hcons,
    fun s k c a b f g h u l r hc hop hid hcons hheld => done_completes s k c hc hop hid hcons hheld⟩
  · have hi : ∀ s, exec (if sparse then .mx_mmas p w x else .mx_mma p w x) s = issue p true s (fun c => jointBody c sparse w x) := by
      cases sparse with
      | true => exact fun s => by change execMxMmas p w x s = _; unfold execMxMmas; rw [show WF.mx_mmas p w x = true from h]
      | false => exact fun s => by change execMxMma p w x s = _; unfold execMxMma; rw [show WF.mx_mma p w x = true from h]
    have hp : WF.acc0.ok p = true := by
      cases sparse with
      | true => exact wf_acc0 h
      | false => exact wf_acc0 h
    exact ⟨joint_completes hp hi, fun s u m s1 hpass hprobe hfind => joint_enters hi hpass hprobe hfind⟩
  · obtain ⟨t, hdone, hquiet, hleaves⟩ := release_completes s q m ms hfirst
    refine ⟨t, hdone, hquiet, fun ga hg hf hs hrows => ?_⟩
    obtain ⟨hnamed, hothers, hmembers⟩ := hleaves ga hg hf hs hrows
    exact ⟨hnamed, hothers, hmembers⟩

end Sys2Proof.Machine
end
